-- ==== Sys2Proof/Word.lean ====
section
/-! DEFINITION. The word, byte and table types of the model (spec 07 R99, 00 R4). -/

namespace Sys2Proof

/-- A 32-bit register value. -/
abbrev Word := BitVec 32

/-- A byte of memory. -/
abbrev Byte := BitVec 8

/-- A fixed number of like things: a register file, the lanes of a register, the slices of a warp. -/
abbrev Tab (n : Nat) (α : Type) := Vector α n

/-- The table whose entry `i` is `f i`. -/
def tab {n : Nat} {α : Type} (f : Fin n → α) : Tab n α := Vector.ofFn f

/-- Entry `i` of a table. -/
def Tab.at {n : Nat} {α : Type} (t : Tab n α) (i : Fin n) : α := t[i]

/-- The table with entry `i` replaced. -/
def Tab.put {n : Nat} {α : Type} (t : Tab n α) (i : Fin n) (x : α) : Tab n α :=
  tab fun j => if j = i then x else t.at j

@[simp] theorem tab_at {n : Nat} {α : Type} (f : Fin n → α) (i : Fin n) : (tab f).at i = f i := by
  simp [tab, Tab.at]

@[simp] theorem Tab.put_at {n : Nat} {α : Type} (t : Tab n α) (i j : Fin n) (x : α) :
    (t.put i x).at j = if j = i then x else t.at j := by simp [Tab.put]

end Sys2Proof
end

