-- ==== Sys2Proof/Config.lean ====
section
/-! DEFINITION. What an implementation fixes, and the free values: opaque constants without a body, for results that the
spec leaves open (DESIGN CHOICE: assumption log 9, 18, 23). Nothing in Lean evaluates them. -/

namespace Sys2Proof.Config

/-- A fresh value for a register or pointer that the spec leaves undefined (19 R344), indexed by the counter `free`. -/
opaque freeWord : Nat → Word

/-- The bits that 10 R196 leaves open inside the bound of VFRSQ. -/
opaque freeRsq : Word → Word
/-- The bits that 10 R196 leaves open inside the bound of VFEXP2. -/
opaque freeExp2 : Word → Word
/-- The bits that 10 R196 leaves open inside the bound of VFLOG2. -/
opaque freeLog2 : Word → Word
/-- The bits that 10 R196 leaves open inside the bound of VFSIN. -/
opaque freeSin : Word → Word
/-- The bits that 10 R196 leaves open inside the bound of VFCOS. -/
opaque freeCos : Word → Word
/-- The bits that 10 R196 leaves open inside the bound of VFTANH. -/
opaque freeTanh : Word → Word

/-- Byte `i` of the SHA-256 of the boot ROM identity and fuses: bytes 32 to 63 of the attestation report (23 R396). -/
opaque freeRom : Nat → Byte
/-- Byte `i` of the signature of the attestation report over the 128 bytes given as a number (23 R396). -/
opaque freeSignature : Nat → Nat → Byte
/-- Byte `i` of the certificate of the device's key (23 R396). -/
opaque freeCertificate : Nat → Byte
/-- Whether the signature of an image verifies against a key (23 R395). -/
opaque freeVerify : Nat → List Byte → Nat → Bool
/-- The nominal frequency of an island in kHz, where 01 R22 gives none (23 R397). -/
opaque freeFrequency : Nat → Nat

/-- The temperature in °C of an island, or of die k at 1,024 + k, before one has been measured (23 R397). -/
opaque freeTemperature : Nat → Nat

/-- 01 R13: SIMT cores on a die. -/
def coresPerDie : Nat := 24
/-- 01 R15: warps resident on a core. -/
def warpsPerCore : Nat := 64
/-- 01 R15: scratch frames of 4 KiB in a core. -/
def framesPerCore : Nat := 128
/-- 03 R43: barrier units of a core. -/
def barrierUnits : Nat := 64
/-- 01 R15: range-table entries. -/
def rangeTable : Nat := 64
/-- 01 R15: lines of an L1 of 128 KiB. -/
def l1Lines : Nat := 1024
/-- 01 R13: lines of a die L2 of 64 MiB. -/
def l2Lines : Nat := 524288
/-- 01 R17: lines of a cache-die slice of 16 MiB. -/
def sliceLines : Nat := 131072
/-- 01 R15: instructions of a sequencer cluster's loop buffer. -/
def loopBuffer : Nat := 256
/-- 13 R242: descriptors of a die's range directory cache. -/
def directoryCache : Nat := 16384
/-- 05 R95: scale-cache lines. -/
def scaleLines : Nat := 256
/-- 12 R225: entries at which the open epoch closes. -/
def dirtyLimit : Nat := 49152
/-- 12 R225: cycles after its first write at which the open epoch closes. -/
def epochCycles : Nat := 4096
/-- 12 R226: entries of a signature log. -/
def logEntries : Nat := 64
/-- 18 R315: cycles without issue after which a ready gang is aged. -/
def agedCycles : Nat := 512
/-- 21 R366: handlers of one context that run at once. -/
def handlerLimit : Nat := 64
/-- 19 R347: posted, incomplete operations of one engine kind on one die. -/
def engineLimit : Nat := 1024
/-- 14 R288: requests the press holds. -/
def pressLimit : Nat := 8
/-- 13 R238: ranges of a context. -/
def rangeLimit : Nat := 1048576
/-- 18 R318: pipe records of a package. -/
def pipeLimit : Nat := 4096
/-- 03 R55: instructions of a melded region. -/
def meldLimit : Nat := 256
/-- 01 R28: contexts of a partition. -/
def contextLimit : Nat := 64

/-- The place of the trap-area entries in a context's save area, behind room for 65,535 stop records; Nimom's choice (21 R366, R370;
DESIGN CHOICE: assumption log 17). -/
def trapOffset : Nat := 0x400000
/-- Granules of the structures that Nimom keeps for a context (18 R335): the quota table, the range directory and a save area of 8 MiB. -/
def nimomGranules : Nat := 130

end Sys2Proof.Config
end

