-- ==== Sys2Proof/Syntax.lean ====
section
/-! DEFINITION. The syntax of Felog: one constructor per row of spec/opcode_table.json, encoded instructions with their
operands and the events and commands with the choices they take. -/

namespace Sys2Proof

/-- A 7-bit source field (07 R112). -/
inductive Src where
  /-- v0 to v63, renamed inside a melded region. -/
  | v (n : Fin 64)
  /-- s0 to s31. -/
  | s (n : Fin 32)
  /-- b0 to b3, the bypass latches. -/
  | b (n : Fin 4)
  /-- k0 to k3, the path constants. -/
  | k (n : Fin 4)
  /-- The inline constant code - 120 for code 112 + n, that is n - 8. -/
  | c (n : Fin 16)
deriving DecidableEq, Repr

/-- A vector destination with its W bit (07 R104, R113, R114). -/
structure Dst where
  w : Bool
  n : Fin 64
deriving DecidableEq, Repr

/-- A scalar destination with its W bit (07 R113, R114). -/
structure SDst where
  w : Bool
  n : Fin 32
deriving DecidableEq, Repr

/-- The destination of SYSR: field b is 0 for a vector and 1 for a scalar one (09 R180). -/
inductive SysDst where
  | vec (d : Dst)
  | scal (d : SDst)
deriving DecidableEq, Repr

/-- Rounding modes (05 R83). -/
inductive Rm where
  | rne | rtz | rdn | rup
deriving DecidableEq, Repr

/-- Integer conditions (07 R113). -/
inductive ICond where
  | eq | ne | lt | le | gt | ge | ltu | leu | gtu | geu
deriving DecidableEq, Repr

/-- Float conditions (07 R113). -/
inductive FCond where
  | eq | ne | lt | le | gt | ge | ord | uno
deriving DecidableEq, Repr

/-- Scopes, in code order (07 R113, 12 R222). -/
inductive Scope where
  | lane | warp | team | die | pkg | sys
deriving DecidableEq, Repr

/-- In-flight counters as WAITP names them (07 R113). -/
inductive Path where
  | ifs | ifg | ift | ife
deriving DecidableEq, Repr

/-- The masks of class 7 (07 R113). -/
inductive MaskName where
  | exec | cm
deriving DecidableEq, Repr

/-- The combinations of VRED and VSCAN (10 R208). -/
inductive RedOp where
  | add | min | max | minU | maxU | and | or | xor | fadd | fmin | fmax
deriving DecidableEq, Repr

/-- The operations of ATOM and ATOMS (14 R271). -/
inductive AtomOp where
  | add | min | max | and | or | xor | exch | cas | fadd
deriving DecidableEq, Repr

/-- One case of a SWITCH (07 R109). -/
structure SwCase where
  v : Fin 64
  off : BitVec 10
deriving DecidableEq, Repr

/-- The causes of the illegal-instruction trap, 0x01 to 0x13 (21 R360). -/
inductive Illegal where
  | unassigned | reservedField | reservedOperand | aboveV | privilege | latch | meld | limm | oddTarget | shape
  | scale | formatPair | coresidency | engine | ring | ringState | pipe | pipeState | graph
deriving DecidableEq, Repr

/-- A link that can fail: a ring link, a spoke, the pass-through switch of a disabled die (23 R383, R384), a UALink port or the PCIe
link to the host (21 R376). -/
inductive LinkName where
  | ring (i : Fin 8) | spoke (i : Fin 8) | pass (i : Fin 8) | ualink (port : Fin 32) | pcie
deriving DecidableEq, Repr

/-- What a corrected error was found in (23 R397). -/
inductive EccKind where
  | register | sram | link
deriving DecidableEq, Repr

/-- What a read of the host or over the sideband names (23 R386, R391, R395 to R397, 25 R401): memory in BAR 2, a register of BAR 0
by its offset, and what has no stated offset: a counter of corrected errors, a temperature, the frequency of an island, the
certificate, the refusal of an image, whether a die has halted, and the die L2 of a halted die. -/
inductive HostAddr where
  | memory (pa : Nat) | register (offset : Nat) | errors (die : Fin 8) (c : EccKind) | temperature (island : Fin 1024)
  | dieTemperature (die : Nat) | frequency (island : Fin 1024) | certificate | refusal | halted (die : Nat) | dieMemory (die key : Nat)
deriving DecidableEq, Repr

/-- A slice of a warp of a team. -/
structure WarpSlice where
  w : Nat
  slice : Fin 8
deriving DecidableEq, Repr

/-- An island (01 R23) and the frequency in kHz to which it is lowered. -/
structure IslandSpeed where
  island : Fin 1024
  freq : Nat
deriving DecidableEq, Repr

/-- An image that the boot ROM verifies (23 R395). -/
structure BootImage where
  version : Nat
  bytes : List Byte
  signature : Nat
deriving DecidableEq, Repr

/-- The instructions, events and commands of the T8. -/
inductive Instr where
  /-- R188. -/
  | vadd (d : Dst) (a : Src) (b : Src)
  /-- R188. -/
  | vaddImm (d : Dst) (a : Src) (i : Fin 128)
  /-- R188. -/
  | vsub (d : Dst) (a : Src) (b : Src)
  /-- R188. -/
  | vmul (d : Dst) (a : Src) (b : Src)
  /-- R188. -/
  | vmulImm (d : Dst) (a : Src) (i : Fin 128)
  /-- R188. -/
  | vmulh (d : Dst) (a : Src) (b : Src)
  /-- R188. -/
  | vmulhU (d : Dst) (a : Src) (b : Src)
  /-- R189. -/
  | vmad (d : Dst) (a : Src) (b : Src)
  /-- R188. -/
  | vand (d : Dst) (a : Src) (b : Src)
  /-- R188. -/
  | vandImm (d : Dst) (a : Src) (i : Fin 128)
  /-- R188. -/
  | vor (d : Dst) (a : Src) (b : Src)
  /-- R188. -/
  | vorImm (d : Dst) (a : Src) (i : Fin 128)
  /-- R188. -/
  | vxor (d : Dst) (a : Src) (b : Src)
  /-- R188. -/
  | vxorImm (d : Dst) (a : Src) (i : Fin 128)
  /-- R188. -/
  | vshl (d : Dst) (a : Src) (b : Src)
  /-- R188. -/
  | vshlImm (d : Dst) (a : Src) (i : Fin 128)
  /-- R188. -/
  | vsrl (d : Dst) (a : Src) (b : Src)
  /-- R188. -/
  | vsrlImm (d : Dst) (a : Src) (i : Fin 128)
  /-- R188. -/
  | vsra (d : Dst) (a : Src) (b : Src)
  /-- R188. -/
  | vsraImm (d : Dst) (a : Src) (i : Fin 128)
  /-- R188. -/
  | vmin (d : Dst) (a : Src) (b : Src)
  /-- R188. -/
  | vminImm (d : Dst) (a : Src) (i : Fin 128)
  /-- R188. -/
  | vminU (d : Dst) (a : Src) (b : Src)
  /-- R188. -/
  | vminUImm (d : Dst) (a : Src) (i : Fin 128)
  /-- R188. -/
  | vmax (d : Dst) (a : Src) (b : Src)
  /-- R188. -/
  | vmaxImm (d : Dst) (a : Src) (i : Fin 128)
  /-- R188. -/
  | vmaxU (d : Dst) (a : Src) (b : Src)
  /-- R188. -/
  | vmaxUImm (d : Dst) (a : Src) (i : Fin 128)
  /-- R190. -/
  | vabs (d : Dst) (a : Src)
  /-- R190. -/
  | vclz (d : Dst) (a : Src)
  /-- R190. -/
  | vpopc (d : Dst) (a : Src)
  /-- R190. -/
  | vbrev (d : Dst) (a : Src)
  /-- R193. -/
  | vsel (d : Dst) (a : Src) (b : Src)
  /-- R191. -/
  | vsat (d : Dst) (a : Src) (b : Src)
  /-- R191. -/
  | vsatImm (d : Dst) (a : Src) (i : Fin 128)
  /-- R192. -/
  | vcmp (c : ICond) (a : Src) (b : Src)
  /-- R192. -/
  | vcmpImm (c : ICond) (a : Src) (i : Fin 128)
  /-- R194. -/
  | vfadd (d : Dst) (a : Src) (b : Src) (m : Rm)
  /-- R194. -/
  | vfsub (d : Dst) (a : Src) (b : Src) (m : Rm)
  /-- R194. -/
  | vfmul (d : Dst) (a : Src) (b : Src) (m : Rm)
  /-- R195. -/
  | vfmin (d : Dst) (a : Src) (b : Src)
  /-- R195. -/
  | vfmax (d : Dst) (a : Src) (b : Src)
  /-- R195. -/
  | vfabs (d : Dst) (a : Src)
  /-- R195. -/
  | vfneg (d : Dst) (a : Src)
  /-- R196. -/
  | vfrcp (d : Dst) (a : Src)
  /-- R196. -/
  | vfrsq (d : Dst) (a : Src)
  /-- R196. -/
  | vfexp2 (d : Dst) (a : Src)
  /-- R196. -/
  | vflog2 (d : Dst) (a : Src)
  /-- R196. -/
  | vfsin (d : Dst) (a : Src)
  /-- R196. -/
  | vfcos (d : Dst) (a : Src)
  /-- R196. -/
  | vftanh (d : Dst) (a : Src)
  /-- R197. -/
  | vfcmp (c : FCond) (a : Src) (b : Src)
  /-- R198. -/
  | vfmaF32 (d : Dst) (a : Src) (b : Src) (na : Bool) (np : Bool) (m : Rm)
  /-- R198. -/
  | vfmaH2 (d : Dst) (a : Src) (b : Src) (na : Bool) (np : Bool) (m : Rm)
  /-- R198. -/
  | vfmaB2 (d : Dst) (a : Src) (b : Src) (na : Bool) (np : Bool) (m : Rm)
  /-- R199. -/
  | vcvtF32I32 (d : Dst) (a : Src) (m : Rm)
  /-- R199. -/
  | vcvtI32F32 (d : Dst) (a : Src) (m : Rm)
  /-- R199. -/
  | vcvtF16F32 (d : Dst) (a : Src) (m : Rm)
  /-- R199. -/
  | vcvtBf16F32 (d : Dst) (a : Src) (m : Rm)
  /-- R199. -/
  | vcvtF32F16 (d : Dst) (a : Src)
  /-- R199. -/
  | vcvtF32Bf16 (d : Dst) (a : Src)
  /-- R200. -/
  | vpackH2 (d : Dst) (a : Src) (b : Src) (m : Rm)
  /-- R200. -/
  | vpackB2 (d : Dst) (a : Src) (b : Src) (m : Rm)
  /-- R200. -/
  | vpackI16 (d : Dst) (a : Src) (b : Src)
  /-- R201. -/
  | vunpk (d : Dst) (a : Src) (b : Src) (u : Fin 8)
  /-- R202. -/
  | vqnt (d : Dst) (a : Src) (i : Fin 128)
  /-- R202. -/
  | vdqnt (d : Dst) (a : Src) (i : Fin 128)
  /-- R203. -/
  | vmov (d : Dst) (a : Src)
  /-- R203. -/
  | vmovk (d : Dst) (i : Fin 128)
  /-- R203. -/
  | vmovs (d : SDst) (a : Src) (b : Src)
  /-- R205. -/
  | vvote (d : Dst) (a : Src) (b : Src) (u : Fin 4)
  /-- R206. -/
  | vshfl (d : Dst) (a : Src) (b : Src) (u : Fin 4)
  /-- R206. -/
  | vshflImm (d : Dst) (a : Src) (i : Fin 128) (u : Fin 4)
  /-- R207. -/
  | vbcast (d : Dst) (a : Src) (b : Src)
  /-- R207. -/
  | vbcastImm (d : Dst) (a : Src) (i : Fin 128)
  /-- R210. -/
  | setpart (b : Src)
  /-- R210. -/
  | setpartImm (i : Fin 128)
  /-- R208. -/
  | vred (d : Dst) (a : Src) (o : RedOp)
  /-- R209. -/
  | vscan (d : Dst) (a : Src) (o : RedOp)
  /-- R158. -/
  | sadd (d : SDst) (a : Src) (b : Src)
  /-- R158. -/
  | saddImm (d : SDst) (a : Src) (i : Fin 128)
  /-- R158. -/
  | ssub (d : SDst) (a : Src) (b : Src)
  /-- R158. -/
  | smul (d : SDst) (a : Src) (b : Src)
  /-- R158. -/
  | smulImm (d : SDst) (a : Src) (i : Fin 128)
  /-- R158. -/
  | smulh (d : SDst) (a : Src) (b : Src)
  /-- R158. -/
  | smulhU (d : SDst) (a : Src) (b : Src)
  /-- R159. -/
  | sdiv (d : SDst) (a : Src) (b : Src)
  /-- R159. -/
  | sdivU (d : SDst) (a : Src) (b : Src)
  /-- R159. -/
  | srem (d : SDst) (a : Src) (b : Src)
  /-- R159. -/
  | sremU (d : SDst) (a : Src) (b : Src)
  /-- R158. -/
  | sand (d : SDst) (a : Src) (b : Src)
  /-- R158. -/
  | sandImm (d : SDst) (a : Src) (i : Fin 128)
  /-- R158. -/
  | sor (d : SDst) (a : Src) (b : Src)
  /-- R158. -/
  | sorImm (d : SDst) (a : Src) (i : Fin 128)
  /-- R158. -/
  | sxor (d : SDst) (a : Src) (b : Src)
  /-- R158. -/
  | sxorImm (d : SDst) (a : Src) (i : Fin 128)
  /-- R158. -/
  | sshl (d : SDst) (a : Src) (b : Src)
  /-- R158. -/
  | sshlImm (d : SDst) (a : Src) (i : Fin 128)
  /-- R158. -/
  | ssrl (d : SDst) (a : Src) (b : Src)
  /-- R158. -/
  | ssrlImm (d : SDst) (a : Src) (i : Fin 128)
  /-- R158. -/
  | ssra (d : SDst) (a : Src) (b : Src)
  /-- R158. -/
  | ssraImm (d : SDst) (a : Src) (i : Fin 128)
  /-- R158. -/
  | smin (d : SDst) (a : Src) (b : Src)
  /-- R158. -/
  | sminU (d : SDst) (a : Src) (b : Src)
  /-- R158. -/
  | smax (d : SDst) (a : Src) (b : Src)
  /-- R158. -/
  | smaxU (d : SDst) (a : Src) (b : Src)
  /-- R162. -/
  | ssel (d : SDst) (a : Src) (b : Src)
  /-- R158. -/
  | smov (d : SDst) (a : Src)
  /-- R160. -/
  | saddD (d : Fin 32) (a : Src) (b : Src)
  /-- R160. -/
  | saddDImm (d : Fin 32) (a : Src) (i : Fin 128)
  /-- R161. -/
  | scmp (c : ICond) (a : Src) (b : Src)
  /-- R161. -/
  | scmpImm (c : ICond) (a : Src) (i : Fin 128)
  /-- R158. -/
  | sli (d : SDst) (i : Fin 128)
  /-- R164. -/
  | bra (o : BitVec 16)
  /-- R165. -/
  | brc (o : BitVec 16)
  /-- R165. -/
  | brcN (o : BitVec 16)
  /-- R166. -/
  | switch (d : Fin 64) (cs : List SwCase)
  /-- R167. -/
  | jmp (x : Fin 32)
  /-- R168. -/
  | call (o : BitVec 16) (x : Fin 32)
  /-- R168. -/
  | ret (x : Fin 32)
  /-- R169. -/
  | loop (o : BitVec 16) (x : Fin 32) (l : Fin 3)
  /-- R171. -/
  | lbrk (x : Fin 32)
  /-- R51. -/
  | regangW
  /-- R172. -/
  | regangN
  /-- R58. -/
  | exit
  /-- R175. -/
  | nop
  /-- R62. -/
  | yield
  /-- R177. -/
  | msave (d : SDst) (mk : MaskName)
  /-- R177. -/
  | mrest (mk : MaskName) (a : Src)
  /-- R177. -/
  | mand (mk : MaskName) (a : Src)
  /-- R177. -/
  | mor (mk : MaskName) (a : Src)
  /-- R177. -/
  | mandn (mk : MaskName) (a : Src)
  /-- R177. -/
  | mxor (mk : MaskName) (a : Src)
  /-- R177. -/
  | mset (mk : MaskName) (a : Src)
  /-- R177. -/
  | mpop (d : SDst) (mk : MaskName)
  /-- R177. -/
  | mfirst (d : SDst) (mk : MaskName)
  /-- R211. -/
  | meld (four : Bool) (a : Src) (b : Src)
  /-- R212. -/
  | melde
  /-- R213. -/
  | mtw (d : Fin 64) (i : Fin 128)
  /-- R213. -/
  | mtr (d : SDst) (a : Src)
  /-- R213. -/
  | kset (k : Fin 16) (b : Src)
  /-- R213. -/
  | ksetImm (k : Fin 16) (i : Fin 128)
  /-- R262. -/
  | ld (d : Fin 64) (a : Src) (b : Src) (z : Fin 4)
  /-- R262. -/
  | ldSigned (d : Fin 64) (a : Src) (b : Src) (z : Fin 2)
  /-- R262. -/
  | st (d : Fin 64) (a : Src) (b : Src) (z : Fin 4)
  /-- R263. -/
  | lds (d : Fin 32) (a : Src) (b : Src) (z : Bool)
  /-- R263. -/
  | sts (d : Fin 32) (a : Src) (b : Src) (z : Bool)
  /-- R262. -/
  | spld (d : Fin 64) (a : Src) (b : Src) (z : Fin 4)
  /-- R262. -/
  | spldSigned (d : Fin 64) (a : Src) (b : Src) (z : Fin 2)
  /-- R262. -/
  | spst (d : Fin 64) (a : Src) (b : Src) (z : Fin 4)
  /-- R268. -/
  | tld (h : Fin 32) (rk : Fin 7) (cb : Fin 64) (d : Fin 64) (z : Fin 4)
  /-- R268. -/
  | tst (h : Fin 32) (rk : Fin 7) (cb : Fin 64) (d : Fin 64) (z : Fin 4)
  /-- R270. -/
  | pref (a : Src) (b : Src)
  /-- R267. -/
  | shpld (h : Fin 32) (a : Src)
  /-- R267. -/
  | shpinv (h : Fin 32)
  /-- R271. -/
  | atomDie (d : Fin 64) (a : Src) (b : Src) (x : Bool) (o : AtomOp)
  /-- R271. -/
  | atomPkg (d : Fin 64) (a : Src) (b : Src) (x : Bool) (o : AtomOp)
  /-- R271. -/
  | atomSys (d : Fin 64) (a : Src) (b : Src) (x : Bool) (o : AtomOp)
  /-- R271. -/
  | atoms (d : Fin 64) (a : Src) (b : Src) (x : Bool) (o : AtomOp)
  /-- R274. -/
  | fence (sc : Scope)
  /-- R274. -/
  | rel (sc : Scope)
  /-- R274. -/
  | acq (sc : Scope)
  /-- R275. -/
  | lda32 (d : Fin 64) (a : Src) (sc : Scope)
  /-- R275. -/
  | lda64 (d : Fin 64) (a : Src) (sc : Scope)
  /-- R275. -/
  | stl32 (d : Fin 64) (a : Src) (sc : Scope)
  /-- R275. -/
  | stl64 (d : Fin 64) (a : Src) (sc : Scope)
  /-- R276. -/
  | waitp (p : Path) (a : Src)
  /-- R276. -/
  | cntr (d : Fin 32)
  /-- R278. -/
  | bar (a : Src) (b : Src)
  /-- R278. -/
  | bara (a : Src) (b : Src)
  /-- R278. -/
  | barw (a : Src)
  /-- R279. -/
  | dbar
  /-- R279. -/
  | gbar
  /-- R281. -/
  | cwait (d : Fin 32) (a : Src) (b : Src)
  /-- R282. -/
  | csig (a : Src) (b : Src)
  /-- R297. -/
  | mma (vb : Fin 64) (va : Fin 64) (vf : Fin 64) (vc : Fin 64) (q0 : Bool)
  /-- R300. -/
  | mmas (vb : Fin 64) (va : Fin 64) (vf : Fin 64) (vc : Fin 64) (q0 : Bool)
  /-- R304. -/
  | mzero (d : Fin 64)
  /-- R304. -/
  | mcvtH2 (d : Fin 64) (a : Src) (m : Rm)
  /-- R304. -/
  | mcvtB2 (d : Fin 64) (a : Src) (m : Rm)
  /-- R304. -/
  | mcvtF32 (d : Fin 64) (a : Src) (m : Rm)
  /-- R304. -/
  | mcvtI32 (d : Fin 64) (a : Src) (m : Rm)
  /-- R305. -/
  | msclB (a : Src) (b : Src)
  /-- R306. -/
  | msclP (a : Src) (b : Src)
  /-- R345. -/
  | ersetBind (a : Src) (b : Src)
  /-- R345. -/
  | ersetFree (a : Src)
  /-- R345. -/
  | ersetPush (a : Src) (b : Src)
  /-- R345. -/
  | ersetPop (a : Src) (b : Src)
  /-- R345. -/
  | ersetWaitf (a : Src) (b : Src)
  /-- R345. -/
  | ersetWaite (a : Src) (b : Src)
  /-- R347. -/
  | ecopy (a : Src)
  /-- R350. -/
  | egath (a : Src)
  /-- R350. -/
  | escat (a : Src)
  /-- R349. -/
  | ered (a : Src)
  /-- R350. -/
  | ebcast (a : Src)
  /-- R353. -/
  | prsv (d : Fin 32) (a : Src)
  /-- R353. -/
  | pcmt (a : Src) (b : Src)
  /-- R353. -/
  | pacq (d : Fin 32) (a : Src)
  /-- R353. -/
  | prel (a : Src) (b : Src)
  /-- R353. -/
  | ptryR (d : Fin 32) (a : Src)
  /-- R353. -/
  | ptryA (d : Fin 32) (a : Src)
  /-- R355. -/
  | pstat (d : Fin 32) (a : Src)
  /-- R356. -/
  | pmsg (a : Src) (b : Src)
  /-- R356. -/
  | precv (d : Fin 32) (a : Src) (b : Src)
  /-- R357. -/
  | klaunch (d : Fin 32) (a : Src) (b : Src)
  /-- R357. -/
  | glaunch (d : Fin 32) (a : Src) (b : Src)
  /-- R358. -/
  | gcond (a : Src) (b : Src)
  /-- R284. -/
  | rsplit (d : Fin 32) (a : Src)
  /-- R284. -/
  | rmerge (d : Fin 32) (a : Src)
  /-- R284. -/
  | rprot (d : Fin 32) (a : Src) (b : Src)
  /-- R285. -/
  | rinval (sc : Scope) (a : Src) (b : Src)
  /-- R286. -/
  | rprobe (d : Fin 32) (a : Src)
  /-- R287. -/
  | rres (d : Fin 32) (a : Src) (b : Src)
  /-- R288. -/
  | rpress (d : Fin 32) (a : Src)
  /-- R290. -/
  | cwb (sc : Scope) (a : Src) (b : Src)
  /-- R290. -/
  | cinv (sc : Scope) (a : Src) (b : Src)
  /-- R178. -/
  | trap (a : Src)
  /-- R179. -/
  | bkpt
  /-- R180. -/
  | sysr (n : Fin 128) (d : SysDst)
  /-- R181. -/
  | sysw (n : Fin 128) (b : Src)
  /-- R181. -/
  | syswImm (n : Fin 128) (i : Fin 128)
  /-- R183. -/
  | ilbf
  /-- R111. -/
  | limm (p : BitVec 25)
  /-- R102. -/
  | vaddShort (d : Fin 64) (s : Fin 32)
  /-- R102. -/
  | vsubShort (d : Fin 64) (s : Fin 32)
  /-- R102. -/
  | vandShort (d : Fin 64) (s : Fin 32)
  /-- R102. -/
  | vorShort (d : Fin 64) (s : Fin 32)
  /-- R102. -/
  | vxorShort (d : Fin 64) (s : Fin 32)
  /-- R102. -/
  | vshlShort (d : Fin 64) (s : Fin 32)
  /-- R102. -/
  | vsrlShort (d : Fin 64) (s : Fin 32)
  /-- R102. -/
  | vsraShort (d : Fin 64) (s : Fin 32)
  /-- R102. -/
  | vminShort (d : Fin 64) (s : Fin 32)
  /-- R102. -/
  | vmaxShort (d : Fin 64) (s : Fin 32)
  /-- R102. -/
  | vfaddShort (d : Fin 64) (s : Fin 32)
  /-- R102. -/
  | vfsubShort (d : Fin 64) (s : Fin 32)
  /-- R102. -/
  | vfmulShort (d : Fin 64) (s : Fin 32)
  /-- R102. -/
  | vmovShort (d : Fin 64) (s : Fin 32)
  /-- R102. -/
  | vaddi (d : Fin 64) (i : Fin 32)
  /-- R102. -/
  | vneg (d : Fin 64) (s : Fin 32)
  /-- R121: An unassigned, reserved or malformed instruction word raises the precise illegal-instruction trap. -/
  | illegalInstruction (cause : Illegal) (iword : Nat)
  /-- R237: A waiting CWAIT observes a counter value meeting its condition and is released with an acquire. -/
  | waiterRelease (t w : Nat)
  /-- R303: A matrix unit writes an instruction's accumulators within 24 cycles after its occupancy ends. -/
  | mmaWriteback (t w : Nat)
  /-- R95: A scale-cache line fetched through translation arrives and the stalled quarter proceeds. -/
  | scaleLineFill (t w : Nat) (tid line : Nat)
  /-- R24: A retained matrix-unit island is restored and the stalled quarter issues. -/
  | matrixUnitRestore (die core unit : Nat)
  /-- R348: A posted operation fires when every input holds and every output has room for N units, claiming them. -/
  | engineFire (op : Nat)
  /-- R348: An operation's writes are performed, then it releases, advances pointers, commits or frees slots, adds to CCNT and lowers IFE. -/
  | engineComplete (op : Nat)
  /-- R351: The posting warp takes the imprecise engine fault 0x45 at its next instruction boundary. -/
  | engineFault (t w : Nat)
  /-- R256: The press moves one 128-byte line of a range's backing at its home slice. -/
  | pressLineMove (r : Nat)
  /-- R256: The press changes OFFS, invalidates range tables, waits for old accesses, frees the old backing and signals its counter. -/
  | pressSwitch (r : Nat)
  /-- R366: Nimom launches one handler team at privilege S on the warp's die when a core has room. -/
  | handlerLaunch (ctx core : Nat)
  /-- R368: A TRESUME write with ACT 1 resumes at the RPC, replaying a late fault or resuming an engine operation. -/
  | tresumeResume (t : Nat) (pzero : Bool)
  /-- R368: A TRESUME write with ACT 2 resumes past the fault, zeroing faulting load lanes or ending an engine operation in error. -/
  | tresumeResumeWithout (t : Nat) (pzero : Bool)
  /-- R368: A TRESUME write with ACT 3 stops the context. -/
  | tresumeStop (t : Nat) (pzero : Bool)
  /-- R389: A DOMA write with APPLY set checks and switches the pending cache-domain registers, flushing affected slices. -/
  | apply (d : Fin 8) (x : Word)
  /-- R389: A request refused by an affected slice is resent to the new home after the switch, in order. -/
  | requestResend
  /-- R7: A write to a register with no behaviour of its own updates its writable fields. -/
  | registerWrite (offset value : Nat)
  /-- R309: A host write of a queue index to a partition's doorbell makes firmware read that queue's PRODP. -/
  | doorbell (p q : Nat)
  /-- R309: Firmware reads PRODP of a device queue within 2 µs after a release that publishes it. -/
  | deviceQueueRead (p q : Nat)
  /-- R313: Firmware chooses the dispatchable head with the earliest deadline and runs, drops or demotes it by its miss policy. -/
  | dispatch (p : Nat)
  /-- R314: When a core or pair has room, the next team of the earliest-deadline packet that fits is placed. -/
  | teamPlacement (p die core : Nat)
  /-- R37: A placed team starts all its warps in one cycle, no earlier than the stagger after the previous team. -/
  | teamStart (t : Nat)
  /-- R67: A saved team is restored whole once its returns have arrived and room exists, or fails for configuration. -/
  | teamRestore (t die core : Nat)
  /-- R312: Completion writes the status word and adds CINC to the completion counter with a release. -/
  | packetComplete (p job : Nat)
  /-- R311: A taken KIND 0 packet is checked and entered into arbitration as a kernel launch. -/
  | kernelLaunch (p q : Nat)
  /-- R323: A taken KIND 1 packet places every stage of a loaded plan on disjoint core groups and starts it. -/
  | planStart (p job : Nat) (cores : List (List (Nat × Nat)))
  /-- R329: A taken KIND 2 packet starts a job of a loaded graph. -/
  | graphLaunch (p job : Nat)
  /-- R334: Makes a queue at an index from a descriptor kept in place. -/
  | queueCreate (p job : Nat)
  /-- R335: Creates a context with its allowance, time slice, scale directory, routing and Nimom structures. -/
  | contextCreate (p job : Nat) (id sysva pa : Nat)
  /-- R333: Stops a running context as a forced kill and frees all its resources. -/
  | contextDestroy (p job : Nat)
  /-- R336: Creates a range from a descriptor, charging a fully resident range's granules. -/
  | rangeMap (p job : Nat)
  /-- R336: Splits and removes the ranges in the named granules, lowers USED and invalidates at PKG scope. -/
  | rangeUnmap (p job : Nat)
  /-- R336: Writes the LIMIT of one agent tag's quota entry. -/
  | quotaSet (p job : Nat)
  /-- R337: Loads a plan record, pins its slot areas and returns pipe numbers. -/
  | planLoad (p job : Nat) (nums : List Nat)
  /-- R327: Saves every team of a running plan and writes pipe records and slots to the checkpoint area. -/
  | planStop (p job : Nat)
  /-- R327: Restores a stopped plan's pipes, slot contents and teams. -/
  | planRestart (p job : Nat) (cores : List (List (Nat × Nat)))
  /-- R337: Loads a graph record for later jobs. -/
  | graphLoad (p job : Nat)
  /-- R339: Adds a value to a completion counter with a release. -/
  | signal (p job : Nat)
  /-- R339: Holds its queue until a counter satisfies the threshold. -/
  | wait (p job : Nat)
  /-- R339: A WAIT observes its condition, acquires the value, returns it and unblocks its queue. -/
  | waitRelease (p job : Nat)
  /-- R338: Saves the named placed teams and holds back the named unplaced ones. -/
  | preempt (p job : Nat)
  /-- R338: Checks and restores the named saved teams and releases held ones for placement. -/
  | preemptResume (p job : Nat)
  /-- R68: Moves a wholly saved context to another partition and restores its teams there. -/
  | preemptMove (p job : Nat)
  /-- R394: Reassigns optical lane groups and re-points changed ports through drain, dark and relock. -/
  | linkReconf (p job : Nat)
  /-- R393: A changed port's drain marker is acknowledged, or 1 ms passes, and the port goes dark. -/
  | drainMarkerAck (port : Fin 32)
  /-- R393: A dark port relocks, measures λ and releases held requests or faults them. -/
  | portRelock (port : Fin 32) (peer lambda : Nat) (ok : Bool)
  /-- R382: Reroutes around a die, drains its epoch, resets it and makes other dies apply all records. -/
  | dieReset (p job : Nat)
  /-- R396: Returns a signed 512-byte attestation report over the nonce and measurements. -/
  | attest (p job : Nat)
  /-- R385: Sets the partition map, execution configurations, grant bit and domain registers. -/
  | domainSet (p job : Nat)
  /-- R225: The open epoch closes 4,096 cycles after its first write. -/
  | epochTimeout (die : Nat)
  /-- R225: The open epoch closes when the dirty-sector table reaches 49,152 entries. -/
  | dirtyTableFull (die : Nat)
  /-- R220: A load or atomic returns, writes its destination in order and lowers its in-flight counter. -/
  | accessReturn (t w : Nat)
  /-- R363: A late fault is taken when its instruction is the oldest unretired memory instruction, cancelling later ones. -/
  | lateFault (t w : Nat)
  /-- R62: A warp not saved when YCNT reaches 0 is saved by force at its next instruction boundary. -/
  | forcedSave (t w : Nat)
  /-- R317: A team placed for its time slice while others wait for room is pre-empted. -/
  | timeSliceExpiry (t : Nat)
  /-- R315: A ready gang that has not issued for 512 cycles becomes aged and issues first. -/
  | aging (t : Nat) (x : WarpSlice)
  /-- R323: At each period end the balancer tests stages and moves cores from donors to needy stages. -/
  | balancerPeriod (ctx plan : Nat)
  /-- R329: A ready kernel node runs its kernel packet and completes with it. -/
  | kernelNode (j node : Nat)
  /-- R329: A ready plan node runs its loaded plan and completes with it. -/
  | planNode (j node : Nat)
  /-- R329: A ready signal node adds INC to its counter with a PKG release. -/
  | signalNode (j node : Nat)
  /-- R329: A ready conditional node acquires its condition word and credits SUCC0 or SUCC1. -/
  | conditionalNode (j node : Nat)
  /-- R329: A ready while node credits the body or the exit by its word and iteration bound. -/
  | whileNode (j node : Nat)
  /-- R330: An enqueue sent to another die's walker arrives and is consumed. -/
  | graphEnqueueArrive (j node : Nat)
  /-- R369: A context-stopping event asserts the halt line and every party stops and writes its stop record. -/
  | contextStop (ctx cause : Nat)
  /-- R402: Nimom raises the stop-report MSI-X vector after the stop area is published. -/
  | stopReport (ctx : Nat)
  /-- R369: A debugger halt from the management interface stops the context. -/
  | debuggerHalt (ctx : Nat)
  /-- R370: The debugger resumes a halted context and pending handlers launch. -/
  | debuggerResume (ctx : Nat)
  /-- R229: A host PCIe write to package memory invalidates clean copies and is performed at the home. -/
  | hostWrite (pa : Nat) (bs : List Byte)
  /-- R386: A host PCIe read of BAR 2 returns package memory. -/
  | hostRead (a : HostAddr) (n : Nat)
  /-- R231: A host AtomicOp is performed at the home slice in the location's total order. -/
  | hostAtomicop (pa : Nat) (x : Bool) (o : AtomOp) (y c : Nat)
  /-- R229: A UALink peer write to package memory invalidates clean copies and is performed at the home. -/
  | peerWrite (pa : Nat) (bs : List (Option Byte))
  /-- R390: A UALink peer read of package memory is served. -/
  | peerRead (pa n : Nat)
  /-- R390: A UALink peer atomic is performed at the home slice. -/
  | peerAtomic (pa : Nat) (x : Bool) (o : AtomOp) (y c : Nat)
  /-- R392: A received Ethernet frame is checked and placed in the port's receive ring. -/
  | ethernetRx (port : Fin 32) (bs : List Byte) (fcs : Nat)
  /-- R392: A frame in a port's transmit ring is sent with generated FCS. -/
  | ethernetTx (port : Fin 32)
  /-- R391: Every 1 ms each up UALink port measures its latency λ afresh. -/
  | lambdaRenew (port : Fin 32) (lambda : Nat)
  /-- R376: A flit that fails its check is replayed from the sender's buffer in order. -/
  | flitReplay (link : Nat)
  /-- R383: A link that replay cannot recover fails; routes change and cut-off dies halt with their contexts. -/
  | linkFail (l : LinkName)
  /-- R383: The host lease and scheduler-time keeping pass to the lowest die of the continuing part within 100 µs. -/
  | hostLeasePass
  /-- R373: A single-bit error is corrected and counted. -/
  | eccCorrected (die : Fin 8) (c : EccKind)
  /-- R373: An uncorrectable register error traps a participant read or marks the lane's register poisoned. -/
  | registerPoison (t w : Nat) (reg : Fin 64) (lane : Fin 32)
  /-- R378: An uncorrectable error in warp state or a held record stops the context with cause 0x52. -/
  | uncorrectableStateError (ctx : Nat)
  /-- R374: A lost dirty sector is published poisoned and its release never completes. -/
  | sectorLoss (die sector : Nat)
  /-- R397: An island reaching 105 °C throttles its frequency. -/
  | thermalThrottle (x : IslandSpeed) (temp : Nat)
  /-- R397: At 115 °C every context stops and the package powers down. -/
  | thermalShutdown (die temp : Nat)
  /-- R27: Firmware lowers island frequencies to hold the 10 ms average power at the form's limit. -/
  | powerLimit (x : IslandSpeed)
  /-- R404: Reset forms partition 0 of every live die and makes its queue 0. -/
  | deviceReset (images : List BootImage)
  /-- R24: A matrix-unit island is lowered to its retention state while its core issues no matrix instruction. -/
  | matrixUnitRetention (die core unit : Nat)
  /-- R179: A debugger attaches to or detaches from a context through the management interface, changing what BKPT does. -/
  | debuggerAttach (ctx : Nat) (on : Bool)
  /-- R391: A UALink port locks to its peer and comes up, with STATE passing from down through locking to up and λ measured. -/
  | portLock (port : Fin 32) (peer lambda : Nat)
  /-- R318: A reservation or commit from a producer on another T8 package arrives over UALink at the pipe's home and is applied to the slot protocol. -/
  | remotePipeRequest (pipe : Nat) (commit : Bool) (slot : Nat) (bs : List Byte)
deriving DecidableEq, Repr

end Sys2Proof
end

