-- ==== Sys2Proof/WellFormed.lean ====
section
/-! DEFINITION. Well-formed instructions: the limits on operands that the types of the syntax do not state. Each is a
reserved operand or code, or a reserved field (07 R121). -/

namespace Sys2Proof

/-- With W = 1 the vd field is reserved (07 R114). -/
def Dst.ok (d : Dst) : Bool := !d.w || decide (d.n = 0)

def SDst.ok (d : SDst) : Bool := !d.w || decide (d.n = 0)

/-- An even scalar register (07 R99). -/
def evenS (n : Fin 32) : Bool := n.val % 2 == 0

/-- An even vector register (14 R261, 16 R304). -/
def evenV (n : Fin 64) : Bool := n.val % 2 == 0

/-- A scalar register, a latch or an inline constant (09 R157, R176, 14 R263, 19 R341). A code k0 to k3 in such a field, reserved by
the entry, is refused at decode with cause 0x03, inside a melded region and outside (DESIGN CHOICE: assumption log 77). -/
def Src.isScalar : Src → Bool
  | .v _ => false
  | .s _ => true
  | .b _ => true
  | .k _ => false
  | .c _ => true

/-- An even scalar code (09 R160, 14 R283, 19 R341). -/
def Src.isPair : Src → Bool
  | .s n => evenS n
  | _ => false

/-- An even scalar code or an inline constant (09 R160, 14 R282). -/
def Src.isPairOrConst : Src → Bool
  | .s n => evenS n
  | .c _ => true
  | _ => false

/-- The base of a virtual address: an even scalar or vector code (14 R258). -/
def Src.isBase : Src → Bool
  | .s n => evenS n
  | .v n => evenV n
  | _ => false

/-- A 64-bit operand of an atomic: an inline constant or an even pair (14 R271). -/
def Src.isWide : Src → Bool
  | .s n => evenS n
  | .v n => evenV n
  | .c _ => true
  | _ => false

/-- The first register of an accumulator (16 R304). -/
def Src.isEvenV : Src → Bool
  | .v n => evenV n
  | _ => false

/-- The special registers of 09 R182. -/
def sysNumber (n : Fin 128) : Bool :=
  decide (n.val ≤ 19) || (decide (24 ≤ n.val) && decide (n.val ≤ 28)) || (decide (64 ≤ n.val) && decide (n.val ≤ 79))

/-- The special registers that SYSW may name (09 R182). -/
def sysWritable (n : Fin 128) : Bool :=
  decide (n.val = 16) || decide (n.val = 17) || decide (n.val = 28) || (decide (64 ≤ n.val) && decide (n.val ≤ 79))

/-- The destination of a SYSR of register `n`: LANEID needs a vector destination (09 R180). -/
def SysDst.ok (d : SysDst) (n : Fin 128) : Bool :=
  sysNumber n &&
    match d with
    | .vec d => d.ok
    | .scal d => d.ok && decide (n.val ≠ 0)

/-- Whether an instruction meets the limits of its entry. Events and commands have none. -/
def wellFormed : Instr → Bool
| .vadd d _ _ => d.ok
  | .vaddImm d _ _ => d.ok
  | .vsub d _ _ => d.ok
  | .vmul d _ _ => d.ok
  | .vmulImm d _ _ => d.ok
  | .vmulh d _ _ => d.ok
  | .vmulhU d _ _ => d.ok
  | .vmad d _ _ => d.ok
  | .vand d _ _ => d.ok
  | .vandImm d _ _ => d.ok
  | .vor d _ _ => d.ok
  | .vorImm d _ _ => d.ok
  | .vxor d _ _ => d.ok
  | .vxorImm d _ _ => d.ok
  | .vshl d _ _ => d.ok
  | .vshlImm d _ _ => d.ok
  | .vsrl d _ _ => d.ok
  | .vsrlImm d _ _ => d.ok
  | .vsra d _ _ => d.ok
  | .vsraImm d _ _ => d.ok
  | .vmin d _ _ => d.ok
  | .vminImm d _ _ => d.ok
  | .vminU d _ _ => d.ok
  | .vminUImm d _ _ => d.ok
  | .vmax d _ _ => d.ok
  | .vmaxImm d _ _ => d.ok
  | .vmaxU d _ _ => d.ok
  | .vmaxUImm d _ _ => d.ok
  | .vabs d _ => d.ok
  | .vclz d _ => d.ok
  | .vpopc d _ => d.ok
  | .vbrev d _ => d.ok
  | .vsel d _ _ => d.ok
  | .vsat d _ _ => d.ok
  | .vsatImm d _ _ => d.ok
  | .vcmp _ _ _ => true
  | .vcmpImm _ _ _ => true
  | .vfadd d _ _ _ => d.ok
  | .vfsub d _ _ _ => d.ok
  | .vfmul d _ _ _ => d.ok
  | .vfmin d _ _ => d.ok
  | .vfmax d _ _ => d.ok
  | .vfabs d _ => d.ok
  | .vfneg d _ => d.ok
  | .vfrcp d _ => d.ok
  | .vfrsq d _ => d.ok
  | .vfexp2 d _ => d.ok
  | .vflog2 d _ => d.ok
  | .vfsin d _ => d.ok
  | .vfcos d _ => d.ok
  | .vftanh d _ => d.ok
  | .vfcmp _ _ _ => true
  | .vfmaF32 d _ _ _ _ _ => d.ok
  | .vfmaH2 d _ _ _ _ _ => d.ok
  | .vfmaB2 d _ _ _ _ _ => d.ok
  | .vcvtF32I32 d _ _ => d.ok
  | .vcvtI32F32 d _ _ => d.ok
  | .vcvtF16F32 d _ _ => d.ok
  | .vcvtBf16F32 d _ _ => d.ok
  | .vcvtF32F16 d _ => d.ok
  | .vcvtF32Bf16 d _ => d.ok
  | .vpackH2 d _ _ _ => d.ok
  | .vpackB2 d _ _ _ => d.ok
  | .vpackI16 d _ _ => d.ok
  | .vunpk d _ _ _ => d.ok
  | .vqnt d _ _ => d.ok
  | .vdqnt d _ _ => d.ok
  | .vmov d _ => d.ok
  | .vmovk d _ => d.ok
  | .vmovs d _ b => d.ok && b.isScalar
  | .vvote d _ b _ => d.ok && b.isScalar
  | .vshfl d _ _ _ => d.ok
  | .vshflImm d _ _ _ => d.ok
  | .vbcast d _ b => d.ok && b.isScalar
  | .vbcastImm d _ _ => d.ok
  | .setpart b => b.isScalar
  | .setpartImm _ => true
  | .vred d _ _ => d.ok
  | .vscan d _ _ => d.ok
  | .sadd d a b => d.ok && a.isScalar && b.isScalar
  | .saddImm d a _ => d.ok && a.isScalar
  | .ssub d a b => d.ok && a.isScalar && b.isScalar
  | .smul d a b => d.ok && a.isScalar && b.isScalar
  | .smulImm d a _ => d.ok && a.isScalar
  | .smulh d a b => d.ok && a.isScalar && b.isScalar
  | .smulhU d a b => d.ok && a.isScalar && b.isScalar
  | .sdiv d a b => d.ok && a.isScalar && b.isScalar
  | .sdivU d a b => d.ok && a.isScalar && b.isScalar
  | .srem d a b => d.ok && a.isScalar && b.isScalar
  | .sremU d a b => d.ok && a.isScalar && b.isScalar
  | .sand d a b => d.ok && a.isScalar && b.isScalar
  | .sandImm d a _ => d.ok && a.isScalar
  | .sor d a b => d.ok && a.isScalar && b.isScalar
  | .sorImm d a _ => d.ok && a.isScalar
  | .sxor d a b => d.ok && a.isScalar && b.isScalar
  | .sxorImm d a _ => d.ok && a.isScalar
  | .sshl d a b => d.ok && a.isScalar && b.isScalar
  | .sshlImm d a _ => d.ok && a.isScalar
  | .ssrl d a b => d.ok && a.isScalar && b.isScalar
  | .ssrlImm d a _ => d.ok && a.isScalar
  | .ssra d a b => d.ok && a.isScalar && b.isScalar
  | .ssraImm d a _ => d.ok && a.isScalar
  | .smin d a b => d.ok && a.isScalar && b.isScalar
  | .sminU d a b => d.ok && a.isScalar && b.isScalar
  | .smax d a b => d.ok && a.isScalar && b.isScalar
  | .smaxU d a b => d.ok && a.isScalar && b.isScalar
  | .ssel d a b => d.ok && a.isScalar && b.isScalar
  | .smov d a => d.ok && a.isScalar
  | .saddD d a b => a.isPair && b.isPairOrConst && evenS d
  | .saddDImm d a _ => a.isPair && evenS d
  | .scmp _ a b => a.isScalar && b.isScalar
  | .scmpImm _ a _ => a.isScalar
  | .sli d _ => d.ok
  | .bra _ => true
  | .brc _ => true
  | .brcN _ => true
  | .switch _ cs => decide (1 ≤ cs.length) && decide (cs.length ≤ 8)
  | .jmp x => evenS x
  | .call _ x => evenS x
  | .ret x => evenS x
  | .loop o _ _ => decide (3 ≤ o.toInt)
  | .lbrk x => decide (x.val ≤ 2)
  | .regangW => true
  | .regangN => true
  | .exit => true
  | .nop => true
  | .yield => true
  | .msave d _ => d.ok
  | .mrest _ a => a.isScalar
  | .mand _ a => a.isScalar
  | .mor _ a => a.isScalar
  | .mandn _ a => a.isScalar
  | .mxor _ a => a.isScalar
  | .mset _ _ => true
  | .mpop d _ => d.ok
  | .mfirst d _ => d.ok
  | .meld four a b => a.isScalar && (if four then b.isScalar else decide (b = .v 0))
  | .melde => true
  | .mtw _ _ => true
  | .mtr d a => d.ok && a.isScalar
  | .kset _ b => b.isScalar
  | .ksetImm _ _ => true
  | .ld d a _ z => a.isBase && (decide (z ≠ 3) || evenV d)
  | .ldSigned _ a _ _ => a.isBase
  | .st d a _ z => a.isBase && (decide (z ≠ 3) || evenV d)
  | .lds d a b z => a.isScalar && b.isScalar && (!z || evenS d)
  | .sts d a b z => a.isScalar && b.isScalar && (!z || evenS d)
  | .spld d _ _ z => (decide (z ≠ 3) || evenV d)
  | .spldSigned _ _ _ _ => true
  | .spst d _ _ z => (decide (z ≠ 3) || evenV d)
  | .tld _ rk cb d z => (decide (z ≠ 3) || evenV d) && decide (cb.val + rk.val ≤ 63)
  | .tst _ rk cb d z => (decide (z ≠ 3) || evenV d) && decide (cb.val + rk.val ≤ 63)
  | .pref a _ => a.isBase
  | .shpld _ a => a.isPair
  | .shpinv _ => true
  | .atomDie d a b x o => a.isBase && (!x || (evenV d && b.isWide && decide (o ≠ .fadd)))
  | .atomPkg d a b x o => a.isBase && (!x || (evenV d && b.isWide && decide (o ≠ .fadd)))
  | .atomSys d a b x o => a.isBase && (!x || (evenV d && b.isWide && decide (o ≠ .fadd)))
  | .atoms d _ b x o => (!x || (evenV d && b.isWide && decide (o ≠ .fadd)))
  | .fence _ => true
  | .rel _ => true
  | .acq _ => true
  | .lda32 _ a _ => a.isBase
  | .lda64 d a _ => a.isBase && evenV d
  | .stl32 _ a _ => a.isBase
  | .stl64 d a _ => a.isBase && evenV d
  | .waitp _ a => a.isScalar
  | .cntr _ => true
  | .bar a b => a.isScalar && b.isScalar
  | .bara a b => a.isScalar && b.isScalar
  | .barw a => a.isScalar
  | .dbar => true
  | .gbar => true
  | .cwait d a b => a.isPair && b.isPair && evenS d
  | .csig a b => a.isPair && b.isPairOrConst
  | .mma _ _ _ vc _ => evenV vc
  | .mmas _ _ _ vc _ => evenV vc
  | .mzero d => evenV d
  | .mcvtH2 _ a _ => a.isEvenV
  | .mcvtB2 _ a _ => a.isEvenV
  | .mcvtF32 _ a _ => a.isEvenV
  | .mcvtI32 _ a _ => a.isEvenV
  | .msclB a b => a.isPair && b.isPair
  | .msclP a b => a.isScalar && b.isScalar
  | .ersetBind a b => a.isPair && b.isScalar
  | .ersetFree a => a.isScalar
  | .ersetPush a b => a.isScalar && b.isScalar
  | .ersetPop a b => a.isScalar && b.isScalar
  | .ersetWaitf a b => a.isScalar && b.isScalar
  | .ersetWaite a b => a.isScalar && b.isScalar
  | .ecopy a => a.isPair
  | .egath a => a.isPair
  | .escat a => a.isPair
  | .ered a => a.isPair
  | .ebcast a => a.isPair
  | .prsv d a => a.isScalar && evenS d
  | .pcmt a b => a.isScalar && b.isPair
  | .pacq d a => a.isScalar && evenS d
  | .prel a b => a.isScalar && b.isPair
  | .ptryR d a => a.isScalar && evenS d
  | .ptryA d a => a.isScalar && evenS d
  | .pstat _ a => a.isScalar
  | .pmsg a b => a.isScalar && b.isPair
  | .precv _ a b => a.isScalar && b.isPair
  | .klaunch _ a b => a.isPair && b.isScalar
  | .glaunch _ a b => a.isPair && b.isScalar
  | .gcond a b => a.isScalar && b.isScalar
  | .rsplit _ a => a.isPair
  | .rmerge _ a => a.isPair
  | .rprot _ a b => a.isPair && b.isScalar
  | .rinval _ a b => a.isPair && b.isScalar
  | .rprobe d a => a.isPair && decide (d.val % 8 = 0)
  | .rres _ a b => a.isPair && b.isScalar
  | .rpress _ a => a.isPair
  | .cwb _ a b => a.isPair && b.isScalar
  | .cinv _ a b => a.isPair && b.isScalar
  | .trap a => a.isScalar
  | .bkpt => true
  | .sysr n d => d.ok n
  | .sysw n b => sysWritable n && b.isScalar
  | .syswImm n _ => sysWritable n
  | .ilbf => true
  | .limm _ => true
  | .vaddShort d s => decide (¬(d.val = 0 ∧ s.val = 0))
  | .vsubShort _ _ => true
  | .vandShort _ _ => true
  | .vorShort _ _ => true
  | .vxorShort _ _ => true
  | .vshlShort _ _ => true
  | .vsrlShort _ _ => true
  | .vsraShort _ _ => true
  | .vminShort _ _ => true
  | .vmaxShort _ _ => true
  | .vfaddShort _ _ => true
  | .vfsubShort _ _ => true
  | .vfmulShort _ _ => true
  | .vmovShort _ _ => true
  | .vaddi _ _ => true
  | .vneg _ _ => true
  | .illegalInstruction _ _ => true
  | .waiterRelease _ _ => true
  | .mmaWriteback _ _ => true
  | .scaleLineFill _ _ _ _ => true
  | .matrixUnitRestore _ _ _ => true
  | .engineFire _ => true
  | .engineComplete _ => true
  | .engineFault _ _ => true
  | .pressLineMove _ => true
  | .pressSwitch _ => true
  | .handlerLaunch _ _ => true
  | .tresumeResume _ _ => true
  | .tresumeResumeWithout _ _ => true
  | .tresumeStop _ _ => true
  | .apply _ _ => true
  | .requestResend => true
  | .registerWrite _ _ => true
  | .doorbell _ _ => true
  | .deviceQueueRead _ _ => true
  | .dispatch _ => true
  | .teamPlacement _ _ _ => true
  | .teamStart _ => true
  | .teamRestore _ _ _ => true
  | .packetComplete _ _ => true
  | .kernelLaunch _ _ => true
  | .planStart _ _ _ => true
  | .graphLaunch _ _ => true
  | .queueCreate _ _ => true
  | .contextCreate _ _ _ _ _ => true
  | .contextDestroy _ _ => true
  | .rangeMap _ _ => true
  | .rangeUnmap _ _ => true
  | .quotaSet _ _ => true
  | .planLoad _ _ _ => true
  | .planStop _ _ => true
  | .planRestart _ _ _ => true
  | .graphLoad _ _ => true
  | .signal _ _ => true
  | .wait _ _ => true
  | .waitRelease _ _ => true
  | .preempt _ _ => true
  | .preemptResume _ _ => true
  | .preemptMove _ _ => true
  | .linkReconf _ _ => true
  | .drainMarkerAck _ => true
  | .portRelock _ _ _ _ => true
  | .dieReset _ _ => true
  | .attest _ _ => true
  | .domainSet _ _ => true
  | .epochTimeout _ => true
  | .dirtyTableFull _ => true
  | .accessReturn _ _ => true
  | .lateFault _ _ => true
  | .forcedSave _ _ => true
  | .timeSliceExpiry _ => true
  | .aging _ _ => true
  | .balancerPeriod _ _ => true
  | .kernelNode _ _ => true
  | .planNode _ _ => true
  | .signalNode _ _ => true
  | .conditionalNode _ _ => true
  | .whileNode _ _ => true
  | .graphEnqueueArrive _ _ => true
  | .contextStop _ _ => true
  | .stopReport _ => true
  | .debuggerHalt _ => true
  | .debuggerResume _ => true
  | .hostWrite _ _ => true
  | .hostRead _ _ => true
  | .hostAtomicop _ _ _ _ _ => true
  | .peerWrite _ _ => true
  | .peerRead _ _ => true
  | .peerAtomic _ _ _ _ _ => true
  | .ethernetRx _ _ _ => true
  | .ethernetTx _ => true
  | .lambdaRenew _ _ => true
  | .flitReplay _ => true
  | .linkFail _ => true
  | .hostLeasePass => true
  | .eccCorrected _ _ => true
  | .registerPoison _ _ _ _ => true
  | .uncorrectableStateError _ => true
  | .sectorLoss _ _ => true
  | .thermalThrottle _ _ => true
  | .thermalShutdown _ _ => true
  | .powerLimit _ => true
  | .deviceReset _ => true
  | .matrixUnitRetention _ _ _ => true
  | .debuggerAttach _ _ => true
  | .portLock _ _ _ => true
  | .remotePipeRequest _ _ _ _ => true

end Sys2Proof
end

