-- ==== Sys2Proof/Decode.lean ====
section
/-! DEFINITION. The decoder of Felog, total on every list of bytes and refusing by cause, and after it the encoder
(spec 07 R100 to R137). Words are natural numbers; fields are taken by division. -/

namespace Sys2Proof

/-! ### Codes (07 R112, R113) -/

/-- R112. -/
def Src.code : Src → Nat
  | .v n => n.val
  | .s n => 64 + n.val
  | .b n => 96 + n.val
  | .k n => 100 + n.val
  | .c n => 112 + n.val

/-- R112; codes 104 to 111 are reserved. -/
def Src.ofCode (c : Nat) : Option Src :=
  if h : c < 64 then some (.v ⟨c, h⟩)
  else if h : c - 64 < 32 then some (.s ⟨c - 64, h⟩)
  else if h : c - 96 < 4 then some (.b ⟨c - 96, h⟩)
  else if h : c - 100 < 4 then some (.k ⟨c - 100, h⟩)
  else if c < 112 then none
  else if h : c - 112 < 16 then some (.c ⟨c - 112, h⟩)
  else none

/-- R83. -/
def Rm.code : Rm → Nat
  | .rne => 0 | .rtz => 1 | .rdn => 2 | .rup => 3

def Rm.ofCode : Nat → Option Rm
  | 0 => some .rne | 1 => some .rtz | 2 => some .rdn | 3 => some .rup | _ => none

/-- R113. -/
def ICond.code : ICond → Nat
  | .eq => 0 | .ne => 1 | .lt => 2 | .le => 3 | .gt => 4 | .ge => 5 | .ltu => 6 | .leu => 7 | .gtu => 8 | .geu => 9

def ICond.ofCode : Nat → Option ICond
  | 0 => some .eq | 1 => some .ne | 2 => some .lt | 3 => some .le | 4 => some .gt | 5 => some .ge | 6 => some .ltu
  | 7 => some .leu | 8 => some .gtu | 9 => some .geu | _ => none

/-- R113. -/
def FCond.code : FCond → Nat
  | .eq => 0 | .ne => 1 | .lt => 2 | .le => 3 | .gt => 4 | .ge => 5 | .ord => 6 | .uno => 7

def FCond.ofCode : Nat → Option FCond
  | 0 => some .eq | 1 => some .ne | 2 => some .lt | 3 => some .le | 4 => some .gt | 5 => some .ge | 6 => some .ord
  | 7 => some .uno | _ => none

/-- R113. -/
def Scope.code : Scope → Nat
  | .lane => 0 | .warp => 1 | .team => 2 | .die => 3 | .pkg => 4 | .sys => 5

def Scope.ofCode : Nat → Option Scope
  | 0 => some .lane | 1 => some .warp | 2 => some .team | 3 => some .die | 4 => some .pkg | 5 => some .sys | _ => none

/-- R113. -/
def Path.code : Path → Nat
  | .ifs => 0 | .ifg => 1 | .ift => 2 | .ife => 3

def Path.ofCode : Nat → Option Path
  | 0 => some .ifs | 1 => some .ifg | 2 => some .ift | 3 => some .ife | _ => none

/-- R113. -/
def MaskName.code : MaskName → Nat
  | .exec => 0 | .cm => 1

def MaskName.ofCode : Nat → Option MaskName
  | 0 => some .exec | 1 => some .cm | _ => none

/-- R208. -/
def RedOp.code : RedOp → Nat
  | .add => 0 | .min => 1 | .max => 2 | .minU => 3 | .maxU => 4 | .and => 5 | .or => 6 | .xor => 7 | .fadd => 8 | .fmin => 9
  | .fmax => 10

/-- R133. -/
def AtomOp.code : AtomOp → Nat
  | .add => 0 | .min => 1 | .max => 2 | .and => 3 | .or => 4 | .xor => 5 | .exch => 6 | .cas => 7 | .fadd => 8

/-- Field b of SYSR (09 R180). -/
def SysDst.b : SysDst → Nat
  | .vec _ => 0 | .scal _ => 1

def SysDst.w : SysDst → Nat
  | .vec d => d.w.toNat | .scal d => d.w.toNat

def SysDst.n : SysDst → Nat
  | .vec d => d.n.val | .scal d => d.n.val

/-! ### Fields of a 32-bit word -/

/-- The fields of the generic form (07 R104). -/
structure Fields where
  b : Nat
  a : Nat
  d : Nat
  w : Nat
  f : Nat
deriving DecidableEq, Repr

def Fields.of (w : Nat) : Fields :=
  { b := w / 2 ^ 25 % 128, a := w / 2 ^ 18 % 128, d := w / 2 ^ 12 % 64, w := w / 2 ^ 11 % 2, f := w / 2 ^ 5 % 64 }

/-- Refuses unless every field of the list is 0 (07 R113, R114, R121). -/
def zeros (l : List Nat) (k : Except Illegal Instr) : Except Illegal Instr :=
  if l.all (· = 0) then k else .error .reservedField

/-- A reserved code is refused (07 R121). -/
def need {α : Type} (o : Option α) (k : α → Except Illegal Instr) : Except Illegal Instr :=
  match o with
  | some x => k x
  | none => .error .reservedOperand

/-- A number below a bound. -/
def fin? (n x : Nat) : Option (Fin n) := if h : x < n then some ⟨x, h⟩ else none

/-- A vector destination: with W = 1, vd is a reserved field (07 R114). -/
def dst (x : Fields) (k : Dst → Except Illegal Instr) : Except Illegal Instr :=
  if x.w = 1 ∧ x.d ≠ 0 then .error .reservedField else need (fin? 64 x.d) fun n => k ⟨x.w = 1, n⟩

/-- A scalar destination (07 R113, R114). -/
def sdst (x : Fields) (k : SDst → Except Illegal Instr) : Except Illegal Instr :=
  if x.w = 1 ∧ x.d ≠ 0 then .error .reservedField else need (fin? 32 x.d) fun n => k ⟨x.w = 1, n⟩

def dV2 (c : Dst → Src → Src → Instr) (x : Fields) : Except Illegal Instr :=
  dst x fun d => need (Src.ofCode x.a) fun a => need (Src.ofCode x.b) fun b => .ok (c d a b)
def dVI (c : Dst → Src → Fin 128 → Instr) (x : Fields) : Except Illegal Instr :=
  dst x fun d => need (Src.ofCode x.a) fun a => need (fin? 128 x.b) fun i => .ok (c d a i)
def dV1 (c : Dst → Src → Instr) (x : Fields) : Except Illegal Instr :=
  zeros [x.b] <| dst x fun d => need (Src.ofCode x.a) fun a => .ok (c d a)
def dK (c : Dst → Fin 128 → Instr) (x : Fields) : Except Illegal Instr :=
  zeros [x.a] <| dst x fun d => need (fin? 128 x.b) fun i => .ok (c d i)
def dC (c : ICond → Src → Src → Instr) (x : Fields) : Except Illegal Instr :=
  zeros [x.w] <| need (ICond.ofCode x.d) fun k => need (Src.ofCode x.a) fun a => need (Src.ofCode x.b) fun b => .ok (c k a b)
def dCI (c : ICond → Src → Fin 128 → Instr) (x : Fields) : Except Illegal Instr :=
  zeros [x.w] <| need (ICond.ofCode x.d) fun k => need (Src.ofCode x.a) fun a => need (fin? 128 x.b) fun i => .ok (c k a i)
def dFC (c : FCond → Src → Src → Instr) (x : Fields) : Except Illegal Instr :=
  zeros [x.w] <| need (FCond.ofCode x.d) fun k => need (Src.ofCode x.a) fun a => need (Src.ofCode x.b) fun b => .ok (c k a b)
def dS2 (c : SDst → Src → Src → Instr) (x : Fields) : Except Illegal Instr :=
  sdst x fun d => need (Src.ofCode x.a) fun a => need (Src.ofCode x.b) fun b => .ok (c d a b)
def dSI (c : SDst → Src → Fin 128 → Instr) (x : Fields) : Except Illegal Instr :=
  sdst x fun d => need (Src.ofCode x.a) fun a => need (fin? 128 x.b) fun i => .ok (c d a i)
def dS1 (c : SDst → Src → Instr) (x : Fields) : Except Illegal Instr :=
  zeros [x.b] <| sdst x fun d => need (Src.ofCode x.a) fun a => .ok (c d a)
def dSK (c : SDst → Fin 128 → Instr) (x : Fields) : Except Illegal Instr :=
  zeros [x.a] <| sdst x fun d => need (fin? 128 x.b) fun i => .ok (c d i)
def dR2 (c : Fin 32 → Src → Src → Instr) (x : Fields) : Except Illegal Instr :=
  zeros [x.w] <| need (fin? 32 x.d) fun d => need (Src.ofCode x.a) fun a => need (Src.ofCode x.b) fun b => .ok (c d a b)
def dRI (c : Fin 32 → Src → Fin 128 → Instr) (x : Fields) : Except Illegal Instr :=
  zeros [x.w] <| need (fin? 32 x.d) fun d => need (Src.ofCode x.a) fun a => need (fin? 128 x.b) fun i => .ok (c d a i)
def dR1 (c : Fin 32 → Src → Instr) (x : Fields) : Except Illegal Instr :=
  zeros [x.w, x.b] <| need (fin? 32 x.d) fun d => need (Src.ofCode x.a) fun a => .ok (c d a)
def dR0 (c : Fin 32 → Instr) (x : Fields) : Except Illegal Instr :=
  zeros [x.w, x.a, x.b] <| need (fin? 32 x.d) fun d => .ok (c d)
def dMk (c : SDst → MaskName → Instr) (x : Fields) : Except Illegal Instr :=
  zeros [x.a] <| sdst x fun d => need (MaskName.ofCode x.b) fun m => .ok (c d m)
def dMa (c : MaskName → Src → Instr) (x : Fields) : Except Illegal Instr :=
  zeros [x.w, x.d] <| need (MaskName.ofCode x.b) fun m => need (Src.ofCode x.a) fun a => .ok (c m a)
def dNone (c : Instr) (x : Fields) : Except Illegal Instr := zeros [x.w, x.d, x.a, x.b] (.ok c)
def dAB (c : Src → Src → Instr) (x : Fields) : Except Illegal Instr :=
  zeros [x.w, x.d] <| need (Src.ofCode x.a) fun a => need (Src.ofCode x.b) fun b => .ok (c a b)
def dHA (c : Fin 32 → Src → Instr) (x : Fields) : Except Illegal Instr :=
  zeros [x.w, x.b] <| need (fin? 32 x.d) fun h => need (Src.ofCode x.a) fun a => .ok (c h a)
def dH (c : Fin 32 → Instr) (x : Fields) : Except Illegal Instr :=
  zeros [x.w, x.a, x.b] <| need (fin? 32 x.d) fun h => .ok (c h)
def dSc (c : Scope → Instr) (x : Fields) : Except Illegal Instr :=
  zeros [x.w, x.a, x.b] <| need (Scope.ofCode x.d) fun s => .ok (c s)
def dVSc (c : Fin 64 → Src → Scope → Instr) (x : Fields) : Except Illegal Instr :=
  zeros [x.w] <| need (fin? 64 x.d) fun d => need (Src.ofCode x.a) fun a => need (Scope.ofCode x.b) fun s => .ok (c d a s)
def dPa (c : Path → Src → Instr) (x : Fields) : Except Illegal Instr :=
  zeros [x.w, x.b] <| need (Path.ofCode x.d) fun p => need (Src.ofCode x.a) fun a => .ok (c p a)
def dA (c : Src → Instr) (x : Fields) : Except Illegal Instr :=
  zeros [x.w, x.d, x.b] <| need (Src.ofCode x.a) fun a => .ok (c a)
def dVr (c : Fin 64 → Instr) (x : Fields) : Except Illegal Instr :=
  zeros [x.w, x.a, x.b] <| need (fin? 64 x.d) fun d => .ok (c d)
def dVrM (c : Fin 64 → Src → Rm → Instr) (x : Fields) : Except Illegal Instr :=
  zeros [x.w] <| need (fin? 64 x.d) fun d => need (Src.ofCode x.a) fun a => need (Rm.ofCode x.b) fun m => .ok (c d a m)
def dScAB (c : Scope → Src → Src → Instr) (x : Fields) : Except Illegal Instr :=
  zeros [x.w] <| need (Scope.ofCode x.d) fun s => need (Src.ofCode x.a) fun a => need (Src.ofCode x.b) fun b => .ok (c s a b)
def dB (c : Src → Instr) (x : Fields) : Except Illegal Instr :=
  zeros [x.w, x.d, x.a] <| need (Src.ofCode x.b) fun b => .ok (c b)
def dI (c : Fin 128 → Instr) (x : Fields) : Except Illegal Instr :=
  zeros [x.w, x.d, x.a] <| need (fin? 128 x.b) fun i => .ok (c i)
/-- MELD: vd code 0 makes b unused, code 1 gives four paths (10 R211). -/
def dMeld (c : Bool → Src → Src → Instr) (x : Fields) : Except Illegal Instr :=
  zeros [x.w, if x.d = 0 then x.b else 0] <| need (fin? 2 x.d) fun d =>
    need (Src.ofCode x.a) fun a => need (Src.ofCode x.b) fun b => .ok (c (d.val = 1) a b)
def dVrI (c : Fin 64 → Fin 128 → Instr) (x : Fields) : Except Illegal Instr :=
  zeros [x.w, x.a] <| need (fin? 64 x.d) fun d => need (fin? 128 x.b) fun i => .ok (c d i)
def dKb (c : Fin 16 → Src → Instr) (x : Fields) : Except Illegal Instr :=
  zeros [x.w, x.a] <| need (fin? 16 x.d) fun k => need (Src.ofCode x.b) fun b => .ok (c k b)
def dKi (c : Fin 16 → Fin 128 → Instr) (x : Fields) : Except Illegal Instr :=
  zeros [x.w, x.a] <| need (fin? 16 x.d) fun k => need (fin? 128 x.b) fun i => .ok (c k i)
def dSysr (c : Fin 128 → SysDst → Instr) (x : Fields) : Except Illegal Instr :=
  need (fin? 128 x.a) fun n =>
    match x.b with
    | 0 => dst x fun d => .ok (c n (.vec d))
    | 1 => sdst x fun d => .ok (c n (.scal d))
    | _ => if x.w = 1 ∧ x.d ≠ 0 then .error .reservedField else .error .reservedOperand
def dSysw (c : Fin 128 → Src → Instr) (x : Fields) : Except Illegal Instr :=
  zeros [x.w, x.d] <| need (fin? 128 x.a) fun n => need (Src.ofCode x.b) fun b => .ok (c n b)
def dSyswI (c : Fin 128 → Fin 128 → Instr) (x : Fields) : Except Illegal Instr :=
  zeros [x.w, x.d] <| need (fin? 128 x.a) fun n => need (fin? 128 x.b) fun i => .ok (c n i)
def dM (c : Fin 64 → Src → Src → Instr) (x : Fields) : Except Illegal Instr :=
  zeros [x.w] <| need (fin? 64 x.d) fun d => need (Src.ofCode x.a) fun a => need (Src.ofCode x.b) fun b => .ok (c d a b)
/-- Atomics: bit 11 is D (07 R133). -/
def dAt (c : Fin 64 → Src → Src → Bool → Instr) (x : Fields) : Except Illegal Instr :=
  need (fin? 64 x.d) fun d => need (Src.ofCode x.a) fun a => need (Src.ofCode x.b) fun b => .ok (c d a b (x.w = 1))
/-- The tensor memory form (07 R107): SLOT, RANK and CB lie in bits 31 to 18. -/
def dT (c : Fin 32 → Fin 7 → Fin 64 → Fin 64 → Instr) (x : Fields) : Except Illegal Instr :=
  zeros [x.w] <| need (fin? 32 ((x.b * 128 + x.a) / 512)) fun h => need (fin? 7 ((x.b * 128 + x.a) / 64 % 8)) fun rk =>
    need (fin? 64 ((x.b * 128 + x.a) % 64)) fun cb => need (fin? 64 x.d) fun d => .ok (c h rk cb d)
/-- OFF of the branch form (07 R108), bits 31 to 16: b, a and the top two bits of vd. -/
def Fields.o (x : Fields) : Nat := x.b * 2 ^ 9 + x.a * 4 + x.d / 16
/-- X of the branch form (07 R108). -/
def Fields.x (x : Fields) : Nat := x.d % 16 * 2 + x.w
def dO (c : BitVec 16 → Instr) (x : Fields) : Except Illegal Instr := zeros [x.x] (.ok (c (BitVec.ofNat 16 x.o)))
def dX (c : Fin 32 → Instr) (x : Fields) : Except Illegal Instr := zeros [x.o] <| need (fin? 32 x.x) fun r => .ok (c r)
def dOX (c : BitVec 16 → Fin 32 → Instr) (x : Fields) : Except Illegal Instr :=
  need (fin? 32 x.x) fun r => .ok (c (BitVec.ofNat 16 x.o) r)
def dBr (c : Instr) (x : Fields) : Except Illegal Instr := zeros [x.o, x.x] (.ok c)
/-- ERSET: vd selects the operation, codes 0 to 5 (19 R345). -/
def dErset (x : Fields) : Except Illegal Instr :=
  match x.d with
  | 0 => dM (fun _ a b => .ersetBind a b) { x with d := 0 }
  | 1 => zeros [x.b] <| dM (fun _ a _ => .ersetFree a) { x with d := 0 }
  | 2 => dM (fun _ a b => .ersetPush a b) { x with d := 0 }
  | 3 => dM (fun _ a b => .ersetPop a b) { x with d := 0 }
  | 4 => dM (fun _ a b => .ersetWaitf a b) { x with d := 0 }
  | 5 => dM (fun _ a b => .ersetWaite a b) { x with d := 0 }
  | _ => zeros [x.w] (.error .reservedOperand)

/-! ### Opcode points -/

/-- The assigned points of class 0 by funct6 (07 R123 to R137). -/
def decode0 (x : Fields) : Except Illegal Instr :=
  match x.f with
  | 0 => dV2 .vadd x
  | 1 => dV2 .vsub x
  | 2 => dV2 .vmul x
  | 3 => dV2 .vmulh x
  | 4 => dV2 .vmulhU x
  | 5 => dV2 .vmad x
  | 6 => dV2 .vand x
  | 7 => dV2 .vor x
  | 8 => dV2 .vxor x
  | 9 => dV2 .vshl x
  | 10 => dV2 .vsrl x
  | 11 => dV2 .vsra x
  | 12 => dV2 .vmin x
  | 13 => dV2 .vminU x
  | 14 => dV2 .vmax x
  | 15 => dV2 .vmaxU x
  | 16 => dV1 .vabs x
  | 17 => dV1 .vclz x
  | 18 => dV1 .vpopc x
  | 19 => dV1 .vbrev x
  | 20 => dV2 .vsel x
  | 21 => dV2 .vsat x
  | 22 => dC .vcmp x
  | 32 => dVI .vaddImm x
  | 34 => dVI .vmulImm x
  | 38 => dVI .vandImm x
  | 39 => dVI .vorImm x
  | 40 => dVI .vxorImm x
  | 41 => dVI .vshlImm x
  | 42 => dVI .vsrlImm x
  | 43 => dVI .vsraImm x
  | 44 => dVI .vminImm x
  | 45 => dVI .vminUImm x
  | 46 => dVI .vmaxImm x
  | 47 => dVI .vmaxUImm x
  | 53 => dVI .vsatImm x
  | 54 => dCI .vcmpImm x
  | _ => .error .unassigned

/-- The assigned points of class 1 by funct6 (07 R123 to R137). -/
def decode1 (x : Fields) : Except Illegal Instr :=
  match x.f with
  | 0 => dV2 (fun d a b => .vfadd d a b .rne) x
  | 1 => dV2 (fun d a b => .vfadd d a b .rtz) x
  | 2 => dV2 (fun d a b => .vfadd d a b .rdn) x
  | 3 => dV2 (fun d a b => .vfadd d a b .rup) x
  | 4 => dV2 (fun d a b => .vfsub d a b .rne) x
  | 5 => dV2 (fun d a b => .vfsub d a b .rtz) x
  | 6 => dV2 (fun d a b => .vfsub d a b .rdn) x
  | 7 => dV2 (fun d a b => .vfsub d a b .rup) x
  | 8 => dV2 (fun d a b => .vfmul d a b .rne) x
  | 9 => dV2 (fun d a b => .vfmul d a b .rtz) x
  | 10 => dV2 (fun d a b => .vfmul d a b .rdn) x
  | 11 => dV2 (fun d a b => .vfmul d a b .rup) x
  | 12 => dV2 .vfmin x
  | 13 => dV2 .vfmax x
  | 14 => dV1 .vfabs x
  | 15 => dV1 .vfneg x
  | 16 => dV1 .vfrcp x
  | 17 => dV1 .vfrsq x
  | 18 => dV1 .vfexp2 x
  | 19 => dV1 .vflog2 x
  | 20 => dV1 .vfsin x
  | 21 => dV1 .vfcos x
  | 22 => dV1 .vftanh x
  | 23 => dFC .vfcmp x
  | _ => .error .unassigned

/-- The assigned points of class 3 by funct6 (07 R123 to R137). -/
def decode3 (x : Fields) : Except Illegal Instr :=
  match x.f with
  | 0 => dV1 (fun d a => .vcvtF32I32 d a .rne) x
  | 1 => dV1 (fun d a => .vcvtF32I32 d a .rtz) x
  | 2 => dV1 (fun d a => .vcvtF32I32 d a .rdn) x
  | 3 => dV1 (fun d a => .vcvtF32I32 d a .rup) x
  | 4 => dV1 (fun d a => .vcvtI32F32 d a .rne) x
  | 5 => dV1 (fun d a => .vcvtI32F32 d a .rtz) x
  | 6 => dV1 (fun d a => .vcvtI32F32 d a .rdn) x
  | 7 => dV1 (fun d a => .vcvtI32F32 d a .rup) x
  | 8 => dV1 (fun d a => .vcvtF16F32 d a .rne) x
  | 9 => dV1 (fun d a => .vcvtF16F32 d a .rtz) x
  | 10 => dV1 (fun d a => .vcvtF16F32 d a .rdn) x
  | 11 => dV1 (fun d a => .vcvtF16F32 d a .rup) x
  | 12 => dV1 (fun d a => .vcvtBf16F32 d a .rne) x
  | 13 => dV1 (fun d a => .vcvtBf16F32 d a .rtz) x
  | 14 => dV1 (fun d a => .vcvtBf16F32 d a .rdn) x
  | 15 => dV1 (fun d a => .vcvtBf16F32 d a .rup) x
  | 16 => dV1 .vcvtF32F16 x
  | 17 => dV1 .vcvtF32Bf16 x
  | 20 => dV2 (fun d a b => .vpackH2 d a b .rne) x
  | 21 => dV2 (fun d a b => .vpackH2 d a b .rtz) x
  | 22 => dV2 (fun d a b => .vpackH2 d a b .rdn) x
  | 23 => dV2 (fun d a b => .vpackH2 d a b .rup) x
  | 24 => dV2 (fun d a b => .vpackB2 d a b .rne) x
  | 25 => dV2 (fun d a b => .vpackB2 d a b .rtz) x
  | 26 => dV2 (fun d a b => .vpackB2 d a b .rdn) x
  | 27 => dV2 (fun d a b => .vpackB2 d a b .rup) x
  | 28 => dV2 .vpackI16 x
  | 32 => dV2 (fun d a b => .vunpk d a b 0) x
  | 33 => dV2 (fun d a b => .vunpk d a b 1) x
  | 34 => dV2 (fun d a b => .vunpk d a b 2) x
  | 35 => dV2 (fun d a b => .vunpk d a b 3) x
  | 36 => dV2 (fun d a b => .vunpk d a b 4) x
  | 37 => dV2 (fun d a b => .vunpk d a b 5) x
  | 38 => dV2 (fun d a b => .vunpk d a b 6) x
  | 39 => dV2 (fun d a b => .vunpk d a b 7) x
  | 40 => dVI .vqnt x
  | 41 => dVI .vdqnt x
  | 48 => dV1 .vmov x
  | 49 => dK .vmovk x
  | 50 => dS2 .vmovs x
  | _ => .error .unassigned

/-- The assigned points of class 4 by funct6 (07 R123 to R137). -/
def decode4 (x : Fields) : Except Illegal Instr :=
  match x.f with
  | 0 => dV2 (fun d a b => .vvote d a b 0) x
  | 1 => dV2 (fun d a b => .vvote d a b 1) x
  | 2 => dV2 (fun d a b => .vvote d a b 2) x
  | 3 => dV2 (fun d a b => .vvote d a b 3) x
  | 4 => dV2 (fun d a b => .vshfl d a b 0) x
  | 5 => dV2 (fun d a b => .vshfl d a b 1) x
  | 6 => dV2 (fun d a b => .vshfl d a b 2) x
  | 7 => dV2 (fun d a b => .vshfl d a b 3) x
  | 8 => dV2 .vbcast x
  | 12 => dB .setpart x
  | 16 => dV1 (fun d a => .vred d a .add) x
  | 17 => dV1 (fun d a => .vred d a .min) x
  | 18 => dV1 (fun d a => .vred d a .max) x
  | 19 => dV1 (fun d a => .vred d a .minU) x
  | 20 => dV1 (fun d a => .vred d a .maxU) x
  | 21 => dV1 (fun d a => .vred d a .and) x
  | 22 => dV1 (fun d a => .vred d a .or) x
  | 23 => dV1 (fun d a => .vred d a .xor) x
  | 24 => dV1 (fun d a => .vred d a .fadd) x
  | 25 => dV1 (fun d a => .vred d a .fmin) x
  | 26 => dV1 (fun d a => .vred d a .fmax) x
  | 36 => dVI (fun d a i => .vshflImm d a i 0) x
  | 37 => dVI (fun d a i => .vshflImm d a i 1) x
  | 38 => dVI (fun d a i => .vshflImm d a i 2) x
  | 39 => dVI (fun d a i => .vshflImm d a i 3) x
  | 40 => dVI .vbcastImm x
  | 44 => dI .setpartImm x
  | 48 => dV1 (fun d a => .vscan d a .add) x
  | 49 => dV1 (fun d a => .vscan d a .min) x
  | 50 => dV1 (fun d a => .vscan d a .max) x
  | 51 => dV1 (fun d a => .vscan d a .minU) x
  | 52 => dV1 (fun d a => .vscan d a .maxU) x
  | 53 => dV1 (fun d a => .vscan d a .and) x
  | 54 => dV1 (fun d a => .vscan d a .or) x
  | 55 => dV1 (fun d a => .vscan d a .xor) x
  | 56 => dV1 (fun d a => .vscan d a .fadd) x
  | 57 => dV1 (fun d a => .vscan d a .fmin) x
  | 58 => dV1 (fun d a => .vscan d a .fmax) x
  | _ => .error .unassigned

/-- The assigned points of class 5 by funct6 (07 R123 to R137). -/
def decode5 (x : Fields) : Except Illegal Instr :=
  match x.f with
  | 0 => dS2 .sadd x
  | 1 => dS2 .ssub x
  | 2 => dS2 .smul x
  | 3 => dS2 .smulh x
  | 4 => dS2 .smulhU x
  | 5 => dS2 .sdiv x
  | 6 => dS2 .sdivU x
  | 7 => dS2 .srem x
  | 8 => dS2 .sremU x
  | 9 => dS2 .sand x
  | 10 => dS2 .sor x
  | 11 => dS2 .sxor x
  | 12 => dS2 .sshl x
  | 13 => dS2 .ssrl x
  | 14 => dS2 .ssra x
  | 15 => dS2 .smin x
  | 16 => dS2 .sminU x
  | 17 => dS2 .smax x
  | 18 => dS2 .smaxU x
  | 19 => dS2 .ssel x
  | 20 => dS1 .smov x
  | 21 => dR2 .saddD x
  | 22 => dC .scmp x
  | 32 => dSI .saddImm x
  | 34 => dSI .smulImm x
  | 41 => dSI .sandImm x
  | 42 => dSI .sorImm x
  | 43 => dSI .sxorImm x
  | 44 => dSI .sshlImm x
  | 45 => dSI .ssrlImm x
  | 46 => dSI .ssraImm x
  | 52 => dSK .sli x
  | 53 => dRI .saddDImm x
  | 54 => dCI .scmpImm x
  | _ => .error .unassigned

/-- The assigned points of class 6 by funct6 (07 R123 to R137). -/
def decode6 (x : Fields) : Except Illegal Instr :=
  match x.f with
  | 0 => dO .bra x
  | 1 => dO .brc x
  | 2 => dO .brcN x
  | 4 => dX .jmp x
  | 5 => dOX .call x
  | 6 => dX .ret x
  | 8 => dOX (fun o x => .loop o x 0) x
  | 9 => dOX (fun o x => .loop o x 1) x
  | 10 => dOX (fun o x => .loop o x 2) x
  | 11 => dX .lbrk x
  | 12 => dBr .regangW x
  | 13 => dBr .regangN x
  | 16 => dBr .exit x
  | 17 => dBr .nop x
  | 18 => dBr .yield x
  | _ => .error .unassigned

/-- The assigned points of class 7 by funct6 (07 R123 to R137). -/
def decode7 (x : Fields) : Except Illegal Instr :=
  match x.f with
  | 0 => dMk .msave x
  | 1 => dMa .mrest x
  | 2 => dMa .mand x
  | 3 => dMa .mor x
  | 4 => dMa .mandn x
  | 5 => dMa .mxor x
  | 6 => dMa .mset x
  | 7 => dMk .mpop x
  | 8 => dMk .mfirst x
  | 16 => dMeld .meld x
  | 17 => dNone .melde x
  | 18 => dVrI .mtw x
  | 19 => dS1 .mtr x
  | 20 => dKb .kset x
  | 52 => dKi .ksetImm x
  | _ => .error .unassigned

/-- The assigned points of class 8 by funct6 (07 R123 to R137). -/
def decode8 (x : Fields) : Except Illegal Instr :=
  match x.f with
  | 0 => dM (fun d a b => .ld d a b 0) x
  | 1 => dM (fun d a b => .st d a b 0) x
  | 4 => dM (fun d a b => .spld d a b 0) x
  | 5 => dM (fun d a b => .spst d a b 0) x
  | 6 => dT (fun h rk cb d => .tld h rk cb d 0) x
  | 7 => dT (fun h rk cb d => .tst h rk cb d 0) x
  | 8 => dAB .pref x
  | 9 => dHA .shpld x
  | 10 => dH .shpinv x
  | 11 => dM (fun d a b => .ldSigned d a b 0) x
  | 12 => dM (fun d a b => .spldSigned d a b 0) x
  | 16 => dM (fun d a b => .ld d a b 1) x
  | 17 => dM (fun d a b => .st d a b 1) x
  | 20 => dM (fun d a b => .spld d a b 1) x
  | 21 => dM (fun d a b => .spst d a b 1) x
  | 22 => dT (fun h rk cb d => .tld h rk cb d 1) x
  | 23 => dT (fun h rk cb d => .tst h rk cb d 1) x
  | 27 => dM (fun d a b => .ldSigned d a b 1) x
  | 28 => dM (fun d a b => .spldSigned d a b 1) x
  | 32 => dM (fun d a b => .ld d a b 2) x
  | 33 => dM (fun d a b => .st d a b 2) x
  | 34 => dR2 (fun d a b => .lds d a b false) x
  | 35 => dR2 (fun d a b => .sts d a b false) x
  | 36 => dM (fun d a b => .spld d a b 2) x
  | 37 => dM (fun d a b => .spst d a b 2) x
  | 38 => dT (fun h rk cb d => .tld h rk cb d 2) x
  | 39 => dT (fun h rk cb d => .tst h rk cb d 2) x
  | 48 => dM (fun d a b => .ld d a b 3) x
  | 49 => dM (fun d a b => .st d a b 3) x
  | 50 => dR2 (fun d a b => .lds d a b true) x
  | 51 => dR2 (fun d a b => .sts d a b true) x
  | 52 => dM (fun d a b => .spld d a b 3) x
  | 53 => dM (fun d a b => .spst d a b 3) x
  | 54 => dT (fun h rk cb d => .tld h rk cb d 3) x
  | 55 => dT (fun h rk cb d => .tst h rk cb d 3) x
  | _ => .error .unassigned

/-- The assigned points of class 9 by funct6 (07 R123 to R137). -/
def decode9 (x : Fields) : Except Illegal Instr :=
  match x.f with
  | 0 => dAt (fun d a b x => .atomDie d a b x .add) x
  | 1 => dAt (fun d a b x => .atomDie d a b x .min) x
  | 2 => dAt (fun d a b x => .atomDie d a b x .max) x
  | 3 => dAt (fun d a b x => .atomDie d a b x .and) x
  | 4 => dAt (fun d a b x => .atomDie d a b x .or) x
  | 5 => dAt (fun d a b x => .atomDie d a b x .xor) x
  | 6 => dAt (fun d a b x => .atomDie d a b x .exch) x
  | 7 => dAt (fun d a b x => .atomDie d a b x .cas) x
  | 8 => dAt (fun d a b x => .atomDie d a b x .fadd) x
  | 11 => dSc .fence x
  | 12 => dSc .rel x
  | 13 => dSc .acq x
  | 14 => dVSc .lda32 x
  | 15 => dVSc .lda64 x
  | 16 => dAt (fun d a b x => .atomPkg d a b x .add) x
  | 17 => dAt (fun d a b x => .atomPkg d a b x .min) x
  | 18 => dAt (fun d a b x => .atomPkg d a b x .max) x
  | 19 => dAt (fun d a b x => .atomPkg d a b x .and) x
  | 20 => dAt (fun d a b x => .atomPkg d a b x .or) x
  | 21 => dAt (fun d a b x => .atomPkg d a b x .xor) x
  | 22 => dAt (fun d a b x => .atomPkg d a b x .exch) x
  | 23 => dAt (fun d a b x => .atomPkg d a b x .cas) x
  | 24 => dAt (fun d a b x => .atomPkg d a b x .fadd) x
  | 27 => dVSc .stl32 x
  | 28 => dVSc .stl64 x
  | 29 => dPa .waitp x
  | 30 => dR0 .cntr x
  | 31 => dAB .bar x
  | 32 => dAt (fun d a b x => .atomSys d a b x .add) x
  | 33 => dAt (fun d a b x => .atomSys d a b x .min) x
  | 34 => dAt (fun d a b x => .atomSys d a b x .max) x
  | 35 => dAt (fun d a b x => .atomSys d a b x .and) x
  | 36 => dAt (fun d a b x => .atomSys d a b x .or) x
  | 37 => dAt (fun d a b x => .atomSys d a b x .xor) x
  | 38 => dAt (fun d a b x => .atomSys d a b x .exch) x
  | 39 => dAt (fun d a b x => .atomSys d a b x .cas) x
  | 40 => dAt (fun d a b x => .atomSys d a b x .fadd) x
  | 43 => dAB .bara x
  | 44 => dA .barw x
  | 45 => dNone .dbar x
  | 46 => dNone .gbar x
  | 47 => dR2 .cwait x
  | 48 => dAt (fun d a b x => .atoms d a b x .add) x
  | 49 => dAt (fun d a b x => .atoms d a b x .min) x
  | 50 => dAt (fun d a b x => .atoms d a b x .max) x
  | 51 => dAt (fun d a b x => .atoms d a b x .and) x
  | 52 => dAt (fun d a b x => .atoms d a b x .or) x
  | 53 => dAt (fun d a b x => .atoms d a b x .xor) x
  | 54 => dAt (fun d a b x => .atoms d a b x .exch) x
  | 55 => dAt (fun d a b x => .atoms d a b x .cas) x
  | 56 => dAt (fun d a b x => .atoms d a b x .fadd) x
  | 59 => dAB .csig x
  | _ => .error .unassigned

/-- The assigned points of class 10 by funct6 (07 R123 to R137). -/
def decode10 (x : Fields) : Except Illegal Instr :=
  match x.f with
  | 2 => dVr .mzero x
  | 6 => dVrM .mcvtH2 x
  | 10 => dVrM .mcvtB2 x
  | 14 => dVrM .mcvtF32 x
  | 18 => dVrM .mcvtI32 x
  | 22 => dAB .msclB x
  | 26 => dAB .msclP x
  | _ => .error .unassigned

/-- The assigned points of class 11 by funct6 (07 R123 to R137). -/
def decode11 (x : Fields) : Except Illegal Instr :=
  match x.f with
  | 1 => dA .ecopy x
  | 2 => dA .egath x
  | 3 => dA .escat x
  | 4 => dA .ered x
  | 5 => dA .ebcast x
  | 8 => dR1 .prsv x
  | 9 => dAB .pcmt x
  | 10 => dR1 .pacq x
  | 11 => dAB .prel x
  | 12 => dR1 .ptryR x
  | 13 => dR1 .ptryA x
  | 14 => dR1 .pstat x
  | 16 => dAB .pmsg x
  | 17 => dR2 .precv x
  | 24 => dR2 .klaunch x
  | 25 => dR2 .glaunch x
  | 26 => dAB .gcond x
  | 0 => dErset x
  | _ => .error .unassigned

/-- The assigned points of class 12 by funct6 (07 R123 to R137). -/
def decode12 (x : Fields) : Except Illegal Instr :=
  match x.f with
  | 0 => dR1 .rsplit x
  | 1 => dR1 .rmerge x
  | 2 => dR2 .rprot x
  | 3 => dScAB .rinval x
  | 4 => dR1 .rprobe x
  | 5 => dR2 .rres x
  | 6 => dR1 .rpress x
  | 8 => dScAB .cwb x
  | 9 => dScAB .cinv x
  | _ => .error .unassigned

/-- The assigned points of class 13 by funct6 (07 R123 to R137). -/
def decode13 (x : Fields) : Except Illegal Instr :=
  match x.f with
  | 0 => dA .trap x
  | 1 => dNone .bkpt x
  | 2 => dSysr .sysr x
  | 3 => dSysw .sysw x
  | 4 => dNone .ilbf x
  | 35 => dSyswI .syswImm x
  | _ => .error .unassigned

/-- Class 2, the FMA form (07 R106). TYPE lies in funct6[1:0], RM in [3:2], NP in [4], NA in [5]. -/
def decode2 (x : Fields) : Except Illegal Instr :=
  need' x (x.f % 4)
where
  need' (x : Fields) : Nat → Except Illegal Instr
    | 0 => k (fun d a b na np m => .vfmaF32 d a b na np m) x
    | 1 => k (fun d a b na np m => .vfmaH2 d a b na np m) x
    | 2 => k (fun d a b na np m => .vfmaB2 d a b na np m) x
    | _ => .error .unassigned
  k (c : Dst → Src → Src → Bool → Bool → Rm → Instr) (x : Fields) : Except Illegal Instr :=
    dst x fun d => need (Src.ofCode x.a) fun a => need (Src.ofCode x.b) fun b => need (Rm.ofCode (x.f / 4 % 4)) fun m =>
      .ok (c d a b (x.f / 32 = 1) (x.f / 16 % 2 = 1) m)

/-- The matrix form (07 R110). -/
def decodeMatrix (w : Nat) : Except Illegal Instr :=
  need (fin? 64 (w / 2 ^ 26 % 64)) fun vb => need (fin? 64 (w / 2 ^ 20 % 64)) fun va =>
  need (fin? 64 (w / 2 ^ 14 % 64)) fun vf => need (fin? 64 (w / 2 ^ 8 % 64)) fun vc =>
    .ok (if w / 2 ^ 5 % 4 = 0 then .mma vb va vf vc (w / 2 ^ 7 % 2 = 1) else .mmas vb va vf vc (w / 2 ^ 7 % 2 = 1))

/-- A LIMM (07 R111). -/
def decodeLimm (w : Nat) : Except Illegal Instr := zeros [w / 2 ^ 5 % 4] (.ok (.limm (BitVec.ofNat 25 (w / 2 ^ 7))))

/-- A 32-bit word other than a SWITCH: class by bits 4 to 1 (07 R104). -/
def decode32 (w : Nat) : Except Illegal Instr :=
  match w / 2 % 16 with
  | 0 => decode0 (Fields.of w)
  | 1 => decode1 (Fields.of w)
  | 2 => decode2 (Fields.of w)
  | 3 => decode3 (Fields.of w)
  | 4 => decode4 (Fields.of w)
  | 5 => decode5 (Fields.of w)
  | 6 => decode6 (Fields.of w)
  | 7 => decode7 (Fields.of w)
  | 8 => decode8 (Fields.of w)
  | 9 => decode9 (Fields.of w)
  | 10 => if w / 2 ^ 5 % 4 < 2 then decodeMatrix w else decode10 (Fields.of w)
  | 11 => decode11 (Fields.of w)
  | 12 => decode12 (Fields.of w)
  | 13 => decode13 (Fields.of w)
  | 14 => decodeLimm w
  | _ => .error .unassigned

/-- The 16-bit form (07 R101 to R103). -/
def short (op : Nat) (d : Fin 64) (s : Fin 32) : Instr :=
  match op with
  | 0 => .vaddShort d s
  | 1 => .vsubShort d s
  | 2 => .vandShort d s
  | 3 => .vorShort d s
  | 4 => .vxorShort d s
  | 5 => .vshlShort d s
  | 6 => .vsrlShort d s
  | 7 => .vsraShort d s
  | 8 => .vminShort d s
  | 9 => .vmaxShort d s
  | 10 => .vfaddShort d s
  | 11 => .vfsubShort d s
  | 12 => .vfmulShort d s
  | 13 => .vmovShort d s
  | 14 => .vaddi d s
  | _ => .vneg d s

/-- A halfword (07 R101, R103). -/
def decode16 (w : Nat) : Except Illegal Instr :=
  if w % 2 ^ 16 = 0 then .error .unassigned
  else need (fin? 64 (w / 2 ^ 5 % 64)) fun d => need (fin? 32 (w / 2 ^ 11 % 32)) fun s => .ok (short (w / 2 % 16) d s)

/-- The halfword at the head of a list of bytes (00 R4). -/
def half : List Byte → Nat
  | b0 :: b1 :: _ => b0.toNat + 256 * b1.toNat
  | _ => 0

/-- A case of a SWITCH (07 R109). -/
def SwCase.ofHalf (h : Nat) : SwCase :=
  { v := ⟨h % 64, by omega⟩, off := BitVec.ofNat 10 (h / 64) }

def SwCase.toHalf (c : SwCase) : Nat := c.off.toNat * 64 + c.v.val

/-- The first `n` cases of the case words. -/
def cases : Nat → List Byte → List SwCase
  | 0, _ => []
  | n + 1, bs => SwCase.ofHalf (half bs) :: cases n (bs.drop 2)

/-- A SWITCH with its case words (07 R109). -/
def decodeSwitch (w : Nat) (bs : List Byte) : Except Illegal Instr :=
  let x := Fields.of w
  let n := x.a % 8 + 1
  zeros [x.b, x.a / 8, x.w, if n % 2 = 1 then half (bs.drop (2 * n)) else 0] <|
    need (fin? 64 x.d) fun d => .ok (.switch d (cases n bs))

/-- Whether a word is a SWITCH word. -/
def isSwitch (w : Nat) : Bool := w / 2 % 16 == 6 && w / 2 ^ 5 % 64 == 3

/-! ### The encoder -/

/-- The generic form (07 R104). -/
def gen (cls f w d a b : Nat) : Nat := b * 2 ^ 25 + a * 2 ^ 18 + d * 2 ^ 12 + w * 2 ^ 11 + f * 2 ^ 5 + cls * 2 + 1

/-- The branch form (07 R108). -/
def branch (f x o : Nat) : Nat := o * 2 ^ 16 + x * 2 ^ 11 + f * 2 ^ 5 + 6 * 2 + 1

/-- The instruction word: 32 bits, 16 for the short forms, the SWITCH word of a SWITCH. An event has none. -/
def Instr.word : Instr → Nat
  | .vadd d a b => gen 0 0 d.w.toNat d.n.val a.code b.code
  | .vaddImm d a i => gen 0 32 d.w.toNat d.n.val a.code i.val
  | .vsub d a b => gen 0 1 d.w.toNat d.n.val a.code b.code
  | .vmul d a b => gen 0 2 d.w.toNat d.n.val a.code b.code
  | .vmulImm d a i => gen 0 34 d.w.toNat d.n.val a.code i.val
  | .vmulh d a b => gen 0 3 d.w.toNat d.n.val a.code b.code
  | .vmulhU d a b => gen 0 4 d.w.toNat d.n.val a.code b.code
  | .vmad d a b => gen 0 5 d.w.toNat d.n.val a.code b.code
  | .vand d a b => gen 0 6 d.w.toNat d.n.val a.code b.code
  | .vandImm d a i => gen 0 38 d.w.toNat d.n.val a.code i.val
  | .vor d a b => gen 0 7 d.w.toNat d.n.val a.code b.code
  | .vorImm d a i => gen 0 39 d.w.toNat d.n.val a.code i.val
  | .vxor d a b => gen 0 8 d.w.toNat d.n.val a.code b.code
  | .vxorImm d a i => gen 0 40 d.w.toNat d.n.val a.code i.val
  | .vshl d a b => gen 0 9 d.w.toNat d.n.val a.code b.code
  | .vshlImm d a i => gen 0 41 d.w.toNat d.n.val a.code i.val
  | .vsrl d a b => gen 0 10 d.w.toNat d.n.val a.code b.code
  | .vsrlImm d a i => gen 0 42 d.w.toNat d.n.val a.code i.val
  | .vsra d a b => gen 0 11 d.w.toNat d.n.val a.code b.code
  | .vsraImm d a i => gen 0 43 d.w.toNat d.n.val a.code i.val
  | .vmin d a b => gen 0 12 d.w.toNat d.n.val a.code b.code
  | .vminImm d a i => gen 0 44 d.w.toNat d.n.val a.code i.val
  | .vminU d a b => gen 0 13 d.w.toNat d.n.val a.code b.code
  | .vminUImm d a i => gen 0 45 d.w.toNat d.n.val a.code i.val
  | .vmax d a b => gen 0 14 d.w.toNat d.n.val a.code b.code
  | .vmaxImm d a i => gen 0 46 d.w.toNat d.n.val a.code i.val
  | .vmaxU d a b => gen 0 15 d.w.toNat d.n.val a.code b.code
  | .vmaxUImm d a i => gen 0 47 d.w.toNat d.n.val a.code i.val
  | .vabs d a => gen 0 16 d.w.toNat d.n.val a.code 0
  | .vclz d a => gen 0 17 d.w.toNat d.n.val a.code 0
  | .vpopc d a => gen 0 18 d.w.toNat d.n.val a.code 0
  | .vbrev d a => gen 0 19 d.w.toNat d.n.val a.code 0
  | .vsel d a b => gen 0 20 d.w.toNat d.n.val a.code b.code
  | .vsat d a b => gen 0 21 d.w.toNat d.n.val a.code b.code
  | .vsatImm d a i => gen 0 53 d.w.toNat d.n.val a.code i.val
  | .vcmp c a b => gen 0 22 0 c.code a.code b.code
  | .vcmpImm c a i => gen 0 54 0 c.code a.code i.val
  | .vfadd d a b m => gen 1 (0 + m.code) d.w.toNat d.n.val a.code b.code
  | .vfsub d a b m => gen 1 (4 + m.code) d.w.toNat d.n.val a.code b.code
  | .vfmul d a b m => gen 1 (8 + m.code) d.w.toNat d.n.val a.code b.code
  | .vfmin d a b => gen 1 12 d.w.toNat d.n.val a.code b.code
  | .vfmax d a b => gen 1 13 d.w.toNat d.n.val a.code b.code
  | .vfabs d a => gen 1 14 d.w.toNat d.n.val a.code 0
  | .vfneg d a => gen 1 15 d.w.toNat d.n.val a.code 0
  | .vfrcp d a => gen 1 16 d.w.toNat d.n.val a.code 0
  | .vfrsq d a => gen 1 17 d.w.toNat d.n.val a.code 0
  | .vfexp2 d a => gen 1 18 d.w.toNat d.n.val a.code 0
  | .vflog2 d a => gen 1 19 d.w.toNat d.n.val a.code 0
  | .vfsin d a => gen 1 20 d.w.toNat d.n.val a.code 0
  | .vfcos d a => gen 1 21 d.w.toNat d.n.val a.code 0
  | .vftanh d a => gen 1 22 d.w.toNat d.n.val a.code 0
  | .vfcmp c a b => gen 1 23 0 c.code a.code b.code
  | .vfmaF32 d a b na np m => b.code * 2 ^ 25 + a.code * 2 ^ 18 + d.n.val * 2 ^ 12 + d.w.toNat * 2 ^ 11 + na.toNat * 2 ^ 10 + np.toNat * 2 ^ 9 + m.code * 2 ^ 7 + 0 * 2 ^ 5 + 5
  | .vfmaH2 d a b na np m => b.code * 2 ^ 25 + a.code * 2 ^ 18 + d.n.val * 2 ^ 12 + d.w.toNat * 2 ^ 11 + na.toNat * 2 ^ 10 + np.toNat * 2 ^ 9 + m.code * 2 ^ 7 + 1 * 2 ^ 5 + 5
  | .vfmaB2 d a b na np m => b.code * 2 ^ 25 + a.code * 2 ^ 18 + d.n.val * 2 ^ 12 + d.w.toNat * 2 ^ 11 + na.toNat * 2 ^ 10 + np.toNat * 2 ^ 9 + m.code * 2 ^ 7 + 2 * 2 ^ 5 + 5
  | .vcvtF32I32 d a m => gen 3 (0 + m.code) d.w.toNat d.n.val a.code 0
  | .vcvtI32F32 d a m => gen 3 (4 + m.code) d.w.toNat d.n.val a.code 0
  | .vcvtF16F32 d a m => gen 3 (8 + m.code) d.w.toNat d.n.val a.code 0
  | .vcvtBf16F32 d a m => gen 3 (12 + m.code) d.w.toNat d.n.val a.code 0
  | .vcvtF32F16 d a => gen 3 16 d.w.toNat d.n.val a.code 0
  | .vcvtF32Bf16 d a => gen 3 17 d.w.toNat d.n.val a.code 0
  | .vpackH2 d a b m => gen 3 (20 + m.code) d.w.toNat d.n.val a.code b.code
  | .vpackB2 d a b m => gen 3 (24 + m.code) d.w.toNat d.n.val a.code b.code
  | .vpackI16 d a b => gen 3 28 d.w.toNat d.n.val a.code b.code
  | .vunpk d a b u => gen 3 (32 + u.val) d.w.toNat d.n.val a.code b.code
  | .vqnt d a i => gen 3 40 d.w.toNat d.n.val a.code i.val
  | .vdqnt d a i => gen 3 41 d.w.toNat d.n.val a.code i.val
  | .vmov d a => gen 3 48 d.w.toNat d.n.val a.code 0
  | .vmovk d i => gen 3 49 d.w.toNat d.n.val 0 i.val
  | .vmovs d a b => gen 3 50 d.w.toNat d.n.val a.code b.code
  | .vvote d a b u => gen 4 (0 + u.val) d.w.toNat d.n.val a.code b.code
  | .vshfl d a b u => gen 4 (4 + u.val) d.w.toNat d.n.val a.code b.code
  | .vshflImm d a i u => gen 4 (36 + u.val) d.w.toNat d.n.val a.code i.val
  | .vbcast d a b => gen 4 8 d.w.toNat d.n.val a.code b.code
  | .vbcastImm d a i => gen 4 40 d.w.toNat d.n.val a.code i.val
  | .setpart b => gen 4 12 0 0 0 b.code
  | .setpartImm i => gen 4 44 0 0 0 i.val
  | .vred d a o => gen 4 (16 + o.code) d.w.toNat d.n.val a.code 0
  | .vscan d a o => gen 4 (48 + o.code) d.w.toNat d.n.val a.code 0
  | .sadd d a b => gen 5 0 d.w.toNat d.n.val a.code b.code
  | .saddImm d a i => gen 5 32 d.w.toNat d.n.val a.code i.val
  | .ssub d a b => gen 5 1 d.w.toNat d.n.val a.code b.code
  | .smul d a b => gen 5 2 d.w.toNat d.n.val a.code b.code
  | .smulImm d a i => gen 5 34 d.w.toNat d.n.val a.code i.val
  | .smulh d a b => gen 5 3 d.w.toNat d.n.val a.code b.code
  | .smulhU d a b => gen 5 4 d.w.toNat d.n.val a.code b.code
  | .sdiv d a b => gen 5 5 d.w.toNat d.n.val a.code b.code
  | .sdivU d a b => gen 5 6 d.w.toNat d.n.val a.code b.code
  | .srem d a b => gen 5 7 d.w.toNat d.n.val a.code b.code
  | .sremU d a b => gen 5 8 d.w.toNat d.n.val a.code b.code
  | .sand d a b => gen 5 9 d.w.toNat d.n.val a.code b.code
  | .sandImm d a i => gen 5 41 d.w.toNat d.n.val a.code i.val
  | .sor d a b => gen 5 10 d.w.toNat d.n.val a.code b.code
  | .sorImm d a i => gen 5 42 d.w.toNat d.n.val a.code i.val
  | .sxor d a b => gen 5 11 d.w.toNat d.n.val a.code b.code
  | .sxorImm d a i => gen 5 43 d.w.toNat d.n.val a.code i.val
  | .sshl d a b => gen 5 12 d.w.toNat d.n.val a.code b.code
  | .sshlImm d a i => gen 5 44 d.w.toNat d.n.val a.code i.val
  | .ssrl d a b => gen 5 13 d.w.toNat d.n.val a.code b.code
  | .ssrlImm d a i => gen 5 45 d.w.toNat d.n.val a.code i.val
  | .ssra d a b => gen 5 14 d.w.toNat d.n.val a.code b.code
  | .ssraImm d a i => gen 5 46 d.w.toNat d.n.val a.code i.val
  | .smin d a b => gen 5 15 d.w.toNat d.n.val a.code b.code
  | .sminU d a b => gen 5 16 d.w.toNat d.n.val a.code b.code
  | .smax d a b => gen 5 17 d.w.toNat d.n.val a.code b.code
  | .smaxU d a b => gen 5 18 d.w.toNat d.n.val a.code b.code
  | .ssel d a b => gen 5 19 d.w.toNat d.n.val a.code b.code
  | .smov d a => gen 5 20 d.w.toNat d.n.val a.code 0
  | .saddD d a b => gen 5 21 0 d.val a.code b.code
  | .saddDImm d a i => gen 5 53 0 d.val a.code i.val
  | .scmp c a b => gen 5 22 0 c.code a.code b.code
  | .scmpImm c a i => gen 5 54 0 c.code a.code i.val
  | .sli d i => gen 5 52 d.w.toNat d.n.val 0 i.val
  | .bra o => branch 0 0 o.toNat
  | .brc o => branch 1 0 o.toNat
  | .brcN o => branch 2 0 o.toNat
  | .switch d cs => gen 6 3 0 d.val ((cs.length - 1) % 8) 0
  | .jmp x => branch 4 x.val 0
  | .call o x => branch 5 x.val o.toNat
  | .ret x => branch 6 x.val 0
  | .loop o x l => branch (8 + l.val) x.val o.toNat
  | .lbrk x => branch 11 x.val 0
  | .regangW => gen 6 12 0 0 0 0
  | .regangN => gen 6 13 0 0 0 0
  | .exit => gen 6 16 0 0 0 0
  | .nop => gen 6 17 0 0 0 0
  | .yield => gen 6 18 0 0 0 0
  | .msave d mk => gen 7 0 d.w.toNat d.n.val 0 mk.code
  | .mrest mk a => gen 7 1 0 0 a.code mk.code
  | .mand mk a => gen 7 2 0 0 a.code mk.code
  | .mor mk a => gen 7 3 0 0 a.code mk.code
  | .mandn mk a => gen 7 4 0 0 a.code mk.code
  | .mxor mk a => gen 7 5 0 0 a.code mk.code
  | .mset mk a => gen 7 6 0 0 a.code mk.code
  | .mpop d mk => gen 7 7 d.w.toNat d.n.val 0 mk.code
  | .mfirst d mk => gen 7 8 d.w.toNat d.n.val 0 mk.code
  | .meld four a b => gen 7 16 0 four.toNat a.code b.code
  | .melde => gen 7 17 0 0 0 0
  | .mtw d i => gen 7 18 0 d.val 0 i.val
  | .mtr d a => gen 7 19 d.w.toNat d.n.val a.code 0
  | .kset k b => gen 7 20 0 k.val 0 b.code
  | .ksetImm k i => gen 7 52 0 k.val 0 i.val
  | .ld d a b z => gen 8 (0 + 16 * z.val) 0 d.val a.code b.code
  | .ldSigned d a b z => gen 8 (11 + 16 * z.val) 0 d.val a.code b.code
  | .st d a b z => gen 8 (1 + 16 * z.val) 0 d.val a.code b.code
  | .lds d a b z => gen 8 (34 + 16 * z.toNat) 0 d.val a.code b.code
  | .sts d a b z => gen 8 (35 + 16 * z.toNat) 0 d.val a.code b.code
  | .spld d a b z => gen 8 (4 + 16 * z.val) 0 d.val a.code b.code
  | .spldSigned d a b z => gen 8 (12 + 16 * z.val) 0 d.val a.code b.code
  | .spst d a b z => gen 8 (5 + 16 * z.val) 0 d.val a.code b.code
  | .tld h rk cb d z => h.val * 2 ^ 27 + rk.val * 2 ^ 24 + cb.val * 2 ^ 18 + d.val * 2 ^ 12 + (6 + 16 * z.val) * 2 ^ 5 + 8 * 2 + 1
  | .tst h rk cb d z => h.val * 2 ^ 27 + rk.val * 2 ^ 24 + cb.val * 2 ^ 18 + d.val * 2 ^ 12 + (7 + 16 * z.val) * 2 ^ 5 + 8 * 2 + 1
  | .pref a b => gen 8 8 0 0 a.code b.code
  | .shpld h a => gen 8 9 0 h.val a.code 0
  | .shpinv h => gen 8 10 0 h.val 0 0
  | .atomDie d a b x o => gen 9 (0 + o.code) x.toNat d.val a.code b.code
  | .atomPkg d a b x o => gen 9 (16 + o.code) x.toNat d.val a.code b.code
  | .atomSys d a b x o => gen 9 (32 + o.code) x.toNat d.val a.code b.code
  | .atoms d a b x o => gen 9 (48 + o.code) x.toNat d.val a.code b.code
  | .fence sc => gen 9 11 0 sc.code 0 0
  | .rel sc => gen 9 12 0 sc.code 0 0
  | .acq sc => gen 9 13 0 sc.code 0 0
  | .lda32 d a sc => gen 9 14 0 d.val a.code sc.code
  | .lda64 d a sc => gen 9 15 0 d.val a.code sc.code
  | .stl32 d a sc => gen 9 27 0 d.val a.code sc.code
  | .stl64 d a sc => gen 9 28 0 d.val a.code sc.code
  | .waitp p a => gen 9 29 0 p.code a.code 0
  | .cntr d => gen 9 30 0 d.val 0 0
  | .bar a b => gen 9 31 0 0 a.code b.code
  | .bara a b => gen 9 43 0 0 a.code b.code
  | .barw a => gen 9 44 0 0 a.code 0
  | .dbar => gen 9 45 0 0 0 0
  | .gbar => gen 9 46 0 0 0 0
  | .cwait d a b => gen 9 47 0 d.val a.code b.code
  | .csig a b => gen 9 59 0 0 a.code b.code
  | .mma vb va vf vc q0 => vb.val * 2 ^ 26 + va.val * 2 ^ 20 + vf.val * 2 ^ 14 + vc.val * 2 ^ 8 + q0.toNat * 2 ^ 7 + 0 * 2 ^ 5 + 21
  | .mmas vb va vf vc q0 => vb.val * 2 ^ 26 + va.val * 2 ^ 20 + vf.val * 2 ^ 14 + vc.val * 2 ^ 8 + q0.toNat * 2 ^ 7 + 1 * 2 ^ 5 + 21
  | .mzero d => gen 10 2 0 d.val 0 0
  | .mcvtH2 d a m => gen 10 6 0 d.val a.code m.code
  | .mcvtB2 d a m => gen 10 10 0 d.val a.code m.code
  | .mcvtF32 d a m => gen 10 14 0 d.val a.code m.code
  | .mcvtI32 d a m => gen 10 18 0 d.val a.code m.code
  | .msclB a b => gen 10 22 0 0 a.code b.code
  | .msclP a b => gen 10 26 0 0 a.code b.code
  | .ersetBind a b => gen 11 0 0 0 a.code b.code
  | .ersetFree a => gen 11 0 0 1 a.code 0
  | .ersetPush a b => gen 11 0 0 2 a.code b.code
  | .ersetPop a b => gen 11 0 0 3 a.code b.code
  | .ersetWaitf a b => gen 11 0 0 4 a.code b.code
  | .ersetWaite a b => gen 11 0 0 5 a.code b.code
  | .ecopy a => gen 11 1 0 0 a.code 0
  | .egath a => gen 11 2 0 0 a.code 0
  | .escat a => gen 11 3 0 0 a.code 0
  | .ered a => gen 11 4 0 0 a.code 0
  | .ebcast a => gen 11 5 0 0 a.code 0
  | .prsv d a => gen 11 8 0 d.val a.code 0
  | .pcmt a b => gen 11 9 0 0 a.code b.code
  | .pacq d a => gen 11 10 0 d.val a.code 0
  | .prel a b => gen 11 11 0 0 a.code b.code
  | .ptryR d a => gen 11 12 0 d.val a.code 0
  | .ptryA d a => gen 11 13 0 d.val a.code 0
  | .pstat d a => gen 11 14 0 d.val a.code 0
  | .pmsg a b => gen 11 16 0 0 a.code b.code
  | .precv d a b => gen 11 17 0 d.val a.code b.code
  | .klaunch d a b => gen 11 24 0 d.val a.code b.code
  | .glaunch d a b => gen 11 25 0 d.val a.code b.code
  | .gcond a b => gen 11 26 0 0 a.code b.code
  | .rsplit d a => gen 12 0 0 d.val a.code 0
  | .rmerge d a => gen 12 1 0 d.val a.code 0
  | .rprot d a b => gen 12 2 0 d.val a.code b.code
  | .rinval sc a b => gen 12 3 0 sc.code a.code b.code
  | .rprobe d a => gen 12 4 0 d.val a.code 0
  | .rres d a b => gen 12 5 0 d.val a.code b.code
  | .rpress d a => gen 12 6 0 d.val a.code 0
  | .cwb sc a b => gen 12 8 0 sc.code a.code b.code
  | .cinv sc a b => gen 12 9 0 sc.code a.code b.code
  | .trap a => gen 13 0 0 0 a.code 0
  | .bkpt => gen 13 1 0 0 0 0
  | .sysr n d => gen 13 2 d.w d.n n.val d.b
  | .sysw n b => gen 13 3 0 0 n.val b.code
  | .syswImm n i => gen 13 35 0 0 n.val i.val
  | .ilbf => gen 13 4 0 0 0 0
  | .limm p => p.toNat * 2 ^ 7 + 29
  | .vaddShort d s => s.val * 2 ^ 11 + d.val * 2 ^ 5 + 0 * 2
  | .vsubShort d s => s.val * 2 ^ 11 + d.val * 2 ^ 5 + 1 * 2
  | .vandShort d s => s.val * 2 ^ 11 + d.val * 2 ^ 5 + 2 * 2
  | .vorShort d s => s.val * 2 ^ 11 + d.val * 2 ^ 5 + 3 * 2
  | .vxorShort d s => s.val * 2 ^ 11 + d.val * 2 ^ 5 + 4 * 2
  | .vshlShort d s => s.val * 2 ^ 11 + d.val * 2 ^ 5 + 5 * 2
  | .vsrlShort d s => s.val * 2 ^ 11 + d.val * 2 ^ 5 + 6 * 2
  | .vsraShort d s => s.val * 2 ^ 11 + d.val * 2 ^ 5 + 7 * 2
  | .vminShort d s => s.val * 2 ^ 11 + d.val * 2 ^ 5 + 8 * 2
  | .vmaxShort d s => s.val * 2 ^ 11 + d.val * 2 ^ 5 + 9 * 2
  | .vfaddShort d s => s.val * 2 ^ 11 + d.val * 2 ^ 5 + 10 * 2
  | .vfsubShort d s => s.val * 2 ^ 11 + d.val * 2 ^ 5 + 11 * 2
  | .vfmulShort d s => s.val * 2 ^ 11 + d.val * 2 ^ 5 + 12 * 2
  | .vmovShort d s => s.val * 2 ^ 11 + d.val * 2 ^ 5 + 13 * 2
  | .vaddi d i => i.val * 2 ^ 11 + d.val * 2 ^ 5 + 14 * 2
  | .vneg d s => s.val * 2 ^ 11 + d.val * 2 ^ 5 + 15 * 2
  | .illegalInstruction _ iword => iword
  | .waiterRelease _ _ => 0
  | .mmaWriteback _ _ => 0
  | .scaleLineFill _ _ _ _ => 0
  | .matrixUnitRestore _ _ _ => 0
  | .engineFire _ => 0
  | .engineComplete _ => 0
  | .engineFault _ _ => 0
  | .pressLineMove _ => 0
  | .pressSwitch _ => 0
  | .handlerLaunch _ _ => 0
  | .tresumeResume _ _ => 0
  | .tresumeResumeWithout _ _ => 0
  | .tresumeStop _ _ => 0
  | .apply _ _ => 0
  | .requestResend => 0
  | .registerWrite _ _ => 0
  | .doorbell _ _ => 0
  | .deviceQueueRead _ _ => 0
  | .dispatch _ => 0
  | .teamPlacement _ _ _ => 0
  | .teamStart _ => 0
  | .teamRestore _ _ _ => 0
  | .packetComplete _ _ => 0
  | .kernelLaunch _ _ => 0
  | .planStart _ _ _ => 0
  | .graphLaunch _ _ => 0
  | .queueCreate _ _ => 0
  | .contextCreate _ _ _ _ _ => 0
  | .contextDestroy _ _ => 0
  | .rangeMap _ _ => 0
  | .rangeUnmap _ _ => 0
  | .quotaSet _ _ => 0
  | .planLoad _ _ _ => 0
  | .planStop _ _ => 0
  | .planRestart _ _ _ => 0
  | .graphLoad _ _ => 0
  | .signal _ _ => 0
  | .wait _ _ => 0
  | .waitRelease _ _ => 0
  | .preempt _ _ => 0
  | .preemptResume _ _ => 0
  | .preemptMove _ _ => 0
  | .linkReconf _ _ => 0
  | .drainMarkerAck _ => 0
  | .portRelock _ _ _ _ => 0
  | .dieReset _ _ => 0
  | .attest _ _ => 0
  | .domainSet _ _ => 0
  | .epochTimeout _ => 0
  | .dirtyTableFull _ => 0
  | .accessReturn _ _ => 0
  | .lateFault _ _ => 0
  | .forcedSave _ _ => 0
  | .timeSliceExpiry _ => 0
  | .aging _ _ => 0
  | .balancerPeriod _ _ => 0
  | .kernelNode _ _ => 0
  | .planNode _ _ => 0
  | .signalNode _ _ => 0
  | .conditionalNode _ _ => 0
  | .whileNode _ _ => 0
  | .graphEnqueueArrive _ _ => 0
  | .contextStop _ _ => 0
  | .stopReport _ => 0
  | .debuggerHalt _ => 0
  | .debuggerResume _ => 0
  | .hostWrite _ _ => 0
  | .hostRead _ _ => 0
  | .hostAtomicop _ _ _ _ _ => 0
  | .peerWrite _ _ => 0
  | .peerRead _ _ => 0
  | .peerAtomic _ _ _ _ _ => 0
  | .ethernetRx _ _ _ => 0
  | .ethernetTx _ => 0
  | .lambdaRenew _ _ => 0
  | .flitReplay _ => 0
  | .linkFail _ => 0
  | .hostLeasePass => 0
  | .eccCorrected _ _ => 0
  | .registerPoison _ _ _ _ => 0
  | .uncorrectableStateError _ => 0
  | .sectorLoss _ _ => 0
  | .thermalThrottle _ _ => 0
  | .thermalShutdown _ _ => 0
  | .powerLimit _ => 0
  | .deviceReset _ => 0
  | .matrixUnitRetention _ _ _ => 0
  | .debuggerAttach _ _ => 0
  | .portLock _ _ _ => 0
  | .remotePipeRequest _ _ _ _ => 0

/-- Whether a constructor is one of the 16-bit forms. -/
def Instr.isShort : Instr → Bool
  | .vaddShort _ _ => true
  | .vsubShort _ _ => true
  | .vandShort _ _ => true
  | .vorShort _ _ => true
  | .vxorShort _ _ => true
  | .vshlShort _ _ => true
  | .vsrlShort _ _ => true
  | .vsraShort _ _ => true
  | .vminShort _ _ => true
  | .vmaxShort _ _ => true
  | .vfaddShort _ _ => true
  | .vfsubShort _ _ => true
  | .vfmulShort _ _ => true
  | .vmovShort _ _ => true
  | .vaddi _ _ => true
  | .vneg _ _ => true
  | _ => false

/-- Whether a constructor is an instruction with an encoding. -/
def Instr.encoded (i : Instr) : Bool := i.word != 0

/-- The length of an instruction in bytes (07 R100, R109). -/
def Instr.size (i : Instr) : Nat :=
  if i.isShort then 2
  else match i with
    | .switch _ cs => 4 + 4 * ((cs.length + 1) / 2)
    | .illegalInstruction _ w => if w % 2 = 0 then 2 else 4
    | _ => 4

/-- The `n` lowest bytes of a number (00 R4). -/
def bytesOf : Nat → Nat → List Byte
  | 0, _ => []
  | n + 1, w => BitVec.ofNat 8 w :: bytesOf n (w / 256)

/-- The case words of a SWITCH, padded to whole words (07 R109). -/
def caseBytes (cs : List SwCase) : List Byte :=
  (cs.map fun c => bytesOf 2 c.toHalf).flatten ++ (if cs.length % 2 = 1 then [0, 0] else [])

/-- The bytes of an instruction. -/
def encode (i : Instr) : List Byte :=
  match i with
  | .switch _ cs => bytesOf 4 i.word ++ caseBytes cs
  | _ => bytesOf i.size i.word

/-! ### The decoder -/

/-- A decoded instruction that breaks a limit of its entry is a reserved operand (07 R121). -/
def checked (r : Except Illegal Instr) : Except Illegal Instr :=
  match r with
  | .ok i => if wellFormed i then .ok i else .error .reservedOperand
  | .error e => .error e

/-- The instruction at the head of a list of bytes; bytes past the end read as 0. -/
def decode (bs : List Byte) : Except Illegal Instr :=
  let h0 := half bs
  if h0 % 2 = 0 then checked (decode16 h0)
  else
    let w := h0 + 65536 * half (bs.drop 2)
    if isSwitch w then checked (decodeSwitch w (bs.drop 4)) else checked (decode32 w)

/-- The word that a trap of an undecodable instruction logs (07 R121). -/
def wordOf (bs : List Byte) : Nat :=
  let h0 := half bs
  if h0 % 2 = 0 then h0 else h0 + 65536 * half (bs.drop 2)

/-- How many bytes the decoder needs to see once it has seen the first four (07 R100, R109). -/
def lengthOf (bs : List Byte) : Nat :=
  let h0 := half bs
  if h0 % 2 = 0 then 2
  else
    let w := h0 + 65536 * half (bs.drop 2)
    if isSwitch w then 4 + 4 * ((w / 2 ^ 18 % 8 + 2) / 2) else 4

/-- The instruction of a row of the opcode table whose low bits are `w`. -/
def decodeTableWord (nbits w : Nat) : Option Instr :=
  match decode (bytesOf 20 (w % 2 ^ nbits)) with
  | .ok i => some i
  | .error _ => none

end Sys2Proof
end

