-- ==== Sys2Proof/Machine/State.lean ====
section
/-! DEFINITION. The state of a T8 package as plain data, the reasons a step can stop, and the state after reset. -/

namespace Sys2Proof.Machine

/-- Memory and every other sparse store of bytes: (address, byte) pairs, addresses strictly rising, no byte zero. An
unlisted address reads 0 (DESIGN CHOICE: assumption log 4). -/
abbrev Mem := List Host.Cell

/-- Ordering codes (00 R1). -/
inductive Form where
  | p512 | m512 | m384
deriving DecidableEq, Repr

/-- What is fused at manufacture: what PKGCFG reports (01 R31), the ordering code, the live positions and the stepping, and the
key and the rollback counter that the boot ROM tests images by (23 R395). -/
structure Fuse where
  form : Form
  dmask : BitVec 8
  step : BitVec 8
  bootKey : Nat := 0
  rollback : Nat := 0
deriving DecidableEq, Repr

/-- A range descriptor (13 R239). -/
structure RangeDesc where
  baseg : Nat
  lastg : Nat
  offs : Int
  prd : Bool
  pwr : Bool
  pex : Bool
  pat : Bool
  cls : Nat
  sonly : Bool
  agent : Nat
  isPartial : Bool
  denyf : Bool
  mapva : Nat
  peer : Nat
  maporg : Nat
deriving DecidableEq, Repr

/-- Copies of 128-byte lines: the line numbers held and their bytes (12 R215). -/
structure Copies where
  lines : List Nat
  data : Mem
deriving DecidableEq, Repr

/-- One line of the scale cache: context, tensor, line number q, the physical addresses of its bytes and the bytes
(05 R95, R97). -/
structure ScaleLine where
  ctx : Nat
  tid : Nat
  q : Nat
  pas : List Nat
  exps : List Nat
deriving DecidableEq, Repr

/-- A cached scale-directory entry (05 R94, R97). -/
structure ScaleEntry where
  ctx : Nat
  tid : Nat
  pa : Nat
  base : Nat
  nblk : Nat
  valid : Bool
deriving DecidableEq, Repr

/-- A core (01 R15). `loops` is the loop buffer of each sequencer cluster: the instructions it holds, latest first, each the
(physical key, value) pairs of its halfwords (09 R183). -/
structure Core where
  l1 : Copies
  icache : Copies
  loops : Tab 4 (List (List (Nat × Nat)))
  rtab : List (Nat × RangeDesc)
  scale : List ScaleLine
  sdir : List ScaleEntry
  retained : BitVec 4
deriving DecidableEq, Repr

/-- An epoch record (12 R226): its number, the sectors its signature covers and the vector clock of its die. -/
structure EpochRec where
  epoch : Nat
  sectors : List Nat
  vc : List Nat
deriving DecidableEq, Repr

/-- A compute die with its die L2 and epoch state (12 R215, R225, R226, R405). `dirty` holds the bytes at the addresses
`dirtyAt` written in the open epoch, `sectors` is the dirty-sector table, `lost` its lost sectors (21 R374), `hdirty` the
dirty bytes of host and peer memory, `stale` the lines held clean that another die has since written directly at their home
(12 R224), `dcache` the descriptors in its range directory cache by context and BASEG (13 R242). -/
structure Die where
  halted : Bool
  l2 : Copies
  stale : List Nat
  dirty : Mem
  dirtyAt : List Nat
  sectors : List Nat
  lost : List Nat
  hdirty : Mem
  hdirtyAt : List Nat
  epoch : Nat
  firstWrite : Option Nat
  vc : List Nat
  log : List EpochRec
  dcache : List (Nat × Nat)
  cores : List Core
  ecc : Nat × Nat × Nat
deriving DecidableEq, Repr

/-- The kind of a divergence-stack entry (03 R50). -/
inductive DivKind where
  | pending | join
deriving DecidableEq, Repr

/-- A divergence-stack entry (03 R50). -/
structure DivEntry where
  kind : DivKind
  pc : Nat
  mask : BitVec 4
  outer : BitVec 4
deriving DecidableEq, Repr

/-- What a slice waits at: REGANG.W (03 R51), a YIELD of a parted warp (03 R62) or a barrier not yet reached by every live
slice (14 R278). -/
inductive SliceWait where
  | none | regang | yield | barrier
deriving DecidableEq, Repr

/-- A slice (03 R33): program counter, divergence stack, and the lowest slice of the gang it issues with. -/
structure Slice where
  pc : Nat
  stack : List DivEntry
  gang : Nat
  wait : SliceWait
deriving DecidableEq, Repr

/-- A bypass latch that is not empty (07 R115). -/
structure Latch where
  scalar : Bool
  val : Tab 32 Word
deriving DecidableEq, Repr

/-- An open melded region (03 R54 to R56): the EXEC to restore, the path of each lane, the instructions from MELD on, MELD
among them. -/
structure Meld where
  saved : BitVec 32
  path : Tab 32 (Option (Fin 4))
  count : Nat
deriving DecidableEq, Repr

/-- A trap or stop record (21 R364). -/
structure TrapRec where
  cause : Nat
  cls : Nat
  lane : Nat
  fex : Nat
  pend : Nat
  skid : Nat
  pc : Nat
  tcode : Nat
  rpc : Nat
  iword : Nat
  va : Nat
  gstate : Nat
  agent : Nat
  reg : Nat
  limit : Nat
  used : Nat
  edesc : Nat
  ctx : Nat
  die : Nat
  core : Nat
  warp : Nat
  team : Nat × Nat × Nat
deriving DecidableEq, Repr

/-- The in-flight counters that memory instructions raise (12 R220). -/
inductive Ctr where
  | ifs | ifg | ift
deriving DecidableEq, Repr

/-- What an unretired access does when it is performed. -/
inductive Act where
  /-- A load of `size` bytes, sign-extended if `signed`. -/
  | load (signed : Bool)
  | store
  | atomic (o : AtomOp)
  /-- An acquiring load and a releasing store (14 R275). -/
  | lda (sc : Scope)
  | stl (sc : Scope)
  /-- CSIG's add (14 R282). -/
  | csig
  /-- MSCL.B's store of the entry of a tensor (16 R305). -/
  | bind (tid : Nat)
  /-- PMSG's copy into the slot that it has reserved, and its commit (19 R356). -/
  | pmsg (pipe slot : Nat)
deriving DecidableEq, Repr

/-- Where an atomic is executed (12 R231). -/
inductive Place where
  | die | home
deriving DecidableEq, Repr

/-- One lane's part of an access: its virtual or scratch address, the physical key, the descriptor of its lookup (none for
scratch), the register written, the data stored or combined and the value compared. -/
structure LaneAcc where
  lane : Nat
  va : Nat
  key : Nat
  desc : Option RangeDesc
  reg : Nat
  data : Nat
  cmp : Nat
deriving DecidableEq, Repr

/-- A chain (07 R116, R119): the PC of its head, the instructions of it that have retired, and the slices that issued them. -/
structure Chain where
  head : Nat
  len : Nat
  gang : BitVec 8
deriving DecidableEq, Repr

/-- The warp state that a cancelled memory instruction puts back (21 R362). -/
structure Snap where
  slices : Tab 8 Slice
  lc : Tab 3 Word
  count : Nat
  chain : Option Chain
deriving DecidableEq, Repr

/-- A memory instruction issued and not yet retired (21 R362): the lanes still to perform, and those performed as (lane,
register, value). `head` is its chain head, `next` the PC after it; `faulted` says that a late fault was found while the warp was stopped or saved (21 R366,
R372). -/
structure Flight where
  ctr : Ctr
  act : Act
  place : Place
  size : Nat
  scalar : Bool
  lanes : List LaneAcc
  done : List (Nat × Nat × Nat)
  gang : BitVec 8
  pc : Nat
  head : Nat
  next : Nat
  iword : Nat
  skid : Nat
  replay : Bool
  faulted : Bool := false
  snap : Snap
deriving DecidableEq, Repr

/-- Accumulator registers that a matrix unit has not written yet (16 R303): (register, lane, value). -/
structure MmaPend where
  c : Nat
  writes : List (Fin 64 × Fin 32 × Word)
deriving DecidableEq, Repr

/-- An event that has stopped a warp: its record, the slices it stopped, the PC after the faulting instruction, the access
that a replay performs, whether the replay is a new issue of the instruction, and the record's address. -/
structure Pending where
  rcd : TrapRec
  gang : BitVec 8
  next : Nat
  late : Option Flight
  redo : Bool
  recVA : Nat
deriving DecidableEq, Repr

/-- The run state of a warp. -/
inductive Run where
  | ready | stopped | saved | exited
deriving DecidableEq, Repr

/-- A warp (03 R33, R37; 07 R99). `retired` counts its retired instructions, `nonmem` those that are no memory instructions (21 R362); SKID of
a record in `engFault` is `nonmem` at the post. `slot` is its index among the resident warps of its core (03 R59); `asked` and `slice` say
whether a PREEMPT or the balancer, and whether a time-slice expiry, has set PREQ (21 R364); `replayData` and `replayFetch` are
the slices that replay an access or a fetch (13 R250); `idle`, `aged` and `last` are, for each slice, the cycles it has been
ready without issuing, whether it is aged, and when it last issued (18 R315). -/
structure Warp where
  core : Nat
  slot : Nat
  v : Tab 64 (Tab 32 Word)
  poison : List (Fin 64 × Fin 32)
  s : Tab 32 Word
  b : Tab 4 (Option Latch)
  exec : BitVec 32
  cm : BitVec 32
  part : BitVec 16
  ften : BitVec 32
  lc : Tab 3 Word
  ls : Tab 3 Nat
  le : Tab 3 Nat
  slices : Tab 8 Slice
  meld : Option Meld
  ren : Tab 4 (Tab 16 (Fin 64))
  k : Tab 4 (Tab 4 Word)
  ifs : Nat
  ifg : Nat
  ift : Nat
  ife : Nat
  preq : Bool
  asked : Bool
  slice : Bool
  ycnt : Nat
  chain : Option Chain
  replayData : BitVec 8
  replayFetch : BitVec 8
  flight : List Flight
  mma : List MmaPend
  barWait : Option (Nat × Nat)
  bara : Tab 16 (Option Nat)
  gridWait : Option (Option Nat × Nat)
  run : Run
  trap : Option Pending
  engFault : List TrapRec
  retired : Nat
  nonmem : Nat
  idle : Tab 8 Nat
  aged : BitVec 8
  last : Tab 8 Nat
deriving DecidableEq, Repr

/-- A shape record (14 R265). -/
structure Shape where
  base : Nat
  scratch : Bool
  rank : Nat
  fmt : Nat
  fault : Bool
  perm : Nat
  ext : List Nat
  pitch : List Int
deriving DecidableEq, Repr

/-- A bound ring (19 R343). -/
structure Ring where
  base : Nat
  scratch : Bool
  elg : Nat
  dlg : Nat
  pi : Word
  ci : Word
deriving DecidableEq, Repr

/-- A named barrier (14 R278): completed phases, the count of the opening arrival and the arrivals of the open phase. -/
structure Barrier where
  phase : Nat
  need : Nat
  arrived : Nat
deriving DecidableEq, Repr

/-- Who a handler team serves (21 R366 to R368). -/
inductive Served where
  | warp (t w : Nat) (rcd : TrapRec) (recVA : Nat)
  | engine (op : Nat) (rcd : TrapRec) (recVA : Nat)
deriving DecidableEq, Repr

/-- The life of a team. -/
inductive TeamPhase where
  | placed | running | saved | exited
deriving DecidableEq, Repr

/-- A team (03 R33 to R40). `backing` is the die whose L2 backs the frames of a saved team (03 R65, R66). -/
structure Team where
  ctx : Nat
  part : Nat
  job : Nat
  plan : Option (Nat × Nat)
  graph : Option Nat
  linear : Nat
  x : Nat
  y : Nat
  z : Nat
  gx : Nat
  gy : Nat
  gz : Nat
  dien : Nat
  dies : List Nat
  die : Nat
  backing : Nat
  core : Nat
  teamw : Nat
  span : Bool
  vregs : Nat
  frames : Nat
  nbar : Nat
  tlanes : Nat
  args : Nat
  argsz : Nat
  super : Bool
  cor : Bool
  prio : Nat
  boost : Bool
  desched : Bool
  suspended : Bool
  sameDie : Bool
  placedAt : Nat
  phase : TeamPhase
  warps : List Warp
  scratch : Mem
  shapes : Tab 32 (Option Shape)
  rings : Tab 16 (Option Ring)
  bars : Tab 16 Barrier
  gridArrived : Nat
  gridSeen : List Nat
  shareArrived : List (Nat × Nat)
  served : Option Served
  resumed : Bool
deriving DecidableEq, Repr

/-- A launch packet (18 R311). -/
structure Packet where
  kind : Nat
  cor : Bool
  miss : Nat
  reld : Bool
  dies : Nat
  stag : Nat
  prio : Nat
  ord : Bool
  gx : Nat
  gy : Nat
  gz : Nat
  cmd : Nat
  obj : Nat
  args : Nat
  argsz : Nat
  ccnt : Nat
  cinc : Nat
  deadline : Nat
  sva : Nat
  ctx : Nat
  kl : Bool
  reservedOk : Bool
deriving DecidableEq, Repr

/-- A kernel descriptor (03 R40). -/
structure KDesc where
  entry : Nat
  vregs : Nat
  span : Bool
  teamw : Nat
  nbar : Nat
  frames : Nat
  tlanes : Nat
  nshape : Nat
  shapes : Nat
deriving DecidableEq, Repr

/-- The state of a packet that firmware has taken. -/
inductive JobPhase where
  /-- In arbitration (18 R310). -/
  | taken
  /-- Dispatched, its work not yet done. -/
  | dispatched
  /-- Its effect is under way: a running kernel, plan, graph, WAIT or PREEMPT. -/
  | running
  /-- Done with a status code, completion not yet announced. -/
  | done (status : Nat)
  | complete (status : Nat)
deriving DecidableEq, Repr

/-- A taken packet, or the kernel packet of a graph node (18 R310 to R314). `queue` is 2^32 for the latter, `kd` the kernel
descriptor read at the dispatch, `graph` the graph job and node served, `held` the teams that PREEMPT holds back as ranges, `marks` the teams that a PREEMPT itself has suspended,
`named` the teams that it names and `heldIn` the jobs in which it holds teams back, both as they were when it began,
`lastStart` the time at which a team last started on each die, `block` the parameter block of a command under way. -/
structure Job where
  queue : Nat
  index : Nat
  pkt : Packet
  deadline : Nat
  super : Bool
  free : Bool
  phase : JobPhase
  order : Nat
  kd : Option KDesc
  graph : Option (Nat × Nat)
  held : List (Nat × Nat)
  marks : List Nat
  named : List Nat
  heldIn : List Nat
  lastStart : List (Nat × Nat)
  result : Nat
  block : Nat
deriving DecidableEq, Repr

/-- A queue (18 R308). -/
structure Queue where
  idx : Nat
  ctx : Option Nat
  desc : Nat
  ring : Nat
  lgsize : Nat
  dev : Bool
  cmdok : Bool
  admin : Bool
  prodp : Nat
  consp : Nat
  misses : Nat
  held : Bool
deriving DecidableEq, Repr

/-- A partition (01 R28, 18 R307). -/
structure Partition where
  id : Nat
  origin : Nat
  queues : List Queue
  jobs : List Job
deriving DecidableEq, Repr

/-- Why a context no longer runs. -/
inductive Halt where
  /-- A debugger halt: the context can be resumed (21 R370). -/
  | debugger
  | stopped
deriving DecidableEq, Repr

/-- A context (01 R29, 18 R335). `haltDue` is a debugger halt that falls in the cycle of the next issue (21 R371), `stops` the
records of the stop area, `stopOwn` whether the first is that of the party whose event caused the stop, `stopDie` the die whose L2 holds
it (21 R370, 25 R402). -/
structure Context where
  id : Nat
  part : Nat
  y : Nat
  q : Nat
  sdbase : Nat
  sdcnt : Nat
  hkdesc : Nat
  route : BitVec 16
  sysva : Nat
  qtva : Nat
  saveva : Nat
  ranges : List RangeDesc
  halt : Option Halt
  haltDue : Bool
  debugger : Bool
  traps : List Served
  stops : List TrapRec
  stopOwn : Bool
  stopDie : Nat
  reported : Bool
deriving DecidableEq, Repr

/-- Engine kinds of the five posts (19 R347). -/
inductive EngKind where
  | copy | gath | scat | red | bcast
deriving DecidableEq, Repr

/-- The state of an engine operation (19 R348, R351): `ended` is complete or ended in error. -/
inductive EngPhase where
  | posted | fired | paused (rcd : TrapRec) | ended
deriving DecidableEq, Repr

/-- A posted engine operation (19 R346). Once fired, `insAt` and `outsAt` hold the unit addresses of each endpoint, a scratch
address raised by 2^60. `posted` is the count of non-memory instructions that the warp had retired at the post, `descs` the ranges of the context when it fired, `fill` the granule that a
replay may fill (R351), `lowered` whether its end has lowered IFE (12 R220). -/
structure EngOp where
  ctx : Nat
  die : Nat
  team : Nat
  warp : Nat
  kind : EngKind
  in0 : Nat
  in1 : Nat
  outs : List Nat
  n : Nat
  scope : Scope
  ulg : Nat
  rop : Nat
  ccnt : Nat
  cinc : Nat
  spa : Nat × Bool
  spb : Nat × Bool
  spc : Nat × Bool
  idxlim : Nat
  edesc : Nat
  pc : Nat
  posted : Nat
  phase : EngPhase
  insAt : List (List Nat)
  outsAt : List (List Nat)
  descs : List RangeDesc
  fill : Option Nat
  lowered : Bool
deriving DecidableEq, Repr

/-- The state of a pipe slot (18 R319): `ready` is committed by its producer behind an older reserved slot, `released` is
released by its consumer behind an older taken slot. -/
inductive SlotState where
  | free | reserved | ready | committed | taken | released
deriving DecidableEq, Repr

structure Slot where
  st : SlotState
  seq : Word
  seen : List Nat
deriving DecidableEq, Repr

/-- A pipe (18 R318). `spilled` holds the sequence numbers of the spilled slots, their entries in the spill
area and the epochs that their commits cover. -/
structure Pipe where
  num : Nat
  ctx : Nat
  planVA : Nat
  recVA : Nat
  fmt : Nat
  trows : Nat
  tcols : Nat
  depth : Nat
  slotlg : Nat
  msg : Bool
  high : Nat
  low : Nat
  home : Nat
  remote : Bool
  peer : Nat
  slotva : Nat
  spillva : Nat
  spilln : Nat
  prod : Nat
  cons : Nat
  rseq : Word
  cseq : Word
  tseq : Word
  spilled : List (Word × Nat × List Nat)
  slots : List Slot
  wmark : Bool
  moved : Nat
deriving DecidableEq, Repr

/-- A stage of a loaded plan (18 R322): its entry and the cores it owns, (die, core). -/
structure Stage where
  kdesc : Nat
  minc : Nat
  maxc : Nat
  dies : Nat
  prio : Nat
  teams : Nat
  args : Nat
  argsz : Nat
  cores : List (Nat × Nat)
deriving DecidableEq, Repr

/-- A blocked cycle that the balancer follows (18 R324): its pipes, the consecutive period ends that found it, the commits and
releases counted at the first of them, whether it has been declared or the wring has acted on it. -/
structure Watch where
  pipes : List Nat
  seen : Nat
  moves : Nat
  declared : Bool
  wrung : Bool
deriving DecidableEq, Repr

/-- A loaded plan (18 R322, R327): `due` is the next period end, `saved` the pipes at its stop. -/
structure Plan where
  ctx : Nat
  va : Nat
  period : Nat
  dk : Nat
  policy : Nat
  evva : Nat
  evcnt : Nat
  ckva : Nat
  stages : List Stage
  pipes : List Nat
  job : Option Nat
  stopping : Bool
  stopped : Bool
  saved : List Pipe
  due : Nat
  watch : List Watch
deriving DecidableEq, Repr

/-- A node of a graph (18 R329). -/
structure Node where
  kind : Nat
  npred : Nat
  cond : Nat
  bound : Nat
  succ : List Nat
  obj : Nat
  inc : Nat
deriving DecidableEq, Repr

/-- A loaded graph. -/
structure Graph where
  ctx : Nat
  va : Nat
  condva : Nat
  nodes : List Node
deriving DecidableEq, Repr

/-- The state of a node within a job of its graph. -/
structure NodeRun where
  credits : Nat
  ready : Bool
  busy : Bool
  iters : Nat
deriving DecidableEq, Repr

/-- A job of a loaded graph (18 R330), `live` until it completes or its context stops. -/
structure GraphJob where
  live : Bool
  ctx : Nat
  va : Nat
  part : Nat
  job : Option Nat
  super : Bool
  count : Nat
  nodes : List NodeRun
  sent : List Nat
deriving DecidableEq, Repr

/-- An accepted request of the press (13 R256, 14 R288, R289): the blocks it moves as (first granule, granules), and how many
lines of them have moved; `switched` says that OFFS has changed, `ops` are the paused engine operations that it then awaits. -/
structure Press where
  ctx : Nat
  die : Nat
  from_ : Nat
  cls : Nat
  ngr : Nat
  dest : Nat
  cnt : Nat
  blocks : List (Nat × Nat)
  moved : Nat
  switched : Bool
  ops : List Nat
deriving DecidableEq, Repr

/-- A UALink port or Ethernet lane group (23 R391 to R394). STATE: 0 down, 1 locking, 2 up, 3 dark. `space` is the space of its
rings, `toEth` and `job` the assignment it changes to and the LINK_RECONF that changes it. -/
structure Port where
  state : Nat
  peer : Nat
  lambda : Nat
  txring : Nat
  rxring : Nat
  space : Option Nat
  toEth : Option Bool
  job : Option (Nat × Nat)
deriving DecidableEq, Repr

/-- A write or atomic refused by an affected slice, or held for a changed port (23 R389, R393). -/
structure HeldReq where
  die : Nat
  pa : Nat
  bytes : List Byte
deriving DecidableEq, Repr

/-- The gang that issues next: team, warp, slice. -/
structure Turn where
  t : Nat
  w : Nat
  slice : Nat
deriving DecidableEq, Repr

/-- A LIMM that waits for its follower (07 R111). -/
structure LimmUnit where
  p : Nat
  pc : Nat
deriving DecidableEq, Repr

/-- What the environment does next: a row of the table that is an event or a command, the choice of the next issuer, the
passing of time, or a replacement that the spec leaves open. -/
inductive Input where
  | row (i : Instr)
  | turn (t : Turn)
  | tick (cycles : Nat)
  | evictL1 (die core line : Nat)
  | evictL2 (die line : Nat)
  | evictInstr (die core line : Nat)
  | evictRange (die core idx : Nat)
  | evictScale (die core idx : Nat)
  | evictLlc (line : Nat)
  | evictLoop (die core : Nat) (cluster : Fin 4)
deriving DecidableEq, Repr

/-- A T8 package. `tried` are the gangs whose last issue stalled and which nothing has woken since, `seq` counts issues (03 R59). `switched` are the gangs whose APPLY has ended
and whose SYSW is to retire (23 R389), `applies` those that wait to begin one, in the order in which they came, with the PC of their
SYSW (24 R399). `routes` are the pairs of dies that a DIE_RESET has moved to the
hub route (23 R382), `freqs` the islands that run below their nominal frequency, `temps` and `dieTemps` the temperatures measured
(23 R397), `images` what the boot ROM has measured (23 R395, R396). -/
structure Mach where
  turn : Turn
  tried : List Turn
  seq : Nat
  inputs : List Input
  unit : Option LimmUnit
  free : Nat
  now : Nat
  home : Mem
  tags : List (Nat × List Nat)
  poisoned : List Nat
  llcLines : List Nat
  llcDirty : List Nat
  dies : List Die
  domCur : Tab 16 Word
  domPend : Tab 16 Word
  switching : Option (Turn × Tab 16 Word)
  switched : List Turn
  applies : List (Turn × Nat)
  refused : List HeldReq
  pmap : List Nat
  cfg : BitVec 8
  grant : Nat
  domBlock : Nat
  parts : List Partition
  q0addr : Tab 8 Nat
  contexts : List Context
  teams : List Team
  ops : List EngOp
  plans : List Plan
  pipes : List Pipe
  graphs : List Graph
  graphJobs : List GraphJob
  press : List Press
  brokenLinks : List LinkName
  routes : List (Nat × Nat)
  lease : Nat
  assign : BitVec 32
  ports : Tab 32 Port
  heldReqs : List HeldReq
  frames : List (Nat × List Byte)
  msix : List (Nat × Nat)
  hostReads : List (List Byte)
  freqs : List (Nat × Nat)
  temps : List (Nat × Nat)
  dieTemps : List (Nat × Nat)
  poweredDown : Bool
  imageRefused : Bool
  images : List BootImage
deriving DecidableEq, Repr

/-- The state: what was fused at manufacture, which no step changes, and the rest. -/
structure State where
  fuse : Fuse
  m : Mach
deriving DecidableEq, Repr

/-- The reasons a step stops the model. -/
inductive Fault where
  /-- Raised by an encoded instruction when `turn` names no gang that can issue: the machine has nothing to run it on.
  Safe: no false claim about the hardware follows from stopping. -/
  | noIssuer
deriving DecidableEq, Repr

/-- The reasons a step has no meaning. -/
inductive Refusal where
  /-- Raised by an arm of `exec` that has no meaning yet. Safe: nothing is claimed of it. -/
  | notModelled (mnemonic : String)
deriving DecidableEq, Repr

/-- No copies held. -/
def Copies.empty : Copies := { lines := [], data := [] }

/-- A core after reset. -/
def Core.reset : Core :=
  { l1 := Copies.empty, icache := Copies.empty, loops := tab fun _ => [], rtab := [], scale := [], sdir := [], retained := 0 }

/-- A die after reset (12 R225). -/
def Die.reset : Die :=
  { halted := false, l2 := Copies.empty, stale := [], dirty := [], dirtyAt := [], sectors := [], lost := [], hdirty := [], hdirtyAt := [], epoch := 1,
    firstWrite := none, vc := List.replicate 8 0, log := [], dcache := [], cores := List.replicate 24 Core.reset, ecc := (0, 0, 0) }

/-- D, the number of live compute dies (00 R1). -/
def Form.dies : Form → Nat
  | .p512 => 8
  | .m512 => 8
  | .m384 => 6

/-- Registers 64 to 79 after reset (23 R387). -/
def domReset (d : Nat) : Tab 16 Word :=
  tab fun n =>
    if n.val = 0 then BitVec.ofNat 32 (7 * 2 ^ 7 + 2 ^ 10 + (32 * d - 1) * 2 ^ 21)
    else if n.val % 2 = 1 then 0xFF#32 else 0#32

/-- A lane group after reset: down (23 R391). -/
def Port.reset : Port :=
  { state := 0, peer := 0, lambda := 0, txring := 0, rxring := 0, space := none, toEth := none, job := none }

/-- Queue 0 of a partition as firmware makes it from the register at BAR 0 (18 R404). -/
def Queue.zero (desc : Nat) : Queue :=
  { idx := 0, ctx := none, desc := desc, ring := 0, lgsize := 0, dev := false, cmdok := true, admin := true, prodp := 0,
    consp := 0, misses := 0, held := false }

/-- The DOMAIN_SET block that the reset values of 23 R385 and R387 make up. -/
def resetBlock (d : Nat) : Nat :=
  0xF * 2 ^ 72 + ((List.finRange 16).map fun n => ((domReset d).at n).toNat * 2 ^ (128 + 32 * n.val)).sum

/-- A package after reset, D live dies (18 R404, 23 R385, R387): one partition of every live die and its queue 0. -/
def Mach.reset (d : Nat) : Mach :=
  { turn := { t := 0, w := 0, slice := 0 }, tried := [], seq := 0, inputs := [], unit := none, free := 0, now := 0, home := [], tags := [],
    poisoned := [], llcLines := [], llcDirty := [], dies := List.replicate d Die.reset, domCur := domReset d,
    domPend := domReset d, switching := none, switched := [], applies := [], refused := [], pmap := List.replicate d 0, cfg := 0, grant := 0xF, domBlock := resetBlock d,
    parts := [{ id := 0, origin := 0, queues := [Queue.zero 0], jobs := [] }], q0addr := tab fun _ => 0,
    contexts := [], teams := [], ops := [], plans := [], pipes := [], graphs := [], graphJobs := [], press := [],
    brokenLinks := [], routes := [], lease := 0, assign := 0xC0C0C0C0#32, ports := tab fun _ => Port.reset,
    heldReqs := [], frames := [], msix := [], hostReads := [], freqs := [], temps := [], dieTemps := [],
    poweredDown := false, imageRefused := false, images := [] }

/-- The machine right after reset. The fused values are those of a TRB8-P512 of stepping 0 (DESIGN CHOICE: assumption log 3). -/
def State.reset : State :=
  { fuse := { form := .p512, dmask := 0xFF, step := 0 }, m := Mach.reset 8 }

end Sys2Proof.Machine
end

