-- ==== Sys2Proof/Machine/Base.lean ====
section
/-! DEFINITION. Named operations over the state: bytes and their order, memories and line copies, the parts of a package,
home memory, the issuing gang and loop ends (spec 00 R4, 12 R214, 03 R47, 09 R170). -/

namespace Sys2Proof.Machine

/-- The outcome type of every meaning, on the part of the state that steps change. -/
abbrev Out := Host.Outcome Mach Fault Refusal

/-- Runs `f` on the machine; the fused values stay as they are (01 R31). -/
def onMach (s : State) (f : Mach → Out) : Host.Outcome State Fault Refusal :=
  match f s.m with
  | .next m => .next { s with m := m }
  | .fault r => .fault r
  | .refused r => .refused r

/-- A meaning that always answers a next state. -/
def always (s : State) (f : Mach → Mach) : Host.Outcome State Fault Refusal := onMach s fun m => .next (f m)

/-! ### Memories -/

/-- The byte at `a`: the one listed, or 0 (DESIGN CHOICE: assumption log 4). -/
def Mem.get : Mem → Nat → Byte
  | [], _ => 0
  | (k, v) :: t, a => if k = a then v else Mem.get t a

/-- The memory without an entry for `a`. -/
def Mem.erase (m : Mem) (a : Nat) : Mem := m.filter fun c => c.1 ≠ a

/-- The memory with an entry placed in address order. -/
def Mem.insert : Mem → Nat → Byte → Mem
  | [], a, b => [(a, b)]
  | (k, v) :: t, a, b => if a < k then (a, b) :: (k, v) :: t else (k, v) :: Mem.insert t a b

/-- One byte written. A zero byte lists nothing. -/
def Mem.put (m : Mem) (a : Nat) (b : Byte) : Mem :=
  if b = 0 then Mem.erase m a else Mem.insert (Mem.erase m a) a b

/-- The canonical form: addresses strictly rising and no byte zero. -/
def Mem.wf : Mem → Bool
  | [] => true
  | [(_, v)] => v != 0
  | (k, v) :: (k', v') :: t => (v != 0) && decide (k < k') && Mem.wf ((k', v') :: t)

/-- The little-endian value of `n` bytes (00 R4). -/
def Mem.read (m : Mem) (a : Nat) : Nat → Nat
  | 0 => 0
  | n + 1 => (Mem.get m a).toNat + 256 * Mem.read m (a + 1) n

/-- `n` bytes of `v` written, lowest first (00 R4). -/
def Mem.write (m : Mem) (a : Nat) : Nat → Nat → Mem
  | 0, _ => m
  | n + 1, v => Mem.write (Mem.put m a (BitVec.ofNat 8 v)) (a + 1) n (v / 256)

/-- The entries of the `n` bytes from `a`. -/
def Mem.span (m : Mem) (a n : Nat) : Mem := m.filter fun c => decide (a ≤ c.1) && decide (c.1 < a + n)

/-- The memory with the `n` bytes from `a` replaced by those of `src`, given as entries. -/
def Mem.replace (m : Mem) (a n : Nat) (src : Mem) : Mem :=
  src.foldl (fun acc c => Mem.put acc c.1 c.2) (m.filter fun c => !(decide (a ≤ c.1) && decide (c.1 < a + n)))

/-! ### Physical keys: one number for a byte of HBM, near, host, peer or uncached-system memory -/

/-- The key of a physical address in the space of a class (13 R239, R240). -/
def physKey (cls peer pa : Nat) : Nat :=
  match cls with
  | 0 => pa
  | 1 => 2 ^ 60 + pa
  | 2 => 2 ^ 61 + pa
  | 3 => 2 ^ 62 + peer * 2 ^ 57 + pa
  | _ => 2 ^ 70 + pa

/-- The class of the space that a key lies in. -/
def keyClass (k : Nat) : Nat :=
  if k < 2 ^ 60 then 0 else if k < 2 ^ 61 then 1 else if k < 2 ^ 62 then 2 else if k < 2 ^ 70 then 3 else 4

/-- Package memory: HBM or near (12 R225). -/
def isPackage (k : Nat) : Bool := decide (k < 2 ^ 61)

/-! ### Line copies -/

def lineOf (k : Nat) : Nat := k / 128
def sectorOf (k : Nat) : Nat := k / 32

def Copies.holds (c : Copies) (line : Nat) : Bool := c.lines.contains line

def Copies.drop (c : Copies) (line : Nat) : Copies :=
  if c.holds line then
    { lines := c.lines.filter (· ≠ line), data := c.data.filter fun x => lineOf x.1 ≠ line }
  else c

/-- The longest held lines of `c` that leave no room for `line` among `cap` lines. -/
def Copies.over (c : Copies) (cap line : Nat) : List Nat := (c.lines.filter (· ≠ line)).drop (cap - 1)

/-- Room for `line` among `cap` lines: the longest held ones are replaced (DESIGN CHOICE: assumption log 73). -/
def Copies.room (c : Copies) (cap line : Nat) : Copies := (c.over cap line).foldl Copies.drop c

/-- Holds `line`, its bytes those of `src`. -/
def Copies.fill (c : Copies) (line : Nat) (src : Mem) : Copies :=
  { lines := line :: c.lines.filter (· ≠ line), data := Mem.replace c.data (128 * line) 128 (Mem.span src (128 * line) 128) }

/-- Updates `n` bytes of a held copy; a line not held is left alone. -/
def Copies.update (c : Copies) (k n v : Nat) : Copies :=
  if c.holds (lineOf k) then { c with data := Mem.write c.data k n v } else c

/-! ### Parts of the package -/

def Mach.die? (m : Mach) (d : Nat) : Option Die := m.dies[d]?

def Mach.modDie (m : Mach) (d : Nat) (f : Die → Die) : Mach := { m with dies := m.dies.modify d f }

def Mach.core? (m : Mach) (d c : Nat) : Option Core :=
  match m.dies[d]? with
  | some x => x.cores[c]?
  | none => none

def Mach.modCore (m : Mach) (d c : Nat) (f : Core → Core) : Mach :=
  m.modDie d fun x => { x with cores := x.cores.modify c f }

def Mach.modTeam (m : Mach) (t : Nat) (f : Team → Team) : Mach := { m with teams := m.teams.modify t f }

def Team.modWarp (x : Team) (w : Nat) (f : Warp → Warp) : Team := { x with warps := x.warps.modify w f }

def Mach.modWarp (m : Mach) (t w : Nat) (f : Warp → Warp) : Mach := m.modTeam t (Team.modWarp · w f)

def Mach.warp? (m : Mach) (t w : Nat) : Option Warp :=
  match m.teams[t]? with
  | some x => x.warps[w]?
  | none => none

def Mach.ctx? (m : Mach) (id : Nat) : Option Context := m.contexts.find? fun c => c.id == id

def Mach.modCtx (m : Mach) (id : Nat) (f : Context → Context) : Mach :=
  { m with contexts := m.contexts.map fun c => if c.id = id then f c else c }

def Mach.part? (m : Mach) (p : Nat) : Option Partition := m.parts.find? fun x => x.id == p

def Mach.modPart (m : Mach) (p : Nat) (f : Partition → Partition) : Mach :=
  { m with parts := m.parts.map fun x => if x.id = p then f x else x }

def Mach.modJob (m : Mach) (p j : Nat) (f : Job → Job) : Mach :=
  m.modPart p fun x => { x with jobs := x.jobs.modify j f }

def Mach.job? (m : Mach) (p j : Nat) : Option Job :=
  match m.part? p with
  | some x => x.jobs[j]?
  | none => none

def Mach.pipe? (m : Mach) (n : Nat) : Option Pipe := m.pipes.find? fun p => p.num == n

def Mach.modPipe (m : Mach) (n : Nat) (f : Pipe → Pipe) : Mach :=
  { m with pipes := m.pipes.map fun p => if p.num = n then f p else p }

/-- The partition of a logical die (23 R385). -/
def Mach.partOf (m : Mach) (d : Nat) : Nat := m.pmap.getD d 0

/-- The live dies of a partition, ascending (01 R28). -/
def Mach.diesOf (m : Mach) (p : Nat) : List Nat :=
  (List.range m.dies.length).filter fun d => m.partOf d == p && !((m.dies[d]?).map (·.halted)).getD true

/-- Whether partition `p` has the compact configuration (03 R42, 23 R385). -/
def Mach.compact (m : Mach) (p : Nat) : Bool := m.cfg.getLsbD p

/-- Partition scheduler time in nanoseconds (18 R307): ten ticks of 1/13 ns are one core cycle. -/
def Mach.time (m : Mach) (p : Nat) : Nat :=
  match m.part? p with
  | some x => (m.now - x.origin) * 10 / 13
  | none => 0

/-! ### Home memory, tags and poison -/

/-- The tag of a sector at its home: for each die the epoch that a reader must have applied (12 R226, R228, R273). -/
def Mach.tagOf (m : Mach) (sector : Nat) : List Nat :=
  ((m.tags.find? fun t => t.1 == sector).map fun t => t.2).getD []

/-- Two vectors of epochs merged. -/
def mergeVec (a b : List Nat) : List Nat := (List.range (max a.length b.length)).map fun i => max (a.getD i 0) (b.getD i 0)

/-- The tag of a sector raised to cover a vector of epochs. -/
def Mach.mergeTag (m : Mach) (sector : Nat) (v : List Nat) : Mach :=
  { m with tags := (sector, mergeVec (m.tagOf sector) v) :: m.tags.filter fun t => t.1 ≠ sector }

/-- The tag (d, e) of a drain (12 R226). -/
def Mach.setTag (m : Mach) (sector die epoch : Nat) : Mach := m.mergeTag sector (List.replicate die 0 ++ [epoch])

/-- Whether the `n` bytes from `k` meet a poisoned sector (21 R375). -/
def Mach.isPoisoned (m : Mach) (k n : Nat) : Bool :=
  m.poisoned.any fun s => decide (k < 32 * s + 32) && decide (32 * s < k + n)

/-- A write of whole sectors clears their marks; a narrower one leaves them (21 R375). -/
def Mach.clearPoison (m : Mach) (k n : Nat) : Mach :=
  { m with poisoned := m.poisoned.filter fun s => !(decide (k ≤ 32 * s) && decide (32 * s + 32 ≤ k + n)) }

/-! ### Interleave domains and home slices (23 R387, R388) -/

/-- An interleave domain (23 R387). -/
structure Domain where
  first : Nat
  lgn : Nat
  en : Bool
  near : Bool
  rlo : Nat
  rhi : Nat
  hmask : Nat
deriving DecidableEq, Repr

/-- Domain `d` of a set of registers. -/
def domainOf (t : Tab 16 Word) (d : Fin 8) : Domain :=
  let a := (t.at ⟨2 * d.val, by omega⟩).toNat
  { first := a % 128, lgn := a / 2 ^ 7 % 8, en := (a / 2 ^ 10 % 2 == 1), near := (a / 2 ^ 11 % 2 == 1), rlo := a / 2 ^ 13 % 256,
    rhi := a / 2 ^ 21 % 256, hmask := (t.at ⟨2 * d.val + 1, by omega⟩).toNat % 2 ^ 20 }

def domains (t : Tab 16 Word) : List Domain := (List.finRange 8).map (domainOf t)

/-- Whether an enabled domain holds a slice. -/
def Domain.holds (x : Domain) (s : Nat) : Bool := x.en && decide (x.first ≤ s) && decide (s < x.first + 2 ^ x.lgn)

/-- Whether an enabled HBM domain serves a 2 GiB unit. -/
def Domain.serves (x : Domain) (u : Nat) : Bool := x.en && !x.near && decide (x.rlo ≤ u) && decide (u ≤ x.rhi)

/-- Bytes of near memory: 16 MiB for each slice of an enabled near domain (01 R17, 23 R388). -/
def Mach.nearBytes (m : Mach) : Nat := ((domains m.domCur).map fun x => if x.en && x.near then 2 ^ x.lgn * 2 ^ 24 else 0).sum

/-- XOR of the n-bit fields of a number, at most 20 of them (23 R388). -/
def foldXor (n : Nat) : Nat → Nat → Nat
  | 0, _ => 0
  | k + 1, x => if n = 0 then 0 else (x % 2 ^ n) ^^^ foldXor n k (x / 2 ^ n)

/-- The home slice of an HBM line (23 R388). -/
def homeSlice (t : Tab 16 Word) (pa : Nat) : Option Nat :=
  ((domains t).find? fun x => x.serves (pa / 2 ^ 31 % 256)).map fun x =>
    x.first + ((pa / 2 ^ 7 % 2 ^ x.lgn) ^^^ foldXor x.lgn 20 ((pa / 2 ^ 20 % 2 ^ 20) &&& x.hmask))

/-- The lines that the home slice of line `l` holds, latest first. -/
def Mach.sliceLines (m : Mach) (l : Nat) : List Nat :=
  m.llcLines.filter fun x => decide (homeSlice m.domCur (128 * x) = homeSlice m.domCur (128 * l))

/-- The lines that a slice of 16 MiB replaces to hold line `l` (01 R17, 12 R214; DESIGN CHOICE: assumption log 73). -/
def Mach.llcOver (m : Mach) (l : Nat) : List Nat :=
  if m.llcLines.contains l || decide (m.llcLines.length < Config.sliceLines) then [] else (m.sliceLines l).drop (Config.sliceLines - 1)

/-- A line of HBM now held by its home slice, dirty after a write (12 R214); near memory and other memory have no such line. -/
def Mach.llcTouch (m : Mach) (k : Nat) (dirty : Bool) : Mach :=
  let l := lineOf k
  let out := m.llcOver l
  { m with
    llcLines := if keyClass k ≠ 0 then m.llcLines else if m.llcLines.contains l then m.llcLines else l :: m.llcLines.filter fun x => !out.contains x
    llcDirty := if keyClass k ≠ 0 then m.llcDirty
      else (if dirty && !m.llcDirty.contains l then [l] else []) ++ m.llcDirty.filter fun x => !out.contains x }

/-- The line of a block list at index `i`, given as the old and the new line number (14 R289). -/
def blockLine : List (Nat × Nat) → Nat → Nat → Option (Nat × Nat)
  | [], _, _ => none
  | (g, n) :: t, d, i => if i < 512 * n then some (512 * g + i, 512 * d + i) else blockLine t (d + n) (i - 512 * n)

/-- The index in a block list of an old line. -/
def blockIndex : List (Nat × Nat) → Nat → Option Nat
  | [], _ => none
  | (g, n) :: t, l =>
    if 512 * g ≤ l ∧ l < 512 * (g + n) then some (l - 512 * g) else (blockIndex t l).map (· + 512 * n)

/-- The new key of a byte whose line the press has moved and not yet switched (13 R256). -/
def Press.moved? (r : Press) (k : Nat) : Option Nat :=
  let base := physKey r.cls 0 0
  if k < base ∨ r.switched then none
  else
    match blockIndex r.blocks (lineOf (k - base)) with
    | some i =>
      if i < r.moved then
        (blockLine r.blocks r.dest i).map fun p => base + 128 * p.2 + k % 128
      else none
    | none => none

/-- Where the byte of a key lies: an uncached-system address is a host address reached past the caches (14 R264, DESIGN CHOICE: assumption log 20). -/
def storeKey (k : Nat) : Nat := if keyClass k = 4 then k - 2 ^ 70 + 2 ^ 61 else k

/-- `n` bytes written at one place of home memory. -/
def Mach.rawWrite (m : Mach) (k n v : Nat) : Mach :=
  { (m.clearPoison (storeKey k) n).llcTouch k true with home := Mem.write m.home (storeKey k) n v }

/-- The part of one line written at its home: at the old and the new line together while the press moves it (13 R256). -/
def Mach.lineWrite (m : Mach) (k n v : Nat) : Mach :=
  match m.press.findSome? (Press.moved? · k) with
  | some k' => (m.rawWrite k n v).rawWrite k' n v
  | none => m.rawWrite k n v

/-- The parts of `n` bytes from `k` that lie in one line each: (offset, length), for at most `c` lines. -/
def lineParts (k n : Nat) : Nat → List (Nat × Nat)
  | 0 => [(0, n)]
  | c + 1 =>
    let h := 128 - k % 128
    if n ≤ h then [(0, n)] else (0, h) :: (lineParts (k + h) (n - h) c).map fun p => (p.1 + h, p.2)

/-- `n` bytes written at their home, line by line (13 R257). -/
def Mach.homeWrite (m : Mach) (k n v : Nat) : Mach :=
  (lineParts k n (n / 128 + 1)).foldl (fun m p => m.lineWrite (k + p.1) p.2 (v / 2 ^ (8 * p.1))) m

def Mach.homeRead (m : Mach) (k n : Nat) : Nat := Mem.read m.home (storeKey k) n

/-! ### The issuing gang -/

/-- Whether slice `j` of warp `w` is live: not all four of its lanes lie outside the team (03 R51). -/
def liveSlice (tlanes w j : Nat) : Bool := decide (32 * w + 4 * j < tlanes)

/-- Whether lane `l` of warp `w` lies inside the team (03 R51). -/
def insideLane (tlanes w l : Nat) : Bool := decide (32 * w + l < tlanes)

/-- The mask of the slices that satisfy `p`. -/
def sliceMask (p : Fin 8 → Bool) : BitVec 8 :=
  BitVec.ofNat 8 (((List.finRange 8).map fun j => if p j then 2 ^ j.val else 0).sum)

/-- The lowest slice of a gang. -/
def lowSlice (gang : BitVec 8) : Fin 8 := ((List.finRange 8).find? fun j => gang.getLsbD j.val).getD 0

/-- The mask of the lanes that satisfy `p`. -/
def laneMask (p : Fin 32 → Bool) : BitVec 32 :=
  BitVec.ofNat 32 (((List.finRange 32).map fun l => if p l then 2 ^ l.val else 0).sum)

/-- The slice that holds a lane (03 R33). -/
def sliceOf (l : Fin 32) : Fin 8 := ⟨l.val / 4, by omega⟩

/-- The gang that issues: where it stands and what it sees. -/
structure Issue where
  t : Nat
  w : Nat
  team : Team
  warp : Warp
  ctx : Context
  gang : BitVec 8
  pc : Nat

/-- The slices that issue together with slice `lead` (03 R47). -/
def gangOf (team : Team) (w : Nat) (warp : Warp) (lead : Fin 8) : BitVec 8 :=
  sliceMask fun j => liveSlice team.tlanes w j.val && decide ((warp.slices.at j).gang = (warp.slices.at lead).gang)
    && decide ((warp.slices.at j).wait = .none)

/-- The issuing gang that `turn` names: a live slice of a ready warp of a running team whose context runs and whose stage
is not descheduled (18 R316). -/
def Mach.issuer (m : Mach) : Option Issue :=
  match m.teams[m.turn.t]? with
  | none => none
  | some team =>
    match team.warps[m.turn.w]?, m.ctx? team.ctx with
    | some warp, some ctx =>
      if h : m.turn.slice < 8 then
        let lead : Fin 8 := ⟨m.turn.slice, h⟩
        if decide (team.phase = .running) && decide (warp.run = .ready) && ctx.halt.isNone && !team.desched
            && liveSlice team.tlanes m.turn.w lead.val && decide ((warp.slices.at lead).wait = .none) then
          some { t := m.turn.t, w := m.turn.w, team := team, warp := warp, ctx := ctx,
                 gang := gangOf team m.turn.w warp lead, pc := (warp.slices.at lead).pc }
        else none
      else none
    | _, _ => none

/-- Runs `f` for the issuing gang. -/
def withIssuer (s : State) (f : Mach → Issue → Out) : Host.Outcome State Fault Refusal :=
  onMach s fun m =>
    match m.issuer with
    | some g => f m g
    | none => .fault .noIssuer

/-- Whether lane `l` is active for the issue (07 R122, 10 R203). -/
def Issue.active (g : Issue) (l : Fin 32) : Bool :=
  g.warp.exec.getLsbD l.val && g.gang.getLsbD (l.val / 4) &&
    (match g.warp.meld with
     | some r => (r.path.at l).isSome
     | none => true)

/-- The active lanes in ascending order. -/
def Issue.lanes (g : Issue) : List (Fin 32) := (List.finRange 32).filter g.active

/-- The live slices of the warp. -/
def Issue.live (g : Issue) : BitVec 8 := sliceMask fun j => liveSlice g.team.tlanes g.w j.val

/-- One gang holds every live slice (03 R47). -/
def Issue.ganged (g : Issue) : Bool := decide (g.gang = g.live)

/-- The warp written back. -/
def Mach.setWarp (m : Mach) (g : Issue) (x : Warp) : Mach := m.modWarp g.t g.w fun _ => x

/-- The core that the issuing warp lies on (03 R34). -/
def Issue.core (g : Issue) : Nat := g.warp.core

/-- Path of a lane inside an open region (03 R54). -/
def Warp.pathOf (x : Warp) (l : Fin 32) : Option (Fin 4) :=
  match x.meld with
  | some r => r.path.at l
  | none => none

/-- A name resolved for a lane (03 R54, 10 R213). -/
def Warp.name (x : Warp) (n : Fin 64) (l : Fin 32) : Fin 64 :=
  match x.pathOf l with
  | some p => if h : 48 ≤ n.val then (x.ren.at p).at ⟨n.val - 48, by omega⟩ else n
  | none => n

/-! ### Program counters and loops -/

/-- Empties the bypass latches (07 R115). -/
def Warp.noLatch (x : Warp) : Warp := { x with b := tab fun _ => none }

/-- The lowest active loop level that ends at `q` (09 R170). -/
def Warp.loopEnd (x : Warp) (q : Nat) : Option (Fin 3) :=
  (List.finRange 3).find? fun i => decide ((x.lc.at i) ≠ 0) && decide (x.le.at i = q)

/-- The loop end at `q` (09 R170): the next PC, and the loop counters. The return to LS ends a chain (07 R116). -/
def Warp.afterEnd (x : Warp) (q : Nat) : Nat × Warp :=
  match x.loopEnd q with
  | some i =>
    let n := x.lc.at i - 1
    let y := { x with lc := x.lc.put i n }
    if n = 0 then (q, y) else (x.ls.at i, { y.noLatch with chain := none })
  | none => (q, x)

/-- Slices of `gang` given a program counter. -/
def Warp.setPc (x : Warp) (gang : BitVec 8) (pc : Nat) : Warp :=
  { x with slices := tab fun j =>
      if gang.getLsbD j.val then { x.slices.at j with pc := pc % 2 ^ 48 } else x.slices.at j }

/-- The gang goes on after an instruction of `len` bytes that transfers no control. -/
def Warp.goOn (x : Warp) (gang : BitVec 8) (q : Nat) : Warp :=
  let r := x.afterEnd q
  r.2.setPc gang r.1

/-- One more instruction of an open region (03 R55). -/
def Warp.countMeld (x : Warp) : Warp :=
  match x.meld with
  | some r => { x with meld := some { r with count := r.count + 1 } }
  | none => x

end Sys2Proof.Machine
end

