-- ==== Sys2Proof/Machine/Digest.lean ====
section
/-! DEFINITION. The two checks over bytes that the package makes: SHA-256 (spec 23 R395, R396) and the frame check sequence of an
Ethernet frame (23 R392). The spec names both by their standards, FIPS 180-4 and IEEE 802.3 (PRESUMED: assumption log 82). -/

namespace Sys2Proof.Machine

/-- Bytes as one number, the first lowest (00 R4). -/
def bytesValue (bs : List Byte) : Nat := bs.foldr (fun b v => b.toNat + 256 * v) 0

/-! ### SHA-256 -/

/-- The round constants. -/
def shaK : List Word :=
  [0x428a2f98#32, 0x71374491#32, 0xb5c0fbcf#32, 0xe9b5dba5#32, 0x3956c25b#32, 0x59f111f1#32, 0x923f82a4#32, 0xab1c5ed5#32] ++
  [0xd807aa98#32, 0x12835b01#32, 0x243185be#32, 0x550c7dc3#32, 0x72be5d74#32, 0x80deb1fe#32, 0x9bdc06a7#32, 0xc19bf174#32] ++
  [0xe49b69c1#32, 0xefbe4786#32, 0x0fc19dc6#32, 0x240ca1cc#32, 0x2de92c6f#32, 0x4a7484aa#32, 0x5cb0a9dc#32, 0x76f988da#32] ++
  [0x983e5152#32, 0xa831c66d#32, 0xb00327c8#32, 0xbf597fc7#32, 0xc6e00bf3#32, 0xd5a79147#32, 0x06ca6351#32, 0x14292967#32] ++
  [0x27b70a85#32, 0x2e1b2138#32, 0x4d2c6dfc#32, 0x53380d13#32, 0x650a7354#32, 0x766a0abb#32, 0x81c2c92e#32, 0x92722c85#32] ++
  [0xa2bfe8a1#32, 0xa81a664b#32, 0xc24b8b70#32, 0xc76c51a3#32, 0xd192e819#32, 0xd6990624#32, 0xf40e3585#32, 0x106aa070#32] ++
  [0x19a4c116#32, 0x1e376c08#32, 0x2748774c#32, 0x34b0bcb5#32, 0x391c0cb3#32, 0x4ed8aa4a#32, 0x5b9cca4f#32, 0x682e6ff3#32] ++
  [0x748f82ee#32, 0x78a5636f#32, 0x84c87814#32, 0x8cc70208#32, 0x90befffa#32, 0xa4506ceb#32, 0xbef9a3f7#32, 0xc67178f2#32]

/-- The initial hash value. -/
def shaInit : List Word :=
  [0x6a09e667#32, 0xbb67ae85#32, 0x3c6ef372#32, 0xa54ff53a#32, 0x510e527f#32, 0x9b05688c#32, 0x1f83d9ab#32, 0x5be0cd19#32]

/-- Bytes of a number, the most significant first. -/
def bigBytes (n v : Nat) : List Byte := (bytesOf n v).reverse

/-- A big-endian word. -/
def bigWord (bs : List Byte) : Word := BitVec.ofNat 32 (bs.foldl (fun v b => 256 * v + b.toNat) 0)

/-- The padded message: a 1 bit, zeros and the length in bits. -/
def shaPad (bs : List Byte) : List Byte :=
  bs ++ [0x80#8] ++ List.replicate ((119 - bs.length % 64) % 64) 0 ++ bigBytes 8 (8 * bs.length)

/-- The message schedule, latest word first, extended by `n` words. -/
def shaExtend : Nat → List Word → List Word
  | 0, w => w
  | n + 1, w =>
    let s0 := fun x : Word => x.rotateRight 7 ^^^ x.rotateRight 18 ^^^ (x >>> 3)
    let s1 := fun x : Word => x.rotateRight 17 ^^^ x.rotateRight 19 ^^^ (x >>> 10)
    shaExtend n ((s1 (w.getD 1 0) + w.getD 6 0 + s0 (w.getD 14 0) + w.getD 15 0) :: w)

/-- One round on the eight working words. -/
def shaRound (h : List Word) (k : Word × Word) : List Word :=
  match h with
  | [a, b, c, d, e, f, g, i] =>
    let t1 := i + (e.rotateRight 6 ^^^ e.rotateRight 11 ^^^ e.rotateRight 25) + ((e &&& f) ^^^ (~~~e &&& g)) + k.1 + k.2
    let t2 := (a.rotateRight 2 ^^^ a.rotateRight 13 ^^^ a.rotateRight 22) + ((a &&& b) ^^^ (a &&& c) ^^^ (b &&& c))
    [t1 + t2, a, b, c, d + t1, e, f, g]
  | _ => h

/-- One block of 64 bytes taken into the hash value. -/
def shaBlock (h : List Word) (bs : List Byte) : List Word :=
  let w := (List.range 16).map fun i => bigWord ((bs.drop (4 * i)).take 4)
  List.zipWith (· + ·) h ((shaK.zip (shaExtend 48 w.reverse).reverse).foldl shaRound h)

/-- The SHA-256 of some bytes. -/
def sha256 (bs : List Byte) : List Byte :=
  let p := shaPad bs
  ((List.range (p.length / 64)).foldl (fun h i => shaBlock h ((p.drop (64 * i)).take 64)) shaInit).flatMap fun w => bigBytes 4 w.toNat

/-! ### The frame check sequence -/

/-- `n` bits shifted through the CRC-32 register. -/
def crcShift : Nat → Word → Word
  | 0, c => c
  | n + 1, c => crcShift n (if c.getLsbD 0 then (c >>> 1) ^^^ 0xEDB88320#32 else c >>> 1)

/-- The CRC-32 of some bytes. -/
def crc32 (bs : List Byte) : Nat :=
  (~~~(bs.foldl (fun c b => crcShift 8 (c ^^^ b.zeroExtend 32)) 0xFFFFFFFF#32)).toNat

end Sys2Proof.Machine
end

