-- ==== Sys2Proof/Machine/Flags.lean ====
section
/-! DEFINITION. Conditions and float exceptions (spec 07 R113, 05 R87 to R89). -/

namespace Sys2Proof.Machine

/-- An integer condition on two words (07 R113). -/
def ICond.holds (c : ICond) (x y : Word) : Bool :=
  match c with
  | .eq => x == y
  | .ne => x != y
  | .lt => x.slt y
  | .le => x.sle y
  | .gt => y.slt x
  | .ge => y.sle x
  | .ltu => x.ult y
  | .leu => x.ule y
  | .gtu => y.ult x
  | .geu => y.ule x

/-- The float exceptions raised (05 R87). -/
structure Exc where
  iv : Bool
  dz : Bool
  of : Bool
  uf : Bool
  ix : Bool
deriving DecidableEq, Repr

/-- No exception. -/
def Exc.none : Exc := { iv := false, dz := false, of := false, uf := false, ix := false }

/-- Invalid operation alone. -/
def Exc.invalid : Exc := { Exc.none with iv := true }

/-- Exceptions of two parts taken together (10 R198, R200). -/
def Exc.or (a b : Exc) : Exc :=
  { iv := a.iv || b.iv, dz := a.dz || b.dz, of := a.of || b.of, uf := a.uf || b.uf, ix := a.ix || b.ix }

/-- Bits IV, DZ, OF, UF, IX from bit 0 up, as in FTEN and FEX (05 R88, 21 R364). -/
def Exc.bits (e : Exc) : Nat :=
  e.iv.toNat + 2 * e.dz.toNat + 4 * e.of.toNat + 8 * e.uf.toNat + 16 * e.ix.toNat

/-- Whether an exception raised is enabled (05 R89). -/
def Exc.traps (e : Exc) (ften : BitVec 32) : Bool :=
  (e.iv && ften.getLsbD 0) || (e.dz && ften.getLsbD 1) || (e.of && ften.getLsbD 2) || (e.uf && ften.getLsbD 3) ||
    (e.ix && ften.getLsbD 4)

end Sys2Proof.Machine
end

