-- ==== Sys2Proof/Machine/Float.lean ====
section
/-! DEFINITION. Float formats, correct rounding and the float operations on bit patterns (spec 05 R74 to R93,
10 R194 to R202). Values are exact: a sign, a natural mantissa and a power of two. -/

namespace Sys2Proof.Machine

/-- A float format (05 R74): exponent and fraction widths; the bias is 2^(ew - 1) - 1. -/
structure FFmt where
  ew : Nat
  fw : Nat
deriving DecidableEq, Repr

def F32 : FFmt := { ew := 8, fw := 23 }
def F16 : FFmt := { ew := 5, fw := 10 }
def BF16 : FFmt := { ew := 8, fw := 7 }

def FFmt.bias (f : FFmt) : Int := 2 ^ (f.ew - 1) - 1

/-- The value of a float: a NaN with whether it signals, an infinity, or (-1)^neg * m * 2^e. -/
inductive FVal where
  | nan (sig : Bool)
  | inf (neg : Bool)
  | num (neg : Bool) (m : Nat) (e : Int)
deriving DecidableEq, Repr

/-- The value of a bit pattern (05 R74). -/
def FFmt.val (f : FFmt) (x : Nat) : FVal :=
  let frac := x % 2 ^ f.fw
  let ex := x / 2 ^ f.fw % 2 ^ f.ew
  let s := decide (x / 2 ^ (f.fw + f.ew) % 2 = 1)
  if ex = 2 ^ f.ew - 1 then
    if frac = 0 then .inf s else .nan (decide (frac < 2 ^ (f.fw - 1)))
  else if ex = 0 then .num s frac (1 - f.bias - f.fw)
  else .num s (2 ^ f.fw + frac) (ex - f.bias - f.fw)

/-- The canonical NaN (05 R87). -/
def FFmt.nan (f : FFmt) : Nat := (2 ^ f.ew - 1) * 2 ^ f.fw + 2 ^ (f.fw - 1)
def FFmt.sign (f : FFmt) (neg : Bool) : Nat := if neg then 2 ^ (f.fw + f.ew) else 0
def FFmt.infBits (f : FFmt) (neg : Bool) : Nat := f.sign neg + (2 ^ f.ew - 1) * 2 ^ f.fw
def FFmt.maxBits (f : FFmt) (neg : Bool) : Nat := f.sign neg + (2 ^ f.ew - 1) * 2 ^ f.fw - 1

/-- Whether a discarded part `rem` of `2^k` moves an integer magnitude up, by mode (05 R83). -/
def roundsUp (mode : Rm) (neg : Bool) (mant rem k : Nat) : Bool :=
  match mode with
  | .rne => decide (2 ^ k < 2 * rem) || (decide (2 * rem = 2 ^ k) && decide (mant % 2 = 1))
  | .rtz => false
  | .rdn => neg && decide (rem ≠ 0)
  | .rup => !neg && decide (rem ≠ 0)

/-- `m * 2^e` in units of `2^q`, rounded: the integer and whether anything was lost. -/
def roundTo (mode : Rm) (neg : Bool) (m : Nat) (e q : Int) : Nat × Bool :=
  if q ≤ e then (m * 2 ^ (e - q).toNat, false)
  else
    let k := (q - e).toNat
    let mant := m / 2 ^ k
    let rem := m % 2 ^ k
    (mant + (roundsUp mode neg mant rem k).toNat, decide (rem ≠ 0))

/-- The exact value (-1)^neg * m * 2^e rounded once to a format (05 R84), with its exceptions (05 R87). -/
def FFmt.round (f : FFmt) (mode : Rm) (neg : Bool) (m : Nat) (e : Int) : Nat × Exc :=
  if m = 0 then (f.sign neg, Exc.none)
  else
    let top : Int := Nat.log2 m + e
    let low : Int := 1 - f.bias - f.fw
    let q := max (top - f.fw) low
    let (mant, ix) := roundTo mode neg m e q
    let bits := (q - low).toNat * 2 ^ f.fw + mant
    if (2 ^ f.ew - 1) * 2 ^ f.fw ≤ bits then
      let inf := match mode with | .rne => true | .rtz => false | .rdn => neg | .rup => !neg
      (if inf then f.infBits neg else f.maxBits neg, { Exc.none with of := true, ix := true })
    else
      let tiny := decide (top < 1 - f.bias) &&
        !(decide (top = - f.bias) && decide ((roundTo mode neg m e (top - f.fw)).1 = 2 ^ (f.fw + 1)))
      (f.sign neg + bits, { Exc.none with ix := ix, uf := tiny && ix })

/-- A signed integer in units of 2^e rounded to a format; an exact zero takes the sign `zneg`. -/
def FFmt.roundInt (f : FFmt) (mode : Rm) (zneg : Bool) (v : Int) (e : Int) : Nat × Exc :=
  if v = 0 then (f.sign zneg, Exc.none) else f.round mode (decide (v < 0)) v.natAbs e

/-- A value in units of 2^e0, for e0 no higher than its exponent. -/
def FVal.units (x : FVal) (e0 : Int) : Int :=
  match x with
  | .num s m e => (if s then -1 else 1) * ((m * 2 ^ (e - e0).toNat : Nat) : Int)
  | _ => 0

def FVal.isNan : FVal → Bool
  | .nan _ => true
  | _ => false
def FVal.isSig : FVal → Bool
  | .nan s => s
  | _ => false
def FVal.isZero : FVal → Bool
  | .num _ m _ => m == 0
  | _ => false
def FVal.isInf : FVal → Bool
  | .inf _ => true
  | _ => false
def FVal.neg : FVal → Bool
  | .nan _ => false
  | .inf s => s
  | .num s _ _ => s
def FVal.exp : FVal → Int
  | .num _ _ e => e
  | _ => 0

/-- The value negated, exactly. -/
def FVal.flip : FVal → FVal
  | .nan s => .nan s
  | .inf s => .inf (!s)
  | .num s m e => .num (!s) m e

/-- The exact product of two values that are no NaN; 0 * ∞ is an invalid NaN. -/
def FVal.times (x y : FVal) : FVal :=
  match x, y with
  | .num s m e, .num t n d => .num (s != t) (m * n) (e + d)
  | .nan s, _ => .nan s
  | _, .nan s => .nan s
  | .inf s, z => if z.isZero then .nan false else .inf (s != z.neg)
  | z, .inf s => if z.isZero then .nan false else .inf (s != z.neg)

/-- The sum of two exact values rounded once, without the exceptions of NaN operands (05 R84). -/
def FFmt.sum (f : FFmt) (mode : Rm) (x y : FVal) : Nat × Exc :=
  match x, y with
  | .nan _, _ => (f.nan, Exc.none)
  | _, .nan _ => (f.nan, Exc.none)
  | .inf s, .inf t => if s = t then (f.infBits s, Exc.none) else (f.nan, Exc.invalid)
  | .inf s, _ => (f.infBits s, Exc.none)
  | _, .inf s => (f.infBits s, Exc.none)
  | .num s m e, .num t n d =>
    let e0 := min e d
    let z := if m = 0 ∧ n = 0 ∧ s = t then s else decide (mode = .rdn)
    f.roundInt mode z ((FVal.num s m e).units e0 + (FVal.num t n d).units e0) e0

/-- Signals IV for a signalling NaN among the operands (05 R87). -/
def sigs (l : List FVal) : Exc := if l.any FVal.isSig then Exc.invalid else Exc.none

def fadd (f : FFmt) (mode : Rm) (x y : Nat) : Nat × Exc :=
  let r := f.sum mode (f.val x) (f.val y)
  (r.1, r.2.or (sigs [f.val x, f.val y]))

def fsub (f : FFmt) (mode : Rm) (x y : Nat) : Nat × Exc :=
  let r := f.sum mode (f.val x) (f.val y).flip
  (r.1, r.2.or (sigs [f.val x, f.val y]))

/-- Whether a product is 0 * ∞. -/
def zeroTimesInf (x y : FVal) : Bool := (x.isZero && y.isInf) || (x.isInf && y.isZero)

def fmul (f : FFmt) (mode : Rm) (x y : Nat) : Nat × Exc :=
  let a := f.val x
  let b := f.val y
  let e := (sigs [a, b]).or (if zeroTimesInf a b then Exc.invalid else Exc.none)
  match a.times b with
  | .nan _ => (f.nan, e)
  | .inf s => (f.infBits s, e)
  | .num s m q =>
    let r := f.round mode s m q
    (r.1, r.2.or e)

/-- (-1)^np * x * y + (-1)^na * z, rounded once (07 R106, 10 R198). -/
def ffma (f : FFmt) (mode : Rm) (np na : Bool) (x y z : Nat) : Nat × Exc :=
  let a := f.val x
  let b := f.val y
  let c := f.val z
  let p := a.times b
  let e := (sigs [a, b, c]).or (if zeroTimesInf a b then Exc.invalid else Exc.none)
  let r := f.sum mode (if np then p.flip else p) (if na then c.flip else c)
  (r.1, r.2.or e)

/-- Whether `x < y`, with -0 below +0 if `zeros`; neither is a NaN. -/
def FVal.lt (x y : FVal) (zeros : Bool) : Bool :=
  match x, y with
  | .inf s, .inf t => s && !t
  | .inf s, _ => s
  | _, .inf t => !t
  | .num s m e, .num t n d =>
    let e0 := min e d
    let u := (FVal.num s m e).units e0
    let v := (FVal.num t n d).units e0
    decide (u < v) || (zeros && decide (u = v) && s && !t)
  | _, _ => false

/-- minimumNumber and maximumNumber (10 R195). -/
def fminmax (f : FFmt) (isMax : Bool) (x y : Nat) : Nat × Exc :=
  let a := f.val x
  let b := f.val y
  let e := sigs [a, b]
  if a.isNan && b.isNan then (f.nan, e)
  else if a.isNan then (y, e)
  else if b.isNan then (x, e)
  else if isMax then (if a.lt b true then y else x, e)
  else (if b.lt a true then y else x, e)

/-- VFABS and VFNEG (10 R195). -/
def fsignOp (f : FFmt) (isAbs : Bool) (x : Nat) : Nat × Exc :=
  let a := f.val x
  if a.isNan then (f.nan, sigs [a])
  else
    let mag := x % 2 ^ (f.fw + f.ew)
    (if isAbs then mag else mag + f.sign (!a.neg), Exc.none)

/-- A float condition (10 R197). -/
def FCond.holds (c : FCond) (f : FFmt) (x y : Nat) : Bool × Exc :=
  let a := f.val x
  let b := f.val y
  let e := sigs [a, b]
  let u := a.isNan || b.isNan
  let lt := !u && a.lt b false
  let gt := !u && b.lt a false
  let r := match c with
    | .eq => !u && !lt && !gt
    | .ne => u || lt || gt
    | .lt => lt
    | .le => !u && !gt
    | .gt => gt
    | .ge => !u && !lt
    | .ord => !u
    | .uno => u
  (r, e)

/-- Float to another float format (05 R85). -/
def fcvt (src dst : FFmt) (mode : Rm) (x : Nat) : Nat × Exc :=
  match src.val x with
  | .nan s => (dst.nan, if s then Exc.invalid else Exc.none)
  | .inf s => (dst.infBits s, Exc.none)
  | .num s m e => dst.round mode s m e

/-- I32 to float (10 R199). -/
def fofInt (f : FFmt) (mode : Rm) (x : Int) : Nat × Exc := f.roundInt mode false x 0

/-- Float to I32 (05 R85, 10 R199): rounded, then saturated. -/
def ftoInt (f : FFmt) (mode : Rm) (x : Nat) : Int × Exc :=
  let lo : Int := -(2 ^ 31)
  let hi : Int := 2 ^ 31 - 1
  match f.val x with
  | .nan _ => (0, Exc.invalid)
  | .inf s => (if s then lo else hi, { Exc.invalid with ix := true })
  | .num s m e =>
    let r := roundTo mode s m e 0
    let v : Int := if s then -(r.1 : Int) else r.1
    if v < lo then (lo, { Exc.invalid with ix := true })
    else if hi < v then (hi, { Exc.invalid with ix := true })
    else (v, { Exc.none with ix := r.2 })

/-! ### Special functions (10 R196) -/

/-- The exceptions of a delivered F32 result that differs from the exact value when `ix` is true. -/
def delivered (r : Nat) (ix : Bool) : Nat × Exc :=
  let mag := r % 2 ^ 31
  (r, { Exc.none with ix := ix, of := ix && decide (mag = 0x7F800000), uf := ix && decide (mag < 0x00800000) })

def qnan : Nat × Exc := (F32.nan, Exc.none)
def invalidNan : Nat × Exc := (F32.nan, Exc.invalid)

/-! The bounds of 10 R196. A real number is enclosed in units of `2^(-fixed)`: a computed integer and a margin of `2^slack` units on
either side. -/

def fixed : Nat := 400
def slack : Nat := 48

/-- `x * y` of two numbers in fixed-point units. -/
def fixMul (x y : Int) : Int := x * y / 2 ^ fixed

/-- The sum of `n` terms of `q^(2k+1) / (2k+1)` from term `k` on, `p` the power `q^(2k+1)`, with alternating signs if `alt`: the
series of arctan or artanh. -/
def oddSeries (alt : Bool) (q2 : Int) : Nat → Nat → Int → Int
  | 0, _, _ => 0
  | n + 1, k, p => (if alt && decide (k % 2 = 1) then -1 else 1) * (p / (2 * k + 1)) + oddSeries alt q2 n (k + 1) (fixMul p q2)

/-- arctan and artanh of a fixed-point number. -/
def fixAtan (q : Int) : Int := oddSeries true (fixMul q q) 180 0 q
def fixAtanh (q : Int) : Int := oddSeries false (fixMul q q) 180 0 q

def fixOne : Int := 2 ^ fixed
def fixPi : Int := 16 * fixAtan (fixOne / 5) - 4 * fixAtan (fixOne / 239)
def fixLn2 : Int := 2 * fixAtanh (fixOne / 3)

/-- The sum of `n` terms of a Taylor series from term `t` on: term `k + 1` is term `k` times `f`, over `d k`. -/
def taylor (f : Int) (d : Nat → Int) : Nat → Nat → Int → Int
  | 0, _, _ => 0
  | n + 1, k, t => t + taylor f d n (k + 1) (fixMul t f / d k)

/-- e^y for a fixed-point y from 0 to 1. -/
def fixExp (y : Int) : Int := taylor y (fun k => k + 1) 100 0 fixOne

/-- 2^y for a fixed-point y: at most 2^200; at least 2^(-400), or 0. -/
def fixExp2 (y : Int) : Int :=
  let n := y / fixOne
  let e := fixExp (fixMul (y - n * fixOne) fixLn2)
  if 0 ≤ n then e * 2 ^ (min n 200).toNat else e / 2 ^ (min (-n) 1000).toNat

/-- sin(π·r) for a fixed-point r from -1/2 to 1/2. -/
def fixSin (r : Int) : Int :=
  let t := fixMul r fixPi
  taylor (-(fixMul t t)) (fun k => (2 * k + 2) * (2 * k + 3)) 100 0 t

/-- sin(π·y) for a fixed-point y: its nearest integer taken off. -/
def fixSinPi (y : Int) : Int :=
  let n := (2 * y + fixOne) / (2 * fixOne)
  (if n % 2 = 0 then 1 else -1) * fixSin (y - n * fixOne)

/-- log2 of m * 2^e for m > 0. -/
def fixLog2 (m : Nat) (e : Int) : Int :=
  let k := Nat.log2 m
  let x := (m : Int) * fixOne / 2 ^ k
  (k + e) * fixOne + 2 * fixAtanh ((x - fixOne) * fixOne / (x + fixOne)) * fixOne / fixLn2

/-- The integer square root of `n`, bit `k - 1` of the root first, from the root `r` so far. -/
def isqrt (n : Nat) : Nat → Nat → Nat
  | 0, r => r
  | k + 1, r => isqrt n k (if (r + 2 ^ k) * (r + 2 ^ k) ≤ n then r + 2 ^ k else r)

/-- 1/√(m * 2^e) for m > 0. -/
def fixRsq (m : Nat) (e : Int) : Int := isqrt (2 ^ (2 * (fixed : Int) - e).toNat / m) 500 0

/-- tanh of a fixed-point y from -64 to 64. -/
def fixTanh (y : Int) : Int :=
  let e := fixExp2 (2 * (y.natAbs : Int) * fixOne / fixLn2)
  (if y < 0 then -1 else 1) * ((e - fixOne) * fixOne / (e + fixOne))

/-- A finite float in fixed-point units, an F32 value exactly; of magnitude `cap` at most. -/
def FVal.toFix (x : FVal) (cap : Nat) : Int :=
  match x with
  | .num s m e =>
    let v : Int := if 0 ≤ e + (fixed : Int) then (m * 2 ^ (e + (fixed : Int)).toNat : Nat) else 0
    let w := min v (cap * fixOne)
    if s then -w else w
  | _ => 0

/-- The unit in the last place of F32 at a fixed-point number: the spacing of F32 values in its binade (05 R74). -/
def ulpFix (v : Int) : Int := 2 ^ (max (Nat.log2 v.natAbs - 23) (fixed - 149))

/-- Whether an F32 result lies within `k` ulp of the number enclosed by `v`. A computed `v` so near to a power of two, or to the edge of
the bound on the side of its own sign, that its margin decides is exactly there. -/
def withinUlp (k : Nat) (v : Int) (r : Nat) : Bool :=
  match F32.val r with
  | .num s m e =>
    let w := (FVal.num s m e).toFix (2 ^ 128)
    let u := k * ulpFix ((v.natAbs : Int) + 2 ^ slack)
    let off := (w - v).natAbs
    decide (off + 2 ^ slack ≤ u.natAbs) || (decide (off ≤ u.natAbs + 2 ^ slack) && decide (decide (w < 0) = decide (v < 0)))
  | _ => false

/-- Whether an F32 result lies within `k` ulp of a number that is less in magnitude than the F32 value `v`, by less than 2^(-149): the
number falls between `v` and the F32 value next to it, so that a unit taken off `v` stands for it. -/
def withinBelow (k : Nat) (v : Int) (r : Nat) : Bool :=
  match F32.val r with
  | .num s m e => decide (((FVal.num s m e).toFix (2 ^ 128) - (v - v.sign)).natAbs ≤ k * (ulpFix (v - v.sign)).natAbs)
  | _ => false

/-- A delivered result: the value that the implementation chose, which lies within the bound; a choice outside the bound is none
(DESIGN CHOICE: assumption log 9). -/
def chosen (k : Nat) (v : Int) (free : Word) : Nat :=
  if withinUlp k v free.toNat then free.toNat else (F32.roundInt .rne false v (-(fixed : Int))).1

/-- VFRCP: 1/x, correctly rounded in RNE. -/
def frcp (x : Nat) : Nat × Exc :=
  match F32.val x with
  | .nan s => (F32.nan, if s then Exc.invalid else Exc.none)
  | .inf s => (F32.sign s, Exc.none)
  | .num s m e =>
    if m = 0 then (F32.infBits s, { Exc.none with dz := true })
    else
      let k := Nat.log2 m + 64
      let q := 2 ^ k / m
      F32.round .rne s (2 * q + (if 2 ^ k % m = 0 then 0 else 1)) (-(k : Int) - 1 - e)

/-- VFRSQ: 1/√x. -/
def frsq (x : Nat) : Nat × Exc :=
  match F32.val x with
  | .nan s => (F32.nan, if s then Exc.invalid else Exc.none)
  | .inf s => if s then invalidNan else (0, Exc.none)
  | .num s m e =>
    if m = 0 then (F32.infBits s, { Exc.none with dz := true })
    else if s then invalidNan
    else
      let r := chosen 1 (fixRsq m e) (Config.freeRsq (BitVec.ofNat 32 x))
      let exact := match F32.val r with
        | .num false n d =>
          let q := e + 2 * d
          if q ≤ 0 then decide (n * n * m = 2 ^ (-q).toNat) else false
        | _ => false
      delivered r (!exact)

/-- The integer value of a finite float, if it is an integer. -/
def FVal.int? : FVal → Option Int
  | .num s m e =>
    if 0 ≤ e then some ((if s then -1 else 1) * ((m * 2 ^ e.toNat : Nat) : Int))
    else if m % 2 ^ (-e).toNat = 0 then some ((if s then -1 else 1) * ((m / 2 ^ (-e).toNat : Nat) : Int))
    else none
  | _ => none

/-- VFEXP2: 2^x. -/
def fexp2 (x : Nat) : Nat × Exc :=
  let a := F32.val x
  match a with
  | .nan s => (F32.nan, if s then Exc.invalid else Exc.none)
  | .inf s => if s then (0, Exc.none) else (F32.infBits false, Exc.none)
  | .num _ _ _ =>
    if !a.lt (.num false 128 0) false then (F32.infBits false, { Exc.none with of := true, ix := true })
    else
      let open_ := delivered (chosen 1 (fixExp2 (a.toFix 1024)) (Config.freeExp2 (BitVec.ofNat 32 x))) true
      match a.int? with
      | some n => if -149 ≤ n then F32.round .rne false 1 n else open_
      | none => open_

/-- VFLOG2: log2 x. -/
def flog2 (x : Nat) : Nat × Exc :=
  match F32.val x with
  | .nan s => (F32.nan, if s then Exc.invalid else Exc.none)
  | .inf s => if s then invalidNan else (F32.infBits false, Exc.none)
  | .num s m e =>
    if m = 0 then (F32.infBits true, { Exc.none with dz := true })
    else if s then invalidNan
    else if m = 2 ^ Nat.log2 m then F32.roundInt .rne false (Nat.log2 m + e) 0
    else delivered (chosen 1 (fixLog2 m e) (Config.freeLog2 (BitVec.ofNat 32 x))) true

/-- Whether twice a value is an odd integer: x = n + 1/2. -/
def FVal.isHalf (x : FVal) : Bool :=
  match x with
  | .num s m e => match (FVal.num s m (e + 1)).int? with
    | some n => n % 2 == 1
    | none => false
  | _ => false

/-- VFSIN: sin(π·x). -/
def fsin (x : Nat) : Nat × Exc :=
  let a := F32.val x
  match a with
  | .nan s => (F32.nan, if s then Exc.invalid else Exc.none)
  | .inf _ => invalidNan
  | .num s m _ =>
    if m = 0 then (F32.sign s, Exc.none)
    else if a.int?.isSome then (0, Exc.none)
    else if x = 0x3F000000 then (0x3F800000, Exc.none)
    else
      let r := chosen 2 (fixSinPi (a.toFix (2 ^ 128))) (Config.freeSin (BitVec.ofNat 32 x))
      delivered r (!(a.isHalf && (decide (r = 0x3F800000) || decide (r = 0xBF800000))))

/-- VFCOS: cos(π·x). -/
def fcos (x : Nat) : Nat × Exc :=
  let a := F32.val x
  match a with
  | .nan s => (F32.nan, if s then Exc.invalid else Exc.none)
  | .inf _ => invalidNan
  | .num _ _ _ =>
    if a.isHalf then (0, Exc.none)
    else
      let r := chosen 2 (fixSinPi (a.toFix (2 ^ 128) + fixOne / 2)) (Config.freeCos (BitVec.ofNat 32 x))
      let exact := match a.int? with
        | some n => if n % 2 = 0 then decide (r = 0x3F800000) else decide (r = 0xBF800000)
        | none => false
      delivered r (!exact)

/-- VFTANH: tanh x, the free value kept in [-1, 1]. Below 2^(-60), tanh x lies below x by less than x^3/3. -/
def ftanh (x : Nat) : Nat × Exc :=
  match F32.val x with
  | .nan s => (F32.nan, if s then Exc.invalid else Exc.none)
  | .inf s => (F32.sign s + 0x3F800000, Exc.none)
  | .num s m _ =>
    if m = 0 then (F32.sign s, Exc.none)
    else
      let v := (F32.val x).toFix 64
      let free := Config.freeTanh (BitVec.ofNat 32 x)
      let r := if v.natAbs < 2 ^ (fixed - 60) then (if withinBelow 2 v free.toNat then free.toNat else x) else chosen 2 (fixTanh v) free
      delivered (if r % 2 ^ 31 ≤ 0x3F800000 then r else F32.sign s + 0x3F800000) true

/-! ### Sums of many values (05 R91, R92; 10 R208) -/

/-- What an exact sum of values comes to. -/
inductive Total where
  | nan
  | inf (neg : Bool)
  | exact (v e : Int)
deriving DecidableEq, Repr

/-- The lowest exponent of a list of values. -/
def lowest (l : List FVal) : Int := l.foldl (fun a x => min a x.exp) 0

/-- The exact sum of a list (05 R92). -/
def total (l : List FVal) : Total :=
  if l.any FVal.isNan then .nan
  else
    let p := l.any fun x => decide (x = .inf false)
    let n := l.any fun x => decide (x = .inf true)
    if p && n then .nan else if p then .inf false else if n then .inf true
    else
      let e0 := lowest l
      .exact (l.foldl (fun a x => a + x.units e0) 0) e0

/-- The F32 sum of a list, rounded once in RNE; an exact zero is -0 only if every value is -0 (10 R208). -/
def fsumList (l : List Nat) : Nat × Exc :=
  let vs := l.map F32.val
  let e := sigs vs
  match total vs with
  | .nan => (F32.nan, if vs.any FVal.isNan then e else Exc.invalid)
  | .inf s => (F32.infBits s, e)
  | .exact v q =>
    let z := vs.all fun x => x.isZero && x.neg
    let r := F32.roundInt .rne z v q
    (r.1, r.2.or e)

/-! ### Block floating point (05 R78 to R82) -/

/-- The value of a mantissa under a shared exponent (05 R78, R79), M read as m bits. -/
def bfpVal (m E : Nat) (M : Int) : FVal :=
  if E = 0 then .num false 0 0
  else if E = 255 then .nan false
  else .num (decide (M < 0)) M.natAbs ((E : Int) - 127 - (m - 1))

/-- An F32 pattern of a value that F32 holds exactly (05 R81). -/
def F32.pattern (x : FVal) : Nat :=
  match x with
  | .nan _ => F32.nan
  | .inf s => F32.infBits s
  | .num s m e => (F32.round .rne s m e).1

/-- `w` low bits of a number as a signed value. -/
def sextNat (x w : Nat) : Int := if x % 2 ^ w < 2 ^ (w - 1) then (x % 2 ^ w : Nat) else ((x % 2 ^ w : Nat) : Int) - 2 ^ w

/-- sat of 07 R122. -/
def satInt (x lo hi : Int) : Int := if x < lo then lo else if hi < x then hi else x

/-- Quantisation of a block into BFPm (05 R82): the shared exponent, the mantissas and the exceptions. -/
def bfpQuantise (m : Nat) (xs : List Nat) : Nat × List Int × Exc :=
  let vs := xs.map F32.val
  if vs.any fun v => v.isNan || v.isInf then (255, vs.map fun _ => 0, Exc.invalid)
  else if vs.all FVal.isZero then (0, vs.map fun _ => 0, Exc.none)
  else
    let top := vs.foldl (fun a v => match v with
      | .num _ n e => if n = 0 then a else max a (Nat.log2 n + e)
      | _ => a) (-149 : Int)
    let E := (satInt (top + 128) 1 254).toNat
    let ms := vs.map fun v => match v with
      | .num s n e =>
        let r := (roundTo .rne s n (e + 127 + (m - 1) - E) 0).1
        satInt (if s then -(r : Int) else r) (-(2 ^ (m - 1))) (2 ^ (m - 1) - 1)
      | _ => 0
    let E' := if ms.all (· = 0) then 0 else E
    let ix := (vs.zip ms).any fun p =>
      let w := bfpVal m E' p.2
      let e0 := min w.exp p.1.exp
      decide (w.units e0 ≠ p.1.units e0)
    (E', ms, { Exc.none with ix := ix })

end Sys2Proof.Machine
end

