-- ==== Sys2Proof/Machine/Memory.lean ====
section
/-! DEFINITION. Caches, epochs, translation, residency and quotas, and the fetch of instructions (spec 12 R214 to R230, R405;
13 R238 to R252; 09 R183). -/

namespace Sys2Proof.Machine

/-! ### Dropping copies -/

/-- Drops the copies that a core holds of the lines of some sectors (12 R227, 05 R97). Instruction lines stay (09 R183). -/
def Core.dropSectors (x : Core) (secs : List Nat) : Core :=
  { x with
    l1 := secs.foldl (fun c s => c.drop (s / 4)) x.l1
    scale := x.scale.filter fun l => !l.pas.any fun p => secs.contains (sectorOf p)
    sdir := x.sdir.filter fun e => !secs.contains (sectorOf e.pa) }

/-- Drops the clean copies that a die holds of the lines of some sectors; dirty sectors stay (12 R227). -/
def Die.dropSectors (x : Die) (secs : List Nat) : Die :=
  { x with l2 := secs.foldl (fun c s => c.drop (s / 4)) x.l2, cores := x.cores.map (Core.dropSectors · secs) }

/-- Drops the clean copies that a direct write of another die at the home has passed (12 R224). -/
def Die.dropStale (x : Die) : Die := { x with l2 := x.stale.foldl Copies.drop x.l2, stale := [] }

/-- The sectors of a line. -/
def sectorsOf (line : Nat) : List Nat := [4 * line, 4 * line + 1, 4 * line + 2, 4 * line + 3]

/-- The drops of an acquire of TEAM scope or wider by a warp of the core (12 R222, 05 R97). -/
def Core.acquire (x : Core) : Core := { x with l1 := Copies.empty, scale := [], sdir := [] }

/-- Whether a line holds host or peer memory. -/
def hostPeerLine (line : Nat) : Bool := decide (keyClass (128 * line) = 2) || decide (keyClass (128 * line) = 3)

/-! ### Epochs (12 R225 to R227) -/

/-- The latest published epoch of a die. -/
def Die.published (x : Die) : Nat := x.epoch - 1

/-- The vector-clock entry of die `d` for die `c`. -/
def Mach.clock (m : Mach) (d c : Nat) : Nat :=
  match m.dies[d]? with
  | some x => x.vc.getD c 0
  | none => 0

def Mach.publishedOf (m : Mach) (c : Nat) : Nat :=
  match m.dies[c]? with
  | some x => x.published
  | none => 0

/-- apply_all of 12 R227. -/
def Mach.applyAll (m : Mach) (d : Nat) : Mach :=
  let vc := (List.range m.dies.length).map fun c => m.publishedOf c
  m.modDie d fun x =>
    { x with
      vc := vc
      l2 := (x.l2.lines.filter fun l => isPackage (128 * l)).foldl (fun c l => c.drop l) x.l2
      stale := []
      cores := x.cores.map fun y =>
        { y with l1 := (y.l1.lines.filter fun l => isPackage (128 * l)).foldl (fun c l => c.drop l) y.l1, scale := [], sdir := [] } }

/-- apply(A, e) at die d of 12 R227, by fuel: each call applies one record. -/
def Mach.applyRec : Nat → Mach → Nat → Nat → Nat → Mach
  | 0, m, _, _, _ => m
  | n + 1, m, d, a, e =>
    if e ≤ m.clock d a then m
    else
      let f := m.clock d a + 1
      match (m.dies[a]?).bind fun x => x.log.find? fun r => r.epoch == f with
      | none => m.applyAll d
      | some r =>
        let m1 := (List.range m.dies.length).foldl (fun m c =>
          if c ≠ a ∧ m.clock d c < r.vc.getD c 0 then Mach.applyRec n m d c (r.vc.getD c 0) else m) m
        let m2 := m1.modDie d fun x =>
          { (x.dropSectors r.sectors).dropStale with vc := x.vc.set a (max f (x.vc.getD a 0)) }
        Mach.applyRec n m2 d a e

/-- As many records as all dies have published. -/
def Mach.fuel (m : Mach) : Nat := (m.dies.map Die.epoch).sum + m.dies.length + 1

/-- Applies the record of epoch `e` of die `a` at die `d` and those before it. -/
def Mach.apply (m : Mach) (d a e : Nat) : Mach := Mach.applyRec m.fuel m d a e

/-- Applies at die `d` the latest published record of every die. -/
def Mach.applyLatest (m : Mach) (d : Nat) : Mach := (List.range m.dies.length).foldl (fun m c => m.apply d c (m.publishedOf c)) m

/-- Whether a slice is affected: a field of its old or its new domain changes (23 R389). -/
def affected (old new : Tab 16 Word) (s : Nat) : Bool :=
  (List.finRange 8).any fun k =>
    decide (domainOf old k ≠ domainOf new k) && ((domainOf old k).holds s || (domainOf new k).holds s)

/-- Whether a line of HBM has an affected home slice. -/
def lineAffected (old new : Tab 16 Word) (line : Nat) : Bool :=
  decide (keyClass (128 * line) = 0) && match homeSlice old (128 * line) with
    | some s => affected old new s
    | none => false

/-- A request that an affected slice refuses while a switch is under way (23 R389). -/
def Mach.refuses (m : Mach) (k : Nat) : Bool :=
  match m.switching with
  | some p => lineAffected m.domCur p.2 (lineOf k)
  | none => false

/-- The end of a switch: affected slices write their dirty lines and drop all lines, every die applies every die's latest
record, and the new mapping takes effect (23 R389). The SYSW that began it, if a gang did, is to retire. -/
def Mach.finishSwitch (m : Mach) (new : Tab 16 Word) : Mach :=
  let m1 := { m with
    llcLines := m.llcLines.filter fun l => !lineAffected m.domCur new l
    llcDirty := m.llcDirty.filter fun l => !lineAffected m.domCur new l }
  let m2 := (List.range m1.dies.length).foldl Mach.applyLatest m1
  { m2 with
    domCur := new, domPend := new, switching := none
    switched := (match m.switching with | some p => if p.1.slice < 8 then [p.1] else [] | none => []) ++ m2.switched }

/-- The switch under way, if there is one, ended. -/
def Mach.endSwitch (m : Mach) : Mach :=
  match m.switching with
  | some p => m.finishSwitch p.2
  | none => m

/-- A request to a line that an affected slice refuses waits for the end of the switch (23 R389). -/
def Mach.awaitSwitch (m : Mach) (lines : List Nat) : Mach :=
  match m.switching with
  | some p => if lines.any fun l => m.refuses (128 * l) then m.finishSwitch p.2 else m
  | none => m

/-- The latest epochs that a die has published or applied: what a release of it covers (12 R228). -/
def Mach.seenBy (m : Mach) (d : Nat) : List Nat := ((m.dies[d]?).map Die.vc).getD []

/-- The records that an acquire by die `d` joins: those of the epochs that the release covers (12 R223, R227). -/
def Mach.applySeen (m : Mach) (d : Nat) (v : List Nat) : Mach :=
  ((List.range v.length).filter fun a => decide (a ≠ d)).foldl (fun m a => m.apply d a (v.getD a 0)) m

/-- The drops of an acquire at a scope (12 R222, R405); at PKG and SYS scope also of copies that a direct write at the home has
passed, which no record names (12 R224). A value in host memory carries no tag, so that an acquire of SYS scope applies every
published record (12 R223, R224). -/
def Mach.acquireDrops (m : Mach) (d c : Nat) (sc : Scope) : Mach :=
  match sc with
  | .lane => m
  | .warp => m
  | .sys =>
    ((m.modCore d c Core.acquire).modDie d fun x =>
      { x.dropStale with l2 := (x.l2.lines.filter hostPeerLine).foldl (fun l n => l.drop n) x.dropStale.l2 }).applyLatest d
  | .pkg => (m.modCore d c Core.acquire).modDie d Die.dropStale
  | _ => m.modCore d c Core.acquire

/-- A read of a sector at its home by die `d`: none if it is held for an epoch not yet published (12 R226, R227). -/
def Mach.readTag (m : Mach) (d sector : Nat) : Option Mach :=
  let v := m.tagOf sector
  let ds := (List.range v.length).filter fun a => decide (a ≠ d)
  if ds.any fun a => decide (m.publishedOf a < v.getD a 0) then none
  else some (m.applySeen d v)

/-- What a held read of a line waits for, done: the epochs that wrote its sectors are published (12 R226, R227). -/
def Mach.publishLine (m : Mach) (publish : Mach → Nat → Mach) (k : Nat) : Mach :=
  (sectorsOf (lineOf k)).foldl (fun m s =>
    (List.range (m.tagOf s).length).foldl (fun m a => if m.publishedOf a < (m.tagOf s).getD a 0 then publish m a else m) m) m

/-- The written bytes of a sector drained to its home with the tag (d, e) (12 R226). Draining a whole sector clears its
poison mark (21 R375). -/
def Mach.drainSector (m : Mach) (d e sector : Nat) : Mach :=
  match m.dies[d]? with
  | none => m
  | some x =>
    let at_ := (List.range 32).filterMap fun i => if x.dirtyAt.contains (32 * sector + i) then some (32 * sector + i) else none
    if at_.isEmpty then m
    else if at_.length = 32 then (m.homeWrite (32 * sector) 32 (Mem.read x.dirty (32 * sector) 32)).setTag sector d e
    else (at_.foldl (fun m k => m.homeWrite k 1 (Mem.get x.dirty k).toNat) m).setTag sector d e

/-- The die's own bytes laid over its clean copies, when a drain makes them clean. -/
def Die.settle (x : Die) : Die :=
  { x with
    l2 := x.dirtyAt.foldl (fun c k => c.update k 1 (Mem.get x.dirty k).toNat) x.l2
    dirty := [], dirtyAt := [], sectors := [], lost := [], firstWrite := none }

/-- Closes the open epoch of a die and publishes it (12 R226). An epoch with no dirty sector is not published (12 R225); a
lost sector is published poisoned (21 R374). A drain to an affected slice waits for the end of its switch (23 R389). A halted die
publishes nothing (23 R383). -/
def Mach.closeEpoch (m0 : Mach) (d : Nat) : Mach :=
  let m := m0.awaitSwitch (((m0.dies[d]?).map fun x => (x.sectors ++ x.lost).map (· / 4)).getD [])
  match m.dies[d]? with
  | none => m
  | some x =>
    if x.halted ∨ (x.sectors.isEmpty ∧ x.lost.isEmpty) then m
    else
      let e := x.epoch
      let m1 := x.sectors.foldl (fun m s => m.drainSector d e s) m
      let m2 := x.lost.foldl (fun m s => ({ m with poisoned := s :: m.poisoned.filter (· ≠ s) }).setTag s d e) m1
      let vc := x.vc.set d e
      m2.modDie d fun x =>
        { x.settle with epoch := e + 1, vc := vc, log := ({ epoch := e, sectors := x.sectors ++ x.lost, vc := vc } :: x.log).take Config.logEntries }

/-- The peer package of a key of peer memory. -/
def peerOf (k : Nat) : Nat := (k - 2 ^ 62) / 2 ^ 57

/-- The UALink ports to a peer (23 R391): a lane group that serves Ethernet is none (23 R394). -/
def Mach.portsTo (m : Mach) (peer : Nat) : List Port :=
  (List.finRange 32).filterMap fun k =>
    if !m.assign.getLsbD k.val && (m.ports.at k).peer == peer then some (m.ports.at k) else none

/-- Whether requests to a peer are held: only ports that a LINK_RECONF changes reach it (23 R393). -/
def Mach.holdsPeer (m : Mach) (peer : Nat) : Bool :=
  ((m.portsTo peer).any fun p => p.job.isSome) && !(m.portsTo peer).any fun p => p.job.isNone && p.state == 2

/-- Whether a peer package is reached by an up port, or by one under change (23 R390, R391, R393). -/
def Mach.reaches (m : Mach) (peer : Nat) : Bool := (m.portsTo peer).any fun p => p.state == 2 || p.job.isSome

/-- Whether a line of package memory waits for an epoch that a halted die will never publish: its value is lost with the die
(23 R383). -/
def Mach.tagLost (m : Mach) (k : Nat) : Bool :=
  (sectorsOf (lineOf k)).any fun s => (List.range (m.tagOf s).length).any fun a =>
    ((m.dies[a]?).map Die.halted).getD false && decide (m.publishedOf a < (m.tagOf s).getD a 0)

/-- Whether the host, the peer or the cut-off die that a key lies at can no longer be reached (21 R376, 23 R383, R393). -/
def Mach.targetLost (m : Mach) (k : Nat) : Bool :=
  match keyClass k with
  | 0 => m.tagLost k
  | 1 => m.tagLost k
  | 2 => m.brokenLinks.contains .pcie
  | 3 => !m.reaches (peerOf k)
  | 4 => m.brokenLinks.contains .pcie
  | _ => false

/-- Whether a request to the memory of a key is held (23 R393). -/
def Mach.peerHeld (m : Mach) (k : Nat) : Bool := decide (keyClass k = 3) && m.holdsPeer (peerOf k)

/-- Dirty host and peer bytes of a die written to their targets (12 R405). Bytes for a peer that a LINK_RECONF holds join the
held requests; bytes whose host or peer is lost stay dirty, until a release that covers them takes their fault (21 R376, 23 R393). -/
def Mach.flushBytes (m : Mach) (d : Nat) (ks : List Nat) : Mach :=
  match m.dies[d]? with
  | none => m
  | some x =>
    let own := ks.filter fun k => x.hdirtyAt.contains k && (m.peerHeld k || !m.targetLost k)
    (own.foldl (fun m k =>
      if m.peerHeld k then { m with heldReqs := m.heldReqs ++ [{ die := d, pa := k, bytes := [Mem.get x.hdirty k] }] }
      else m.homeWrite k 1 (Mem.get x.hdirty k).toNat) m).modDie d fun y =>
      { y with
        l2 := own.foldl (fun c k => c.update k 1 (Mem.get x.hdirty k).toNat) y.l2
        hdirty := y.hdirty.filter fun c => !own.contains c.1
        hdirtyAt := y.hdirtyAt.filter fun k => !own.contains k }

/-- Every dirty host and peer byte of a die written to its target (12 R405). -/
def Mach.flushHost (m : Mach) (d : Nat) : Mach := m.flushBytes d (((m.dies[d]?).map Die.hdirtyAt).getD [])

/-- The dirty host and peer bytes of a line that a die holds. -/
def Die.hostBytes (x : Die) (line : Nat) : List Nat := x.hdirtyAt.filter fun k => lineOf k = line

/-- A line replaced in the die L2: its dirty host and peer bytes go to their target, its clean copy is dropped, its dirty sectors
of the open epoch stay (12 R215, R405). A line of a held peer stays, as does one whose bytes cannot be written (21 R376). -/
def Mach.replaceLine (m : Mach) (d line : Nat) : Mach :=
  let ks := ((m.dies[d]?).map (Die.hostBytes · line)).getD []
  if m.peerHeld (128 * line) || ks.any m.targetLost then m
  else
    (m.flushBytes d ks).modDie d fun x =>
      { x with l2 := x.l2.drop line, stale := x.stale.filter (· ≠ line) }

/-- Whether a release of SYS scope by die `d` waits: its dirty bytes for a peer cannot reach the peer while a LINK_RECONF holds
the requests (12 R222, 23 R393). -/
def Mach.flushHeld (m : Mach) (d : Nat) (sc : Scope) : Bool :=
  decide (sc = .sys) && (((m.dies[d]?).map Die.hdirtyAt).getD []).any m.peerHeld

/-- The dirty bytes that a release of SYS scope by die `d` cannot deliver: their target is lost (21 R376, 23 R393). -/
def Mach.undeliverable (m : Mach) (d : Nat) (sc : Scope) : List Nat :=
  if sc = .sys then (((m.dies[d]?).map Die.hdirtyAt).getD []).filter m.targetLost else []

/-- What a release at a scope does (12 R222). -/
def Mach.release (m : Mach) (d : Nat) (sc : Scope) : Mach :=
  match sc with
  | .pkg => m.closeEpoch d
  | .sys => (m.closeEpoch d).flushHost d
  | _ => m

/-- The lost sectors of the epoch that a release at this scope closes (21 R374). -/
def Mach.lostAt (m : Mach) (d : Nat) (sc : Scope) : List Nat :=
  match sc, m.dies[d]? with
  | .pkg, some x => x.lost
  | .sys, some x => x.lost
  | _, _ => []

/-! ### Reading and writing through a die -/

/-- Whether a die holds byte `k` dirty. -/
def Die.owns (x : Die) (k : Nat) : Bool := if isPackage k then x.dirtyAt.contains k else x.hdirtyAt.contains k

/-- Whether a die holds all of `n` bytes dirty. -/
def Die.ownsAll (x : Die) (k : Nat) (n : Nat) : Bool := (List.range n).all fun i => x.owns (k + i)
def Die.ownsAny (x : Die) (k : Nat) (n : Nat) : Bool := (List.range n).any fun i => x.owns (k + i)

/-- The byte that the die L2 shows: the die's own write, else the copy (12 R216). -/
def Die.byte (x : Die) (under : Mem) (k : Nat) : Byte :=
  if x.owns k then Mem.get (if isPackage k then x.dirty else x.hdirty) k else Mem.get under k

/-- `n` bytes as the die L2 shows them over `under`. -/
def Die.read (x : Die) (under : Mem) (k : Nat) : Nat → Nat
  | 0 => 0
  | n + 1 => (x.byte under k).toNat + 256 * Die.read x under (k + 1) n

/-- A line held by the die L2, fetched from its home if need be; none if the read is held (12 R227). -/
def Mach.fetchLine (m : Mach) (d line : Nat) : Option Mach :=
  match m.dies[d]? with
  | none => none
  | some x =>
    if x.l2.holds line then some m
    else if m.refuses (128 * line) then none
    else
      let tagged := (sectorsOf line).foldl (fun o s => o.bind fun m => m.readTag d s) (some m)
      tagged.map fun m =>
        (((x.l2.over Config.l2Lines line).foldl (fun m l => m.replaceLine d l) m).llcTouch (128 * line) false).modDie d fun x =>
          { x with l2 := x.l2.fill line m.home, stale := x.stale.filter (· ≠ line) }

/-- `n` bytes read at the die L2 (12 R216). -/
def Mach.dieRead (m : Mach) (d k n : Nat) : Option (Nat × Mach) :=
  if keyClass k = 4 then some (m.homeRead k n, m)
  else
    match m.dies[d]? with
    | none => none
    | some x =>
      if x.ownsAll k n then some (x.read [] k n, m)
      else (m.fetchLine d (lineOf k)).bind fun m =>
        (m.dies[d]?).map fun x => (x.read x.l2.data k n, m)

/-- The entries of a line as the die L2 shows it. -/
def Die.lineImage (x : Die) (line : Nat) : Mem := Mem.write [] (128 * line) 128 (x.read x.l2.data (128 * line) 128)

/-- A plain load of `n` bytes by core `c` of die `d` (14 R264): the L1 copy if there is one, else the die L2. -/
def Mach.coreLoad (m : Mach) (d c k n : Nat) : Option (Nat × Mach) :=
  match m.core? d c with
  | none => none
  | some x =>
    if keyClass k = 4 then some (m.homeRead k n, m)
    else if x.l1.holds (lineOf k) then some (Mem.read x.l1.data k n, m)
    else
      match m.fetchLine d (lineOf k) with
      | none => m.dieRead d k n
      | some m =>
        (m.dies[d]?).map fun y =>
          (y.read y.l2.data k n, m.modCore d c fun x => { x with l1 := (x.l1.room Config.l1Lines (lineOf k)).fill (lineOf k) (y.lineImage (lineOf k)) })

/-- Adds an element to a list without repeats. -/
def addNew (l : List Nat) (x : Nat) : List Nat := if l.contains x then l else x :: l

/-- The bytes a die writes at its L2, into its open epoch or its dirty host and peer lines (12 R215, R225, R405). A lost sector
written whole is no longer lost (21 R375). -/
def Die.write (x : Die) (now k n v : Nat) : Die :=
  let ks := (List.range n).map (k + ·)
  if isPackage k then
    { x with
      dirty := Mem.write x.dirty k n v
      dirtyAt := ks.foldl addNew x.dirtyAt
      lost := x.lost.filter fun s => !(List.range 32).all fun i => (ks.foldl addNew x.dirtyAt).contains (32 * s + i)
      sectors := ks.foldl (fun l k => addNew l (sectorOf k)) x.sectors
      firstWrite := some (x.firstWrite.getD now) }
  else { x with hdirty := Mem.write x.hdirty k n v, hdirtyAt := ks.foldl addNew x.hdirtyAt }

/-- A write of `n` bytes at the die L2, by a core or by an engine (`c` none); the storing core's L1 copy is updated (12 R215). -/
def Mach.dieWrite (m : Mach) (d : Nat) (c : Option Nat) (k n v : Nat) : Mach :=
  let m1 := m.modDie d fun x => x.write m.now k n v
  match c with
  | some c => m1.modCore d c fun x => { x with l1 := x.l1.update k n v }
  | none => m1

/-- The open epoch closed if its table holds 49,152 entries (12 R225). -/
def Mach.closeIfFull (m : Mach) (d : Nat) : Mach :=
  if (((m.dies[d]?).map fun x => decide (Config.dirtyLimit ≤ x.sectors.length)).getD false) then m.closeEpoch d else m

/-- The line of a write held by the die L2 (12 R215), unless its read is held. -/
def Mach.allocate (m : Mach) (d line : Nat) : Mach := (m.fetchLine d line).getD m

/-- The range of a list that holds an address (13 R238). -/
def findRange (rs : List RangeDesc) (va : Nat) : Option RangeDesc :=
  rs.find? fun r => decide (r.baseg ≤ va / 2 ^ 16) && decide (va / 2 ^ 16 ≤ r.lastg)

/-- The physical key that a descriptor gives an address (13 R239). -/
def RangeDesc.key (r : RangeDesc) (va : Nat) : Nat :=
  physKey r.cls r.peer ((Int.ofNat va + r.offs * 65536).toNat)

/-- The keys at which the quota tables of the contexts begin (13 R251). -/
def Mach.quotaTables (m : Mach) : List Nat := m.contexts.filterMap fun c => (findRange c.ranges c.qtva).map fun r => r.key c.qtva

/-- Whether byte `k` belongs to USED of a quota table, which is read only (13 R251). -/
def readOnlyIn (ts : List Nat) (k : Nat) : Bool := ts.any fun b => decide (b ≤ k) && decide (k < b + 4096) && decide (8 ≤ (k - b) % 16)

/-- A write of `n` bytes by software, made by `w` with an address, a length and a value: bytes of a read-only register are left out
(00 R7). -/
def Mach.pastReadOnly (m : Mach) (k n v : Nat) (w : Mach → Nat → Nat → Nat → Mach) : Mach :=
  let ts := m.quotaTables
  if (List.range n).any fun i => readOnlyIn ts (k + i) then
    (List.range n).foldl (fun m i => if readOnlyIn ts (k + i) then m else w m (k + i) 1 (v / 256 ^ i)) m
  else w m k n v

/-- A plain store of `n` bytes: the die L2 holds the line it writes (12 R215), and closes the epoch whose table it fills
(12 R225). -/
def Mach.dieStore (m : Mach) (d : Nat) (c : Option Nat) (k n v : Nat) : Mach :=
  m.pastReadOnly k n v fun m k n v =>
    if keyClass k = 4 then m.homeWrite k n v
    else ((m.allocate d (lineOf k)).dieWrite d c k n v).closeIfFull d

/-- What a write at the home by die `d` drops there: the issuing core's L1 copy and the clean die-L2 copy (12 R215). -/
def Mach.dropOwn (m : Mach) (d c k : Nat) : Mach :=
  (m.modDie d fun x => { x with l2 := x.l2.drop (lineOf k) }).modCore d c fun x => { x with l1 := x.l1.drop (lineOf k) }

/-- Another die has written a line at its home: the other dies' clean copies are stale from then on (12 R224). -/
def Mach.markStale (m : Mach) (d line : Nat) : Mach :=
  (List.range m.dies.length).foldl (fun m e =>
    if e = d then m else m.modDie e fun x => if x.l2.holds line then { x with stale := addNew x.stale line } else x) m

/-- The dirty bytes that a die's own write at the home has followed in their coherence order: they are not drained over it (12 R215,
R224; DEDUCED: assumption log 68). The sector stays in the table. -/
def Die.undirty (x : Die) (k n : Nat) : Die :=
  let out := fun a : Nat => decide (k ≤ a) && decide (a < k + n)
  if isPackage k then { x with dirty := x.dirty.filter fun c => !out c.1, dirtyAt := x.dirtyAt.filter fun a => !out a }
  else { x with hdirty := x.hdirty.filter fun c => !out c.1, hdirtyAt := x.hdirtyAt.filter fun a => !out a }

/-- `n` bytes written directly at the home by die `d`, tagged with its latest published epoch (14 R273) and with what it has
applied, since the write follows those epochs (12 R228). -/
def Mach.homeStore (m : Mach) (d c k n v : Nat) : Mach :=
  m.pastReadOnly k n v fun m k n v =>
  let m1 := (((m.homeWrite k n v).modDie d (Die.undirty · k n)).dropOwn d c k).markStale d (lineOf k)
  if isPackage k then m1.mergeTag (sectorOf k) (mergeVec (List.replicate d 0 ++ [m.publishedOf d]) (((m.dies[d]?).map Die.vc).getD [])) else m1

/-- Dirty sectors among some sectors drained before the close of their epoch, which drains them again (12 R226). The mark of a lost one
moves to its home (21 R375). -/
def Mach.earlyDrain (m : Mach) (d : Nat) (secs : List Nat) : Mach :=
  match m.dies[d]? with
  | none => m
  | some x =>
    let m1 := (secs.filter x.sectors.contains).foldl (fun m s => m.drainSector d x.epoch s) m
    (secs.filter x.lost.contains).foldl (fun m s => ({ m with poisoned := s :: m.poisoned.filter (· ≠ s) }).setTag s d x.epoch) m1

/-- A read at the home by die `d` of bytes of one sector, its tag applied (14 R275, 12 R227); none while it is held or refused
(23 R389). -/
def Mach.homeLoad (m : Mach) (d k n : Nat) : Option (Nat × Mach) :=
  if m.refuses k then none
  else (if isPackage k then m.readTag d (sectorOf k) else some m).map fun m => (m.homeRead k n, m)

/-- An LDA (14 R275): TEAM and DIE scope read the die L2, wider scopes the die's own dirty bytes or the home. One of LANE or WARP scope,
for which the spec gives no place, reads the die L2 (DESIGN CHOICE: assumption log 85). -/
def Mach.ldaRead (m : Mach) (d k n : Nat) (sc : Scope) : Option (Nat × Mach) :=
  match sc with
  | .pkg => wide
  | .sys => wide
  | _ => m.dieRead d k n
where
  wide : Option (Nat × Mach) :=
    match m.dies[d]? with
    | none => none
    | some x =>
      if x.ownsAny k n then
        if x.ownsAll k n then some (x.read [] k n, m)
        else (m.homeLoad d k n).map fun r => (x.read r.2.home k n, r.2)
      else m.homeLoad d k n

/-- The lines of `n` bytes. -/
def linesOf (k n : Nat) : List Nat := (List.range n).foldl (fun l i => addNew l (lineOf (k + i))) []

/-- A write past the caches: the clean copies of its lines everywhere are dropped, dirty sectors stay (12 R229, R230). The tag stays for
the bytes not written. -/
def Mach.pastCaches (m : Mach) (k n v : Nat) : Mach :=
  ({ m with dies := m.dies.map (Die.dropSectors · ((linesOf k n).flatMap sectorsOf)) } : Mach).homeWrite k n v

/-- A write by the host or a peer (12 R229, R230, 00 R7). -/
def Mach.outsideWrite (m : Mach) (k n v : Nat) : Mach := m.pastReadOnly k n v Mach.pastCaches

/-- Whether a read of `n` bytes by die `d` meets a poisoned sector, or a lost one of the die's open epoch, that the die has not
overwritten whole (21 R374, R375). -/
def Mach.meetsPoison (m : Mach) (d k n : Nat) : Bool :=
  let own := fun s => ((m.dies[d]?).map fun x => x.ownsAll (32 * s) 32).getD false
  (m.poisoned ++ ((m.dies[d]?).map Die.lost).getD []).any fun s => decide (k < 32 * s + 32) && decide (32 * s < k + n) && !own s

/-! ### Translation (13 R241 to R245) -/

/-- What an access does. -/
inductive Access where
  | load | store | atomic | fetch
deriving DecidableEq, Repr

/-- Whether a descriptor permits an access at a privilege (13 R245). -/
def RangeDesc.permits (r : RangeDesc) (a : Access) (super : Bool) : Bool :=
  (super || !r.sonly) &&
    match a with
    | .load => r.prd
    | .store => r.pwr
    | .atomic => r.prd && r.pwr && r.pat
    | .fetch => r.pex

/-- The home die of the stripe of an address in a context, for `d` live dies (13 R242). -/
def homeDie (d ctx va : Nat) : Nat :=
  let g1 := va / 2 ^ 30 % 2 ^ 18
  ((g1 % 64) ^^^ (g1 / 64 % 64) ^^^ (g1 / 4096) ^^^ (ctx % 64) ^^^ (ctx / 64 % 8)) % d

/-- A descriptor held by the directory cache of the home die of an address (13 R242). The cache agrees with the directory at all
times (13 R243), so it holds no copy of its own. -/
def Mach.cacheRange (m : Mach) (ctx va baseg : Nat) : Mach :=
  m.modDie (homeDie m.dies.length ctx va) fun x =>
    { x with dcache := ((ctx, baseg) :: x.dcache.filter (· ≠ (ctx, baseg))).take Config.directoryCache }

/-- A context's ranges changed, at the directory and at every home die (13 R243). -/
def Mach.setRanges (m : Mach) (ctx : Nat) (rs : List RangeDesc) : Mach :=
  let m1 := m.modCtx ctx fun c => { c with ranges := rs }
  { m1 with dies := m1.dies.map fun x => { x with dcache := x.dcache.filter fun e => e.1 ≠ ctx || rs.any fun r => r.baseg == e.2 } }

/-- The descriptor that a core finds for an address: one held in its range table, else the directory's (13 R241, R243). -/
def Mach.lookup (m : Mach) (d c ctx va : Nat) : Option RangeDesc × Mach :=
  let held := ((m.core? d c).map (·.rtab)).getD []
  match held.find? fun e => e.1 == ctx && decide (e.2.baseg ≤ va / 2 ^ 16) && decide (va / 2 ^ 16 ≤ e.2.lastg) with
  | some e => (some e.2, m)
  | none =>
    match (m.ctx? ctx).bind fun x => findRange x.ranges va with
    | some r => (some r, (m.cacheRange ctx va r.baseg).modCore d c fun x => { x with rtab := ((ctx, r) :: x.rtab).take Config.rangeTable })
    | none => (none, m)

/-- The cause of an address-generation fault of a virtual access of `n` bytes, or the descriptor found (13 R244, R245). -/
def Mach.translate (m : Mach) (d c ctx va n : Nat) (a : Access) (super : Bool) : Except Nat RangeDesc × Mach :=
  if va % n ≠ 0 then (.error 0x32, m)
  else if 2 ^ 48 ≤ va then (.error 0x30, m)
  else
    match m.lookup d c ctx va with
    | (none, m) => (.error 0x30, m)
    | (some r, m) =>
      if r.lastg < (va + n - 1) / 2 ^ 16 then (.error 0x30, m)
      else if !r.permits a super then (.error 0x34, m)
      else (.ok r, m)

/-- The physical key of an address under a context's directory, without a check of permissions. -/
def Mach.keyOf (m : Mach) (ctx va : Nat) : Option Nat :=
  match m.ctx? ctx with
  | some c => (findRange c.ranges va).map fun r => r.key va
  | none => none

/-- The home die of the loaded pipe whose slot area holds an address of a context (18 R318, R320). -/
def Mach.slotHome (m : Mach) (ctx va : Nat) : Option Nat :=
  (m.pipes.find? fun p => p.ctx == ctx && decide (p.slotva ≤ va) && decide (va < p.slotva + p.depth * 2 ^ (p.slotlg + 6))).map Pipe.home

/-- A write of `n` bytes at the home of an address of a context, as maps and quota tables are written (13 R247, R251). -/
def Mach.fwWrite (m : Mach) (ctx va n v : Nat) : Mach :=
  match m.keyOf ctx va with
  | some k => m.homeWrite k n v
  | none => m

/-- A read of `n` bytes at the home of an address of a context. -/
def Mach.fwRead (m : Mach) (ctx va n : Nat) : Option Nat :=
  (m.keyOf ctx va).map fun k => m.homeRead k n

/-! ### Firmware, an agent of the die of its command processor (18 R307, R403) -/

/-- The die of the command processor of a partition: its lowest live one. -/
def Mach.leadOf (m : Mach) (part : Nat) : Nat := (m.diesOf part).headD 0

/-- The die of the command processor that serves a context. -/
def Mach.lead (m : Mach) (ctx : Nat) : Nat :=
  match m.ctx? ctx with
  | some c => m.leadOf c.part
  | none => 0

/-- The pieces of 16 bytes or fewer of `n` bytes: (offset, length). -/
def pieces (n : Nat) : List (Nat × Nat) := (List.range ((n + 15) / 16)).map fun i => (16 * i, min 16 (n - 16 * i))

/-- What a held or refused access to the home of `k` waits for, done: the switch under way ends, the epoch that wrote the
sector is published (12 R227, 23 R389). -/
def Mach.unblock (m : Mach) (k : Nat) : Mach := (m.awaitSwitch [lineOf k]).publishLine Mach.closeEpoch k

/-- `n` bytes read at a die by an agent that waits until the read is no longer held. -/
def Mach.dieReadSure (m : Mach) (d k n : Nat) : Option (Nat × Mach) :=
  match m.dieRead d k n with
  | some r => some r
  | none => (m.unblock k).dieRead d k n

/-! ### Residency (13 R247) -/

/-- The address of the map word of a granule and the place of its two bits (13 R247). -/
def RangeDesc.mapWord (r : RangeDesc) (g : Nat) : Nat × Nat := (r.mapva + 8 * ((g - r.maporg) / 32), 2 * ((g - r.maporg) % 32))

/-- The residency state of a granule: 0 ABSENT, 1 STAGED, 2 DENIED, 3 RESIDENT. -/
def Mach.residency (m : Mach) (ctx : Nat) (r : RangeDesc) (g : Nat) : Nat :=
  if !r.isPartial then 3
  else ((m.fwRead ctx (r.mapWord g).1 8).getD 0) / 2 ^ (r.mapWord g).2 % 4

/-- A granule's state changed at the home of its map word. -/
def Mach.setResidency (m : Mach) (ctx : Nat) (r : RangeDesc) (g st : Nat) : Mach :=
  let w := (m.fwRead ctx (r.mapWord g).1 8).getD 0
  let old := w / 2 ^ (r.mapWord g).2 % 4
  m.fwWrite ctx (r.mapWord g).1 8 (w + st * 2 ^ (r.mapWord g).2 - old * 2 ^ (r.mapWord g).2)

/-! ### Loads and stores of firmware (18 R333, R403) -/

/-- Where a firmware access of a context goes: a key; `some none` for a granule DENIED under DENYF = 0, which reads 0 and is not
written; none if the address fails translation (18 R333, 13 R245, R247). -/
def Mach.fwKey (m : Mach) (ctx va : Nat) (a : Access) : Option (Option Nat) :=
  match (m.ctx? ctx).bind fun c => findRange c.ranges va with
  | none => none
  | some r =>
    if !r.permits a true ∨ m.targetLost (r.key va) then none
    else
      match m.residency ctx r (va / 2 ^ 16) with
      | 3 => some (some (r.key va))
      | 2 => if r.denyf then none else some none
      | _ => none

/-- A plain store of `n` bytes by an agent of die `d` at an address of a context; one that fails translation is dropped. -/
def Mach.fwStoreAt (m : Mach) (d ctx va n v : Nat) : Mach :=
  (pieces n).foldl (fun m p =>
    match m.fwKey ctx (va + p.1) .store with
    | some (some k) => m.dieStore d none k p.2 (v / 2 ^ (8 * p.1) % 2 ^ (8 * p.2))
    | _ => m) m

/-- A plain store of firmware at an address of a context (18 R403). -/
def Mach.fwStore (m : Mach) (ctx va n v : Nat) : Mach := m.fwStoreAt (m.lead ctx) ctx va n v

/-- A load of firmware at an address of a context; none if the address fails translation. -/
def Mach.fwLoad (m : Mach) (ctx va n : Nat) : Option (Nat × Mach) :=
  (pieces n).foldl (fun o p => o.bind fun (r : Nat × Mach) =>
    (r.2.fwKey ctx (va + p.1) .load).bind fun k =>
      match k with
      | some k => (r.2.dieReadSure (r.2.lead ctx) k p.2).map fun q => (r.1 + q.1 * 2 ^ (8 * p.1), q.2)
      | none => some r) (some (0, m))

/-- An announcement of firmware: a release of its die (18 R403). -/
def Mach.announce (m : Mach) (ctx : Nat) (sc : Scope) : Mach := m.release (m.lead ctx) sc

/-! ### Quotas and late checks (13 R247 to R252) -/

/-- LIMIT and USED of an agent tag (13 R251), read from the quota table in memory, whose USED only hardware writes (00 R7). -/
def Mach.quota (m : Mach) (ctx agent : Nat) : Nat × Nat :=
  match m.ctx? ctx with
  | some c => ((m.fwRead ctx (c.qtva + 16 * agent) 8).getD 0, (m.fwRead ctx (c.qtva + 16 * agent + 8) 8).getD 0)
  | none => (0, 0)

def Mach.setUsed (m : Mach) (ctx agent used : Nat) : Mach :=
  match m.ctx? ctx with
  | some c => m.fwWrite ctx (c.qtva + 16 * agent + 8) 8 used
  | none => m

/-- The quota step of 13 R251 for `n` granules: none on a breach. -/
def Mach.charge (m : Mach) (ctx agent n : Nat) : Option Mach :=
  let q := m.quota ctx agent
  if q.2 + 65536 * n ≤ q.1 then some (m.setUsed ctx agent (q.2 + 65536 * n)) else none

/-- USED lowered for `n` granules that leave RESIDENT (13 R251). -/
def Mach.credit (m : Mach) (ctx agent n : Nat) : Mach := m.setUsed ctx agent ((m.quota ctx agent).2 - 65536 * n)

/-- What residency and reachability say of an access (13 R247, R252; 23 R393). -/
inductive Check where
  | ok
  /-- Completes under DENYF = 0: reads 0, writes nothing. -/
  | zero
  | fault (cause gstate : Nat)
deriving DecidableEq, Repr

/-- The fault of an access whose target is lost: peer unreachable for peer memory, else host abort (21 R360, R376). -/
def lostCause (cls : Nat) : Nat := if cls = 3 then 0x43 else 0x44

/-- The late check of an access to a granule; `replay` fills a STAGED one (13 R247, R250, R252). -/
def Mach.lateCheck (m : Mach) (ctx : Nat) (r : RangeDesc) (va : Nat) (replay : Bool) : Check × Mach :=
  let g := va / 2 ^ 16
  match m.residency ctx r g with
  | 3 => (if m.targetLost (r.key va) then .fault (lostCause r.cls) 0 else .ok, m)
  | 2 => (if !r.denyf then .zero else if replay then .fault 0x35 2 else .fault 0x41 2, m)
  | 1 =>
    if !replay then (.fault 0x40 1, m)
    else
      match m.charge ctx r.agent 1 with
      | some m => (.ok, m.setResidency ctx r g 3)
      | none => (.fault 0x37 1, m)
  | _ => (.fault 0x40 0, m)

/-! ### Instruction fetch (07 R100, 09 R183, 13 R248) -/

/-- What a fetch comes to. -/
inductive Fetch where
  /-- The bytes asked for, in address order. -/
  | bytes (bs : List Byte)
  | fault (cause gstate va : Nat)
  /-- The read is held (12 R227). -/
  | held
deriving DecidableEq, Repr

/-- The instruction that the loop buffer of a core's cluster holds from a key on, with the keys of its halfwords (09 R183). -/
def Core.looped (x : Core) (q : Fin 4) (k : Nat) : List (Nat × Nat) :=
  ((x.loops.at q).find? fun i => (i.head?.map Prod.fst) == some k).getD []

/-- A halfword read from what the core holds, the halfwords `loop` of an instruction of its loop buffer or an instruction line, fetched
through the die L2 if the core does not hold it (09 R183). -/
def Mach.instrLine (m : Mach) (d c : Nat) (loop : List (Nat × Nat)) (k : Nat) : Option (Nat × Mach) :=
  match m.core? d c with
  | none => none
  | some x =>
    match loop.find? fun h => h.1 == k with
    | some h => some (h.2, m)
    | none =>
      if x.icache.holds (lineOf k) then some (Mem.read x.icache.data k 2, m)
      else
        (m.fetchLine d (lineOf k)).bind fun m => (m.dies[d]?).map fun y =>
          (y.read y.l2.data k 2, m.modCore d c fun x => { x with icache := x.icache.fill (lineOf k) (y.lineImage (lineOf k)) })

/-- One halfword fetched with its key; `replay` marks the fetch that replays a fault (13 R248). -/
def Mach.fetchHalf (m : Mach) (d c : Nat) (loop : List (Nat × Nat)) (ctx va : Nat) (super replay : Bool) : Except Fetch (Nat × Nat) × Mach :=
  match m.translate d c ctx va 2 .fetch super with
  | (.error e, m) => (.error (.fault e 0 va), m)
  | (.ok r, m) =>
    let go (m : Mach) : Except Fetch (Nat × Nat) × Mach :=
      if m.meetsPoison d (r.key va) 2 then (.error (.fault 0x42 0 va), m)
      else
        match m.instrLine d c loop (r.key va) with
        | some (v, m) => (.ok (r.key va, v), m)
        | none => (.error .held, m)
    match m.residency ctx r (va / 2 ^ 16) with
    | 3 => if m.targetLost (r.key va) then (.error (.fault (lostCause r.cls) 0 va), m) else go m
    | 2 => (.error (.fault (if replay then 0x35 else 0x41) 2 va), m)
    | 1 =>
      if !replay then (.error (.fault 0x40 1 va), m)
      else
        match m.charge ctx r.agent 1 with
        | some m => go (m.setResidency ctx r (va / 2 ^ 16) 3)
        | none => (.error (.fault 0x37 1 va), m)
    | _ => (.error (.fault 0x40 0 va), m)

/-- `n` halfwords from `va`. -/
def Mach.fetchHalves (m : Mach) (d c : Nat) (loop : List (Nat × Nat)) (ctx va : Nat) (super replay : Bool) :
    Nat → Except Fetch (List (Nat × Nat)) × Mach
  | 0 => (.ok [], m)
  | n + 1 =>
    match m.fetchHalf d c loop ctx va super replay with
    | (.error e, m) => (.error e, m)
    | (.ok h, m) =>
      match Mach.fetchHalves m d c loop ctx (va + 2) super replay n with
      | (.ok hs, m) => (.ok (h :: hs), m)
      | (.error e, m) => (.error e, m)

/-- The bytes of some halfwords. -/
def halfBytes (hs : List (Nat × Nat)) : List Byte := hs.flatMap fun h => bytesOf 2 h.2

/-- The halfwords of the instruction at `va`: the first, the second of a 32-bit instruction, the case words of a SWITCH
(07 R100, R109). -/
def Mach.fetchWhole (m : Mach) (d c : Nat) (loop : List (Nat × Nat)) (ctx va : Nat) (super replay : Bool) :
    Except Fetch (List (Nat × Nat)) × Mach :=
  match m.fetchHalf d c loop ctx va super replay with
  | (.error e, m) => (.error e, m)
  | (.ok h, m) =>
    if h.2 % 2 = 0 then (.ok [h], m)
    else
      match m.fetchHalf d c loop ctx (va + 2) super replay with
      | (.error e, m) => (.error e, m)
      | (.ok h2, m) =>
        match m.fetchHalves d c loop ctx (va + 4) super replay ((lengthOf (halfBytes [h, h2]) - 4) / 2) with
        | (.ok hs, m) => (.ok (h :: h2 :: hs), m)
        | (.error e, m) => (.error e, m)

/-- Lines that a core and its die hold clean given up, to be fetched together. -/
def Mach.giveUpLines (m : Mach) (d c : Nat) (lines : List Nat) : Mach :=
  (m.modDie d fun x => { x with l2 := lines.foldl Copies.drop x.l2, stale := x.stale.filter fun l => !lines.contains l }).modCore d c fun x =>
    { x with icache := lines.foldl Copies.drop x.icache }

/-- The halfwords of the instruction at `va` that its loop buffer holds; none if it holds none (01 R15). -/
def Mach.loopAt (m : Mach) (d c : Nat) (q : Fin 4) (ctx va : Nat) (super : Bool) : List (Nat × Nat) :=
  match m.translate d c ctx va 2 .fetch super with
  | (.ok r, _) => ((m.core? d c).map (Core.looped · q (r.key va))).getD []
  | (.error _, _) => []

/-- The instruction at `va`: one whole, as the loop buffer holds it or as one line holds it. One that lies in two lines, which may have
been fetched at different times, is fetched anew with both (09 R183). -/
def Mach.fetchInstr (m : Mach) (d c : Nat) (q : Fin 4) (ctx va : Nat) (super replay : Bool) : Except Fetch (List (Nat × Nat)) × Mach :=
  let loop := m.loopAt d c q ctx va super
  match m.fetchWhole d c loop ctx va super replay with
  | (.ok hs, m) =>
    let lines := (hs.map fun h => lineOf h.1).eraseDups
    if hs = loop ∨ (loop = [] ∧ lines.length ≤ 1) then (.ok hs, m)
    else (m.giveUpLines d c lines).fetchWhole d c [] ctx va super replay
  | r => r

/-- An instruction fetched: it enters the loop buffer of its cluster (01 R15, 09 R183). -/
def Mach.fetch (m : Mach) (d c : Nat) (q : Fin 4) (ctx va : Nat) (super replay : Bool) : Fetch × Mach :=
  match m.fetchInstr d c q ctx va super replay with
  | (.error e, m) => (e, m)
  | (.ok hs, m) =>
    (.bytes (halfBytes hs), m.modCore d c fun x =>
      { x with loops := x.loops.put q ((hs :: (x.loops.at q).filter (· ≠ hs)).take Config.loopBuffer) })

end Sys2Proof.Machine
end

