-- ==== Sys2Proof/Machine/Operands.lean ====
section
/-! DEFINITION. What each instruction reads and writes, the values of its operands and the write-back of its result
(spec 07 R112 to R119, 10 R185). -/

namespace Sys2Proof.Machine

/-! ### Uses -/

/-- What an instruction reads and writes: sources read lane by lane, sources read as one value, sources read across lanes,
vector registers read and written (with how many registers follow the name), scalar registers written; whether it is
chain-ending (07 R116), a memory instruction (21 R362), of privilege S (07 R120), without the grant it needs (23 R385), barred from a melded region (03 R55). -/
structure Uses where
  lanes : List Src := []
  ones : List Src := []
  cross : List Src := []
  rd : List (Fin 64 × Nat) := []
  wr : List (Fin 64 × Nat) := []
  sw : List (Fin 32) := []
  ending : Bool := false
  mem : Bool := false
  super : Bool := false
  denied : Bool := false
  barred : Bool := false
deriving DecidableEq, Repr

/-- The next scalar register. -/
def nextS (n : Fin 32) : Fin 32 := ⟨(n.val + 1) % 32, by omega⟩
def nextV (n : Fin 64) (i : Nat) : Fin 64 := ⟨(n.val + i) % 64, by omega⟩

/-- A scalar pair (07 R99). -/
def pairS (n : Fin 32) : List (Fin 32) := [n, nextS n]

/-- The eight registers that RPROBE writes (14 R286). -/
def octS (n : Fin 32) : List (Fin 32) := (List.range 8).map fun i => ⟨(n.val + i) % 32, by omega⟩

/-- The sources of a 64-bit operand. -/
def pairOf : Src → List Src
  | .s n => [.s n, .s (nextS n)]
  | x => [x]

/-- The registers that a base of 14 R258 reads. -/
def baseOnes : Src → List Src
  | .s n => [.s n, .s (nextS n)]
  | _ => []
def baseRegs : Src → List (Fin 64 × Nat)
  | .v n => [(n, 2)]
  | _ => []

/-- How many registers the data of a size code fill (14 R261). -/
def wide (z : Nat) : Nat := if z = 3 then 2 else 1

/-- `n` registers from `d`, each a name of its own (14 R268, 16 R296); one past v63 is above any V. -/
def runV (d : Fin 64) (n : Nat) : List (Fin 64 × Nat) :=
  (List.range n).map fun i => if h : d.val + i < 64 then (⟨d.val + i, h⟩, 1) else (d, 65)

/-- The registers of a run named by a source. -/
def runSrc (a : Src) (n : Nat) : List (Fin 64 × Nat) :=
  match a with
  | .v d => runV d n
  | _ => []

/-- The coordinate registers of a tensor access (14 R268). -/
def coords (cb : Fin 64) (rk : Fin 7) : List (Fin 64 × Nat) := runV cb (rk.val + 1)

/-- The operand of an atomic: a 64-bit one is a pair or an inline constant (14 R271). -/
def atomLanes (b : Src) (x : Bool) : List Src := if x then [] else [b]
def atomOnes (b : Src) (x : Bool) : List Src := if x then baseOnes b else []
def atomRegs (d : Fin 64) (b : Src) (x : Bool) (o : AtomOp) : List (Fin 64 × Nat) :=
  (if x then baseRegs b else []) ++ (if o = .cas then [(d, if x then 2 else 1)] else [])

/-- Whether a special register needs privilege S (09 R182). -/
def sysSuper (n : Nat) : Bool := decide (24 ≤ n ∧ n ≤ 28) || decide (64 ≤ n ∧ n < 80)

/-- The second source of a 16-bit form (07 R101). -/
def shortSrc (s : Fin 32) : Src := if h : s.val < 28 then .v ⟨s.val, by omega⟩ else .b ⟨s.val - 28, by omega⟩

end Sys2Proof.Machine

namespace Sys2Proof

/-- The register a destination writes, if any (07 R114). -/
def Dst.writes (d : Dst) : List (Fin 64 × Nat) := if d.w then [] else [(d.n, 1)]
def SDst.writes (d : SDst) : List (Fin 32) := if d.w then [] else [d.n]
def SysDst.vwrites : SysDst → List (Fin 64 × Nat)
  | .vec d => d.writes
  | .scal _ => []
def SysDst.swrites : SysDst → List (Fin 32)
  | .vec _ => []
  | .scal d => d.writes

open Machine in
/-- What each instruction reads and writes. MMA and MMAS add their fragments when their format word is known. -/
def Instr.uses : Instr → Uses
  | .vadd d a b => { lanes := [a, b], wr := d.writes }
  | .vsub d a b => { lanes := [a, b], wr := d.writes }
  | .vmul d a b => { lanes := [a, b], wr := d.writes }
  | .vmulh d a b => { lanes := [a, b], wr := d.writes }
  | .vmulhU d a b => { lanes := [a, b], wr := d.writes }
  | .vmad d a b => { lanes := [a, b], rd := [(d.n, 1)], wr := d.writes }
  | .vand d a b => { lanes := [a, b], wr := d.writes }
  | .vor d a b => { lanes := [a, b], wr := d.writes }
  | .vxor d a b => { lanes := [a, b], wr := d.writes }
  | .vshl d a b => { lanes := [a, b], wr := d.writes }
  | .vsrl d a b => { lanes := [a, b], wr := d.writes }
  | .vsra d a b => { lanes := [a, b], wr := d.writes }
  | .vmin d a b => { lanes := [a, b], wr := d.writes }
  | .vminU d a b => { lanes := [a, b], wr := d.writes }
  | .vmax d a b => { lanes := [a, b], wr := d.writes }
  | .vmaxU d a b => { lanes := [a, b], wr := d.writes }
  | .vsel d a b => { lanes := [a, b], wr := d.writes }
  | .vsat d a b => { lanes := [a, b], wr := d.writes }
  | .vfmin d a b => { lanes := [a, b], wr := d.writes }
  | .vfmax d a b => { lanes := [a, b], wr := d.writes }
  | .vpackI16 d a b => { lanes := [a, b], wr := d.writes }
  | .vbcast d a b => { ones := [b], cross := [a], wr := d.writes }
  | .vaddImm d a _ => { lanes := [a], wr := d.writes }
  | .vmulImm d a _ => { lanes := [a], wr := d.writes }
  | .vandImm d a _ => { lanes := [a], wr := d.writes }
  | .vorImm d a _ => { lanes := [a], wr := d.writes }
  | .vxorImm d a _ => { lanes := [a], wr := d.writes }
  | .vshlImm d a _ => { lanes := [a], wr := d.writes }
  | .vsrlImm d a _ => { lanes := [a], wr := d.writes }
  | .vsraImm d a _ => { lanes := [a], wr := d.writes }
  | .vminImm d a _ => { lanes := [a], wr := d.writes }
  | .vminUImm d a _ => { lanes := [a], wr := d.writes }
  | .vmaxImm d a _ => { lanes := [a], wr := d.writes }
  | .vmaxUImm d a _ => { lanes := [a], wr := d.writes }
  | .vsatImm d a _ => { lanes := [a], wr := d.writes }
  | .vqnt d a _ => { lanes := [a], wr := d.writes }
  | .vdqnt d a _ => { lanes := [a], wr := d.writes }
  | .vbcastImm d a _ => { cross := [a], wr := d.writes }
  | .vabs d a => { lanes := [a], wr := d.writes }
  | .vclz d a => { lanes := [a], wr := d.writes }
  | .vpopc d a => { lanes := [a], wr := d.writes }
  | .vbrev d a => { lanes := [a], wr := d.writes }
  | .vfabs d a => { lanes := [a], wr := d.writes }
  | .vfneg d a => { lanes := [a], wr := d.writes }
  | .vfrcp d a => { lanes := [a], wr := d.writes }
  | .vfrsq d a => { lanes := [a], wr := d.writes }
  | .vfexp2 d a => { lanes := [a], wr := d.writes }
  | .vflog2 d a => { lanes := [a], wr := d.writes }
  | .vfsin d a => { lanes := [a], wr := d.writes }
  | .vfcos d a => { lanes := [a], wr := d.writes }
  | .vftanh d a => { lanes := [a], wr := d.writes }
  | .vcvtF32F16 d a => { lanes := [a], wr := d.writes }
  | .vcvtF32Bf16 d a => { lanes := [a], wr := d.writes }
  | .vmov d a => { lanes := [a], wr := d.writes }
  | .vmovk d _ => { wr := d.writes }
  | .vcmp _ a b => { lanes := [a, b] }
  | .scmp _ a b => { ones := [a, b] }
  | .vcmpImm _ a _ => { lanes := [a] }
  | .scmpImm _ a _ => { ones := [a] }
  | .vfcmp _ a b => { lanes := [a, b] }
  | .vfadd d a b _ => { lanes := [a, b], wr := d.writes }
  | .vfsub d a b _ => { lanes := [a, b], wr := d.writes }
  | .vfmul d a b _ => { lanes := [a, b], wr := d.writes }
  | .vpackH2 d a b _ => { lanes := [a, b], wr := d.writes }
  | .vpackB2 d a b _ => { lanes := [a, b], wr := d.writes }
  | .vcvtF32I32 d a _ => { lanes := [a], wr := d.writes }
  | .vcvtI32F32 d a _ => { lanes := [a], wr := d.writes }
  | .vcvtF16F32 d a _ => { lanes := [a], wr := d.writes }
  | .vcvtBf16F32 d a _ => { lanes := [a], wr := d.writes }
  | .vfmaF32 d a b _ _ _ => { lanes := [a, b], rd := [(d.n, 1)], wr := d.writes }
  | .vfmaH2 d a b _ _ _ => { lanes := [a, b], rd := [(d.n, 1)], wr := d.writes }
  | .vfmaB2 d a b _ _ _ => { lanes := [a, b], rd := [(d.n, 1)], wr := d.writes }
  | .vunpk d a b _ => { lanes := [a, b], wr := d.writes }
  | .vvote d a b _ => { ones := [b], cross := [a], wr := d.writes }
  | .vshfl d a b _ => { lanes := [b], cross := [a], wr := d.writes }
  | .vshflImm d a _ _ => { cross := [a], wr := d.writes }
  | .vred d a _ => { lanes := [a], wr := d.writes }
  | .vscan d a _ => { lanes := [a], wr := d.writes }
  | .setpart b => { ones := [b] }
  | .setpartImm _ => { }
  | .vmovs d a b => { ones := [b], cross := [a], sw := d.writes }
  | .sadd d a b => { ones := [a, b], sw := d.writes }
  | .ssub d a b => { ones := [a, b], sw := d.writes }
  | .smul d a b => { ones := [a, b], sw := d.writes }
  | .smulh d a b => { ones := [a, b], sw := d.writes }
  | .smulhU d a b => { ones := [a, b], sw := d.writes }
  | .sdiv d a b => { ones := [a, b], sw := d.writes }
  | .sdivU d a b => { ones := [a, b], sw := d.writes }
  | .srem d a b => { ones := [a, b], sw := d.writes }
  | .sremU d a b => { ones := [a, b], sw := d.writes }
  | .sand d a b => { ones := [a, b], sw := d.writes }
  | .sor d a b => { ones := [a, b], sw := d.writes }
  | .sxor d a b => { ones := [a, b], sw := d.writes }
  | .sshl d a b => { ones := [a, b], sw := d.writes }
  | .ssrl d a b => { ones := [a, b], sw := d.writes }
  | .ssra d a b => { ones := [a, b], sw := d.writes }
  | .smin d a b => { ones := [a, b], sw := d.writes }
  | .sminU d a b => { ones := [a, b], sw := d.writes }
  | .smax d a b => { ones := [a, b], sw := d.writes }
  | .smaxU d a b => { ones := [a, b], sw := d.writes }
  | .ssel d a b => { ones := [a, b], sw := d.writes }
  | .saddImm d a _ => { ones := [a], sw := d.writes }
  | .smulImm d a _ => { ones := [a], sw := d.writes }
  | .sandImm d a _ => { ones := [a], sw := d.writes }
  | .sorImm d a _ => { ones := [a], sw := d.writes }
  | .sxorImm d a _ => { ones := [a], sw := d.writes }
  | .sshlImm d a _ => { ones := [a], sw := d.writes }
  | .ssrlImm d a _ => { ones := [a], sw := d.writes }
  | .ssraImm d a _ => { ones := [a], sw := d.writes }
  | .smov d a => { ones := [a], sw := d.writes }
  | .mtr d a => { ones := [a], sw := d.writes }
  | .sli d _ => { sw := d.writes }
  | .saddD d a b => { ones := pairOf a ++ pairOf b, sw := (pairS d) }
  | .lds d a b z => { ones := [a, b], sw := (if z then pairS d else [d]), ending := true, mem := true }
  | .sts d a b z => { ones := [a, b] ++ (if z then pairS d else [d]).map Src.s, ending := true, mem := true }
  | .saddDImm d a _ => { ones := pairOf a, sw := (pairS d) }
  | .bra _ => { ending := true }
  | .brc _ => { ending := true, barred := true }
  | .brcN _ => { ending := true, barred := true }
  | .jmp x => { ones := pairOf (.s x), ending := true, barred := true }
  | .ret x => { ones := pairOf (.s x), ending := true, barred := true }
  | .lbrk _ => { ending := true, barred := true }
  | .call _ x => { sw := (pairS x), ending := true, barred := true }
  | .loop _ x _ => { ones := [(.s x)], ending := true, barred := true }
  | .regangW => { ending := true, barred := true }
  | .regangN => { ending := true, barred := true }
  | .exit => { ending := true, barred := true }
  | .nop => { ending := true }
  | .yield => { ending := true, barred := true }
  | .melde => { }
  | .dbar => { ending := true, mem := true }
  | .gbar => { ending := true, mem := true }
  | .bkpt => { ending := true }
  | .ilbf => { ending := true }
  | .msave d _ => { sw := d.writes }
  | .mpop d _ => { sw := d.writes }
  | .mfirst d _ => { sw := d.writes }
  | .mrest _ a => { ones := [a] }
  | .mand _ a => { ones := [a] }
  | .mor _ a => { ones := [a] }
  | .mandn _ a => { ones := [a] }
  | .mxor _ a => { ones := [a] }
  | .mset _ a => { lanes := [a] }
  | .meld _ a b => { ones := [a, b], barred := true }
  | .mtw _ _ => { }
  | .kset _ b => { ones := [b] }
  | .ksetImm _ _ => { }
  | .ld d a b z => { lanes := [b], ones := baseOnes a, rd := baseRegs a, wr := [(d, wide z.val)], ending := true, mem := true }
  | .st d a b z => { lanes := [b], ones := baseOnes a, rd := [(d, wide z.val)] ++ baseRegs a, ending := true, mem := true }
  | .spld d a b z => { lanes := [a, b], wr := [(d, wide z.val)], ending := true, mem := true }
  | .spst d a b z => { lanes := [a, b], rd := [(d, wide z.val)], ending := true, mem := true }
  | .ldSigned d a b z => { lanes := [b], ones := baseOnes a, rd := baseRegs a, wr := [(d, wide z.val)], ending := true, mem := true }
  | .spldSigned d a b z => { lanes := [a, b], wr := [(d, wide z.val)], ending := true, mem := true }
  | .tld _ rk cb d z => { rd := coords cb rk, wr := [(d, wide z.val)], ending := true, mem := true }
  | .tst _ rk cb d z => { rd := coords cb rk ++ [(d, wide z.val)], ending := true, mem := true }
  | .pref a b => { lanes := [b], ones := baseOnes a, rd := baseRegs a, ending := true, mem := true }
  | .bar a b => { ones := [a, b], ending := true, mem := true }
  | .bara a b => { ones := [a, b], ending := true, mem := true }
  | .ersetBind a b => { ones := pairOf a ++ [b], ending := true, mem := true }
  | .ersetPush a b => { ones := [a, b], ending := true, mem := true }
  | .ersetPop a b => { ones := [a, b], ending := true, mem := true }
  | .ersetWaitf a b => { ones := [a, b], ending := true, mem := true }
  | .ersetWaite a b => { ones := [a, b], ending := true, mem := true }
  | .pcmt a b => { ones := [a] ++ pairOf b, ending := true, mem := true }
  | .prel a b => { ones := [a] ++ pairOf b, ending := true, mem := true }
  | .pmsg a b => { ones := [a] ++ pairOf b, ending := true, mem := true }
  | .gcond a b => { ones := [a, b], ending := true, mem := true }
  | .csig a b => { ones := pairOf a ++ pairOf b, ending := true, mem := true }
  | .msclB a b => { ones := pairOf a ++ pairOf b, ending := true, mem := true }
  | .msclP a b => { ones := [a, b], ending := true }
  | .shpld _ a => { ones := pairOf a, ending := true, mem := true }
  | .shpinv _ => { ending := true, mem := true }
  | .atomDie d a b x o => { lanes := atomLanes b x, ones := baseOnes a ++ atomOnes b x, rd := baseRegs a ++ atomRegs d b x o, wr := [(d, if x then 2 else 1)], ending := true, mem := true }
  | .atomPkg d a b x o => { lanes := atomLanes b x, ones := baseOnes a ++ atomOnes b x, rd := baseRegs a ++ atomRegs d b x o, wr := [(d, if x then 2 else 1)], ending := true, mem := true }
  | .atomSys d a b x o => { lanes := atomLanes b x, ones := baseOnes a ++ atomOnes b x, rd := baseRegs a ++ atomRegs d b x o, wr := [(d, if x then 2 else 1)], ending := true, mem := true }
  | .atoms d a b x o => { lanes := [a] ++ atomLanes b x, ones := atomOnes b x, rd := atomRegs d b x o, wr := [(d, if x then 2 else 1)], ending := true, mem := true }
  | .fence _ => { ending := true, mem := true }
  | .rel _ => { ending := true, mem := true }
  | .acq _ => { ending := true, mem := true }
  | .lda32 d a _ => { ones := baseOnes a, rd := baseRegs a, wr := [(d, 1)], ending := true, mem := true }
  | .lda64 d a _ => { ones := baseOnes a, rd := baseRegs a, wr := [(d, 2)], ending := true, mem := true }
  | .stl32 d a _ => { ones := baseOnes a, rd := [(d, 1)] ++ baseRegs a, ending := true, mem := true }
  | .stl64 d a _ => { ones := baseOnes a, rd := [(d, 2)] ++ baseRegs a, ending := true, mem := true }
  | .waitp _ a => { ones := [a], ending := true, mem := true }
  | .cntr d => { sw := [d], ending := true, mem := true }
  | .barw a => { ones := [a], ending := true, mem := true }
  | .ersetFree a => { ones := [a], ending := true, mem := true }
  | .ecopy a => { ones := pairOf a, ending := true, mem := true }
  | .egath a => { ones := pairOf a, ending := true, mem := true }
  | .escat a => { ones := pairOf a, ending := true, mem := true }
  | .ered a => { ones := pairOf a, ending := true, mem := true }
  | .ebcast a => { ones := pairOf a, ending := true, mem := true }
  | .trap a => { ones := [a], ending := true }
  | .cwait d a b => { ones := pairOf a ++ pairOf b, sw := (pairS d), ending := true, mem := true }
  | .precv d a b => { ones := [a] ++ pairOf b, sw := [d], ending := true, mem := true }
  | .klaunch d a b => { ones := pairOf a ++ [b], sw := [d], ending := true, mem := true }
  | .glaunch d a b => { ones := pairOf a ++ [b], sw := [d], ending := true, mem := true }
  | .rprot d a b => { ones := pairOf a ++ [b], sw := [d], ending := true, mem := true, super := true }
  | .rres d a b => { ones := pairOf a ++ [b], sw := [d], ending := true, mem := true, super := true }
  | .mma _ _ vf _ _ => { rd := [(vf, 1)], ending := true }
  | .mmas _ _ vf _ _ => { rd := [(vf, 1)], ending := true }
  | .mzero d => { wr := runV d 8, ending := true }
  | .mcvtH2 d a _ => { rd := runSrc a 8, wr := runV d 4, ending := true }
  | .mcvtB2 d a _ => { rd := runSrc a 8, wr := runV d 4, ending := true }
  | .mcvtF32 d a _ => { rd := runSrc a 8, wr := runV d 8, ending := true }
  | .mcvtI32 d a _ => { rd := runSrc a 8, wr := runV d 8, ending := true }
  | .prsv d a => { ones := [a], sw := (pairS d), ending := true, mem := true }
  | .pacq d a => { ones := [a], sw := (pairS d), ending := true, mem := true }
  | .ptryR d a => { ones := [a], sw := (pairS d), ending := true, mem := true }
  | .ptryA d a => { ones := [a], sw := (pairS d), ending := true, mem := true }
  | .pstat d a => { ones := [a], sw := [d], ending := true, mem := true }
  | .rsplit d a => { ones := pairOf a, sw := [d], ending := true, mem := true, super := true }
  | .rmerge d a => { ones := pairOf a, sw := [d], ending := true, mem := true, super := true }
  | .rprobe d a => { ones := pairOf a, sw := (octS d), ending := true, mem := true }
  | .rpress d a => { ones := pairOf a, sw := [d], ending := true, mem := true, super := true }
  | .rinval _ a b => { ones := pairOf a ++ [b], ending := true, mem := true, super := true }
  | .cwb _ a b => { ones := pairOf a ++ [b], ending := true, mem := true }
  | .cinv _ a b => { ones := pairOf a ++ [b], ending := true, mem := true }
  | .sysr n d => { wr := d.vwrites, sw := d.swrites, ending := true, super := sysSuper n.val }
  | .sysw n b => { ones := [b], ending := true, super := sysSuper n.val }
  | .syswImm n _ => { ending := true, super := sysSuper n.val }
  | .limm _ => { }
  | .vaddShort d s => { lanes := [shortSrc s], rd := [(d, 1)], wr := [(d, 1)] }
  | .vsubShort d s => { lanes := [shortSrc s], rd := [(d, 1)], wr := [(d, 1)] }
  | .vandShort d s => { lanes := [shortSrc s], rd := [(d, 1)], wr := [(d, 1)] }
  | .vorShort d s => { lanes := [shortSrc s], rd := [(d, 1)], wr := [(d, 1)] }
  | .vxorShort d s => { lanes := [shortSrc s], rd := [(d, 1)], wr := [(d, 1)] }
  | .vshlShort d s => { lanes := [shortSrc s], rd := [(d, 1)], wr := [(d, 1)] }
  | .vsrlShort d s => { lanes := [shortSrc s], rd := [(d, 1)], wr := [(d, 1)] }
  | .vsraShort d s => { lanes := [shortSrc s], rd := [(d, 1)], wr := [(d, 1)] }
  | .vminShort d s => { lanes := [shortSrc s], rd := [(d, 1)], wr := [(d, 1)] }
  | .vmaxShort d s => { lanes := [shortSrc s], rd := [(d, 1)], wr := [(d, 1)] }
  | .vfaddShort d s => { lanes := [shortSrc s], rd := [(d, 1)], wr := [(d, 1)] }
  | .vfsubShort d s => { lanes := [shortSrc s], rd := [(d, 1)], wr := [(d, 1)] }
  | .vfmulShort d s => { lanes := [shortSrc s], rd := [(d, 1)], wr := [(d, 1)] }
  | .vmovShort d s => { lanes := [shortSrc s], wr := [(d, 1)] }
  | .vneg d s => { lanes := [shortSrc s], wr := [(d, 1)] }
  | .vaddi d _ => { rd := [(d, 1)], wr := [(d, 1)] }
  | .switch d _ => { rd := [(d, 1)], ending := true, barred := true }
  | .waiterRelease _ _ => { }
  | .mmaWriteback _ _ => { }
  | .scaleLineFill _ _ _ _ => { }
  | .matrixUnitRestore _ _ _ => { }
  | .matrixUnitRetention _ _ _ => { }
  | .engineFire _ => { }
  | .engineComplete _ => { }
  | .engineFault _ _ => { }
  | .pressLineMove _ => { }
  | .pressSwitch _ => { }
  | .illegalInstruction _ _ => { }
  | .handlerLaunch _ _ => { }
  | .tresumeResume _ _ => { }
  | .tresumeResumeWithout _ _ => { }
  | .tresumeStop _ _ => { }
  | .apply _ _ => { }
  | .requestResend => { }
  | .registerWrite _ _ => { }
  | .doorbell _ _ => { }
  | .deviceQueueRead _ _ => { }
  | .dispatch _ => { }
  | .teamPlacement _ _ _ => { }
  | .teamStart _ => { }
  | .teamRestore _ _ _ => { }
  | .packetComplete _ _ => { }
  | .kernelLaunch _ _ => { }
  | .planStart _ _ _ => { }
  | .graphLaunch _ _ => { }
  | .queueCreate _ _ => { }
  | .contextCreate _ _ _ _ _ => { }
  | .contextDestroy _ _ => { }
  | .rangeMap _ _ => { }
  | .rangeUnmap _ _ => { }
  | .quotaSet _ _ => { }
  | .planLoad _ _ _ => { }
  | .planStop _ _ => { }
  | .planRestart _ _ _ => { }
  | .graphLoad _ _ => { }
  | .signal _ _ => { }
  | .wait _ _ => { }
  | .waitRelease _ _ => { }
  | .preempt _ _ => { }
  | .preemptResume _ _ => { }
  | .preemptMove _ _ => { }
  | .linkReconf _ _ => { }
  | .drainMarkerAck _ => { }
  | .portRelock _ _ _ _ => { }
  | .dieReset _ _ => { }
  | .attest _ _ => { }
  | .domainSet _ _ => { }
  | .epochTimeout _ => { }
  | .dirtyTableFull _ => { }
  | .accessReturn _ _ => { }
  | .lateFault _ _ => { }
  | .forcedSave _ _ => { }
  | .timeSliceExpiry _ => { }
  | .aging _ _ => { }
  | .balancerPeriod _ _ => { }
  | .kernelNode _ _ => { }
  | .planNode _ _ => { }
  | .signalNode _ _ => { }
  | .conditionalNode _ _ => { }
  | .whileNode _ _ => { }
  | .graphEnqueueArrive _ _ => { }
  | .contextStop _ _ => { }
  | .stopReport _ => { }
  | .debuggerHalt _ => { }
  | .debuggerResume _ => { }
  | .hostWrite _ _ => { }
  | .hostRead _ _ => { }
  | .hostAtomicop _ _ _ _ _ => { }
  | .peerWrite _ _ => { }
  | .peerRead _ _ => { }
  | .peerAtomic _ _ _ _ _ => { }
  | .ethernetRx _ _ _ => { }
  | .ethernetTx _ => { }
  | .lambdaRenew _ _ => { }
  | .flitReplay _ => { }
  | .linkFail _ => { }
  | .hostLeasePass => { }
  | .eccCorrected _ _ => { }
  | .registerPoison _ _ _ _ => { }
  | .uncorrectableStateError _ => { }
  | .sectorLoss _ _ => { }
  | .thermalThrottle _ _ => { }
  | .thermalShutdown _ _ => { }
  | .powerLimit _ => { }
  | .deviceReset _ => { }
  | .debuggerAttach _ _ => { }
  | .portLock _ _ _ => { }
  | .remotePipeRequest _ _ _ _ => { }

def Src.isLatch : Src → Bool
  | .b _ => true
  | _ => false

def Src.isK : Src → Bool
  | .k _ => true
  | _ => false

end Sys2Proof

namespace Sys2Proof.Machine

/-- Every source field of an instruction. -/
def Uses.all (u : Uses) : List Src := u.lanes ++ u.ones ++ u.cross

/-- Whether an instruction reads a bypass latch (07 R115). -/
def Uses.readsLatch (u : Uses) : Bool := u.all.any Src.isLatch

/-- The vector registers that an instruction names, each with its width. -/
def Uses.names (u : Uses) : List (Fin 64 × Nat) :=
  (u.all.filterMap fun x => match x with | .v n => some (n, 1) | _ => none) ++ u.rd ++ u.wr

/-! ### Values -/

/-- The integer of an inline constant (07 R112). -/
def inline (n : Fin 16) : Int := (n.val : Int) - 8

/-- The value of a source field for a lane (07 R112). -/
def Warp.src (x : Warp) (a : Src) (l : Fin 32) : Word :=
  match a with
  | .v n => (x.v.at (x.name n l)).at l
  | .s n => x.s.at n
  | .b n => match x.b.at n with
    | some y => y.val.at l
    | none => 0
  | .k n => match x.pathOf l with
    | some p => (x.k.at p).at n
    | none => 0
  | .c n => BitVec.ofInt 32 (inline n)

/-- A source read as F32: an inline constant is the F32 value of its integer (07 R112). -/
def Warp.srcF32 (x : Warp) (a : Src) (l : Fin 32) : Word :=
  match a with
  | .c n => BitVec.ofNat 32 (fofInt F32 .rne (inline n)).1
  | _ => x.src a l

/-- A source read in a 16-bit format: an inline constant supplies its value in both halves (07 R112, 10 R199). -/
def Warp.srcHalves (x : Warp) (f : FFmt) (a : Src) (l : Fin 32) : Word :=
  match a with
  | .c n => let h := (fofInt f .rne (inline n)).1; BitVec.ofNat 32 (h + 65536 * h)
  | _ => x.src a l

/-- A source read as one value (09 R157). -/
def Warp.one (x : Warp) (a : Src) : Word := x.src a 0

/-- A 64-bit scalar operand (07 R99); an inline constant is sign-extended (09 R160). -/
def Warp.pair (x : Warp) (a : Src) : Nat :=
  match a with
  | .s n => (x.s.at n).toNat + 2 ^ 32 * (x.s.at (nextS n)).toNat
  | .c n => (BitVec.ofInt 64 (inline n)).toNat
  | _ => 0

/-- A vector register of a lane and those that follow its name, 32 bits each, lowest first (14 R261). -/
def Warp.regs (x : Warp) (n : Fin 64) (l : Fin 32) : Nat → Nat
  | 0 => 0
  | k + 1 => Warp.regs x n l k + 2 ^ (32 * k) * ((x.v.at (nextV (x.name n l) k)).at l).toNat

/-- A 64-bit operand of a lane. -/
def Warp.widePair (x : Warp) (a : Src) (l : Fin 32) : Nat :=
  match a with
  | .v n => x.regs n l 2
  | _ => x.pair a

/-- The immediate: seven bits sign-extended, or the 32-bit value that a LIMM completes (07 R105, R111). -/
def Mach.imm (m : Mach) (i : Fin 128) : Word :=
  match m.unit with
  | some u => BitVec.ofNat 32 (u.p * 128 + i.val)
  | none => BitVec.ofInt 32 (sextNat i.val 7)

/-! ### Write-back (07 R114) -/

/-- Writes `val` to the register named `n` in the lanes of `on`; a write clears a poison mark (21 R373). -/
def Warp.setV (x : Warp) (on : Fin 32 → Bool) (n : Fin 64) (val : Fin 32 → Word) : Warp :=
  { x with
    v := tab fun r => tab fun l => if on l && decide (x.name n l = r) then val l else (x.v.at r).at l
    poison := x.poison.filter fun p => !(on p.2 && decide (x.name n p.2 = p.1)) }

/-- Writes a register by its number in one lane. -/
def Warp.setReg (x : Warp) (r : Fin 64) (l : Fin 32) (val : Word) : Warp :=
  { x with v := x.v.put r ((x.v.at r).put l val), poison := x.poison.filter (· ≠ (r, l)) }

def Warp.setS (x : Warp) (n : Fin 32) (val : Word) : Warp := { x with s := x.s.put n val }

/-- Writes a scalar pair (07 R99). -/
def Warp.setPair (x : Warp) (n : Fin 32) (val : Nat) : Warp :=
  (x.setS n (BitVec.ofNat 32 val)).setS (nextS n) (BitVec.ofNat 32 (val / 2 ^ 32))

/-- A result enters b0 and the older ones move up (07 R114). -/
def Warp.push (x : Warp) (scalar : Bool) (val : Fin 32 → Word) : Warp :=
  { x with b := tab fun i =>
      if i = 0 then some { scalar := scalar, val := tab val }
      else x.b.at ⟨i.val - 1, by omega⟩ }

/-- A vector result retired (07 R114): 0 in the latch of inactive lanes, no register written with W = 1. -/
def Warp.writeVec (x : Warp) (on : Fin 32 → Bool) (d : Dst) (r : Fin 32 → Word) : Warp :=
  let y := x.push false fun l => if on l then r l else 0
  if d.w then y else y.setV on d.n r

/-- A scalar result retired (07 R114). -/
def Warp.writeScal (x : Warp) (d : SDst) (r : Word) : Warp :=
  let y := x.push true fun _ => r
  if d.w then y else y.setS d.n r

/-- Issue of an instruction that reads no latch empties them (07 R115). -/
def Warp.begin (x : Warp) (u : Uses) : Warp := if u.readsLatch then x else x.noLatch

end Sys2Proof.Machine
end

