-- ==== Sys2Proof/Machine/Ops.lean ====
section
/-! DEFINITION. Taking a trap and resuming from it, stopping a context, the tests that every instruction passes at issue, and
its retirement (spec 21, 07 R114 to R121, 09 R170). -/

namespace Sys2Proof.Machine

/-! ### Trap records (21 R360, R364) -/

def TrapRec.zero : TrapRec :=
  { cause := 0, cls := 0, lane := 0, fex := 0, pend := 0, skid := 0, pc := 0, tcode := 0, rpc := 0, iword := 0, va := 0,
    gstate := 0, agent := 0, reg := 0, limit := 0, used := 0, edesc := 0, ctx := 0, die := 0, core := 0, warp := 0,
    team := (0, 0, 0) }

/-- The 64 bytes of a record as one number. -/
def TrapRec.image (r : TrapRec) : Nat :=
  r.cause % 2 ^ 8 + r.cls % 8 * 2 ^ 8 + r.lane % 32 * 2 ^ 11 + r.fex % 32 * 2 ^ 16 + r.pend % 8 * 2 ^ 21 +
  r.skid % 256 * 2 ^ 24 + r.pc % 2 ^ 48 * 2 ^ 32 + r.tcode % 2 ^ 16 * 2 ^ 80 + r.rpc % 2 ^ 48 * 2 ^ 96 +
  r.iword % 2 ^ 32 * 2 ^ 160 + r.va % 2 ^ 48 * 2 ^ 192 + r.gstate % 4 * 2 ^ 240 + r.agent % 256 * 2 ^ 242 +
  r.reg % 64 * 2 ^ 250 + r.limit % 2 ^ 64 * 2 ^ 256 + r.used % 2 ^ 64 * 2 ^ 320 + r.edesc % 2 ^ 48 * 2 ^ 384 +
  r.ctx % 2 ^ 9 * 2 ^ 432 + r.die % 8 * 2 ^ 441 + r.core % 32 * 2 ^ 444 + r.warp % 64 * 2 ^ 449 +
  r.team.1 % 2 ^ 16 * 2 ^ 464 + r.team.2.1 % 2 ^ 16 * 2 ^ 480 + r.team.2.2 % 2 ^ 16 * 2 ^ 496

/-- The cause code of an illegal instruction (21 R360). -/
def illegalCode : Illegal → Nat
  | .unassigned => 0x01 | .reservedField => 0x02 | .reservedOperand => 0x03 | .aboveV => 0x04 | .privilege => 0x05
  | .latch => 0x06 | .meld => 0x07 | .limm => 0x08 | .oddTarget => 0x09 | .shape => 0x0A | .scale => 0x0B
  | .formatPair => 0x0C | .coresidency => 0x0D | .engine => 0x0E | .ring => 0x0F | .ringState => 0x10 | .pipe => 0x11
  | .pipeState => 0x12 | .graph => 0x13

/-- The class of a cause code (21 R360). -/
def causeClass (c : Nat) : Nat :=
  if c < 0x30 then 0 else if c < 0x40 then 1 else if c < 0x45 then 2 else if c < 0x50 then 3 else 4

/-- The routing group of a cause code (21 R360). -/
def causeGroup (c : Nat) : Nat :=
  if c < 0x20 then 0 else if c < 0x26 then 1 else if c = 0x26 then 2 else if c < 0x30 then 3
  else if c < 0x37 then 4 else if c = 0x37 then 5 else if c = 0x40 ∨ c = 0x41 ∨ c = 0x46 then 6
  else if c = 0x42 then 2 else if c = 0x47 then 5 else 7

/-- The record of a cause, every other field 0. -/
def TrapRec.of (c : Nat) : TrapRec := { TrapRec.zero with cause := c, cls := causeClass c }

/-- The record of an illegal instruction. -/
def TrapRec.illegal (c : Illegal) : TrapRec := TrapRec.of (illegalCode c)

/-- The route of a group: 0 stop, 1 handler, 2 denied by Nimom (21 R365). -/
def Context.routeOf (c : Context) (group : Nat) : Nat := c.route.toNat / 2 ^ (2 * group) % 4

/-- The identity part of a record (21 R364). -/
def TrapRec.at (r : TrapRec) (team : Team) (w core : Nat) : TrapRec :=
  { r with ctx := team.ctx, die := team.die, core := core, warp := w, team := (team.x, team.y, team.z) }

/-- Events of other kinds that fall on the warp at once: PEND (21 R364, R371). `halt` says that a debugger halt falls in the same
cycle. -/
def Warp.pendBits (x : Warp) (halt : Bool) : Nat := halt.toNat + 2 * x.asked.toNat + 4 * x.slice.toNat

/-- Whether a debugger halt of a context falls in this cycle (21 R371). -/
def Mach.haltDue (m : Mach) (ctx : Nat) : Bool := ((m.ctx? ctx).map Context.haltDue).getD false

/-! ### Instruction boundaries (07 R119) -/

/-- Whether a word that does not decode names a latch in a source field of its entry: some legal values of its other fields give
an instruction that reads a latch (DEDUCED: assumption log 13). -/
def wordReadsLatch (w : Nat) : Bool :=
  let x := Fields.of w
  let codes := fun c : Nat => if 96 ≤ c ∧ c < 100 then [c] else [c, 0, 64, 112]
  (codes x.b).any fun b => (codes x.a).any fun a => [(x.d, x.w), (x.d, 0), (0, x.w), (0, 0)].any fun d =>
    match decode (bytesOf 4 (b * 2 ^ 25 + a * 2 ^ 18 + d.1 * 2 ^ 12 + d.2 * 2 ^ 11 + x.f * 2 ^ 5 + w % 32)) with
    | .ok i => i.uses.readsLatch
    | .error _ => false

/-- Whether an instruction, or an undecodable word, reads a latch. -/
def latched (i : Instr) : Bool :=
  match i with
  | .illegalInstruction _ w => wordReadsLatch w
  | _ => i.uses.readsLatch

/-- The sequencer cluster of a warp (03 R59). -/
def Warp.cluster (x : Warp) : Fin 4 := ⟨x.slot % 4, by omega⟩

/-- What a fetch of a warp at an address finds, read without an effect. -/
def Mach.look (m : Mach) (team : Team) (x : Warp) (pc : Nat) : Fetch :=
  (m.fetch team.die x.core x.cluster team.ctx pc team.super false).1

/-- The next instruction of a warp at an address, read without an effect. -/
def Mach.peek (m : Mach) (team : Team) (x : Warp) (pc : Nat) : Option Instr :=
  match m.look team x pc with
  | .bytes bs => (decode bs).toOption
  | _ => none

/-- The teams with their numbers. -/
def Mach.numbered (m : Mach) : List (Nat × Team) := (List.range m.teams.length).zip m.teams

/-- The slice at which a warp stands: the turn's if the turn names the warp, else that of the gang that issued last. -/
def Mach.standing (m : Mach) (t w : Nat) (team : Team) (x : Warp) : Fin 8 :=
  if h : m.turn.t = t ∧ m.turn.w = w ∧ m.turn.slice < 8 then ⟨m.turn.slice, h.2.2⟩
  else
    let live := (List.finRange 8).filter fun j => liveSlice team.tlanes w j.val
    (live.find? fun j => live.all fun k => decide (x.last.at k ≤ x.last.at j)).getD 0

/-- Whether an instruction writes a register or mask that it reads: it may then stand in a chain only as its last (07 R118, 10
R186). -/
def Instr.overwrites (i : Instr) : Bool :=
  let u := i.uses
  (u.wr.any fun p => ((u.all.filterMap fun a => match a with | .v n => some (n, 1) | _ => none) ++ u.rd).any fun q =>
    decide (p.1.val < q.1.val + q.2) && decide (q.1.val < p.1.val + p.2)) ||
  (u.sw.any fun n => u.all.contains (.s n)) ||
  (match i with
    | .mand _ _ => true
    | .mor _ _ => true
    | .mandn _ _ => true
    | .mxor _ _ => true
    | .mset k _ => decide (k = .exec)
    | _ => false)

/-- Whether `n` instructions from `pc` can be followed by another of their chain: none writes what it reads (07 R118). -/
def Mach.runsAgain (m : Mach) (team : Team) (x : Warp) : Nat → Nat → Bool
  | 0, _ => true
  | n + 1, pc =>
    match m.peek team x pc with
    | some i => !Instr.overwrites i && Mach.runsAgain m team x n (pc + i.size)
    | none => false

/-- Whether a warp stands inside a chain: the next instruction of the gang that issued it reads a latch (07 R116). While the next
instruction cannot be fetched, the chain is open if it could be run again with one more instruction (DEDUCED: assumption log 83). -/
def Mach.inChain (m : Mach) (team : Team) (x : Warp) : Bool :=
  match x.chain with
  | none => false
  | some c =>
    match m.look team x (x.slices.at (lowSlice c.gang)).pc with
    | .bytes bs =>
      match decode bs with
      | .ok i => i.uses.readsLatch
      | .error _ => wordReadsLatch (wordOf bs)
    | _ => m.runsAgain team x c.len c.head

/-- The sequencer cluster of a warp: die, core and number (03 R59). -/
def Mach.clusterOf (m : Mach) (t w : Nat) : Option (Nat × Nat × Fin 4) :=
  match m.teams[t]?, m.warp? t w with
  | some team, some x => some (team.die, x.core, x.cluster)
  | _, _ => none

/-- The running warps of a cluster that stand inside a chain: the cluster issues nothing but their chain (07 R117). -/
def Mach.chainsIn (m : Mach) (k : Nat × Nat × Fin 4) : List (Nat × Nat) :=
  m.numbered.flatMap fun (q : Nat × Team) => (List.range q.2.warps.length).filterMap fun w =>
    match q.2.warps[w]? with
    | some x =>
      if x.chain.isSome ∧ (q.2.die, x.core, x.cluster) = k ∧ q.2.phase = .running ∧ x.run = .ready ∧ m.inChain q.2 x then some (q.1, w)
      else none
    | none => none

/-- Whether slice `j` of a warp is of the gang that issued its chain. -/
def Mach.ownsChain (m : Mach) (t w : Nat) (j : Fin 8) : Bool :=
  match (m.warp? t w).bind Warp.chain with
  | some c => c.gang.getLsbD j.val
  | none => false

/-- Whether the cluster of slice `j` of a warp is held by the chain of another warp or of another sub-gang (07 R117). -/
def Mach.chainElsewhere (m : Mach) (t w : Nat) (j : Fin 8) : Bool :=
  match m.clusterOf t w with
  | some k => (m.chainsIn k).any fun q => decide (q ≠ (t, w)) || !m.ownsChain t w j
  | none => false

/-- The accumulators that matrix units have computed, written: a save or a trap waits for them (16 R303). -/
def Warp.drainMma (x : Warp) : Warp :=
  { x.mma.foldl (fun x p => p.writes.foldl (fun x q => x.setReg q.1 q.2.1 q.2.2) x) x with mma := [] }

/-- Instructions that have retired and are to run again: they no longer count towards a skid, the melded-region limit or the
retired instructions (07 R111, R119). -/
def Warp.rewind (x : Warp) (n : Nat) : Warp :=
  { x with
    flight := x.flight.map fun f => { f with skid := f.skid - n }
    meld := x.meld.map fun r => { r with count := r.count - n }
    retired := x.retired - n
    nonmem := x.nonmem - n }

/-- A warp stopped between instructions: inside a chain its gang goes back to the chain head; its latches are empty
(07 R115, R119). -/
def Mach.atBoundary (m : Mach) (team : Team) (x : Warp) : Warp :=
  let y := match x.chain with
    | some c => if m.inChain team x then (x.rewind c.len).setPc c.gang c.head else x
    | none => x
  { y.drainMma.noLatch with chain := none }

/-- The PC at which a warp that stops between instructions resumes: the head of the chain that it stands in, else the next instruction of
the gang at which it stands (07 R119). -/
def Mach.resumePc (m : Mach) (t w : Nat) (team : Team) (x : Warp) : Nat :=
  match x.chain with
  | some c => if m.inChain team x then c.head else (x.slices.at (m.standing t w team x)).pc
  | none => (x.slices.at (m.standing t w team x)).pc

/-! ### What an issue does to the order of issue (03 R59, 18 R315, R316) -/

/-- The issuing gang as a turn names it: by its lowest slice. -/
def Issue.turn (g : Issue) : Turn :=
  { t := g.t, w := g.w, slice := (lowSlice g.gang).val }

/-- Whether the issuing gang has gone on: it has issued an instruction and nothing is to run again. -/
def Issue.goesOn (g : Issue) (x : Warp) : Bool :=
  decide (g.warp.retired ≤ x.retired) && (decide (g.warp.retired < x.retired) || decide (x.slices ≠ g.warp.slices))

/-- The gang of `g` has issued last: it is no longer aged, and what it replayed is done, but not inside a unit of LIMM (18 R315,
13 R248, 07 R111). -/
def Warp.issued (x : Warp) (g : Issue) (seq : Nat) (inUnit : Bool) : Warp :=
  { x with
    idle := tab fun j => if g.gang.getLsbD j.val then 0 else x.idle.at j
    aged := x.aged &&& ~~~g.gang
    last := tab fun j => if g.gang.getLsbD j.val then seq else x.last.at j
    replayData := if inUnit then x.replayData else x.replayData &&& ~~~g.gang
    replayFetch := if inUnit then x.replayFetch else x.replayFetch &&& ~~~g.gang }

/-- What an issue leaves for the order of issue: a gang that has gone on wakes those that wait, one that has not waits at its
instruction. -/
def Mach.noteIssue (m : Mach) (g : Issue) : Mach :=
  match m.warp? g.t g.w with
  | none => { m with tried := [] }
  | some x =>
    if g.goesOn x then { m.setWarp g (x.issued g (m.seq + 1) m.unit.isSome) with tried := [], seq := m.seq + 1 }
    else { m with tried := if x.run = .ready then g.turn :: m.tried else [] }

/-! ### Stopping a context (21 R369, R370) -/

/-- Whether a team is placed. -/
def Team.isPlaced (x : Team) : Bool := decide (x.phase = .placed) || decide (x.phase = .running)

/-- Stop records written by die `d` from the stop area's byte 64 on (21 R370). -/
def Mach.writeStops (m : Mach) (d ctx base : Nat) : List TrapRec → Nat → Mach
  | [], _ => m
  | r :: t, i => Mach.writeStops (m.fwStoreAt d ctx (base + 64 + 64 * i) 64 r.image) d ctx base t (i + 1)

/-- The stop area written by die `d`: the records, then the count word with the index of the causing event's record (21 R370,
25 R401). -/
def Mach.stopArea (m : Mach) (d ctx va : Nat) (own : Bool) (recs : List TrapRec) : Mach :=
  (m.writeStops d ctx va recs 0).fwStoreAt d ctx va 64 (recs.length + (if own then 0 else 0xFFFFFFFF) * 2 ^ 32)

/-- The stop areas of a context: each die of `cut` keeps the records of its own parties, and their number, in its die L2 (23 R383, 25
R401); the lowest other die of the partition writes the rest. -/
def Mach.stopAreas (m : Mach) (p ctx va : Nat) (cut : List Nat) (own : Bool) (recs : List TrapRec) : Mach :=
  let m1 := (cut.filter (m.diesOf p).contains).foldl (fun m d => m.stopArea d ctx va false (recs.filter fun r => r.die = d)) m
  let rest := recs.filter fun r => !cut.contains r.die
  match (m.diesOf p).filter fun d => !cut.contains d with
  | [] => m1.modCtx ctx fun c => { c with stops := [], stopOwn := false, stopDie := m.leadOf p }
  | d :: _ => (m1.modCtx ctx fun c => { c with stops := rest, stopOwn := own, stopDie := d }).stopArea d ctx va own rest

/-- The record that a placed warp writes at a stop. -/
def Mach.warpStop (m : Mach) (cause t w : Nat) (team : Team) (x : Warp) : TrapRec :=
  ({ TrapRec.of cause with cls := 4, pend := x.pendBits false, rpc := m.resumePc t w team x } : TrapRec).at team w x.core

/-- Whether the record that a warp holds pending shows the debugger halt that stops its context: the warp then writes no other
(21 R371, R372). -/
def Warp.showsHalt (x : Warp) : Bool :=
  match x.trap with
  | some p => decide (p.rcd.pend % 2 = 1)
  | none => false

/-- Whether warp `w` of team `t` is the party whose event caused a stop. -/
def isWarp (who : Option Served) (t w : Nat) : Bool :=
  match who with
  | some (.warp t' w' _ _) => decide (t' = t) && decide (w' = w)
  | _ => false

/-- Whether operation `op` is the party whose event caused a stop. -/
def isOp (who : Option Served) (op : Nat) : Bool :=
  match who with
  | some (.engine k _ _) => decide (k = op)
  | _ => false

/-- The stop records of the warps of a team, but for the party whose event caused the stop. -/
def Mach.teamStops (m : Mach) (cause : Nat) (who : Option Served) (t : Nat) (team : Team) : List TrapRec :=
  (List.range team.warps.length).filterMap fun w => (team.warps[w]?).bind fun x =>
    if decide (x.run = .exited) || isWarp who t w || (decide (cause = 0x50) && x.showsHalt) then none
    else some (m.warpStop cause t w team x)

/-- The stop of a context: every placed warp and every held operation or job writes a record with the cause `cause`, the
party `who` that caused the stop its own record `own` first, `cut` the dies that a failed link cuts off. The graph walker lies on the
die of the command processor (18 R403). After a stop other than a debugger halt,
packets that have been taken end STOPPED and what has not fired never fires. -/
def Mach.stopBy (m : Mach) (id cause : Nat) (own : Option TrapRec) (who : Option Served) (cut : List Nat) (halt : Halt) : Mach :=
  match m.ctx? id with
  | none => m
  | some c =>
    if c.halt = some .stopped ∨ c.halt = some halt then m else
    let ws := m.numbered.map fun (p : Nat × Team) =>
      if p.2.ctx = id ∧ p.2.isPlaced then m.teamStops cause who p.1 p.2 else []
    let es := ((List.range m.ops.length).zip m.ops).filterMap fun (q : Nat × EngOp) =>
      if q.2.ctx = id ∧ q.2.phase ≠ .ended ∧ isOp who q.1 = false then
        some { TrapRec.of cause with cls := 4, edesc := q.2.edesc, ctx := id, die := q.2.die }
      else none
    let gs := (m.graphJobs.filter fun j => j.live && j.ctx == id).map fun j =>
      ({ TrapRec.of cause with cls := 4, edesc := j.va, ctx := id, die := m.lead id } : TrapRec)
    let recs := own.toList ++ ws.flatten ++ es ++ gs
    let m0 := { m with teams := m.numbered.map fun (p : Nat × Team) =>
      if p.2.ctx = id ∧ p.2.isPlaced then
        { p.2 with warps := (List.range p.2.warps.length).filterMap fun w => (p.2.warps[w]?).map (m.atBoundary p.2) }
      else p.2 }
    let m1 := m0.modCtx id fun c => { c with halt := some halt, haltDue := false, reported := false }
    let m2 : Mach := if halt = .debugger then m1 else
      { m1 with
        ops := m1.ops.map fun o => if o.ctx = id then { o with phase := .ended } else o
        graphJobs := m1.graphJobs.map fun j => if j.ctx = id then { j with live := false } else j
        parts := m1.parts.map fun p => { p with
          jobs := p.jobs.map fun j =>
            if j.pkt.ctx = id ∧ !j.free ∧ (j.phase = .running ∨ j.phase = .dispatched ∨ j.phase = .taken) then { j with phase := .done 10 } else j
          queues := p.queues.map fun q =>
            if p.jobs.any fun j => decide (j.pkt.ctx = id) && !j.free && decide (j.pkt.kind = 3) && decide (j.pkt.cmd = 12) && decide (j.queue = q.idx) &&
                (decide (j.phase = .running) || decide (j.phase = .dispatched)) then
              { q with held := false }
            else q } }
    m2.stopAreas c.part id c.saveva cut own.isSome recs

/-- A stop that no warp or operation of the context has caused. -/
def Mach.stopContext (m : Mach) (id cause : Nat) (own : Option TrapRec) (halt : Halt) : Mach := m.stopBy id cause own none [] halt

/-- A debugger halt of a running context, which falls in the cycle of the next issue (21 R369, R371). -/
def Mach.askHalt (m : Mach) (ctx : Nat) : Mach := m.modCtx ctx fun c => { c with haltDue := c.halt.isNone }

/-- The debugger halts of this cycle done: an event of a warp in the same cycle comes first and shows the halt in its record
(21 R371, R372). -/
def Mach.doHalts (m : Mach) : Mach :=
  (m.contexts.filter Context.haltDue).foldl (fun m c => m.stopContext c.id 0x50 none .debugger) m

/-! ### Resuming a stopped warp (21 R368) -/

/-- A late access completed with 0 in its faulting lanes, or nothing written by a store (21 R368). -/
def Flight.without (f : Flight) : Flight :=
  { f with lanes := [], done := f.done ++ f.lanes.map fun l => (l.lane, l.reg, 0) }

/-- Whether an access writes registers. -/
def Act.writes : Act → Bool
  | .load _ => true
  | .atomic _ => true
  | .lda _ => true
  | _ => false

/-- The results of a completed access written to its destinations (21 R362, 14 R261, R263). -/
def Warp.deliver (x : Warp) (f : Flight) : Warp :=
  if !f.act.writes then x
  else
    f.done.foldl (fun x d =>
      if f.scalar then
        let n : Fin 32 := ⟨d.2.1 % 32, by omega⟩
        if f.size = 8 then x.setPair n d.2.2 else x.setS n (BitVec.ofNat 32 d.2.2)
      else
        let l : Fin 32 := ⟨d.1 % 32, by omega⟩
        let n : Fin 64 := ⟨d.2.1 % 64, by omega⟩
        let y := x.setReg n l (BitVec.ofNat 32 d.2.2)
        if f.size = 8 then y.setReg (nextV n 1) l (BitVec.ofNat 32 (d.2.2 / 2 ^ 32)) else y) x

/-- An in-flight counter lowered (12 R220). -/
def Warp.lower (x : Warp) (c : Ctr) : Warp :=
  match c with
  | .ifs => { x with ifs := x.ifs - 1 }
  | .ifg => { x with ifg := x.ifg - 1 }
  | .ift => { x with ift := x.ift - 1 }

/-- An in-flight counter raised (12 R220). -/
def Warp.raise (x : Warp) (c : Ctr) : Warp :=
  match c with
  | .ifs => { x with ifs := x.ifs + 1 }
  | .ifg => { x with ifg := x.ifg + 1 }
  | .ift => { x with ift := x.ift + 1 }

def Warp.counter (x : Warp) (c : Ctr) : Nat :=
  match c with
  | .ifs => x.ifs
  | .ifg => x.ifg
  | .ift => x.ift

/-- The clearing of a poison mark by PZERO: REG is zeroed in every marked lane (21 R367). -/
def Warp.zeroPoison (x : Warp) (reg : Nat) : Warp :=
  let n : Fin 64 := ⟨reg % 64, by omega⟩
  { x with
    v := x.v.put n (tab fun l => if x.poison.contains (n, l) then 0 else (x.v.at n).at l)
    poison := x.poison.filter fun p => p.1 ≠ n }

/-- A stopped warp resumed by action 1, or by action 2 if `skip` (21 R368). A deferred pre-emption then saves it before it issues
(21 R372). -/
def Warp.resume (x : Warp) (skip pzero : Bool) : Warp :=
  match x.trap with
  | none => x
  | some p =>
    let y := { x with run := .ready, trap := none, ycnt := if x.preq then 0 else x.ycnt }
    let z := if pzero then y.zeroPoison p.rcd.reg else y
    match p.late, skip with
    | some f, false => { z with flight := [{ f with replay := true }] }
    | some f, true => (z.deliver f.without).lower f.ctr
    | none, false =>
      if !p.redo then z else if p.rcd.iword = 0 then { z with replayFetch := z.replayFetch ||| p.gang }
      else { z with replayData := z.replayData ||| p.gang }
    | none, true =>
      if p.redo then z.setPc p.gang p.next
      else if p.rcd.cls = 2 ∨ p.rcd.cls = 3 then z
      else if p.rcd.cause = 0x27 ∨ p.rcd.cause = 0x28 then z
      else z.setPc p.gang p.next

/-! ### Taking a trap (21 R361, R366) -/

/-- The records whose trap-area entries are in use. -/
def Mach.recsInUse (m : Mach) (c : Context) : List Nat :=
  (c.traps.map fun s => match s with | .warp _ _ _ va => va | .engine _ _ va => va) ++
  (m.teams.filterMap fun t => match t.served with
    | some (.warp _ _ _ va) => if t.ctx = c.id ∧ t.phase ≠ .exited then some va else none
    | some (.engine _ _ va) => if t.ctx = c.id ∧ t.phase ≠ .exited then some va else none
    | none => none)

/-- A trap-area entry not in use (21 R366); its place is Nimom's choice (DESIGN CHOICE: assumption log 17). -/
def Mach.trapEntry (m : Mach) (c : Context) : Nat :=
  let used := m.recsInUse c
  c.saveva + Config.trapOffset + 64 *
    ((List.range (used.length + 1)).find? fun i => !used.contains (c.saveva + Config.trapOffset + 64 * i)).getD 0

/-- The granule of a record set DENIED by Nimom (21 R365). -/
def Mach.denyGranule (m : Mach) (id va : Nat) : Mach :=
  match (m.ctx? id).bind fun c => findRange c.ranges va with
  | some r => if r.isPartial then m.setResidency id r (va / 2 ^ 16) 2 else m
  | none => m

/-- A paused operation resumed: it replays its access (19 R351). -/
def EngOp.goOn (o : EngOp) : EngOp :=
  match o.phase with
  | .paused r => { o with phase := .fired, fill := some (r.va / 65536) }
  | _ => o

/-- Routing of an event of a warp or an engine operation (21 R365, R366): 0 stops the context, 1 writes the record and queues
the handler, 2 lets Nimom deny and resume. `rres` says that the event is the quota trap of an RRES. -/
def Mach.route (m : Mach) (id : Nat) (r : TrapRec) (s : Nat → Served) (rres : Bool) : Mach :=
  match m.ctx? id with
  | none => m
  | some c =>
    match c.routeOf (causeGroup r.cause) with
    | 1 =>
      let va := m.trapEntry c
      ((m.fwStore id va 64 r.image).announce id .pkg).modCtx id fun x => { x with traps := x.traps ++ [s va] }
    | 2 =>
      let m1 := if rres then m else m.denyGranule id r.va
      match s 0 with
      | .warp t w _ _ => m1.modWarp t w fun x => x.resume rres false
      | .engine op _ _ => { m1 with ops := m1.ops.modify op EngOp.goOn }
    | _ =>
      m.stopBy id 0x53 (some r) (some (s 0)) [] .stopped

/-- Stops a warp with a record and routes the event (21 R361, R366): the slices of `gang` stand at `pc`, the latches are
empty. A trap of a handler stops the context (21 R368). -/
def Mach.takeEvent (m : Mach) (t w : Nat) (gang : BitVec 8) (pc next : Nat) (late : Option Flight) (redo rres : Bool)
    (r0 : TrapRec) : Mach :=
  match m.teams[t]?, m.warp? t w with
  | some team, some x =>
    let r := ({ r0 with pend := x.pendBits (m.haltDue team.ctx) } : TrapRec).at team w x.core
    let entry := match m.ctx? team.ctx with | some c => m.trapEntry c | none => 0
    let x' := { (x.drainMma.setPc gang pc).noLatch with
      run := .stopped, chain := none, replayData := x.replayData &&& ~~~gang, replayFetch := x.replayFetch &&& ~~~gang
      trap := some { rcd := r, gang := gang, next := next, late := late, redo := redo, recVA := entry } }
    let m1 := { (m.modWarp t w fun _ => x') with unit := none }
    if team.served.isSome then m1.stopBy team.ctx 0x53 (some r) (some (.warp t w r 0)) [] .stopped
    else m1.route team.ctx r (.warp t w r) rres
  | _, _ => m

/-- IFE lowered for the ended operations of a warp, in the order of their posts: one that ends before an earlier one is held back
(12 R220). -/
def lowerEnded (t w : Nat) : List EngOp → List EngOp × Nat
  | [] => ([], 0)
  | o :: os =>
    if o.team = t ∧ o.warp = w ∧ !o.lowered then
      if o.phase = .ended then
        let r := lowerEnded t w os
        ({ o with lowered := true } :: r.1, r.2 + 1)
      else (o :: os, 0)
    else
      let r := lowerEnded t w os
      (o :: r.1, r.2)

/-- IFE of a warp lowered for what has ended (12 R220). -/
def Mach.lowerIfe (m : Mach) (t w : Nat) : Mach :=
  let r := lowerEnded t w m.ops
  { m with ops := r.1 }.modWarp t w fun x => { x with ife := x.ife - r.2 }

/-- An operation ended in error (19 R351): IFE is lowered and its warp is to take an engine fault; if the warp has exited, the
context stops. -/
def Mach.failOp (m : Mach) (op : Nat) (va : Nat) : Mach :=
  match m.ops[op]? with
  | none => m
  | some o =>
    let m1 := { m with ops := m.ops.modify op fun o => { o with phase := .ended } }
    match m.teams[o.team]?, m.warp? o.team o.warp with
    | some t, some x =>
      let r := ({ TrapRec.of 0x45 with pc := o.pc, va := va, edesc := o.edesc, skid := o.posted } : TrapRec).at t o.warp x.core
      if x.run = .exited then m1.stopContext o.ctx 0x53 (some { r with skid := x.nonmem - o.posted }) .stopped
      else (m1.lowerIfe o.team o.warp).modWarp o.team o.warp fun x => { x with engFault := x.engFault ++ [r] }
    | _, _ => m1

/-- The PC that a trap of the issuing gang records: that of the LIMM of its unit (07 R111). -/
def Mach.trapPc (m : Mach) (g : Issue) : Nat :=
  match m.unit with
  | some u => u.pc
  | none => g.pc

/-- The chain that the issuing gang has open. -/
def Issue.chain (g : Issue) : Option Chain := g.warp.chain.filter fun c => c.gang == g.gang

/-- Where a precise trap resumes: at the chain head if the instruction reads a latch (07 R119, 21 R360). -/
def Mach.rpcOf (m : Mach) (g : Issue) (i : Instr) : Nat :=
  if latched i then (g.chain.map Chain.head).getD (m.trapPc g) else m.trapPc g

/-- How many retired instructions run again when the instruction of the issue has trapped: those of its chain, or the LIMM of its
unit (07 R111, R119). -/
def Mach.undone (m : Mach) (g : Issue) (i : Instr) : Nat :=
  if latched i && g.chain.isSome then (g.chain.map Chain.len).getD 0 else if m.unit.isSome then 1 else 0

/-- A precise trap of the instruction that the gang issues (21 R361). The warp is as it was before the instruction; what is to run
again counts anew. -/
def Mach.trap (m : Mach) (g : Issue) (i : Instr) (r : TrapRec) : Mach :=
  (m.modWarp g.t g.w (Warp.rewind · (m.undone g i))).takeEvent g.t g.w g.gang (m.rpcOf g i) (g.pc + i.size) none false false
    { r with pc := m.trapPc g, rpc := m.rpcOf g i, iword := i.word }

/-- An illegal-instruction trap (07 R121). -/
def Mach.illegal (m : Mach) (g : Issue) (i : Instr) (c : Illegal) : Mach := m.trap g i (TrapRec.illegal c)

/-- A late fault of an instruction that has not retired and is issued anew at its replay, from the head of its chain: the record's
RPC is the instruction after it (21 R362, R363). -/
def Mach.redo (m : Mach) (g : Issue) (i : Instr) (r : TrapRec) : Mach :=
  (m.modWarp g.t g.w (Warp.rewind · (m.undone g i))).takeEvent g.t g.w g.gang (m.rpcOf g i) (g.pc + i.size) none true false
    { r with pc := m.trapPc g, rpc := g.pc + i.size, iword := i.word }

/-! ### Tests at issue -/

/-- What the tests at issue say: go on, take a trap, or stay at the instruction. -/
inductive Gate where
  | pass
  | trap (r : TrapRec)
  | wait
deriving DecidableEq, Repr

/-- The instruction breaks a rule of melded regions (03 R55, 07 R112). -/
def Issue.breaksMeld (g : Issue) (i : Instr) (u : Uses) : Bool :=
  match g.warp.meld with
  | some r => u.barred || (decide (Config.meldLimit < r.count) && decide (i ≠ .melde))
  | none => u.all.any Src.isK

/-- A name of a register pair resolves to an odd register inside a region (14 R258, R261). -/
def Issue.oddName (g : Issue) (u : Uses) (l : Fin 32) : Bool :=
  g.warp.meld.isSome && u.names.any fun p => decide (p.2 = 2) && (g.warp.name p.1 l).val % 2 == 1

/-- A name, as a lane resolves it, is at or above V (03 R41). -/
def Issue.nameAbove (g : Issue) (u : Uses) (l : Fin 32) : Bool :=
  u.names.any fun p => decide (g.team.vregs < (g.warp.name p.1 l).val + p.2)

/-- A name that no renaming table replaces, or the register that a name resolves to in a lane, is at or above V; a run that goes past v63
names registers above every V (03 R41). -/
def Issue.aboveV (g : Issue) (u : Uses) : Bool :=
  (u.names.any fun p => decide (64 < p.1.val + p.2) ||
      (!(g.warp.meld.isSome && decide (48 ≤ p.1.val)) && decide (g.team.vregs < p.1.val + p.2))) ||
    g.lanes.any (g.nameAbove u)

/-- A record that names the lowest active lane in which `bad` holds, 0 if there is none (21 R364). -/
def Issue.inLane (g : Issue) (r : TrapRec) (bad : Fin 32 → Bool) : TrapRec := { r with lane := ((g.lanes.find? bad).map (·.val)).getD 0 }

/-- A latch read is empty, or holds a vector where one value is read (07 R115, which names only scalar instructions for the latter; in a
field of another instruction that is read as one value it is misuse too, as in VVOTE, VBCAST, VMOVS, SETPART, MELD, MTR and KSET:
DESIGN CHOICE: assumption log 93). -/
def Warp.latchMisuse (x : Warp) (u : Uses) : Bool :=
  (u.all.any fun a => match a with | .b n => (x.b.at n).isNone | _ => false) ||
  (u.ones.any fun a => match a with
    | .b n => match x.b.at n with | some y => !y.scalar | none => true
    | _ => false)

/-- A source read as one value can be read (07 R115). -/
def Issue.readable (g : Issue) (a : Src) : Bool := !g.warp.latchMisuse { ones := [a] }

/-- A vector register of a lane awaits a load or an atomic (12 R220). -/
def Warp.pendingLoad (x : Warp) (r : Nat) (l : Nat) : Bool :=
  x.flight.any fun f => f.act.writes && !f.scalar &&
    ((f.lanes.any fun a => a.lane == l && (a.reg == r || (f.size == 8 && a.reg + 1 == r))) ||
     (f.done.any fun d => d.1 == l && (d.2.1 == r || (f.size == 8 && d.2.1 + 1 == r))))

/-- A vector register of a lane awaits a matrix unit, but for accumulators that begin at `c` (16 R303). -/
def Warp.pendingMma (x : Warp) (c : Option Nat) (r : Nat) (l : Nat) : Bool :=
  x.mma.any fun p => decide (some p.c ≠ c) && p.writes.any fun q => q.1.val == r && q.2.1.val == l

/-- A vector register of a lane awaits its value. -/
def Warp.pendingV (x : Warp) (r : Nat) (l : Nat) : Bool := x.pendingLoad r l || x.pendingMma none r l

/-- Scalar registers awaiting a load (14 R263). -/
def Warp.pendingS (x : Warp) (n : Fin 32) : Bool :=
  x.flight.any fun f => f.act.writes && f.scalar &&
    ((f.lanes.any fun a => a.reg == n.val || (f.size == 8 && a.reg + 1 == n.val)) ||
     (f.done.any fun d => d.2.1 == n.val || (f.size == 8 && d.2.1 + 1 == n.val)))

/-- A register that the instruction reads or writes awaits its value. -/
def Issue.hazard (g : Issue) (u : Uses) : Bool :=
  (u.names.any fun p => g.lanes.any fun l => (List.range p.2).any fun k =>
    g.warp.pendingV ((g.warp.name p.1 l).val + k) l.val) ||
  (u.sw.any g.warp.pendingS) ||
  (u.all.any fun a => match a with | .s n => g.warp.pendingS n | _ => false)

/-- What retirement order holds back (21 R362): an access being replayed or an acquiring load holds everything; two
unretired memory instructions hold a non-memory instruction; at most 255 instructions, the later memory instructions among them,
issue past the oldest unretired one. -/
def Issue.held (g : Issue) (u : Uses) : Bool :=
  (g.warp.flight.any fun f => f.replay) ||
  (u.mem && g.warp.flight.any fun f => match f.act with | .lda _ => true | _ => false) ||
  (!u.mem && decide (2 ≤ g.warp.flight.length)) ||
  (match g.warp.flight with
    | f :: fs => decide (255 ≤ f.skid + fs.length)
    | [] => false)

/-- The lowest active lane that reads a poisoned register, and the register (21 R373; DEDUCED: assumption log 30). -/
def Issue.poisoned (g : Issue) (u : Uses) : Option (Fin 32 × Fin 64) :=
  let names := (u.lanes.filterMap fun a => match a with | .v n => some (n, 1) | _ => none) ++ u.rd
  g.lanes.findSome? fun l => names.findSome? fun p => (List.range p.2).findSome? fun k =>
    let r := nextV (g.warp.name p.1 l) k
    if g.warp.poison.contains (r, l) then some (l, r) else none

/-- The record of a poison trap. -/
def TrapRec.poison (p : Fin 32 × Fin 64) : TrapRec := { TrapRec.of 0x26 with lane := p.1.val, reg := p.2.val }

/-- The tests that every instruction passes at issue, in the order of 07 R121, which does not place the melded-region rule
(cause 0x07): the model tests it first, so that an EXIT inside an open region takes 0x07 and not the illegal-EXIT trap of 03 R58
(DESIGN CHOICE: assumption log 70). -/
def Issue.gate (g : Issue) (i : Instr) (u : Uses) : Gate :=
  if g.breaksMeld i u then .trap (TrapRec.illegal .meld)
  else if g.lanes.any (g.oddName u) then .trap (g.inLane (TrapRec.illegal .reservedOperand) (g.oddName u))
  else if g.aboveV u then .trap (g.inLane (TrapRec.illegal .aboveV) (g.nameAbove u))
  else if (u.super && !g.team.super) || u.denied then .trap (TrapRec.illegal .privilege)
  else if g.warp.latchMisuse u then .trap (TrapRec.illegal .latch)
  else if g.hazard u || g.held u then .wait
  else match g.poisoned u with
    | some p => .trap (TrapRec.poison p)
    | none => .pass

/-! ### Retirement -/

/-- Chain bookkeeping of an instruction retired by `gang` whose chain, if it is a head, begins at `head`; a head that follows a LIMM
begins at it, and the LIMM counts (07 R111, R116, R119). -/
def Warp.chainOn (x : Warp) (u : Uses) (head : Nat) (gang : BitVec 8) : Warp :=
  if u.ending then { x.noLatch with chain := none }
  else if u.readsLatch then { x with chain := x.chain.map fun c => { c with len := c.len + 1 } }
  else { x with chain := some { head := head, len := if x.chain = some { head := head, len := 1, gang := gang } then 2 else 1, gang := gang } }

/-- A non-memory instruction past the one unretired memory instruction adds to its skid (21 R362). -/
def Warp.skidOn (x : Warp) (u : Uses) : Warp :=
  if u.mem then x else { x with flight := x.flight.map fun f => { f with skid := f.skid + 1 } }

/-- What every retirement does besides its result and its PC. -/
def Warp.settle (x : Warp) (u : Uses) (head : Nat) (gang : BitVec 8) : Warp :=
  { ((x.chainOn u head gang).skidOn u).countMeld with retired := x.retired + 1, nonmem := x.nonmem + if u.mem then 0 else 1 }

/-- An instruction retired without a transfer of control: `x` holds its results (09 R170). -/
def Mach.retire (m : Mach) (g : Issue) (i : Instr) (x : Warp) : Mach :=
  { (m.setWarp g ((x.settle i.uses (m.trapPc g) g.gang).goOn g.gang (g.pc + i.size))) with unit := none }

/-- An instruction retired with a transfer of the whole gang to `pc`. -/
def Mach.retireTo (m : Mach) (g : Issue) (i : Instr) (x : Warp) (pc : Nat) : Mach :=
  { (m.setWarp g ((x.settle i.uses (m.trapPc g) g.gang).setPc g.gang pc)) with unit := none }

end Sys2Proof.Machine
end

