-- ==== Sys2Proof/Machine/Domains.lean ====
section
/-! DEFINITION. Interleave domains, home slices and the switch of an APPLY (spec 23 R387 to R389, 24 R399). -/

namespace Sys2Proof.Machine

/-- The checks of 23 R389 on a set of registers alone, for D live dies. -/
def domainsOk (d : Nat) (new : Tab 16 Word) : Bool :=
  let ds := domains new
  ((List.range 128).all fun s => decide ((ds.filter (Domain.holds · s)).length ≤ 1)) &&
  (ds.all fun x => decide (x.first + 2 ^ x.lgn ≤ 128) && decide (x.first % 2 ^ x.lgn = 0) && (!x.en || decide (x.rlo ≤ x.rhi))) &&
  ((List.range (32 * d)).all fun u => decide ((ds.filter (Domain.serves · u)).length = 1))

/-- The checks of an APPLY of `new` over `old` (23 R389). -/
def applyOk (d : Nat) (old new : Tab 16 Word) : Bool :=
  domainsOk d new &&
  ((List.finRange 8).all fun k =>
    ((domainOf old k).near == (domainOf new k).near) && (!(domainOf old k).near || decide (domainOf old k = domainOf new k)))

/-- What a write of a cache-domain register comes to. -/
inductive DomWrite where
  | refuse
  | done (m : Mach)
  | waits (m : Mach)

/-- A value of register 64 + n with its reserved bits ignored (00 R8, 23 R387). -/
def domValue (n : Fin 16) (y : Word) : Word :=
  if n.val % 2 = 1 then BitVec.ofNat 32 (y.toNat % 2 ^ 20) else BitVec.ofNat 32 (y.toNat % 2 ^ 12 + y.toNat / 2 ^ 13 % 2 ^ 16 * 2 ^ 13)

/-- The gangs that wait to begin a switch, in the order in which they came: those that still stand at their SYSW (24 R399). -/
def Mach.applyQueue (m : Mach) : List (Turn × Nat) :=
  m.applies.filter fun q => decide ((({ m with turn := q.1 } : Mach).issuer.map Issue.pc) = some q.2)

/-- Whether a value of register 64 + n asks for an APPLY that fails a check of 23 R389, over the registers as they will stand after a
switch under way. -/
def Mach.failsApply (m : Mach) (n : Fin 16) (y : Word) : Bool :=
  decide (n.val % 2 = 0) && decide (2 ^ 31 ≤ y.toNat) &&
    match m.switching with
    | some q => !applyOk m.dies.length q.2 (q.2.put n (domValue n y))
    | none => !applyOk m.dies.length m.domCur (m.domPend.put n (domValue n y))

/-- A write of register 64 + n by the gang at `pc` whose turn it is (23 R387, R389; 24 R399). An APPLY is checked and starts its switch,
during which the writer waits; it retires at the end of that switch, whoever brings it about. Another APPLY waits for it, and they
begin in the order in which they came. -/
def Mach.writeDomain (m : Mach) (pc : Nat) (n : Fin 16) (y : Word) : DomWrite :=
  if n.val % 2 = 1 ∨ y.toNat < 2 ^ 31 then .done { m with domPend := m.domPend.put n (domValue n y) }
  else if m.switched.contains m.turn then .done { m with switched := m.switched.filter (· ≠ m.turn) }
  else
    let others := m.applyQueue.filter fun q => decide (q.1 ≠ m.turn)
    let queue := if m.applyQueue.any fun q => decide (q.1 = m.turn) then m.applyQueue else others ++ [(m.turn, pc)]
    match m.switching with
    | some (t, new) =>
      let m1 := m.finishSwitch new
      if t = m.turn then .done { m1 with switched := m1.switched.filter (· ≠ t) } else .waits { m1 with applies := queue }
    | none =>
      let new := m.domPend.put n (domValue n y)
      if (queue.head?.map Prod.fst) ≠ some m.turn then .waits { m with applies := queue }
      else if applyOk m.dies.length m.domCur new then .waits { m with switching := some (m.turn, new), applies := others } else .refuse

end Sys2Proof.Machine
end

