-- ==== Sys2Proof/Machine/Slots.lean ====
section
/-! DEFINITION. The slot protocol of pipes (spec 18 R318 to R321, R325; 21 R377). -/

namespace Sys2Proof.Machine

/-! ### The slot protocol (18 R319) -/

/-- FREE, the slots that may be reserved. -/
def Pipe.free (p : Pipe) : Nat := (p.slots.filter fun s => s.st = .free).length

/-- FULL, the committed slots not yet taken, in L2 or spilled. -/
def Pipe.full (p : Pipe) : Nat := (p.cseq - p.tseq).toNat

/-- FULLL of PSTAT (19 R355). -/
def Pipe.fullL2 (p : Pipe) : Nat := p.full - p.spilled.length

def Pipe.slotSize (p : Pipe) : Nat := 2 ^ (p.slotlg + 6)

/-- The address of slot `j`. -/
def Pipe.slotAddr (p : Pipe) (j : Nat) : Nat := p.slotva + j * p.slotSize

/-- The slot at an address, if one begins there. -/
def Pipe.slotAt (p : Pipe) (va : Nat) : Option Nat :=
  if va < p.slotva ∨ (va - p.slotva) % p.slotSize ≠ 0 ∨ p.depth ≤ (va - p.slotva) / p.slotSize then none
  else some ((va - p.slotva) / p.slotSize)

/-- The state of slot `j`. -/
def Pipe.stateOf (p : Pipe) (j : Nat) : Option SlotState := (p.slots[j]?).map (·.st)

def Pipe.setSlot (p : Pipe) (j : Nat) (s : Slot) : Pipe := { p with slots := p.slots.set j s }

/-- The slot in a state with a sequence number. -/
def Pipe.find (p : Pipe) (st : SlotState) (seq : Word) : Option Nat := p.slots.findIdx? fun s => s.st = st ∧ s.seq = seq

/-- A reservation: the slot, the lowest free one (DESIGN CHOICE: assumption log 96), and the pipe after it (18 R319). -/
def Pipe.reserve (p : Pipe) : Option (Nat × Pipe) :=
  (p.slots.findIdx? fun s => s.st = .free).map fun j => (j, { p.setSlot j { st := .reserved, seq := p.rseq, seen := [] } with rseq := p.rseq + 1 })

/-- The epochs that the last commit or release of slot `j` covers, or the release that a message makes before its slot is reserved. -/
def Pipe.seenAt (p : Pipe) (j : Nat) : List Nat := ((p.slots[j]?).map Slot.seen).getD []

/-- Committed slots promoted in the order of reservation (18 R319). -/
def Pipe.promote : Nat → Pipe → Pipe
  | 0, p => p
  | n + 1, p =>
    match p.find .ready p.cseq with
    | some j => Pipe.promote n { p.setSlot j { st := .committed, seq := p.cseq, seen := p.seenAt j } with cseq := p.cseq + 1 }
    | none => p

/-- The watermarks after FULL has changed (18 R319). -/
def Pipe.mark (p : Pipe) : Pipe :=
  if p.msg ∨ p.high = 0 then p
  else { p with wmark := if p.high ≤ p.full then true else if p.full ≤ p.low then false else p.wmark }

/-- A commit of slot `j` that covers some epochs: it waits behind an older reserved one. -/
def Pipe.commit (p : Pipe) (j : Nat) (seen : List Nat) : Pipe :=
  match p.slots[j]? with
  | some s => (Pipe.promote p.slots.length (p.setSlot j { s with st := .ready, seen := seen })).mark
  | none => p

/-- The slot that the next take gets: sequence TSEQ, committed in L2. -/
def Pipe.takeable (p : Pipe) : Option Nat := p.find .committed p.tseq

/-- A take of slot `j`. -/
def Pipe.take (p : Pipe) (j : Nat) : Pipe := { p.setSlot j { st := .taken, seq := p.tseq, seen := [] } with tseq := p.tseq + 1 }.mark

/-- The distance of a sequence number below TSEQ: the oldest taken slot has the largest. -/
def Pipe.age (p : Pipe) (s : Slot) : Nat := (p.tseq - s.seq).toNat

/-- The oldest taken slot, if it is released. -/
def Pipe.oldestReleased (p : Pipe) : Option Nat :=
  p.slots.findIdx? fun s => s.st = .released ∧ p.slots.all fun q => !(decide (q.st = .taken) || decide (q.st = .released)) || decide (p.age q ≤ p.age s)

/-- The oldest spilled slot: its sequence number and its entry (18 R325). -/
def Pipe.oldestSpill (p : Pipe) : Option (Word × Nat × List Nat) :=
  p.spilled.find? fun e => p.spilled.all fun q => decide ((e.1 - p.tseq).toNat ≤ (q.1 - p.tseq).toNat)

/-! ### Slots and their bytes -/

/-- `n` bytes of a context read by `read` at a die, or at the home of the pipe whose slot they lie in. -/
def Mach.bytesBy (m : Mach) (read : Mach → Nat → Nat → Nat → Option (Nat × Mach)) (d ctx va n : Nat) : Option (Nat × Mach) :=
  (pieces n).foldl (fun o p => o.bind fun (r : Nat × Mach) =>
    (r.2.keyOf ctx (va + p.1)).bind fun k =>
      (read r.2 ((r.2.slotHome ctx (va + p.1)).getD d) k p.2).map fun q => (r.1 + q.1 * 2 ^ (8 * p.1), q.2)) (some (0, m))

/-- `n` bytes of a context read at a die, or at the home of the pipe whose slot they lie in; none if a read is held. -/
def Mach.bytesAt (m : Mach) (d ctx va n : Nat) : Option (Nat × Mach) := m.bytesBy Mach.dieRead d ctx va n

/-- `n` bytes of a context written at a die, or at the home of the pipe whose slot they lie in (18 R320). -/
def Mach.putBytes (m : Mach) (d ctx va n v : Nat) : Mach :=
  (pieces n).foldl (fun m p =>
    match m.keyOf ctx (va + p.1) with
    | some k => m.dieStore ((m.slotHome ctx (va + p.1)).getD d) none k p.2 (v / 2 ^ (8 * p.1) % 2 ^ (8 * p.2))
    | none => m) m

/-- Whether `n` bytes of a context hold a poisoned sector for die `d`. -/
def Mach.poisonAt (m : Mach) (d ctx va n : Nat) : Bool :=
  (pieces n).any fun p => match m.keyOf ctx (va + p.1) with
    | some k => m.meetsPoison ((m.slotHome ctx (va + p.1)).getD d) k p.2
    | none => false

/-- The sectors of `n` bytes of a context marked poisoned at their home: the die's bytes of them are drained first. -/
def Mach.poisonBytes (m : Mach) (d ctx va n : Nat) : Mach :=
  (List.range ((n + 31) / 32)).foldl (fun m i =>
    match m.keyOf ctx (va + 32 * i) with
    | some k =>
      let m1 := m.earlyDrain d [sectorOf k]
      { m1 with poisoned := addNew m1.poisoned (sectorOf k) }
    | none => m) m

/-- A slot copied at the home of its pipe, its poison marks with it (18 R325); what holds a read of it is waited for. -/
def Mach.copySlot (m : Mach) (d ctx src dst n : Nat) : Mach :=
  match m.bytesBy Mach.dieReadSure d ctx src n with
  | some r =>
    let m1 := r.2.putBytes d ctx dst n r.1
    (List.range (n / 32)).foldl (fun m i => if m.poisonAt d ctx (src + 32 * i) 32 then m.poisonBytes d ctx (dst + 32 * i) 32 else m) m1
  | none => m

/-- The stages that the watermarks of their pipes deschedule or boost (18 R315, R316, R319). -/
def Mach.refreshMarks (m : Mach) : Mach :=
  { m with teams := m.teams.map fun t =>
      match t.plan with
      | some (va, stage) =>
        let mine := fun p : Pipe => p.ctx == t.ctx && p.planVA == va && p.wmark
        { t with
          desched := m.pipes.any fun p => mine p && p.prod == stage
          boost := m.pipes.any fun p => mine p && p.cons == stage }
      | none => t }

/-- A pipe changed and the watermarks applied. -/
def Mach.setPipe (m : Mach) (p : Pipe) : Mach := (m.modPipe p.num fun _ => p).refreshMarks

/-- The oldest spilled slot returned into a free slot (18 R325). -/
def Mach.returnSpill (m : Mach) (n j : Nat) : Mach :=
  match m.pipe? n with
  | some p =>
    match p.oldestSpill with
    | some e =>
      (m.copySlot p.home p.ctx (p.spillva + e.2.1 * p.slotSize) (p.slotAddr j) p.slotSize).setPipe
        { p.setSlot j { st := .committed, seq := e.1, seen := e.2.2 } with spilled := p.spilled.filter (· ≠ e) }
    | none => m
  | none => m

/-- Released slots zeroed and freed, the oldest first; each freed slot takes the oldest spilled one (18 R319, R320, R325). -/
def Mach.freeSlots : Nat → Mach → Nat → Mach
  | 0, m, _ => m
  | k + 1, m, n =>
    match m.pipe? n with
    | some p =>
      match p.oldestReleased with
      | some j =>
        let m1 := (m.putBytes p.home p.ctx (p.slotAddr j) p.slotSize 0).setPipe (p.setSlot j { st := .free, seq := 0, seen := p.seenAt j })
        Mach.freeSlots k (if p.spilled.isEmpty then m1 else m1.returnSpill n j) n
      | none => m
    | none => m

/-- A release of slot `j` of pipe `n` that covers some epochs. -/
def Mach.releaseSlot (m : Mach) (n j : Nat) (seen : List Nat) : Mach :=
  match m.pipe? n with
  | some p =>
    match p.slots[j]? with
    | some s => Mach.freeSlots p.depth (m.setPipe { p.setSlot j { s with st := .released, seen := seen } with moved := p.moved + 1 }) n
    | none => m
  | none => m

/-- A commit of slot `j` of pipe `n` that covers some epochs. -/
def Mach.commitSlot (m : Mach) (n j : Nat) (seen : List Nat) : Mach :=
  match m.pipe? n with
  | some p => m.setPipe { p.commit j seen with moved := p.moved + 1 }
  | none => m

/-- The scope of a commit or take for an agent of die `d` (18 R320). -/
def Pipe.scope (p : Pipe) (d : Nat) : Scope := if p.remote then .sys else if d = p.home then .die else .pkg

end Sys2Proof.Machine
end

