-- ==== Sys2Proof/Machine/Flight.lean ====
section
/-! DEFINITION. Memory instructions in flight: their performance in issue order, late faults and replays, and the shared shape
of every meaning of an instruction (spec 21 R362, R363; 12 R220, R221, R231 to R233). -/

namespace Sys2Proof.Machine

/-- The value of an atomic after its step, `w` bits wide (14 R271, 12 R233). -/
def AtomOp.apply (o : AtomOp) (w old y cmp : Nat) : Nat :=
  let s := fun x : Nat => sextNat x w
  match o with
  | .add => (old + y) % 2 ^ w
  | .min => if s y < s old then y else old
  | .max => if s old < s y then y else old
  | .and => old &&& y
  | .or => old ||| y
  | .xor => old ^^^ y
  | .exch => y
  | .cas => if old = cmp then y else old
  | .fadd => (fadd F32 .rne old y).1

/-- A loaded value widened to its register (14 R261). -/
def widen (signed : Bool) (size v : Nat) : Nat :=
  if signed then (BitVec.ofInt 32 (sextNat v (8 * size))).toNat else v

/-- The scope of a counter by the class of its memory: SYS for host and peer memory (12 R236, 14 R281). -/
def counterScope (k : Nat) : Scope := if isPackage k then .pkg else .sys

/-- One step of an atomic at its home for die `d`: the die's dirty sectors of the line are drained first, the clean copies of
the line dropped, the new value tagged (12 R233, 14 R273). A dirty line of host or peer memory is written out first, as at a replacement,
since the atomic follows those writes (12 R224, R405; DEDUCED: assumption log 86). None if the read of the old value is held, or the
home refuses the request during a switch (23 R389). -/
def Mach.homeAtomic (m : Mach) (d c k n : Nat) (f : Nat → Nat) : Option (Nat × Mach) :=
  let m1 := if isPackage k then m.earlyDrain d (sectorsOf (lineOf k)) else m.replaceLine d (lineOf k)
  if m.refuses k then none else (m1.homeLoad d k n).map fun r => (r.1, r.2.homeStore d c k n (f r.1))

/-- An atomic of an agent of a die that is not a core: it waits for what holds it. -/
def Mach.agentAtomic (m : Mach) (d k n : Nat) (f : Nat → Nat) : Nat × Mach :=
  match m.homeAtomic d Config.coresPerDie k n f with
  | some r => r
  | none => (((m.unblock k).homeAtomic d Config.coresPerDie k n f)).getD (0, m)

/-- A completion counter raised by an agent of a die with a release (12 R236, 18 R403): nothing is added where the address
fails translation. -/
def Mach.addCounterAt (m : Mach) (d ctx va inc : Nat) : Mach :=
  match m.fwKey ctx va .atomic with
  | some (some k) => ((m.release d (counterScope k)).agentAtomic d k 8 fun v => (v + inc) % 2 ^ 64).2
  | _ => m

/-- A completion counter raised by firmware. -/
def Mach.addCounter (m : Mach) (ctx va inc : Nat) : Mach := m.addCounterAt (m.lead ctx) ctx va inc

/-- One step of an atomic at the die L2 (12 R231): it bypasses and drops the L1 line. -/
def Mach.dieAtomic (m : Mach) (d c k n : Nat) (f : Nat → Nat) : Option (Nat × Mach) :=
  (m.dieRead d k n).map fun r =>
    (r.1, (r.2.dieStore d none k n (f r.1)).modCore d c fun x => { x with l1 := x.l1.drop (lineOf k) })

/-- What one lane's access comes to. -/
inductive Perf where
  | done (v : Nat)
  | fault (cause gstate : Nat)
  | held
deriving DecidableEq, Repr

/-- An access that has passed its late check, performed at die `d` by core `c` of it, or by a core of another die if there is no
core `c`; none if a read is held. -/
def Mach.performAt (m : Mach) (d c : Nat) (f : Flight) (a : LaneAcc) : Option (Nat × Mach) :=
  let n := f.size
  match f.act with
  | .load sg =>
    (if c < Config.coresPerDie then m.coreLoad d c a.key n else m.dieRead d a.key n).map fun r => (widen sg n r.1, r.2)
  | .store => some (0, m.dieStore d (some c) a.key n a.data)
  | .atomic o =>
    let g := fun old => AtomOp.apply o (8 * n) old a.data a.cmp
    match f.place with
    | .die => m.dieAtomic d c a.key n g
    | .home => m.homeAtomic d c a.key n g
  | .lda sc => m.ldaRead d a.key n sc
  | .stl sc =>
    if (decide (sc = .pkg) || decide (sc = .sys)) && m.refuses a.key then none else
    match sc with
    | .pkg => some (0, m.homeStore d c a.key n a.data)
    | .sys => some (0, m.homeStore d c a.key n a.data)
    | _ => some (0, m.dieStore d (some c) a.key n a.data)
  | .csig => (m.homeAtomic d c a.key n fun old => (old + a.data) % 2 ^ 64).map fun r => (0, r.2)
  | .bind _ => some (0, m.dieStore d (some c) a.key n a.data)
  | .pmsg _ _ => some (0, m)

/-- Whether an access reads memory. -/
def Act.reads : Act → Bool
  | .store => false
  | .stl _ => false
  | .bind _ => false
  | _ => true

/-- A scratch access (12 R218). -/
def Mach.performScratch (m : Mach) (t : Nat) (f : Flight) (a : LaneAcc) : Nat × Mach :=
  let mem := match m.teams[t]? with | some x => x.scratch | none => []
  let old := Mem.read mem a.va f.size
  let put := fun v => m.modTeam t fun x => { x with scratch := Mem.write x.scratch a.va f.size v }
  match f.act with
  | .load sg => (widen sg f.size old, m)
  | .store => (0, put a.data)
  | .atomic o => (old, put (AtomOp.apply o (8 * f.size) old a.data a.cmp))
  | _ => (old, m)

/-- Whether a failed link has cut off a die (23 R383). -/
def Mach.isHalted (m : Mach) (d : Nat) : Bool := ((m.dies[d]?).map Die.halted).getD false

/-- The source of a message copied (19 R356): its bytes, or a number above them all if the copy meets poison, a host or peer that is lost or
a die cut off. -/
def Mach.copySource (m : Mach) (team : Team) (f : Flight) (a : LaneAcc) : Perf × Mach :=
  let d := (m.slotHome team.ctx a.va).getD team.die
  if a.cmp = 1 then (.done 0, m)
  else if m.peerHeld a.key then (.held, m)
  else if m.targetLost a.key || m.isHalted d || m.meetsPoison d a.key f.size then (.done (2 ^ (8 * f.size)), m)
  else
    match (pieces f.size).foldl (fun o p => o.bind fun (r : Nat × Mach) =>
        (r.2.dieRead d (a.key + p.1) p.2).map fun q => (r.1 + q.1 * 2 ^ (8 * p.1), q.2)) (some (0, m)) with
    | some (v, m) => (.done v, m)
    | none => (.held, m)

/-- One lane's access: checked late and performed (13 R248, 21 R362), in a slot area at the home of its pipe (18 R320); an access to
a die that a failed link has cut off is a host abort (23 R383). -/
def Mach.performLane (m : Mach) (t : Nat) (team : Team) (core : Nat) (f : Flight) (a : LaneAcc) : Perf × Mach :=
  match a.desc with
  | none => let r := m.performScratch t f a; (.done r.1, r.2)
  | some r =>
    if (match f.act with | .pmsg _ _ => true | _ => false) then m.copySource team f a else
    match m.lateCheck team.ctx r a.va f.replay with
    | (.fault c g, m) => (.fault c g, m)
    | (.zero, m) => (.done 0, m)
    | (.ok, m) =>
      let d := (m.slotHome team.ctx a.va).getD team.die
      if m.peerHeld a.key then (.held, m)
      else if m.isHalted d then (.fault 0x44 0, m)
      else if f.act.reads && m.meetsPoison d a.key f.size then (.fault 0x42 0, m)
      else
        match m.performAt d (if d = team.die then core else Config.coresPerDie) f a with
        | some (v, m) => (.done v, m)
        | none => (.held, m)

/-- Lanes performed in ascending order: what is left and held, what is done, and what faults (14 R260). -/
structure Progress where
  m : Mach
  left : List LaneAcc
  done : List (Nat × Nat × Nat)
  bad : List (LaneAcc × Nat × Nat)

def Mach.performLanes (m : Mach) (t : Nat) (team : Team) (core : Nat) (f : Flight) : List LaneAcc → Progress
  | [] => { m := m, left := [], done := [], bad := [] }
  | a :: as =>
    match m.performLane t team core f a with
    | (.held, m) => { m := m, left := a :: as, done := [], bad := [] }
    | (.done v, m) =>
      let p := Mach.performLanes m t team core f as
      { p with done := (a.lane, a.reg, v) :: p.done }
    | (.fault c g, m) =>
      let p := Mach.performLanes m t team core f as
      { p with bad := (a, c, g) :: p.bad }

/-- The scale-cache lines of a tensor and its cached entry dropped from a core (16 R305, 05 R97). -/
def Core.dropTensor (x : Core) (ctx tid : Nat) : Core :=
  { x with
    scale := x.scale.filter fun l => !(l.ctx == ctx && l.tid == tid)
    sdir := x.sdir.filter fun e => !(e.ctx == ctx && e.tid == tid) }

/-- The imprecise fault of a copy, to be taken at the next instruction boundary of the warp, `skid` non-memory instructions after the
one at `pc` that copied (19 R356, R351, 21 R362). -/
def Mach.copyFault (m : Mach) (t w pc va skid : Nat) : Mach :=
  match m.teams[t]?, m.warp? t w with
  | some team, some x =>
    m.modWarp t w fun y => { y with engFault := y.engFault ++ [({ TrapRec.of 0x45 with pc := pc, va := va, skid := y.nonmem - skid } : TrapRec).at team w x.core] }
  | _, _ => m

/-- A message in its slot: the bytes `v` copied, poisoned if they are none, and the slot committed (19 R356, 21 R377). The home of a
mailbox that a failed link has cut off takes nothing, and the copy has failed (23 R383). -/
def Mach.deliverMessage (m : Mach) (t w n j : Nat) (f : Flight) (v : Nat) : Mach :=
  match m.pipe? n with
  | none => m
  | some p =>
    let va := (f.done.head?.map fun q => q.2.1).getD 0
    if m.isHalted p.home then m.copyFault t w f.pc va f.skid else
    let bad := decide (2 ^ (8 * f.size) ≤ v)
    let m1 := m.putBytes p.home p.ctx (p.slotAddr j) p.slotSize (if bad then 0 else v)
    let m2 := (if bad then m1.poisonBytes p.home p.ctx (p.slotAddr j) p.slotSize else m1).commitSlot n j (p.seenAt j)
    if bad then m2.copyFault t w f.pc va f.skid else m2

/-- A retired access: its destinations written, its counter lowered, the drops of an LDA or an MSCL.B made, a message committed (12
R220, 14 R275, 16 R305, 19 R356). -/
def Mach.complete (m : Mach) (t w : Nat) (team : Team) (core : Nat) (f : Flight) : Mach :=
  let m1 := m.modWarp t w fun x => (({ x with flight := x.flight.drop 1 }).deliver f).lower f.ctr
  match f.act with
  | .lda sc => m1.acquireDrops team.die core sc
  | .bind tid => m1.modCore team.die core fun x => x.dropTensor team.ctx tid
  | .pmsg n j => m1.deliverMessage t w n j f ((f.done.head?.map fun q => q.2.2).getD 0)
  | _ => m1

/-- The memory instructions of a warp after its first `n` unretired ones cancelled: the warp stands at the first of them, and their
counters are lowered (21 R362). -/
def Warp.cancelAfter (x : Warp) (n : Nat) : Warp :=
  match x.flight.drop n with
  | f :: fs =>
    let y := (f :: fs).foldl (fun y f => y.lower f.ctr) x
    { y with
      flight := x.flight.take n, slices := f.snap.slices, lc := f.snap.lc, chain := f.snap.chain
      meld := y.meld.map fun r => { r with count := f.snap.count } }
  | [] => x

/-- The warp at the stop point of a late fault of its oldest access: later memory instructions are cancelled (21 R362). -/
def Warp.cancelLater (x : Warp) : Warp := { x.cancelAfter 1 with flight := [] }

/-- A late fault taken (21 R362, R363): `f` holds the faulting lanes. The skid leaves out the instructions of a chain in which
the stop point falls, and the RPC is then the chain head (07 R119). A quota breach at a replay keeps the replay's RPC; a
permission fault there stands at the instruction itself (21 R360). -/
def Mach.takeLate (m : Mach) (t w : Nat) (team : Team) (f : Flight) (a : LaneAcc) (cause gs : Nat) : Mach :=
  match m.warp? t w with
  | none => m
  | some x0 =>
    let x := x0.cancelLater
    let y := m.atBoundary team x
    let rpc := if cause = 0x35 then f.head else m.resumePc t w team x
    let r : TrapRec :=
      { TrapRec.of cause with
        lane := a.lane, skid := f.skid - (x.nonmem - y.nonmem), pc := f.pc, rpc := rpc, iword := f.iword, va := a.va,
        gstate := gs, agent := (a.desc.map (·.agent)).getD 0,
        limit := if cause = 0x37 then (m.quota team.ctx ((a.desc.map (·.agent)).getD 0)).1 else 0,
        used := if cause = 0x37 then (m.quota team.ctx ((a.desc.map (·.agent)).getD 0)).2 else 0 }
    let m1 := m.modWarp t w fun _ => if cause = 0x35 then y.lower f.ctr else y
    let late := if cause = 0x35 then none else some { f with skid := r.skid, replay := false }
    m1.takeEvent t w (if cause = 0x35 then f.gang else 0) rpc f.next late false false r

/-- What the performance of a warp's oldest access comes to. -/
inductive Settled where
  /-- No access, or a read still held. -/
  | none
  | completed
  | faulted
deriving DecidableEq, Repr

/-- The oldest unretired access of a warp performed (12 R221, 21 R362, R363). A late fault is taken only while the warp is
ready and its context runs; else the access waits (21 R366, R372). -/
def Mach.settleOldest (m : Mach) (t w : Nat) : Settled × Mach :=
  match m.teams[t]?, m.warp? t w with
  | some team, some x =>
    match x.flight with
    | [] => (.none, m)
    | f :: fs =>
      let p := m.performLanes t team x.core f f.lanes
      let f' := { f with lanes := p.bad.map (·.1) ++ p.left, done := f.done ++ p.done }
      let runs := decide (x.run = .ready) && (match m.ctx? team.ctx with | some c => c.halt.isNone | none => false)
      match p.bad with
      | [] =>
        if p.left.isEmpty then (.completed, p.m.complete t w team x.core f')
        else (.none, p.m.modWarp t w fun y => { y with flight := f' :: fs })
      | (a, c, g) :: _ =>
        if p.left.isEmpty && runs then (.faulted, p.m.takeLate t w team f' a c g)
        else (.none, p.m.modWarp t w fun y => { y with flight := { f' with faulted := !runs } :: fs })
  | _, _ => (.none, m)

/-- The oldest accumulators that a matrix unit has computed, written (16 R303). -/
def Mach.writeBack (m : Mach) (t w : Nat) : Mach :=
  m.modWarp t w fun x =>
    match x.mma with
    | [] => x
    | p :: ps => { p.writes.foldl (fun x q => x.setReg q.1 q.2.1 q.2.2) x with mma := ps }

/-- What goes on while a gang waits: the oldest access of its warp is performed, or its oldest accumulators are written. -/
def Mach.background (m : Mach) (t w : Nat) : Mach :=
  match m.warp? t w with
  | some x =>
    match x.flight, x.mma with
    | [], [] => m
    | [], _ => m.writeBack t w
    | _, _ => (m.settleOldest t w).2
  | none => m

/-! ### The shape of a meaning -/

/-- A unit whose follower cannot go on, back at its LIMM, which is to run again (07 R111). -/
def Mach.backToLimm (m : Mach) (g : Issue) : Mach :=
  match m.unit with
  | some u => { m.modWarp g.t g.w fun x => { (x.rewind 1).setPc g.gang u.pc with chain := none } with unit := none }
  | none => m

/-- A waiting gang: its instruction stays, and what it waits for goes on. No late fault falls between a LIMM and its follower
(07 R111). -/
def Mach.stall (m : Mach) (g : Issue) : Mach := (m.backToLimm g).background g.t g.w

/-- An instruction of the issuing gang with uses `u`: it takes a trap, waits, or runs. -/
def issueWith (i : Instr) (u : Mach → Issue → Uses) (s : State) (run : Mach → Issue → Mach) : Host.Outcome State Fault Refusal :=
  withIssuer s fun m g =>
    match g.gate i (u m g) with
    | .pass => .next (run m g)
    | .trap r => .next (m.trap g i r)
    | .wait => .next (m.stall g)

/-- An instruction of the issuing gang. -/
def issue (i : Instr) (s : State) (run : Mach → Issue → Mach) : Host.Outcome State Fault Refusal :=
  issueWith i (fun _ _ => i.uses) s run

/-- An instruction that retires only after every earlier memory instruction of its warp (21 R362). -/
def issueLast (i : Instr) (s : State) (run : Mach → Issue → Mach) : Host.Outcome State Fault Refusal :=
  issue i s fun m g => if g.warp.flight.isEmpty then run m g else m.stall g

/-- An instruction with uses `u` and an operand value that `bad` calls reserved: that trap comes before those of V, privilege and latch
misuse, if the value, an immediate (`imm`) or a register's, can be read (07 R121). A poison trap at the same instruction comes before it
(DESIGN CHOICE: assumption log 84). -/
def Mach.issueChecked (m : Mach) (g : Issue) (i : Instr) (u : Uses) (imm bad : Bool) (run : Mach → Mach) : Mach :=
  match g.gate i u with
  | .pass => if bad then m.illegal g i .reservedOperand else run m
  | .trap r =>
    if decide (4 ≤ r.cause) && decide (r.cause ≤ 6) && (imm || !g.warp.latchMisuse i.uses) && bad then m.illegal g i .reservedOperand
    else m.trap g i r
  | .wait => m.stall g

/-- An instruction that retires after every earlier memory instruction and that its warp may already have begun: `waiting` then says
how it goes on, without a second issue. `bad` says that an operand value is reserved. -/
def issueOnce (i : Instr) (s : State) (bad : Mach → Issue → Bool) (waiting : Mach → Issue → Option Mach) (run : Mach → Issue → Mach) :
    Host.Outcome State Fault Refusal :=
  withIssuer s fun m g =>
    match waiting m g with
    | some m' => .next m'
    | none => .next (m.issueChecked g i i.uses true (bad m g) fun m => if g.warp.flight.isEmpty then run m g else m.stall g)

/-- An instruction with an operand value that `bad` calls reserved. -/
def issueOperand (i : Instr) (s : State) (imm : Bool) (bad : Mach → Issue → Bool) (run : Mach → Issue → Mach) :
    Host.Outcome State Fault Refusal :=
  withIssuer s fun m g => .next (m.issueChecked g i i.uses imm (bad m g) (run · g))

/-! ### Issuing an access -/

/-- A scratch address tested (12 R218): the frame index is below the declared count, bit 18 only for a spanning team. -/
def scratchOk (team : Team) (a : Nat) : Bool :=
  decide (a < 2 ^ 19) && decide (a / 4096 % 64 < team.frames) && (decide (a < 2 ^ 18) || team.span)

/-- An access asked for by one lane: its address in its space, its register, its data and comparand; `bad` is the cause of a
fault found before there is an address (14 R268). -/
structure Ask where
  lane : Nat
  scratch : Bool
  addr : Nat
  reg : Nat
  data : Nat
  cmp : Nat
  bad : Option Nat := none
deriving DecidableEq, Repr

/-- Atomics that the target class does not support (12 R232, 23 R390). -/
def atomSupported (sys : Bool) (cls : Nat) (o : AtomOp) : Bool :=
  match cls with
  | 0 => true
  | 1 => true
  | 2 => sys && (match o with | .add => true | .exch => true | .cas => true | _ => false)
  | 3 => sys && (match o with | .fadd => false | _ => true)
  | _ => false

/-- One lane's address generated (14 R259, 13 R245, 12 R218): a cause, or the access. `sup` says which classes take it. -/
def Mach.generate (m : Mach) (g : Issue) (kind : Access) (size : Nat) (sup : Nat → Bool) (a : Ask) : Except Nat LaneAcc × Mach :=
  if a.bad.isSome then (.error (a.bad.getD 0), m)
  else if a.addr % size ≠ 0 then (.error 0x32, m)
  else if a.scratch then
    if scratchOk g.team a.addr then
      (.ok { lane := a.lane, va := a.addr, key := 0, desc := none, reg := a.reg, data := a.data, cmp := a.cmp }, m)
    else (.error 0x31, m)
  else
    match m.translate g.team.die g.core g.team.ctx a.addr size kind g.team.super with
    | (.error e, m) => (.error e, m)
    | (.ok r, m) =>
      if !sup r.cls then (.error 0x36, m)
      else (.ok { lane := a.lane, va := a.addr, key := r.key a.addr, desc := some r, reg := a.reg, data := a.data, cmp := a.cmp }, m)

/-- Every lane's address generated: the first faulting lane's cause and address, or the accesses (13 R245). -/
def Mach.generateAll (m : Mach) (g : Issue) (kind : Access) (size : Nat) (sup : Nat → Bool) :
    List Ask → Except (Nat × Ask) (List LaneAcc) × Mach
  | [] => (.ok [], m)
  | a :: as =>
    match m.generate g kind size sup a with
    | (.error e, m) => (.error (e, a), m)
    | (.ok l, m) =>
      match Mach.generateAll m g kind size sup as with
      | (.ok ls, m) => (.ok (l :: ls), m)
      | (.error e, m) => (.error e, m)

/-- The record of an address-generation fault (13 R245, 21 R364). -/
def TrapRec.access (cause : Nat) (a : Ask) : TrapRec := { TrapRec.of cause with lane := a.lane, va := a.addr }

/-- The state that a cancelled instruction puts back. -/
def Warp.snap (x : Warp) : Snap :=
  { slices := x.slices, lc := x.lc, count := (x.meld.map (·.count)).getD 0, chain := x.chain }

/-- What an access is, before its addresses. -/
structure Shot where
  ctr : Ctr
  act : Act
  place : Place
  size : Nat
  scalar : Bool
  kind : Access
  sup : Nat → Bool

/-- A memory instruction issued (12 R220, 21 R361): a precise fault if an address faults; else its counter rises and it joins
the accesses in flight. `done` holds lanes that need no access. -/
def Mach.shoot (m : Mach) (g : Issue) (i : Instr) (q : Shot) (asks : List Ask) (done : List (Nat × Nat × Nat)) : Mach :=
  if 255 ≤ g.warp.counter q.ctr then m.stall g
  else
    match m.generateAll g q.kind q.size q.sup asks with
    | (.error e, m) => m.trap g i (TrapRec.access e.1 e.2)
    | (.ok ls, m) =>
      let f : Flight :=
        { ctr := q.ctr, act := q.act, place := q.place, size := q.size, scalar := q.scalar, lanes := ls, done := done, gang := g.gang,
          pc := m.trapPc g, head := m.rpcOf g i, next := g.pc + i.size, iword := i.word, skid := 0, replay := false,
          snap := g.warp.snap }
      let x := g.warp.raise q.ctr
      m.retire g i { x with flight := x.flight ++ [f] }

/-! ### Accesses that an instruction makes at once -/

/-- A read made at once by an instruction that stalls its gang: the bytes, a precise fault, a late fault, or a read still
held. -/
inductive Now where
  | ok (v : Nat)
  | precise (cause : Nat)
  | late (cause gstate agent : Nat)
  | held
deriving DecidableEq, Repr

/-- A load of `n` bytes at `va` with the checks of a load (14 R267, R281); `how` reads the translated bytes. -/
def Mach.loadNow (m : Mach) (g : Issue) (va n : Nat) (how : Mach → Nat → Option (Nat × Mach)) : Now × Mach :=
  match m.translate g.team.die g.core g.team.ctx va n .load g.team.super with
  | (.error e, m) => (.precise e, m)
  | (.ok r, m) =>
    match m.lateCheck g.team.ctx r va (decide (g.warp.replayData &&& g.gang ≠ 0)) with
    | (.fault c gs, m) => (.late c gs r.agent, m)
    | (.zero, m) => (.ok 0, m)
    | (.ok, m) =>
      if m.meetsPoison g.team.die (r.key va) n then (.late 0x42 0 r.agent, m)
      else
        match how m (r.key va) with
        | some (v, m) => (.ok v, m)
        | none => (.held, m)

/-- The record of a late fault of such a read. -/
def Mach.lateRec (m : Mach) (g : Issue) (cause gs agent va : Nat) : TrapRec :=
  { TrapRec.of cause with
    va := va, gstate := gs, agent := agent, limit := if cause = 0x37 then (m.quota g.team.ctx agent).1 else 0,
    used := if cause = 0x37 then (m.quota g.team.ctx agent).2 else 0 }

/-- Reads `n` bytes at `va` as a plain load and goes on with the value (14 R267, 19 R347). -/
def Mach.withLoad (m : Mach) (g : Issue) (i : Instr) (va n : Nat) (how : Mach → Nat → Option (Nat × Mach)) (k : Mach → Nat → Mach) :
    Mach :=
  match m.loadNow g va n how with
  | (.ok v, m) => k m v
  | (.precise c, m) => m.trap g i { TrapRec.of c with va := va }
  | (.late c gs ag, m) =>
    if c = 0x35 then m.trap g i (m.lateRec g c gs ag va) else m.redo g i (m.lateRec g c gs ag va)
  | (.held, m) => m

/-- A plain load's way to the bytes. -/
def Issue.plainly (g : Issue) (n : Nat) (m : Mach) (k : Nat) : Option (Nat × Mach) := m.coreLoad g.team.die g.core k n

/-- An address of the context that a physical key has. -/
def Mach.vaOf (m : Mach) (ctx k : Nat) : Nat :=
  match (m.ctx? ctx).bind fun c => c.ranges.find? fun r =>
      decide (r.key (r.baseg * 65536) ≤ k) && decide (k < r.key (r.baseg * 65536) + (r.lastg + 1 - r.baseg) * 65536) with
  | some r => r.baseg * 65536 + (k - r.key (r.baseg * 65536))
  | none => 0

/-- The dirty bytes of a die whose host or peer is lost are given up. -/
def Mach.giveUp (m : Mach) (d : Nat) (ks : List Nat) : Mach :=
  m.modDie d fun x =>
    { x with
      l2 := ks.foldl (fun c k => c.drop (lineOf k)) x.l2
      hdirty := x.hdirty.filter fun c => !ks.contains c.1
      hdirtyAt := x.hdirtyAt.filter fun k => !ks.contains k }

/-- A release at a scope by the issuing warp (14 R274): it waits while a LINK_RECONF holds its writes (23 R393). A lost sector of the
epoch it closes is published poisoned and the instruction takes the memory-poison fault (21 R374); writes whose host or peer is
lost are the fault of a lost access (21 R376). -/
def Mach.withRelease (m : Mach) (g : Issue) (i : Instr) (sc : Scope) (k : Mach → Mach) : Mach :=
  let d := g.team.die
  if m.flushHeld d sc then m
  else
    match m.lostAt d sc, m.undeliverable d sc with
    | s :: _, _ => (m.release d sc).redo g i { TrapRec.of 0x42 with va := m.vaOf g.team.ctx (32 * s) }
    | [], b :: bs =>
      (m.giveUp d (b :: bs)).redo g i { TrapRec.of (lostCause (keyClass b)) with va := m.vaOf g.team.ctx b }
    | [], [] => k (m.release d sc)

end Sys2Proof.Machine
end

