-- ==== Sys2Proof/Machine/VectorInt.lean ====
section
/-! DEFINITION. The vector integer instructions (spec 10 R188 to R193). -/

namespace Sys2Proof.Machine

/-- A lane-by-lane result written and latched (07 R114, 10 R185). -/
def lanesOp (i : Instr) (d : Dst) (f : Mach → Issue → Fin 32 → Word) (s : State) : Host.Outcome State Fault Refusal :=
  issue i s fun m g => m.retire g i ((g.warp.begin i.uses).writeVec g.active d (f m g))

/-- Two register sources (10 R188). -/
def int2 (i : Instr) (d : Dst) (a b : Src) (op : Word → Word → Word) (s : State) : Host.Outcome State Fault Refusal :=
  lanesOp i d (fun _ g l => op (g.warp.src a l) (g.warp.src b l)) s

/-- A register source and the immediate (10 R185, R188). -/
def intI (i : Instr) (d : Dst) (a : Src) (k : Fin 128) (op : Word → Word → Word) (s : State) : Host.Outcome State Fault Refusal :=
  lanesOp i d (fun m g l => op (g.warp.src a l) (m.imm k)) s

/-- One register source (10 R190). -/
def int1 (i : Instr) (d : Dst) (a : Src) (op : Word → Word) (s : State) : Host.Outcome State Fault Refusal :=
  lanesOp i d (fun _ g l => op (g.warp.src a l)) s

/-- Bits 63 to 32 of a signed product (10 R188). -/
def mulh (x y : Word) : Word := BitVec.ofNat 32 ((x.signExtend 64 * y.signExtend 64).toNat / 2 ^ 32)
/-- Bits 63 to 32 of an unsigned product (10 R188). -/
def mulhu (x y : Word) : Word := BitVec.ofNat 32 (x.toNat * y.toNat / 2 ^ 32)
/-- Shifts by y mod 32 (10 R188). -/
def shl (x y : Word) : Word := x <<< (y.toNat % 32)
def srl (x y : Word) : Word := x >>> (y.toNat % 32)
def sra (x y : Word) : Word := x.sshiftRight (y.toNat % 32)
def smin (x y : Word) : Word := if y.slt x then y else x
def smax (x y : Word) : Word := if x.slt y then y else x
def umin (x y : Word) : Word := if y.ult x then y else x
def umax (x y : Word) : Word := if x.ult y then y else x

/-- The bits of a word from the top down. -/
def topBits (x : Word) : List Bool := (List.range 32).map fun i => x.getLsbD (31 - i)
/-- Leading zero bits (10 R190). -/
def clz (x : Word) : Word := BitVec.ofNat 32 ((topBits x).takeWhile (! ·)).length
/-- Set bits (10 R190). -/
def popc (x : Word) : Word := BitVec.ofNat 32 ((topBits x).filter id).length
/-- Bit i moved to bit 31 - i (10 R190). -/
def brev (x : Word) : Word := laneMask fun i => x.getLsbD (31 - i.val)
/-- |x| mod 2^32 (10 R190). -/
def wabs (x : Word) : Word := if x.slt 0 then -x else x

/-- VSAT (10 R191): n = y[5:0], 0 or above 32 read as 32; y[6] selects the unsigned range. -/
def vsatOp (x y : Word) : Word :=
  let n0 := y.toNat % 64
  let n := if n0 = 0 ∨ 32 < n0 then 32 else n0
  if y.getLsbD 6 then BitVec.ofInt 32 (satInt x.toInt 0 (2 ^ n - 1))
  else BitVec.ofInt 32 (satInt x.toInt (-(2 ^ (n - 1))) (2 ^ (n - 1) - 1))

/-- CM of the active lanes replaced. -/
def Issue.withCm (g : Issue) (f : Fin 32 → Bool) : BitVec 32 := laneMask fun l => if g.active l then f l else g.warp.cm.getLsbD l.val

/-- A compare: CM of the active lanes (10 R192). -/
def cmpOp (i : Instr) (f : Mach → Issue → Fin 32 → Bool) (s : State) : Host.Outcome State Fault Refusal :=
  issue i s fun m g => m.retire g i { g.warp.begin i.uses with cm := g.withCm (f m g) }

/-- 10 R188. -/
def execVadd (d : Dst) (a b : Src) (s : State) : Host.Outcome State Fault Refusal := int2 (.vadd d a b) d a b (· + ·) s
/-- 10 R188. -/
def execVsub (d : Dst) (a b : Src) (s : State) : Host.Outcome State Fault Refusal := int2 (.vsub d a b) d a b (· - ·) s
/-- 10 R188. -/
def execVmul (d : Dst) (a b : Src) (s : State) : Host.Outcome State Fault Refusal := int2 (.vmul d a b) d a b (· * ·) s
/-- 10 R188. -/
def execVmulh (d : Dst) (a b : Src) (s : State) : Host.Outcome State Fault Refusal := int2 (.vmulh d a b) d a b mulh s
/-- 10 R188. -/
def execVmulhU (d : Dst) (a b : Src) (s : State) : Host.Outcome State Fault Refusal := int2 (.vmulhU d a b) d a b mulhu s
/-- 10 R188. -/
def execVand (d : Dst) (a b : Src) (s : State) : Host.Outcome State Fault Refusal := int2 (.vand d a b) d a b (· &&& ·) s
/-- 10 R188. -/
def execVor (d : Dst) (a b : Src) (s : State) : Host.Outcome State Fault Refusal := int2 (.vor d a b) d a b (· ||| ·) s
/-- 10 R188. -/
def execVxor (d : Dst) (a b : Src) (s : State) : Host.Outcome State Fault Refusal := int2 (.vxor d a b) d a b (· ^^^ ·) s
/-- 10 R188. -/
def execVshl (d : Dst) (a b : Src) (s : State) : Host.Outcome State Fault Refusal := int2 (.vshl d a b) d a b shl s
/-- 10 R188. -/
def execVsrl (d : Dst) (a b : Src) (s : State) : Host.Outcome State Fault Refusal := int2 (.vsrl d a b) d a b srl s
/-- 10 R188. -/
def execVsra (d : Dst) (a b : Src) (s : State) : Host.Outcome State Fault Refusal := int2 (.vsra d a b) d a b sra s
/-- 10 R188. -/
def execVmin (d : Dst) (a b : Src) (s : State) : Host.Outcome State Fault Refusal := int2 (.vmin d a b) d a b smin s
/-- 10 R188. -/
def execVminU (d : Dst) (a b : Src) (s : State) : Host.Outcome State Fault Refusal := int2 (.vminU d a b) d a b umin s
/-- 10 R188. -/
def execVmax (d : Dst) (a b : Src) (s : State) : Host.Outcome State Fault Refusal := int2 (.vmax d a b) d a b smax s
/-- 10 R188. -/
def execVmaxU (d : Dst) (a b : Src) (s : State) : Host.Outcome State Fault Refusal := int2 (.vmaxU d a b) d a b umax s
/-- 10 R191. -/
def execVsat (d : Dst) (a b : Src) (s : State) : Host.Outcome State Fault Refusal := int2 (.vsat d a b) d a b vsatOp s
/-- 10 R188. -/
def execVaddImm (d : Dst) (a : Src) (i : Fin 128) (s : State) : Host.Outcome State Fault Refusal := intI (.vaddImm d a i) d a i (· + ·) s
/-- 10 R188. -/
def execVmulImm (d : Dst) (a : Src) (i : Fin 128) (s : State) : Host.Outcome State Fault Refusal := intI (.vmulImm d a i) d a i (· * ·) s
/-- 10 R188. -/
def execVandImm (d : Dst) (a : Src) (i : Fin 128) (s : State) : Host.Outcome State Fault Refusal := intI (.vandImm d a i) d a i (· &&& ·) s
/-- 10 R188. -/
def execVorImm (d : Dst) (a : Src) (i : Fin 128) (s : State) : Host.Outcome State Fault Refusal := intI (.vorImm d a i) d a i (· ||| ·) s
/-- 10 R188. -/
def execVxorImm (d : Dst) (a : Src) (i : Fin 128) (s : State) : Host.Outcome State Fault Refusal := intI (.vxorImm d a i) d a i (· ^^^ ·) s
/-- 10 R188. -/
def execVshlImm (d : Dst) (a : Src) (i : Fin 128) (s : State) : Host.Outcome State Fault Refusal := intI (.vshlImm d a i) d a i shl s
/-- 10 R188. -/
def execVsrlImm (d : Dst) (a : Src) (i : Fin 128) (s : State) : Host.Outcome State Fault Refusal := intI (.vsrlImm d a i) d a i srl s
/-- 10 R188. -/
def execVsraImm (d : Dst) (a : Src) (i : Fin 128) (s : State) : Host.Outcome State Fault Refusal := intI (.vsraImm d a i) d a i sra s
/-- 10 R188. -/
def execVminImm (d : Dst) (a : Src) (i : Fin 128) (s : State) : Host.Outcome State Fault Refusal := intI (.vminImm d a i) d a i smin s
/-- 10 R188. -/
def execVminUImm (d : Dst) (a : Src) (i : Fin 128) (s : State) : Host.Outcome State Fault Refusal := intI (.vminUImm d a i) d a i umin s
/-- 10 R188. -/
def execVmaxImm (d : Dst) (a : Src) (i : Fin 128) (s : State) : Host.Outcome State Fault Refusal := intI (.vmaxImm d a i) d a i smax s
/-- 10 R188. -/
def execVmaxUImm (d : Dst) (a : Src) (i : Fin 128) (s : State) : Host.Outcome State Fault Refusal := intI (.vmaxUImm d a i) d a i umax s
/-- 10 R191. -/
def execVsatImm (d : Dst) (a : Src) (i : Fin 128) (s : State) : Host.Outcome State Fault Refusal := intI (.vsatImm d a i) d a i vsatOp s
/-- 10 R189. -/
def execVmad (d : Dst) (a b : Src) (s : State) : Host.Outcome State Fault Refusal :=
  lanesOp (.vmad d a b) d (fun _ g l => g.warp.src a l * g.warp.src b l + g.warp.src (.v d.n) l) s
/-- 10 R190. -/
def execVabs (d : Dst) (a : Src) (s : State) : Host.Outcome State Fault Refusal := int1 (.vabs d a) d a wabs s
/-- 10 R190. -/
def execVclz (d : Dst) (a : Src) (s : State) : Host.Outcome State Fault Refusal := int1 (.vclz d a) d a clz s
/-- 10 R190. -/
def execVpopc (d : Dst) (a : Src) (s : State) : Host.Outcome State Fault Refusal := int1 (.vpopc d a) d a popc s
/-- 10 R190. -/
def execVbrev (d : Dst) (a : Src) (s : State) : Host.Outcome State Fault Refusal := int1 (.vbrev d a) d a brev s
/-- 10 R193. -/
def execVsel (d : Dst) (a b : Src) (s : State) : Host.Outcome State Fault Refusal :=
  lanesOp (.vsel d a b) d (fun _ g l => if g.warp.cm.getLsbD l.val then g.warp.src a l else g.warp.src b l) s
/-- 10 R192. -/
def execVcmp (c : ICond) (a b : Src) (s : State) : Host.Outcome State Fault Refusal :=
  cmpOp (.vcmp c a b) (fun _ g l => ICond.holds c (g.warp.src a l) (g.warp.src b l)) s
/-- 10 R192. -/
def execVcmpImm (c : ICond) (a : Src) (i : Fin 128) (s : State) : Host.Outcome State Fault Refusal :=
  cmpOp (.vcmpImm c a i) (fun m g l => ICond.holds c (g.warp.src a l) (m.imm i)) s

end Sys2Proof.Machine
end

