-- ==== Sys2Proof/Machine/VectorFloat.lean ====
section
/-! DEFINITION. The vector float instructions (spec 10 R194 to R198, 05 R87 to R89). -/

namespace Sys2Proof.Machine

/-- The exceptions of the active lanes together (05 R89). -/
def Issue.excs (g : Issue) (f : Fin 32 → Exc) : Exc := g.lanes.foldl (fun e l => e.or (f l)) Exc.none

/-- The record of a float exception: the lowest lane that raises an enabled one, and all that were raised, masked ones among them
(05 R89; DESIGN CHOICE: assumption log 76). -/
def Issue.floatTrap (g : Issue) (f : Fin 32 → Exc) : TrapRec :=
  { TrapRec.of 0x21 with
    fex := (g.excs f).bits, lane := ((g.lanes.find? fun l => (f l).traps g.warp.ften).map (·.val)).getD 0 }

/-- Goes on unless an enabled exception is raised in an active lane (05 R89). -/
def Mach.unlessFloat (m : Mach) (g : Issue) (i : Instr) (f : Fin 32 → Exc) (k : Mach) : Mach :=
  if (g.excs f).traps g.warp.ften then m.trap g i (g.floatTrap f) else k

/-- A lane-by-lane float result with its exceptions (10 R194, 05 R89). -/
def floatOp (i : Instr) (d : Dst) (f : Mach → Issue → Fin 32 → Nat × Exc) (s : State) : Host.Outcome State Fault Refusal :=
  issue i s fun m g =>
    m.unlessFloat g i (fun l => (f m g l).2)
      (m.retire g i ((g.warp.begin i.uses).writeVec g.active d fun l => BitVec.ofNat 32 (f m g l).1))

def float2 (i : Instr) (d : Dst) (a b : Src) (op : Nat → Nat → Nat × Exc) (s : State) : Host.Outcome State Fault Refusal :=
  floatOp i d (fun _ g l => op (g.warp.srcF32 a l).toNat (g.warp.srcF32 b l).toNat) s

def float1 (i : Instr) (d : Dst) (a : Src) (op : Nat → Nat × Exc) (s : State) : Host.Outcome State Fault Refusal :=
  floatOp i d (fun _ g l => op (g.warp.srcF32 a l).toNat) s

/-- Two 16-bit results packed, their exceptions together (10 R198, R200). -/
def halves (lo hi : Nat × Exc) : Nat × Exc := (lo.1 + 65536 * hi.1, lo.2.or hi.2)

/-- VFMA of a 16-bit type: each half by itself (10 R198). -/
def fmaHalves (f : FFmt) (m : Rm) (np na : Bool) (x y z : Nat) : Nat × Exc :=
  halves (ffma f m np na (x % 65536) (y % 65536) (z % 65536)) (ffma f m np na (x / 65536) (y / 65536) (z / 65536))

/-- 10 R194. -/
def execVfadd (d : Dst) (a b : Src) (m : Rm) (s : State) : Host.Outcome State Fault Refusal := float2 (.vfadd d a b m) d a b (fadd F32 m) s
/-- 10 R194. -/
def execVfsub (d : Dst) (a b : Src) (m : Rm) (s : State) : Host.Outcome State Fault Refusal := float2 (.vfsub d a b m) d a b (fsub F32 m) s
/-- 10 R194. -/
def execVfmul (d : Dst) (a b : Src) (m : Rm) (s : State) : Host.Outcome State Fault Refusal := float2 (.vfmul d a b m) d a b (fmul F32 m) s
/-- 10 R195. -/
def execVfmin (d : Dst) (a b : Src) (s : State) : Host.Outcome State Fault Refusal := float2 (.vfmin d a b) d a b (fminmax F32 false) s
/-- 10 R195. -/
def execVfmax (d : Dst) (a b : Src) (s : State) : Host.Outcome State Fault Refusal := float2 (.vfmax d a b) d a b (fminmax F32 true) s
/-- 10 R195. -/
def execVfabs (d : Dst) (a : Src) (s : State) : Host.Outcome State Fault Refusal := float1 (.vfabs d a) d a (fsignOp F32 true) s
/-- 10 R195. -/
def execVfneg (d : Dst) (a : Src) (s : State) : Host.Outcome State Fault Refusal := float1 (.vfneg d a) d a (fsignOp F32 false) s
/-- 10 R196. -/
def execVfrcp (d : Dst) (a : Src) (s : State) : Host.Outcome State Fault Refusal := float1 (.vfrcp d a) d a frcp s
/-- 10 R196. -/
def execVfrsq (d : Dst) (a : Src) (s : State) : Host.Outcome State Fault Refusal := float1 (.vfrsq d a) d a frsq s
/-- 10 R196. -/
def execVfexp2 (d : Dst) (a : Src) (s : State) : Host.Outcome State Fault Refusal := float1 (.vfexp2 d a) d a fexp2 s
/-- 10 R196. -/
def execVflog2 (d : Dst) (a : Src) (s : State) : Host.Outcome State Fault Refusal := float1 (.vflog2 d a) d a flog2 s
/-- 10 R196. -/
def execVfsin (d : Dst) (a : Src) (s : State) : Host.Outcome State Fault Refusal := float1 (.vfsin d a) d a fsin s
/-- 10 R196. -/
def execVfcos (d : Dst) (a : Src) (s : State) : Host.Outcome State Fault Refusal := float1 (.vfcos d a) d a fcos s
/-- 10 R196. -/
def execVftanh (d : Dst) (a : Src) (s : State) : Host.Outcome State Fault Refusal := float1 (.vftanh d a) d a ftanh s
/-- 10 R197. -/
def execVfcmp (c : FCond) (a b : Src) (s : State) : Host.Outcome State Fault Refusal :=
  issue (.vfcmp c a b) s fun m g =>
    let r := fun l => FCond.holds c F32 (g.warp.srcF32 a l).toNat (g.warp.srcF32 b l).toNat
    m.unlessFloat g (.vfcmp c a b) (fun l => (r l).2)
      (m.retire g (.vfcmp c a b) { g.warp.begin (Instr.vfcmp c a b).uses with cm := g.withCm fun l => (r l).1 })
/-- 10 R198. -/
def execVfmaF32 (d : Dst) (a b : Src) (na np : Bool) (m : Rm) (s : State) : Host.Outcome State Fault Refusal :=
  floatOp (.vfmaF32 d a b na np m) d (fun _ g l =>
    ffma F32 m np na (g.warp.srcF32 a l).toNat (g.warp.srcF32 b l).toNat (g.warp.src (.v d.n) l).toNat) s
/-- 10 R198. -/
def execVfmaH2 (d : Dst) (a b : Src) (na np : Bool) (m : Rm) (s : State) : Host.Outcome State Fault Refusal :=
  floatOp (.vfmaH2 d a b na np m) d (fun _ g l =>
    fmaHalves F16 m np na (g.warp.srcHalves F16 a l).toNat (g.warp.srcHalves F16 b l).toNat (g.warp.src (.v d.n) l).toNat) s
/-- 10 R198. -/
def execVfmaB2 (d : Dst) (a b : Src) (na np : Bool) (m : Rm) (s : State) : Host.Outcome State Fault Refusal :=
  floatOp (.vfmaB2 d a b na np m) d (fun _ g l =>
    fmaHalves BF16 m np na (g.warp.srcHalves BF16 a l).toNat (g.warp.srcHalves BF16 b l).toNat (g.warp.src (.v d.n) l).toNat) s

end Sys2Proof.Machine
end

