-- ==== Sys2Proof/Machine/Convert.lean ====
section
/-! DEFINITION. Conversions, packing, moves and the 16-bit forms (spec 10 R199 to R203, 07 R102). -/

namespace Sys2Proof.Machine

/-- An operand outside its limits (07 R121): the trap. -/
def Mach.badOperand (m : Mach) (g : Issue) (i : Instr) : Mach := m.illegal g i .reservedOperand

/-- 10 R199. -/
def execVcvtF32I32 (d : Dst) (a : Src) (m : Rm) (s : State) : Host.Outcome State Fault Refusal :=
  floatOp (.vcvtF32I32 d a m) d (fun _ g l => fofInt F32 m (g.warp.src a l).toInt) s
/-- 10 R199. -/
def execVcvtI32F32 (d : Dst) (a : Src) (m : Rm) (s : State) : Host.Outcome State Fault Refusal :=
  float1 (.vcvtI32F32 d a m) d a (fun x => ((BitVec.ofInt 32 (ftoInt F32 m x).1).toNat, (ftoInt F32 m x).2)) s
/-- 10 R199. -/
def execVcvtF16F32 (d : Dst) (a : Src) (m : Rm) (s : State) : Host.Outcome State Fault Refusal := float1 (.vcvtF16F32 d a m) d a (fcvt F32 F16 m) s
/-- 10 R199. -/
def execVcvtBf16F32 (d : Dst) (a : Src) (m : Rm) (s : State) : Host.Outcome State Fault Refusal := float1 (.vcvtBf16F32 d a m) d a (fcvt F32 BF16 m) s
/-- 10 R199. -/
def execVcvtF32F16 (d : Dst) (a : Src) (s : State) : Host.Outcome State Fault Refusal :=
  floatOp (.vcvtF32F16 d a) d (fun _ g l => fcvt F16 F32 .rne ((g.warp.srcHalves F16 a l).toNat % 65536)) s
/-- 10 R199. -/
def execVcvtF32Bf16 (d : Dst) (a : Src) (s : State) : Host.Outcome State Fault Refusal :=
  floatOp (.vcvtF32Bf16 d a) d (fun _ g l => fcvt BF16 F32 .rne ((g.warp.srcHalves BF16 a l).toNat % 65536)) s
/-- 10 R200. -/
def execVpackH2 (d : Dst) (a b : Src) (m : Rm) (s : State) : Host.Outcome State Fault Refusal :=
  float2 (.vpackH2 d a b m) d a b (fun x y => halves (fcvt F32 F16 m x) (fcvt F32 F16 m y)) s
/-- 10 R200. -/
def execVpackB2 (d : Dst) (a b : Src) (m : Rm) (s : State) : Host.Outcome State Fault Refusal :=
  float2 (.vpackB2 d a b m) d a b (fun x y => halves (fcvt F32 BF16 m x) (fcvt F32 BF16 m y)) s
/-- 10 R200. -/
def execVpackI16 (d : Dst) (a b : Src) (s : State) : Host.Outcome State Fault Refusal :=
  int2 (.vpackI16 d a b) d a b (fun x y =>
    BitVec.ofInt 32 (satInt x.toInt (-32768) 32767 % 65536 + 65536 * (satInt y.toInt (-32768) 32767 % 65536))) s

/-- Element i mod (32 / w) of a word (10 R201). -/
def element (w : Nat) (x y : Word) : Nat := x.toNat / 2 ^ (w * (y.toNat % (32 / w))) % 2 ^ w

/-- VUNPK by its suffix (10 R201). -/
def unpack (u : Fin 8) (x y : Word) : Nat × Exc :=
  match u with
  | 0 => ((BitVec.ofInt 32 (sextNat (element 8 x y) 8)).toNat, Exc.none)
  | 1 => (element 8 x y, Exc.none)
  | 2 => ((BitVec.ofInt 32 (sextNat (element 4 x y) 4)).toNat, Exc.none)
  | 3 => (element 4 x y, Exc.none)
  | 4 => ((BitVec.ofInt 32 (sextNat (element 16 x y) 16)).toNat, Exc.none)
  | 5 => (element 16 x y, Exc.none)
  | 6 => fcvt F16 F32 .rne (element 16 x y)
  | 7 => fcvt BF16 F32 .rne (element 16 x y)

/-- 10 R201. -/
def execVunpk (d : Dst) (a b : Src) (u : Fin 8) (s : State) : Host.Outcome State Fault Refusal :=
  floatOp (.vunpk d a b u) d (fun _ g l => unpack u (g.warp.src a l) (g.warp.src b l)) s

/-- 10 R202. -/
def execVqnt (d : Dst) (a : Src) (k : Fin 128) (s : State) : Host.Outcome State Fault Refusal :=
  let i := Instr.vqnt d a k
  issueOperand i s true (fun m _ => decide ((m.imm k).toNat < 2 ∨ 8 < (m.imm k).toNat)) fun m g =>
    let q := bfpQuantise (m.imm k).toNat ((List.finRange 32).map fun j => if g.active j then (g.warp.srcF32 a j).toNat else 0)
    m.unlessFloat g i (fun _ => q.2.2)
      (m.retire g i ((g.warp.begin i.uses).writeVec g.active d fun l =>
        BitVec.ofInt 32 (q.1 * 2 ^ 24 + (q.2.1.getD l.val 0) % 256)))

/-- 10 R202. -/
def execVdqnt (d : Dst) (a : Src) (k : Fin 128) (s : State) : Host.Outcome State Fault Refusal :=
  let i := Instr.vdqnt d a k
  issueOperand i s true (fun m _ => decide ((m.imm k).toNat < 2 ∨ 8 < (m.imm k).toNat)) fun m g =>
    let w := (m.imm k).toNat
    m.retire g i ((g.warp.begin i.uses).writeVec g.active d fun l =>
      let x := (g.warp.src a l).toNat
      BitVec.ofNat 32 (F32.pattern (bfpVal w (x / 2 ^ 24) (sextNat x w))))

/-- 10 R203. -/
def execVmov (d : Dst) (a : Src) (s : State) : Host.Outcome State Fault Refusal := int1 (.vmov d a) d a id s
/-- 10 R203. -/
def execVmovk (d : Dst) (i : Fin 128) (s : State) : Host.Outcome State Fault Refusal := lanesOp (.vmovk d i) d (fun m _ _ => m.imm i) s

/-! The 16-bit forms (07 R102). -/

/-- 07 R102. -/
def execVaddShort (d : Fin 64) (c : Fin 32) (s : State) : Host.Outcome State Fault Refusal :=
  int2 (.vaddShort d c) ⟨false, d⟩ (.v d) (shortSrc c) (· + ·) s
/-- 07 R102. -/
def execVsubShort (d : Fin 64) (c : Fin 32) (s : State) : Host.Outcome State Fault Refusal :=
  int2 (.vsubShort d c) ⟨false, d⟩ (.v d) (shortSrc c) (· - ·) s
/-- 07 R102. -/
def execVandShort (d : Fin 64) (c : Fin 32) (s : State) : Host.Outcome State Fault Refusal :=
  int2 (.vandShort d c) ⟨false, d⟩ (.v d) (shortSrc c) (· &&& ·) s
/-- 07 R102. -/
def execVorShort (d : Fin 64) (c : Fin 32) (s : State) : Host.Outcome State Fault Refusal :=
  int2 (.vorShort d c) ⟨false, d⟩ (.v d) (shortSrc c) (· ||| ·) s
/-- 07 R102. -/
def execVxorShort (d : Fin 64) (c : Fin 32) (s : State) : Host.Outcome State Fault Refusal :=
  int2 (.vxorShort d c) ⟨false, d⟩ (.v d) (shortSrc c) (· ^^^ ·) s
/-- 07 R102. -/
def execVshlShort (d : Fin 64) (c : Fin 32) (s : State) : Host.Outcome State Fault Refusal :=
  int2 (.vshlShort d c) ⟨false, d⟩ (.v d) (shortSrc c) shl s
/-- 07 R102. -/
def execVsrlShort (d : Fin 64) (c : Fin 32) (s : State) : Host.Outcome State Fault Refusal :=
  int2 (.vsrlShort d c) ⟨false, d⟩ (.v d) (shortSrc c) srl s
/-- 07 R102. -/
def execVsraShort (d : Fin 64) (c : Fin 32) (s : State) : Host.Outcome State Fault Refusal :=
  int2 (.vsraShort d c) ⟨false, d⟩ (.v d) (shortSrc c) sra s
/-- 07 R102. -/
def execVminShort (d : Fin 64) (c : Fin 32) (s : State) : Host.Outcome State Fault Refusal :=
  int2 (.vminShort d c) ⟨false, d⟩ (.v d) (shortSrc c) smin s
/-- 07 R102. -/
def execVmaxShort (d : Fin 64) (c : Fin 32) (s : State) : Host.Outcome State Fault Refusal :=
  int2 (.vmaxShort d c) ⟨false, d⟩ (.v d) (shortSrc c) smax s
/-- 07 R102. -/
def execVfaddShort (d : Fin 64) (c : Fin 32) (s : State) : Host.Outcome State Fault Refusal :=
  float2 (.vfaddShort d c) ⟨false, d⟩ (.v d) (shortSrc c) (fadd F32 .rne) s
/-- 07 R102. -/
def execVfsubShort (d : Fin 64) (c : Fin 32) (s : State) : Host.Outcome State Fault Refusal :=
  float2 (.vfsubShort d c) ⟨false, d⟩ (.v d) (shortSrc c) (fsub F32 .rne) s
/-- 07 R102. -/
def execVfmulShort (d : Fin 64) (c : Fin 32) (s : State) : Host.Outcome State Fault Refusal :=
  float2 (.vfmulShort d c) ⟨false, d⟩ (.v d) (shortSrc c) (fmul F32 .rne) s
/-- 07 R102. -/
def execVmovShort (d : Fin 64) (c : Fin 32) (s : State) : Host.Outcome State Fault Refusal := int1 (.vmovShort d c) ⟨false, d⟩ (shortSrc c) id s
/-- 07 R102: the immediate is the field src as five signed bits. -/
def execVaddi (d : Fin 64) (i : Fin 32) (s : State) : Host.Outcome State Fault Refusal :=
  int1 (.vaddi d i) ⟨false, d⟩ (.v d) (· + BitVec.ofInt 32 (sextNat i.val 5)) s
/-- 07 R102. -/
def execVneg (d : Fin 64) (c : Fin 32) (s : State) : Host.Outcome State Fault Refusal := int1 (.vneg d c) ⟨false, d⟩ (shortSrc c) (0 - ·) s

end Sys2Proof.Machine
end

