-- ==== Sys2Proof/Machine/Control.lean ====
section
/-! DEFINITION. The control instructions (spec 09 R163 to R175, 03 R47 to R53, R58, R62). -/

namespace Sys2Proof.Machine

/-! ### Targets -/

/-- PC + 2 * sext(OFF, 16) (09 R163). -/
def relTarget (pc : Nat) (o : BitVec 16) : Nat := (((pc : Int) + 2 * o.toInt) % 2 ^ 48).toNat

/-- The gang moved to an address; an odd one traps (07 R100). -/
def Mach.jumpTo (m : Mach) (g : Issue) (i : Instr) (x : Warp) (pc : Nat) : Mach :=
  if pc % 2 = 1 then m.illegal g i .oddTarget else m.retireTo g i x pc

/-! ### Parting (03 R48 to R50, 09 R165, R166) -/

/-- What one slice does: where it goes, whether that transfers control, its EXEC and its stack. -/
structure Outcome where
  pc : Nat
  moves : Bool
  exec : BitVec 4
  stack : List DivEntry
deriving DecidableEq, Repr

/-- The active lanes of slice j, four bits. -/
def Issue.sliceActive (g : Issue) (j : Fin 8) : BitVec 4 := BitVec.ofNat 4 (g.warp.exec.toNat / 2 ^ (4 * j.val))

/-- Divergence-stack depth and sub-gang capacity of a partition (03 R42). -/
def Mach.stackDepth (m : Mach) (g : Issue) : Nat := if m.compact g.team.part then 4 else 8
def Mach.gangLimit (m : Mach) (g : Issue) : Nat := if m.compact g.team.part then 4 else 8

/-- The slices of the issuing gang, ascending. -/
def Issue.slices (g : Issue) : List (Fin 8) := (List.finRange 8).filter fun j => g.gang.getLsbD j.val

/-- The lowest slice of the gang whose outcome is that of slice j: its new gang. -/
def Issue.newGang (g : Issue) (o : Fin 8 → Outcome) (j : Fin 8) : Nat :=
  ((g.slices.find? fun k => decide ((o k).pc = (o j).pc) && decide ((o k).moves = (o j).moves)).map (·.val)).getD j.val

/-- The gangs of the warp after the grouping (03 R49). -/
def Issue.gangCount (g : Issue) (o : Fin 8 → Outcome) : Nat :=
  (((List.finRange 8).filter fun j => g.live.getLsbD j.val).map fun j =>
    if g.gang.getLsbD j.val then g.newGang o j else (g.warp.slices.at j).gang).eraseDups.length

/-- EXEC with the slices of the gang replaced. -/
def Issue.mergeExec (g : Issue) (o : Fin 8 → Outcome) : BitVec 32 :=
  laneMask fun l => if g.gang.getLsbD (l.val / 4) then (o (sliceOf l)).exec.getLsbD (l.val % 4) else g.warp.exec.getLsbD l.val

/-- The slices of the gang take their outcomes; those that do not transfer control reach the loop end once (09 R170). -/
def Mach.part (m : Mach) (g : Issue) (i : Instr) (x : Warp) (o : Fin 8 → Outcome) : Mach :=
  let y := x.settle i.uses (m.trapPc g) g.gang
  let falls := g.slices.find? fun j => !(o j).moves
  let (q, z) := match falls with
    | some j => y.afterEnd (o j).pc
    | none => (0, y)
  let slices := tab fun j =>
    if g.gang.getLsbD j.val then
      { z.slices.at j with pc := (if (o j).moves then (o j).pc else q) % 2 ^ 48, stack := (o j).stack, gang := g.newGang o j }
    else z.slices.at j
  { m.setWarp g { z with slices := slices, exec := g.mergeExec o } with unit := none }

/-- A branch or switch: sub-gang capacity first, then the stack depth (03 R49, R50, 09 R165). -/
def Mach.branch (m : Mach) (g : Issue) (i : Instr) (o : Fin 8 → Outcome) : Mach :=
  if m.gangLimit g < g.gangCount o then m.trap g i (TrapRec.of 0x24)
  else if g.slices.any fun j => decide (m.stackDepth g < (o j).stack.length) then m.trap g i (TrapRec.of 0x23)
  else m.part g i (g.warp.begin i.uses) o

/-- A slice that goes on at `pc` with its EXEC and stack as they are. -/
def Issue.keep (g : Issue) (j : Fin 8) (pc : Nat) (moves : Bool) : Outcome :=
  { pc := pc, moves := moves, exec := BitVec.ofNat 4 (g.warp.exec.toNat / 2 ^ (4 * j.val)), stack := (g.warp.slices.at j).stack }

/-- The lowest lane of a set of four, as a mask. -/
def lowestBit (a : BitVec 4) : BitVec 4 := a &&& (-a)

/-- BRC and BRC.N in one slice (09 R165): T are the active lanes whose CM is `want`. -/
def Issue.brcSlice (g : Issue) (o : BitVec 16) (size : Nat) (want : Bool) (j : Fin 8) : Outcome :=
  let a := g.sliceActive j
  let cm := BitVec.ofNat 4 (g.warp.cm.toNat / 2 ^ (4 * j.val))
  let t := a &&& (if want then cm else ~~~cm)
  let f := a &&& ~~~t
  let target := relTarget g.pc o
  let next := g.pc + size
  let stack := (g.warp.slices.at j).stack
  if t = 0 then g.keep j next false
  else if f = 0 then g.keep j target true
  else if lowestBit a &&& t = 0 then
    { pc := next, moves := false, exec := f, stack := { kind := .pending, pc := target, mask := t, outer := a } :: stack }
  else { pc := target, moves := true, exec := t, stack := { kind := .pending, pc := next % 2 ^ 48, mask := f, outer := a } :: stack }

/-- A lane's outcome at a SWITCH (09 R166): the target of the lowest matching case, else what follows the case words. -/
def switchOutcome (pc size : Nat) (cs : List SwCase) (x : Word) : Nat × Bool :=
  match cs.find? fun c => decide (c.v.val = x.toNat) with
  | some c => ((((pc : Int) + 2 * c.off.toInt) % 2 ^ 48).toNat, true)
  | none => (pc + size, false)

/-- The lanes of slice j, lowest first. -/
def lanesOf (j : Fin 8) : List (Fin 32) := (List.finRange 32).filter fun l => sliceOf l = j

/-- A set of lanes of one slice as four bits. -/
def bits4 (l : List (Fin 32)) : BitVec 4 := BitVec.ofNat 4 ((l.map fun x => 2 ^ (x.val % 4)).sum)

/-- SWITCH in one slice (09 R166): its lowest active lane's outcome; the others are pushed, the next-lowest on top. Two cases with one
target are one outcome (DESIGN CHOICE: assumption log 92). -/
def Issue.switchSlice (g : Issue) (d : Fin 64) (cs : List SwCase) (size : Nat) (j : Fin 8) : Outcome :=
  let ls := (lanesOf j).filter g.active
  let out := fun l => switchOutcome g.pc size cs (g.warp.src (.v d) l)
  match ls with
  | [] => g.keep j (g.pc + size) false
  | l0 :: _ =>
    let others : List (Nat × Bool) := (ls.map out).filter (· ≠ out l0)
    let firsts := (ls.filter fun l => out l ≠ out l0 ∧ (ls.find? fun k => decide (out k = out l)) = some l)
    let entries := firsts.map fun l =>
      { kind := DivKind.pending, pc := (out l).1 % 2 ^ 48, mask := bits4 (ls.filter fun k => out k = out l), outer := bits4 ls : DivEntry }
    { pc := (out l0).1, moves := (out l0).2, exec := if others.isEmpty then bits4 ls else bits4 (ls.filter fun k => out k = out l0),
      stack := entries ++ (g.warp.slices.at j).stack }

/-! ### Branches, jumps and calls -/

/-- 09 R164; inside a region only a forward target (03 R55). -/
def execBra (o : BitVec 16) (s : State) : Host.Outcome State Fault Refusal :=
  issue (.bra o) s fun m g =>
    if g.warp.meld.isSome && decide (o.toInt ≤ 0) then m.illegal g (.bra o) .meld
    else m.retireTo g (.bra o) (g.warp.begin (Instr.bra o).uses) (relTarget g.pc o)
/-- 09 R165. -/
def execBrc (o : BitVec 16) (s : State) : Host.Outcome State Fault Refusal :=
  issue (.brc o) s fun m g => m.branch g (.brc o) (g.brcSlice o 4 true)
/-- 09 R165. -/
def execBrcN (o : BitVec 16) (s : State) : Host.Outcome State Fault Refusal :=
  issue (.brcN o) s fun m g => m.branch g (.brcN o) (g.brcSlice o 4 false)
/-- 09 R166. -/
def execSwitch (d : Fin 64) (cs : List SwCase) (s : State) : Host.Outcome State Fault Refusal :=
  issue (.switch d cs) s fun m g => m.branch g (.switch d cs) (g.switchSlice d cs (Instr.switch d cs).size)
/-- 09 R167. -/
def execJmp (x : Fin 32) (s : State) : Host.Outcome State Fault Refusal :=
  issue (.jmp x) s fun m g => m.jumpTo g (.jmp x) (g.warp.begin (Instr.jmp x).uses) (g.warp.pair (.s x) % 2 ^ 48)
/-- 09 R168. -/
def execCall (o : BitVec 16) (x : Fin 32) (s : State) : Host.Outcome State Fault Refusal :=
  issue (.call o x) s fun m g =>
    m.retireTo g (.call o x) ((g.warp.begin (Instr.call o x).uses).setPair x ((g.pc + 4) % 2 ^ 48)) (relTarget g.pc o)
/-- 09 R168. -/
def execRet (x : Fin 32) (s : State) : Host.Outcome State Fault Refusal :=
  issue (.ret x) s fun m g => m.jumpTo g (.ret x) (g.warp.begin (Instr.ret x).uses) (g.warp.pair (.s x) % 2 ^ 48)

/-! ### Hardware loops (09 R169 to R171) -/

/-- 09 R169. A LOOP that enters its body transfers no control, so that a loop end at its next instruction applies (09 R170); one of
count 0 goes to the end. -/
def execLoop (o : BitVec 16) (x : Fin 32) (l : Fin 3) (s : State) : Host.Outcome State Fault Refusal :=
  let i := Instr.loop o x l
  issue i s fun m g =>
    let n := g.warp.s.at x
    let y := { g.warp.begin i.uses with
      ls := g.warp.ls.put l ((g.pc + 4) % 2 ^ 48), le := g.warp.le.put l (relTarget g.pc o), lc := g.warp.lc.put l n }
    if n = 0 then m.retireTo g i y (relTarget g.pc o) else m.retire g i y

/-- 09 R171. -/
def execLbrk (x : Fin 32) (s : State) : Host.Outcome State Fault Refusal :=
  let i := Instr.lbrk x
  issue i s fun m g =>
    let l : Fin 3 := ⟨x.val % 3, by omega⟩
    if g.warp.lc.at l = 0 then m.badOperand g i
    else
      let y := { g.warp.begin i.uses with
        lc := tab fun k => if g.warp.lc.at k ≠ 0 ∧ g.warp.ls.at l ≤ g.warp.ls.at k ∧ g.warp.ls.at k < g.warp.le.at l then 0 else g.warp.lc.at k }
      m.retireTo g i y (g.warp.le.at l)

/-! ### Rejoining (03 R50 to R52) -/

/-- REGANG taken by a slice with a stack: where it goes, or none if it takes part in the rejoin; its EXEC and its stack. -/
def regangStack (exec : BitVec 4) : List DivEntry → Option Nat × BitVec 4 × List DivEntry
  | [] => (none, exec, [])
  | e :: t =>
    match e.kind with
    | .pending => (some e.pc, e.mask, { e with kind := .join } :: t)
    | .join => regangStack e.outer t

/-- REGANG in slice j: pending slices move to the second side, the others stay for the rejoin. -/
def Issue.regang (g : Issue) (j : Fin 8) : Option Nat × BitVec 4 × List DivEntry :=
  regangStack (BitVec.ofNat 4 (g.warp.exec.toNat / 2 ^ (4 * j.val))) (g.warp.slices.at j).stack

/-- The outcomes of a REGANG: slices that rejoin stay at the instruction, apart from those that move to a second side. -/
def Issue.regangOut (g : Issue) (j : Fin 8) : Outcome :=
  let r := g.regang j
  { pc := r.1.getD g.pc, moves := r.1.isSome, exec := r.2.1, stack := r.2.2 }

/-- The warp after every slice of the gang has taken its stack. Slices that move to different second sides part without a test of the
sub-gang capacity, which 03 R49 names for a branch or switch alone (DESIGN CHOICE: assumption log 71). -/
def Issue.regangWarp (g : Issue) (m : Mach) (i : Instr) : Warp :=
  let y := (g.warp.begin i.uses).settle i.uses (m.trapPc g) g.gang
  { y with
    exec := g.mergeExec g.regangOut
    slices := tab fun j =>
      if g.gang.getLsbD j.val then
        { y.slices.at j with pc := (g.regangOut j).pc % 2 ^ 48, stack := (g.regangOut j).stack, gang := g.newGang g.regangOut j }
      else y.slices.at j }

/-- The lowest slice of the gang of slice `j` among the slices not taken away. -/
def Warp.leadWithout (x : Warp) (away : Fin 8 → Bool) (j : Fin 8) : Nat :=
  (((List.finRange 8).find? fun k => !away k && decide ((x.slices.at k).gang = (x.slices.at j).gang)).map (·.val)).getD j.val

/-- Slices formed into one gang that goes on at `q`, by way of the loop end (09 R170). -/
def Warp.gather (x : Warp) (on : Fin 8 → Bool) (q : Nat) : Warp :=
  let r := x.afterEnd q
  let lead := (((List.finRange 8).find? on).map (·.val)).getD 0
  { r.2 with
    slices := tab fun j =>
      if on j then { r.2.slices.at j with pc := r.1 % 2 ^ 48, gang := lead, wait := .none }
      else { r.2.slices.at j with gang := x.leadWithout on j } }

/-- 03 R51: a slice waits until every live slice waits at a REGANG.W with the same PC. -/
def execRegangW (s : State) : Host.Outcome State Fault Refusal :=
  issue .regangW s fun m g =>
    let y := g.regangWarp m .regangW
    let joins := fun j : Fin 8 => g.gang.getLsbD j.val && (g.regang j).1.isNone
    let z := { y with slices := tab fun j => if joins j then { y.slices.at j with wait := .regang } else y.slices.at j }
    let live := fun j : Fin 8 => g.live.getLsbD j.val
    let all := (List.finRange 8).all fun j =>
      !live j || (decide ((z.slices.at j).wait = .regang) && decide ((z.slices.at j).pc = g.pc % 2 ^ 48))
    { m.setWarp g (if all then z.gather live (g.pc + 4) else z) with unit := none }

/-- 03 R51, 09 R172: merges the issuing slices and the slices at the same PC whose stack is empty. -/
def execRegangN (s : State) : Host.Outcome State Fault Refusal :=
  issue .regangN s fun m g =>
    let y := g.regangWarp m .regangN
    let joins := fun j : Fin 8 =>
      if g.gang.getLsbD j.val then (g.regang j).1.isNone
      else g.live.getLsbD j.val && decide ((y.slices.at j).pc = g.pc % 2 ^ 48) && (y.slices.at j).stack.isEmpty &&
        decide ((y.slices.at j).wait = .none)
    let rejoins := g.slices.any fun j => (g.regang j).1.isNone
    { m.setWarp g (if rejoins then y.gather joins (g.pc + 4) else y) with unit := none }

/-! ### Exit, no-op and yield (03 R58, R62; 09 R173 to R175) -/

/-- The warp is converged: one gang, every stack empty, no region open (03 R58). -/
def Issue.converged (g : Issue) : Bool :=
  g.ganged && g.warp.meld.isNone && (List.finRange 8).all fun j => !g.live.getLsbD j.val || (g.warp.slices.at j).stack.isEmpty

/-- Whether an incomplete engine operation of a team names one of its rings or frames (19 R344). -/
def Mach.teamBusy (m : Mach) (t : Nat) : Bool :=
  m.ops.any fun o => decide (o.phase ≠ .ended) && o.team == t &&
    ((o.in0 :: o.in1 :: o.outs).any fun h => decide (h < 16) || (h == 0xF000 && o.spa.2) || (h == 0xF001 && o.spb.2) || (h == 0xF002 && o.spc.2))

/-- A team ends when all its warps have exited and no engine operation uses its rings or frames (03 R58, 19 R344). A handler that ends without writing TRESUME stops its context
(21 R368). -/
def Mach.teamEnd (m : Mach) (t : Nat) : Mach :=
  match m.teams[t]? with
  | none => m
  | some x =>
    if (x.warps.all fun w => decide (w.run = .exited)) && m.teamBusy t then m
    else if x.warps.all fun w => decide (w.run = .exited) then
      let m1 := m.modTeam t fun y => { y with phase := .exited, scratch := [], shapes := tab fun _ => none, rings := tab fun _ => none }
      if x.served.isSome && !x.resumed then m1.stopContext x.ctx 0x53 none .stopped else m1
    else if x.warps.all fun w => decide (w.run = .exited) || decide (w.run = .saved) then
      m.modTeam t fun y => { y with phase := .saved, backing := y.die }
    else m

/-- 03 R58, 09 R173: waits until IFS, IFG and IFT read 0. -/
def execExit (s : State) : Host.Outcome State Fault Refusal :=
  issue .exit s fun m g =>
    if !g.converged then m.trap g .exit (TrapRec.of 0x25)
    else if g.warp.ifs + g.warp.ifg + g.warp.ift = 0 ∧ g.warp.flight = [] then
      ({ m.setWarp g { (g.warp.begin Instr.exit.uses).drainMma with run := .exited, chain := none } with unit := none }).teamEnd g.t
    else m.stall g

/-- 09 R175. -/
def execNop (s : State) : Host.Outcome State Fault Refusal := issue .nop s fun m g => m.retire g .nop (g.warp.begin Instr.nop.uses)

/-- A warp saved at an instruction boundary (03 R62 to R64): a handler saved before it has written TRESUME stops its context
(21 R368). -/
def Mach.saveWarp (m : Mach) (t w : Nat) : Mach :=
  let m1 := (m.modWarp t w fun x => { x.drainMma.noLatch with
    run := .saved, chain := none, aged := 0
    slices := tab fun j => if (x.slices.at j).wait = .yield then { x.slices.at j with wait := .none } else x.slices.at j }).teamEnd t
  match m.teams[t]? with
  | some x => if x.served.isSome && !x.resumed then m1.stopContext x.ctx 0x53 none .stopped else m1
  | none => m1

/-- 03 R62: saves the warp at the next instruction while PREQ is set; a parted warp saves when every live slice has reached a
YIELD. A warp of one gang saves at once, whether or not its divergence stacks are empty (DESIGN CHOICE: assumption log 72). -/
def execYield (s : State) : Host.Outcome State Fault Refusal :=
  issue .yield s fun m g =>
    let m1 := m.retire g .yield (g.warp.begin Instr.yield.uses)
    if !g.warp.preq then m1
    else if g.ganged then m1.saveWarp g.t g.w
    else
      let m2 := m1.modWarp g.t g.w fun x => { x with
        slices := tab fun j => if g.gang.getLsbD j.val then { x.slices.at j with wait := .yield } else x.slices.at j }
      let all := (List.finRange 8).all fun j =>
        !g.live.getLsbD j.val || g.gang.getLsbD j.val || decide ((g.warp.slices.at j).wait = .yield)
      if all then m2.saveWarp g.t g.w else m2

end Sys2Proof.Machine
end

