-- ==== Sys2Proof/Machine/System.lean ====
section
/-! DEFINITION. The system instructions, LIMM and undecodable words (spec 09 R178 to R184, 07 R111, R121; 21 R367, R368). -/

namespace Sys2Proof.Machine

/-- The program counter at which the lead slice of the issue stands. -/
def Mach.pcNow (m : Mach) (g : Issue) : Nat :=
  match m.warp? g.t g.w, g.slices with
  | some x, j :: _ => (x.slices.at j).pc
  | _, _ => g.pc + 4

/-- 09 R178: the instruction retires and the trap is taken after it (21 R361). -/
def execTrap (a : Src) (s : State) : Host.Outcome State Fault Refusal :=
  let i := Instr.trap a
  issue i s fun m g =>
    let m1 := m.retire g i (g.warp.begin i.uses)
    let next := m1.pcNow g
    m1.takeEvent g.t g.w g.gang next next none false false
      { TrapRec.of 0x27 with pc := m.trapPc g, rpc := next, iword := i.word, tcode := (g.warp.one a).toNat % 65536 }

/-- 09 R179: a debugger halt while a debugger is attached, else a breakpoint trap. -/
def execBkpt (s : State) : Host.Outcome State Fault Refusal :=
  let i := Instr.bkpt
  issue i s fun m g =>
    let m1 := m.retire g i (g.warp.begin i.uses)
    let next := m1.pcNow g
    let r : TrapRec := { TrapRec.of 0x28 with pc := m.trapPc g, rpc := next, iword := i.word }
    if g.ctx.debugger then
      let own : TrapRec := ({ r with cause := 0x50, cls := 4, pend := g.warp.pendBits false } : TrapRec).at g.team g.w g.core
      m1.stopBy g.team.ctx 0x50 (some own) (some (.warp g.t g.w own 0)) [] .debugger
    else m1.takeEvent g.t g.w g.gang next next none false false r

/-- PKGCFG: DLIVE in [3:0], DMASK in [11:4], FORM in [15:12], OPTN 4 in [19:16], STEP in [27:20] (01 R31). -/
def Fuse.pkgcfg (f : Fuse) : Word :=
  BitVec.ofNat 32 (f.form.dies + f.dmask.toNat * 2 ^ 4 +
    (match f.form with | .p512 => 0 | .m512 => 1 | .m384 => 2) * 2 ^ 12 + 4 * 2 ^ 16 + f.step.toNat * 2 ^ 20)

/-- The record that a handler warp serves, with its address (21 R367). -/
def Team.record (x : Team) : Option (TrapRec × Nat) :=
  x.served.map fun s => match s with | .warp _ _ r va => (r, va) | .engine _ r va => (r, va)

/-- The index of a team's die share (03 R35): the place of its die in the die set. -/
def Team.dshare (x : Team) : Nat := (x.dies.findIdx? (· = x.die)).getD 0

/-- The value of special register `n` for a lane (09 R182, 03 R36, R38, R57, R62; 05 R88; 21 R367; 23 R387). -/
def sysValue (f : Fuse) (m : Mach) (g : Issue) (n : Nat) (l : Fin 32) : Word :=
  let t := g.team
  match n with
  | 0 => BitVec.ofNat 32 l.val
  | 1 => BitVec.ofNat 32 g.w
  | 2 => BitVec.ofNat 32 t.teamw
  | 3 => BitVec.ofNat 32 t.x
  | 4 => BitVec.ofNat 32 t.y
  | 5 => BitVec.ofNat 32 t.z
  | 6 => BitVec.ofNat 32 t.gx
  | 7 => BitVec.ofNat 32 t.gy
  | 8 => BitVec.ofNat 32 t.gz
  | 9 => BitVec.ofNat 32 t.die
  | 10 => BitVec.ofNat 32 t.dien
  | 11 => BitVec.ofNat 32 t.dshare
  | 12 => f.pkgcfg
  | 13 => BitVec.ofNat 32 t.args
  | 14 => BitVec.ofNat 32 (t.args / 2 ^ 32 % 2 ^ 16)
  | 15 => BitVec.ofNat 32 t.argsz
  | 16 => BitVec.ofNat 32 g.warp.part.toNat
  | 17 => g.warp.ften
  | 18 => BitVec.ofNat 32 g.warp.preq.toNat
  | 19 => BitVec.ofNat 32 (if g.warp.preq then g.warp.ycnt else g.ctx.y)
  | 24 => BitVec.ofNat 32 (match t.record with | some r => r.1.image % 2 ^ 24 | none => 0)
  | 25 => BitVec.ofNat 32 (match t.record with | some r => r.1.skid % 256 | none => 0)
  | 26 => BitVec.ofNat 32 (match t.record with | some r => r.2 | none => 0)
  | 27 => BitVec.ofNat 32 (match t.record with | some r => r.2 / 2 ^ 32 % 2 ^ 16 | none => 0)
  | 28 => 0
  | _ => if h : 64 ≤ n ∧ n < 80 then m.domCur.at ⟨n - 64, by omega⟩ else 0

/-- 09 R180. -/
def execSysr (n : Fin 128) (d : SysDst) (s : State) : Host.Outcome State Fault Refusal :=
  let i := Instr.sysr n d
  let f := s.fuse
  issue i s fun m g =>
    let x := g.warp.begin i.uses
    m.retire g i (match d with
      | .vec d => x.writeVec g.active d (sysValue f m g n.val)
      | .scal d => x.writeScal d (sysValue f m g n.val 0))

/-- The warp that a handler serves, resumed; its context stopped by action 3 (21 R368). An engine operation met by 0x46 or
0x47 goes on, or ends in error by action 2. -/
def Mach.tresume (m : Mach) (t act : Nat) (pzero : Bool) : Mach :=
  match m.teams[t]? with
  | none => m
  | some x =>
    let m1 := m.modTeam t fun y => { y with resumed := true }
    match x.served, act with
    | none, _ => m
    | some _, 3 => m1.stopBy x.ctx 0x53 (x.record.map (·.1)) x.served [] .stopped
    | some (.warp tt w _ _), a => m1.modWarp tt w fun y => y.resume (a = 2) pzero
    | some (.engine op _ _), a =>
      match (m1.ops[op]?).map EngOp.phase with
      | some (.paused r) => if a = 2 then m1.failOp op r.va else { m1 with ops := m1.ops.modify op EngOp.goOn }
      | _ => m1

/-- SYSW TRESUME (21 R367, R368). -/
def Mach.writeTresume (m : Mach) (g : Issue) (i : Instr) (y : Word) : Mach :=
  match g.team.record with
  | none => m.illegal g i .reservedOperand
  | some r =>
    let act := y.toNat % 4
    let pz := y.getLsbD 2
    if g.team.resumed || decide (act = 0) || decide (8 ≤ y.toNat) || (pz && decide (r.1.cause ≠ 0x26)) then m.illegal g i .reservedOperand
    else (m.retire g i (g.warp.begin i.uses)).tresume g.t act pz

/-- The values that SYSW cannot write to register `n` whatever the state of the machine (03 R57, 05 R88, 21 R367). The reserved bits
of a cache-domain register are ignored (00 R8, 23 R387). -/
def sysReserved (n : Nat) (v : Word) : Bool :=
  match n with
  | 16 => decide (5 ≤ v.toNat)
  | 17 => decide (32 ≤ v.toNat)
  | 28 => decide (8 ≤ v.toNat) || decide (v.toNat % 4 = 0)
  | _ => false

/-- Whether a SYSW of register `n` lacks the grant of its partition; one whose switch has ended retires all the same (23 R389). -/
def Mach.noGrant (m : Mach) (g : Issue) (n : Nat) : Bool :=
  decide (64 ≤ n) && decide (m.grant ≠ g.team.part) && !m.switched.contains m.turn

/-- Whether a SYSW writes a value that its register does not take, whoever writes it: a value of PART or FTEN, or an APPLY that fails its
checks, which a warp without privilege or grant takes as the trap of the value (07 R121, 23 R389). -/
def Mach.badSysw (m : Mach) (g : Issue) (n : Fin 128) (v : Word) : Bool :=
  if n.val = 28 then g.team.super && sysReserved 28 v
  else if n.val < 64 then sysReserved n.val v
  else (!g.team.super || m.noGrant g n.val) && m.failsApply ⟨(n.val - 64) % 16, by omega⟩ v

/-- SYSW of register `n` (09 R181, R182): the privilege of the register and the grant of its partition are tested at issue. `y` is the
value, `imm` says that it is an immediate. -/
def sysWrite (i : Instr) (n : Fin 128) (imm : Bool) (y : Mach → Issue → Word) (s : State) : Host.Outcome State Fault Refusal :=
  withIssuer s fun m g => .next
    (m.issueChecked g i { i.uses with denied := m.noGrant g n.val } imm (m.badSysw g n (y m g)) fun m =>
      let v := y m g
      let x := g.warp.begin i.uses
      match n.val with
      | 16 => m.retire g i { x with part := BitVec.ofNat 16 v.toNat }
      | 17 => m.retire g i { x with ften := v }
      | 28 => m.writeTresume g i v
      | k =>
        match m.writeDomain g.pc ⟨(k - 64) % 16, by omega⟩ v with
        | .refuse => m.badOperand g i
        | .done m' => m'.retire g i x
        | .waits m' => m')

/-- 09 R181. -/
def execSysw (n : Fin 128) (b : Src) (s : State) : Host.Outcome State Fault Refusal := sysWrite (.sysw n b) n false (fun _ g => g.warp.one b) s
/-- 09 R181. -/
def execSyswImm (n k : Fin 128) (s : State) : Host.Outcome State Fault Refusal := sysWrite (.syswImm n k) n true (fun m _ => m.imm k) s

/-- 09 R183: the loop buffer of the warp's cluster and the core's held instruction lines are dropped, after the warp's own stores
have been performed. -/
def execIlbf (s : State) : Host.Outcome State Fault Refusal :=
  issueLast .ilbf s fun m g =>
    (m.modCore g.team.die g.core fun x =>
      { x with icache := Copies.empty, loops := x.loops.put g.warp.cluster [] }).retire g .ilbf (g.warp.begin Instr.ilbf.uses)

/-- The opcode points of the immediate form (07 R124 to R137), by class and funct6. -/
def immediatePoint (w : Nat) : Bool :=
  let f := w / 2 ^ 5 % 64
  w % 2 == 1 &&
    match w / 2 % 16 with
    | 0 => f == 32 || f == 34 || (decide (38 ≤ f) && decide (f ≤ 47)) || f == 53 || f == 54
    | 3 => f == 40 || f == 41 || f == 49
    | 4 => (decide (36 ≤ f) && decide (f ≤ 40)) || f == 44
    | 5 => f == 32 || f == 34 || (decide (41 ≤ f) && decide (f ≤ 46)) || (decide (52 ≤ f) && decide (f ≤ 54))
    | 7 => f == 18 || f == 52
    | 13 => f == 35
    | _ => false

/-- Whether the follower of a LIMM at `pc` may follow it: an instruction of the immediate form, or one whose fetch faults by
itself (07 R111). -/
def Mach.followerOk (m : Mach) (g : Issue) : Bool :=
  match m.look g.team g.warp (g.pc + 4) with
  | .bytes bs => immediatePoint (wordOf bs)
  | _ => true

/-- 07 R111, 09 R184: the unit goes on with its follower; a follower of another form, or the end of a loop body after the LIMM,
traps here. -/
def execLimm (p : BitVec 25) (s : State) : Host.Outcome State Fault Refusal :=
  let i := Instr.limm p
  issue i s fun m g =>
    if !m.followerOk g || (g.warp.loopEnd (g.pc + 4)).isSome then m.illegal g i .limm
    else { m.retire g i (g.warp.begin i.uses) with unit := some { p := p.toNat, pc := g.pc } }

/-- 07 R121: an undecodable word takes the trap of its cause. Other causes of an illegal instruction come from the meanings. -/
def execIllegalInstruction (c : Illegal) (w : Nat) (s : State) : Host.Outcome State Fault Refusal :=
  withIssuer s fun m g => .next (m.illegal g (.illegalInstruction c w) c)

end Sys2Proof.Machine
end

