-- ==== Sys2Proof/Machine/LoadStore.lean ====
section
/-! DEFINITION. Loads, stores, tensor accesses and prefetches (spec 14 R258 to R270). -/

namespace Sys2Proof.Machine

/-! ### Addresses (14 R258) -/

/-- Base plus sign-extended offset mod 2^64. -/
def Warp.address (x : Warp) (a b : Src) (l : Fin 32) : Nat :=
  (x.widePair a l + ((x.src b l).signExtend 64).toNat) % 2 ^ 64

/-- A scratch address: the sum of two words. -/
def Warp.scratchAddress (x : Warp) (a b : Src) (l : Fin 32) : Nat := (x.src a l + x.src b l).toNat

/-- Bytes of a size code. -/
def sizeOf (z : Nat) : Nat := 2 ^ z

/-- The asks of a vector access, one per active lane. -/
def Issue.asks (g : Issue) (scratch : Bool) (addr : Fin 32 → Nat) (d : Fin 64) (data : Fin 32 → Nat) : List Ask :=
  g.lanes.map fun l =>
    { lane := l.val, scratch := scratch, addr := addr l, reg := (g.warp.name d l).val, data := data l, cmp := 0 }

/-- Any class takes a plain access. -/
def anyClass (_ : Nat) : Bool := true

/-- A plain vector load (14 R262). -/
def loadOp (i : Instr) (scratch signed : Bool) (z : Nat) (d : Fin 64) (a b : Src) (s : State) : Host.Outcome State Fault Refusal :=
  issue i s fun m g =>
    m.shoot g i
      { ctr := if scratch then .ifs else .ifg, act := .load signed, place := .die, size := sizeOf z, scalar := false, kind := .load,
        sup := anyClass }
      (g.asks scratch (if scratch then g.warp.scratchAddress a b else g.warp.address a b) d fun _ => 0) []

/-- A plain vector store (14 R262): the low bytes of its register. -/
def storeOp (i : Instr) (scratch : Bool) (z : Nat) (d : Fin 64) (a b : Src) (s : State) : Host.Outcome State Fault Refusal :=
  issue i s fun m g =>
    m.shoot g i
      { ctr := if scratch then .ifs else .ifg, act := .store, place := .die, size := sizeOf z, scalar := false, kind := .store,
        sup := anyClass }
      (g.asks scratch (if scratch then g.warp.scratchAddress a b else g.warp.address a b) d fun l =>
        g.warp.regs d l (wide z) % 2 ^ (8 * sizeOf z)) []

/-- 14 R262. -/
def execLd (d : Fin 64) (a b : Src) (z : Fin 4) (s : State) : Host.Outcome State Fault Refusal := loadOp (.ld d a b z) false false z.val d a b s
/-- 14 R262. -/
def execLdSigned (d : Fin 64) (a b : Src) (z : Fin 2) (s : State) : Host.Outcome State Fault Refusal := loadOp (.ldSigned d a b z) false true z.val d a b s
/-- 14 R262. -/
def execSt (d : Fin 64) (a b : Src) (z : Fin 4) (s : State) : Host.Outcome State Fault Refusal := storeOp (.st d a b z) false z.val d a b s
/-- 14 R262. -/
def execSpld (d : Fin 64) (a b : Src) (z : Fin 4) (s : State) : Host.Outcome State Fault Refusal := loadOp (.spld d a b z) true false z.val d a b s
/-- 14 R262. -/
def execSpldSigned (d : Fin 64) (a b : Src) (z : Fin 2) (s : State) : Host.Outcome State Fault Refusal := loadOp (.spldSigned d a b z) true true z.val d a b s
/-- 14 R262. -/
def execSpst (d : Fin 64) (a b : Src) (z : Fin 4) (s : State) : Host.Outcome State Fault Refusal := storeOp (.spst d a b z) true z.val d a b s

/-- A scalar scratch access, once per issue (14 R263). -/
def scalarAccess (i : Instr) (store : Bool) (wide : Bool) (d : Fin 32) (a b : Src) (s : State) : Host.Outcome State Fault Refusal :=
  issue i s fun m g =>
    m.shoot g i
      { ctr := .ifs, act := if store then .store else .load false, place := .die, size := if wide then 8 else 4, scalar := true,
        kind := if store then .store else .load, sup := anyClass }
      [{ lane := 0, scratch := true, addr := (g.warp.one a + g.warp.one b).toNat, reg := d.val,
         data := if wide then g.warp.pair (.s d) else (g.warp.s.at d).toNat, cmp := 0 }] []

/-- 14 R263. -/
def execLds (d : Fin 32) (a b : Src) (z : Bool) (s : State) : Host.Outcome State Fault Refusal := scalarAccess (.lds d a b z) false z d a b s
/-- 14 R263. -/
def execSts (d : Fin 32) (a b : Src) (z : Bool) (s : State) : Host.Outcome State Fault Refusal := scalarAccess (.sts d a b z) true z d a b s

/-! ### Shape records (14 R265 to R267) -/

/-- Bytes of an element of a format as tensor access sees it (14 R265). -/
def elementBytes (fmt : Nat) : Nat := if fmt = 0 then 4 else if fmt ≤ 3 then 2 else 1

/-- Bits `lo` to `lo + n - 1` of a number. -/
def field (v lo n : Nat) : Nat := v / 2 ^ lo % 2 ^ n

/-- A record read from its 64 bytes; none if it breaks 14 R265. -/
def Shape.parse (v : Nat) : Option Shape :=
  let rank := field v 49 3
  let fmt := field v 52 4
  let es := elementBytes fmt
  let scratch := field v 48 1 = 1
  let ext := (List.range 7).map fun i => field v (64 + 32 * i) 32
  let pitch := (List.range 7).map fun i => sextNat (field v (288 + 32 * i) 32) 32
  let dims := (List.range 7).all fun i =>
    if i < rank then decide (1 ≤ ext.getD i 0) && decide ((pitch.getD i 0) % (es : Int) = 0)
    else decide (ext.getD i 0 = 0) && decide (pitch.getD i 0 = 0)
  if 1 ≤ rank ∧ field v 56 2 ≤ 1 ∧ field v 58 4 ≤ 7 ∧ (scratch ∨ field v 58 4 = 0) ∧ field v 62 2 = 0 ∧ dims ∧
      field v 0 48 % es = 0 ∧ (¬ scratch ∨ field v 19 29 = 0) then
    some { base := field v 0 48, scratch := scratch, rank := rank, fmt := fmt, fault := field v 56 2 = 1, perm := field v 58 4,
           ext := ext, pitch := pitch }
  else none

/-- 14 R267. -/
def execShpld (h : Fin 32) (a : Src) (s : State) : Host.Outcome State Fault Refusal :=
  let i := Instr.shpld h a
  issueLast i s fun m g =>
    m.withLoad g i (g.warp.pair a) 64 (g.plainly 64) fun m v =>
      match Shape.parse v with
      | none => m.illegal g i .shape
      | some r => (m.modTeam g.t fun x => { x with shapes := x.shapes.put h (some r) }).retire g i (g.warp.begin i.uses)
/-- 14 R267. -/
def execShpinv (h : Fin 32) (s : State) : Host.Outcome State Fault Refusal :=
  let i := Instr.shpinv h
  issueLast i s fun m g => (m.modTeam g.t fun x => { x with shapes := x.shapes.put h none }).retire g i (g.warp.begin i.uses)

/-! ### Tensor access (14 R268, R269) -/

/-- The bank permutation with code p (14 R269). -/
def bankPerm (p a : Nat) : Nat :=
  if p = 0 then a else a - a / 4 % 32 * 4 + ((a / 4 % 32) ^^^ (a / 2 ^ (p + 6) % 32)) * 4

/-- The coordinates of a lane (14 R268). -/
def Warp.coordsOf (x : Warp) (cb : Fin 64) (rk : Fin 7) (l : Fin 32) : List Int :=
  (List.range (rk.val + 1)).map fun i => (x.src (.v (nextV cb i)) l).toInt

/-- Whether every coordinate lies in its extent. -/
def Shape.within (r : Shape) (c : List Int) : Bool :=
  (List.range c.length).all fun i => decide (0 ≤ c.getD i 0) && decide (c.getD i 0 < (r.ext.getD i 0 : Int))

/-- The address of an element, exact (14 R268): one below 0 stands above every address, with the same low bits. -/
def Shape.element (r : Shape) (c : List Int) : Nat :=
  let a : Int := (List.range c.length).foldl (fun s i => s + c.getD i 0 * r.pitch.getD i 0) (r.base : Int)
  let n := if 0 ≤ a then a.toNat else 2 ^ 64 + (a % 2 ^ 64).toNat
  if r.scratch then bankPerm r.perm n else n

/-- TLD and TST (14 R268). Clipped lanes need no access: a load gives them 0. -/
def tensorOp (i : Instr) (store : Bool) (h : Fin 32) (rk : Fin 7) (cb d : Fin 64) (z : Nat) (s : State) : Host.Outcome State Fault Refusal :=
  issue i s fun m g =>
    match g.team.shapes.at h with
    | none => m.illegal g i .shape
    | some r =>
      if r.rank ≠ rk.val + 1 then m.illegal g i .shape
      else
        let clip := fun l => !r.within (g.warp.coordsOf cb rk l) && !r.fault
        let ask := fun l : Fin 32 =>
          ({ lane := l.val, scratch := r.scratch, addr := r.element (g.warp.coordsOf cb rk l), reg := (g.warp.name d l).val,
             data := if store then g.warp.regs d l (wide z) % 2 ^ (8 * sizeOf z) else 0, cmp := 0,
             bad := if r.within (g.warp.coordsOf cb rk l) then none else some 0x33 } : Ask)
        m.shoot g i
          { ctr := .ift, act := if store then .store else .load false, place := .die, size := sizeOf z, scalar := false,
            kind := if store then .store else .load, sup := anyClass }
          ((g.lanes.filter fun l => !clip l).map ask)
          ((g.lanes.filter clip).map fun l => (l.val, (g.warp.name d l).val, 0))

/-- 14 R268. -/
def execTld (h : Fin 32) (rk : Fin 7) (cb d : Fin 64) (z : Fin 4) (s : State) : Host.Outcome State Fault Refusal :=
  tensorOp (.tld h rk cb d z) false h rk cb d z.val s
/-- 14 R268. -/
def execTst (h : Fin 32) (rk : Fin 7) (cb d : Fin 64) (z : Fin 4) (s : State) : Host.Outcome State Fault Refusal :=
  tensorOp (.tst h rk cb d z) true h rk cb d z.val s

/-- A prefetch of one address; whatever fails is dropped (14 R270). -/
def Mach.prefetch (m : Mach) (g : Issue) (va : Nat) : Mach :=
  match m.translate g.team.die g.core g.team.ctx va 1 .load g.team.super with
  | (.error _, m) => m
  | (.ok r, m) =>
    if m.residency g.team.ctx r (va / 2 ^ 16) ≠ 3 ∨ (r.cls = 3 ∧ !m.reaches r.peer) then m
    else match m.coreLoad g.team.die g.core (r.key va) 1 with
      | some q => q.2
      | none => m

/-- 14 R270. -/
def execPref (a b : Src) (s : State) : Host.Outcome State Fault Refusal :=
  let i := Instr.pref a b
  issueLast i s fun m g =>
    (g.lanes.foldl (fun m l => m.prefetch g (g.warp.address a b l)) m).retire g i (g.warp.begin i.uses)

end Sys2Proof.Machine
end

