-- ==== Sys2Proof/Machine/Atomics.lean ====
section
/-! DEFINITION. Atomics and ordered single accesses (spec 14 R271 to R275, 12 R231 to R233). -/

namespace Sys2Proof.Machine

/-- The asks of an atomic (14 R271): the operand, and for CAS the value of vd. -/
def Issue.atomAsks (g : Issue) (scratch : Bool) (d : Fin 64) (a b : Src) (x : Bool) : List Ask :=
  g.lanes.map fun l =>
    { lane := l.val, scratch := scratch, addr := if scratch then (g.warp.src a l).toNat else g.warp.widePair a l,
      reg := (g.warp.name d l).val, data := if x then g.warp.widePair b l else (g.warp.src b l).toNat,
      cmp := g.warp.regs d l (if x then 2 else 1) }

/-- ATOM and ATOMS (14 R271 to R273, 12 R231 to R233). A PKG or SYS atomic waits for the warp's earlier ones. -/
def atomOp (i : Instr) (scratch home sys : Bool) (d : Fin 64) (a b : Src) (x : Bool) (o : AtomOp) (s : State) : Host.Outcome State Fault Refusal :=
  issue i s fun m g =>
    let busy := g.warp.flight.any fun f => decide (f.place = .home) && (match f.act with | .atomic _ => true | _ => false)
    if home && busy then m.stall g
    else
      m.shoot g i
        { ctr := if scratch then .ifs else .ifg, act := .atomic o, place := if home then .home else .die, size := if x then 8 else 4,
          scalar := false, kind := .atomic, sup := fun c => if home then atomSupported sys c o else decide (c ≤ 1) }
        (g.atomAsks scratch d a b x) []

/-- 14 R271. -/
def execAtomDie (d : Fin 64) (a b : Src) (x : Bool) (o : AtomOp) (s : State) : Host.Outcome State Fault Refusal :=
  atomOp (.atomDie d a b x o) false false false d a b x o s
/-- 14 R271, R272. -/
def execAtomPkg (d : Fin 64) (a b : Src) (x : Bool) (o : AtomOp) (s : State) : Host.Outcome State Fault Refusal :=
  atomOp (.atomPkg d a b x o) false true false d a b x o s
/-- 14 R271, R272. -/
def execAtomSys (d : Fin 64) (a b : Src) (x : Bool) (o : AtomOp) (s : State) : Host.Outcome State Fault Refusal :=
  atomOp (.atomSys d a b x o) false true true d a b x o s
/-- 14 R271. -/
def execAtoms (d : Fin 64) (a b : Src) (x : Bool) (o : AtomOp) (s : State) : Host.Outcome State Fault Refusal :=
  atomOp (.atoms d a b x o) true false false d a b x o s

/-- An acquiring load (14 R275). -/
def ldaOp (i : Instr) (n : Nat) (d : Fin 64) (a : Src) (sc : Scope) (s : State) : Host.Outcome State Fault Refusal :=
  issue i s fun m g =>
    m.shoot g i { ctr := .ifg, act := .lda sc, place := .die, size := n, scalar := false, kind := .load, sup := anyClass }
      (g.asks false (g.warp.widePair a) d fun _ => 0) []

/-- 14 R275. -/
def execLda32 (d : Fin 64) (a : Src) (sc : Scope) (s : State) : Host.Outcome State Fault Refusal := ldaOp (.lda32 d a sc) 4 d a sc s
/-- 14 R275. -/
def execLda64 (d : Fin 64) (a : Src) (sc : Scope) (s : State) : Host.Outcome State Fault Refusal := ldaOp (.lda64 d a sc) 8 d a sc s

/-- A releasing store (14 R275): its addresses are tested, it waits as REL does, and then it writes. -/
def stlOp (i : Instr) (n : Nat) (d : Fin 64) (a : Src) (sc : Scope) (s : State) : Host.Outcome State Fault Refusal :=
  issueLast i s fun m g =>
    let q : Shot := { ctr := .ifg, act := .stl sc, place := .home, size := n, scalar := false, kind := .store, sup := anyClass }
    let asks := g.asks false (g.warp.widePair a) d fun l => g.warp.regs d l (n / 4)
    match m.generateAll g q.kind q.size q.sup asks with
    | (.error e, m) => m.trap g i (TrapRec.access e.1 e.2)
    | (.ok _, m) => m.withRelease g i sc fun m => m.shoot g i q asks []

/-- 14 R275. -/
def execStl32 (d : Fin 64) (a : Src) (sc : Scope) (s : State) : Host.Outcome State Fault Refusal := stlOp (.stl32 d a sc) 4 d a sc s
/-- 14 R275. -/
def execStl64 (d : Fin 64) (a : Src) (sc : Scope) (s : State) : Host.Outcome State Fault Refusal := stlOp (.stl64 d a sc) 8 d a sc s

end Sys2Proof.Machine
end

