-- ==== Sys2Proof/Machine/Sync.lean ====
section
/-! DEFINITION. Fences, in-flight counters, barriers and completion counters (spec 14 R274 to R282). -/

namespace Sys2Proof.Machine

/-! ### Fences (14 R274) -/

/-- 14 R274. -/
def execFence (sc : Scope) (s : State) : Host.Outcome State Fault Refusal :=
  let i := Instr.fence sc
  issueLast i s fun m g => m.withRelease g i sc fun m => (m.acquireDrops g.team.die g.core sc).retire g i (g.warp.begin i.uses)
/-- 14 R274. -/
def execRel (sc : Scope) (s : State) : Host.Outcome State Fault Refusal :=
  let i := Instr.rel sc
  issueLast i s fun m g => m.withRelease g i sc fun m => m.retire g i (g.warp.begin i.uses)
/-- 14 R274. -/
def execAcq (sc : Scope) (s : State) : Host.Outcome State Fault Refusal :=
  let i := Instr.acq sc
  issueLast i s fun m g => (m.acquireDrops g.team.die g.core sc).retire g i (g.warp.begin i.uses)

/-! ### In-flight counters (14 R276) -/

def Warp.pathCount (x : Warp) (p : Path) : Nat :=
  match p with
  | .ifs => x.ifs
  | .ifg => x.ifg
  | .ift => x.ift
  | .ife => x.ife

/-- 14 R276. -/
def execWaitp (p : Path) (a : Src) (s : State) : Host.Outcome State Fault Refusal :=
  let i := Instr.waitp p a
  issueLast i s fun m g =>
    if g.warp.pathCount p ≤ (g.warp.one a).toNat ∨ 255 ≤ (g.warp.one a).toNat then m.retire g i (g.warp.begin i.uses) else m

/-- 14 R276. -/
def execCntr (d : Fin 32) (s : State) : Host.Outcome State Fault Refusal :=
  issueLast (.cntr d) s fun m g =>
    let x := g.warp
    m.retire g (.cntr d) ((x.begin (Instr.cntr d).uses).setS d
      (BitVec.ofNat 32 (x.ifs + x.ifg * 2 ^ 8 + x.ift * 2 ^ 16 + x.ife * 2 ^ 24)))

/-! ### Named barriers (14 R277, R278, R280) -/

/-- Whether every live slice of the warp is in the issuing gang or waits at a barrier: the last one has arrived. -/
def Issue.lastSlice (g : Issue) : Bool :=
  (List.finRange 8).all fun j => !g.live.getLsbD j.val || g.gang.getLsbD j.val || decide ((g.warp.slices.at j).wait = .barrier)

/-- The slices of the issuing gang wait at the barrier for the others. -/
def Issue.waitAtBarrier (g : Issue) (x : Warp) : Warp :=
  { x with
    slices := tab fun j => if g.gang.getLsbD j.val then { x.slices.at j with wait := .barrier } else x.slices.at j }

/-- Some slices go on past their instruction at `pc`, by way of the loop end. -/
def Warp.passSlices (x : Warp) (on : Fin 8 → Bool) (pc : Nat) : Warp :=
  let r := x.afterEnd (pc + 4)
  { r.2 with slices := tab fun j => if on j then { r.2.slices.at j with pc := r.1 % 2 ^ 48, wait := .none } else r.2.slices.at j }

/-- Every slice at the barrier goes on: the issuing gang, then each waiting gang past its own instruction (09 R170). -/
def Issue.passBarrier (g : Issue) (x : Warp) : Warp :=
  (List.finRange 8).foldl (fun x k =>
    let here := fun j : Fin 8 =>
      !g.gang.getLsbD j.val && g.live.getLsbD j.val && decide ((g.warp.slices.at j).gang = k.val) &&
        decide ((g.warp.slices.at j).wait = .barrier)
    match (List.finRange 8).find? here with
    | none => x
    | some j0 => x.passSlices here (g.warp.slices.at j0).pc) (x.passSlices (fun j => g.gang.getLsbD j.val) g.pc)

/-- The warp of a barrier instruction once it has issued, its PC not yet moved. -/
def Mach.barSettled (m : Mach) (g : Issue) (i : Instr) : Warp := (g.warp.begin i.uses).settle i.uses (m.trapPc g) g.gang

/-- An arrival (14 R278): the opening arrival sets the count; the phase completes when the count is reached. -/
def Barrier.arrive (b : Barrier) (count : Nat) : Barrier :=
  let need := if b.arrived = 0 then count else b.need
  if need ≤ b.arrived + 1 then { phase := b.phase + 1, need := 0, arrived := 0 }
  else { b with need := need, arrived := b.arrived + 1 }

/-- The barrier id and count of an arrival, or none if outside its limits (14 R277). -/
def Issue.barOperands (g : Issue) (a b : Src) : Option (Fin 16 × Nat) :=
  let id := (g.warp.one a).toNat
  let n := (g.warp.one b).toNat
  if h : id < 16 then
    if id < g.team.nbar ∧ n ≤ g.team.teamw then some (⟨id, h⟩, if n = 0 then g.team.teamw else n) else none
  else none

/-- Whether an id or a count that can be read is outside its limits (14 R277, 07 R121). -/
def Issue.badBarrier (g : Issue) (a b : Src) : Bool :=
  (g.readable a && (decide (16 ≤ (g.warp.one a).toNat) || decide (g.team.nbar ≤ (g.warp.one a).toNat))) ||
  (g.readable b && decide (g.team.teamw < (g.warp.one b).toNat))

/-- The wait at a named barrier of a warp that has arrived (14 R278, R280): it goes on once its phase is complete. -/
def Mach.barWaits (m : Mach) (g : Issue) : Option Mach :=
  g.warp.barWait.map fun q =>
    if q.2 < (g.team.bars.at ⟨q.1 % 16, by omega⟩).phase then
      (m.acquireDrops g.team.die g.core .team).setWarp g (g.passBarrier { g.warp with barWait := none })
    else m

/-- BAR and BARA (14 R278): the warp arrives when its last live slice does. BAR then waits for its phase, BARA goes on. The
operands are read at the arrival, which ends the chain (DEDUCED: assumption log 74). -/
def barOp (i : Instr) (waits : Bool) (a b : Src) (s : State) : Host.Outcome State Fault Refusal :=
  issueOnce i s (fun _ g => g.badBarrier a b) (if waits then Mach.barWaits else fun _ _ => none) fun m g =>
    match g.barOperands a b with
    | none => m.badOperand g i
    | some (id, n) =>
      if !g.lastSlice then m.setWarp g (g.waitAtBarrier (m.barSettled g i))
      else
        let bar := g.team.bars.at id
        let m1 := m.modTeam g.t fun x => { x with bars := x.bars.put id (bar.arrive n) }
        if !waits then
          m1.setWarp g (g.passBarrier { m.barSettled g i with bara := g.warp.bara.put id (some bar.phase) })
        else if bar.phase < (bar.arrive n).phase then
          (m1.acquireDrops g.team.die g.core .team).setWarp g (g.passBarrier (m.barSettled g i))
        else m1.setWarp g { m.barSettled g i with barWait := some (id.val, bar.phase) }

/-- 14 R278. -/
def execBar (a b : Src) (s : State) : Host.Outcome State Fault Refusal := barOp (.bar a b) true a b s
/-- 14 R278. -/
def execBara (a b : Src) (s : State) : Host.Outcome State Fault Refusal := barOp (.bara a b) false a b s
/-- 14 R278: waits for the phase of the warp's last BARA on the id; with none it goes on. -/
def execBarw (a : Src) (s : State) : Host.Outcome State Fault Refusal :=
  let i := Instr.barw a
  issueLast i s fun m g =>
    let id := (g.warp.one a).toNat
    if h : id < 16 then
      if g.team.nbar ≤ id then m.badOperand g i
      else
        let done := match g.warp.bara.at ⟨id, h⟩ with
          | some p => decide (p < (g.team.bars.at ⟨id, h⟩).phase)
          | none => true
        if done then (m.acquireDrops g.team.die g.core .team).retire g i (g.warp.begin i.uses) else m
    else m.badOperand g i

/-! ### Die and grid barriers (14 R279, 03 R72) -/

/-- The teams of a team's grid: those of its job, or of its stage (14 R279). -/
def Team.sameGrid (x y : Team) : Bool :=
  match x.plan with
  | some p => y.plan == some p && y.ctx == x.ctx
  | none => y.plan.isNone && y.job == x.job && y.part == x.part && y.graph == x.graph && y.served.isNone

/-- Phases of GBAR (none) or of DBAR in a die share that a team has arrived in (14 R279, 03 R72). -/
def Team.arrivals (x : Team) (share : Option Nat) : Nat :=
  match share with
  | none => x.gridArrived
  | some k => ((x.shareArrived.find? fun e => e.1 == k).map Prod.snd).getD 0

/-- Whether phase `p` is complete for a team: every team of the die share or grid has arrived in it or exited (14 R279). A team that
has left the die share does not hold it up (03 R72). -/
def Mach.gridDone (m : Mach) (x : Team) (share : Option Nat) (p : Nat) : Bool :=
  m.teams.all fun y => !x.sameGrid y || decide (y.phase = .exited) || decide (p < y.arrivals share) ||
    match share with
    | none => false
    | some k => decide (y.dshare ≠ k)

/-- A warp's arrival counts for its team when all its warps have issued the instruction (14 R279). -/
def Team.gridArrive (x : Team) (share : Option Nat) (p : Nat) (seen : List Nat) : Team :=
  if x.warps.all fun y => decide (y.run = .exited) || decide (y.gridWait = some (share, p)) then
    match share with
    | none => { x with gridArrived := p + 1, gridSeen := seen }
    | some k => { x with shareArrived := (k, p + 1) :: x.shareArrived.filter fun e => e.1 ≠ k }
  else x

/-- The completion of GBAR joins the arrivals of the grid: an acquire at PKG scope (14 R279, 12 R223). -/
def Mach.joinGrid (m : Mach) (x : Team) (share : Option Nat) : Mach :=
  match share with
  | none => m.teams.foldl (fun m y => if x.sameGrid y then m.applySeen x.die y.gridSeen else m) m
  | some _ => m

/-- The wait at a die or grid barrier of a warp that has arrived (14 R279): it goes on once its phase is complete. -/
def Mach.gridWaits (m : Mach) (g : Issue) (sc : Scope) : Option Mach :=
  g.warp.gridWait.map fun q =>
    if m.gridDone g.team q.1 q.2 then
      ((m.acquireDrops g.team.die g.core sc).joinGrid g.team q.1).setWarp g (g.passBarrier { g.warp with gridWait := none })
    else m

/-- DBAR and GBAR (14 R279). -/
def gridBar (i : Instr) (grid : Bool) (s : State) : Host.Outcome State Fault Refusal :=
  let sc : Scope := if grid then .pkg else .die
  issueOnce i s (fun _ _ => false) (fun m g => m.gridWaits g sc) fun m g =>
    if !g.team.cor && g.team.plan.isNone then m.illegal g i .coresidency
    else if !g.lastSlice then m.setWarp g (g.waitAtBarrier (m.barSettled g i))
    else m.withRelease g i sc fun m =>
      let share : Option Nat := if grid then none else some g.team.dshare
      let p := g.team.arrivals share
      (m.setWarp g { m.barSettled g i with gridWait := some (share, p) }).modTeam g.t
        (Team.gridArrive · share p (m.seenBy g.team.die))

/-- 14 R279. -/
def execDbar (s : State) : Host.Outcome State Fault Refusal := gridBar .dbar false s
/-- 14 R279. -/
def execGbar (s : State) : Host.Outcome State Fault Refusal := gridBar .gbar true s

/-! ### Completion counters (14 R281, R282; 12 R236, R237) -/

/-- The wait condition: v - T as a signed 64-bit difference is not negative (12 R237). -/
def counterMet (v t : Nat) : Bool := decide ((v + (2 ^ 64 - t % 2 ^ 64)) % 2 ^ 64 < 2 ^ 63)

/-- A gang that waits on after its replay: what it reads next is no replay (13 R248). -/
def Warp.replayed (x : Warp) (gang : BitVec 8) : Warp := { x with replayData := x.replayData &&& ~~~gang }

/-- 14 R281. A CWAIT that waits on reads its counter anew. -/
def execCwait (d : Fin 32) (a b : Src) (s : State) : Host.Outcome State Fault Refusal :=
  let i := Instr.cwait d a b
  issueLast i s fun m g =>
    m.withLoad g i (g.warp.pair a) 8 (fun m k => m.ldaRead g.team.die k 8 (counterScope k)) fun m v =>
      if counterMet v (g.warp.pair b) then
        let sc := match m.keyOf g.team.ctx (g.warp.pair a) with
          | some k => counterScope k
          | none => .pkg
        (m.acquireDrops g.team.die g.core sc).retire g i ((g.warp.begin i.uses).setPair d v)
      else m.modWarp g.t g.w (Warp.replayed · g.gang)

/-- The slice of a warp that stands at a CWAIT, with the operands of that instruction. -/
def Mach.cwaiter (m : Mach) (t w : Nat) : Option (Fin 8 × Fin 32 × Src × Src) :=
  match m.teams[t]?, m.warp? t w with
  | some team, some x => (List.finRange 8).findSome? fun j =>
      if liveSlice team.tlanes w j.val ∧ (x.slices.at j).wait = .none then
        match m.peek team x (x.slices.at j).pc with
        | some (.cwait d a b) => some (j, d, a, b)
        | _ => none
      else none
  | _, _ => none

/-- 12 R237: the CWAIT of a waiting warp observes its counter; the turn stays where it is. Inside a chain of another warp, or
of another sub-gang, its cluster issues nothing else (07 R117). -/
def execWaiterRelease (t w : Nat) (s : State) : Host.Outcome State Fault Refusal :=
  match s.m.cwaiter t w with
  | none => .next s
  | some (j, d, a, b) =>
    let m := { s.m with turn := { t := t, w := w, slice := j.val } }
    match m.issuer with
    | none => .next s
    | some g =>
      if s.m.unit.isSome ∨ s.m.chainElsewhere t w j then .next s
      else
        match execCwait d a b { s with m := m } with
        | .next r => .next { r with m := { r.m.noteIssue g with turn := s.m.turn } }
        | o => o

/-- 14 R282. -/
def execCsig (a b : Src) (s : State) : Host.Outcome State Fault Refusal :=
  let i := Instr.csig a b
  issueLast i s fun m g =>
    let q : Shot :=
      { ctr := .ifg, act := .csig, place := .home, size := 8, scalar := true, kind := .atomic, sup := fun c => decide (c ≤ 3) }
    let asks : List Ask :=
      [{ lane := 0, scratch := false, addr := g.warp.pair a, reg := 0, data := g.warp.pair b, cmp := 0 }]
    match m.generateAll g q.kind q.size q.sup asks with
    | (.error e, m) => m.trap g i (TrapRec.access e.1 e.2)
    | (.ok ls, m) =>
      m.withRelease g i (counterScope ((ls.map (·.key)).headD 0)) fun m => m.shoot g i q asks []

end Sys2Proof.Machine
end

