-- ==== Sys2Proof/Machine/Ranges.lean ====
section
/-! DEFINITION. The range instructions and the press (spec 14 R283 to R289, 13 R239, R253 to R257). -/

namespace Sys2Proof.Machine

/-! ### Descriptors -/

/-- The 32 bytes of a valid descriptor (13 R239). -/
def RangeDesc.image (r : RangeDesc) : Nat :=
  r.baseg + r.lastg * 2 ^ 32 + (r.offs % 2 ^ 41).toNat * 2 ^ 64 + r.prd.toNat * 2 ^ 105 + r.pwr.toNat * 2 ^ 106 +
  r.pex.toNat * 2 ^ 107 + r.pat.toNat * 2 ^ 108 + r.cls * 2 ^ 109 + r.sonly.toNat * 2 ^ 112 + r.agent * 2 ^ 113 +
  r.isPartial.toNat * 2 ^ 121 + r.denyf.toNat * 2 ^ 122 + 2 ^ 123 + r.mapva * 2 ^ 128 + r.peer * 2 ^ 176 + r.maporg * 2 ^ 192

/-- The first backing granule of a range in the space of its class. -/
def RangeDesc.backing (r : RangeDesc) : Int := Int.ofNat r.baseg + r.offs

def RangeDesc.size (r : RangeDesc) : Nat := r.lastg + 1 - r.baseg

/-- Whether a range meets `n` granules from `g`; 0 granules name every range (14 R285). -/
def RangeDesc.meets (r : RangeDesc) (g n : Nat) : Bool := decide (n = 0) || (decide (g ≤ r.lastg) && decide (r.baseg < g + n))

/-- Ranges in ascending order of their first granule. -/
def insertRange (r : RangeDesc) : List RangeDesc → List RangeDesc
  | [] => [r]
  | x :: t => if r.baseg < x.baseg then r :: x :: t else x :: insertRange r t

/-- Replaces a range of a list by others. -/
def replaceRange (rs : List RangeDesc) (old : RangeDesc) (new : List RangeDesc) : List RangeDesc :=
  rs.flatMap fun x => if x = old then new else [x]

/-! ### RSPLIT, RMERGE, RPROT and RPROBE (14 R283, R284, R286; 13 R255) -/

/-- The status of an RSPLIT at an address and the ranges after it. -/
def splitRanges (rs : List RangeDesc) (va : Nat) : Nat × List RangeDesc :=
  match findRange rs va with
  | none => (1, rs)
  | some r =>
    if r.baseg = va / 65536 then (2, rs)
    else if Config.rangeLimit ≤ rs.length then (4, rs)
    else (0, replaceRange rs r [{ r with lastg := va / 65536 - 1 }, { r with baseg := va / 65536 }])

/-- The status of an RMERGE at an address and the ranges after it. -/
def mergeRanges (rs : List RangeDesc) (va : Nat) : Nat × List RangeDesc :=
  match findRange rs va with
  | none => (1, rs)
  | some r =>
    match rs.find? fun n => n.baseg == r.lastg + 1 with
    | none => (2, rs)
    | some n =>
      if { n with baseg := r.baseg, lastg := r.lastg } = r then
        (0, (replaceRange rs r [{ r with lastg := n.lastg }]).filter (· ≠ n))
      else (3, rs)

/-- The status of an RPROT at an address and the ranges after it: PRD is bit 0 of the value, PWR bit 1, PEX bit 2 and PAT bit 3 (DESIGN
CHOICE: assumption log 95). -/
def protRanges (rs : List RangeDesc) (va y : Nat) : Nat × List RangeDesc :=
  match findRange rs va with
  | none => (1, rs)
  | some r =>
    (0, replaceRange rs r [{ r with
      prd := y.testBit 0, pwr := y.testBit 1, pex := y.testBit 2, pat := y.testBit 3, sonly := y.testBit 4 }])

/-- An instruction that changes the ranges of its context and writes a status (13 R243). -/
def rangeOp (i : Instr) (d : Fin 32) (f : Mach → Issue → List RangeDesc → Nat × List RangeDesc) (m : Mach) (g : Issue) : Mach :=
  let r := f m g g.ctx.ranges
  (m.setRanges g.team.ctx r.2).retire g i ((g.warp.begin i.uses).setS d (BitVec.ofNat 32 r.1))

/-- 14 R284. -/
def execRsplit (d : Fin 32) (a : Src) (s : State) : Host.Outcome State Fault Refusal :=
  issueLast (.rsplit d a) s (rangeOp (.rsplit d a) d fun _ g rs => splitRanges rs (g.warp.pair a))
/-- 14 R284. -/
def execRmerge (d : Fin 32) (a : Src) (s : State) : Host.Outcome State Fault Refusal :=
  issueLast (.rmerge d a) s (rangeOp (.rmerge d a) d fun _ g rs => mergeRanges rs (g.warp.pair a))
/-- 14 R284. -/
def execRprot (d : Fin 32) (a b : Src) (s : State) : Host.Outcome State Fault Refusal :=
  let i := Instr.rprot d a b
  issueOperand i s false (fun _ g => decide (32 ≤ (g.warp.one b).toNat)) fun m g =>
    if g.warp.flight.isEmpty then rangeOp i d (fun _ g rs => protRanges rs (g.warp.pair a) (g.warp.one b).toNat) m g
    else m.stall g

/-- The eight words of a descriptor, or zeros, written from `d` (14 R286). -/
def Warp.setOct (x : Warp) (d : Fin 32) (v : Nat) : Warp :=
  (List.range 8).foldl (fun x k => x.setS ⟨(d.val + k) % 32, by omega⟩ (BitVec.ofNat 32 (v / 2 ^ (32 * k)))) x

/-- 14 R286. -/
def execRprobe (d : Fin 32) (a : Src) (s : State) : Host.Outcome State Fault Refusal :=
  let i := Instr.rprobe d a
  issueLast i s fun m g =>
    let v := match findRange g.ctx.ranges (g.warp.pair a) with
      | some r => r.image
      | none => 0
    m.retire g i ((g.warp.begin i.uses).setOct d v)

/-! ### RINVAL (14 R285, 13 R253, R254) -/

/-- The cores whose range tables a scope covers (13 R253). -/
def Mach.coresIn (m : Mach) (g : Issue) (sc : Scope) : List (Nat × Nat) :=
  match sc with
  | .lane => [(g.team.die, g.core)]
  | .warp => [(g.team.die, g.core)]
  | .team => if g.team.span then [(g.team.die, g.core), (g.team.die, g.core ^^^ 1)] else [(g.team.die, g.core)]
  | .die => (List.range Config.coresPerDie).map fun c => (g.team.die, c)
  | _ => (m.diesOf g.team.part).flatMap fun d => (List.range Config.coresPerDie).map fun c => (d, c)

/-- Whether an access uses a descriptor that `hit` names. -/
def Flight.uses (f : Flight) (hit : RangeDesc → Bool) : Bool := f.lanes.any fun a => (a.desc.map hit).getD false

/-- The first warp on one of some cores that has an access, among those that `of` gives, through a descriptor of the context that
`hit` names. -/
def Mach.userAmong (m : Mach) (of : Warp → List Flight) (cores : List (Nat × Nat)) (ctx : Nat) (hit : RangeDesc → Bool) :
    Option (Nat × Nat) :=
  m.numbered.findSome? fun p =>
    if p.2.ctx = ctx then
      ((List.range p.2.warps.length).find? fun w => match p.2.warps[w]? with
        | some x => cores.contains (p.2.die, x.core) && (of x).any (Flight.uses · hit)
        | none => false).map fun w => (p.1, w)
    else none

/-- The late access of a warp that waits for its handler. -/
def Warp.late (x : Warp) : List Flight := (x.trap.bind fun p => p.late).toList

/-- A warp that has such an access in flight. -/
def Mach.userOf (m : Mach) := m.userAmong Warp.flight

/-- A warp whose late access through such a descriptor waits for its replay (21 R363). -/
def Mach.lateUserOf (m : Mach) := m.userAmong Warp.late

/-- The virtual addresses that an operation reads, writes and raises, as (address, bytes): its units, its index span, what its indices
may name, and its counter. -/
def EngOp.spans (o : EngOp) : List (Nat × Nat) :=
  let span := fun (x : Nat × Bool) (n : Nat) => if x.2 ∨ n = 0 then [] else [(x.1, n)]
  ((o.insAt.flatten ++ o.outsAt.flatten).filter (· < 2 ^ 60)).map (fun u => (u, 2 ^ o.ulg)) ++
    (if o.kind = .gath then span o.spc (4 * o.n) ++ span o.spa (o.idxlim * 2 ^ o.ulg) else []) ++
    (if o.kind = .scat then span o.spc (4 * o.n) ++ span o.spb (o.idxlim * 2 ^ o.ulg) else []) ++ span (o.ccnt, decide (o.ccnt = 0)) 8

/-- Whether an engine operation has units in a range that `hit` names, translated when it fired (19 R351). -/
def EngOp.uses (o : EngOp) (hit : RangeDesc → Bool) : Bool :=
  o.descs.any fun r => hit r && o.spans.any fun s => decide (s.1 / 65536 ≤ r.lastg) && decide (r.baseg ≤ (s.1 + s.2 - 1) / 65536)

/-- The operations of a context on some dies that have fired and have units in a range that `hit` names. -/
def Mach.opsUsing (m : Mach) (dies : List Nat) (ctx : Nat) (hit : RangeDesc → Bool) : List Nat :=
  (List.range m.ops.length).filter fun k => match m.ops[k]? with
    | some o => decide (o.ctx = ctx) && dies.contains o.die && decide (o.phase ≠ .posted) && decide (o.phase ≠ .ended) && o.uses hit
    | none => false

/-- The dies whose engines a scope covers (12 R222). -/
def Mach.engineDies (m : Mach) (g : Issue) (sc : Scope) : List Nat :=
  match sc with
  | .lane => []
  | .warp => []
  | .team => []
  | .die => [g.team.die]
  | _ => m.diesOf g.team.part

/-- Descriptors of a context dropped from the range tables of some cores. -/
def Mach.dropRanges (m : Mach) (cores : List (Nat × Nat)) (ctx : Nat) (hit : RangeDesc → Bool) : Mach :=
  cores.foldl (fun m c => m.modCore c.1 c.2 fun x => { x with rtab := x.rtab.filter fun e => !(e.1 == ctx && hit e.2) }) m

/-- 14 R285. It waits for every access translated with a dropped descriptor, a late one until its replay has performed it
(13 R253). -/
def execRinval (sc : Scope) (a b : Src) (s : State) : Host.Outcome State Fault Refusal :=
  let i := Instr.rinval sc a b
  issueLast i s fun m g =>
    let hit := fun r : RangeDesc => r.meets (g.warp.pair a / 65536 % 2 ^ 32) (g.warp.one b).toNat
    let cores := m.coresIn g sc
    let m1 := m.dropRanges cores g.team.ctx hit
    match m1.userOf cores g.team.ctx hit with
    | some p => m1.background p.1 p.2
    | none =>
      if (m1.lateUserOf cores g.team.ctx hit).isSome ∨ !(m1.opsUsing (m.engineDies g sc) g.team.ctx hit).isEmpty then m1
      else m1.withRelease g i sc fun m => m.retire g i (g.warp.begin i.uses)

/-! ### RRES (14 R287, 13 R250, R251) -/

/-- Whether two spans of granules meet. -/
def spansMeet (a n b k : Nat) : Bool := decide (a < b + k) && decide (b < a + n)

/-- Whether a request of the press moves some of `n` granules of a class from `g`. -/
def Press.moves (p : Press) (cls g n : Nat) : Bool := decide (p.cls = cls) && p.blocks.any fun b => spansMeet g n b.1 b.2

/-- Whether the press moves one of the backing granules of `n` granules of a range from `g`, before its switch (13 R256). -/
def Mach.pressed (m : Mach) (ctx : Nat) (r : RangeDesc) (g n : Nat) : Bool :=
  m.press.any fun p => decide (p.ctx = ctx) && !p.switched && p.moves r.cls (Int.ofNat g + r.offs).toNat n

/-- The granules of a list that are RESIDENT. -/
def Mach.residents (m : Mach) (ctx : Nat) (r : RangeDesc) (gs : List Nat) : Nat :=
  (gs.filter fun g => decide (m.residency ctx r g = 3)).length

/-- 14 R287. -/
def execRres (d : Fin 32) (a b : Src) (s : State) : Host.Outcome State Fault Refusal :=
  let i := Instr.rres d a b
  issueOperand i s false (fun _ g => decide ((g.warp.one b).toNat % 2 ^ 30 = 0)) fun m g =>
    if !g.warp.flight.isEmpty then m.stall g
    else
      let va := g.warp.pair a
      let n := (g.warp.one b).toNat % 2 ^ 30
      let st := (g.warp.one b).toNat / 2 ^ 30
      let done := fun (m : Mach) (k : Nat) => m.retire g i ((g.warp.begin i.uses).setS d (BitVec.ofNat 32 k))
      match findRange g.ctx.ranges va with
      | none => done m 1
      | some r =>
        if !r.isPartial then done m 5
        else if r.lastg < va / 65536 + n - 1 then done m 6
        else if m.pressed g.team.ctx r (va / 65536) n then m
        else
          let gs := (List.range n).map (va / 65536 + ·)
          let res := m.residents g.team.ctx r gs
          let set := fun m : Mach => gs.foldl (fun m k => m.setResidency g.team.ctx r k st) m
          if st = 3 then
            if res = n then done m 0
            else
              match m.charge g.team.ctx r.agent (n - res) with
              | some m => done (set m) 0
              | none =>
                m.takeEvent g.t g.w g.gang (m.rpcOf g i) (g.pc + i.size) none false true
                  { TrapRec.of 0x37 with
                    pc := m.trapPc g, rpc := m.rpcOf g i, iword := i.word, va := va, agent := r.agent,
                    limit := (m.quota g.team.ctx r.agent).1, used := (m.quota g.team.ctx r.agent).2 }
          else done (set (if res = 0 then m else m.credit g.team.ctx r.agent res)) 0

/-! ### The press (14 R288, R289; 13 R256, R257) -/

/-- A press request block (14 R288). -/
structure PressAsk where
  frm : Nat
  cls : Nat
  ngr : Nat
  dest : Nat
  cnt : Nat
  ok : Bool

/-- A request block read from its 32 bytes: `ok` says that no reserved bit is set and every field is in its limits. -/
def PressAsk.parse (v : Nat) : PressAsk :=
  let f := v % 2 ^ 48
  let c := field v 48 3
  let n := field v 64 32
  let t := field v 128 48
  { frm := f / 65536, cls := c, ngr := n, dest := t / 65536, cnt := field v 192 48
    ok := decide (f % 65536 = 0) && decide (c ≤ 1) && decide (1 ≤ n) && decide (t % 65536 = 0) && decide (field v 51 13 = 0) &&
      decide (field v 96 32 = 0) && decide (field v 176 16 = 0) && decide (field v 240 16 = 0) }

/-- Blocks in ascending order of source. -/
def insertBlock (b : Nat × Nat) : List (Nat × Nat) → List (Nat × Nat)
  | [] => [b]
  | x :: t => if b.1 < x.1 then b :: x :: t else x :: insertBlock b t

/-- The blocks that a request moves: the backing of each range of the context that lies wholly in the region (14 R289). -/
def PressAsk.blocks (p : PressAsk) (rs : List RangeDesc) : List (Nat × Nat) :=
  (rs.filter fun r => decide (r.cls = p.cls) && decide (Int.ofNat p.frm ≤ r.backing) &&
    decide (r.backing + r.size ≤ Int.ofNat (p.frm + p.ngr))).foldl (fun l r => insertBlock (r.backing.toNat, r.size) l) []

/-- The granules of a list of blocks. -/
def blockSum (bs : List (Nat × Nat)) : Nat := (bs.map fun b => b.2).sum

/-- The granules of HBM, or of the near-memory carve-out (01 R17, 13 R240). -/
def Mach.classGranules (m : Mach) (cls : Nat) : Nat := if cls = 0 then m.dies.length * 2 ^ 20 else m.nearBytes / 65536

/-- Whether `n` granules from `to` of a class are free for a request: in the memory of the class, outside the region, holding no
backing of any range and no destination of an accepted request (14 R289, 13 R240). -/
def Mach.destinationFree (m : Mach) (p : PressAsk) (n : Nat) : Bool :=
  decide (p.dest + n ≤ m.classGranules p.cls) && !spansMeet p.dest n p.frm p.ngr &&
  (m.contexts.all fun c => c.ranges.all fun r => !(decide (r.cls = p.cls) && spansMeet p.dest n r.backing.toNat r.size)) &&
  m.press.all fun q => !(decide (q.cls = p.cls) && spansMeet p.dest n q.dest (blockSum q.blocks))

/-- The bytes of a request block at an address, if a load there is permitted. -/
def Mach.pressBlock (m : Mach) (g : Issue) (va : Nat) : Option Nat :=
  if va % 32 ≠ 0 then none
  else
    match findRange g.ctx.ranges va with
    | some r =>
      if r.permits .load g.team.super && decide (m.residency g.team.ctx r (va / 65536) = 3) && !m.meetsPoison g.team.die (r.key va) 32 then
        (m.dieReadSure g.team.die (r.key va) 32).map fun x => x.1
      else none
    | none => none

/-- 14 R288. -/
def execRpress (d : Fin 32) (a : Src) (s : State) : Host.Outcome State Fault Refusal :=
  let i := Instr.rpress d a
  issueLast i s fun m g =>
    let done := fun (m : Mach) (k : Nat) => m.retire g i ((g.warp.begin i.uses).setS d (BitVec.ofNat 32 k))
    match (m.pressBlock g (g.warp.pair a)).map PressAsk.parse with
    | none => done m 1
    | some p =>
      let bs := p.blocks g.ctx.ranges
      if !p.ok then done m 1
      else if !m.destinationFree p (blockSum bs) then done m 2
      else if Config.pressLimit ≤ m.press.length then done m 3
      else
        done { m with press := m.press ++ [{
          ctx := g.team.ctx, die := g.team.die, from_ := p.frm, cls := p.cls, ngr := p.ngr, dest := p.dest, cnt := p.cnt, blocks := bs,
          moved := 0, switched := false, ops := [] }] } 0

/-- The poison marks and the tags of a line carried to the line it moves to. -/
def Mach.carryMarks (m : Mach) (old new : Nat) : Mach :=
  (List.range 4).foldl (fun m i =>
    let m1 := if m.poisoned.contains (4 * old + i) then { m with poisoned := addNew m.poisoned (4 * new + i) } else m
    m1.mergeTag (4 * new + i) (m1.tagOf (4 * old + i))) m

/-- Whether the granule that holds a line of the press is STAGED or RESIDENT (13 R256). -/
def Mach.lineMoves (m : Mach) (p : Press) (line : Nat) : Bool :=
  match (m.ctx? p.ctx).bind fun c => c.ranges.find? fun r =>
      decide (r.cls = p.cls) && decide (r.backing ≤ Int.ofNat (line / 512)) && decide (Int.ofNat (line / 512) < r.backing + r.size) with
  | some r => m.residency p.ctx r (Int.ofNat (line / 512) - r.offs).toNat % 2 == 1
  | none => false

/-- 13 R256: the next line of a request moves. -/
def execPressLineMove (r : Nat) (s : State) : Host.Outcome State Fault Refusal :=
  always s fun m =>
    match m.press[r]? with
    | none => m
    | some p =>
      match blockLine p.blocks p.dest p.moved with
      | none => m
      | some (old, new) =>
        let base := lineOf (physKey p.cls 0 0)
        let m1 := if m.lineMoves p old then
            (m.pastCaches (128 * (base + new)) 128 (m.homeRead (128 * (base + old)) 128)).carryMarks (base + old) (base + new)
          else m
        { m1 with press := m1.press.modify r fun q => { q with moved := q.moved + 1 } }

/-- The lines of a request that have moved, as (old, new) line numbers among the keys. -/
def Mach.movedLines (m : Mach) (p : Press) : List (Nat × Nat) :=
  let base := lineOf (physKey p.cls 0 0)
  (List.range (512 * blockSum p.blocks)).filterMap fun i =>
    (blockLine p.blocks p.dest i).bind fun q => if m.lineMoves p q.1 then some (base + q.1, base + q.2) else none

/-- The marks of every moved line carried once more, since a write since the move may have marked the old line, and taken from the old
lines (13 R256, 21 R375). -/
def Mach.carryAll (m : Mach) (p : Press) : Mach :=
  let ls := m.movedLines p
  let m1 := ls.foldl (fun m q => m.carryMarks q.1 q.2) m
  { m1 with poisoned := m1.poisoned.filter fun s => !ls.any fun q => decide (s / 4 = q.1) }

/-- The new first granule of a backing inside the blocks of a request. -/
def Press.target (p : Press) (g : Nat) : Option Nat := (blockIndex p.blocks (512 * g)).map fun i => p.dest + i / 512

/-- A range cut at a granule of its backing. -/
def RangeDesc.cutAt (r : RangeDesc) (g : Nat) : List RangeDesc :=
  if r.backing < Int.ofNat g ∧ Int.ofNat g < r.backing + r.size then
    let v := (Int.ofNat g - r.offs).toNat
    [{ r with lastg := v - 1 }, { r with baseg := v }]
  else [r]

/-- A range after the switch of a request (13 R256). The parts of a range merged across the end of a block switch by themselves. -/
def RangeDesc.switched (r : RangeDesc) (p : Press) : List RangeDesc :=
  if r.cls = p.cls ∧ 0 ≤ r.backing then
    (p.blocks.foldl (fun l b => (l.flatMap (RangeDesc.cutAt · b.1)).flatMap (RangeDesc.cutAt · (b.1 + b.2))) [r]).map fun x =>
      match p.target x.backing.toNat with
      | some t => { x with offs := x.offs + (Int.ofNat t - x.backing) }
      | none => x
  else [r]

/-- Whether a descriptor with its old OFFS maps what a request moves. -/
def Press.cached (p : Press) (r : RangeDesc) : Bool := decide (0 ≤ r.backing) && p.moves r.cls r.backing.toNat r.size

/-- The key of a byte after the switch of a request. -/
def Press.newKey (p : Press) (k : Nat) : Nat := (Press.moved? { p with moved := 512 * blockSum p.blocks, switched := false } k).getD k

/-- The late accesses of a context through an old descriptor, and its paused operations, follow their lines to the new backing. -/
def Mach.followPress (m : Mach) (p : Press) : Mach :=
  let at_ := fun f : Flight => { f with lanes := f.lanes.map fun a => if (a.desc.map p.cached).getD false then { a with key := p.newKey a.key } else a }
  { m with
    teams := m.teams.map fun t =>
      if t.ctx = p.ctx then
        { t with warps := t.warps.map fun x => { x with trap := x.trap.map fun q => { q with late := q.late.map at_ } } }
      else t
    ops := m.ops.map fun o => if o.ctx = p.ctx then { o with descs := o.descs.flatMap (RangeDesc.switched · p) } else o }

/-- Every core of the package. -/
def Mach.allCores (m : Mach) : List (Nat × Nat) :=
  (List.range m.dies.length).flatMap fun d => (List.range Config.coresPerDie).map fun c => (d, c)

/-- The ranges of the context of a request after its switch. -/
def Mach.pressedRanges (m : Mach) (p : Press) : List RangeDesc :=
  ((m.ctx? p.ctx).map Context.ranges).getD [] |>.flatMap (RangeDesc.switched · p)

/-- The switch of a request (13 R256): open epochs with a sector of the old backing are closed, so that nothing of it is left dirty;
OFFS changes in the range order and every range table drops what maps the old backing. -/
def Mach.switchPress (m : Mach) (p : Press) : Mach :=
  let base := lineOf (physKey p.cls 0 0)
  let old := fun sec : Nat => decide (4 * base ≤ sec) && (blockIndex p.blocks (sec / 4 - base)).isSome
  let m1 := (List.range m.dies.length).foldl (fun m d =>
    if ((m.dies[d]?).map fun x => (x.sectors ++ x.lost).any old).getD false then m.closeEpoch d else m) m
  let m2 := (m1.carryAll p).followPress p
  let m3 := m2.setRanges p.ctx (m2.pressedRanges p)
  m3.dropRanges m3.allCores p.ctx p.cached

/-- The completion of a request: once every access translated with the old OFFS is performed, the counter is raised (13 R256). -/
def Mach.endPress (m : Mach) (r : Nat) (p : Press) : Mach :=
  match m.userOf m.allCores p.ctx p.cached with
  | some u => m.background u.1 u.2
  | none =>
    if (m.lateUserOf m.allCores p.ctx p.cached).isSome ∨ (p.ops.any fun k => ((m.ops[k]?).map fun o => decide (o.phase ≠ .ended)).getD false) then m
    else ({ m with press := m.press.eraseIdx r } : Mach).addCounter p.ctx p.cnt 1

/-- 13 R256: once every line has moved and every access in flight through an old descriptor is performed, the request switches; it
completes once the late ones are performed too. A switch that would leave the context more ranges than it may hold waits for room (13
R238; DESIGN CHOICE: assumption log 89). -/
def execPressSwitch (r : Nat) (s : State) : Host.Outcome State Fault Refusal :=
  always s fun m =>
    match m.press[r]? with
    | none => m
    | some p =>
      if p.switched then m.endPress r p
      else if p.moved < 512 * blockSum p.blocks ∨ Config.rangeLimit < (m.pressedRanges p).length then m
      else
        match m.userOf m.allCores p.ctx p.cached with
        | some u => m.background u.1 u.2
        | none =>
          let ks := m.opsUsing (List.range m.dies.length) p.ctx p.cached
          if ks.any fun k => decide ((m.ops[k]?).map EngOp.phase = some .fired) then m
          else
            let q := { p with switched := true, ops := ks }
            ({ m.switchPress p with press := (m.switchPress p).press.set r q } : Mach).endPress r q

end Sys2Proof.Machine
end

