-- ==== Sys2Proof/Machine/Cache.lean ====
section
/-! DEFINITION. CWB and CINV (spec 14 R290). -/

namespace Sys2Proof.Machine

/-- Whether a line, given by its number among the keys, meets `n` bytes from an address of a context; an address in no range
is skipped (14 R290). -/
def Context.lineMeets (c : Context) (va n line : Nat) : Bool :=
  c.ranges.any fun r =>
    let k0 := r.key (r.baseg * 65536)
    let v := r.baseg * 65536 + (128 * line - k0)
    decide (k0 ≤ 128 * line) && decide (128 * line < k0 + 65536 * r.size) && decide (0 < n) && decide (va < v + 128) && decide (v < va + n)

/-- The dirty host and peer bytes that a die holds of some lines. -/
def Mach.hostBytesOf (m : Mach) (d : Nat) (hit : Nat → Bool) : List Nat :=
  (((m.dies[d]?).map Die.hdirtyAt).getD []).filter fun k => hit (lineOf k)

/-- Lines of HBM. -/
def hbmLine (line : Nat) : Bool := decide (keyClass (128 * line) = 0)

/-- The dirty and the lost sectors of a die on some lines. -/
def Mach.dirtyOf (m : Mach) (d : Nat) (hit : Nat → Bool) : List Nat :=
  (((m.dies[d]?).map fun x => x.sectors ++ x.lost).getD []).filter fun s => hit (s / 4)

/-- What CWB does at a scope (14 R290). A drain to an affected slice waits for the end of its switch (23 R389). -/
def Mach.writeBackLines (m : Mach) (d : Nat) (sc : Scope) (hit : Nat → Bool) : Mach :=
  let die := fun m : Mach => (m.awaitSwitch ((m.dirtyOf d hit).map (· / 4))).earlyDrain d (m.dirtyOf d hit)
  let pkg := fun m : Mach => { m with llcDirty := m.llcDirty.filter fun l => !(hbmLine l && hit l) }
  match sc with
  | .die => die m
  | .pkg => pkg (die m)
  | .sys => (pkg (die m)).flushBytes d (m.hostBytesOf d hit)
  | _ => m

/-- The copies of some lines that a core holds, dropped (14 R290). -/
def Core.dropLines (x : Core) (hit : Nat → Bool) : Core :=
  { x with
    l1 := (x.l1.lines.filter hit).foldl (fun c l => c.drop l) x.l1
    scale := x.scale.filter fun l => !l.pas.any fun p => hit (lineOf p)
    sdir := x.sdir.filter fun e => !hit (lineOf e.pa) }

/-- The copies of some lines that a die holds, dropped. -/
def Die.dropLines (x : Die) (hit : Nat → Bool) : Die :=
  { x with l2 := (x.l2.lines.filter hit).foldl (fun c l => c.drop l) x.l2, cores := x.cores.map (Core.dropLines · hit) }

/-- The drops of CINV at a scope (14 R290): from DIE scope on the die drops every copy that it holds clean. -/
def Mach.dropLines (m : Mach) (d c : Nat) (sc : Scope) (hit : Nat → Bool) : Mach :=
  let die := fun m : Mach => m.modDie d (Die.dropLines · hit)
  let llc := fun m : Mach => { m with llcLines := m.llcLines.filter fun l => !(hbmLine l && hit l) }
  match sc with
  | .die => die m
  | .pkg => llc (die m)
  | .sys => llc (die m)
  | _ => m.modCore d c (Core.dropLines · hit)

/-- CWB or CINV of some lines, then `k`. At SYS scope it waits while a LINK_RECONF holds a write (23 R393), and takes the fault of a
write whose host or peer is lost (21 R376). -/
def Mach.cacheOp (m : Mach) (g : Issue) (i : Instr) (sc : Scope) (hit : Nat → Bool) (k : Mach → Mach) : Mach :=
  let bs := if sc = .sys then m.hostBytesOf g.team.die hit else []
  if bs.any m.peerHeld then m
  else
    match bs.filter m.targetLost with
    | b :: t => (m.giveUp g.team.die (b :: t)).redo g i { TrapRec.of (lostCause (keyClass b)) with va := m.vaOf g.team.ctx b }
    | [] => k (m.writeBackLines g.team.die sc hit)

/-- 14 R290. -/
def execCwb (sc : Scope) (a b : Src) (s : State) : Host.Outcome State Fault Refusal :=
  let i := Instr.cwb sc a b
  issueLast i s fun m g =>
    let hit := g.ctx.lineMeets (g.warp.pair a) (g.warp.one b).toNat
    m.cacheOp g i sc hit fun m => m.retire g i (g.warp.begin i.uses)

/-- 14 R290. -/
def execCinv (sc : Scope) (a b : Src) (s : State) : Host.Outcome State Fault Refusal :=
  let i := Instr.cinv sc a b
  issueLast i s fun m g =>
    let hit := g.ctx.lineMeets (g.warp.pair a) (g.warp.one b).toNat
    m.cacheOp g i sc hit fun m => (m.dropLines g.team.die g.core sc hit).retire g i (g.warp.begin i.uses)

end Sys2Proof.Machine
end

