-- ==== Sys2Proof/Machine/Matrix.lean ====
section
/-! DEFINITION. The matrix instructions, the scale cache and the retention of matrix units (spec 16, 05 R90 to R97,
01 R24). -/

namespace Sys2Proof.Machine

/-! ### Formats and pairs (05 R73, 16 R294) -/

/-- Bits of an element of an operand format (05 R73). -/
def fmtBits (c : Nat) : Nat :=
  match c with
  | 0 => 32 | 1 => 16 | 2 => 16 | 3 => 16 | 4 => 8 | 5 => 4 | 6 => 8 | 7 => 4 | 8 => 1
  | _ => 17 - c

def isBfp (c : Nat) : Bool := decide (9 ≤ c)

/-- Integer formats and PM1 (05 R90). -/
def isIntFmt (c : Nat) : Bool := decide (3 ≤ c) && decide (c ≤ 8)

/-- K-block, columns of an MMA, and columns of an MMAS if A may be sparse (16 R294). -/
structure PairInfo where
  kb : Nat
  k : Nat
  ks : Option Nat
deriving DecidableEq, Repr

/-- The pairs that MMA accepts (16 R294). -/
def pairInfo (a b : Nat) : Option PairInfo :=
  let small := decide (4 ≤ b) && decide (b ≤ 7)
  if a = 0 then (if b = 0 then some ⟨8, 8, none⟩ else none)
  else if a = 1 ∨ a = 2 then (if b = 1 ∨ b = 2 then some ⟨16, 16, some 32⟩ else none)
  else if a = 3 then (if b = 3 ∨ small then some ⟨16, 16, none⟩ else none)
  else if a = 4 ∨ a = 6 then (if b = 3 ∨ small then some ⟨16, 16, some 32⟩ else none)
  else if a = 5 ∨ a = 7 then
    (if b = 5 ∨ b = 7 then some ⟨16, 32, none⟩ else if b = 3 ∨ small then some ⟨16, 16, none⟩ else none)
  else if a = 8 then (if b = 8 then some ⟨16, 128, none⟩ else none)
  else if isBfp b then (if a ≤ 13 then some ⟨32, 32, some 64⟩ else some ⟨32, 64, some 128⟩)
  else none

/-- A format word (16 R293). -/
structure FmtWord where
  a : Nat
  b : Nat
  acc : Nat
  sp : Bool
  tid : Nat
  rsv : Nat
deriving DecidableEq, Repr

def FmtWord.of (w : Nat) : FmtWord :=
  { a := field w 0 4, b := field w 4 4, acc := field w 8 2, sp := decide (field w 10 1 = 1), tid := field w 11 16, rsv := field w 27 5 }

/-- The K-block and the columns that an instruction covers under a format word, if the pair is listed (16 R294). -/
def FmtWord.shape (f : FmtWord) (sparse : Bool) : Option (Nat × Nat) :=
  (pairInfo f.a f.b).bind fun p => if sparse then p.ks.map fun k => (p.kb, k) else some (p.kb, p.k)

/-- Whether the word passes the checks of 16 R293. -/
def FmtWord.ok (f : FmtWord) (sparse : Bool) : Bool :=
  decide (f.rsv = 0) && decide (f.sp = sparse) && (f.shape sparse).isSome &&
    (decide (f.acc = 0) || (decide (f.acc = 1) && isIntFmt f.a && isIntFmt f.b))

/-- Registers of the A fragment, and of the A side with its block-number and index registers (16 R295, R296). -/
def FmtWord.aFrag (f : FmtWord) (sparse : Bool) (k : Nat) : Nat := ((if sparse then k / 2 else k) * fmtBits f.a + 31) / 32
def FmtWord.aRegs (f : FmtWord) (sparse : Bool) (k : Nat) : Nat :=
  f.aFrag sparse k + (isBfp f.a).toNat + (if sparse then k / 32 else 0)

/-- Registers of the B fragment, and of the B side (16 R295, R296). -/
def FmtWord.bFrag (f : FmtWord) (k : Nat) : Nat := (k * fmtBits f.b + 31) / 32
def FmtWord.bRegs (f : FmtWord) (k : Nat) : Nat := f.bFrag k + (isBfp f.b).toNat

/-! ### Operands of a matrix instruction -/

/-- An MMA or MMAS. -/
structure MmaOp where
  vb : Fin 64
  va : Fin 64
  vf : Fin 64
  vc : Fin 64
  q0 : Bool
  sparse : Bool

/-- The participants of quarter `q` of an issue (16 R291). -/
def Issue.quarter (g : Issue) (q : Nat) : List (Fin 32) := g.lanes.filter fun l => l.val / 8 = q

/-- The quarters taking part (16 R291). -/
def Issue.quarters (g : Issue) : List Nat := (List.range 4).filter fun q => !(g.quarter q).isEmpty

/-- A register of a lane by the place of its name in a run. -/
def Warp.runReg (x : Warp) (d : Fin 64) (j : Nat) (l : Fin 32) : Word := (x.v.at (x.name (nextV d j) l)).at l

/-- The format word of a quarter's lowest participant (16 R302). -/
def Issue.wordOf (g : Issue) (o : MmaOp) (q : Nat) : FmtWord :=
  FmtWord.of (((g.quarter q).head?.map fun l => (g.warp.src (.v o.vf) l).toNat).getD 0)

/-- The lanes that supply B to a quarter (16 R298). -/
def Issue.suppliers (g : Issue) (o : MmaOp) (q : Nat) : List (Fin 32) := if o.q0 then g.quarter 0 else g.quarter q

/-- The runs of registers that a quarter's format word fixes, each with its lanes; none if the word holds a reserved field or
code or an unlisted pair (16 R302). -/
def Issue.fragments (g : Issue) (o : MmaOp) (q : Nat) : List (Fin 64 × Nat × List (Fin 32)) :=
  let f := g.wordOf o q
  match f.shape o.sparse with
  | some (_, k) =>
    if f.rsv = 0 ∧ f.acc ≤ 1 then
      [(o.va, f.aRegs o.sparse k, g.quarter q), (o.vb, f.bRegs k, g.suppliers o q)]
    else []
  | none => []

/-- Every run of an issue. -/
def Issue.allFragments (g : Issue) (o : MmaOp) : List (Fin 64 × Nat × List (Fin 32)) := g.quarters.flatMap (g.fragments o)

/-- Some name of a run, or the register it resolves to, is at or above V (03 R41, 16 R296). -/
def Issue.runAbove (g : Issue) (r : Fin 64 × Nat × List (Fin 32)) : Bool :=
  (List.range r.2.1).any fun j =>
    decide (64 ≤ r.1.val + j) || (!(g.warp.meld.isSome && decide (48 ≤ r.1.val + j)) && decide (g.team.vregs ≤ r.1.val + j)) ||
      r.2.2.any fun l => decide (g.team.vregs ≤ (g.warp.name (nextV r.1 j) l).val)

/-- Some run that a lane supplies is above V in it. -/
def Issue.lanesAbove (g : Issue) (rs : List (Fin 64 × Nat × List (Fin 32))) (l : Fin 32) : Bool :=
  rs.any fun r => r.2.2.contains l && g.runAbove (r.1, r.2.1, [l])

/-- Some register of a run satisfies `p` in a lane of it. -/
def Issue.runAny (g : Issue) (r : Fin 64 × Nat × List (Fin 32)) (p : Fin 64 → Fin 32 → Bool) : Bool :=
  (List.range r.2.1).any fun j => r.2.2.any fun l => p (g.warp.name (nextV r.1 j) l) l

/-- The word, the bitmap and the accumulators, read by every participant. -/
def Issue.fixedRuns (g : Issue) (o : MmaOp) : List (Fin 64 × Nat × List (Fin 32)) :=
  [(o.vf, if o.sparse then 2 else 1, g.lanes), (o.vc, 8, g.lanes)]

/-- The lowest participant that reads a poisoned register, and the register (21 R373). -/
def Issue.runPoison (g : Issue) (rs : List (Fin 64 × Nat × List (Fin 32))) : Option (Fin 32 × Fin 64) :=
  g.lanes.findSome? fun l => rs.findSome? fun r =>
    if r.2.2.contains l then
      (List.range r.2.1).findSome? fun j =>
        let n := g.warp.name (nextV r.1 j) l
        if g.warp.poison.contains (n, l) then some (l, n) else none
    else none

/-- Whether a memory instruction of the warp that is to drop scale lines has not retired, an MSCL.B or an LDA of TEAM scope or wider: a
later MMA waits for the drop (05 R97, 14 R275, 16 R305). -/
def Warp.dropsScale (x : Warp) : Bool :=
  x.flight.any fun f => match f.act with
    | .bind _ => true
    | .lda sc => decide (sc ≠ .lane) && decide (sc ≠ .warp)
    | _ => false

/-- The first tests of an MMA, in the order of 16 R302: registers above V, a wait for what it reads, poison. -/
def Issue.mmaGate (g : Issue) (i : Instr) (o : MmaOp) : Gate :=
  let word := (o.vf, if o.sparse then 2 else 1, g.lanes)
  let awaits := fun r => g.runAny r fun n l => g.warp.pendingV n.val l.val
  let acc := g.runAny (o.vc, 8, g.lanes) fun n l => g.warp.pendingLoad n.val l.val || g.warp.pendingMma (some o.vc.val) n.val l.val
  if g.breaksMeld i i.uses then .trap (TrapRec.illegal .meld)
  else if (g.fixedRuns o).any g.runAbove then .trap (g.inLane (TrapRec.illegal .aboveV) (g.lanesAbove (g.fixedRuns o)))
  else if awaits word || g.held i.uses || g.warp.dropsScale then .wait
  else if (g.allFragments o).any g.runAbove then .trap (g.inLane (TrapRec.illegal .aboveV) (g.lanesAbove (g.allFragments o)))
  else if acc || (g.allFragments o).any awaits then .wait
  else
    match g.runPoison (g.fixedRuns o ++ g.allFragments o) with
    | some p => .trap (TrapRec.poison p)
    | none => .pass

/-- A register of the participants of a quarter disagrees (16 R293). -/
def Issue.disagrees (g : Issue) (n : Fin 64) (j q : Nat) : Bool :=
  (g.quarter q).any fun l =>
    ((g.quarter q).head?.map fun h => decide (g.warp.runReg n j h ≠ g.warp.runReg n j l)).getD false

/-! ### Elements (16 R295, R299) -/

/-- The bit string of a fragment of a lane (16 R295). -/
def Warp.fragment (x : Warp) (d : Fin 64) (l : Fin 32) : Nat → Nat
  | 0 => 0
  | n + 1 => Warp.fragment x d l n + 2 ^ (32 * n) * (x.runReg d n l).toNat

/-- An integer as an exact value. -/
def FVal.ofInt (v : Int) : FVal := .num (decide (v < 0)) v.natAbs 0

/-- The value of an element with the shared exponent `E` of its block (05 R74 to R79). -/
def elemVal (c E bits : Nat) : FVal :=
  match c with
  | 0 => F32.val bits
  | 1 => F16.val bits
  | 2 => BF16.val bits
  | 3 => FVal.ofInt (sextNat bits 16)
  | 4 => FVal.ofInt (sextNat bits 8)
  | 5 => FVal.ofInt (sextNat bits 4)
  | 6 => FVal.ofInt bits
  | 7 => FVal.ofInt bits
  | 8 => FVal.ofInt (if bits = 0 then 1 else -1)
  | _ => bfpVal (17 - c) E (sextNat bits (17 - c))

/-- The bits of element `k` of a fragment. -/
def elemBits (c str k : Nat) : Nat := str / 2 ^ (k * fmtBits c) % 2 ^ fmtBits c

/-- The bitmap of a quarter (16 R299). -/
def Issue.bitmap (g : Issue) (o : MmaOp) (q : Nat) : Nat :=
  ((g.quarter q).head?.map fun l => (g.warp.runReg o.vf 1 l).toNat).getD 0

/-- Whether K-block `b` is applied: always by MMA, by MMAS if one of its groups is live (16 R300). -/
def blockLive (sparse : Bool) (bitmap kb b : Nat) : Bool :=
  !sparse || (List.range (kb / 16)).any fun j => bitmap.testBit (b * (kb / 16) + j)

/-- The block-number register of a BFP operand (16 R301). -/
def Warp.blockNum (x : Warp) (d : Fin 64) (frag : Nat) (l : Fin 32) : Nat := (x.runReg d frag l).toNat

/-- The blocks whose exponents a quarter needs: (tensor, block, lane that names it) (16 R301). -/
def Issue.needs (g : Issue) (o : MmaOp) (q : Nat) : List (Nat × Nat × Fin 32) :=
  let f := g.wordOf o q
  match f.shape o.sparse with
  | none => []
  | some (kb, k) =>
    let bs := if kb = 32 then (List.range (k / 32)).filter (blockLive o.sparse (g.bitmap o q) kb) else []
    let a := if isBfp f.a then (g.quarter q).flatMap fun l => bs.map fun b => (f.tid, g.warp.blockNum o.va (f.aFrag o.sparse k) l + b, l) else []
    let tb := if isBfp f.a then (f.tid + 1) % 65536 else f.tid
    let b := if isBfp f.b then (g.suppliers o q).flatMap fun l => bs.map fun b => (tb, g.warp.blockNum o.vb (f.bFrag k) l + b, l) else []
    a ++ b

/-! ### The scale cache (05 R94 to R97) -/

/-- A cached directory entry. -/
def Core.entry? (x : Core) (ctx t : Nat) : Option ScaleEntry := x.sdir.find? fun e => e.ctx == ctx && e.tid == t

/-- A cached line. -/
def Core.line? (x : Core) (ctx t q : Nat) : Option ScaleLine := x.scale.find? fun l => l.ctx == ctx && l.tid == t && l.q == q

/-- The exponent of a block, if a cached line holds it. A line read when its entry named fewer blocks holds only their exponents. -/
def Core.exponent? (x : Core) (ctx t n : Nat) : Option Nat := (x.line? ctx t (n / 64)).bind fun l => l.exps[n % 64]?

/-- The exponent with which a quarter computes. -/
def Core.exponent (x : Core) (ctx t n : Nat) : Nat := (x.exponent? ctx t n).getD 0

/-- A directory entry of 16 bytes (05 R94). -/
def ScaleEntry.parse (ctx t pa v : Nat) : ScaleEntry :=
  { ctx := ctx, tid := t, pa := pa, base := field v 0 48, nblk := field v 64 32, valid := decide (field v 96 1 = 1) }

/-- A line joins the scale cache, in place of a shorter one of its key. -/
def Core.addLine (x : Core) (l : ScaleLine) : Core :=
  { x with scale := (l :: x.scale.filter fun y => !(y.ctx == l.ctx && y.tid == l.tid && y.q == l.q)).take Config.scaleLines }
def Core.addEntry (x : Core) (e : ScaleEntry) : Core := { x with sdir := e :: x.sdir }

/-- `n` bytes from `va` read one by one as loads, each with its physical address (05 R95). -/
def Mach.withBytes (i : Instr) (g : Issue) : Nat → Nat → Mach → (Mach → List (Nat × Nat) → Mach) → Mach
  | 0, _, m, k => k m []
  | n + 1, va, m, k =>
    m.withLoad g i va 1 (fun m a => m.dieRead g.team.die a 1) fun m v =>
      Mach.withBytes i g n (va + 1) m fun m bs => k m (((m.keyOf g.team.ctx va).getD 0, v) :: bs)

/-- The bytes of line `q` of an entry: the exponents of its blocks below NBLK. -/
def ScaleEntry.span (e : ScaleEntry) (q : Nat) : Nat × Nat := (e.base + 64 * q, min 64 (e.nblk - 64 * q))

/-- A byte read without a fault: none if the access would fault (16 R306). -/
def Mach.quietByte (m : Mach) (d c ctx va : Nat) (super : Bool) : Option (Nat × Nat) × Mach :=
  match m.translate d c ctx va 1 .load super with
  | (.error _, m) => (none, m)
  | (.ok r, m) =>
    match m.lateCheck ctx r va false with
    | (.ok, m) =>
      if m.meetsPoison d (r.key va) 1 then (none, m)
      else
        match m.dieRead d (r.key va) 1 with
        | some (v, m) => (some (r.key va, v), m)
        | none => (none, m)
    | (_, m) => (none, m)

/-- `n` bytes read without a fault. -/
def Mach.quietBytes (m : Mach) (d c ctx va : Nat) (super : Bool) : Nat → Option (List (Nat × Nat)) × Mach
  | 0 => (some [], m)
  | n + 1 =>
    match m.quietByte d c ctx va super with
    | (some b, m) =>
      match Mach.quietBytes m d c ctx (va + 1) super n with
      | (some bs, m) => (some (b :: bs), m)
      | (none, m) => (none, m)
    | (none, m) => (none, m)

/-- The little-endian value of bytes read. -/
def bytesVal : List (Nat × Nat) → Nat
  | [] => 0
  | b :: t => b.2 + 256 * bytesVal t

/-- A line fetched into a core's scale cache without a trap (16 R306): an entry or line that would trap is dropped. -/
def Mach.fetchScale (m : Mach) (d c ctx t q : Nat) (super : Bool) : Mach :=
  match m.ctx? ctx with
  | none => m
  | some x =>
    if x.sdcnt ≤ t then m
    else
      let withEntry := match (m.core? d c).bind fun k => k.entry? ctx t with
        | some e => (some e, m)
        | none =>
          match m.quietBytes d c ctx (x.sdbase + 16 * t) super 16 with
          | (some bs, m) =>
            let e := ScaleEntry.parse ctx t ((bs.map fun b : Nat × Nat => b.1).headD 0) (bytesVal bs)
            (some e, m.modCore d c fun k => k.addEntry e)
          | (none, m) => (none, m)
      match withEntry with
      | (some e, m) =>
        let short := fun l : ScaleLine => decide (l.exps.length < (e.span q).2)
        if !e.valid || decide (e.nblk ≤ 64 * q) || !((((m.core? d c).bind fun k => k.line? ctx t q).map short).getD true) then m
        else
          match m.quietBytes d c ctx (e.span q).1 super (e.span q).2 with
          | (some bs, m) => m.modCore d c fun k => k.addLine { ctx := ctx, tid := t, q := q, pas := bs.map fun b : Nat × Nat => b.1, exps := bs.map fun b : Nat × Nat => b.2 }
          | (none, m) => m
      | (none, m) => m

/-! ### Sums (05 R91 to R93) -/

/-- One update of an F32 accumulator by the products of a K-block. -/
def updateF32 (c : Nat) (ps : List FVal) (nanIn : Bool) : Nat × Exc :=
  let cv := F32.val c
  let bad : Nat × Exc := (F32.nan, if nanIn || cv.isNan then Exc.none else Exc.invalid)
  match total ps, cv with
  | .nan, _ => bad
  | _, .nan _ => bad
  | .inf s, .inf t => if s = t then (F32.infBits s, Exc.none) else bad
  | .inf s, _ => (F32.infBits s, Exc.none)
  | .exact _ _, .inf t => (F32.infBits t, Exc.none)
  | .exact v q, .num s m e =>
    let e0 := min q e
    let z := s && decide (m = 0) && ps.all fun p => p.isZero && p.neg
    F32.roundInt .rne z (v * 2 ^ (q - e0).toNat + (FVal.num s m e).units e0) e0

/-- One update of an I32 accumulator: it wraps and raises nothing. -/
def updateI32 (c : Nat) (ps : List FVal) : Nat :=
  match total ps with
  | .exact v q => (BitVec.ofInt 32 ((c : Int) + v * 2 ^ q.toNat)).toNat
  | _ => c

/-- The products of a K-block for one accumulator element, and whether one of their operands is a NaN. A pair with an absent
element is +0 (16 R297). -/
def products (l : List (Option (FVal × FVal))) : List FVal × Bool :=
  (l.map fun p => match p with
    | some (x, y) => x.times y
    | none => .num false 0 0,
   l.any fun p => match p with
    | some (x, y) => x.isNan || y.isNan
    | none => false)

/-- A product of integers: its zero has no sign (05 R76, R91). -/
def FVal.integral (x : FVal) : FVal := if x.isZero then .num false 0 0 else x

/-- What a quarter computes with. -/
structure Tile where
  f : FmtWord
  kb : Nat
  k : Nat
  bitmap : Nat
  aStr : Fin 32 → Nat
  aIdx : Fin 32 → Nat
  aNum : Fin 32 → Nat
  bStr : Fin 32 → Nat
  bNum : Fin 32 → Nat
  aExp : Nat → Nat
  bExp : Nat → Nat

/-- The fragments of a quarter. -/
def Issue.tile (g : Issue) (o : MmaOp) (core : Core) (q : Nat) : Tile :=
  let f := g.wordOf o q
  let s := (f.shape o.sparse).getD (1, 0)
  let x := g.warp
  let na := f.aFrag o.sparse s.2
  { f := f, kb := s.1, k := s.2, bitmap := g.bitmap o q
    aStr := fun l => x.fragment o.va l na
    aIdx := fun l => x.fragment (nextV o.va (na + (isBfp f.a).toNat)) l (s.2 / 32)
    aNum := fun l => x.blockNum o.va na l
    bStr := fun l => x.fragment o.vb l (f.bFrag s.2)
    bNum := fun l => x.blockNum o.vb (f.bFrag s.2) l
    aExp := fun n => core.exponent g.team.ctx f.tid n
    bExp := fun n => core.exponent g.team.ctx (if isBfp f.a then (f.tid + 1) % 65536 else f.tid) n }

/-- The operand pairs of K-block `b` for row lane `i` and column lane `j`, none for absent or skipped ones (16 R297, R300). -/
def Tile.pairs (t : Tile) (sparse : Bool) (b : Nat) (i : Fin 32) (j : Option (Fin 32)) : List (Option (FVal × FVal)) :=
  let col := fun (l : Fin 32) (k : Nat) => elemVal t.f.b (if isBfp t.f.b then t.bExp (t.bNum l + k / 32) else 0) (elemBits t.f.b (t.bStr l) k)
  if sparse then
    none :: (List.range (t.kb / 2)).map fun e0 =>
      let e := b * (t.kb / 2) + e0
      let k := 4 * (e / 2) + t.aIdx i / 2 ^ (2 * e) % 4
      match j with
      | some l =>
        if t.bitmap.testBit (e / 8) then
          some (elemVal t.f.a (if isBfp t.f.a then t.aExp (t.aNum i + e / 16) else 0) (elemBits t.f.a (t.aStr i) e), col l k)
        else none
      | none => none
  else
    (List.range t.kb).map fun k0 =>
      let k := b * t.kb + k0
      j.map fun l => (elemVal t.f.a (if isBfp t.f.a then t.aExp (t.aNum i + k / 32) else 0) (elemBits t.f.a (t.aStr i) k), col l k)

/-- The products of K-block `b`, and whether one of their operands is a NaN. A zero product of floats or BFP elements has the sign of its
factors (DEDUCED: assumption log 88). -/
def Tile.products (t : Tile) (sparse : Bool) (b : Nat) (i : Fin 32) (j : Option (Fin 32)) : List FVal × Bool :=
  let p := Machine.products (t.pairs sparse b i j)
  if isIntFmt t.f.a && isIntFmt t.f.b then (p.1.map FVal.integral, p.2) else p

/-- The accumulator element after every K-block, in increasing k (16 R297). -/
def Tile.sum (t : Tile) (sparse : Bool) (i : Fin 32) (j : Option (Fin 32)) (c : Nat) : Nat × Exc :=
  (List.range (t.k / t.kb)).foldl (fun acc b =>
    if !blockLive sparse t.bitmap t.kb b then acc
    else
      let p := t.products sparse b i j
      if t.f.acc = 1 then (updateI32 acc.1 p.1, acc.2)
      else
        let r := updateF32 acc.1 p.1 p.2
        (r.1, acc.2.or { Exc.none with iv := r.2.iv, of := r.2.of })) (c, Exc.none)

/-! ### MMA and MMAS (16 R297 to R303) -/

/-- An accumulator element: the latest value that a matrix unit has for it, else the register (16 R303). -/
def Warp.accumulator (x : Warp) (n : Fin 64) (l : Fin 32) : Word :=
  match x.mma.reverse.findSome? fun p => p.writes.reverse.find? fun w => w.1 = n ∧ w.2.1 = l with
  | some w => w.2.2
  | none => (x.v.at n).at l

/-- The new accumulators of an issue: (register, lane, value, exceptions). -/
def Issue.accumulate (g : Issue) (o : MmaOp) (core : Core) : List (Fin 64 × Fin 32 × Word × Exc) :=
  g.quarters.flatMap fun q =>
    let t := g.tile o core q
    (g.quarter q).flatMap fun l => (List.range 8).map fun j =>
      let n := g.warp.name (nextV o.vc j) l
      let col := (g.suppliers o q).find? fun s => s.val % 8 = j
      let r := t.sum o.sparse l col (g.warp.accumulator n l).toNat
      (n, l, BitVec.ofNat 32 r.1, r.2)

/-- The retained units of the quarters taking part (01 R24). -/
def Mach.retainedUnits (m : Mach) (g : Issue) : Bool :=
  match m.core? g.team.die g.core with
  | some x => g.quarters.any fun q => x.retained.getLsbD q
  | none => false

/-- The units of the quarters taking part restored. -/
def Mach.restoreUnits (m : Mach) (g : Issue) : Mach :=
  m.modCore g.team.die g.core fun x =>
    { x with retained := x.retained &&& ~~~(BitVec.ofNat 4 ((g.quarters.map fun q => 2 ^ q).sum)) }

/-- An MMA whose operands are known: its scale entries and lines are fetched, then it computes (16 R302 steps 4 to 8). With several
entries, step 6 tests every tensor against SDCNT, then fetches every entry not held, then tests the valid bits and block numbers (DESIGN
CHOICE: assumption log 87). -/
def Mach.mma (m : Mach) (g : Issue) (i : Instr) (o : MmaOp) : Mach :=
  let x := (m.core? g.team.die g.core).getD Core.reset
  let ctx := g.team.ctx
  let needs := g.quarters.flatMap (g.needs o)
  let inQuarter := fun (bad : Nat → Bool) (l : Fin 32) => bad (l.val / 8)
  let badWord := fun q => !(g.wordOf o q).ok o.sparse
  let unbound := fun n : Nat × Nat × Fin 32 => decide (g.ctx.sdcnt ≤ n.1)
  let at_ := fun (bad : Nat × Nat × Fin 32 → Bool) (l : Fin 32) => needs.any fun n => decide (n.2.2 = l) && bad n
  if g.quarters.any (g.disagrees o.vf 0) then m.trap g i (g.inLane (TrapRec.of 0x22) (inQuarter (g.disagrees o.vf 0)))
  else if o.sparse && g.quarters.any (g.disagrees o.vf 1) then
    m.trap g i (g.inLane (TrapRec.of 0x22) (inQuarter (g.disagrees o.vf 1)))
  else if g.quarters.any badWord then m.trap g i (g.inLane (TrapRec.illegal .formatPair) (inQuarter badWord))
  else if needs.any unbound then m.trap g i (g.inLane (TrapRec.illegal .scale) (at_ unbound))
  else
    match needs.find? fun n => (x.entry? ctx n.1).isNone with
    | some n =>
      m.withLoad g i (g.ctx.sdbase + 16 * n.1) 16 (fun m a => m.dieRead g.team.die a 16) fun m v =>
        m.modCore g.team.die g.core fun k =>
          k.addEntry (ScaleEntry.parse ctx n.1 ((m.keyOf ctx (g.ctx.sdbase + 16 * n.1)).getD 0) v)
    | none =>
      let bad := fun n : Nat × Nat × Fin 32 => match x.entry? ctx n.1 with
        | some e => !e.valid || decide (e.nblk ≤ n.2.1)
        | none => true
      if needs.any bad then m.trap g i (g.inLane (TrapRec.illegal .scale) (at_ bad))
      else
        match needs.find? fun n => (x.exponent? ctx n.1 n.2.1).isNone with
        | some n =>
          match x.entry? ctx n.1 with
          | some e =>
            Mach.withBytes i g (e.span (n.2.1 / 64)).2 (e.span (n.2.1 / 64)).1 m fun m bs =>
              m.modCore g.team.die g.core fun k =>
                k.addLine { ctx := ctx, tid := n.1, q := n.2.1 / 64, pas := bs.map (·.1), exps := bs.map (·.2) }
          | none => m
        | none =>
          let r := g.accumulate o x
          let lane := fun l : Fin 32 => (r.filter fun w => w.2.1 = l).foldl (fun e w => e.or w.2.2.2) Exc.none
          m.unlessFloat g i lane
            (m.retire g i { g.warp.begin i.uses with
              mma := g.warp.mma ++ [{ c := o.vc.val, writes := r.map fun w => (w.1, w.2.1, w.2.2.1) }] })

/-- An MMA or MMAS. -/
def mmaOp (i : Instr) (o : MmaOp) (s : State) : Host.Outcome State Fault Refusal :=
  withIssuer s fun m g =>
    match g.mmaGate i o with
    | .trap r => .next (m.trap g i r)
    | .wait => .next (m.stall g)
    | .pass => .next (if m.retainedUnits g then m.restoreUnits g else m.mma g i o)

/-- 16 R297. -/
def execMma (vb va vf vc : Fin 64) (q0 : Bool) (s : State) : Host.Outcome State Fault Refusal :=
  mmaOp (.mma vb va vf vc q0) { vb := vb, va := va, vf := vf, vc := vc, q0 := q0, sparse := false } s
/-- 16 R300. -/
def execMmas (vb va vf vc : Fin 64) (q0 : Bool) (s : State) : Host.Outcome State Fault Refusal :=
  mmaOp (.mmas vb va vf vc q0) { vb := vb, va := va, vf := vf, vc := vc, q0 := q0, sparse := true } s

/-! ### MZERO, MCVT and MSCL (16 R304 to R306) -/

/-- An instruction of a matrix unit: a retained unit is restored first (01 R24). -/
def matrixIssue (i : Instr) (s : State) (run : Mach → Issue → Mach) : Host.Outcome State Fault Refusal :=
  issue i s fun m g => if m.retainedUnits g then m.restoreUnits g else run m g

/-- `n` registers from `d` written in the participants. -/
def Issue.writeRun (g : Issue) (x : Warp) (d : Fin 64) (n : Nat) (val : Nat → Fin 32 → Word) : Warp :=
  (List.range n).foldl (fun y j => y.setV g.active (nextV d j) (val j)) x

/-- A conversion of an accumulator into `n` registers (16 R304). -/
def convertRun (i : Instr) (d : Fin 64) (n : Nat) (f : Warp → Nat → Fin 32 → Nat × Exc) (s : State) : Host.Outcome State Fault Refusal :=
  matrixIssue i s fun m g =>
    m.unlessFloat g i (fun l => (List.range n).foldl (fun e j => e.or (f g.warp j l).2) Exc.none)
      (m.retire g i (g.writeRun (g.warp.begin i.uses) d n fun j l => BitVec.ofNat 32 (f g.warp j l).1))

/-- The register of a lane at place `j` of a run that a source names. -/
def Warp.runSrcReg (x : Warp) (a : Src) (j : Nat) (l : Fin 32) : Nat :=
  match a with
  | .v n => (x.runReg n j l).toNat
  | _ => 0

/-- 16 R304. -/
def execMzero (d : Fin 64) (s : State) : Host.Outcome State Fault Refusal :=
  matrixIssue (.mzero d) s fun m g =>
    m.retire g (.mzero d) (g.writeRun (g.warp.begin (Instr.mzero d).uses) d 8 fun _ _ => 0)
/-- 16 R304. -/
def execMcvtH2 (d : Fin 64) (a : Src) (r : Rm) (s : State) : Host.Outcome State Fault Refusal :=
  convertRun (.mcvtH2 d a r) d 4 (fun x j l =>
    halves (fcvt F32 F16 r (x.runSrcReg a (2 * j) l)) (fcvt F32 F16 r (x.runSrcReg a (2 * j + 1) l))) s
/-- 16 R304. -/
def execMcvtB2 (d : Fin 64) (a : Src) (r : Rm) (s : State) : Host.Outcome State Fault Refusal :=
  convertRun (.mcvtB2 d a r) d 4 (fun x j l =>
    halves (fcvt F32 BF16 r (x.runSrcReg a (2 * j) l)) (fcvt F32 BF16 r (x.runSrcReg a (2 * j + 1) l))) s
/-- 16 R304. -/
def execMcvtF32 (d : Fin 64) (a : Src) (r : Rm) (s : State) : Host.Outcome State Fault Refusal :=
  convertRun (.mcvtF32 d a r) d 8 (fun x j l => fofInt F32 r (sextNat (x.runSrcReg a j l) 32)) s
/-- 16 R304. -/
def execMcvtI32 (d : Fin 64) (a : Src) (r : Rm) (s : State) : Host.Outcome State Fault Refusal :=
  convertRun (.mcvtI32 d a r) d 8 (fun x j l =>
    let v := ftoInt F32 r (x.runSrcReg a j l)
    ((BitVec.ofInt 32 v.1).toNat, v.2)) s

/-- 16 R305. -/
def execMsclB (a b : Src) (s : State) : Host.Outcome State Fault Refusal :=
  let i := Instr.msclB a b
  matrixIssue i s fun m g =>
    let p := g.warp.pair b
    let t := p / 2 ^ 32 % 65536
    let n := p % 2 ^ 32
    if g.ctx.sdcnt ≤ t then m.illegal g i .scale
    else
      m.shoot g i { ctr := .ifg, act := .bind t, place := .die, size := 16, scalar := true, kind := .store, sup := anyClass }
        [{ lane := 0, scratch := false, addr := g.ctx.sdbase + 16 * t, reg := 0,
           data := g.warp.pair a % 2 ^ 48 + n * 2 ^ 64 + (if n = 0 then 0 else 2 ^ 96), cmp := 0 }] []

/-- 16 R306. -/
def execMsclP (a b : Src) (s : State) : Host.Outcome State Fault Refusal :=
  let i := Instr.msclP a b
  matrixIssue i s fun m g =>
    (m.fetchScale g.team.die g.core g.team.ctx ((g.warp.one a).toNat % 65536) ((g.warp.one b).toNat / 64) g.team.super).retire g i
      (g.warp.begin i.uses)

/-! ### Events of the matrix units -/

/-- 16 R303. -/
def execMmaWriteback (t w : Nat) (s : State) : Host.Outcome State Fault Refusal := always s fun m => m.writeBack t w

/-- 05 R95: the line arrives at the core of the warp. A line that would trap does not arrive; its MMA takes the fault. -/
def execScaleLineFill (t w tid line : Nat) (s : State) : Host.Outcome State Fault Refusal :=
  always s fun m =>
    match m.teams[t]?, m.warp? t w with
    | some x, some y => m.fetchScale x.die y.core x.ctx tid line x.super
    | _, _ => m

/-- The bit of a unit of a core. -/
def unitBit (unit : Nat) : BitVec 4 := BitVec.ofNat 4 (2 ^ unit)

/-- 01 R24. -/
def execMatrixUnitRestore (die core unit : Nat) (s : State) : Host.Outcome State Fault Refusal :=
  always s fun m => m.modCore die core fun x => { x with retained := x.retained &&& ~~~unitBit unit }

/-- 01 R24: a unit is lowered while no warp of its core awaits a matrix result. -/
def execMatrixUnitRetention (die core unit : Nat) (s : State) : Host.Outcome State Fault Refusal :=
  always s fun m =>
    if m.teams.any fun t => t.die == die && t.warps.any fun x => x.core == core && !x.mma.isEmpty then m
    else m.modCore die core fun x => { x with retained := x.retained ||| unitBit unit }

end Sys2Proof.Machine
end

