-- ==== Sys2Proof/Machine/Pipes.lean ====
section
/-! DEFINITION. The pipe instructions and the mailboxes (spec 18 R320, R328; 19 R353 to R356; 20 R359). -/

namespace Sys2Proof.Machine

/-! ### The pipe instructions (19 R353 to R355) -/

/-- A loaded pipe of the issuing context; mailboxes only where `msg` allows them. -/
def Mach.ownPipe (m : Mach) (g : Issue) (n : Nat) (msg : Bool) : Option Pipe :=
  (m.pipe? n).bind fun p => if p.ctx = g.team.ctx ∧ (msg ∨ !p.msg) then some p else none

/-- The acquire of a slot reserved or taken, at the scope of 18 R320: it joins the commit or the release of the slot (12 R235). -/
def Mach.joinSlot (m : Mach) (g : Issue) (p : Pipe) (j : Nat) : Mach :=
  (m.acquireDrops g.team.die g.core (p.scope g.team.die)).applySeen g.team.die (p.seenAt j)

/-- PRSV and PTRY.R: `fail` is what happens with FREE = 0. -/
def reserveOp (i : Instr) (d : Fin 32) (a : Src) (fail : Mach → Issue → Mach) (s : State) : Host.Outcome State Fault Refusal :=
  issueLast i s fun m g =>
    match m.ownPipe g (g.warp.one a).toNat false with
    | none => m.illegal g i .pipe
    | some p =>
      match p.reserve with
      | none => fail m g
      | some (j, q) =>
        ((m.setPipe q).joinSlot g p j).retire g i ((g.warp.begin i.uses).setPair d (p.slotAddr j))

/-- PACQ and PTRY.A: `fail` is what happens while the slot is not ready. -/
def takeOp (i : Instr) (d : Fin 32) (a : Src) (fail : Mach → Issue → Mach) (s : State) : Host.Outcome State Fault Refusal :=
  issueLast i s fun m g =>
    match m.ownPipe g (g.warp.one a).toNat true with
    | none => m.illegal g i .pipe
    | some p =>
      match p.takeable with
      | none => fail m g
      | some j =>
        ((m.setPipe (p.take j)).joinSlot g p j).retire g i
          ((g.warp.begin i.uses).setPair d (p.slotAddr j))

/-- The failure value of PTRY (19 R353). -/
def tryFail (i : Instr) (d : Fin 32) (m : Mach) (g : Issue) : Mach := m.retire g i ((g.warp.begin i.uses).setPair d (2 ^ 64 - 1))

/-- 19 R353. -/
def execPrsv (d : Fin 32) (a : Src) (s : State) : Host.Outcome State Fault Refusal := reserveOp (.prsv d a) d a (fun m _ => m) s
/-- 19 R353. -/
def execPtryR (d : Fin 32) (a : Src) (s : State) : Host.Outcome State Fault Refusal := reserveOp (.ptryR d a) d a (tryFail (.ptryR d a) d) s
/-- 19 R353. -/
def execPacq (d : Fin 32) (a : Src) (s : State) : Host.Outcome State Fault Refusal := takeOp (.pacq d a) d a (fun m _ => m) s
/-- 19 R353. -/
def execPtryA (d : Fin 32) (a : Src) (s : State) : Host.Outcome State Fault Refusal := takeOp (.ptryA d a) d a (tryFail (.ptryA d a) d) s

/-- The slot that an operand names, if it is in a state. -/
def Pipe.slotIn (p : Pipe) (va : Nat) (st : SlotState) : Option Nat :=
  (p.slotAt va).bind fun j => if p.stateOf j = some st then some j else none

/-- 19 R353. -/
def execPcmt (a b : Src) (s : State) : Host.Outcome State Fault Refusal :=
  let i := Instr.pcmt a b
  issueLast i s fun m g =>
    match m.ownPipe g (g.warp.one a).toNat false with
    | none => m.illegal g i .pipe
    | some p =>
      match p.slotIn (g.warp.pair b) .reserved with
      | none => m.illegal g i .pipeState
      | some j => m.withRelease g i (p.scope g.team.die) fun m => (m.commitSlot p.num j (m.seenBy g.team.die)).retire g i (g.warp.begin i.uses)

/-- 19 R353. -/
def execPrel (a b : Src) (s : State) : Host.Outcome State Fault Refusal :=
  let i := Instr.prel a b
  issueLast i s fun m g =>
    match m.ownPipe g (g.warp.one a).toNat true with
    | none => m.illegal g i .pipe
    | some p =>
      match p.slotIn (g.warp.pair b) .taken with
      | none => m.illegal g i .pipeState
      | some j => (m.releaseSlot p.num j []).retire g i (g.warp.begin i.uses)

/-- HELD and ROOM of a ring (19 R343). -/
def Ring.held (r : Ring) : Nat := (r.pi - r.ci).toNat
def Ring.depth (r : Ring) : Nat := 2 ^ r.dlg
def Ring.room (r : Ring) : Nat := r.depth - r.held

/-- The status word of a pipe (19 R355). -/
def Pipe.status (p : Pipe) : Nat :=
  p.fullL2 + p.free * 2 ^ 7 + p.spilled.length * 2 ^ 14 + p.wmark.toNat * 2 ^ 30 + p.msg.toNat * 2 ^ 31

/-- 19 R355. -/
def execPstat (d : Fin 32) (a : Src) (s : State) : Host.Outcome State Fault Refusal :=
  let i := Instr.pstat d a
  issueLast i s fun m g =>
    let h := (g.warp.one a).toNat
    let done := fun v : Nat => m.retire g i ((g.warp.begin i.uses).setS d (BitVec.ofNat 32 v))
    if hr : h < 16 then
      match g.team.rings.at ⟨h, hr⟩ with
      | some r => done (r.held % 2 ^ 16 + r.room * 2 ^ 16)
      | none => m.illegal g i .ring
    else if 0x8000 ≤ h ∧ h < 0x9000 then
      match m.ownPipe g (h - 0x8000) true with
      | some p => done p.status
      | none => m.illegal g i .pipe
    else m.badOperand g i

/-! ### Mailboxes (19 R356, 18 R328) -/

/-- How an area to copy stands: its bytes are reached, a denied granule reads 0 and keeps its bytes (13 R252), or its host or peer is
lost, which the copy itself meets (19 R356, 21 R376). -/
inductive Area where
  | reached | denied | lost
deriving DecidableEq, Repr

/-- The checks of a copied area before a slot is reserved or taken: alignment, translation, permission and residency of it. -/
def Mach.withArea (m : Mach) (g : Issue) (i : Instr) (va n : Nat) (kind : Access) (k : Mach → RangeDesc → Area → Mach) : Mach :=
  match m.translate g.team.die g.core g.team.ctx va n kind g.team.super with
  | (.error e, m) => m.trap g i { TrapRec.of e with va := va }
  | (.ok r, m) =>
    match m.lateCheck g.team.ctx r va (decide (g.warp.replayData &&& g.gang ≠ 0)) with
    | (.fault c gs, m) =>
      if c = 0x43 ∨ c = 0x44 then k m r .lost
      else if c = 0x35 then m.trap g i (m.lateRec g c gs r.agent va)
      else m.redo g i (m.lateRec g c gs r.agent va)
    | (.zero, m) => k m r .denied
    | (.ok, m) => k m r .reached

/-- A message sent: its slot is reserved, and the copy is an access in flight, which raises IFG until the slot is committed (19
R356). The slot keeps the epochs that the release before the reservation covers. -/
def Mach.sendMessage (m : Mach) (g : Issue) (i : Instr) (p : Pipe) (r : RangeDesc) (va : Nat) (st : Area) : Mach :=
  match p.reserve with
  | none => m
  | some (j, q) =>
    let f : Flight :=
      { ctr := .ifg, act := .pmsg p.num j, place := .die, size := p.slotSize, scalar := true
        lanes := [{ lane := 0, va := va, key := r.key va, desc := some r, reg := va, data := 0, cmp := decide (st = .denied) |>.toNat }]
        done := [], gang := g.gang, pc := m.trapPc g, head := m.trapPc g, next := g.pc + i.size, iword := i.word, skid := 0, replay := false
        snap := g.warp.snap }
    let x := (g.warp.begin i.uses).raise .ifg
    (m.setPipe (q.setSlot j { st := .reserved, seq := p.rseq, seen := m.seenBy g.team.die })).retire g i { x with flight := x.flight ++ [f] }

/-- 19 R356. A mailbox whose home a failed link has cut off is out of reach (23 R383). -/
def execPmsg (a b : Src) (s : State) : Host.Outcome State Fault Refusal :=
  let i := Instr.pmsg a b
  issueLast i s fun m g =>
    match m.pipe? (g.warp.one a).toNat with
    | none => m.illegal g i .pipe
    | some p =>
      let same := match m.ctx? p.ctx with
        | some c => decide (c.part = g.ctx.part)
        | none => false
      if !p.msg || !same then m.illegal g i .pipe
      else if 255 ≤ g.warp.ifg then m
      else if m.isHalted p.home then m.redo g i (TrapRec.of 0x44)
      else
        m.withArea g i (g.warp.pair b) p.slotSize .load fun m r st =>
          m.withRelease g i (p.scope g.team.die) fun m => m.sendMessage g i p r (g.warp.pair b) st

/-- 19 R356. A message that met poison, or whose destination is lost, is consumed. A destination in a slot area is written at the home
of its pipe (18 R320). -/
def execPrecv (d : Fin 32) (a b : Src) (s : State) : Host.Outcome State Fault Refusal :=
  let i := Instr.precv d a b
  issueLast i s fun m g =>
    match m.ownPipe g (g.warp.one a).toNat true with
    | none => m.illegal g i .pipe
    | some p =>
      if !p.msg then m.illegal g i .pipe
      else
        let va := g.warp.pair b
        m.withArea g i va p.slotSize .store fun m r st =>
          match p.takeable with
          | none => m
          | some j =>
            let home := (m.slotHome g.team.ctx va).getD g.team.die
            let bad := m.poisonAt p.home p.ctx (p.slotAddr j) p.slotSize || decide (st = .lost) || m.isHalted home
            match m.bytesAt p.home p.ctx (p.slotAddr j) p.slotSize with
            | none => m
            | some v =>
              let m1 := (v.2.setPipe (p.take j)).joinSlot g p j
              let m2 := if bad || decide (st = .denied) then m1 else (pieces p.slotSize).foldl (fun m q =>
                m.dieStore home (if home = g.team.die then some g.core else none) (r.key va + q.1) q.2 (v.1 / 2 ^ (8 * q.1) % 2 ^ (8 * q.2))) m1
              let m3 := (m2.releaseSlot p.num j []).retire g i ((g.warp.begin i.uses).setS d p.tseq)
              if bad then m3.copyFault g.t g.w (m.trapPc g) va 0 else m3

/-! ### The producer of a remote pipe (18 R318, 23 R390) -/

/-- 18 R318: a reservation, or a commit of a slot with its contents, from another package reaches the home. -/
def execRemotePipeRequest (pipe : Nat) (commit : Bool) (slot : Nat) (bs : List Byte) (s : State) : Host.Outcome State Fault Refusal :=
  always s fun m =>
    match m.pipe? pipe with
    | none => m
    | some p =>
      if !p.remote then m
      else if commit then
        if p.stateOf slot = some .reserved then
          ((List.range (min bs.length p.slotSize)).foldl (fun m i =>
            m.putBytes p.home p.ctx (p.slotAddr slot + i) 1 (bs.getD i 0).toNat) m).commitSlot pipe slot []
        else m
      else
        match p.reserve with
        | some (_, q) => m.setPipe q
        | none => m

end Sys2Proof.Machine
end

