-- ==== Sys2Proof/Machine/Engines.lean ====
section
/-! DEFINITION. Rings, the posts of the engines and the operations posted (spec 19 R343 to R352, 12 R234, R235). -/

namespace Sys2Proof.Machine

/-! ### Rings (19 R343 to R345) -/

/-- A ring descriptor; none if it breaks 19 R343. -/
def Ring.parse (v : Nat) : Option Ring :=
  let base := field v 0 48
  let elg := field v 49 5
  let dlg := field v 54 4
  let p := BitVec.ofNat 32 (field v 64 32)
  let c := BitVec.ofNat 32 (field v 96 32)
  let scratch := decide (field v 48 1 = 1)
  if 4 ≤ elg ∧ elg ≤ 16 ∧ dlg ≤ 12 ∧ base % 2 ^ min elg 7 = 0 ∧ (!scratch ∨ base < 2 ^ 19) ∧ field v 58 6 = 0 ∧ field v 128 128 = 0 ∧
      (p - c).toNat ≤ 2 ^ dlg then
    some { base := base, scratch := scratch, elg := elg, dlg := dlg, pi := p, ci := c }
  else none

/-- The address of entry `i`; a scratch address is raised by 2^60. -/
def Ring.entry (r : Ring) (i : Nat) : Nat := (if r.scratch then 2 ^ 60 else 0) + r.base + i % r.depth * 2 ^ r.elg

/-- The ring indices that an operation reads from and writes to. -/
def EngOp.inRings (o : EngOp) : List Nat := ([o.in0, o.in1].filter (· < 16)).eraseDups
def EngOp.outRings (o : EngOp) : List Nat := (o.outs.filter (· < 16)).eraseDups

/-- The incomplete operations of a team. -/
def Mach.opsOf (m : Mach) (t : Nat) : List EngOp := m.ops.filter fun o => o.team == t && decide (o.phase ≠ .ended)

/-- A sub-operation of ERSET on a bound ring: `k` gets the index and the ring. -/
def ringOp (i : Instr) (a : Src) (s : State) (k : Mach → Issue → Fin 16 → Ring → Mach) : Host.Outcome State Fault Refusal :=
  issueLast i s fun m g =>
    let h := (g.warp.one a).toNat
    if hr : h < 16 then
      match g.team.rings.at ⟨h, hr⟩ with
      | some r => k m g ⟨h, hr⟩ r
      | none => m.illegal g i .ring
    else m.badOperand g i

/-- A sub-operation with a count: n is 1 to DEPTH (19 R345). -/
def ringCount (i : Instr) (a b : Src) (s : State) (k : Mach → Issue → Fin 16 → Ring → Nat → Mach) : Host.Outcome State Fault Refusal :=
  issueLast i s fun m g =>
    let h := (g.warp.one a).toNat
    let n := (g.warp.one b).toNat
    if hr : h < 16 then
      if n = 0 ∨ 4096 < n then m.badOperand g i
      else
        match g.team.rings.at ⟨h, hr⟩ with
        | some r => if r.depth < n then m.badOperand g i else k m g ⟨h, hr⟩ r n
        | none => m.illegal g i .ring
    else m.badOperand g i

/-- A binding of a team replaced. -/
def Mach.setRing (m : Mach) (t : Nat) (h : Fin 16) (r : Option Ring) : Mach := m.modTeam t fun x => { x with rings := x.rings.put h r }

/-- 19 R345. -/
def execErsetBind (a b : Src) (s : State) : Host.Outcome State Fault Refusal :=
  let i := Instr.ersetBind a b
  issueLast i s fun m g =>
    let h := (g.warp.one b).toNat
    if hr : h < 16 then
      m.withLoad g i (g.warp.pair a) 32 (g.plainly 32) fun m v =>
        match Ring.parse v with
        | none => m.illegal g i .ring
        | some r => (m.setRing g.t ⟨h, hr⟩ (some r)).retire g i (g.warp.begin i.uses)
    else m.badOperand g i

/-- 19 R345. -/
def execErsetFree (a : Src) (s : State) : Host.Outcome State Fault Refusal :=
  let i := Instr.ersetFree a
  ringOp i a s fun m g h _ =>
    if (m.opsOf g.t).any fun o => o.inRings.contains h.val || o.outRings.contains h.val then m
    else (m.setRing g.t h none).retire g i (g.warp.begin i.uses)

/-- 19 R345. A PUSH beside a posted operation that advances the same pointer leaves it undefined (R344; DESIGN CHOICE: assumption log 23). -/
def execErsetPush (a b : Src) (s : State) : Host.Outcome State Fault Refusal :=
  let i := Instr.ersetPush a b
  ringCount i a b s fun m g h r n =>
    if r.room < n then m.illegal g i .ringState
    else if (m.opsOf g.t).any fun o => o.outRings.contains h.val then
      ({ m with free := m.free + 1 }.setRing g.t h (some { r with pi := Config.freeWord m.free })).retire g i (g.warp.begin i.uses)
    else (m.setRing g.t h (some { r with pi := r.pi + BitVec.ofNat 32 n })).retire g i (g.warp.begin i.uses)

/-- 19 R345. A POP beside a posted operation that advances the same pointer leaves it undefined (R344; DESIGN CHOICE: assumption log 23). -/
def execErsetPop (a b : Src) (s : State) : Host.Outcome State Fault Refusal :=
  let i := Instr.ersetPop a b
  ringCount i a b s fun m g h r n =>
    if r.held < n then m.illegal g i .ringState
    else if (m.opsOf g.t).any fun o => o.inRings.contains h.val then
      ({ m with free := m.free + 1 }.setRing g.t h (some { r with ci := Config.freeWord m.free })).retire g i (g.warp.begin i.uses)
    else (m.setRing g.t h (some { r with ci := r.ci + BitVec.ofNat 32 n })).retire g i (g.warp.begin i.uses)

/-- 19 R345. -/
def execErsetWaitf (a b : Src) (s : State) : Host.Outcome State Fault Refusal :=
  let i := Instr.ersetWaitf a b
  ringCount i a b s fun m g _ r n =>
    if n ≤ r.held then (m.acquireDrops g.team.die g.core .die).retire g i (g.warp.begin i.uses) else m

/-- 19 R345. -/
def execErsetWaite (a b : Src) (s : State) : Host.Outcome State Fault Refusal :=
  let i := Instr.ersetWaite a b
  ringCount i a b s fun m g _ r n =>
    if n ≤ r.room then (m.acquireDrops g.team.die g.core .die).retire g i (g.warp.begin i.uses) else m

/-! ### Posts (19 R346, R347) -/

/-- What a handle names. -/
inductive Handle where
  | ring (n : Fin 16) | pipe (n : Nat) | span (k : Fin 3) | none
deriving DecidableEq, Repr

/-- A handle read; the outer none is a malformed value. -/
def Handle.of (h : Nat) : Option Handle :=
  if hr : h < 16 then some (.ring ⟨h, hr⟩)
  else if 0x8000 ≤ h ∧ h < 0x9000 then some (.pipe (h - 0x8000))
  else if h = 0xF000 then some (.span 0) else if h = 0xF001 then some (.span 1) else if h = 0xF002 then some (.span 2)
  else if h = 0xFFFF then some .none else none

/-- Whether a handle names an endpoint. -/
def isEnd (h : Nat) : Bool := match Handle.of h with | some .none => false | some _ => true | none => false

/-- Whether a handle names a span. -/
def isSpan (h : Nat) : Bool := decide (0xF000 ≤ h ∧ h ≤ 0xF002)

/-- An operation read from its descriptor (19 R346). -/
def EngOp.parse (g : Issue) (kind : EngKind) (va pc v : Nat) : EngOp :=
  { ctx := g.team.ctx, die := g.team.die, team := g.t, warp := g.w, kind := kind, in0 := field v 0 16, in1 := field v 16 16
    outs := [field v 32 16] ++ ([field v 416 16, field v 432 16, field v 448 16].filter (· ≠ 0xFFFF))
    n := field v 48 6 + 1, scope := (match field v 54 2 with | 0 => .pkg | 1 => .die | _ => .sys), ulg := field v 56 5
    rop := field v 61 3, ccnt := field v 64 48, cinc := field v 128 64, spa := (field v 192 48, decide (field v 240 1 = 1))
    spb := (field v 256 48, decide (field v 304 1 = 1)), spc := (field v 320 48, decide (field v 368 1 = 1)), idxlim := field v 384 32
    edesc := va, pc := pc, posted := 0, phase := .posted, insAt := [], outsAt := [], descs := [], fill := none
    lowered := false }

/-- The span that a handle names: its address and space. -/
def EngOp.span (o : EngOp) (h : Nat) : Nat × Bool := if h = 0xF000 then o.spa else if h = 0xF001 then o.spb else o.spc

/-- The handles of an operation. -/
def EngOp.handles (o : EngOp) : List Nat := [o.in0, o.in1] ++ o.outs

/-- The checks of a descriptor that need nothing but itself (19 R346, R347). -/
def EngOp.wellFormed (o : EngOp) (v : Nat) : Bool :=
  let plainOuts := decide (o.outs.length = 1)
  decide (field v 54 2 ≠ 3) && decide (2 ≤ o.ulg ∧ o.ulg ≤ 16) && decide (field v 112 16 = 0) && decide (field v 241 15 = 0) &&
  decide (field v 305 15 = 0) && decide (field v 369 15 = 0) && decide (field v 464 48 = 0) &&
  (o.handles.all fun h => (Handle.of h).isSome) && isEnd o.in0 && (o.outs.all isEnd) && decide o.outs.Nodup &&
  (o.inRings.all fun r => !o.outRings.contains r) &&
  (o.handles.all fun h => !isSpan h || decide ((o.span h).1 % 2 ^ min o.ulg 7 = 0)) &&
  match o.kind with
  | .copy => decide (o.in1 = 0xFFFF) && decide (o.rop = 0) && plainOuts && decide (o.idxlim = 0)
  | .gath => decide (o.in0 = 0xF000) && decide (o.in1 = 0xF002) && decide (o.rop = 0) && plainOuts
  | .scat => decide (o.in1 = 0xF002) && decide (o.outs = [0xF001]) && decide (o.rop = 0)
  | .red => decide (o.rop ≤ 5) && plainOuts && decide (o.idxlim = 0) && (decide (o.in1 ≠ 0xFFFF) || o.outs.all isSpan)
  | .bcast => decide (o.in1 = 0xFFFF) && decide (o.rop = 0) && decide (o.idxlim = 0)

/-- Whether a bound endpoint fits the unit of an operation; an unbound one is judged by its own trap. -/
def Mach.endFits (m : Mach) (g : Issue) (o : EngOp) (h : Nat) : Bool :=
  match Handle.of h with
  | some (.ring n) => match g.team.rings.at n with
    | some r => decide (r.elg = o.ulg)
    | none => true
  | some (.pipe n) => match m.ownPipe g n true with
    | some p => decide (2 ^ o.ulg ≤ p.slotSize)
    | none => true
  | _ => true

/-- Whether an endpoint is bound. -/
def Mach.ringBound (g : Issue) (h : Nat) : Bool :=
  match Handle.of h with
  | some (.ring n) => (g.team.rings.at n).isSome
  | _ => true
def Mach.pipeBound (m : Mach) (g : Issue) (h : Nat) : Bool :=
  match Handle.of h with
  | some (.pipe n) => (m.ownPipe g n true).isSome
  | _ => true

/-- Engines as they share a limit (19 R347): copy, gather/scatter, collective. -/
def EngKind.engine : EngKind → Nat
  | .copy => 0
  | .gath => 1
  | .scat => 1
  | .red => 2
  | .bcast => 2

/-- The engines of a kind on a die (01 R13). -/
def EngKind.count (k : EngKind) : Nat :=
  match k.engine with
  | 0 => 16
  | 1 => 4
  | _ => 1

/-- A post (19 R347). -/
def postOp (i : Instr) (kind : EngKind) (a : Src) (s : State) : Host.Outcome State Fault Refusal :=
  issueLast i s fun m g =>
    m.withLoad g i (g.warp.pair a) 64 (g.plainly 64) fun m v =>
      let o := EngOp.parse g kind (g.warp.pair a) (m.trapPc g) v
      if !o.wellFormed v || !(o.handles.all (m.endFits g o)) then m.illegal g i .engine
      else if !(o.handles.all (Mach.ringBound g)) then m.illegal g i .ring
      else if !(o.handles.all (m.pipeBound g)) then m.illegal g i .pipe
      else if Config.engineLimit ≤ (m.ops.filter fun q => decide (q.phase ≠ .ended) && q.die == o.die &&
          decide (q.kind.engine = kind.engine)).length then m
      else if 255 ≤ g.warp.ife then m
      else
        ({ m with ops := m.ops ++ [{ o with posted := g.warp.nonmem }] } : Mach).retire g i
          { g.warp.begin i.uses with ife := g.warp.ife + 1 }

/-- 19 R347. -/
def execEcopy (a : Src) (s : State) : Host.Outcome State Fault Refusal := postOp (.ecopy a) .copy a s
/-- 19 R350. -/
def execEgath (a : Src) (s : State) : Host.Outcome State Fault Refusal := postOp (.egath a) .gath a s
/-- 19 R350. -/
def execEscat (a : Src) (s : State) : Host.Outcome State Fault Refusal := postOp (.escat a) .scat a s
/-- 19 R349. -/
def execEred (a : Src) (s : State) : Host.Outcome State Fault Refusal := postOp (.ered a) .red a s
/-- 19 R350. -/
def execEbcast (a : Src) (s : State) : Host.Outcome State Fault Refusal := postOp (.ebcast a) .bcast a s

/-! ### Firing (19 R344, R348) -/

/-- Earlier operations of the team that name an end of a ring that operation number `k` names. -/
def Mach.earlier (m : Mach) (k : Nat) (o : EngOp) : List EngOp :=
  (m.ops.take k).filter fun q => q.team == o.team && decide (q.phase ≠ .ended) &&
    ((q.inRings.any o.inRings.contains) || (q.outRings.any o.outRings.contains))

/-- Entries of ring `n` claimed at one end by fired operations. -/
def Mach.claimed (m : Mach) (t n : Nat) (out : Bool) : Nat :=
  (((m.opsOf t).filter fun o => decide (o.phase ≠ .posted) && (if out then o.outRings.contains n else o.inRings.contains n)).map EngOp.n).sum

/-- `n` slots of a pipe taken in sequence order: their indices. -/
def Pipe.takeN : Nat → Pipe → Option (List Nat × Pipe)
  | 0, p => some ([], p)
  | n + 1, p => p.takeable.bind fun j => (Pipe.takeN n (p.take j)).map fun r => (j :: r.1, r.2)

/-- `n` slots of a pipe reserved. -/
def Pipe.reserveN : Nat → Pipe → Option (List Nat × Pipe)
  | 0, p => some ([], p)
  | n + 1, p => p.reserve.bind fun r => (Pipe.reserveN n r.2).map fun q => (r.1 :: q.1, q.2)

/-- The unit addresses of an endpoint as an operation fires, with what the firing claims; none if it does not hold or has no
room. -/
def Mach.claim (m : Mach) (o : EngOp) (out : Bool) (h : Nat) : Option (List Nat × Mach) :=
  match Handle.of h with
  | some (.span _) =>
    let s := o.span h
    some ((List.range o.n).map fun j => (if s.2 then 2 ^ 60 else 0) + s.1 + j * 2 ^ o.ulg, m)
  | some (.ring n) =>
    match (m.teams[o.team]?).bind fun t => t.rings.at n with
    | some r =>
      let c := m.claimed o.team n.val out
      if out then
        if o.n + c ≤ r.room then some ((List.range o.n).map fun j => r.entry (r.pi.toNat + c + j), m) else none
      else if o.n + c ≤ r.held then some ((List.range o.n).map fun j => r.entry (r.ci.toNat + c + j), m) else none
    | none => none
  | some (.pipe n) =>
    match m.pipe? n with
    | some p =>
      (if out then Pipe.reserveN o.n p else Pipe.takeN o.n p).map fun r => (r.1.map p.slotAddr, m.setPipe r.2)
    | none => none
  | _ => some ([], m)

/-- Every endpoint of a list claimed; one named twice is claimed once. -/
def Mach.claimAll (o : EngOp) (out : Bool) : List Nat → List (Nat × List Nat) → Mach → Option (List (List Nat) × Mach)
  | [], _, m => some ([], m)
  | h :: t, seen, m =>
    match seen.find? fun e => e.1 == h with
    | some e => (Mach.claimAll o out t seen m).map fun r => (e.2 :: r.1, r.2)
    | none => (m.claim o out h).bind fun c => (Mach.claimAll o out t ((h, c.1) :: seen) c.2).map fun r => (c.1 :: r.1, r.2)

/-- Whether the context of an operation runs. -/
def Mach.ctxRuns (m : Mach) (ctx : Nat) : Bool := match m.ctx? ctx with | some c => c.halt.isNone | none => false

/-- The inputs of an operation that hold units: all but the index span. -/
def EngOp.sources (o : EngOp) : List Nat :=
  match o.kind with
  | .gath => []
  | .scat => [o.in0]
  | _ => if o.in1 = 0xFFFF then [o.in0] else [o.in0, o.in1]

/-- Whether an engine of the kind of an operation is free on its die: one moves one fired operation at a time (01 R13; DEDUCED:
assumption log 75). -/
def Mach.engineFree (m : Mach) (o : EngOp) : Bool :=
  decide ((m.ops.filter fun q => decide (q.phase = .fired) && q.die == o.die && decide (q.kind.engine = o.kind.engine)).length < o.kind.count)

/-- 19 R348: an operation fires once its endpoints hold and have room, in the order of the posts on each ring end. Its accesses are
translated then (R351). -/
def execEngineFire (op : Nat) (s : State) : Host.Outcome State Fault Refusal :=
  always s fun m =>
    match m.ops[op]? with
    | none => m
    | some o =>
      if o.phase ≠ .posted ∨ !m.ctxRuns o.ctx ∨ !m.engineFree o ∨ (m.earlier op o).any (fun q => decide (q.phase = .posted)) then m
      else
        match Mach.claimAll o false o.sources [] m with
        | none => m
        | some r =>
          match Mach.claimAll o true o.outs [] r.2 with
          | none => m
          | some q => { q.2 with ops := q.2.ops.modify op fun o =>
            { o with phase := .fired, insAt := r.1, outsAt := q.1, descs := ((m.ctx? o.ctx).map Context.ranges).getD [] } }

/-! ### The work of an operation (19 R348 to R351) -/

/-- Why the work of an operation stops: a pause with the record's cause, residency state, address and quota figures; an error at
an address; or a read still held. -/
inductive EngStop where
  | pause (rcd : TrapRec)
  | error (va : Nat)
  | held

/-- The team of an operation. -/
def Mach.opTeam (m : Mach) (o : EngOp) : Option Team := m.teams[o.team]?

/-- The record of an event that names an operation (21 R364). -/
def EngOp.rcd (o : EngOp) (cause : Nat) : TrapRec := { TrapRec.of cause with ctx := o.ctx, die := o.die, edesc := o.edesc }

/-- The residency of one piece of a unit (19 R351): whether it is denied. -/
def Mach.engResident (m : Mach) (o : EngOp) (r : RangeDesc) (va : Nat) : Except EngStop Bool × Mach :=
  match m.lateCheck o.ctx r va (o.fill = some (va / 65536)) with
  | (.ok, m) => (.ok false, m)
  | (.zero, m) => (.ok true, m)
  | (.fault c gs, m) =>
    let q := m.quota o.ctx r.agent
    if c = 0x40 ∨ c = 0x41 then (.error (.pause { o.rcd 0x46 with va := va, gstate := gs, agent := r.agent }), m)
    else if c = 0x37 then (.error (.pause { o.rcd 0x47 with va := va, gstate := gs, agent := r.agent, limit := q.1, used := q.2 }), m)
    else (.error (.error va), m)

/-- The range of a unit of `n` bytes at a virtual address, permitted for an access (13 R244, R245). -/
def Mach.engRange (m : Mach) (o : EngOp) (va n : Nat) (kind : Access) : Option RangeDesc :=
  let super := ((m.opTeam o).map Team.super).getD false
  if 2 ^ 48 ≤ va then none
  else (findRange o.descs va).bind fun r =>
    if r.lastg < (va + n - 1) / 65536 ∨ !r.permits kind super ∨ (kind = .atomic ∧ 2 ≤ r.cls) then none else some r

/-- Whether every frame that `n` bytes of scratch from `a` cross is one of the team (12 R218). -/
def scratchSpan (t : Team) (a n : Nat) : Bool := (List.range (n / 4096 + 2)).all fun j => scratchOk t (min (a + 4096 * j) (a + n - 1))

/-- `n` bytes of a unit read. -/
def Mach.engRead (m : Mach) (o : EngOp) (u n : Nat) : Except EngStop Nat × Mach :=
  if 2 ^ 60 ≤ u then
    match m.opTeam o with
    | some t =>
      if scratchSpan t (u - 2 ^ 60) n then (.ok (Mem.read t.scratch (u - 2 ^ 60) n), m)
      else (.error (.error (u - 2 ^ 60)), m)
    | none => (.error .held, m)
  else
    match m.engRange o u n .load with
    | none => (.error (.error u), m)
    | some r =>
      (pieces n).foldl (fun (acc : Except EngStop Nat × Mach) p =>
        match acc with
        | (.error e, m) => (.error e, m)
        | (.ok v, m) =>
          match m.engResident o r (u + p.1) with
          | (.error e, m) => (.error e, m)
          | (.ok true, m) => (.ok v, m)
          | (.ok false, m) =>
            let d := (m.slotHome o.ctx (u + p.1)).getD o.die
            if m.meetsPoison d (r.key (u + p.1)) p.2 then (.error (.error (u + p.1)), m)
            else
              match m.dieRead d (r.key (u + p.1)) p.2 with
              | some q => (.ok (v + q.1 * 2 ^ (8 * p.1)), q.2)
              | none => (.error .held, m)) (.ok 0, m)

/-- The pieces of a unit tested for a write or an atomic, before any is written. -/
def Mach.engTest (m : Mach) (o : EngOp) (kind : Access) (u n : Nat) : Option EngStop × Mach :=
  if 2 ^ 60 ≤ u then
    match m.opTeam o with
    | some t => (if scratchSpan t (u - 2 ^ 60) n then none else some (.error (u - 2 ^ 60)), m)
    | none => (some .held, m)
  else
    match m.engRange o u n kind with
    | none => (some (.error u), m)
    | some r =>
      (pieces n).foldl (fun (acc : Option EngStop × Mach) p =>
        match acc with
        | (some e, m) => (some e, m)
        | (none, m) =>
          match m.engResident o r (u + p.1) with
          | (.error e, m) => (some e, m)
          | (.ok _, m) =>
            if kind = .atomic ∧ m.meetsPoison o.die (r.key (u + p.1)) p.2 then (some (.error (u + p.1)), m) else (none, m)) (none, m)

/-- A tested unit written; a denied piece is dropped. -/
def Mach.engWrite (m : Mach) (o : EngOp) (u n v : Nat) : Mach :=
  if 2 ^ 60 ≤ u then m.modTeam o.team fun t => { t with scratch := Mem.write t.scratch (u - 2 ^ 60) n v }
  else
    match m.engRange o u n .store with
    | none => m
    | some r =>
      (pieces n).foldl (fun m p =>
        match m.engResident o r (u + p.1) with
        | (.ok false, m) =>
          m.dieStore ((m.slotHome o.ctx (u + p.1)).getD o.die) none (r.key (u + p.1)) p.2 (v / 2 ^ (8 * p.1) % 2 ^ (8 * p.2))
        | (_, m) => m) m

/-- An ERED operation on 4-byte elements (19 R349). -/
def redElem (rop x y : Nat) : Nat :=
  match rop with
  | 0 => (x + y) % 2 ^ 32
  | 1 => if sextNat y 32 < sextNat x 32 then y else x
  | 2 => if sextNat x 32 < sextNat y 32 then y else x
  | 3 => (fadd F32 .rne x y).1
  | 4 => (fminmax F32 false x y).1
  | _ => (fminmax F32 true x y).1

/-- Two units combined element by element. -/
def redUnit (rop x y : Nat) : Nat → Nat
  | 0 => 0
  | n + 1 => redElem rop (x % 2 ^ 32) (y % 2 ^ 32) + 2 ^ 32 * redUnit rop (x / 2 ^ 32) (y / 2 ^ 32) n

/-- An accumulation into `n` elements of a span, each one atomic step (19 R349). -/
def Mach.accumulate (m : Mach) (o : EngOp) (u v : Nat) : Nat → Mach
  | 0 => m
  | n + 1 =>
    let f := fun old => redElem o.rop old (v % 2 ^ 32)
    let m1 :=
      if 2 ^ 60 ≤ u then
        m.modTeam o.team fun t => { t with scratch := Mem.write t.scratch (u - 2 ^ 60) 4 (f (Mem.read t.scratch (u - 2 ^ 60) 4)) }
      else
        match m.engRange o u 4 .atomic with
        | none => m
        | some r =>
          match m.engResident o r u with
          | (.ok false, m) =>
            if o.scope = .die then
              match m.dieAtomic o.die Config.coresPerDie (r.key u) 4 f with
              | some q => q.2
              | none => (((m.unblock (r.key u)).dieAtomic o.die Config.coresPerDie (r.key u) 4 f).map Prod.snd).getD m
            else (m.agentAtomic o.die (r.key u) 4 f).2
          | (_, m) => m
    Mach.accumulate m1 o (u + 4) (v / 2 ^ 32) n

/-- Units read one after another. -/
def Mach.readUnits (m : Mach) (o : EngOp) (n : Nat) : List Nat → Except EngStop (List Nat) × Mach
  | [] => (.ok [], m)
  | u :: us =>
    match m.engRead o u n with
    | (.error e, m) => (.error e, m)
    | (.ok v, m) =>
      match Mach.readUnits m o n us with
      | (.error e, m) => (.error e, m)
      | (.ok vs, m) => (.ok (v :: vs), m)

/-- The indices of span C (19 R350). -/
def Mach.indices (m : Mach) (o : EngOp) : Except EngStop (List Nat) × Mach :=
  m.readUnits o 4 ((List.range o.n).map fun k => (if o.spc.2 then 2 ^ 60 else 0) + o.spc.1 + 4 * k)

/-- A span unit by index. -/
def EngOp.indexed (o : EngOp) (s : Nat × Bool) (x : Nat) : Nat := (if s.2 then 2 ^ 60 else 0) + s.1 + x * 2 ^ o.ulg

/-- Every unit of a list tested for a write. -/
def Mach.testUnits (m : Mach) (o : EngOp) (kind : Access) (n : Nat) : List Nat → Option EngStop × Mach
  | [] => (none, m)
  | u :: us =>
    match m.engTest o kind u n with
    | (some e, m) => (some e, m)
    | (none, m) => Mach.testUnits m o kind n us

/-- Units written in order, each tested before it; the first that stops leaves the rest unwritten (19 R350, R351). -/
def Mach.writeUnits (m : Mach) (o : EngOp) (n : Nat) : List (Nat × Nat) → Option EngStop × Mach
  | [] => (none, m)
  | w :: ws =>
    match m.engTest o .store w.1 n with
    | (some e, m) => (some e, m)
    | (none, m) => Mach.writeUnits (m.engWrite o w.1 n w.2) o n ws

/-- All the accesses of a fired operation: what it reads, combines and writes. -/
def Mach.engWork (m : Mach) (o : EngOp) : Option EngStop × Mach :=
  let n := 2 ^ o.ulg
  let outs := o.outsAt
  let put := fun (m : Mach) (vs : List Nat) =>
    match m.testUnits o .store n outs.flatten with
    | (some e, m) => (some e, m)
    | (none, m) => (outs.foldl (fun m us => (us.zip vs).foldl (fun m w => m.engWrite o w.1 n w.2) m) m |> fun m => (none, m))
  let src := fun (m : Mach) (k : Nat) => m.readUnits o n (o.insAt.getD k [])
  match o.kind with
  | .gath =>
    match m.indices o with
    | (.error e, m) => (some e, m)
    | (.ok xs, m) =>
      let live := xs.filter (· < o.idxlim)
      match m.readUnits o n (live.map (o.indexed o.spa)) with
      | (.error e, m) => (some e, m)
      | (.ok vs, m) =>
        let table := live.zip vs
        put m (xs.map fun x => ((table.find? fun p => p.1 == x).map (·.2)).getD 0)
  | .scat =>
    match m.indices o with
    | (.error e, m) => (some e, m)
    | (.ok xs, m) =>
      match src m 0 with
      | (.error e, m) => (some e, m)
      | (.ok vs, m) =>
        let ws := ((xs.zip vs).filter fun p => decide (p.1 < o.idxlim)).map fun p => (o.indexed o.spb p.1, p.2)
        match m.testUnits o .store n (ws.map Prod.fst) with
        | (some (.pause r), m) => (some (.pause r), m)
        | (_, m) => m.writeUnits o n ws
  | .red =>
    match src m 0 with
    | (.error e, m) => (some e, m)
    | (.ok xs, m) =>
      if o.in1 = 0xFFFF then
        match m.testUnits o .atomic n outs.flatten with
        | (some e, m) => (some e, m)
        | (none, m) => (none, (outs.flatten.zip xs).foldl (fun m w => m.accumulate o w.1 w.2 (n / 4)) m)
      else
        match src m 1 with
        | (.error e, m) => (some e, m)
        | (.ok ys, m) => put m ((xs.zip ys).map fun p => redUnit o.rop p.1 p.2 (n / 4))
  | _ =>
    match src m 0 with
    | (.error e, m) => (some e, m)
    | (.ok vs, m) => put m vs

/-- The pointers of the rings of a completed operation advanced. -/
def Mach.advance (m : Mach) (o : EngOp) : Mach :=
  m.modTeam o.team fun t => { t with rings := tab fun h => (t.rings.at h).map fun r =>
    { r with
      pi := if o.outRings.contains h.val then r.pi + BitVec.ofNat 32 o.n else r.pi
      ci := if o.inRings.contains h.val then r.ci + BitVec.ofNat 32 o.n else r.ci } }

/-- The slots of an endpoint committed or released, covering some epochs (19 R348, 12 R235). -/
def Mach.settleSlots (m : Mach) (out : Bool) (h : Nat) (us seen : List Nat) : Mach :=
  match Handle.of h with
  | some (.pipe n) =>
    us.foldl (fun m u =>
      match (m.pipe? n).bind fun p => p.slotAt u with
      | some j => if out then m.commitSlot n j seen else m.releaseSlot n j seen
      | none => m) m
  | _ => m

/-- The range of the counter that an operation raises. -/
def EngOp.counterRange (o : EngOp) : Option RangeDesc := findRange o.descs o.ccnt

/-- The test of that counter, an access of the engine like the others (12 R236, 19 R351), made before any of them has an effect: an
operation that pauses or fails at its counter has written nothing and its pointers and slots stay (R351). -/
def Mach.counterTest (m : Mach) (o : EngOp) : Option EngStop × Mach :=
  if o.ccnt = 0 then (none, m)
  else
    match o.counterRange with
    | none => (some (.error o.ccnt), m)
    | some r =>
      if o.ccnt % 8 ≠ 0 ∨ 3 < r.cls ∨ !r.permits .atomic (((m.opTeam o).map Team.super).getD false) then (some (.error o.ccnt), m)
      else
        match m.engResident o r o.ccnt with
        | (.error e, m) => (some e, m)
        | (.ok _, m) => (none, m)

/-- The counter raised; a denied granule drops the update (13 R252). -/
def Mach.engCount (m : Mach) (o : EngOp) : Mach :=
  let denied : Bool := match o.counterRange with
    | some r => decide (m.residency o.ctx r (o.ccnt / 65536) = 2)
    | none => false
  match o.counterRange with
  | some r =>
    if o.ccnt = 0 ∨ denied then m
    else ((m.release o.die (counterScope (r.key o.ccnt))).agentAtomic o.die (r.key o.ccnt) 8 fun v => (v + o.cinc) % 2 ^ 64).2
  | none => m

/-- What an operation covers, known to a posting team that has moved to another die and observes the fall of IFE or a pointer of a
ring there (19 R348, R352). -/
def Mach.joinPoster (m : Mach) (o : EngOp) : Mach :=
  match m.opTeam o with
  | some t => if t.die = o.die ∨ o.scope = .die then m else m.applySeen t.die (m.seenBy o.die)
  | none => m

/-- An operation that has done its accesses completes, in the order of 19 R348. A lost sector of the epoch that it closes, or a write
that its host or peer cannot take, ends it in error (21 R374, R376). -/
def Mach.engDone (m : Mach) (op : Nat) (o : EngOp) : Mach :=
  match m.lostAt o.die o.scope, m.undeliverable o.die o.scope with
  | s :: _, _ => (m.release o.die o.scope).failOp op (m.vaOf o.ctx (32 * s))
  | [], b :: bs => (m.giveUp o.die (b :: bs)).failOp op (m.vaOf o.ctx b)
  | [], [] =>
    let m1 := (m.release o.die o.scope).advance o
    let m2 := (o.outs.zip o.outsAt).foldl (fun m p => m.settleSlots true p.1 p.2 (m.seenBy o.die)) m1
    let m3 := (o.sources.zip o.insAt).eraseDups.foldl (fun m p => m.settleSlots false p.1 p.2 (m.seenBy o.die)) m2
    let m4 := m3.engCount o
    let m5 := m4.joinPoster o
    (({ m5 with ops := m5.ops.modify op fun o => { o with phase := .ended } } : Mach).lowerIfe o.team o.warp).teamEnd o.team

/-- 19 R348 to R351: a fired operation performs its accesses and completes, after the earlier ones on its ring ends; it pauses at
a granule not RESIDENT and ends in error at another fault. It waits while a LINK_RECONF holds what it releases (23 R393). -/
def execEngineComplete (op : Nat) (s : State) : Host.Outcome State Fault Refusal :=
  always s fun m =>
    match m.ops[op]? with
    | none => m
    | some o =>
      if o.phase ≠ .fired ∨ !m.ctxRuns o.ctx ∨ !(m.earlier op o).isEmpty ∨ m.flushHeld o.die o.scope then m
      else
        let r := match m.counterTest o with
          | (none, m) => m.engWork o
          | q => q
        match r with
        | (none, m) => m.engDone op o
        | (some .held, _) => m
        | (some (.error va), m) => (m.failOp op va).teamEnd o.team
        | (some (.pause r), m) =>
          ({ m with ops := m.ops.modify op fun o => { o with phase := .paused r } } : Mach).route o.ctx r (.engine op r) false

/-- The engine fault that a warp is to take, taken at its instruction boundary (19 R351): its other slices stop with it, and its
unretired memory instructions are cancelled (21 R362); one that another instruction has retired past, or that replays, is performed
first (DEDUCED: assumption log 40). The instructions of a chain that runs again do not count (07 R119). -/
def Mach.takeEngFault (m : Mach) (t w : Nat) : Mach :=
  match m.teams[t]?, m.warp? t w with
  | some team, some x0 =>
    match x0.engFault with
    | [] => m
    | r :: rs =>
      if x0.run ≠ .ready ∨ !m.ctxRuns team.ctx then m
      else if x0.flight.any fun f => f.replay || decide (f.skid ≠ 0) then (m.settleOldest t w).2
      else
        let x := x0.cancelAfter 0
        let y := m.atBoundary team x
        let rpc := m.resumePc t w team x
        (m.modWarp t w fun _ => { y with engFault := rs }).takeEvent t w 0 rpc rpc none false false
          { r with rpc := rpc, skid := y.nonmem - r.skid }
  | _, _ => m

/-- 19 R351. -/
def execEngineFault (t w : Nat) (s : State) : Host.Outcome State Fault Refusal := always s fun m => m.takeEngFault t w

end Sys2Proof.Machine
end

