-- ==== Sys2Proof/Machine/Launch.lean ====
section
/-! DEFINITION. Launches from a kernel and graph conditions (spec 19 R357, R358). -/

namespace Sys2Proof.Machine

/-- A device queue of the issuing context at an index: the key of its descriptor, read in place, that of its ring and the ring's size
(18 R308, R334). -/
def Mach.launchQueue (m : Mach) (g : Issue) (n : Nat) : Option (Nat × Nat × Nat) :=
  (m.part? g.ctx.part).bind fun p => (p.queues.find? fun q => q.idx == n && decide (q.ctx = some g.team.ctx)).bind fun q =>
    (m.keyOf g.team.ctx q.desc).bind fun d =>
      let w := m.homeRead d 8
      if w.testBit 52 then (m.keyOf g.team.ctx (field w 0 48)).map fun r => (d, r, 2 ^ (field w 48 4 + 4)) else none

/-- A packet image as it enters a queue: CTX is the issuing context and KL is set (19 R357). -/
def launchImage (v ctx : Nat) : Nat := v % 2 ^ 432 + ctx % 2 ^ 9 * 2 ^ 432 + 2 ^ 441 + v / 2 ^ 442 * 2 ^ 442

/-- KLAUNCH and GLAUNCH (19 R357): the queue's pointers are read at its home after the release; of several statuses the lowest-numbered is
returned. -/
def launchOp (i : Instr) (kind : Nat) (d : Fin 32) (a b : Src) (s : State) : Host.Outcome State Fault Refusal :=
  issueLast i s fun m g =>
    m.withLoad g i (g.warp.pair a) 64 (g.plainly 64) fun m v =>
      let done := fun (m : Mach) (k : Nat) => m.retire g i ((g.warp.begin i.uses).setS d (BitVec.ofNat 32 k))
      match m.launchQueue g (g.warp.one b).toNat with
      | none => done m 2
      | some (dk, rk, size) =>
        m.withRelease g i .pkg fun m =>
          let prod := m.homeRead (dk + 8) 8
          let cons := m.homeRead (dk + 16) 8
          let slot := rk + 64 * (prod % size)
          if m.refuses slot || m.refuses dk then m
          else if (prod + (2 ^ 64 - cons)) % 2 ^ 64 = size then done m 1
          else if v % 16 ≠ kind then done m 3
          else
            let p := launchImage v g.team.ctx
            let put := fun (m : Mach) (k n x : Nat) => m.homeStore g.team.die g.core k n x
            done (put (put (put m slot 32 (p % 2 ^ 256)) (slot + 32) 32 (p / 2 ^ 256)) (dk + 8) 8 ((prod + 1) % 2 ^ 64)) 0

/-- 19 R357. -/
def execKlaunch (d : Fin 32) (a b : Src) (s : State) : Host.Outcome State Fault Refusal := launchOp (.klaunch d a b) 0 d a b s
/-- 19 R357. -/
def execGlaunch (d : Fin 32) (a b : Src) (s : State) : Host.Outcome State Fault Refusal := launchOp (.glaunch d a b) 2 d a b s

/-- The condition words of the graph whose node launched a team (19 R358). -/
def Mach.condVA (m : Mach) (t : Team) : Option Nat :=
  t.graph.bind fun j => (m.graphJobs[j]?).bind fun x => (m.graphs.find? fun y => y.ctx == x.ctx && y.va == x.va).map Graph.condva

/-- 19 R358. -/
def execGcond (a b : Src) (s : State) : Host.Outcome State Fault Refusal :=
  let i := Instr.gcond a b
  issue i s fun m g =>
    let n := (g.warp.one a).toNat
    match m.condVA g.team with
    | none => m.illegal g i .graph
    | some va =>
      if 256 ≤ n then m.illegal g i .graph
      else
        m.shoot g i { ctr := .ifg, act := .store, place := .die, size := 4, scalar := true, kind := .store, sup := anyClass }
          [{ lane := 0, scratch := false, addr := va + 4 * n, reg := 0, data := (g.warp.one b).toNat, cmp := 0 }] []

end Sys2Proof.Machine
end

