-- ==== Sys2Proof/Machine/Firmware.lean ====
section
/-! DEFINITION. Queues, launch packets, arbitration and completion (spec 18 R307 to R313, R331 to R333, R403, R404). -/

namespace Sys2Proof.Machine

/-! ### Spaces: a context's, or PCIe addresses in host memory (18 R333, R404) -/

/-- `n` bytes read by firmware: in the space of a context, or in host memory. -/
def Mach.loadIn (m : Mach) (sp : Option Nat) (va n : Nat) : Option (Nat × Mach) :=
  match sp with
  | some ctx => m.fwLoad ctx va n
  | none => some (m.homeRead (physKey 2 0 va) n, m)

/-- `n` bytes written by firmware. -/
def Mach.storeIn (m : Mach) (sp : Option Nat) (va n v : Nat) : Mach :=
  match sp with
  | some ctx => m.fwStore ctx va n v
  | none => m.homeWrite (physKey 2 0 va) n v

/-- `n` bytes written at their home past the caches, as by the Ethernet controller (23 R392). -/
def Mach.writeIn (m : Mach) (sp : Option Nat) (va n v : Nat) : Mach :=
  match sp with
  | some ctx =>
    match m.keyOf ctx va with
    | some k => m.outsideWrite k n v
    | none => m
  | none => m.homeWrite (physKey 2 0 va) n v

/-- `n` bytes read at their home. -/
def Mach.readIn (m : Mach) (sp : Option Nat) (va n : Nat) : Nat :=
  match sp with
  | some ctx => (m.fwRead ctx va n).getD 0
  | none => m.homeRead (physKey 2 0 va) n

/-- A field of a queue descriptor, which firmware uses in place (18 R334), read at its home by the command processor of partition `p`;
none if the address fails translation. -/
def Mach.queueRead (m : Mach) (p : Nat) (sp : Option Nat) (va n : Nat) : Option (Nat × Mach) :=
  match sp with
  | some ctx => (m.fwKey ctx va .load).bind fun k =>
    match k with
    | some k => (m.unblock k).homeLoad (m.leadOf p) k n
    | none => some (0, m)
  | none => if m.targetLost (physKey 2 0 va) then none else some (m.homeRead (physKey 2 0 va) n, m)

/-- A completion counter raised with the announcing release of partition `p` (18 R312). -/
def Mach.countIn (m : Mach) (p : Nat) (sp : Option Nat) (va inc : Nat) : Mach :=
  match sp with
  | some ctx => m.addCounter ctx va inc
  | none => ((m.release (m.leadOf p) .sys).agentAtomic (m.leadOf p) (physKey 2 0 va) 8 fun v => (v + inc) % 2 ^ 64).2

/-! ### Packets (18 R311) -/

/-- A packet read from its 64 bytes; `reservedOk` says that no reserved bit is set. -/
def Packet.parse (v : Nat) : Packet :=
  { kind := field v 0 4, cor := v.testBit 4, miss := field v 5 2, reld := v.testBit 7, dies := field v 8 8, stag := field v 16 12
    prio := field v 28 3, ord := v.testBit 31, gx := field v 32 16, gy := field v 48 16, gz := field v 64 16, cmd := field v 80 16
    obj := field v 96 48, args := field v 160 48, argsz := field v 208 16, ccnt := field v 224 48, cinc := field v 288 32
    deadline := field v 320 64, sva := field v 384 48, ctx := field v 432 9, kl := v.testBit 441
    reservedOk := decide (field v 144 16 = 0) && decide (field v 272 16 = 0) && decide (field v 442 70 = 0) }

/-- The live dies of a set of bits; the empty set names every die of the partition. -/
def Mach.dieSet (m : Mach) (p bits : Nat) : List Nat :=
  if bits = 0 then m.diesOf p else (List.range m.dies.length).filter fun d => bits.testBit d

/-- Whether every die of a set of bits lies in the partition. -/
def Mach.diesInside (m : Mach) (p bits : Nat) : Bool :=
  (List.range 8).all fun d => !bits.testBit d || (m.diesOf p).contains d

/-- The commands that need ADMIN (18 R332). -/
def adminCmd (c : Nat) : Bool := c == 1 || c == 2 || c == 14 || c == 15 || c == 17

/-- The context-free commands (18 R404). -/
def freeCmd (c : Nat) : Bool := c == 2 || c == 14 || c == 15 || c == 17

/-- Whether a packet is well formed in a queue of partition `p` (18 R311, R332). -/
def Mach.packetOk (m : Mach) (p : Nat) (q : Queue) (k : Packet) : Bool :=
  k.reservedOk && decide (k.kind ≤ 3) && decide (k.miss ≤ 2) && m.diesInside p k.dies && decide (k.argsz % 8 = 0 ∧ k.argsz ≤ 4096) &&
  decide (k.sva % 4 = 0) && decide (k.ccnt % 8 = 0) &&
  (if k.kind = 0 then decide (1 ≤ k.gx ∧ 1 ≤ k.gy ∧ 1 ≤ k.gz) else decide (k.gx = 0 ∧ k.gy = 0 ∧ k.gz = 0)) &&
  (if k.kind = 3 then q.cmdok && decide (1 ≤ k.cmd ∧ k.cmd ≤ 17) else decide (k.cmd = 0))

/-- A loaded plan or graph of a context by its record address. -/
def Mach.planAt (m : Mach) (ctx va : Nat) : Option Plan := m.plans.find? fun x => x.ctx == ctx && x.va == va
def Mach.graphAt (m : Mach) (ctx va : Nat) : Option Graph := m.graphs.find? fun x => x.ctx == ctx && x.va == va

def Mach.modPlan (m : Mach) (ctx va : Nat) (f : Plan → Plan) : Mach :=
  { m with plans := m.plans.map fun x => if x.ctx = ctx ∧ x.va = va then f x else x }

/-- How a packet stands once it is taken: none if it is not taken now (18 R311, R332, R370). A status that is announced nowhere
is complete at once. -/
def Mach.takePhase (m : Mach) (p : Nat) (q : Queue) (k : Packet) (free : Bool) : Option JobPhase :=
  if free then some (if m.packetOk p q k then .taken else .done 3)
  else
    match m.ctx? k.ctx with
    | none => some (.complete 4)
    | some c =>
      if c.part ≠ p then some (.complete 4)
      else if !q.admin && decide (q.ctx ≠ some k.ctx) then some (.complete 7)
      else if c.halt = some .debugger then none
      else if c.halt.isSome && !(k.kind == 3 && k.cmd == 3) then some (.done 10)
      else if !m.packetOk p q k then some (.done 3)
      else if k.kind = 3 ∧ adminCmd k.cmd ∧ !q.admin then some (.done 7)
      else if k.kind = 1 ∧ (m.planAt k.ctx k.obj).isNone then some (.done 8)
      else if k.kind = 2 ∧ (m.graphAt k.ctx k.obj).isNone then some (.done 8)
      else some .taken

/-- A queue of a partition changed. -/
def Mach.modQueue (m : Mach) (p n : Nat) (f : Queue → Queue) : Mach :=
  m.modPart p fun x => { x with queues := x.queues.map fun q => if q.idx = n then f q else q }

/-- A job of a packet. -/
def Job.of (q idx : Nat) (k : Packet) (dl : Nat) (super free : Bool) (ph : JobPhase) (graph : Option (Nat × Nat)) : Job :=
  { queue := q, index := idx, pkt := k, deadline := dl, super := super, free := free, phase := ph, order := 0, kd := none,
    graph := graph, held := [], marks := [], named := [], heldIn := [], lastStart := [], result := 0, block := 0 }

/-- The absolute deadline of a packet taken now (18 R313). -/
def Packet.due (k : Packet) (now : Nat) : Nat := if k.deadline ≠ 0 ∧ k.reld then k.deadline + now else k.deadline

/-- The acquire of a take, at SYS scope on every die of a partition: the teams of the launch start after it (03 R38). -/
def Mach.takeAcquire (m : Mach) (p : Nat) : Mach :=
  (m.diesOf p).foldl (fun m d => (m.modDie d fun x => { x with cores := x.cores.map Core.acquire }).acquireDrops d 0 .sys) m

/-- A queue as the first word of its descriptor now describes it (18 R308, R334). Queue 0 is an admin host queue. -/
def Queue.describedBy (q : Queue) (w : Nat) : Queue :=
  if q.ctx.isNone then { q with ring := field w 0 48, lgsize := field w 48 4 }
  else { q with ring := field w 0 48, lgsize := field w 48 4, dev := w.testBit 52, cmdok := w.testBit 53, admin := w.testBit 54 }

/-- A queue of a partition with its descriptor read in place; none if there is none or its descriptor cannot be read. -/
def Mach.queueAt (m : Mach) (p n : Nat) : Option (Queue × Mach) :=
  ((m.part? p).bind fun x => x.queues.find? fun q => q.idx == n).bind fun q =>
    (m.queueRead p q.ctx q.desc 8).map fun r => (q.describedBy r.1, r.2.modQueue p n (Queue.describedBy · r.1))

/-- Firmware takes the next posted packet of a queue, if the queue holds no taken one that is not dispatched (18 R309, R310). -/
def Mach.takeNext (m : Mach) (p n : Nat) (want : Packet → Bool) : Mach :=
  match m.queueAt p n with
  | none => m
  | some (q, m0) =>
    let busy := ((m.part? p).map fun x => x.jobs.any fun j => decide (j.queue = n) && decide (j.phase = .taken)).getD true
    if q.prodp ≤ q.consp ∨ q.held ∨ busy then m
    else
      match (m0.takeAcquire p).loadIn q.ctx (q.ring + 64 * (q.consp % 2 ^ (q.lgsize + 4))) 64 with
      | none => m
      | some (v, m1) =>
        let k := Packet.parse v
        let free := decide (n = 0 ∧ k.kind = 3) && freeCmd k.cmd
        if !want k then m
        else
          match m1.takePhase p q k free with
          | none => m
          | some ph =>
            let j := Job.of n q.consp k (k.due (m1.time p)) (q.admin && !k.kl) free ph none
            let c := (q.consp + 1) % 2 ^ 64
            ((m1.modPart p fun x => { x with jobs := x.jobs ++ [j] }).modQueue p n fun q => { q with consp := c }).storeIn q.ctx (q.desc + 16) 8 c

/-- The indices of the queues of a partition. -/
def Mach.queueIds (m : Mach) (p : Nat) : List Nat := ((m.part? p).map fun x => x.queues.map Queue.idx).getD []

/-- 18 R311: a KIND 0 packet is taken and enters arbitration. -/
def execKernelLaunch (p q : Nat) (s : State) : Host.Outcome State Fault Refusal :=
  always s fun m => m.takeNext p q fun k => decide (k.kind = 0)

/-- PRODP read (18 R309, R404): what cannot be read changes nothing. -/
def Mach.readProd (m : Mach) (p n : Nat) (dev : Bool) : Mach :=
  match m.queueAt p n with
  | none => m
  | some (q, m1) =>
    if q.dev ≠ dev then m
    else
      match m1.queueRead p q.ctx (q.desc + 8) 8 with
      | some (prod, m2) => m2.modQueue p n fun q => { q with prodp := prod }
      | none => m

/-- 18 R309. -/
def execDoorbell (p q : Nat) (s : State) : Host.Outcome State Fault Refusal := always s fun m => m.readProd p q false
/-- 18 R309. -/
def execDeviceQueueRead (p q : Nat) (s : State) : Host.Outcome State Fault Refusal := always s fun m => m.readProd p q true

/-! ### Kernel descriptors (03 R39, R40) -/

/-- A kernel descriptor read from its 64 bytes; none if it breaks 03 R40. -/
def KDesc.parse (v : Nat) : Option KDesc :=
  let w := field v 52 7
  let span := v.testBit 51
  let t := field v 72 11
  let n := field v 96 6
  let sh := field v 128 48
  if v % 2 = 0 ∧ field v 71 1 = 0 ∧ field v 83 13 = 0 ∧ field v 102 26 = 0 ∧ field v 176 336 = 0 ∧ 1 ≤ w ∧ w ≤ (if span then 64 else 32) ∧
      field v 59 5 ≤ 16 ∧ field v 64 7 ≤ 64 ∧ (t = 0 ∨ (32 * (w - 1) < t ∧ t ≤ 32 * w)) ∧ n ≤ 32 ∧ sh % 64 = 0 ∧ (n ≠ 0 ∨ sh = 0) then
    some { entry := field v 0 48, vregs := 8 * (field v 48 3 + 1), span := span, teamw := w, nbar := field v 59 5, frames := field v 64 7
           tlanes := if t = 0 then 32 * w else t, nshape := n, shapes := sh }
  else none

/-- The shape records of a descriptor; none if one cannot be read or would be rejected by SHPLD (03 R40). -/
def Mach.shapesOf (m : Mach) (sp : Option Nat) (k : KDesc) : Option (List Shape) :=
  (List.range k.nshape).mapM fun i => (m.loadIn sp (k.shapes + 64 * i) 64).bind fun r => Shape.parse r.1

/-- The kernel descriptor at an address of a space, with its shape records; none if it is malformed. -/
def Mach.kernelIn (m : Mach) (sp : Option Nat) (va : Nat) : Option (KDesc × List Shape) :=
  if va % 64 ≠ 0 then none
  else (m.loadIn sp va 64).bind fun r => (KDesc.parse r.1).bind fun k => (m.shapesOf sp k).map fun s => (k, s)

/-- The kernel descriptor at an address of a context. -/
def Mach.kernelAt (m : Mach) (ctx va : Nat) : Option (KDesc × List Shape) := m.kernelIn (some ctx) va

/-- Named barriers, sub-gangs and stack depth that a partition gives (03 R42). -/
def Mach.limit (m : Mach) (p full small : Nat) : Nat := if m.compact p then small else full

/-- Warps of a team of `w` warps on each core that it takes (03 R34). -/
def warpsOn (span : Bool) (w : Nat) : Nat := if span then (w + 1) / 2 else w

/-- Teams of a kernel that an empty core, or core pair, holds (03 R43). -/
def KDesc.perCore (k : KDesc) : Nat :=
  min (Config.warpsPerCore / warpsOn k.span k.teamw)
    (min (if k.frames = 0 then 64 else Config.framesPerCore / k.frames) (if k.nbar = 0 then 64 else Config.barrierUnits / k.nbar))

/-- Cores, or pairs, of a die. -/
def KDesc.slotsPerDie (k : KDesc) : Nat := if k.span then Config.coresPerDie / 2 else Config.coresPerDie

/-- The teams of a launch. -/
def Packet.teams (k : Packet) : Nat := k.gx * k.gy * k.gz

/-- Teams of die share `d` of `n` teams over `k` shares (03 R35). -/
def shareSize (n k d : Nat) : Nat := if k = 0 then 0 else (n + k - 1 - d) / k

/-- Whether every team of a launch fits an empty partition at once (03 R46). -/
def Mach.allFit (m : Mach) (p : Nat) (k : Packet) (kd : KDesc) : Bool :=
  let ds := m.dieSet p k.dies
  (List.range ds.length).all fun d => decide (shareSize k.teams ds.length d ≤ kd.perCore * kd.slotsPerDie)

/-- A kernel packet dispatched: its descriptor is read and checked (03 R40, R46). -/
def Mach.startKernel (m : Mach) (p : Nat) (j : Job) : Job :=
  match m.kernelAt j.pkt.ctx j.pkt.obj with
  | none => { j with phase := .done 3 }
  | some (k, _) =>
    if m.limit p 16 8 < k.nbar ∨ (j.pkt.cor ∧ !m.allFit p j.pkt k) then { j with phase := .done 2 }
    else { j with
      phase := .running, kd := some k
      pkt := { j.pkt with dies := ((m.dieSet p j.pkt.dies).map fun d => 2 ^ d).sum } }

/-! ### Completion (18 R312) -/

/-- The teams of a job of a partition. -/
def Team.ofJob (t : Team) (p j : Nat) : Bool := t.part == p && t.job == j && t.plan.isNone && t.served.isNone

/-- Whether a kernel job has placed every team and every team has exited (18 R312). -/
def Mach.kernelOver (m : Mach) (p i : Nat) (j : Job) : Bool :=
  let ts := m.teams.filter fun t => t.ofJob p i
  decide (ts.length = j.pkt.teams) && ts.all fun t => decide (t.phase = .exited)

/-- Whether every team of a plan has exited (18 R312). -/
def Mach.planOver (m : Mach) (ctx va : Nat) : Bool :=
  m.teams.all fun t => !(t.ctx == ctx && (t.plan.map (·.1)) == some va) || decide (t.phase = .exited)

/-- The status with which a job may complete now. -/
def Mach.jobStatus (m : Mach) (p i : Nat) (j : Job) : Option Nat :=
  match j.phase with
  | .done st => some st
  | .running =>
    match j.pkt.kind with
    | 0 => if m.kernelOver p i j then some 0 else none
    | 1 => if m.planOver j.pkt.ctx j.pkt.obj then some 0 else none
    | 2 => if m.graphJobs.any (fun g => g.job == some i && g.part == p && g.live && decide (g.count ≠ 0)) then none else some 0
    | _ => if j.pkt.cmd = 9 && m.planOver j.pkt.ctx j.block then some 0 else none
  | _ => none

/-- The space of a job's blocks and addresses (18 R404). -/
def Job.space (j : Job) : Option Nat := if j.free then none else some j.pkt.ctx

/-- Every die of a partition releases its stores, and the die of the command processor applies their records, so that what it
announces follows all work of the partition (18 R312). -/
def Mach.gatherWork (m : Mach) (p : Nat) (sc : Scope) : Mach :=
  ((m.diesOf p).foldl (fun m d => m.release d sc) m).applyLatest (m.leadOf p)

/-- The status word and the counter of a packet written (18 R312). -/
def Mach.announceJob (m : Mach) (p : Nat) (j : Job) (st : Nat) : Mach :=
  let m0 := m.gatherWork p .sys
  let m1 := if j.pkt.sva = 0 then m0 else m0.storeIn j.space j.pkt.sva 4 st
  if j.pkt.ccnt = 0 then m1 else m1.countIn p j.space j.pkt.ccnt j.pkt.cinc

/-- Whether a die of a partition still has writes that a LINK_RECONF holds: an announcement waits for them (12 R222, 23 R393). -/
def Mach.workHeld (m : Mach) (p : Nat) : Bool := (m.diesOf p).any fun d => m.flushHeld d .sys

/-- Whether a die of a partition has lost a sector of its open epoch: a release that covers it is not reported (21 R374). -/
def Mach.workLost (m : Mach) (p : Nat) : Bool := (m.diesOf p).any fun d => !(m.lostAt d .sys).isEmpty

/-- The 64 bytes of a pipe record (18 R318). -/
def Pipe.image (p : Pipe) : Nat :=
  p.fmt + p.trows * 2 ^ 4 + p.tcols * 2 ^ 12 + p.depth * 2 ^ 20 + p.slotlg * 2 ^ 27 + p.msg.toNat * 2 ^ 31 + p.high * 2 ^ 32 +
  p.low * 2 ^ 39 + p.home * 2 ^ 46 + p.remote.toNat * 2 ^ 49 + p.peer * 2 ^ 64 + p.slotva * 2 ^ 80 + p.spillva * 2 ^ 128 +
  p.spilln * 2 ^ 176 + p.prod * 2 ^ 192 + p.cons * 2 ^ 208 + p.cseq.toNat * 2 ^ 224 + p.tseq.toNat * 2 ^ 256 + p.full * 2 ^ 288 +
  p.free * 2 ^ 305 + p.spilled.length * 2 ^ 312

/-- The records of the pipes of a plan written back into its image (18 R318, 20). -/
def Mach.writeImages (m : Mach) (ctx va : Nat) : Mach :=
  m.pipes.foldl (fun m p => if p.ctx = ctx ∧ p.planVA = va then m.fwStore ctx p.recVA 64 p.image else m) m

/-- The loaded plan that a job runs: by PLAN_START or by PLAN_RESTART (18 R327). -/
def Job.planVA (j : Job) : Option Nat :=
  if j.pkt.kind = 1 then some j.pkt.obj else if j.pkt.kind = 3 ∧ j.pkt.cmd = 9 then some j.block else none

/-- 18 R312: a plan that has ended runs no longer and its pipe records are written back, a graph job is over. A lost sector is published poisoned first; the release
made anew then completes the packet (21 R374). -/
def execPacketComplete (p job : Nat) (s : State) : Host.Outcome State Fault Refusal :=
  always s fun m =>
    match m.job? p job with
    | none => m
    | some j =>
      match m.jobStatus p job j with
      | none => m
      | some st =>
        if m.workHeld p then m
        else if m.workLost p then m.gatherWork p .sys else
        let m0 := match j.planVA with
          | some va => if st = 0 then m.writeImages j.pkt.ctx va else m
          | none => m
        let m1 := (m0.announceJob p j st).modJob p job fun j => { j with phase := .complete st }
        let m2 := { m1 with graphJobs := m1.graphJobs.map fun g => if g.job = some job ∧ g.part = p then { g with live := false } else g }
        match j.planVA with
        | some va => m2.modPlan j.pkt.ctx va fun x => if x.job = some job then { x with job := none } else x
        | none => m2

end Sys2Proof.Machine
end

