-- ==== Sys2Proof/Machine/Teams.lean ====
section
/-! DEFINITION. The placement, start, saving and restoring of teams, handlers, time slices and PREEMPT (spec 03 R34 to R46, R61 to
R72; 18 R314 to R317, R338; 21 R366 to R368, R372). -/

namespace Sys2Proof.Machine

/-! ### Room on a core (03 R43) -/

/-- Warps, scratch frames and barrier units taken on core `c` of die `d`. -/
def Mach.coreUse (m : Mach) (d c : Nat) : Nat × Nat × Nat :=
  m.teams.foldl (fun u t =>
    if t.isPlaced && t.die == d && (t.core == c || (t.span && t.core ^^^ 1 == c)) then
      (u.1 + (t.warps.filter fun x => x.core == c).length, u.2.1 + t.frames, u.2.2 + t.nbar)
    else u) (0, 0, 0)

/-- Whether core `c` of a die takes `w` more warps with their frames and barrier units. -/
def Mach.takes (m : Mach) (d c w fr nb : Nat) : Bool :=
  let u := m.coreUse d c
  decide (c < Config.coresPerDie) && decide (u.1 + w ≤ Config.warpsPerCore) && decide (u.2.1 + fr ≤ Config.framesPerCore) &&
    decide (u.2.2 + nb ≤ Config.barrierUnits)

/-- Whether a core, or the pair that begins at it, has room for a team of `w` warps. -/
def Mach.fits (m : Mach) (d c : Nat) (span : Bool) (w fr nb : Nat) : Bool :=
  ((m.dies[d]?).map fun x => !x.halted).getD false &&
    if span then c % 2 == 0 && m.takes d c ((w + 1) / 2) fr nb && m.takes d (c + 1) (w - (w + 1) / 2) fr nb else m.takes d c w fr nb

/-- Whether a team fits at a core. -/
def Mach.teamFits (m : Mach) (t : Team) (d c : Nat) : Bool := m.fits d c t.span t.teamw t.frames t.nbar

/-- Whether a core is kept for the stage that owns it: a team of the stage is on its way there, and no other team may take its room
(03 R61). -/
def Mach.reserved (m : Mach) (d c : Nat) : Bool :=
  m.plans.any fun x => x.job.isSome && (List.range x.stages.length).any fun k =>
    (((x.stages[k]?).map Stage.cores).getD []).contains (d, c) &&
      m.teams.any fun t => t.ctx == x.ctx && t.plan == some (x.va, k) && (t.sameDie || decide (t.phase = .saved))

/-- Whether a core, or the pair that begins at it, has room for a team that belongs to no stage. -/
def Mach.roomAt (m : Mach) (d c : Nat) (span : Bool) (w fr nb : Nat) : Bool :=
  m.fits d c span w fr nb && !m.reserved d c && !(span && m.reserved d (c + 1))

/-! ### A team at its start (03 R36 to R38) -/

/-- The core of warp `w` of a team on a core or pair (03 R34). -/
def coreOfWarp (span : Bool) (teamw core w : Nat) : Nat := if span && decide ((teamw + 1) / 2 ≤ w) then core + 1 else core

/-- The indices that no resident warp of a core has (03 R59). -/
def Mach.openSlots (m : Mach) (d c : Nat) : List Nat :=
  let used := m.teams.flatMap fun t => if t.isPlaced && t.die == d then (t.warps.filter fun x => x.core == c).map Warp.slot else []
  (List.range Config.warpsPerCore).filter fun n => !used.contains n

/-- The index of warp `w` of a team among the resident warps of its core: the lowest ones that are free (DESIGN CHOICE: assumption
log 1). -/
def Mach.slotOf (m : Mach) (d core : Nat) (span : Bool) (teamw w : Nat) : Nat :=
  let c := coreOfWarp span teamw core w
  (m.openSlots d c).getD (if c = core then w else w - (teamw + 1) / 2) 0

/-- A warp as it starts (03 R37). -/
def Warp.start (core slot entry tlanes w y : Nat) : Warp :=
  { core := core, slot := slot, v := tab fun _ => tab fun _ => 0, poison := [], s := tab fun _ => 0, b := tab fun _ => none
    exec := laneMask fun l => insideLane tlanes w l.val, cm := 0, part := 0, ften := 0, lc := tab fun _ => 0, ls := tab fun _ => 0
    le := tab fun _ => 0, slices := tab fun _ => { pc := entry, stack := [], gang := 0, wait := .none }, meld := none
    ren := tab fun _ => tab fun e => ⟨48 + e.val, by omega⟩, k := tab fun _ => tab fun _ => 0, ifs := 0, ifg := 0, ift := 0, ife := 0
    preq := false, asked := false, slice := false, ycnt := y, chain := none, replayData := 0, replayFetch := 0, flight := [], mma := []
    barWait := none, bara := tab fun _ => none, gridWait := none, run := .ready, trap := none, engFault := [], retired := 0, nonmem := 0
    idle := tab fun _ => 0, aged := 0, last := tab fun _ => 0 }

/-- Where a team stands in its launch: its grid, its place in it and the dies of its shares. -/
structure Spot where
  linear : Nat
  gx : Nat
  gy : Nat
  gz : Nat
  dies : List Nat
  die : Nat
  core : Nat
deriving DecidableEq, Repr

/-- What a launch gives its teams (03 R38, 18 R315, R398). -/
structure Given where
  ctx : Nat
  part : Nat
  job : Nat
  plan : Option (Nat × Nat)
  graph : Option Nat
  args : Nat
  argsz : Nat
  super : Bool
  cor : Bool
  prio : Nat
  served : Option Served
deriving DecidableEq, Repr

/-- A team placed with every warp at its start. -/
def Mach.freshTeam (m : Mach) (k : KDesc) (shapes : List Shape) (q : Spot) (g : Given) (ph : TeamPhase) : Team :=
  let y := ((m.ctx? g.ctx).map Context.y).getD 0
  { ctx := g.ctx, part := g.part, job := g.job, plan := g.plan, graph := g.graph, linear := q.linear, x := q.linear % q.gx
    y := q.linear / q.gx % q.gy, z := q.linear / (q.gx * q.gy), gx := q.gx, gy := q.gy, gz := q.gz, dien := q.dies.length
    dies := q.dies, die := q.die, backing := q.die, core := q.core, teamw := k.teamw, span := k.span, vregs := k.vregs, frames := k.frames
    nbar := k.nbar, tlanes := k.tlanes, args := g.args, argsz := g.argsz, super := g.super, cor := g.cor, prio := g.prio
    boost := false, desched := false, suspended := false, sameDie := false, placedAt := m.now, phase := ph
    warps := (List.range k.teamw).map fun w => Warp.start (coreOfWarp k.span k.teamw q.core w) (m.slotOf q.die q.core k.span k.teamw w) k.entry k.tlanes w y
    scratch := [], shapes := tab fun h => shapes[h.val]?, rings := tab fun _ => none
    bars := tab fun _ => { phase := 0, need := 0, arrived := 0 }, gridArrived := 0, gridSeen := [], shareArrived := [], served := g.served, resumed := false }

/-- What a kernel packet gives its teams. -/
def Job.given (j : Job) (p i : Nat) : Given :=
  { ctx := j.pkt.ctx, part := p, job := i, plan := none, graph := j.graph.map (·.1), args := j.pkt.args, argsz := j.pkt.argsz
    super := j.super, cor := j.pkt.cor, prio := j.pkt.prio, served := none }

/-! ### Placement (03 R43, R44; 18 R314) -/

/-- Whether deadline `a` comes before deadline `b`; 0 is background. -/
def sooner (a b : Nat) : Bool := decide (a ≠ 0) && (decide (b = 0) || decide (a < b))

/-- The next unplaced team of a kernel job on a die, unless PREEMPT holds it back (03 R35, R44; 18 R338). -/
def Mach.nextLinear (m : Mach) (p i : Nat) (j : Job) (d : Nat) : Option Nat :=
  let ds := m.dieSet p j.pkt.dies
  match ds.findIdx? fun x => x = d with
  | none => none
  | some k =>
    let n := k + ds.length * (m.teams.filter fun t => t.ofJob p i && t.linear % ds.length == k).length
    if n < j.pkt.teams ∧ ¬ (j.held.any fun h => decide (h.1 ≤ n ∧ n < h.1 + h.2)) then some n else none

/-- A team of a kernel job placed at a core. -/
def Mach.placeTeam (m : Mach) (p i : Nat) (j : Job) (k : KDesc) (shapes : List Shape) (n d c : Nat) : Mach :=
  let q : Spot := { linear := n, gx := j.pkt.gx, gy := j.pkt.gy, gz := j.pkt.gz, dies := m.dieSet p j.pkt.dies, die := d, core := c }
  { m with teams := m.teams ++ [m.freshTeam k shapes q (j.given p i) .placed] }

/-- The lowest core of a die with room for a team of a launch. -/
def Mach.firstCore (m : Mach) (d : Nat) (span : Bool) (w fr nb : Nat) : Option Nat :=
  (List.range Config.coresPerDie).find? fun c => m.roomAt d c span w fr nb

/-- Every team of a co-resident launch placed together, or none (03 R46). -/
def Mach.placeAll (m : Mach) (p i : Nat) (j : Job) (k : KDesc) (shapes : List Shape) : Option Mach :=
  let ds := m.dieSet p j.pkt.dies
  (List.range j.pkt.teams).foldl (fun o n => o.bind fun m =>
    let d := ds.getD (n % ds.length) 0
    (m.firstCore d k.span k.teamw k.frames k.nbar).map fun c => m.placeTeam p i j k shapes n d c) (some m)

/-- The saved teams of a job that are not suspended: they are placed ahead of its unplaced ones (18 R317). -/
def Mach.savedOf (m : Mach) (p i : Nat) : List (Nat × Team) :=
  m.numbered.filter fun (x : Nat × Team) => x.2.ofJob p i && decide (x.2.phase = .saved) && !x.2.suspended

/-- Whether an access of a saved warp has yet to return into its image (03 R65). -/
def Mach.awaits (m : Mach) (t w : Nat) : Bool :=
  match m.teams[t]?, m.warp? t w with
  | some team, some x =>
    match x.flight with
    | [] => false
    | f :: _ => let p := m.performLanes t team x.core f f.lanes; p.bad.isEmpty || !p.left.isEmpty
  | _, _ => false

/-- The sub-gangs that a warp holds. -/
def Team.gangsOf (team : Team) (w : Nat) (x : Warp) : Nat :=
  (((List.finRange 8).filter fun j => liveSlice team.tlanes w j.val).map fun j => (x.slices.at j).gang).eraseDups.length

/-- Whether the configuration of a partition suffices for a saved team (03 R67). -/
def Mach.configOk (m : Mach) (p : Nat) (team : Team) : Bool :=
  decide (team.nbar ≤ m.limit p 16 8) &&
    (List.range team.warps.length).all fun w => match team.warps[w]? with
      | some x => decide (x.run = .exited) || (decide (team.gangsOf w x ≤ m.limit p 8 4) &&
          (List.finRange 8).all fun j => decide ((x.slices.at j).stack.length ≤ m.limit p 8 4))
      | none => true

/-- The cores that a stage owns. -/
def Mach.stageCores (m : Mach) (ctx : Nat) (q : Nat × Nat) : List (Nat × Nat) :=
  (((m.planAt ctx q.1).bind fun x => x.stages[q.2]?).map Stage.cores).getD []

/-- The teams of a stage placed at a core. -/
def Mach.stageLoad (m : Mach) (ctx : Nat) (q : Nat × Nat) (d c : Nat) : Nat :=
  (m.teams.filter fun t => t.ctx == ctx && t.plan == some q && t.isPlaced && t.die == d && t.core == c).length

/-- Whether the cores of a stage hold the core, or the whole pair, at which a team of it may lie. -/
def Team.ownedAt (team : Team) (cores : List (Nat × Nat)) (d c : Nat) : Bool :=
  cores.contains (d, c) && (!team.span || (decide (c % 2 = 0) && cores.contains (d, c + 1)))

/-- Whether a saved team may be restored at a core (03 R65, R67, R69, R71): a stage only on its own cores, over which its teams are
spread (18 R322). -/
def Mach.restorable (m : Mach) (t : Nat) (team : Team) (d c : Nat) : Bool :=
  decide (team.phase = .saved) && !team.suspended && m.ctxRuns team.ctx && m.configOk team.part team && team.dies.contains d &&
    (!team.sameDie || d == team.die) && (List.range team.warps.length).all (fun w => !m.awaits t w) &&
    match team.plan with
    | some q =>
      let own := m.stageCores team.ctx q
      m.teamFits team d c && team.ownedAt own d c && own.all fun e =>
        decide (e.1 ≠ d) || !team.ownedAt own d e.2 || !m.teamFits team d e.2 ||
          decide (m.stageLoad team.ctx q d c ≤ m.stageLoad team.ctx q d e.2)
    | none => m.roomAt d c team.span team.teamw team.frames team.nbar

/-- A saved warp that runs again on a core: PREQ is cleared (03 R62). -/
def Warp.restored (x : Warp) (core slot y : Nat) : Warp :=
  { x with
    core := core, slot := slot, run := if x.run = .saved then .ready else x.run, preq := false, asked := false, slice := false, ycnt := y
    idle := tab fun _ => 0, aged := 0 }

/-- What a team has written and seen on a die, carried to another die: its later reads there find it (12 R224). -/
def Mach.carry (m : Mach) (old new : Nat) : Mach :=
  if old = new then m
  else
    let m1 := m.closeEpoch old
    m1.applySeen new (m1.seenBy old)

/-- A team in a new die share takes part in the share's open phase; one that has arrived there waits for it as before (03 R72). -/
def Mach.joinShare (m : Mach) (team : Team) (k : Nat) : Team :=
  let others := (m.teams.filter fun y => team.sameGrid y && decide (y.phase ≠ .exited) && y.dshare == k).map fun y => y.arrivals (some k)
  if team.warps.any fun x => (x.gridWait.bind Prod.fst) == some k then team
  else
    { team with
      shareArrived := ((k, (others.min?).getD 0) : Nat × Nat) :: team.shareArrived.filter fun e => e.1 ≠ k }

/-- A saved team restored whole at a core (03 R69). A new core holds no copies that are older than what the team has seen. -/
def Mach.restoreAt (m : Mach) (t d c : Nat) : Mach :=
  let old := m.teams[t]?
  let m1 := match old with
    | some x =>
      let m1 := m.carry x.die d
      if x.die = d ∧ x.core = c then m1 else (m1.modCore d c Core.acquire).modCore d (if x.span then c ^^^ 1 else c) Core.acquire
    | none => m
  m1.modTeam t fun team =>
    { (if team.die = d then team else m1.joinShare team ((team.dies.findIdx? (· = d)).getD 0)) with
      die := d, core := c, phase := .running, placedAt := m.now, sameDie := false
      warps := (List.range team.warps.length).filterMap fun w => (team.warps[w]?).map fun x =>
        x.restored (coreOfWarp team.span team.teamw c w) (m.slotOf d c team.span team.teamw w) (((m.ctx? team.ctx).map Context.y).getD 0) }

/-- Whether a saved team of a job stays suspended, or a team of it is placed: a co-resident launch is then not restored
(03 R67, 18 R317). -/
def Mach.corHeld (m : Mach) (p i : Nat) : Bool :=
  m.teams.any fun t => t.ofJob p i && (t.isPlaced || (decide (t.phase = .saved) && t.suspended))

/-- Teams of a co-resident launch restored together, each on its die; none if one has no room or does not suit the configuration
(03 R67, 18 R317). -/
def Mach.restoreAll (m : Mach) (ts : List (Nat × Team)) : Option Mach :=
  ts.foldl (fun o x => o.bind fun m =>
    (m.firstCore x.2.die x.2.span x.2.teamw x.2.frames x.2.nbar).bind fun c =>
      if m.restorable x.1 x.2 x.2.die c then some (m.restoreAt x.1 x.2.die c) else none) (some m)

/-- Whether the next team of a kernel job fits at a core: a saved one before an unplaced one. The teams of a co-resident launch are
placed at its dispatch (03 R46) and restored as a whole. -/
def Mach.canPlace (m : Mach) (p i : Nat) (j : Job) (d c : Nat) : Bool :=
  if j.phase ≠ .running ∨ j.pkt.kind ≠ 0 ∨ !m.ctxRuns j.pkt.ctx then false
  else
    match m.savedOf p i, j.kd with
    | [], some k => !j.pkt.cor && (m.nextLinear p i j d).isSome && m.roomAt d c k.span k.teamw k.frames k.nbar
    | [], none => false
    | ts, _ =>
      if j.pkt.cor then !m.corHeld p i && (m.restoreAll ts).isSome
      else ts.any fun (x : Nat × Team) => m.restorable x.1 x.2 d c

/-- Whether job `a` comes before job `b` in placement: the earlier deadline first, ties to the earlier dispatched (18 R314). -/
def Job.before (a b : Job) : Bool := sooner a.deadline b.deadline || (!sooner b.deadline a.deadline && decide (a.order < b.order))

/-- The jobs of a partition with their numbers. -/
def Mach.jobsIn (m : Mach) (p : Nat) : List (Nat × Job) :=
  match m.part? p with
  | some x => (List.range x.jobs.length).zip x.jobs
  | none => []

/-- The kernel packet whose team is placed next at a core (18 R314). -/
def Mach.kernelAtCore (m : Mach) (p d c : Nat) : Option (Nat × Job) :=
  (m.jobsIn p).foldl (fun best q =>
    if !m.canPlace p q.1 q.2 d c then best
    else
      match best with
      | none => some q
      | some (b : Nat × Job) => if q.2.before b.2 then some q else best) none

/-! ### Core groups of a plan (18 R322, R323) -/

/-- Cores of a core or pair. -/
def KDesc.width (k : KDesc) : Nat := if k.span then 2 else 1

/-- Whether core `c` of die `d` belongs to a stage of a running plan, or holds a team. -/
def Mach.coreTaken (m : Mach) (d c : Nat) : Bool :=
  decide ((m.coreUse d c).1 ≠ 0) || m.plans.any fun x => x.job.isSome && x.stages.any fun st => st.cores.contains (d, c)

/-- The cores, or first cores of the whole pairs, of a group on a die. -/
def groupUnits (g : List (Nat × Nat)) (span : Bool) (d : Nat) : List Nat :=
  (g.filter fun e => decide (e.1 = d) && (!span || (decide (e.2 % 2 = 0) && g.contains (d, e.2 + 1)))).map (·.2)

/-- Whether a core group suits a stage: MINC to MAXC free cores of its placement, whole pairs if it spans, each die holding its
share of the teams. -/
def Mach.groupOk (m : Mach) (p : Nat) (st : Stage) (k : KDesc) (g : List (Nat × Nat)) : Bool :=
  let ds := m.dieSet p st.dies
  decide (st.minc ≤ g.length) && decide (g.length ≤ st.maxc) &&
  (g.all fun e => ds.contains e.1 && (m.diesOf p).contains e.1 && decide (e.2 < Config.coresPerDie) && !m.coreTaken e.1 e.2 &&
    (!k.span || g.contains (e.1, e.2 ^^^ 1))) &&
  (List.range ds.length).all fun i =>
    decide (shareSize st.teams ds.length i ≤ k.perCore * (groupUnits g k.span (ds.getD i 0)).length)

/-- Whether core groups suit the stages of a plan: disjoint, one for each. -/
def Mach.groupsOk (m : Mach) (p : Nat) (x : Plan) (ks : List KDesc) (gs : List (List (Nat × Nat))) : Bool :=
  decide (gs.length = x.stages.length) && decide gs.flatten.Nodup &&
    ((x.stages.zip ks).zip gs).all fun q => m.groupOk p q.1.1 q.1.2 q.2

/-- The kernels of the stages of a plan with their shapes. -/
def Mach.stageKernels (m : Mach) (x : Plan) : Option (List (KDesc × List Shape)) := x.stages.mapM fun st => m.kernelAt x.ctx st.kdesc

/-- The free cores, or pairs, of a die that are not in use (18 R323). -/
def Mach.freeUnits (m : Mach) (used : List (Nat × Nat)) (k : KDesc) (d : Nat) : List (List (Nat × Nat)) :=
  ((List.range (Config.coresPerDie / k.width)).map fun u => (List.range k.width).map fun i => (d, k.width * u + i)).filter fun u =>
    u.all fun e => !m.coreTaken e.1 e.2 && !used.contains e

/-- Core groups that firmware finds for the stages of a plan, if it finds any: the cores that the die shares need, then more up to MINC,
each time the lowest free ones (DESIGN CHOICE: assumption log 1). -/
def Mach.planGroups (m : Mach) (p : Nat) (sts : List (Stage × KDesc)) : Option (List (List (Nat × Nat))) :=
  let need := fun (st : Stage) (k : KDesc) (i : Nat) => (shareSize st.teams (m.dieSet p st.dies).length i + k.perCore - 1) / k.perCore
  let first := sts.foldl (fun (r : List (List (Nat × Nat))) q =>
    let ds := m.dieSet p q.1.dies
    r ++ [(List.range ds.length).flatMap fun i => ((m.freeUnits r.flatten q.2 (ds.getD i 0)).take (need q.1 q.2 i)).flatten]) []
  let gs := (sts.zip first).foldl (fun (r : List (List (Nat × Nat))) q =>
    let more := (m.dieSet p q.1.1.dies).flatMap (m.freeUnits (first.flatten ++ r.flatten) q.1.2)
    r ++ [q.2 ++ (more.take ((q.1.1.minc - q.2.length + q.1.2.width - 1) / q.1.2.width)).flatten]) []
  if gs.flatten.Nodup && (sts.zip gs).all fun q => m.groupOk p q.1.1 q.1.2 q.2 then some gs else none

/-- Whether a dispatched PLAN_START finds room for every stage now. -/
def Mach.planPlaceable (m : Mach) (p : Nat) (j : Job) : Bool :=
  decide (j.pkt.kind = 1) && decide (j.phase = .dispatched) && m.ctxRuns j.pkt.ctx &&
    match m.planAt j.pkt.ctx j.pkt.obj with
    | some x => x.job.isNone && ((m.stageKernels x).map fun ks => (m.planGroups p (x.stages.zip (ks.map (·.1)))).isSome).getD false
    | none => false

/-- Whether a plan that comes before a kernel job takes the core first. -/
def Mach.planBars (m : Mach) (p d c : Nat) (j : Job) : Bool :=
  !m.coreTaken d c && (m.jobsIn p).any fun q => decide (q.2.pkt.kind = 1) && q.2.before j && m.planPlaceable p q.2 &&
    match m.planAt q.2.pkt.ctx q.2.pkt.obj with
    | some x => x.stages.any fun st => (m.dieSet p st.dies).contains d
    | none => false

/-- The packet whose team is placed next at a core: the earliest deadline first, ties to the earlier dispatched (18 R314). -/
def Mach.nextAt (m : Mach) (p d c : Nat) : Option (Nat × Job) :=
  (m.kernelAtCore p d c).bind fun q => if m.planBars p d c q.2 then none else some q

/-- Whether some kernel job of a partition that satisfies `first` has a team which fits somewhere. -/
def Mach.kernelWaits (m : Mach) (p : Nat) (first : Job → Bool) : Bool :=
  (m.jobsIn p).any fun q => first q.2 && (m.diesOf p).any fun d => (List.range Config.coresPerDie).any fun c => m.canPlace p q.1 q.2 d c

/-- 18 R314: the next team of the chosen packet is placed. A saved team is placed by its restore. -/
def execTeamPlacement (p die core : Nat) (s : State) : Host.Outcome State Fault Refusal :=
  always s fun m =>
    if !(m.diesOf p).contains die then m
    else
      match m.nextAt p die core with
      | none => m
      | some (i, j) =>
        match m.savedOf p i, j.kd, j.kd.bind fun k => m.shapesOf (some j.pkt.ctx) k, m.nextLinear p i j die with
        | [], some k, some shapes, some n => m.placeTeam p i j k shapes n die core
        | _, _, _, _ => m

/-! ### Dispatch (18 R313) -/

/-- Whether a taken packet may be dispatched (18 R310). -/
def Partition.mayGo (x : Partition) (j : Job) : Bool :=
  decide (j.phase = .taken) &&
    (!j.pkt.ord || x.jobs.all fun i => decide (i.queue ≠ j.queue) || decide (j.index ≤ i.index) ||
      (match i.phase with | .complete _ => true | _ => false))

/-- Every team of a co-resident launch placed with its dispatch, or none (03 R46). -/
def Mach.corPlace (m : Mach) (p i : Nat) (j : Job) : Option Mach :=
  j.kd.bind fun k => (m.shapesOf (some j.pkt.ctx) k).bind fun s => m.placeAll p i j k s

/-- Whether a co-resident launch leaves its queue: all its teams fit together and no team of an earlier deadline is to be placed first,
or it cannot run at all (03 R46, 18 R314). -/
def Mach.corGoes (m : Mach) (p i : Nat) (j : Job) : Bool :=
  if j.pkt.kind = 0 ∧ j.pkt.cor then
    let k := m.startKernel p j
    decide (k.phase ≠ .running) ||
      (j.held.isEmpty && (m.corPlace p i k).isSome && !m.kernelWaits p (fun q => !sooner j.deadline q.deadline) &&
        (m.jobsIn p).all fun q => sooner j.deadline q.2.deadline || !m.planPlaceable p q.2)
  else true

/-- The dispatchable head with the earliest deadline, ties to the lower queue index. -/
def Mach.chosen (m : Mach) (p : Nat) (x : Partition) : Option Nat :=
  (List.range x.jobs.length).foldl (fun best i =>
    match x.jobs[i]?, best.bind fun b => x.jobs[b]? with
    | some j, none => if x.mayGo j && m.corGoes p i j then some i else best
    | some j, some b =>
      if x.mayGo j && m.corGoes p i j && (sooner j.deadline b.deadline || (!sooner b.deadline j.deadline && decide (j.queue < b.queue))) then
        some i
      else best
    | none, _ => best) none

/-- MISSES of a queue raised (18 R313). -/
def Mach.countMiss (m : Mach) (p n : Nat) : Mach :=
  match (m.part? p).bind fun x => x.queues.find? fun q => q.idx == n with
  | some q => (m.modQueue p n fun q => { q with misses := q.misses + 1 }).storeIn q.ctx (q.desc + 24) 4 ((q.misses + 1) % 2 ^ 32)
  | none => m

/-- A job that leaves its queue; the teams of a co-resident launch are placed with it. -/
def Mach.goJob (m : Mach) (p i : Nat) : Mach :=
  match m.job? p i with
  | none => m
  | some j =>
    let order := ((m.part? p).map fun x => (x.jobs.map Job.order).foldl max 0).getD 0 + 1
    let j1 := if j.pkt.kind = 0 then m.startKernel p j else { j with phase := .dispatched }
    let m0 := m.modJob p i fun _ => { j1 with order := order }
    let m1 := if j.pkt.cor ∧ j1.phase = .running then (m0.corPlace p i { j1 with order := order }).getD m0 else m0
    if j.pkt.kind = 3 ∧ j.pkt.cmd = 12 then m1.modQueue p j.queue fun q => { q with held := true } else m1

/-- Arbitration repeats after a demotion (18 R313). -/
def Mach.arbitrate : Nat → Mach → Nat → Mach
  | 0, m, _ => m
  | n + 1, m, p =>
    match (m.part? p).bind fun x => (m.chosen p x).bind fun i => (x.jobs[i]?).map fun j => (i, j) with
    | none => m
    | some (i, j) =>
      if j.deadline ≠ 0 ∧ j.deadline < m.time p then
        match j.pkt.miss with
        | 1 => m.modJob p i fun j => { j with phase := .done 1 }
        | 2 => Mach.arbitrate n ((m.countMiss p j.queue).modJob p i fun j => { j with deadline := 0 }) p
        | _ => (m.countMiss p j.queue).goJob p i
      else m.goJob p i

/-- 18 R313: heads are taken, and the chosen one is run, dropped or demoted. -/
def execDispatch (p : Nat) (s : State) : Host.Outcome State Fault Refusal :=
  always s fun m =>
    let m1 := (m.queueIds p).foldl (fun m q => m.takeNext p q fun _ => true) m
    Mach.arbitrate (((m1.part? p).map fun x => x.jobs.length).getD 0 + 1) m1 p

/-! ### Start and restore (03 R37, R44, R45, R65 to R71) -/

/-- Whether a placed team may start: σ cycles after the last start of its launch on its die, the teams before it on the die started
(03 R44, R45). -/
def Mach.mayStart (m : Mach) (team : Team) (j : Job) : Bool :=
  (m.teams.all fun t => !(t.ctx == team.ctx && t.part == team.part && t.job == team.job && t.plan == team.plan && t.die == team.die &&
    decide (t.phase = .placed)) || decide (team.linear ≤ t.linear)) &&
  match j.lastStart.find? fun e => e.1 == team.die with
  | some e => decide (e.2 + j.pkt.stag ≤ m.now)
  | none => true

/-- 03 R37, R45: all warps of a placed team start. -/
def execTeamStart (t : Nat) (s : State) : Host.Outcome State Fault Refusal :=
  always s fun m =>
    match m.teams[t]? with
    | none => m
    | some team =>
      match m.job? team.part team.job with
      | none => m
      | some j =>
        if team.phase ≠ .placed ∨ !m.ctxRuns team.ctx ∨ !m.mayStart team j then m
        else
          (m.modTeam t fun x => { x with phase := .running }).modJob team.part team.job fun j =>
            { j with lastStart := (team.die, m.now) :: j.lastStart.filter fun e => e.1 ≠ team.die }

/-- 03 R67, R71: a team that the configuration does not suit stays suspended, with it all saved teams of a co-resident launch; one
without room waits. -/
def execTeamRestore (t die core : Nat) (s : State) : Host.Outcome State Fault Refusal :=
  always s fun m =>
    match m.teams[t]? with
    | none => m
    | some team =>
      if team.phase ≠ .saved ∨ team.suspended ∨ !m.ctxRuns team.ctx then m
      else if team.cor ∧ ((m.savedOf team.part team.job).any fun q => !m.configOk team.part q.2) then
        (m.savedOf team.part team.job).foldl (fun m q => m.modTeam q.1 fun x => { x with suspended := true }) m
      else if !m.configOk team.part team then m.modTeam t fun x => { x with suspended := true }
      else if team.plan.isSome || team.served.isSome then if m.restorable t team die core then m.restoreAt t die core else m
      else
        match m.nextAt team.part die core with
        | none => m
        | some (i, j) =>
          if i ≠ team.job then m
          else if j.pkt.cor then (if m.corHeld team.part i then m else (m.restoreAll (m.savedOf team.part i)).getD m)
          else if m.restorable t team die core then m.restoreAt t die core
          else m

/-! ### Handlers (21 R366 to R368) -/

/-- Handlers of a context that run. -/
def Mach.handlers (m : Mach) (ctx : Nat) : Nat :=
  (m.teams.filter fun t => t.ctx == ctx && t.served.isSome && decide (t.phase ≠ .exited)).length

/-- The die on which the handler of an event starts, and its record. -/
def Mach.servedAt (m : Mach) (s : Served) : Nat × TrapRec :=
  match s with
  | .warp t _ r _ => (((m.teams[t]?).map Team.die).getD 0, r)
  | .engine op r _ => (((m.ops[op]?).map EngOp.die).getD 0, r)

/-- 21 R366: the handler of the oldest record starts on a core with room; a descriptor that no longer suits stops the context. The
handler starts after the announcement of its record, and reads the record as written (DESIGN CHOICE: assumption log 17). -/
def execHandlerLaunch (ctx core : Nat) (s : State) : Host.Outcome State Fault Refusal :=
  always s fun m =>
    match m.ctx? ctx with
    | none => m
    | some c =>
      match c.traps with
      | [] => m
      | ev :: rest =>
        let d := (m.servedAt ev).1
        if c.halt.isSome ∨ Config.handlerLimit ≤ m.handlers ctx then m
        else
          match m.kernelAt ctx c.hkdesc with
          | none => m.stopBy ctx 0x53 (some (m.servedAt ev).2) (some ev) [] .stopped
          | some (k, shapes) =>
            if k.teamw ≠ 1 ∨ k.span ∨ m.limit c.part 16 8 < k.nbar then m.stopBy ctx 0x53 (some (m.servedAt ev).2) (some ev) [] .stopped
            else if !m.roomAt d core false 1 k.frames k.nbar then m
            else
              let q : Spot := { linear := 0, gx := 1, gy := 1, gz := 1, dies := [d], die := d, core := core }
              let g : Given :=
                { ctx := ctx, part := c.part, job := 0, plan := none, graph := none, args := 0, argsz := 0, super := true
                  cor := false, prio := 7, served := some ev }
              let m1 := (((m.acquireDrops d core .pkg).applySeen d (m.seenBy (m.lead ctx)))).modCtx ctx fun c => { c with traps := rest }
              { m1 with teams := m1.teams ++ [m1.freshTeam k shapes q g .running] }

/-- A TRESUME write of a running handler with the action `act`. -/
def Mach.handlerResume (m : Mach) (t act : Nat) (pzero : Bool) : Mach :=
  match m.teams[t]? with
  | none => m
  | some x =>
    if x.phase ≠ .running ∨ x.resumed ∨ !m.ctxRuns x.ctx then m
    else
      match x.record with
      | some r => if pzero ∧ r.1.cause ≠ 0x26 then m else m.tresume t act pzero
      | none => m

/-- 21 R368, action 1. -/
def execTresumeResume (t : Nat) (pzero : Bool) (s : State) : Host.Outcome State Fault Refusal :=
  always s fun m => m.handlerResume t 1 pzero
/-- 21 R368, action 2. -/
def execTresumeResumeWithout (t : Nat) (pzero : Bool) (s : State) : Host.Outcome State Fault Refusal :=
  always s fun m => m.handlerResume t 2 pzero
/-- 21 R368, action 3. -/
def execTresumeStop (t : Nat) (pzero : Bool) (s : State) : Host.Outcome State Fault Refusal :=
  always s fun m => m.handlerResume t 3 pzero

/-! ### Pre-emption (03 R62, 18 R317, 21 R372) -/

/-- PREQ raised in every warp of a team that has not exited, by a time-slice expiry if `slice`: as it rises YCNT is loaded with Y. -/
def Mach.raisePreq (m : Mach) (t : Nat) (slice : Bool) : Mach :=
  m.modTeam t fun team =>
    let y := ((m.ctx? team.ctx).map Context.y).getD 0
    { team with warps := team.warps.map fun x => if x.run = .exited then x else
      { x with preq := true, asked := x.asked || !slice, slice := x.slice || slice, ycnt := if x.preq then x.ycnt else y } }

/-- Whether a warp has a fault to take before anything else: a late fault found while it was stopped or saved, or an engine fault
(21 R366, R371, R372). -/
def Warp.faultDue (x : Warp) : Bool := (x.flight.head?.map Flight.faulted).getD false || decide (x.engFault ≠ [])

/-- The save of a warp whose YCNT has reached 0, at its instruction boundary (03 R62, R63); a stopped one is saved only once it has
resumed, and one that has a fault to take once it has taken it (21 R372). A debugger halt of the same cycle comes first (21 R371). -/
def Mach.forcedSave (m : Mach) (t w : Nat) : Option Mach :=
  match m.teams[t]?, m.warp? t w with
  | some team, some x =>
    let inUnit := m.unit.isSome && m.turn.t == t && m.turn.w == w
    if team.phase ≠ .running ∨ x.run ≠ .ready ∨ !x.preq ∨ x.ycnt ≠ 0 ∨ inUnit ∨ !m.ctxRuns team.ctx ∨ x.faultDue then none
    else if m.haltDue team.ctx then some m.doHalts
    else some ((m.modWarp t w fun _ => m.atBoundary team x).saveWarp t w)
  | _, _ => none

/-- 03 R62, R63. -/
def execForcedSave (t w : Nat) (s : State) : Host.Outcome State Fault Refusal :=
  always s fun m => (m.forcedSave t w).getD m

/-- Whether a running team of a time-sliced context has been placed for Q (18 R317). -/
def Mach.sliceOver (m : Mach) (team : Team) : Bool :=
  match m.ctx? team.ctx with
  | some c => decide (c.q ≠ 0) && decide (1000 * c.q ≤ (m.now - team.placedAt) * 10 / 13)
  | none => false

/-- Whether a team expires once another context waits for its room: stages and handlers never do, a co-resident launch only as a whole
(18 R317). -/
def Mach.mayExpire (m : Mach) (team : Team) : Bool :=
  decide (team.phase = .running) && team.plan.isNone && team.served.isNone && m.sliceOver team &&
    (!team.cor || m.teams.all fun x => !(x.ofJob team.part team.job && x.isPlaced) || (decide (x.phase = .running) && m.sliceOver x))

/-- A partition with the room that the expiring teams of other contexts would give a context. -/
def Mach.expired (m : Mach) (p ctx : Nat) : Mach :=
  { m with teams := m.teams.map fun x =>
      if x.part = p ∧ x.ctx ≠ ctx ∧ m.mayExpire x then { x with phase := .saved, suspended := true } else x }

/-- Whether a dispatched packet of another context waits for the room of a team's core or pair, or for that of several expiring teams
together: a kernel, or a plan to be started (18 R317). -/
def Mach.waited (m : Mach) (team : Team) : Bool :=
  let p := team.part
  (m.jobsIn p).any fun q =>
    let m1 := m.expired p q.2.pkt.ctx
    decide (q.2.pkt.ctx ≠ team.ctx) &&
      (([team.core, team.core ^^^ 1].any (m1.canPlace p q.1 q.2 team.die) &&
          (m.diesOf p).all fun d => (List.range Config.coresPerDie).all fun c => !m.canPlace p q.1 q.2 d c) ||
        (m1.planPlaceable p q.2 && !m.planPlaceable p q.2))

/-- 18 R317: the expiring team is pre-empted, a co-resident launch as a whole. -/
def execTimeSliceExpiry (t : Nat) (s : State) : Host.Outcome State Fault Refusal :=
  always s fun m =>
    match m.teams[t]? with
    | none => m
    | some team =>
      if !m.mayExpire team ∨ !m.waited team then m
      else if team.cor then
        (m.numbered.filter fun (x : Nat × Team) => x.2.ofJob team.part team.job && x.2.isPlaced).foldl (fun m x => m.raisePreq x.1 true) m
      else m.raisePreq t true

/-- 18 R315: a ready gang that has not issued for 512 cycles is aged. -/
def execAging (t : Nat) (q : WarpSlice) (s : State) : Host.Outcome State Fault Refusal :=
  always s fun m =>
    match m.teams[t]?, m.warp? t q.w with
    | some team, some x =>
      if team.phase = .running ∧ x.run = .ready ∧ !team.desched ∧ m.ctxRuns team.ctx ∧ Config.agedCycles ≤ x.idle.at q.slice then
        m.modWarp t q.w fun x => { x with aged := x.aged ||| gangOf team q.w x q.slice }
      else m
    | _, _ => m

/-! ### Commands: their blocks and results (18 R332, R333) -/

/-- A command done with a status. -/
def Mach.finishJob (m : Mach) (p i st : Nat) : Mach := m.modJob p i fun j => { j with phase := .done st }

/-- Whether a job is a dispatched or running command with a code. -/
def Job.isCommand (j : Job) (code : Nat) : Bool :=
  decide (j.pkt.kind = 3) && decide (j.pkt.cmd = code) && (decide (j.phase = .dispatched) || decide (j.phase = .running))

/-- A meaning that acts on a command of its code. -/
def commandOp (code p i : Nat) (s : State) (f : Mach → Job → Mach) : Host.Outcome State Fault Refusal :=
  always s fun m =>
    match m.job? p i with
    | some j => if j.isCommand code then f m j else m
    | none => m

/-- The parameter block of a command, `n` bytes aligned to `al`; none if it is misaligned or fails translation. -/
def Mach.block (m : Mach) (j : Job) (n al : Nat) : Option (Nat × Mach) :=
  if j.pkt.obj % al ≠ 0 then none else m.loadIn j.space j.pkt.obj n

/-- Whether `n` bytes at an address of a space translate. -/
def Mach.reachable (m : Mach) (sp : Option Nat) (va n : Nat) : Bool :=
  match sp with
  | some ctx => (pieces n).all fun q => (m.keyOf ctx (va + q.1)).isSome
  | none => true

/-- Whether a store of firmware of `n` bytes at an address of a space translates (18 R333). -/
def Mach.writable (m : Mach) (sp : Option Nat) (va n : Nat) : Bool :=
  match sp with
  | some ctx => (pieces n).all fun q => (m.fwKey ctx (va + q.1) .store).isSome
  | none => true

/-- Whether the result block of a command takes `n` bytes. -/
def Mach.resultOk (m : Mach) (j : Job) (n : Nat) : Bool :=
  decide (n ≤ j.pkt.argsz) && (decide (n = 0) || (decide (j.pkt.args % 64 = 0) && m.writable j.space j.pkt.args n))

/-- A result written and the command done. -/
def Mach.finishWith (m : Mach) (p i : Nat) (j : Job) (n v : Nat) : Mach := (m.storeIn j.space j.pkt.args n v).finishJob p i 0

/-! ### PREEMPT (18 R338, 03 R68) -/

/-- The block of a PREEMPT (18 R338). -/
structure PreemptAsk where
  all : Bool
  resume : Bool
  move : Bool
  target : Nat
  qidx : Nat
  pidx : Nat
  first : Nat
  count : Nat
deriving DecidableEq, Repr

/-- A PREEMPT block read from its 64 bytes; none if a reserved bit is set or MOVE lacks ALL = 1 and RESUME = 0. -/
def PreemptAsk.parse (v : Nat) : Option PreemptAsk :=
  if field v 3 5 = 0 ∧ field v 11 53 = 0 ∧ field v 74 54 = 0 ∧ field v 240 16 = 0 ∧ field v 304 208 = 0 ∧
      (!v.testBit 2 ∨ (v.testBit 0 ∧ !v.testBit 1)) then
    some { all := v.testBit 0, resume := v.testBit 1, move := v.testBit 2, target := field v 8 3, qidx := field v 64 10
           pidx := field v 128 64, first := field v 192 48, count := field v 256 48 }
  else none

/-- The launch that a PREEMPT names in a partition: a kernel packet of the context not yet complete, or the packet of a plan that
runs. -/
def Mach.namedJob (m : Mach) (p ctx : Nat) (a : PreemptAsk) : Option (Nat × Job) :=
  (m.jobsIn p).find? fun (q : Nat × Job) =>
    q.2.queue == a.qidx && q.2.index == a.pidx && q.2.pkt.ctx == ctx && !q.2.free && decide (q.2.pkt.kind ≤ 1) &&
      (match q.2.phase with | .done _ => false | .complete _ => false | .running => true | _ => decide (q.2.pkt.kind = 0))

/-- The teams of a job that a PREEMPT names: from a first one, a number of them. -/
def PreemptAsk.span (a : PreemptAsk) (teams : Nat) : Nat × Nat :=
  if a.all then (0, teams) else (a.first, min (if a.count = 0 then teams else a.count) (teams - a.first))

/-- Whether a PREEMPT of a context names a team: those of started plans never (18 R338). -/
def PreemptAsk.names (a : PreemptAsk) (p ctx : Nat) (job : Option (Nat × Job)) (t : Team) : Bool :=
  if a.all then t.ctx == ctx && t.plan.isNone
  else
    match job with
    | some q => t.ofJob p q.1 && decide ((a.span q.2.pkt.teams).1 ≤ t.linear) &&
        decide (t.linear < (a.span q.2.pkt.teams).1 + (a.span q.2.pkt.teams).2)
    | none => false

/-- The kernel jobs that a PREEMPT names, with their indices: those taken or running. -/
def Mach.namedJobs (m : Mach) (p ctx : Nat) (a : PreemptAsk) : List (Nat × Job) :=
  if a.all then
    (m.jobsIn p).filter fun (q : Nat × Job) => q.2.pkt.ctx == ctx && !q.2.free && decide (q.2.pkt.kind = 0) &&
      (match q.2.phase with | .done _ => false | .complete _ => false | _ => true)
  else (m.namedJob p ctx a).toList

/-- The unplaced teams of a job, in linear order of their indices, that lie in a span. -/
def Mach.unplaced (m : Mach) (p i first n : Nat) : List Nat :=
  ((List.range n).map (first + ·)).filter fun k => m.teams.all fun t => !(t.ofJob p i && t.linear == k)

/-- Whether linear index `k` is held back. -/
def Job.holds (j : Job) (k : Nat) : Bool := j.held.any fun h => decide (h.1 ≤ k ∧ k < h.1 + h.2)

/-- The refusal of a PREEMPT that names what it must not, if there is one. -/
def Mach.preemptBar (m : Mach) (p ctx : Nat) (a : PreemptAsk) : Option Nat :=
  if a.all then
    if m.plans.any fun x => x.ctx == ctx && x.job.isSome then some 5 else none
  else
    match m.namedJob p ctx a with
    | none => some 8
    | some (_, j) =>
      if j.pkt.kind = 1 then some 5
      else if j.pkt.cor ∧ ¬ (a.first = 0 ∧ (a.count = 0 ∨ j.pkt.teams ≤ a.count)) then some 5
      else none

/-- The named teams of a PREEMPT. -/
def Mach.namedTeams (m : Mach) (p ctx : Nat) (a : PreemptAsk) : List (Nat × Team) :=
  m.numbered.filter fun (x : Nat × Team) => a.names p ctx (m.namedJob p ctx a) x.2 && decide (x.2.phase ≠ .exited)

/-- The teams that a PREEMPT named when it began, but for those that have exited (18 R338). -/
def Mach.stillNamed (m : Mach) (j : Job) : List (Nat × Team) :=
  m.numbered.filter fun (x : Nat × Team) => j.named.contains x.1 && decide (x.2.phase ≠ .exited)

/-- The named unplaced teams held back; how many were not yet. -/
def Mach.holdBack (m : Mach) (p ctx : Nat) (a : PreemptAsk) : Nat × Mach :=
  (m.namedJobs p ctx a).foldl (fun r q =>
    let sp := a.span q.2.pkt.teams
    (r.1 + ((m.unplaced p q.1 sp.1 sp.2).filter fun k => !q.2.holds k).length,
     r.2.modJob p q.1 fun j => { j with held := sp :: j.held })) (0, m)

/-- The named saves begun: PREQ rises in the named running teams, saved ones become suspended. -/
def Mach.beginSaves (m : Mach) (p ctx : Nat) (a : PreemptAsk) : Mach :=
  (m.namedTeams p ctx a).foldl (fun m x =>
    (if x.2.phase = .running then m.raisePreq x.1 false else m).modTeam x.1 fun t => { t with suspended := true }) m

/-- A PREEMPT without RESUME: the first run names the teams and begins the saves, a later one goes on with `k` once they are done; `k`
gets the number of teams saved and the number held back. A team placed and not yet started is waited for. -/
def Mach.preemptSave (m : Mach) (p i : Nat) (j : Job) (a : PreemptAsk) (k : Mach → Nat → Nat → Mach) : Mach :=
  let named := if j.phase = .dispatched then m.namedTeams p j.pkt.ctx a else m.stillNamed j
  let saved := (named.filter fun (x : Nat × Team) => decide (x.2.phase = .saved)).length
  if j.phase = .dispatched then
    if named.any fun (x : Nat × Team) => decide (x.2.phase = .placed) then m
    else
      let h := m.holdBack p j.pkt.ctx a
      let marks := (named.filter fun (x : Nat × Team) => !x.2.suspended).map (·.1)
      (h.2.beginSaves p j.pkt.ctx a).modJob p i fun j =>
        { j with
          phase := .running, result := saved + h.1 * 2 ^ 32, marks := marks, named := named.map (·.1)
          heldIn := (m.namedJobs p j.pkt.ctx a).map (·.1) }
  else if named.all fun (x : Nat × Team) => decide (x.2.phase = .saved) then
    k m (saved - j.result % 2 ^ 32) (j.result / 2 ^ 32)
  else m

/-- The block of a PREEMPT of one of its three kinds; `k` gets it. A malformed block, or one whose result has no room, ends in
MALFORMED. -/
def preemptOp (p i : Nat) (s : State) (k : Mach → Job → PreemptAsk → Mach) : Host.Outcome State Fault Refusal :=
  commandOp 13 p i s fun m j =>
    match (m.block j 64 64).bind fun r => PreemptAsk.parse r.1 with
    | none => m.finishJob p i 3
    | some a =>
      if !m.resultOk j 8 then m.finishJob p i 3
      else k m j a

/-- 18 R338: the named teams are saved or held back. -/
def execPreempt (p job : Nat) (s : State) : Host.Outcome State Fault Refusal :=
  preemptOp p job s fun m j a =>
    if a.resume ∨ a.move then m
    else
      match if j.phase = .dispatched then m.preemptBar p j.pkt.ctx a else none with
      | some st => m.finishJob p job st
      | none => m.preemptSave p job j a fun m saved held => m.finishWith p job j 8 (saved % 2 ^ 32 + held % 2 ^ 32 * 2 ^ 32)

/-- The parts of held spans outside a span. -/
def releaseSpan (hs : List (Nat × Nat)) (first n : Nat) : List (Nat × Nat) :=
  hs.flatMap fun h =>
    let lo := min (h.1 + h.2) (max h.1 first)
    let hi := max h.1 (min (h.1 + h.2) (first + n))
    if lo < hi then ([(h.1, lo - h.1), (hi, h.1 + h.2 - hi)] : List (Nat × Nat)).filter fun q => q.2 ≠ 0 else [h]

/-- 18 R338 with RESUME: tested as a whole under 03 R67, then released; it ends once every named saved team is restored. -/
def execPreemptResume (p job : Nat) (s : State) : Host.Outcome State Fault Refusal :=
  preemptOp p job s fun m j a =>
    if !a.resume then m
    else
      let named := if j.phase = .dispatched then m.namedTeams p j.pkt.ctx a else m.stillNamed j
      let saved := named.filter fun (x : Nat × Team) => decide (x.2.phase = .saved)
      if j.phase = .dispatched then
        match m.preemptBar p j.pkt.ctx a with
        | some st => m.finishJob p job st
        | none =>
          if saved.any fun (x : Nat × Team) => !m.configOk p x.2 then m.finishJob p job 2
          else
            let m1 := saved.foldl (fun m x => m.modTeam x.1 fun t => { t with suspended := false }) m
            let r := (m.namedJobs p j.pkt.ctx a).foldl (fun (r : Nat × Mach) q =>
              let sp := a.span q.2.pkt.teams
              (r.1 + ((m.unplaced p q.1 sp.1 sp.2).filter q.2.holds).length,
               r.2.modJob p q.1 fun j => { j with held := releaseSpan j.held sp.1 sp.2 })) (0, m1)
            r.2.modJob p job fun j =>
              { j with phase := .running, result := saved.length % 2 ^ 32 + r.1 % 2 ^ 32 * 2 ^ 32, named := saved.map (·.1) }
      else if saved.isEmpty then m.finishWith p job j 8 j.result
      else m

/-! ### The move of a context (03 R68) -/

/-- The incomplete packets of a context that have left their queues, but for one job. -/
def Mach.openJobs (m : Mach) (p ctx own : Nat) : List (Nat × Job) :=
  (m.jobsIn p).filter fun (q : Nat × Job) =>
    q.2.pkt.ctx == ctx && !q.2.free && decide (q.1 ≠ own) && (match q.2.phase with | .taken => false | .complete _ => false | _ => true)

/-- What of 03 R68 does not depend on the saves. For a target partition that is not formed the rule names no status: the answer is
BUSY (DESIGN CHOICE: assumption log 79). -/
def Mach.mayMove (m : Mach) (p ctx own target : Nat) : Bool :=
  (m.plans.all fun x => x.ctx ≠ ctx) && (m.pipes.all fun x => x.ctx ≠ ctx) && (m.graphJobs.all fun g => !(g.live && g.ctx == ctx)) &&
  ((m.openJobs p ctx own).all fun (q : Nat × Job) => decide (q.2.pkt.kind = 0) && decide (q.2.phase = .running)) &&
  decide ((m.contexts.filter fun c => c.part = target).length < Config.contextLimit) &&
  match m.part? p, m.part? target with
  | some x, some y => decide (p ≠ target) && (x.queues.filter fun q => q.ctx = some ctx).all fun q => y.queues.all fun r => r.idx ≠ q.idx
  | _, _ => false

/-- Whether a launch of a context has its die shares: it runs, or it names its dies (03 R35, R68). -/
def Job.hasShares (j : Job) (ctx : Nat) : Bool :=
  j.pkt.ctx == ctx && !j.free && decide (j.pkt.kind = 0) &&
    (decide (j.phase = .running) || (decide (j.phase = .taken) && decide (j.pkt.dies ≠ 0)))

/-- Whether the target has a die for every die share of the context's grids. -/
def Mach.sharesFit (m : Mach) (p ctx target : Nat) : Bool :=
  let n := (m.diesOf target).length
  (m.teams.all fun t => !(t.ctx == ctx && decide (t.phase ≠ .exited)) || decide (t.dien ≤ n)) &&
  match m.part? p with
  | some x => x.jobs.all fun j => !j.hasShares ctx || decide ((m.dieSet p j.pkt.dies).length ≤ n)
  | none => false

/-- A moved team: its shares lie on the lowest dies of the target. -/
def Team.movedTo (t : Team) (target : Nat) (ds : List Nat) (job : Nat) : Team :=
  { t with part := target, job := job, dies := ds.take t.dien, die := ds.getD t.dshare 0, suspended := false }

/-- A context moved with its queues, its open launches and its saved teams; the teams of launches that have ended stay behind. Teams
held back are released in the target, and a taken launch that names its dies keeps their number (DESIGN CHOICE: assumption log 78). -/
def Mach.moveContext (m : Mach) (p ctx own target : Nat) : Mach :=
  let ds := m.diesOf target
  let m := m.teams.foldl (fun m t => if t.ctx = ctx ∧ t.phase ≠ .exited then m.carry t.die (ds.getD t.dshare 0) else m) m
  let jobs := (m.jobsIn p).filter fun (q : Nat × Job) =>
    q.2.pkt.ctx == ctx && !q.2.free && decide (q.1 ≠ own) && (match q.2.phase with | .complete _ => false | _ => true)
  let base := ((m.part? target).map fun y => y.jobs.length).getD 0
  let newIdx := fun i : Nat => ((jobs.findIdx? fun q => q.1 = i).map (base + ·)).getD i
  let moved := jobs.map fun q =>
    { q.2 with held := [], pkt := { q.2.pkt with
        dies := if q.2.hasShares ctx then ((ds.take (m.dieSet p q.2.pkt.dies).length).map fun d => 2 ^ d).sum else q.2.pkt.dies } }
  let queues := ((m.part? p).map fun x => x.queues.filter fun q => q.ctx = some ctx).getD []
  let m1 := (m.modPart p fun x =>
    { x with
      queues := x.queues.filter fun q => q.ctx ≠ some ctx
      jobs := ((List.range x.jobs.length).zip x.jobs).map fun (q : Nat × Job) =>
        if jobs.any fun k => k.1 = q.1 then { q.2 with phase := .complete 0 } else q.2 }).modPart target fun y =>
    { y with queues := y.queues ++ queues, jobs := y.jobs ++ moved }
  { m1 with
    teams := m1.teams.map fun t =>
      if t.ctx = ctx ∧ (t.phase ≠ .exited ∨ jobs.any fun q => t.ofJob p q.1) then t.movedTo target ds (newIdx t.job) else t
    contexts := m1.contexts.map fun c => if c.id = ctx then { c with part := target } else c }

/-- 03 R68: BUSY and CAPACITY leave nothing behind, so what this command has suspended or held back is released again; what an earlier
one has stays so. -/
def execPreemptMove (p job : Nat) (s : State) : Host.Outcome State Fault Refusal :=
  preemptOp p job s fun m j a =>
    if !a.move then m
    else
      let ctx := j.pkt.ctx
      let undo := fun m : Mach =>
        if j.phase = .dispatched then m
        else
          let m1 := j.marks.foldl (fun m t => m.modTeam t fun x => { x with suspended := false }) m
          j.heldIn.foldl (fun m i => m.modJob p i fun k => { k with held := k.held.erase (a.span k.pkt.teams) }) m1
      let admin := (((m.part? p).bind fun x => x.queues.find? fun q => q.idx == j.queue).map Queue.admin).getD false
      if j.phase = .dispatched ∧ !admin then m.finishJob p job 7
      else if m.dies.length ≤ a.target then m.finishJob p job 3
      else if (m.preemptBar p ctx a).isSome ∨ !m.mayMove p ctx job a.target then (undo m).finishJob p job 5
      else if !m.sharesFit p ctx a.target then (undo m).finishJob p job 2
      else m.preemptSave p job j a fun m saved held =>
        if m.teams.any fun t => t.ctx == ctx && decide (t.phase ≠ .exited) && decide (t.phase ≠ .saved) then (undo m).finishJob p job 5
        else (m.moveContext p ctx job a.target).finishWith p job j 8 (saved % 2 ^ 32 + held % 2 ^ 32 * 2 ^ 32)

end Sys2Proof.Machine
end

