-- ==== Sys2Proof/Machine/Commands.lean ====
section
/-! DEFINITION. The commands on queues, contexts, ranges, quotas and counters (spec 18 R332 to R336, R339; 13 R238 to R240, R251;
21 R365). -/

namespace Sys2Proof.Machine

/-! ### QUEUE_CREATE (18 R308, R334) -/

/-- Whether the ring of a queue lies in the memory of its kind (18 R308). -/
def Mach.ringPlaced (m : Mach) (ctx ring : Nat) (dev : Bool) : Bool :=
  match m.keyOf ctx ring with
  | some k => if dev then isPackage k else decide (keyClass k = 2 ∨ keyClass k = 4)
  | none => false

/-- 18 R334. -/
def execQueueCreate (p job : Nat) (s : State) : Host.Outcome State Fault Refusal :=
  commandOp 1 p job s fun m j =>
    match m.block j 16 64 with
    | none => m.finishJob p job 3
    | some (v, m1) =>
      let idx := field v 0 10
      let desc := field v 64 48
      if idx = 0 ∨ field v 10 54 ≠ 0 ∨ field v 112 16 ≠ 0 ∨ desc % 32 ≠ 0 then m.finishJob p job 3
      else
        match m1.fwLoad j.pkt.ctx desc 32 with
        | none => m.finishJob p job 3
        | some (w, m2) =>
          if (m.queueIds p).contains idx then m.finishJob p job 5
          else if field w 0 48 % 64 ≠ 0 ∨ 12 < field w 48 4 ∨ field w 55 9 ≠ 0 ∨ field w 224 32 ≠ 0 ∨
              !m2.ringPlaced j.pkt.ctx (field w 0 48) (w.testBit 52) then m.finishJob p job 3
          else
            let q : Queue :=
              { idx := idx, ctx := some j.pkt.ctx, desc := desc, ring := field w 0 48, lgsize := field w 48 4, dev := w.testBit 52
                cmdok := w.testBit 53, admin := w.testBit 54, prodp := 0, consp := 0, misses := 0, held := false }
            let m3 := m2.modPart p fun x => { x with queues := x.queues ++ [q] }
            ((m3.storeIn q.ctx (desc + 16) 8 0).storeIn q.ctx (desc + 24) 4 0).finishJob p job 0

/-! ### CONTEXT_CREATE (18 R335, 21 R365) -/

/-- The block of a CONTEXT_CREATE. -/
structure CreateAsk where
  y : Nat
  q : Nat
  sdbase : Nat
  sdcnt : Nat
  hkdesc : Nat
  route : Nat
  sysva : Nat
deriving DecidableEq, Repr

/-- The codes of a fault-routing block (21 R365). -/
def routeOk (route hkdesc : Nat) : Bool :=
  (List.range 8).all fun g =>
    match route / 2 ^ (2 * g) % 4 with
    | 0 => true
    | 1 => decide (hkdesc ≠ 0)
    | 2 => g == 5 || g == 6
    | _ => false

/-- A CONTEXT_CREATE block read from its 64 bytes; none if it breaks its limits. -/
def CreateAsk.parse (v : Nat) : Option CreateAsk :=
  let a : CreateAsk :=
    { y := field v 0 32, q := field v 32 32, sdbase := field v 64 48, sdcnt := field v 128 17, hkdesc := field v 192 48
      route := field v 256 16, sysva := field v 320 48 }
  if field v 112 16 = 0 ∧ field v 145 47 = 0 ∧ field v 240 16 = 0 ∧ field v 272 48 = 0 ∧ field v 368 144 = 0 ∧ a.sdbase % 16 = 0 ∧
      a.sdcnt ≤ 65536 ∧ (a.sdcnt ≠ 0 ∨ a.sdbase = 0) ∧ a.sysva % 65536 = 0 ∧ routeOk a.route a.hkdesc then some a else none

/-- Whether the handler kernel of a block suits, if some group is routed to it: read where the command reads its block (18 R404). -/
def Mach.handlerSuits (m : Mach) (j : Job) (a : CreateAsk) (p : Nat) : Bool :=
  ((List.range 8).all fun g => a.route / 2 ^ (2 * g) % 4 ≠ 1) ||
    match m.kernelIn j.space a.hkdesc with
    | some (k, _) => decide (k.teamw = 1) && !k.span && decide (k.nbar ≤ m.limit p 16 8)
    | none => false

/-- A range of Nimom's structures: `n` granules from granule `g`, backed from granule `b` (18 R335). -/
def nimomRange (g n b : Nat) (pat : Bool) : RangeDesc :=
  { baseg := g, lastg := g + n - 1, offs := Int.ofNat b - Int.ofNat g, prd := true, pwr := true, pex := false, pat := pat, cls := 0
    sonly := true, agent := 0, isPartial := false, denyf := false, mapva := 0, peer := 0, maporg := 0 }

/-- Whether `n` granules of HBM from granule `b` are free: inside the memory, and no backing of a range or of the press. -/
def Mach.backingFree (m : Mach) (b n : Nat) : Bool :=
  decide (b + n ≤ m.dies.length * 2 ^ 20) &&
  (m.contexts.all fun c => c.ranges.all fun r => !(decide (r.cls = 0) && spansMeet b n r.backing.toNat r.size)) &&
  m.press.all fun q => !(decide (q.cls = 0) && spansMeet b n q.dest (blockSum q.blocks))

/-- A quota table with every LIMIT at its reset value and every USED 0 (13 R251). -/
def freshQuota : Nat → Nat
  | 0 => 0
  | n + 1 => (2 ^ 64 - 1) + 2 ^ 128 * freshQuota n

/-- 18 R335. The identifier, the place of Nimom's structures where the block leaves it open and their backing are firmware's choices
(DESIGN CHOICE: assumption log 16). -/
def execContextCreate (p job : Nat) (id sysva pa : Nat) (s : State) : Host.Outcome State Fault Refusal :=
  commandOp 2 p job s fun m j =>
    match m.block j 64 64 with
    | none => m.finishJob p job 3
    | some (v, m1) =>
      match CreateAsk.parse v with
      | none => m.finishJob p job 3
      | some a =>
        let base := if a.sysva = 0 then sysva else a.sysva
        if !m1.resultOk j 32 ∨ !m1.handlerSuits j a p ∨ (a.sysva ≠ 0 ∧ 2 ^ 32 < a.sysva / 65536 + Config.nimomGranules) then
          m.finishJob p job 3
        else if Config.contextLimit ≤ (m.contexts.filter fun c => c.part = p).length ∨ 512 ≤ m.contexts.length then m.finishJob p job 2
        else if 512 ≤ id ∨ (m.ctx? id).isSome ∨ base % 65536 ≠ 0 ∨ 2 ^ 32 < base / 65536 + Config.nimomGranules ∨ pa % 65536 ≠ 0 ∨
            !m.backingFree (pa / 65536) Config.nimomGranules then m
        else
          let g := base / 65536
          let b := pa / 65536
          let c : Context :=
            { id := id, part := p, y := a.y, q := a.q, sdbase := a.sdbase, sdcnt := a.sdcnt, hkdesc := a.hkdesc
              route := BitVec.ofNat 16 a.route, sysva := base, qtva := base, saveva := base + 2 * 65536
              ranges := [nimomRange g 1 b true, nimomRange (g + 1) (Config.nimomGranules - 1) (b + 1) false]
              halt := none, haltDue := false, debugger := false, traps := [], stops := [], stopOwn := false, stopDie := m.leadOf p, reported := false }
          ({ m1 with contexts := m1.contexts ++ [c] }.pastCaches pa 4096 (freshQuota 256)).finishWith p job j 32
            (id + c.qtva * 2 ^ 64 + c.saveva * 2 ^ 128)

/-! ### CONTEXT_DESTROY (18 R333) -/

/-- The accesses that a warp has issued, performed (21 R370). -/
def Mach.drainWarp : Nat → Mach → Nat → Nat → Mach
  | 0, m, _, _ => m
  | n + 1, m, t, w =>
    match m.settleOldest t w with
    | (.completed, m1) => Mach.drainWarp n m1 t w
    | (_, m1) => m1

/-- The accesses that the warps of a context have issued, performed. -/
def Mach.drainContext (m : Mach) (ctx : Nat) : Mach :=
  m.numbered.foldl (fun m (x : Nat × Team) =>
    if x.2.ctx = ctx then
      (List.range x.2.warps.length).foldl (fun m w =>
        Mach.drainWarp (((m.warp? x.1 w).map fun y => y.flight.length).getD 0) m x.1 w) m
    else m) m

/-- The packets of a context that are open, but for one, completed STOPPED or with the status they hold (21 R370). -/
def Mach.closeJobs (m : Mach) (p ctx own : Nat) : Mach :=
  match m.part? p with
  | none => m
  | some x =>
    ((List.range x.jobs.length).zip x.jobs).foldl (fun m (q : Nat × Job) =>
      if q.2.pkt.ctx = ctx ∧ !q.2.free ∧ q.1 ≠ own then
        match q.2.phase with
        | .complete _ => m
        | .done st => (m.announceJob p q.2 st).modJob p q.1 fun j => { j with phase := .complete st }
        | _ => (m.announceJob p q.2 10).modJob p q.1 fun j => { j with phase := .complete 10 }
      else m) m

/-- Everything of a context freed: queues, plans, pipes, graphs, ranges and what caches hold of them (18 R333, 13 R243, 05 R97). -/
def Mach.freeContext (m : Mach) (ctx : Nat) : Mach :=
  { m with
    dies := m.dies.map fun d => { d with
      dcache := d.dcache.filter fun e => e.1 ≠ ctx
      cores := d.cores.map fun c =>
        { c with
          rtab := c.rtab.filter fun e => e.1 ≠ ctx
          scale := c.scale.filter fun l => l.ctx ≠ ctx
          sdir := c.sdir.filter fun e => e.ctx ≠ ctx } }
    parts := m.parts.map fun x => { x with queues := x.queues.filter fun q => q.ctx ≠ some ctx }
    contexts := m.contexts.filter fun c => c.id ≠ ctx
    teams := m.teams.map fun t => if t.ctx = ctx then { t with phase := .exited, scratch := [], served := none, shapes := tab fun _ => none, rings := tab fun _ => none } else t
    plans := m.plans.filter fun x => x.ctx ≠ ctx
    pipes := m.pipes.filter fun x => x.ctx ≠ ctx
    graphs := m.graphs.filter fun x => x.ctx ≠ ctx
    graphJobs := m.graphJobs.map fun g => if g.ctx = ctx then { g with live := false } else g
    press := m.press.filter fun x => x.ctx ≠ ctx }

/-- Whether a die has halted. -/
def Mach.haltedDie (m : Mach) (d : Nat) : Bool := ((m.dies[d]?).map Die.halted).getD true

/-- The stop area of a context written anew by the die that holds it: a lost sector of it was published poisoned (21 R374). -/
def Mach.rewriteStops (m : Mach) (c : Context) : Mach := m.stopArea c.stopDie c.id c.saveva c.stopOwn c.stops

/-- Whether the stop area of a context cannot be read whole: the die that holds it has lost a sector of it, before or after the close of
its epoch (21 R374). -/
def Mach.stopsLost (m : Mach) (c : Context) : Bool :=
  match m.keyOf c.id c.saveva with
  | some k => m.meetsPoison c.stopDie k (64 + 64 * c.stops.length)
  | none => false

/-- The stop-report interrupt of a context, after the die that holds its stop area has published it at SYS scope (25 R402). -/
def Mach.reportStop (m : Mach) (ctx : Nat) : Mach :=
  match m.ctx? ctx with
  | some c =>
    if c.halt.isNone ∨ c.reported ∨ m.haltedDie c.stopDie ∨ m.flushHeld c.stopDie .sys then m
    else if !(m.lostAt c.stopDie .sys).isEmpty ∨ m.stopsLost c then (m.release c.stopDie .sys).rewriteStops c
    else
      let m1 := m.release c.stopDie .sys
      { m1.modCtx ctx fun c => { c with reported := true } with msix := m1.msix ++ [(c.part, 0)] }
  | none => m

/-- 18 R333: a running context is stopped as by a forced kill; its packets complete before its space is gone. -/
def execContextDestroy (p job : Nat) (s : State) : Host.Outcome State Fault Refusal :=
  commandOp 3 p job s fun m j =>
    if j.pkt.obj ≠ 0 then m.finishJob p job 3
    else if m.workHeld p then m
    else if m.workLost p then m.gatherWork p .sys
    else
      let ctx := j.pkt.ctx
      let m1 := ((m.modCtx ctx fun c => if c.halt = some .debugger then { c with halt := none } else c).stopContext ctx 0x51 none
        .stopped).drainContext ctx
      let m2 := (m1.reportStop ctx).closeJobs p ctx job
      ((m2.announceJob p j 0).modJob p job fun j => { j with phase := .complete 0 }).freeContext ctx

/-! ### RANGE_MAP and RANGE_UNMAP (13 R239, R240, R247, R251; 18 R335, R336) -/

/-- A descriptor read from its 32 bytes; none if a reserved bit is set, V is clear or a field breaks 13 R239 or R240. -/
def RangeDesc.parse (v : Nat) : Option RangeDesc :=
  let r : RangeDesc :=
    { baseg := field v 0 32, lastg := field v 32 32, offs := sextNat (field v 64 41) 41, prd := v.testBit 105, pwr := v.testBit 106
      pex := v.testBit 107, pat := v.testBit 108, cls := field v 109 3, sonly := v.testBit 112, agent := field v 113 8
      isPartial := v.testBit 121, denyf := v.testBit 122, mapva := field v 128 48, peer := field v 176 16, maporg := field v 192 32 }
  if v.testBit 123 ∧ field v 124 4 = 0 ∧ field v 224 32 = 0 ∧ r.baseg ≤ r.lastg ∧ r.cls ≤ 4 ∧ r.mapva % 8 = 0 ∧
      (if r.isPartial then r.maporg ≤ r.baseg else r.mapva = 0 ∧ r.maporg = 0) ∧
      (if r.cls = 3 then r.peer ≤ 1023 else r.peer = 0) then some r else none

/-- Whether every granule of a range lies in the physical space of its class (13 R240). -/
def Mach.inSpace (m : Mach) (r : RangeDesc) : Bool :=
  decide (0 ≤ r.backing) &&
    match r.cls with
    | 0 => decide (r.backing + r.size ≤ Int.ofNat (m.dies.length * 2 ^ 20))
    | 1 => decide ((r.backing + r.size) * 65536 ≤ Int.ofNat m.nearBytes)
    | 3 => true
    | _ => decide (r.backing + r.size ≤ 2 ^ 40)

/-- Whether the residency map of a partial range translates (13 R247, 18 R333). -/
def Mach.mapTranslates (m : Mach) (ctx : Nat) (r : RangeDesc) : Bool :=
  let first := (r.mapWord r.baseg).1 / 65536
  !r.isPartial || (List.range ((r.mapWord r.lastg).1 / 65536 + 1 - first)).all fun k => (m.keyOf ctx (65536 * (first + k))).isSome

/-- Whether a range holds Nimom's structures of a context (18 R335). -/
def Context.nimom (c : Context) (r : RangeDesc) : Bool :=
  decide (c.sysva / 65536 ≤ r.baseg) && decide (r.baseg < c.sysva / 65536 + Config.nimomGranules)

/-- 18 R336: a fully resident range is charged; the granules of a partial one begin ABSENT, since a granule becomes RESIDENT only by a
fill (13 R250). -/
def execRangeMap (p job : Nat) (s : State) : Host.Outcome State Fault Refusal :=
  commandOp 4 p job s fun m j =>
    match (m.block j 32 32).bind fun q => (RangeDesc.parse q.1).map fun r => (r, q.2), m.ctx? j.pkt.ctx with
    | some (r, m1), some c =>
      if !m.inSpace r ∨ !m.mapTranslates c.id r ∨ c.ranges.any (fun x => x.meets r.baseg r.size) then m.finishJob p job 3
      else if Config.rangeLimit ≤ c.ranges.length then m.finishJob p job 2
      else
        let put := fun m : Mach => m.setRanges c.id (insertRange r c.ranges)
        if r.isPartial then
          ((List.range r.size).foldl (fun m k => m.setResidency c.id r (r.baseg + k) 0) (put m1)).finishJob p job 0
        else
          match m1.charge c.id r.agent r.size with
          | some m2 => (put m2).finishJob p job 0
          | none => m.finishJob p job 6
    | _, _ => m.finishJob p job 3

/-- The part of a range inside `n` granules from `g`, and the parts outside (13 R255). -/
def RangeDesc.cut (r : RangeDesc) (g n : Nat) : RangeDesc × List RangeDesc :=
  ({ r with baseg := max r.baseg g, lastg := min r.lastg (g + n - 1) },
   (if r.baseg < g then [{ r with lastg := g - 1 }] else []) ++ (if g + n ≤ r.lastg then [{ r with baseg := g + n }] else []))

/-- The part of a range that leaves: its RESIDENT granules are credited, those of a partial range end ABSENT. -/
def Mach.leave (m : Mach) (ctx : Nat) (r : RangeDesc) : Mach :=
  let gs := (List.range r.size).map (r.baseg + ·)
  let n := m.residents ctx r gs
  let m1 := if n = 0 then m else m.credit ctx r.agent n
  if r.isPartial then gs.foldl (fun m g => m.setResidency ctx r g 0) m1 else m1

/-- 18 R336: accesses through the descriptors are performed first, as the RINVAL at its end asks (13 R253). The splits leave no more
ranges than a context holds (13 R238). -/
def execRangeUnmap (p job : Nat) (s : State) : Host.Outcome State Fault Refusal :=
  commandOp 5 p job s fun m j =>
    match m.block j 16 64, m.ctx? j.pkt.ctx with
    | some (v, m1), some c =>
      let g := field v 16 32
      let n := field v 64 32
      if field v 0 16 ≠ 0 ∨ field v 48 16 ≠ 0 ∨ field v 96 32 ≠ 0 ∨ n = 0 then m.finishJob p job 3
      else
        let hit := fun r : RangeDesc => r.meets g n && !c.nimom r
        let rs := c.ranges.filter hit
        let cores := (m.diesOf p).flatMap fun d => (List.range Config.coresPerDie).map fun k => (d, k)
        if rs.isEmpty then m.finishJob p job 8
        else if Config.rangeLimit < c.ranges.length + (rs.map fun r => (r.cut g n).2.length).sum then m.finishJob p job 2
        else
          match m1.userOf cores c.id hit with
          | some u => m1.background u.1 u.2
          | none =>
            if (m1.lateUserOf cores c.id hit).isSome ∨ !(m1.opsUsing (m.diesOf p) c.id hit).isEmpty then m
            else
              let m2 := rs.foldl (fun m r => m.leave c.id (r.cut g n).1) m1
              let m3 := m2.setRanges c.id (c.ranges.flatMap fun r => if hit r then (r.cut g n).2 else [r])
              ((m3.dropRanges cores c.id hit).announce c.id .pkg).finishJob p job 0
    | _, _ => m.finishJob p job 3

/-- 18 R336: LIMIT is written as by an ATOM.PKG.EXCH (13 R251). -/
def execQuotaSet (p job : Nat) (s : State) : Host.Outcome State Fault Refusal :=
  commandOp 6 p job s fun m j =>
    match m.block j 16 64, m.ctx? j.pkt.ctx with
    | some (v, m1), some c =>
      if field v 8 56 ≠ 0 then m.finishJob p job 3
      else
        match m1.keyOf c.id (c.qtva + 16 * field v 0 8) with
        | some k => (m1.agentAtomic (m1.lead c.id) k 8 fun _ => field v 64 64).2.finishJob p job 0
        | none => m.finishJob p job 3
    | _, _ => m.finishJob p job 3

/-! ### SIGNAL and WAIT (18 R339, 12 R236, R237) -/

/-- The block of a SIGNAL or WAIT: the counter, what its memory answers to the access that the command makes, and the value; none if
it is malformed. -/
def Mach.counterBlock (m : Mach) (j : Job) (a : Access) : Option (Nat × Option Nat × Nat × Mach) :=
  (m.block j 16 64).bind fun r =>
    let cnt := field r.1 0 48
    if field r.1 48 16 ≠ 0 ∨ cnt % 8 ≠ 0 then none
    else (r.2.fwKey j.pkt.ctx cnt a).map fun k => (cnt, k, field r.1 64 64, r.2)

/-- 18 R339. It waits while a LINK_RECONF holds what its release covers; a lost sector of the release is published poisoned first
(21 R374). -/
def execSignal (p job : Nat) (s : State) : Host.Outcome State Fault Refusal :=
  commandOp 11 p job s fun m j =>
    match m.counterBlock j .atomic with
    | none => m.finishJob p job 3
    | some (cnt, k, v, m1) =>
      if m1.flushHeld (m1.lead j.pkt.ctx) ((k.map counterScope).getD .pkg) then m
      else if !(m1.lostAt (m1.lead j.pkt.ctx) .sys).isEmpty then m1.announce j.pkt.ctx .sys
      else (m1.addCounter j.pkt.ctx cnt v).finishJob p job 0

/-- A queue that takes packets again. -/
def Mach.unhold (m : Mach) (p q : Nat) : Mach := m.modQueue p q fun q => { q with held := false }

/-- 18 R339: the queue is held from the dispatch on. -/
def execWait (p job : Nat) (s : State) : Host.Outcome State Fault Refusal :=
  commandOp 12 p job s fun m j =>
    if j.phase ≠ .dispatched then m
    else
      match m.counterBlock j .load with
      | none => (m.finishJob p job 3).unhold p j.queue
      | some (cnt, _, v, m1) =>
        if !m1.resultOk j 8 then (m.finishJob p job 3).unhold p j.queue
        else m1.modJob p job fun j => { j with phase := .running, block := cnt, result := v }

/-- 18 R339, 12 R237: the value is acquired at its scope and stored as the result, which the release of the WAIT then announces
(18 R403); the queue goes on. -/
def execWaitRelease (p job : Nat) (s : State) : Host.Outcome State Fault Refusal :=
  commandOp 12 p job s fun m j =>
    if j.phase ≠ .running then m
    else
      let d := m.lead j.pkt.ctx
      let read := (m.fwKey j.pkt.ctx j.block .load).bind fun k =>
        match k with
        | some k => ((m.unblock k).ldaRead d k 8 (counterScope k)).map fun r => (r.1, r.2.acquireDrops d 0 (counterScope k))
        | none => some (0, m)
      match read with
      | none => m
      | some (v, m1) =>
        if !counterMet v j.result ∨ m1.flushHeld d .sys then m
        else if !(m1.lostAt d .sys).isEmpty then m.announce j.pkt.ctx .sys
        else ((m1.finishWith p job j 8 v).announce j.pkt.ctx .sys).unhold p j.queue

end Sys2Proof.Machine
end

