-- ==== Sys2Proof/Machine/Plans.lean ====
section
/-! DEFINITION. Pipeline plans: their load, start, stop and restart, the balancer, deadlocks and the wring (spec 18 R318, R322 to
R327, R337; 19 R352; 20 R359). -/

namespace Sys2Proof.Machine

/-! ### Plan records (18 R318, R322) -/

/-- The header of a plan record at `va`: stages, pipes and the plan; none if it breaks 18 R322. -/
def Plan.parse (ctx va v : Nat) : Option (Nat × Nat × Plan) :=
  let ns := field v 0 5
  let np := field v 8 7
  let x : Plan :=
    { ctx := ctx, va := va, period := field v 16 32, dk := field v 48 8, policy := field v 56 2, evva := field v 64 48
      evcnt := field v 128 48, ckva := field v 192 48, stages := [], pipes := [], job := none, stopping := false, stopped := false
      saved := [], due := 0, watch := [] }
  if field v 5 3 = 0 ∧ field v 15 1 = 0 ∧ field v 58 6 = 0 ∧ field v 112 16 = 0 ∧ field v 176 16 = 0 ∧ field v 240 272 = 0 ∧
      ns ≤ 16 ∧ np ≤ 64 ∧ 10000 ≤ x.period ∧ 1 ≤ x.dk ∧ x.policy ≤ 2 ∧ x.evcnt % 8 = 0 then some (ns, np, x)
  else none

/-- A stage entry; none if it breaks 18 R322. -/
def Mach.parseStage (m : Mach) (p v : Nat) : Option Stage :=
  let st : Stage :=
    { kdesc := field v 0 48, minc := field v 48 8, maxc := field v 56 8, dies := field v 64 8, prio := field v 72 3
      teams := field v 80 16, args := field v 96 48, argsz := field v 144 16, cores := [] }
  if field v 75 5 = 0 ∧ field v 160 96 = 0 ∧ 1 ≤ st.minc ∧ st.minc ≤ st.maxc ∧ st.maxc ≤ Config.coresPerDie * (m.diesOf p).length ∧
      m.diesInside p st.dies ∧ 1 ≤ st.teams ∧ st.argsz % 8 = 0 ∧ st.argsz ≤ 4096 then some st
  else none

/-- A pipe record of a plan of `ns` stages, as pipe `num`; none if it breaks 18 R318 or R322. -/
def Mach.parsePipe (m : Mach) (p ns num recVA : Nat) (x : Plan) (v : Nat) : Option Pipe :=
  let depth := field v 20 7
  let q : Pipe :=
    { num := num, ctx := x.ctx, planVA := x.va, recVA := recVA, fmt := field v 0 4, trows := field v 4 8, tcols := field v 12 8
      depth := depth, slotlg := field v 27 4, msg := v.testBit 31, high := field v 32 7, low := field v 39 7, home := field v 46 3
      remote := v.testBit 49, peer := field v 64 16, slotva := field v 80 48, spillva := field v 128 48, spilln := field v 176 16
      prod := field v 192 16, cons := field v 208 16, rseq := 0, cseq := 0, tseq := 0, spilled := []
      slots := List.replicate depth { st := .free, seq := 0, seen := [] }, wmark := false, moved := 0 }
  let spillHbm := match m.keyOf x.ctx q.spillva with | some k => decide (keyClass k = 0) | none => false
  if field v 50 14 = 0 ∧ field v 328 184 = 0 ∧ 1 ≤ q.trows ∧ 1 ≤ q.tcols ∧ 1 ≤ depth ∧ depth ≤ 64 ∧ q.slotlg ≤ 10 ∧
      (if q.msg then decide (q.slotlg = 0 ∨ q.slotlg = 2) else decide (2 ≤ q.slotlg)) ∧ q.high ≤ depth ∧ q.low ≤ q.high ∧ (m.diesOf p).contains q.home ∧
      (q.remote ∨ q.peer = 0) ∧ q.slotva % q.slotSize = 0 ∧ m.reachable (some x.ctx) q.slotva (depth * q.slotSize) ∧
      (if q.spillva = 0 then decide (q.spilln = 0) else spillHbm) ∧ (q.trows * q.tcols * fmtBits q.fmt + 7) / 8 ≤ q.slotSize ∧
      (if q.msg then decide (q.prod = 0xFFFF ∧ q.cons = 0xFFFF)
       else decide ((q.prod < ns ∨ q.prod = 0xFFFF) ∧ (q.cons < ns ∨ q.cons = 0xFFFF))) then
    some q
  else none

/-- Records of `n` bytes read one after another from `va`. -/
def Mach.recordsAt (m : Mach) (ctx va n count : Nat) : Option (List Nat) :=
  (List.range count).mapM fun i => (m.fwLoad ctx (va + n * i) n).map (·.1)

/-- Cores that the die shares of a stage need together, or none if a share overflows its die (03 R35, R43; 18 R322). -/
def Mach.stageNeed (m : Mach) (p : Nat) (st : Stage) (k : KDesc) : Option Nat :=
  let n := (m.dieSet p st.dies).length
  let needs := (List.range n).map fun d => (shareSize st.teams n d + k.perCore - 1) / k.perCore * k.width
  if needs.all fun x => decide (x ≤ Config.coresPerDie) then some needs.sum else none

/-- The capacity that PLAN_LOAD tests (18 R322): the placement of every stage has MINC cores, which hold its teams, and all stages
together fit. -/
def Mach.planFits (m : Mach) (p : Nat) (sts : List (Stage × KDesc)) : Bool :=
  (sts.all fun q => decide (q.2.nbar ≤ m.limit p 16 8) && decide (q.1.minc ≤ Config.coresPerDie * (m.dieSet p q.1.dies).length) &&
    match m.stageNeed p q.1 q.2 with
    | some n => decide (n ≤ q.1.minc)
    | none => false) &&
  decide ((sts.map fun q => q.1.minc).sum ≤ Config.coresPerDie * (m.diesOf p).length)

/-- The address that a plan or graph command names: none if its block is malformed, or the address does not translate (18 R333, R337). -/
def Mach.namedRecord (m : Mach) (j : Job) : Option (Nat × Mach) :=
  (m.block j 16 64).bind fun r =>
    if field r.1 48 80 ≠ 0 ∨ field r.1 0 48 % 64 ≠ 0 ∨ !m.reachable (some j.pkt.ctx) (field r.1 0 48) 64 then none
    else some (field r.1 0 48, r.2)

/-- A plan record read whole: the plan with its stages, their kernels, and its pipes numbered `nums`. -/
def Mach.readPlan (m : Mach) (p ctx va : Nat) (nums : List Nat) : Option (Plan × List KDesc × List Pipe × Nat) :=
  ((m.fwLoad ctx va 64).bind fun r => Plan.parse ctx va r.1).bind fun (ns, np, x) =>
  ((m.recordsAt ctx (va + 64) 32 ns).bind fun vs => vs.mapM (m.parseStage p)).bind fun sts =>
  (sts.mapM fun st => (m.kernelAt ctx st.kdesc).map (·.1)).bind fun ks =>
  ((m.recordsAt ctx (va + 64 + 32 * ns) 64 np).bind fun vs => ((List.range np).zip vs).mapM fun q =>
    m.parsePipe p ns (nums.getD q.1 0) (va + 64 + 32 * ns + 64 * q.1) x q.2).map fun ps =>
  ({ x with stages := sts, pipes := ps.map Pipe.num }, ks, ps, np)

/-- 18 R337: the pipe numbers are firmware's choice among those free; a package holds 4,096. -/
def execPlanLoad (p job : Nat) (nums : List Nat) (s : State) : Host.Outcome State Fault Refusal :=
  commandOp 7 p job s fun m j =>
    match m.namedRecord j with
    | none => m.finishJob p job 3
    | some (va, m1) =>
      if (m.planAt j.pkt.ctx va).isSome ∨ (m.graphAt j.pkt.ctx va).isSome then m.finishJob p job 5
      else
        match m1.readPlan p j.pkt.ctx va nums with
        | none => m.finishJob p job 3
        | some (x, ks, ps, np) =>
          if !m1.resultOk j (2 * np) then m.finishJob p job 3
          else if !m1.planFits p (x.stages.zip ks) ∨ Config.pipeLimit < m.pipes.length + np then m.finishJob p job 2
          else if nums.length ≠ np ∨ !nums.Nodup ∨ nums.any (fun n => decide (Config.pipeLimit ≤ n) || (m.pipe? n).isSome) then m
          else
            ({ m1 with plans := m1.plans ++ [x], pipes := m1.pipes ++ ps } : Mach).finishWith p job j (2 * np)
              (((List.range np).zip nums).map fun q => q.2 * 2 ^ (16 * q.1)).sum

/-! ### Core groups (18 R323, R327) -/

/-- The teams of a stage placed over its cores: team n on the die of its share, the teams of a die dealt to its cores in turn
(03 R35, 18 R322). -/
def Mach.placeStage (m : Mach) (p i : Nat) (j : Job) (va idx : Nat) (st : Stage) (k : KDesc) (shapes : List Shape) : Mach :=
  let ds := m.dieSet p st.dies
  (List.range st.teams).foldl (fun m n =>
    let d := ds.getD (n % ds.length) 0
    let us := groupUnits st.cores k.span d
    let q : Spot := { linear := n, gx := st.teams, gy := 1, gz := 1, dies := ds, die := d, core := us.getD (n / ds.length % us.length) 0 }
    let g : Given :=
      { ctx := j.pkt.ctx, part := p, job := i, plan := some (va, idx), graph := j.graph.map (·.1), args := st.args, argsz := st.argsz
        super := j.super, cor := false, prio := st.prio, served := none }
    { m with teams := m.teams ++ [m.freshTeam k shapes q g .placed] }) m

/-- The teams of a plan that have not exited. -/
def Mach.planTeams (m : Mach) (ctx va : Nat) : List (Nat × Team) :=
  m.numbered.filter fun (x : Nat × Team) => x.2.ctx == ctx && (x.2.plan.map (·.1)) == some va && decide (x.2.phase ≠ .exited)

/-- A plan that runs from now on with its core groups. -/
def Mach.runPlan (m : Mach) (p i ctx va : Nat) (gs : List (List (Nat × Nat))) : Mach :=
  m.modPlan ctx va fun x =>
    { x with
      stages := (x.stages.zip gs).map fun q => { q.1 with cores := q.2 },
      job := some i, stopping := false, stopped := false, saved := [], due := m.time p + x.period, watch := [] }

/-- Whether a job that comes before a plan takes one of the cores first: a kernel whose next team fits there, or another plan that can be
placed (18 R314). -/
def Mach.planYields (m : Mach) (p : Nat) (j : Job) (cores : List (Nat × Nat)) : Bool :=
  (m.jobsIn p).any fun q => q.2.before j && (m.planPlaceable p q.2 || cores.any fun e =>
    m.canPlace p q.1 q.2 e.1 e.2 || (((q.2.kd.map KDesc.span).getD false) && m.canPlace p q.1 q.2 e.1 (e.2 - 1)))

/-- 18 R323, R337: every stage is placed on its core group, firmware's choice; while there is no room, or work of an earlier deadline
takes it, the packet waits. The teams saved at an earlier stop are given up; the slots of the pipes keep their states, those that such a
team held RESERVED or TAKEN among them (DESIGN CHOICE: assumption log 90). -/
def execPlanStart (p job : Nat) (cores : List (List (Nat × Nat))) (s : State) : Host.Outcome State Fault Refusal :=
  always s fun m =>
    match m.job? p job with
    | none => m
    | some j =>
      if j.pkt.kind ≠ 1 ∨ j.phase ≠ .dispatched then m
      else
        match m.planAt j.pkt.ctx j.pkt.obj with
        | none => m.finishJob p job 8
        | some x =>
          if x.job.isSome then m.finishJob p job 5
          else
            match m.stageKernels x with
            | none => m.finishJob p job 3
            | some ks =>
              if ks.any fun k => decide (m.limit p 16 8 < k.1.nbar) then m.finishJob p job 2
              else if !m.groupsOk p x (ks.map (·.1)) cores ∨ m.planYields p j cores.flatten then m
              else
                let m1 := (m.planTeams x.ctx x.va).foldl (fun m q => m.modTeam q.1 fun t => { t with phase := .exited }) m
                let m2 := m1.runPlan p job x.ctx x.va cores
                let sts := ((m2.planAt x.ctx x.va).map Plan.stages).getD []
                let m3 := (((List.range sts.length).zip sts).zip ks).foldl (fun m q =>
                  m.placeStage p job j x.va q.1.1 q.1.2 q.2.1 q.2.2) m2
                (m3.modJob p job fun j => { j with phase := .running }).refreshMarks

/-! ### Stop and restart (18 R327) -/

/-- The saves of a stop begun: each running team of the plan gets PREQ, none is restored. -/
def Mach.beginStop (m : Mach) (ctx va : Nat) : Mach :=
  ((m.planTeams ctx va).foldl (fun m x =>
    (if x.2.phase = .running then m.raisePreq x.1 false else m).modTeam x.1 fun t => { t with suspended := true }) m).modPlan ctx va
    fun x => { x with stopping := true }

/-- Whether every team of a plan is saved or has exited. -/
def Mach.planSaved (m : Mach) (ctx va : Nat) : Bool := (m.planTeams ctx va).all fun (x : Nat × Team) => decide (x.2.phase = .saved)

/-- The pipes of a plan in the order of their records. -/
def Mach.pipesOf (m : Mach) (x : Plan) : List Pipe := x.pipes.filterMap m.pipe?

/-- The offset of the part of each pipe in the checkpoint area. -/
def ckptOffsets : List Pipe → Nat → List (Pipe × Nat)
  | [], _ => []
  | p :: ps, o => (p, o) :: ckptOffsets ps (o + 64 + p.depth * p.slotSize)

/-- The slots of a pipe copied to or from the checkpoint area, by the die of the command processor. -/
def Mach.copyPipe (m : Mach) (p : Pipe) (ck : Nat) (out : Bool) : Mach :=
  (List.range p.depth).foldl (fun m k =>
    let a := ck + 64 + k * p.slotSize
    if out then m.copySlot (m.lead p.ctx) p.ctx (p.slotAddr k) a p.slotSize
    else m.copySlot (m.lead p.ctx) p.ctx a (p.slotAddr k) p.slotSize) m

/-- A plan stopped once its teams are saved: records and slots are written, and the packet that ran it ends STOPPED. -/
def Mach.endStop (m : Mach) (p : Nat) (x : Plan) : Mach :=
  let ps := m.pipesOf x
  let m1 := (ckptOffsets ps x.ckva).foldl (fun m q => (m.fwStore x.ctx q.2 64 q.1.image).copyPipe q.1 q.2 true) (m.writeImages x.ctx x.va)
  let m2 := m1.modPlan x.ctx x.va fun y => { y with job := none, stopping := false, stopped := true, saved := ps, watch := [] }
  match x.job with
  | some i => m2.finishJob p i 10
  | none => m2

/-- 18 R327: the saves begin at the dispatch; once they are done the plan is stopped. A plan that is stopping already, or ends
meanwhile, is not running any more. -/
def execPlanStop (p job : Nat) (s : State) : Host.Outcome State Fault Refusal :=
  commandOp 8 p job s fun m j =>
    if j.phase = .dispatched then
      match m.namedRecord j with
      | none => m.finishJob p job 3
      | some (va, m1) =>
        match m.planAt j.pkt.ctx va with
        | none => m.finishJob p job 8
        | some x =>
          if x.job.isNone then m.finishJob p job 5
          else if x.stopping then m
          else (m1.beginStop x.ctx va).modJob p job fun j => { j with phase := .running, block := va }
    else
      match m.planAt j.pkt.ctx j.block with
      | none => m.finishJob p job 8
      | some x =>
        if !x.stopping then m.finishJob p job 5
        else if m.planSaved x.ctx x.va then (m.endStop p x).finishJob p job 0
        else m.beginStop x.ctx x.va

/-- The pipes of a stopped plan as they were, with the slots as the checkpoint area holds them. -/
def Mach.bringBack (m : Mach) (x : Plan) : Mach :=
  let m1 := x.saved.foldl (fun m q => m.modPipe q.num fun _ => q) m
  (ckptOffsets x.saved x.ckva).foldl (fun m q => m.copyPipe q.1 q.2 false) m1

/-- 18 R327: pipes, slots and core groups first; the teams are then restored over the groups, firmware's choice. A plan that has been
run again since its stop and has ended is neither running nor stopped; it too completes with BUSY (DESIGN CHOICE: assumption log 91). -/
def execPlanRestart (p job : Nat) (cores : List (List (Nat × Nat))) (s : State) : Host.Outcome State Fault Refusal :=
  commandOp 9 p job s fun m j =>
    if j.phase ≠ .dispatched then m
    else
      match m.namedRecord j with
      | none => m.finishJob p job 3
      | some (va, m1) =>
        match m.planAt j.pkt.ctx va with
        | none => m.finishJob p job 8
        | some x =>
          if x.job.isSome ∨ !x.stopped then m.finishJob p job 5
          else if (m.planTeams x.ctx va).any fun q => !m.configOk p q.2 then m.finishJob p job 2
          else
            match m1.stageKernels x with
            | none => m.finishJob p job 3
            | some ks =>
              if !m.groupsOk p x (ks.map (·.1)) cores then m
              else
                let m2 := ((m1.bringBack x).runPlan p job x.ctx va cores).refreshMarks
                let m3 := (m2.planTeams x.ctx va).foldl (fun m q => m.modTeam q.1 fun t =>
                  { t with suspended := false, sameDie := false, job := job, part := p }) m2
                m3.modJob p job fun j => { j with phase := .running, block := va }

/-! ### Blocked cycles (18 R324, 19 R352, 20 R359) -/

/-- The paths of pipes from `last` back to the producer of `first`, through stages not in `seen` and pipes numbered above `first`. -/
def pathsBack : Nat → List Pipe → Pipe → Pipe → List Nat → List (List Nat)
  | 0, _, _, _, _ => []
  | n + 1, ps, first, last, seen =>
    if last.cons = first.prod then [[last.num]]
    else if seen.contains last.cons then []
    else (ps.filter fun q => q.prod = last.cons ∧ first.num < q.num).flatMap fun q =>
      (pathsBack n ps first q (last.cons :: seen)).map (last.num :: ·)

/-- The pipes of a plan that join two stages. -/
def Mach.joints (m : Mach) (x : Plan) : List Pipe := (m.pipesOf x).filter fun p => !p.msg && decide (p.prod < 16) && decide (p.cons < 16)

/-- The cycles of pipes of a plan, each from its lowest pipe number, the producer of each pipe consuming the one before it. -/
def Mach.cycles (m : Mach) (x : Plan) : List (List Nat) :=
  (m.joints x).flatMap fun p => pathsBack 17 (m.joints x) p p []

/-- The pipes at which an instruction of a warp waits, whether to produce, and for how many slots: PRSV and PACQ, or a wait for a ring
that a posted operation of the team is to fill from or drain into a pipe (19 R352). -/
def Mach.waitsOn (m : Mach) (t : Nat) (team : Team) (x : Warp) (i : Instr) : List (Nat × Bool × Nat) :=
  let ring := fun (a b : Src) => if h : (x.one a).toNat < 16 then (team.rings.at ⟨(x.one a).toNat, h⟩).map fun r =>
    (r, (x.one a).toNat, (x.one b).toNat) else none
  let pipeNo := fun h : Nat => if 0x8000 ≤ h ∧ h < 0x9000 then some (h - 0x8000) else none
  let posted := (m.opsOf t).filter fun o => o.phase = .posted
  match i with
  | .prsv _ a => [((x.one a).toNat, true, 1)]
  | .pacq _ a => [((x.one a).toNat, false, 1)]
  | .ersetWaitf a b =>
    match ring a b with
    | some (r, h, n) => if n ≤ r.held then [] else
        (posted.filter fun o => o.outs.contains h).flatMap fun o => (o.sources.filterMap pipeNo).map fun k => (k, false, o.n)
    | none => []
  | .ersetWaite a b =>
    match ring a b with
    | some (r, h, n) => if n ≤ r.room then [] else
        (posted.filter fun o => o.sources.contains h).flatMap fun o => (o.outs.filterMap pipeNo).map fun k => (k, true, o.n)
    | none => []
  | _ => []

/-- The pipes that the slices of a warp wait at; none if some live slice waits at no pipe and not for other slices. -/
def Mach.warpWaits (m : Mach) (t w : Nat) (team : Team) (x : Warp) : Option (List (Nat × Bool × Nat)) :=
  if x.run ≠ .ready then none
  else
    ((List.finRange 8).filter fun j => liveSlice team.tlanes w j.val && decide ((x.slices.at j).wait = .none)).foldl (fun o j =>
      o.bind fun l => match (m.peek team x (x.slices.at j).pc).map (m.waitsOn t team x) with
        | some (q :: qs) => some (l ++ q :: qs)
        | _ => none) (some [])

/-- Whether one of the next `n` sequence numbers to be taken from a pipe is spilled. -/
def Pipe.spilledSoon (p : Pipe) (n : Nat) : Bool := p.spilled.any fun e => decide ((e.1 - p.tseq).toNat < n)

/-- Whether a wait is one for a slot that is not there: FREE = 0, no committed slot TSEQ in L2, or a slot waited for that is spilled
(20 R359). -/
def Mach.waitHolds (m : Mach) (q : Nat × Bool × Nat) : Bool :=
  match m.pipe? q.1 with
  | some p => if q.2.1 then decide (p.free = 0) else p.takeable.isNone || p.spilledSoon q.2.2
  | none => false

/-- Whether a warp waits on a pipe of a cycle. -/
def Mach.warpBlocked (m : Mach) (t w : Nat) (team : Team) (x : Warp) (cyc : List Nat) : Bool :=
  match m.warpWaits t w team x with
  | some (q :: qs) => (q :: qs).any fun e => cyc.contains e.1 && m.waitHolds e
  | _ => false

/-- Whether a stage is blocked by a cycle: each warp of its resident teams waits, is descheduled by a pipe of the cycle, or has exited, and
one waits. -/
def Mach.stageBlocked (m : Mach) (x : Plan) (cyc : List Nat) (stage : Nat) : Bool :=
  let ts := m.numbered.filter fun (y : Nat × Team) => y.2.ctx == x.ctx && y.2.plan == some (x.va, stage) && y.2.isPlaced
  let byCycle := cyc.any fun n => match m.pipe? n with
    | some p => p.wmark && p.prod == stage
    | none => false
  let waits := fun (y : Nat × Team) => (List.range y.2.warps.length).map fun w => match y.2.warps[w]? with
    | some wp => (decide (wp.run = Run.exited), m.warpBlocked y.1 w y.2 wp cyc)
    | none => (true, false)
  (ts.all fun y => (waits y).all fun q => q.1 || q.2 || (byCycle && y.2.desched)) && ts.any fun y => (waits y).any (·.2)

/-- Whether a cycle is blocked. -/
def Mach.cycleBlocked (m : Mach) (x : Plan) (cyc : List Nat) : Bool :=
  cyc.all fun n => match m.pipe? n with
    | some p => m.stageBlocked x cyc p.prod
    | none => false

/-! ### Events and the wring (18 R325, R326) -/

/-- An event record written, then announced by EVCNT. -/
def Mach.planEvent (m : Mach) (p : Nat) (x : Plan) (cyc : List Nat) (kind : Nat) : Mach :=
  let stages := (((cyc.filterMap m.pipe?).map Pipe.prod).eraseDups.map fun s => 2 ^ s).sum
  let rcd := kind + cyc.length * 2 ^ 8 + m.time p * 2 ^ 64 + stages * 2 ^ 128 +
    ((List.range 16).map fun k => cyc.getD k 0xFFFF * 2 ^ (192 + 16 * k)).sum
  let m1 := (m.fwStore x.ctx x.evva 64 rcd).addCounter x.ctx x.evcnt 1
  { m1 with msix := m1.msix ++ [(p, 1)] }

/-- The newest committed slot of a pipe. -/
def Pipe.newest (p : Pipe) : Option Nat :=
  p.slots.findIdx? fun s => s.st = .committed ∧ p.slots.all fun q => q.st ≠ .committed ∨ (q.seq - p.tseq).toNat ≤ (s.seq - p.tseq).toNat

/-- The next entry of the spill area. -/
def Pipe.nextSpill (p : Pipe) : Nat :=
  ((List.range (p.spilled.length + 1)).find? fun e => p.spilled.all fun q => q.2.1 ≠ e).getD 0

/-- Whether a warp of the consuming stage waits for a slot that is spilled (20 R359). -/
def Mach.consumerWaits (m : Mach) (p : Pipe) : Bool :=
  m.numbered.any fun (y : Nat × Team) =>
    y.2.ctx == p.ctx && y.2.plan == some (p.planVA, p.cons) && y.2.isPlaced && (List.range y.2.warps.length).any fun w =>
      match y.2.warps[w]? with
      | some wp => ((m.warpWaits y.1 w y.2 wp).getD []).any fun q => decide (q.1 = p.num) && !q.2.1 && p.spilledSoon q.2.2
      | none => false

/-- One wring: the newest slot of the lowest-numbered full pipe with spill room is spilled and freed; none if there is none. -/
def Mach.wring (m : Mach) (cyc : List Nat) : Option Mach :=
  let ps := (cyc.filterMap m.pipe?).filter fun p => decide (p.free = 0) && decide (p.spilled.length < p.spilln) && p.newest.isSome
  match ps.find? fun p => ps.all fun q => decide (p.num ≤ q.num) with
  | none => none
  | some p =>
    p.newest.bind fun j => (p.slots[j]?).map fun sl =>
      let e := p.nextSpill
      let m1 := (m.copySlot p.home p.ctx (p.slotAddr j) (p.spillva + e * p.slotSize) p.slotSize).putBytes p.home p.ctx (p.slotAddr j) p.slotSize 0
      let q := { p.setSlot j { st := .free, seq := 0, seen := [] } with spilled := p.spilled ++ [(sl.seq, e, sl.seen)] }
      let m2 := m1.setPipe q
      if m2.consumerWaits q then m2.returnSpill p.num j else m2

/-- The commits and releases on the pipes of a cycle so far. -/
def Mach.cycleMoves (m : Mach) (cyc : List Nat) : Nat := ((cyc.filterMap m.pipe?).map Pipe.moved).sum

/-- What follows the declaration of a deadlock, or the next test of a wrung cycle. -/
def Mach.actOn (m : Mach) (p : Nat) (x : Plan) (w : Watch) : Watch × Mach :=
  let told := { w with declared := true, wrung := false, moves := m.cycleMoves w.pipes }
  if x.policy = 0 then
    match m.wring w.pipes with
    | some m1 => ({ w with wrung := true }, m1)
    | none => (told, m.planEvent p x w.pipes 2)
  else
    let m1 := m.planEvent p x w.pipes 1
    (told, if x.policy = 2 then m1.beginStop x.ctx x.va else m1)

/-- A cycle tested at a period end: what is known of it afterwards. -/
def Mach.testCycle (m : Mach) (p : Nat) (x : Plan) (old : Option Watch) (cyc : List Nat) : List Watch × Mach :=
  let moves := m.cycleMoves cyc
  let first : Watch := { pipes := cyc, seen := 1, moves := moves, declared := false, wrung := false }
  let kept := old.filter fun w => w.declared && w.moves == moves
  if !m.cycleBlocked x cyc then (kept.toList, m)
  else
    let w := match old with
      | some w => if w.wrung then w else if w.moves = moves then { w with seen := w.seen + 1 } else first
      | none => first
    if w.wrung ∨ (!w.declared ∧ x.dk ≤ w.seen) then let r := m.actOn p x w; ([r.1], r.2) else ([w], m)

/-- The deadlock test of a period end (18 R324): each cycle is followed by itself. -/
def Mach.testCycles (m : Mach) (p : Nat) (x : Plan) : Mach :=
  let r := (m.cycles x).foldl (fun (r : List Watch × Mach) cyc =>
    let q := r.2.testCycle p x (x.watch.find? fun w => w.pipes = cyc) cyc
    (r.1 ++ q.1, q.2)) ([], m)
  r.2.modPlan x.ctx x.va fun y => { y with watch := r.1 }

/-! ### The balancer (18 R323, 03 R71) -/

/-- The pipes that a stage takes from, and those it fills. -/
def Mach.inputsOf (m : Mach) (x : Plan) (stage : Nat) : List Pipe := (m.pipesOf x).filter fun p => !p.msg && p.cons == stage
def Mach.outputsOf (m : Mach) (x : Plan) (stage : Nat) : List Pipe := (m.pipesOf x).filter fun p => !p.msg && p.prod == stage

def Mach.isDonor (m : Mach) (x : Plan) (stage : Nat) : Bool :=
  ((m.inputsOf x stage).all fun p => decide (p.full = 0)) ||
    (m.outputsOf x stage).any fun p => decide (p.free = 0) || (decide (p.high ≠ 0) && decide (p.high ≤ p.full))

def Mach.isNeedy (m : Mach) (x : Plan) (stage : Nat) : Bool :=
  ((m.inputsOf x stage).any fun p => decide (p.full ≠ 0)) && (m.outputsOf x stage).all fun p => decide (p.free ≠ 0)

/-- FULL summed over the inputs of a stage. -/
def Mach.demand (m : Mach) (x : Plan) (stage : Nat) : Nat := ((m.inputsOf x stage).map Pipe.full).sum

/-- Whether a team lies on a core. -/
def Team.liesOn (t : Team) (d c : Nat) : Bool := decide (t.die = d) && (decide (t.core = c) || (t.span && decide (t.core ^^^ 1 = c)))

/-- Whether the teams of a stage that lose a core of a die, and those on their way there, find room on the cores that the stage keeps
(18 R323). -/
def Mach.refits (m : Mach) (keep : List (Nat × Nat)) (d c : Nat) (ts : List (Nat × Team)) : Bool :=
  let out := ts.filter fun (y : Nat × Team) => y.2.liesOn d c || y.2.sameDie || decide (y.2.phase = .saved)
  let m1 := out.foldl (fun m y => m.modTeam y.1 fun t => { t with phase := .saved }) m
  (out.foldl (fun (o : Option Mach) y => o.bind fun m =>
    ((List.range Config.coresPerDie).find? fun e => y.2.ownedAt keep d e && m.teamFits y.2 d e).map fun e =>
      m.modTeam y.1 fun t => { t with phase := .placed, core := e, warps := (List.range t.warps.length).filterMap fun w => (t.warps[w]?).map fun x =>
        { x with core := coreOfWarp t.span t.teamw e w } }) (some m1)).isSome

/-- A core of a donor on a die that its teams there can spare; the highest-numbered one. -/
def Mach.spare (m : Mach) (x : Plan) (stage d : Nat) (st : Stage) : Option (Nat × Nat) :=
  let ts := (m.planTeams x.ctx x.va).filter fun (y : Nat × Team) => y.2.plan == some (x.va, stage) && y.2.die == d
  (((List.range Config.coresPerDie).reverse.find? fun c =>
    st.cores.contains (d, c) && m.refits (st.cores.filter (· ≠ (d, c))) d c ts)).map fun c => (d, c)

/-- The needy stage that gets a core of a donor on a die: below MAXC, the largest demand, ties to the lower index. -/
def Mach.receiver (m : Mach) (p : Nat) (x : Plan) (donor d : Nat) : Option Nat :=
  let rs := (List.range x.stages.length).filter fun r => decide (r ≠ donor) && m.isNeedy x r &&
    match x.stages[r]? with
    | some st => (m.dieSet p st.dies).contains d && decide (st.cores.length < st.maxc)
    | none => false
  rs.find? fun r => rs.all fun q => decide (m.demand x q < m.demand x r) || (decide (m.demand x q = m.demand x r) && decide (r ≤ q))

/-- What a donor above MINC gives this period, if anything: the receiver and one core. -/
def Mach.giving (m : Mach) (p : Nat) (x : Plan) (donor : Nat) : Option (Nat × Nat × Nat) :=
  match x.stages[donor]? with
  | some st =>
    if st.cores.length ≤ st.minc then none
    else (m.dieSet p st.dies).findSome? fun d => (m.receiver p x donor d).bind fun r => (m.spare x donor d st).map fun u => (r, u)
  | none => none

/-- A team that moves to another core of its die: it is saved, and restored as soon as there is room. -/
def Mach.moveTeam (m : Mach) (t : Nat) : Mach := (m.raisePreq t false).modTeam t fun x => { x with sameDie := true }

/-- One more of a stage's teams on a die picked for a move: of a core that holds the most of them. -/
def Mach.spreadOne (m : Mach) (x : Plan) (stage d : Nat) : Mach :=
  let ts := (m.planTeams x.ctx x.va).filter fun (y : Nat × Team) =>
    y.2.plan == some (x.va, stage) && y.2.die == d && y.2.isPlaced && !y.2.sameDie
  let load := fun c : Nat => (ts.filter fun (y : Nat × Team) => y.2.core == c).length
  match ts.find? fun y => ts.all fun z => decide (load z.2.core ≤ load y.2.core) with
  | some y => m.moveTeam y.1
  | none => m

/-- A core moved from a donor to a receiver (18 R323): the donor's teams on it move, and the receiver's spread onto it, once it gives them
a core or a whole pair. -/
def Mach.moveCore (m : Mach) (x : Plan) (donor r : Nat) (u : Nat × Nat) (span : Bool) : Mach :=
  let m1 := m.modPlan x.ctx x.va fun y =>
    { y with stages := ((List.range y.stages.length).zip y.stages).map fun q =>
        if q.1 = donor then { q.2 with cores := q.2.cores.filter (· ≠ u) }
        else if q.1 = r then { q.2 with cores := q.2.cores ++ [u] } else q.2 }
  let m2 := (m1.planTeams x.ctx x.va).foldl (fun m y =>
    if y.2.plan = some (x.va, donor) ∧ y.2.liesOn u.1 u.2 ∧ y.2.isPlaced ∧ !y.2.sameDie then m.moveTeam y.1 else m) m1
  let n := ((m2.planTeams x.ctx x.va).filter fun (y : Nat × Team) => y.2.plan == some (x.va, r) && y.2.die == u.1).length
  let units := fun m : Mach => (((m.planAt x.ctx x.va).bind fun y => y.stages[r]?).map fun st => (groupUnits st.cores span u.1).length).getD 0
  (List.range (if units m = units m2 then 0 else n / units m2)).foldl (fun m _ => m.spreadOne x r u.1) m2

/-- The moves of a period end: each donor gives once. -/
def Mach.balance (m : Mach) (p ctx va : Nat) : Mach :=
  match m.planAt ctx va with
  | none => m
  | some x =>
    match m.stageKernels x with
    | none => m
    | some ks =>
      if x.stopping then m
      else
        ((List.range x.stages.length).filter (m.isDonor x)).foldl (fun m2 i =>
          match m2.planAt ctx va with
          | none => m2
          | some y =>
            match m2.giving p y i with
            | some (r, u) => m2.moveCore y i r u (((ks[r]?).map fun k => k.1.span).getD false)
            | none => m2) m

/-- 18 R323 to R325: the period end of a running plan. A plan that POLICY 2 stops goes on with its stop. -/
def execBalancerPeriod (ctx plan : Nat) (s : State) : Host.Outcome State Fault Refusal :=
  always s fun m =>
    match m.planAt ctx plan, m.ctx? ctx with
    | some x, some c =>
      if c.halt.isSome ∨ x.job.isNone then m
      else if x.stopping then
        if m.planSaved ctx plan then m.endStop c.part x else m.beginStop ctx plan
      else if m.time c.part < x.due then m
      else
        ((m.modPlan ctx plan fun x => { x with due := x.due + x.period }).testCycles c.part x).balance c.part ctx plan
    | _, _ => m

end Sys2Proof.Machine
end

