-- ==== Sys2Proof/Machine/Graphs.lean ====
section
/-! DEFINITION. Graphs, their jobs and the nodes (spec 18 R329, R330, R337; 19 R358). Every credit of a successor travels as an
enqueue to a walker. -/

namespace Sys2Proof.Machine

/-! ### Graph records (18 R329) -/

/-- A node of a graph of `n` nodes; none if it breaks 18 R329. -/
def Node.parse (n v : Nat) : Option Node :=
  let x : Node :=
    { kind := field v 0 4, npred := field v 8 8, cond := field v 16 8, bound := field v 24 16
      succ := [field v 64 16, field v 80 16, field v 96 16, field v 112 16], obj := field v 128 48, inc := field v 176 32 }
  if field v 4 4 = 0 ∧ field v 40 24 = 0 ∧ field v 208 304 = 0 ∧ x.kind ≤ 4 ∧ (x.kind = 4 → 1 ≤ x.bound) ∧
      ∀ s ∈ x.succ, s = 0xFFFF ∨ s < n then some x
  else none

/-- 18 R337: a graph record is read and checked. -/
def execGraphLoad (p job : Nat) (s : State) : Host.Outcome State Fault Refusal :=
  commandOp 10 p job s fun m j =>
    match m.namedRecord j with
    | none => m.finishJob p job 3
    | some (va, m1) =>
      if (m.planAt j.pkt.ctx va).isSome ∨ (m.graphAt j.pkt.ctx va).isSome then m.finishJob p job 5
      else
        match m1.fwLoad j.pkt.ctx va 64 with
        | none => m.finishJob p job 3
        | some (v, m2) =>
          let n := field v 0 13
          if n = 0 ∨ 4096 < n ∨ field v 13 51 ≠ 0 ∨ field v 112 400 ≠ 0 then m.finishJob p job 3
          else
            match (m2.recordsAt j.pkt.ctx (va + 64) 64 n).bind fun vs => vs.mapM (Node.parse n) with
            | none => m.finishJob p job 3
            | some ns =>
              ({ m2 with graphs := m2.graphs ++ [{ ctx := j.pkt.ctx, va := va, condva := field v 64 48, nodes := ns }] } : Mach).finishJob p job 0

/-! ### Jobs (18 R329, R330) -/

def Mach.modGraphJob (m : Mach) (j : Nat) (f : GraphJob → GraphJob) : Mach := { m with graphJobs := m.graphJobs.modify j f }

/-- The credits that make a node ready: one for a while node. -/
def Node.need (x : Node) : Nat := if x.kind = 4 then 1 else max x.npred 1

/-- A node that has its credits becomes ready: the count rises (18 R330). -/
def GraphJob.wake (g : GraphJob) (n : Nat) (x : Node) : GraphJob :=
  match g.nodes[n]? with
  | some r =>
    if !r.ready && !r.busy && decide (x.need ≤ r.credits) then
      { g with count := g.count + 1, nodes := g.nodes.set n { r with ready := true, credits := r.credits - x.need } }
    else g
  | none => g

/-- 18 R329: a taken packet starts a job of its graph; nodes without predecessors are ready. -/
def execGraphLaunch (p job : Nat) (s : State) : Host.Outcome State Fault Refusal :=
  always s fun m =>
    match m.job? p job with
    | none => m
    | some j =>
      if j.pkt.kind ≠ 2 ∨ j.phase ≠ .dispatched then m
      else
        match m.graphAt j.pkt.ctx j.pkt.obj with
        | none => m.finishJob p job 8
        | some g =>
          let runs := g.nodes.map fun x => ({ credits := 0, ready := decide (x.npred = 0), busy := false, iters := 0 } : NodeRun)
          let gj : GraphJob :=
            { live := true, ctx := j.pkt.ctx, va := g.va, part := p, job := some job, super := j.super
              count := (runs.filter NodeRun.ready).length, nodes := runs, sent := [] }
          ({ m with graphJobs := m.graphJobs ++ [gj] } : Mach).modJob p job fun j => { j with phase := .running }

/-- The next thing at a node of a job that lives and whose context runs: the job, the node and its state. -/
def Mach.nodeAt (m : Mach) (j n : Nat) : Option (GraphJob × Graph × Node × NodeRun) :=
  (m.graphJobs[j]?).bind fun g => (m.graphAt g.ctx g.va).bind fun y => (y.nodes[n]?).bind fun x => (g.nodes[n]?).bind fun r =>
    if g.live && m.ctxRuns g.ctx then some (g, y, x, r) else none

/-- The successors that a node names. -/
def Node.next (x : Node) : List Nat := x.succ.filter (· ≠ 0xFFFF)

/-- A release of the walker for a job: one that covers a lost sector publishes it poisoned and ends the walker's work in error
(21 R374), which stops the context as an engine error does whose warp is gone (DESIGN CHOICE: assumption log 80). -/
def Mach.walkerRelease (m : Mach) (j : Nat) (g : GraphJob) (k : Mach → Mach) : Mach :=
  match m.lostAt (m.lead g.ctx) .pkg with
  | [] => k m
  | s :: _ =>
    ((m.announce g.ctx .pkg).modGraphJob j fun g => { g with live := false }).stopContext g.ctx 0x53
      (some { TrapRec.of 0x45 with edesc := g.va, va := m.vaOf g.ctx (32 * s), ctx := g.ctx, die := m.lead g.ctx }) .stopped

/-- A node completed (18 R330): enqueues of its credits are sent before the count falls. The walker's die releases first (18 R403). -/
def Mach.nodeDone (m : Mach) (j n : Nat) (x : Node) (ctx iters : Nat) (succ : List Nat) : Mach :=
  (m.announce ctx .pkg).modGraphJob j fun g =>
    GraphJob.wake
      { g with
        count := g.count + succ.length - 1, sent := g.sent ++ succ
        nodes := g.nodes.modify n fun r => { r with ready := false, busy := false, iters := iters } } n x

/-- 18 R330: an enqueue arrives and is consumed; its credit may make the node ready. -/
def execGraphEnqueueArrive (j node : Nat) (s : State) : Host.Outcome State Fault Refusal :=
  always s fun m =>
    match m.nodeAt j node with
    | some (g, _, x, _) =>
      if g.sent.contains node then
        m.modGraphJob j fun g =>
          let g1 := { g with sent := g.sent.erase node, nodes := g.nodes.modify node fun r => { r with credits := r.credits + 1 } }
          let g2 := g1.wake node x
          { g2 with count := g2.count - 1 }
      else m
    | none => m

/-- The job that a node runs, the newest one made for it. -/
def Mach.nodeJob (m : Mach) (p j n : Nat) : Option (Nat × Job) :=
  (m.part? p).bind fun x => ((List.range x.jobs.length).zip x.jobs).reverse.find? fun (q : Nat × Job) => q.2.graph == some (j, n)

/-- Kernel and plan nodes: a ready node begins its work by `start`, and completes when that work is complete. -/
def workNode (kind j node : Nat) (s : State) (start : Mach → GraphJob → Node → Mach) : Host.Outcome State Fault Refusal :=
  always s fun m =>
    match m.nodeAt j node with
    | none => m
    | some (g, _, x, r) =>
      if x.kind ≠ kind then m
      else if r.busy then
        match m.nodeJob g.part j node with
        | some (_, q) =>
          (match q.phase with
           | .complete _ => m.walkerRelease j g fun m => m.nodeDone j node x g.ctx 0 x.next
           | _ => m)
        | none => m
      else if r.ready then
        (start m g x).modGraphJob j fun g => { g with nodes := g.nodes.modify node fun r => { r with busy := true } }
      else m

/-- A packet that a node runs: it leaves at once for its work, a co-resident launch once all its teams fit (03 R46). -/
def Mach.nodePacket (m : Mach) (g : GraphJob) (j n : Nat) (k : Packet) (ok : Bool) : Mach :=
  let i := ((m.part? g.part).map fun x => x.jobs.length).getD 0
  let q := Job.of (2 ^ 32) i k (k.due (m.time g.part)) g.super false (if ok then .taken else .done 3) (some (j, n))
  let m1 := (m.takeAcquire g.part).modPart g.part fun x => { x with jobs := x.jobs ++ [q] }
  if ok ∧ m1.corGoes g.part i q then m1.goJob g.part i else m1

/-- 18 R329: the kernel packet at OBJ runs in the context of the job. -/
def execKernelNode (j node : Nat) (s : State) : Host.Outcome State Fault Refusal :=
  workNode 0 j node s fun m g x =>
    match m.fwLoad g.ctx x.obj 64 with
    | none => m.nodePacket g j node { Packet.parse 0 with ctx := g.ctx } false
    | some (v, m1) =>
      let k := { Packet.parse v with ctx := g.ctx }
      m1.nodePacket g j node { k with ord := false, miss := 0 } (decide (k.kind = 0) && m1.packetOk g.part (Queue.zero 0) k)

/-- 18 R329: the loaded plan at OBJ is started as by a packet. -/
def execPlanNode (j node : Nat) (s : State) : Host.Outcome State Fault Refusal :=
  workNode 1 j node s fun m g x => m.nodePacket g j node { Packet.parse 1 with obj := x.obj, ctx := g.ctx } true

/-- A ready node of a kind that acts at once. -/
def quickNode (kind j node : Nat) (s : State) (f : Mach → GraphJob → Graph → Node → NodeRun → Mach) : Host.Outcome State Fault Refusal :=
  always s fun m =>
    match m.nodeAt j node with
    | some (g, y, x, r) => if x.kind = kind ∧ r.ready then f m g y x r else m
    | none => m

/-- 18 R329. It waits while a LINK_RECONF holds what its release covers (23 R393). -/
def execSignalNode (j node : Nat) (s : State) : Host.Outcome State Fault Refusal :=
  quickNode 2 j node s fun m g _ x _ =>
    if m.flushHeld (m.lead g.ctx) (match m.fwKey g.ctx x.obj .atomic with | some (some k) => counterScope k | _ => .pkg) then m
    else m.walkerRelease j g fun m => (m.addCounter g.ctx x.obj x.inc).nodeDone j node x g.ctx 0 x.next

/-- The condition word of a node read with a PKG acquire; the spec gives no word where the address fails translation. -/
def Mach.condWord (m : Mach) (g : GraphJob) (y : Graph) (x : Node) : Nat × Mach :=
  let undefinedWord := ((Config.freeWord m.free).toNat, { m with free := m.free + 1 })
  match m.fwKey g.ctx (y.condva + 4 * x.cond) .load with
  | none => undefinedWord
  | some none => (0, m)
  | some (some k) => ((m.unblock k).ldaRead (m.lead g.ctx) k 4 .pkg).getD undefinedWord

/-- SUCC0 or SUCC1 of a node, if it names a node. -/
def Node.branch (x : Node) (k : Nat) : List Nat := (x.succ.drop k).take 1 |>.filter (· ≠ 0xFFFF)

/-- 18 R329. -/
def execConditionalNode (j node : Nat) (s : State) : Host.Outcome State Fault Refusal :=
  quickNode 3 j node s fun m g y x _ =>
    m.walkerRelease j g fun m =>
      let r := m.condWord g y x
      r.2.nodeDone j node x g.ctx 0 (x.branch (if r.1 ≠ 0 then 0 else 1))

/-- 18 R329. -/
def execWhileNode (j node : Nat) (s : State) : Host.Outcome State Fault Refusal :=
  quickNode 4 j node s fun m g y x r =>
    m.walkerRelease j g fun m =>
      let c := m.condWord g y x
      if c.1 ≠ 0 ∧ r.iters < x.bound then c.2.nodeDone j node x g.ctx (r.iters + 1) (x.branch 0)
      else c.2.nodeDone j node x g.ctx 0 (x.branch 1)

end Sys2Proof.Machine
end

