-- ==== Sys2Proof/Machine/Package.lean ====
section
/-! DEFINITION. Dies, links, partitions and the package as a whole: DOMAIN_SET, DIE_RESET, ATTEST, LINK_RECONF, link failures and
the device reset (spec 23 R380 to R396; 01 R28, R30; 18 R340, R404). -/

namespace Sys2Proof.Machine

/-! ### Cache-domain registers from outside a warp (23 R387, R389) -/

/-- 23 R389: a write of DOMAd with APPLY set, by no gang; the first one begins the switch, the next ends it. -/
def execApply (d : Fin 8) (x : Word) (s : State) : Host.Outcome State Fault Refusal :=
  always s fun m =>
    if x.toNat < 2 ^ 31 then m
    else
      match m.switching with
      | some q => m.finishSwitch q.2
      | none =>
        let new := m.domPend.put ⟨2 * d.val, by omega⟩ (domValue ⟨2 * d.val, by omega⟩ x)
        if applyOk m.dies.length m.domCur new then { m with switching := some ({ t := 0, w := 0, slice := 8 }, new) } else m

/-- Every refused request performed, once no switch refuses them (23 R389). -/
def Mach.resendAll (m : Mach) : Mach :=
  if m.switching.isSome then m
  else
    { m.refused.foldl (fun m r =>
        (List.range r.bytes.length).foldl (fun m i => m.outsideWrite (r.pa + i) 1 (r.bytes.getD i 0).toNat) m) m with refused := [] }

/-- 23 R389: the oldest refused request is performed once its home takes it. -/
def execRequestResend (s : State) : Host.Outcome State Fault Refusal :=
  always s fun m =>
    match m.refused with
    | [] => m
    | r :: rs =>
      if (List.range r.bytes.length).any fun i => m.refuses (r.pa + i) then m
      else
        { (List.range r.bytes.length).foldl (fun m i => m.outsideWrite (r.pa + i) 1 (r.bytes.getD i 0).toNat) m with refused := rs }

/-- A write in BAR 0 (23 R386, 18 R404): the queue-0 descriptor addresses are writable, the other registers here are read only. -/
def execRegisterWrite (offset value : Nat) (s : State) : Host.Outcome State Fault Refusal :=
  always s fun m =>
    if h : 0x4000 ≤ offset ∧ offset < 0x4040 then
      if offset % 8 = 0 then { m with q0addr := m.q0addr.put ⟨(offset - 0x4000) / 8, by omega⟩ (value % 2 ^ 64) } else m
    else m

/-! ### DOMAIN_SET (23 R385, 01 R30, 03 R42) -/

/-- Whether a context occupies a die (01 R30). -/
def Mach.occupied (m : Mach) (d : Nat) : Bool :=
  (m.teams.any fun t => (t.die == d && t.isPlaced) || (t.backing == d && decide (t.phase = .saved) && decide (t.frames ≠ 0))) ||
  (m.ops.any fun o => o.die == d && decide (o.phase ≠ .ended)) || (m.pipes.any fun p => p.home == d) ||
  m.contexts.any fun c => m.leadOf c.part == d

/-- The block of a DOMAIN_SET. -/
structure DomAsk where
  pmap : List Nat
  cfg : Nat
  grant : Nat
  img : Tab 16 Word
deriving DecidableEq, Repr

/-- Whether the near domains of a set of registers keep their rules (23 R388). -/
def nearOk (t : Tab 16 Word) : Bool :=
  ((domains t).all fun x => !x.near || (decide (x.rlo = 0) && decide (x.rhi = 0) && decide (x.hmask = 0))) &&
  decide (((domains t).map fun x => if x.en && x.near then 2 ^ x.lgn else 0).sum ≤ 64)

/-- A DOMAIN_SET block read from its 80 bytes for D dies; none if it breaks its limits. Bit 31 of a DOMA value is no field of the
register's value. -/
def DomAsk.parse (d v : Nat) : Option DomAsk :=
  let w := fun n : Fin 16 => field v (128 + 32 * n.val) 32
  let a : DomAsk :=
    { pmap := (List.range d).map fun k => field v (4 * k) 4, cfg := field v 64 8, grant := field v 72 4
      img := tab fun n => BitVec.ofNat 32 (if n.val % 2 = 0 then w n % 2 ^ 31 else w n) }
  if field v (4 * d) (64 - 4 * d) = 0 ∧ field v 76 52 = 0 ∧ (a.pmap.all fun p => decide (p < d)) ∧
      (a.grant = 0xF ∨ a.pmap.contains a.grant) ∧
      ((List.finRange 16).all fun n => if n.val % 2 = 0 then decide (w n / 2 ^ 12 % 2 = 0 ∧ w n / 2 ^ 29 % 4 = 0) else decide (w n < 2 ^ 20)) ∧
      domainsOk d a.img ∧ nearOk a.img then some a
  else none

/-- The slices of near memory in the order of its addresses (23 R388). -/
def nearSlices (t : Tab 16 Word) : List Nat := (List.range 128).filter fun s => (domains t).any fun x => x.near && x.holds s

/-- The near memory in use, as (first granule, granules): the backing of ranges, and the destinations of accepted requests of the press
(13 R240, R256). -/
def Mach.nearSpans (m : Mach) : List (Nat × Nat) :=
  (m.contexts.flatMap fun c => (c.ranges.filter fun r => decide (r.cls = 1)).map fun r => (r.backing.toNat, r.size)) ++
  (m.press.filter fun p => decide (p.cls = 1)).map fun p => (p.dest, blockSum p.blocks)

/-- Whether near memory in use lies in a slice that leaves the carve-out, or past its new end. -/
def Mach.nearLost (m : Mach) (new : Tab 16 Word) : Bool :=
  let old := nearSlices m.domCur
  (m.nearSpans.any fun b => decide (0 < b.2) && decide (256 * (nearSlices new).length < b.1 + b.2)) ||
  ((List.range old.length).zip old).any fun q => !(nearSlices new).contains q.2 &&
    m.nearSpans.any fun b => spansMeet b.1 b.2 (256 * q.1) 256

/-- Whether a DOMAIN_SET must wait: a die that changes partition, or a partition that changes its configuration, is in use. -/
def Mach.domBusy (m : Mach) (a : DomAsk) : Bool :=
  ((List.range m.dies.length).any fun d => decide (a.pmap.getD d 0 ≠ m.partOf d) && m.occupied d) ||
  (m.contexts.any fun c => decide (a.cfg.testBit c.part ≠ m.compact c.part)) || m.nearLost a.img

/-- The partitions that a map names: those there are go on, new ones are formed (18 R307, R404). -/
def Mach.reform (m : Mach) (pmap : List Nat) : Mach :=
  { m with
    pmap := pmap
    parts := ((List.range 8).filter pmap.contains).map fun p => (m.part? p).getD
      { id := p, origin := m.now, queues := [Queue.zero (m.q0addr.at ⟨p % 8, by omega⟩)], jobs := [] } }

/-- 23 R385: the packet completes as the partition that carried it may end. -/
def execDomainSet (p job : Nat) (s : State) : Host.Outcome State Fault Refusal :=
  commandOp 17 p job s fun m j =>
    match (m.block j 80 64).bind fun r => (DomAsk.parse m.dies.length r.1).map fun a => (r.1, a, r.2) with
    | none => m.finishJob p job 3
    | some (v, a, m1) =>
      if m.domBusy a then m.finishJob p job 5
      else if m.workHeld p then m
      else if m.workLost p then m.gatherWork p .sys
      else
        let m2 := (m1.announceJob p j 0).modJob p job fun j => { j with phase := .complete 0 }
        { (m2.endSwitch.finishSwitch a.img).reform a.pmap with cfg := BitVec.ofNat 8 a.cfg, grant := a.grant, domBlock := v }

/-! ### Routes (23 R380, R383) -/

/-- The physical positions of the live dies in ring order; logical die k is the k-th (01 R32). -/
def positions (mask : BitVec 8) : List Nat := (List.range 8).filter fun p => mask.getLsbD p

/-- Whether the ring works from one position to the next live one, through the switches of disabled dies. -/
def Mach.arcWorks (m : Mach) (a b : Nat) : Bool :=
  (List.range ((b + 8 - a - 1) % 8 + 1)).all fun i =>
    !(m.brokenLinks.contains (.ring ⟨(a + i) % 8, by omega⟩)) && (decide (i = 0) || !(m.brokenLinks.contains (.pass ⟨(a + i) % 8, by omega⟩)))

/-- The ring neighbours of a logical die that a working arc joins to it. -/
def Mach.neighbours (m : Mach) (mask : BitVec 8) (d : Nat) : List Nat :=
  let ps := positions mask
  let n := ps.length
  if n < 2 then []
  else
    let up := (d + 1) % n
    let dn := (d + n - 1) % n
    ((if m.arcWorks (ps.getD d 0) (ps.getD up 0) then [up] else []) ++ if m.arcWorks (ps.getD dn 0) (ps.getD d 0) then [dn] else []).eraseDups

/-- Whether the spoke of a logical die works. -/
def Mach.spokeWorks (m : Mach) (mask : BitVec 8) (d : Nat) : Bool :=
  !(m.brokenLinks.contains (.spoke ⟨(positions mask).getD d 0 % 8, by omega⟩))

/-- The neighbour through which a die without a spoke sends: the lowest-numbered one with a spoke (23 R380). -/
def Mach.relay (m : Mach) (mask : BitVec 8) (d : Nat) : Option Nat :=
  if m.spokeWorks mask d then none
  else (List.range m.dies.length).find? fun k => (m.neighbours mask d).contains k && m.spokeWorks mask k

/-- The dies joined to the cache die: those with a working spoke, and by `n` rounds those joined to one (23 R383). -/
def Mach.joined (m : Mach) (mask : BitVec 8) : Nat → List Nat
  | 0 => (List.range m.dies.length).filter (m.spokeWorks mask)
  | n + 1 =>
    let l := m.joined mask n
    (List.range m.dies.length).filter fun d => l.contains d || (m.neighbours mask d).any l.contains

/-- The number of ring links on the shorter arc between two logical dies, if the arc holds no live die strictly between them and all its
links work (23 R380). Of two arcs of one length either serves (DESIGN CHOICE: assumption log 81). -/
def Mach.ringArc (m : Mach) (mask : BitVec 8) (a b : Nat) : Option Nat :=
  let pa := (positions mask).getD a 0
  let pb := (positions mask).getD b 0
  let up := (pb + 8 - pa) % 8
  ([(pa, pb, up), (pb, pa, 8 - up)].find? fun q => decide (q.2.2 ≤ 4) && m.arcWorks q.1 q.2.1 &&
    (List.range (q.2.2 - 1)).all fun i => !mask.getLsbD ((q.1 + i + 1) % 8)).map fun q => q.2.2

/-- The route of the traffic from one live die to another (23 R380): the ring links of a ring route, or a hub route with the neighbours
that relay for its ends. -/
inductive Route where
  | ring (links : Nat)
  | hub (source dest : Option Nat)
deriving DecidableEq, Repr

/-- The route of a pair: a pair that a DIE_RESET has moved takes the hub route (23 R380, R382). A failed link changes routes at once, and
an access is performed whole on one of them, so that each pair keeps its order (23 R381). -/
def Mach.routeOf (m : Mach) (mask : BitVec 8) (a b : Nat) : Route :=
  match m.ringArc mask a b with
  | some n => if m.routes.contains (a, b) then .hub (m.relay mask a) (m.relay mask b) else .ring n
  | none => .hub (m.relay mask a) (m.relay mask b)

/-- The links between a die and the neighbour that relays for it. -/
def Mach.relayLinks (m : Mach) (mask : BitVec 8) (a : Nat) : Option Nat → Nat
  | some k => ((m.ringArc mask a k).getD 0) + 1
  | none => 0

/-- h of 18 R321 for a pair: the ring links crossed, plus 2 for a hub route, plus 1 for each relay (23 R380). It bounds a latency only. -/
def Mach.hops (m : Mach) (mask : BitVec 8) (a b : Nat) : Nat :=
  match m.routeOf mask a b with
  | .ring n => n
  | .hub x y => 2 + m.relayLinks mask a x + m.relayLinks mask b y

/-- Whether the route of a pair crosses a third die: it relays through it (23 R380, R382). -/
def Mach.crosses (m : Mach) (mask : BitVec 8) (x : Nat) (q : Nat × Nat) : Bool :=
  decide (q.1 ≠ q.2) && decide (q.1 ≠ x) && decide (q.2 ≠ x) &&
    match m.routeOf mask q.1 q.2 with
    | .ring _ => false
    | .hub a b => decide (a = some x) || decide (b = some x)

/-- Whether a context has something on a die (23 R383): a team, a pipe home, an operation, or a queue of the command processor there. -/
def Mach.stopsWith (m : Mach) (ctx d : Nat) : Bool :=
  (m.teams.any fun t => t.ctx == ctx && t.die == d && decide (t.phase ≠ .exited)) || (m.pipes.any fun p => p.ctx == ctx && p.home == d) ||
  (m.ops.any fun o => o.ctx == ctx && o.die == d && decide (o.phase ≠ .ended)) ||
  m.parts.any fun x => m.leadOf x.id == d && x.queues.any fun q => q.ctx == some ctx

/-- 21 R376, 23 R383: a UALink port goes down, and may lock again; without the PCIe link the host is lost; of the package's own links,
cut-off dies halt and the contexts on them stop. The cut-off dies write their stop records before they halt (25 R401). -/
def execLinkFail (l : LinkName) (s : State) : Host.Outcome State Fault Refusal :=
  always s fun m0 =>
    let broken := if m0.brokenLinks.contains l then m0.brokenLinks else l :: m0.brokenLinks
    let tell := fun m : Mach => { m with msix := m.msix ++ m.parts.map fun x => (x.id, 2) }
    match l with
    | .ualink k =>
      if (m0.ports.at k).job.isSome then m0 else tell { m0 with ports := m0.ports.put k { m0.ports.at k with state := 0 } }
    | .pcie => { m0 with brokenLinks := broken }
    | _ =>
      let m := { m0 with brokenLinks := broken }
      let on := m.joined s.fuse.dmask 8
      let cut := (List.range m.dies.length).filter fun d => !on.contains d && !m.haltedDie d
      let hit := m.contexts.filter fun c => cut.any (m.stopsWith c.id)
      let m1 := hit.foldl (fun m c => m.stopBy c.id 0x51 none none cut .stopped) m
      tell (cut.foldl (fun m d => m.modDie d fun x => { x with halted := true }) m1)

/-- 23 R383. -/
def execHostLeasePass (s : State) : Host.Outcome State Fault Refusal :=
  always s fun m =>
    if ((m.dies[m.lease]?).map Die.halted).getD true then
      match (List.range m.dies.length).find? fun d => !((m.dies[d]?).map Die.halted).getD true with
      | some d => { m with lease := d }
      | none => m
    else m

/-- 21 R376: a replay is observed by no agent. -/
def execFlitReplay (_link : Nat) (s : State) : Host.Outcome State Fault Refusal := always s fun m => m

/-! ### DIE_RESET (23 R382) -/

/-- Whether something lies on a die that bars its reset. A device queue lies with the command processor of its partition. -/
def Mach.resetBarred (m : Mach) (d : Nat) : Bool :=
  (m.teams.any fun t => (t.die == d || t.backing == d) && decide (t.phase ≠ .exited)) || (m.pipes.any fun p => p.home == d) ||
  m.parts.any fun x => m.leadOf x.id == d && ((x.queues.any Queue.dev) || decide (1 < (m.diesOf x.id).length))

/-- A vector of epochs without the entry of a die. -/
def dropEntry (v : List Nat) (d : Nat) : List Nat := v.set d 0

/-- A die drained and reset: nothing of its old epochs is applied any more. -/
def Mach.resetDie (m : Mach) (d : Nat) : Mach :=
  let m1 := (m.closeEpoch d).flushHost d
  let m2 := m1.modDie d fun x => { Die.reset with halted := x.halted, ecc := x.ecc }
  let m3 := (List.range m2.dies.length).foldl (fun m k => if k = d then m else m.applyAll k) m2
  { m3 with
    dies := m3.dies.map fun x => { x with vc := dropEntry x.vc d, log := x.log.map fun r => { r with vc := dropEntry r.vc d } }
    tags := m3.tags.map fun t => (t.1, dropEntry t.2 d)
    teams := m3.teams.map fun t => { t with gridSeen := dropEntry t.gridSeen d }
    pipes := m3.pipes.map fun p =>
      { p with
        slots := p.slots.map fun s => { s with seen := dropEntry s.seen d }
        spilled := p.spilled.map fun e => (e.1, e.2.1, dropEntry e.2.2 d) } }

/-- 23 R382: the pairs whose route crosses the die are moved, both ways. -/
def execDieReset (p job : Nat) (s : State) : Host.Outcome State Fault Refusal :=
  commandOp 15 p job s fun m j =>
    match m.block j 16 64 with
    | none => m.finishJob p job 3
    | some (v, m1) =>
      let d := field v 0 3
      if field v 3 125 ≠ 0 ∨ m.dies.length ≤ d then m.finishJob p job 3
      else if m.resetBarred d then m.finishJob p job 5
      else if m.flushHeld d .sys then m
      else
        let pairs := (List.range m.dies.length).flatMap fun k => (List.range m.dies.length).map fun e => (k, e)
        let m2 := m1.resetDie d
        ({ m2 with routes := (m2.routes ++ pairs.filter (m.crosses s.fuse.dmask d)).eraseDups } : Mach).finishJob p job 0

/-! ### ATTEST (23 R396, 18 R340) -/

/-- `n` bytes given by a function, as one number. -/
def numberOf (f : Nat → Byte) (n : Nat) : Nat := ((List.range n).map fun i => (f i).toNat * 2 ^ (8 * i)).sum

/-- The report of an attestation: the digest of the boot ROM and the fuses, and the signature, are free values (DESIGN CHOICE: assumption
log 18). -/
def Mach.report (m : Mach) (nonce : Nat) : Nat :=
  let body := nonce + numberOf Config.freeRom 32 * 2 ^ 256 + bytesValue (sha256 (m.images.flatMap BootImage.bytes)) * 2 ^ 512 +
    bytesValue (sha256 (bytesOf 80 m.domBlock)) * 2 ^ 768
  body + numberOf (Config.freeSignature body) 384 * 2 ^ 1024

/-- 23 R396. -/
def execAttest (p job : Nat) (s : State) : Host.Outcome State Fault Refusal :=
  commandOp 16 p job s fun m j =>
    match m.block j 32 64 with
    | none => m.finishJob p job 3
    | some (v, m1) => if m1.resultOk j 512 then m1.finishWith p job j 512 (m1.report v) else m.finishJob p job 3

/-! ### LINK_RECONF (23 R391 to R394) -/

/-- Whether lane group `k` serves Ethernet. -/
def Mach.isEthernet (m : Mach) (k : Nat) : Bool := m.assign.getLsbD k

/-- The link record of a group: 0 if it serves Ethernet (23 R391, R394). -/
def Mach.linkRecord (m : Mach) (k : Fin 32) : Nat :=
  if m.isEthernet k.val then 0 else (m.ports.at k).state + (m.ports.at k).peer * 2 ^ 2 + (m.ports.at k).lambda * 2 ^ 32

/-- The result of LINK_RECONF. -/
def Mach.linkRecords (m : Mach) : Nat := ((List.finRange 32).map fun k => m.linkRecord k * 2 ^ (256 * k.val)).sum

/-- A ring descriptor that a port may use: in memory, its entries hold a frame. -/
def Mach.portRing (m : Mach) (sp : Option Nat) (va : Nat) : Bool :=
  decide (va % 32 = 0) && match (m.loadIn sp va 32).bind fun r => Ring.parse r.1 with
    | some r => decide (14 ≤ r.elg) && !r.scratch
    | none => false

/-- Whether the block of a LINK_RECONF keeps its limits. -/
def Mach.linkBlockOk (m : Mach) (sp : Option Nat) (v : Nat) : Bool :=
  decide (field v 96 416 = 0) && decide (100 ≤ field v 64 32) && decide (field v 64 32 ≤ 100000) &&
  (List.range 32).all fun k =>
    let tx := field v (512 + 128 * k) 48
    let rx := field v (512 + 128 * k + 64) 48
    decide (field v (512 + 128 * k + 48) 16 = 0) && decide (field v (512 + 128 * k + 112) 16 = 0) &&
      if v.testBit k then decide (tx ≠ 0) && decide (rx ≠ 0) && m.portRing sp tx && m.portRing sp rx else decide (tx = 0) && decide (rx = 0)

/-- Whether a block changes group `k` (23 R394). -/
def Mach.groupChanges (m : Mach) (v k : Nat) : Bool := v.testBit (32 + k) || decide (v.testBit k ≠ m.isEthernet k)

/-- 23 R393, R394: each changed port is drained; the command ends with the last relock. One change of a port waits for another. -/
def execLinkReconf (p job : Nat) (s : State) : Host.Outcome State Fault Refusal :=
  commandOp 14 p job s fun m j =>
    if j.phase ≠ .dispatched then m
    else
      match m.block j 576 64 with
      | none => m.finishJob p job 3
      | some (v, m1) =>
        let ks := (List.finRange 32).filter fun k => m.groupChanges v k.val
        if !m.linkBlockOk j.space v ∨ !m1.resultOk j 1024 then m.finishJob p job 3
        else if ks.any fun k => !m.isEthernet k.val && decide ((m.ports.at k).state ≠ 0) && (m.pipes.any fun q => q.remote && q.peer == (m.ports.at k).peer) then m.finishJob p job 5
        else if ks.any fun k => (m.ports.at k).job.isSome then m
        else if ks.isEmpty then m1.finishWith p job j 1024 m1.linkRecords
        else
          ({ m1 with ports := tab fun k =>
              if ks.contains k then
                { m1.ports.at k with
                  txring := field v (512 + 128 * k.val) 48, rxring := field v (512 + 128 * k.val + 64) 48, space := j.space
                  toEth := some (v.testBit k.val), job := some (p, job) }
              else m1.ports.at k } : Mach).modJob p job fun j => { j with phase := .running }

/-- 23 R393, step 2: a drained port goes dark. -/
def execDrainMarkerAck (port : Fin 32) (s : State) : Host.Outcome State Fault Refusal :=
  always s fun m =>
    if (m.ports.at port).job.isSome then { m with ports := m.ports.put port { m.ports.at port with state := 3 } } else m

/-- Requests held for peers: those of reachable ones go out in order. The bytes for a peer that is no longer reachable stay dirty at their
die, whose next release of SYS scope takes the fault 0x43 for them (23 R393, step 4; 21 R376). -/
def Mach.releaseHeld (m : Mach) : Mach :=
  let go := m.heldReqs.filter fun r => !m.peerHeld r.pa
  let m1 := go.foldl (fun m r =>
    if m.reaches (peerOf r.pa) then
      (List.range r.bytes.length).foldl (fun m i => m.homeWrite (r.pa + i) 1 (r.bytes.getD i 0).toNat) m
    else m.modDie r.die fun x => x.write m.now r.pa r.bytes.length (bytesValue r.bytes)) m
  { m1 with heldReqs := m.heldReqs.filter fun r => m.peerHeld r.pa }

/-- The end of a LINK_RECONF once no port changes for it any more (23 R393). -/
def Mach.endReconf (m : Mach) (p i : Nat) : Mach :=
  if m.ports.toList.any fun q => q.job == some (p, i) then m
  else
    match m.job? p i with
    | some j => if j.result = 0 then m.finishWith p i j 1024 m.linkRecords else m.finishJob p i 9
    | none => m

/-- 23 R393, step 3: a dark port relocks in its new assignment, or fails to. The measured latency is the environment's. -/
def execPortRelock (port : Fin 32) (peer lambda : Nat) (ok : Bool) (s : State) : Host.Outcome State Fault Refusal :=
  always s fun m =>
    let q := m.ports.at port
    match q.job, q.toEth with
    | some (p, i), some eth =>
      if q.state ≠ 3 then m
      else
        let q1 : Port :=
          { q with
            state := if ok then 2 else 0, peer := if eth then 0 else peer % 1024, lambda := if eth then 0 else lambda % 2 ^ 32
            toEth := none, job := none }
        let m1 := { m with
          ports := m.ports.put port q1
          assign := laneMask fun k => if k = port then eth else m.assign.getLsbD k.val }
        let m2 := if ok then m1 else m1.modJob p i fun j => { j with result := 1 }
        (m2.releaseHeld).endReconf p i
    | _, _ => m

/-- 23 R391: a port that is down begins to lock, a locking one comes up. -/
def execPortLock (port : Fin 32) (peer lambda : Nat) (s : State) : Host.Outcome State Fault Refusal :=
  always s fun m =>
    let q := m.ports.at port
    if q.job.isSome then m
    else if q.state = 0 then { m with ports := m.ports.put port { q with state := 1 } }
    else if q.state = 1 then
      let eth := m.isEthernet port.val
      let up : Port := { q with state := 2, peer := if eth then 0 else peer % 1024, lambda := if eth then 0 else lambda % 2 ^ 32 }
      { m with ports := m.ports.put port up }
    else m

/-- 23 R391. -/
def execLambdaRenew (port : Fin 32) (lambda : Nat) (s : State) : Host.Outcome State Fault Refusal :=
  always s fun m =>
    if (m.ports.at port).state = 2 ∧ !m.isEthernet port.val then
      { m with ports := m.ports.put port { m.ports.at port with lambda := lambda % 2 ^ 32 } }
    else m

/-! ### The device reset (18 R404, 23 R385, R395) -/

/-- Whether the boot ROM accepts its images, Nimom first: each verifies against the fused key and is no older than the fused rollback
counter (23 R395). -/
def Fuse.accepts (f : Fuse) (images : List BootImage) : Bool :=
  !images.isEmpty && images.all fun x => decide (f.rollback ≤ x.version) && Config.freeVerify f.bootKey x.bytes x.signature

/-- 18 R404: every register at its reset value, partition 0 of every live die and its queue 0. Memory, failed links and the registers
that the host writes for queue 0 stay. A refused image keeps every die in reset (23 R395). -/
def execDeviceReset (images : List BootImage) (s : State) : Host.Outcome State Fault Refusal :=
  always s fun m =>
    let r := Mach.reset s.fuse.form.dies
    let imageOk := s.fuse.accepts images
    { r with
      inputs := m.inputs, home := m.home, poisoned := m.poisoned, brokenLinks := m.brokenLinks, q0addr := m.q0addr, free := m.free
      parts := [{ id := 0, origin := 0, queues := [Queue.zero (m.q0addr.at 0)], jobs := [] }]
      dies := r.dies.map fun d => { d with halted := !imageOk }
      imageRefused := !imageOk, images := images }

end Sys2Proof.Machine
end

