-- ==== Sys2Proof/Machine/Agents.lean ====
section
/-! DEFINITION. The host, peers and Ethernet: accesses from outside the package (spec 12 R229 to R231; 23 R386, R390, R392). -/

namespace Sys2Proof.Machine

/-- The key of package memory that an address of BAR 2 or of a peer request names: HBM from 0, near memory from 512 GiB. -/
def Mach.packageKey (m : Mach) (pa n : Nat) : Option Nat :=
  if pa + n ≤ m.dies.length * 2 ^ 36 then some pa
  else if 2 ^ 39 ≤ pa ∧ pa + n ≤ 2 ^ 39 + m.nearBytes then some (physKey 1 0 (pa - 2 ^ 39))
  else none

/-- The key of an address that the host names: package memory, or the host's own memory by its key (DESIGN CHOICE: assumption log 20). -/
def Mach.hostKey (m : Mach) (pa n : Nat) : Option Nat :=
  if keyClass pa = 2 ∧ keyClass (pa + n) = 2 then some pa else m.packageKey pa n

/-- Whether a request from outside waits: an affected slice refuses one of its lines, or an earlier refused request meets one (23 R389). -/
def Mach.mustWait (m : Mach) (k n : Nat) : Bool :=
  (linesOf k n).any fun l => m.refuses (128 * l) || m.refused.any fun r => (linesOf r.pa r.bytes.length).contains l

/-- A write from outside at a key: refused by an affected slice during a switch, or behind an earlier refused one (23 R389). -/
def Mach.fromOutside (m : Mach) (k : Nat) (bs : List Byte) : Mach :=
  if keyClass k = 2 then m.homeWrite k bs.length (bytesValue bs)
  else if m.mustWait k bs.length then
    { m with refused := m.refused ++ [{ die := 0, pa := k, bytes := bs }] }
  else m.outsideWrite k bs.length (bytesValue bs)

/-- A request from outside to a line that a switch refuses waits for its end, behind the earlier refused ones (23 R389). -/
def Mach.outsideTurn (m : Mach) (k n : Nat) : Mach := (if m.mustWait k n then m.endSwitch else m).resendAll

/-- An atomic from outside at its home: the old value is returned. -/
def Mach.atomicOutside (m : Mach) (k n : Nat) (o : AtomOp) (y c : Nat) : Mach :=
  let m1 := m.outsideTurn k n
  let old := m1.homeRead k n
  let v := AtomOp.apply o (8 * n) old (y % 2 ^ (8 * n)) (c % 2 ^ (8 * n))
  let m2 := if keyClass k = 2 then m1.homeWrite k n v else m1.outsideWrite k n v
  { m2 with hostReads := m2.hostReads ++ [bytesOf n old] }

/-- A read from outside: the bytes at their home are returned. -/
def Mach.readOutside (m : Mach) (k n : Nat) : Mach :=
  let m1 := m.outsideTurn k n
  { m1 with hostReads := m1.hostReads ++ [bytesOf n (m1.homeRead k n)] }

/-- Bytes returned to a read from outside. -/
def Mach.answer (m : Mach) (bs : List Byte) : Mach := { m with hostReads := m.hostReads ++ [bs] }

/-! ### The registers of BAR 0 (23 R386, R391, R397; 01 R22 to R24, R31) -/

/-- The registers of BAR 0 that have an offset and can be read: (offset, bytes, value). -/
def Mach.bar0 (f : Fuse) (m : Mach) : List (Nat × Nat × Nat) :=
  [(0, 4, f.pkgcfg.toNat)] ++ ((List.range 8).map fun p => (0x2000 + 8 * p, 8, m.time p)) ++
    ((List.finRange 32).map fun k => (0x3000 + 32 * k.val, 32, m.linkRecord k)) ++
    ((List.finRange 8).map fun p => (0x4000 + 8 * p.val, 8, m.q0addr.at p))

/-- A byte of BAR 0, if a register holds it. -/
def Mach.bar0Byte (f : Fuse) (m : Mach) (o : Nat) : Option Byte :=
  ((m.bar0 f).find? fun r => decide (r.1 ≤ o) && decide (o < r.1 + r.2.1)).map fun r => BitVec.ofNat 8 (r.2.2 / 2 ^ (8 * (o - r.1)))

/-- The physical position of the compute die that an island belongs to (01 R23). -/
def islandDie (i : Nat) : Option Nat :=
  if i < 192 then some (i / 24) else if i < 960 then some ((i - 192) / 96) else if i < 1008 then some ((i - 960) / 6) else none

/-- Whether an island is held off: it belongs to a disabled die (01 R23). -/
def islandOff (mask : BitVec 8) (i : Nat) : Bool :=
  match islandDie i with
  | some d => !mask.getLsbD d
  | none => false

/-- The islands that run at one frequency with an island: a core's and those of its matrix units (01 R23, R24). -/
def islandGroup (i : Nat) : List Nat :=
  let core := if i < 192 then some (i / 24, i % 24) else if i < 960 then some ((i - 192) / 96, (i - 192) % 96 / 4) else none
  match core with
  | some (d, c) => [24 * d + c, 192 + 96 * d + 4 * c, 193 + 96 * d + 4 * c, 194 + 96 * d + 4 * c, 195 + 96 * d + 4 * c]
  | none => [i]

/-- The frequency in kHz of an island that nothing lowers (01 R22). -/
def nominalFrequency (i : Nat) : Nat :=
  if i < 960 then 1300000 else if i < 1008 ∧ (i - 960) % 6 = 3 then 1000000 else Config.freeFrequency i

/-- The frequency at which an island runs. -/
def Mach.frequency (m : Mach) (i : Nat) : Nat := ((m.freqs.find? fun e => e.1 == i).map (·.2)).getD (nominalFrequency i)

/-- A temperature as last measured. -/
def measuredOr (l : List (Nat × Nat)) (i free : Nat) : Nat := ((l.find? fun e => e.1 == i).map (·.2)).getD free

/-- What a read in BAR 0 or over the sideband returns for what has no stated offset, or none if there is no such thing
(23 R395 to R397, 25 R401). -/
def Mach.management (f : Fuse) (m : Mach) (a : HostAddr) (n : Nat) : Option (List Byte) :=
  match a with
  | .memory _ => none
  | .register o => (List.range n).mapM fun i => m.bar0Byte f (o + i)
  | .errors d c => (m.dies[d.val]?).map fun x => bytesOf n (match c with | .register => x.ecc.1 | .sram => x.ecc.2.1 | .link => x.ecc.2.2)
  | .temperature i => if islandOff f.dmask i.val then none else some (bytesOf n (measuredOr m.temps i.val (Config.freeTemperature i.val)))
  | .dieTemperature d => if d < m.dies.length then some (bytesOf n (measuredOr m.dieTemps d (Config.freeTemperature (1024 + d)))) else none
  | .frequency i => if islandOff f.dmask i.val then none else some (bytesOf n (m.frequency i.val))
  | .certificate => some ((List.range n).map Config.freeCertificate)
  | .refusal => some (bytesOf n m.imageRefused.toNat)
  | .halted d => (m.dies[d]?).map fun x => bytesOf n x.halted.toNat
  | .dieMemory d k => (m.dies[d]?).bind fun x => if x.halted then some ((List.range n).map fun i => x.byte m.home (k + i)) else none

/-- 12 R229, R230. -/
def execHostWrite (pa : Nat) (bs : List Byte) (s : State) : Host.Outcome State Fault Refusal :=
  always s fun m =>
    match m.hostKey pa bs.length with
    | some k => m.fromOutside k bs
    | none => m

/-- 23 R386, R397: the sideband reaches what BAR 0 holds. -/
def execHostRead (a : HostAddr) (n : Nat) (s : State) : Host.Outcome State Fault Refusal :=
  always s fun m =>
    match a with
    | .memory pa =>
      (match m.hostKey pa n with
       | some k => m.readOutside k n
       | none => m)
    | _ =>
      match m.management s.fuse a n with
      | some bs => m.answer bs
      | none => m

/-- 12 R231, 23 R386: FetchAdd, Swap and CAS at 32 and 64 bits. -/
def execHostAtomicop (pa : Nat) (x : Bool) (o : AtomOp) (y c : Nat) (s : State) : Host.Outcome State Fault Refusal :=
  always s fun m =>
    let n := if x then 8 else 4
    match m.hostKey pa n with
    | some k => if k % n = 0 ∧ atomSupported true 2 o then m.atomicOutside k n o y c else m
    | none => m

/-- Whether a peer can reach the package: some UALink port is up. -/
def Mach.peerIn (m : Mach) : Bool := (List.finRange 32).any fun k => (m.ports.at k).state == 2 && !m.isEthernet k.val

/-- A size of a UALink request: 1 to 256 bytes, naturally aligned (23 R390). -/
def peerSize (pa n : Nat) : Bool := ([1, 2, 4, 8, 16, 32, 64, 128, 256] : List Nat).contains n && decide (pa % n = 0)

/-- The runs of bytes that a partial write enables, each with its offset (23 R390). -/
def enabledRuns : Nat → List (Option Byte) → List (Nat × List Byte)
  | _, [] => []
  | i, none :: t => enabledRuns (i + 1) t
  | i, some b :: t =>
    match enabledRuns (i + 1) t with
    | (j, bs) :: rs => if j = i + 1 then (i, b :: bs) :: rs else (i, [b]) :: (j, bs) :: rs
    | [] => [(i, [b])]

/-- 12 R229, 23 R390: only the enabled bytes are written. -/
def execPeerWrite (pa : Nat) (bs : List (Option Byte)) (s : State) : Host.Outcome State Fault Refusal :=
  always s fun m =>
    match m.packageKey pa bs.length with
    | some k =>
      if m.peerIn && peerSize pa bs.length then (enabledRuns 0 bs).foldl (fun m r => m.fromOutside (k + r.1) r.2) m else m
    | none => m

/-- 23 R390. -/
def execPeerRead (pa n : Nat) (s : State) : Host.Outcome State Fault Refusal :=
  always s fun m =>
    match m.packageKey pa n with
    | some k => if m.peerIn && peerSize pa n then m.readOutside k n else m
    | none => m

/-- 23 R390: every atomic but FADD. -/
def execPeerAtomic (pa : Nat) (x : Bool) (o : AtomOp) (y c : Nat) (s : State) : Host.Outcome State Fault Refusal :=
  always s fun m =>
    let n := if x then 8 else 4
    match m.packageKey pa n with
    | some k => if m.peerIn && decide (k % n = 0) && atomSupported true 3 o then m.atomicOutside k n o y c else m
    | none => m

/-! ### Ethernet (23 R392) -/

/-- Bytes of the longest frame. -/
def frameLimit : Nat := 9216

/-- A ring of a port that serves Ethernet and is up, with its space. -/
def Mach.ethernetRing (m : Mach) (port : Fin 32) (rx : Bool) : Option (Ring × Nat) :=
  let q := m.ports.at port
  let va := if rx then q.rxring else q.txring
  if m.isEthernet port.val && decide (q.state = 2) && q.job.isNone && decide (va ≠ 0) then (Ring.parse (m.readIn q.space va 32)).map fun r => (r, va)
  else none

/-- 23 R392: a frame whose FCS checks is placed in the next entry of the receive ring; without room it is lost. -/
def execEthernetRx (port : Fin 32) (bs : List Byte) (fcs : Nat) (s : State) : Host.Outcome State Fault Refusal :=
  always s fun m =>
    match m.ethernetRing port true with
    | some (r, va) =>
      if fcs ≠ crc32 bs ∨ frameLimit < bs.length ∨ r.room = 0 then m
      else
        let sp := (m.ports.at port).space
        (m.writeIn sp (r.entry r.pi.toNat) bs.length (bytesValue bs)).writeIn sp (va + 8) 4 (r.pi + 1).toNat
    | none => m

/-- 23 R392: the oldest frame of the transmit ring is sent, with its FCS. -/
def execEthernetTx (port : Fin 32) (s : State) : Host.Outcome State Fault Refusal :=
  always s fun m =>
    match m.ethernetRing port false with
    | some (r, va) =>
      if r.held = 0 then m
      else
        let sp := (m.ports.at port).space
        let n := min (2 ^ r.elg) frameLimit
        let m1 := m.writeIn sp (va + 12) 4 (r.ci + 1).toNat
        let bs := bytesOf n (m.readIn sp (r.entry r.ci.toNat) n)
        { m1 with frames := m1.frames ++ [(port.val, bs ++ bytesOf 4 (crc32 bs))] }
    | none => m

end Sys2Proof.Machine
end

