-- ==== Sys2Proof/Machine/CrossLane.lean ====
section
/-! DEFINITION. Cross-lane instructions and melded regions (spec 10 R203 to R213, 03 R54 to R57). -/

namespace Sys2Proof.Machine

/-! ### Tiles (03 R57, 10 R204) -/

/-- Lanes of a tile by PART.TILE (03 R57). -/
def tileSize (part : BitVec 16) : Nat :=
  match part.toNat % 8 with
  | 1 => 2
  | 2 => 4
  | 3 => 8
  | 4 => 16
  | _ => 32

/-- The lanes of the tile of lane `l`, ascending. -/
def tileOf (n : Nat) (l : Fin 32) : List (Fin 32) := (List.finRange 32).filter fun j => j.val / n == l.val / n

/-- A lane by number, mod 32. -/
def laneAt (j : Nat) : Fin 32 := ⟨j % 32, by omega⟩

/-- The lowest lane of `on` whose register of source `a` is poisoned (10 R187, 21 R373). -/
def Issue.crossPoison (g : Issue) (a : Src) (on : Fin 32 → Bool) : Option (Fin 32 × Fin 64) :=
  match a with
  | .v n => (List.finRange 32).findSome? fun j =>
    if on j && g.active j && g.warp.poison.contains (g.warp.name n j, j) then some (j, g.warp.name n j) else none
  | _ => none

/-- A cross-lane instruction: a poison trap if a lane that is read holds a poisoned register, else it runs. -/
def issueCross (i : Instr) (a : Src) (on : Mach → Issue → Fin 32 → Bool) (s : State) (run : Mach → Issue → Mach) : Host.Outcome State Fault Refusal :=
  issue i s fun m g =>
    match g.crossPoison a (on m g) with
    | some p => m.trap g i (TrapRec.poison p)
    | none => run m g

/-! ### Votes, shuffles and broadcasts -/

/-- A vote's predicate bit of lane j (10 R205). -/
def Issue.votes (g : Issue) (a b : Src) (j : Fin 32) : Bool :=
  (g.warp.one b).getLsbD j.val && g.active j && (g.warp.src a j != 0)

/-- 10 R205. The poison test reads `a` only in the participants that the member mask names (DESIGN CHOICE: assumption log 94). -/
def execVvote (d : Dst) (a b : Src) (u : Fin 4) (s : State) : Host.Outcome State Fault Refusal :=
  let i := Instr.vvote d a b u
  issueCross i a (fun _ g j => (g.warp.one b).getLsbD j.val) s fun m g =>
    let r := fun l : Fin 32 =>
      let t := tileOf (tileSize g.warp.part) l
      let any := t.any (g.votes a b)
      let all := t.all fun j => !(g.warp.one b).getLsbD j.val || g.votes a b j
      match u with
      | 0 => BitVec.ofNat 32 any.toNat
      | 1 => BitVec.ofNat 32 all.toNat
      | 2 => laneMask fun j => t.contains j && g.votes a b j
      | 3 => BitVec.ofNat 32 (all || !any).toNat
    m.retire g i ((g.warp.begin i.uses).writeVec g.active d r)

/-- The source lane of a shuffle: none if it lies outside the tile (10 R206). -/
def shuffleFrom (u : Fin 4) (n : Nat) (l : Fin 32) (y : Word) : Option (Fin 32) :=
  let p := l.val % n
  let t0 := l.val - p
  match u with
  | 0 => some (laneAt (t0 + y.toNat % n))
  | 1 => if p < y.toNat then none else some (laneAt (t0 + (p - y.toNat)))
  | 2 => if n ≤ p + y.toNat then none else some (laneAt (t0 + p + y.toNat))
  | 3 => some (laneAt (t0 + (p ^^^ (y.toNat % n))))

/-- A shuffle whose source lane of lane l is `from l` (10 R206). -/
def shuffle (i : Instr) (d : Dst) (a : Src) (src : Mach → Issue → Fin 32 → Option (Fin 32)) (s : State) : Host.Outcome State Fault Refusal :=
  issueCross i a (fun m g j => g.lanes.any fun l => (src m g l).getD l == j) s fun m g =>
    let r := fun l => match src m g l with
      | none => g.warp.src a l
      | some j => if g.active j then g.warp.src a j else 0
    let c := fun l => match src m g l with
      | none => false
      | some j => g.active j
    m.retire g i { (g.warp.begin i.uses).writeVec g.active d r with cm := g.withCm c }

/-- 10 R206. -/
def execVshfl (d : Dst) (a b : Src) (u : Fin 4) (s : State) : Host.Outcome State Fault Refusal :=
  shuffle (.vshfl d a b u) d a (fun _ g l => shuffleFrom u (tileSize g.warp.part) l (g.warp.src b l)) s
/-- 10 R206. -/
def execVshflImm (d : Dst) (a : Src) (i : Fin 128) (u : Fin 4) (s : State) : Host.Outcome State Fault Refusal :=
  shuffle (.vshflImm d a i u) d a (fun m g l => shuffleFrom u (tileSize g.warp.part) l (m.imm i)) s
/-- 10 R207. -/
def execVbcast (d : Dst) (a b : Src) (s : State) : Host.Outcome State Fault Refusal :=
  shuffle (.vbcast d a b) d a (fun _ g l => shuffleFrom 0 (tileSize g.warp.part) l (g.warp.one b)) s
/-- 10 R207. -/
def execVbcastImm (d : Dst) (a : Src) (i : Fin 128) (s : State) : Host.Outcome State Fault Refusal :=
  shuffle (.vbcastImm d a i) d a (fun m g l => shuffleFrom 0 (tileSize g.warp.part) l (m.imm i)) s

/-- 10 R203: a vector source or a path constant is read in lane src(b) mod 32, 0 if that lane is no participant. -/
def execVmovs (d : SDst) (a b : Src) (s : State) : Host.Outcome State Fault Refusal :=
  let i := Instr.vmovs d a b
  issueCross i a (fun _ g j => laneAt (g.warp.one b).toNat == j) s fun m g =>
    let j := laneAt (g.warp.one b).toNat
    let scalar := match a with
      | .s _ => true
      | .c _ => true
      | .b n => match g.warp.b.at n with
        | some y => y.scalar
        | none => false
      | _ => false
    m.retire g i ((g.warp.begin i.uses).writeScal d (if scalar || g.active j then g.warp.src a j else 0))

/-- PART.TILE written from `y`; above 4 is a reserved operand (10 R210). -/
def setPart (i : Instr) (y : Mach → Issue → Word) (s : State) : Host.Outcome State Fault Refusal :=
  issue i s fun m g =>
    if 4 < (y m g).toNat then m.badOperand g i
    else m.retire g i { g.warp.begin i.uses with part := BitVec.ofNat 16 (y m g).toNat }

/-- 10 R210. -/
def execSetpart (b : Src) (s : State) : Host.Outcome State Fault Refusal := setPart (.setpart b) (fun _ g => g.warp.one b) s
/-- 10 R210. -/
def execSetpartImm (i : Fin 128) (s : State) : Host.Outcome State Fault Refusal := setPart (.setpartImm i) (fun m _ => m.imm i) s

/-! ### Reductions and scans (10 R208, R209) -/

/-- A fold of words from the first one. -/
def foldWords (op : Word → Word → Word) : List Word → Word
  | [] => 0
  | x :: xs => xs.foldl op x

/-- minimumNumber or maximumNumber across values (10 R195, R208). -/
def foldMinMax (isMax : Bool) : List Nat → Nat × Exc
  | [] => (0, Exc.none)
  | x :: xs => xs.foldl (fun r y => let q := fminmax F32 isMax r.1 y; (q.1, r.2.or q.2)) (fminmax F32 isMax x x)

/-- The combination of a list of values (10 R208). -/
def combine (o : RedOp) (l : List Word) : Nat × Exc :=
  match o with
  | .add => ((foldWords (· + ·) l).toNat, Exc.none)
  | .min => ((foldWords smin l).toNat, Exc.none)
  | .max => ((foldWords smax l).toNat, Exc.none)
  | .minU => ((foldWords umin l).toNat, Exc.none)
  | .maxU => ((foldWords umax l).toNat, Exc.none)
  | .and => ((foldWords (· &&& ·) l).toNat, Exc.none)
  | .or => ((foldWords (· ||| ·) l).toNat, Exc.none)
  | .xor => ((foldWords (· ^^^ ·) l).toNat, Exc.none)
  | .fadd => fsumList (l.map BitVec.toNat)
  | .fmin => foldMinMax false (l.map BitVec.toNat)
  | .fmax => foldMinMax true (l.map BitVec.toNat)

/-- A source read as the combination reads it (07 R112). -/
def Warp.srcRed (x : Warp) (o : RedOp) (a : Src) (l : Fin 32) : Word :=
  match o with
  | .fadd => x.srcF32 a l
  | .fmin => x.srcF32 a l
  | .fmax => x.srcF32 a l
  | _ => x.src a l

/-- 10 R208. -/
def execVred (d : Dst) (a : Src) (o : RedOp) (s : State) : Host.Outcome State Fault Refusal :=
  floatOp (.vred d a o) d (fun _ g l =>
    combine o (((tileOf (tileSize g.warp.part) l).filter g.active).map (g.warp.srcRed o a))) s
/-- 10 R209. -/
def execVscan (d : Dst) (a : Src) (o : RedOp) (s : State) : Host.Outcome State Fault Refusal :=
  floatOp (.vscan d a o) d (fun _ g l =>
    combine o (((tileOf (tileSize g.warp.part) l).filter fun j => g.active j && decide (j.val ≤ l.val)).map (g.warp.srcRed o a))) s

/-! ### Melded regions (03 R54 to R56, 10 R211 to R213) -/

/-- 10 R211: MELD needs a ganged warp (03 R55), which is tested after the latches (DESIGN CHOICE: assumption log 70). -/
def execMeld (four : Bool) (a b : Src) (s : State) : Host.Outcome State Fault Refusal :=
  let i := Instr.meld four a b
  issue i s fun m g =>
    if !g.ganged then m.illegal g i .meld
    else
      let m0 := g.warp.one a
      let m1 := if four then g.warp.one b else 0
      let r : Meld :=
        { saved := g.warp.exec, count := 0, path := tab fun l =>
            if g.warp.exec.getLsbD l.val then
              some ⟨2 * (m1.getLsbD l.val).toNat + (m0.getLsbD l.val).toNat, by
                have h1 := Bool.toNat_lt (m1.getLsbD l.val); have h0 := Bool.toNat_lt (m0.getLsbD l.val); omega⟩
            else none }
      m.retire g i { g.warp.begin i.uses with meld := some r }

/-- 10 R212: without an open region it breaks 03 R55. -/
def execMelde (s : State) : Host.Outcome State Fault Refusal :=
  issue .melde s fun m g =>
    match g.warp.meld with
    | none => m.illegal g .melde .meld
    | some r => m.retire g .melde { g.warp.begin Instr.melde.uses with exec := r.saved, meld := none }

/-- 10 R213: y[3:0] is the entry, y[5:4] the path; inside an open region, or with other bits of y set, a reserved operand. -/
def execMtw (d : Fin 64) (k : Fin 128) (s : State) : Host.Outcome State Fault Refusal :=
  let i := Instr.mtw d k
  issue i s fun m g =>
    let y := (m.imm k).toNat
    if g.warp.meld.isSome || decide (64 ≤ y) then m.badOperand g i
    else
      let p : Fin 4 := ⟨y / 16 % 4, by omega⟩
      m.retire g i { g.warp.begin i.uses with ren := g.warp.ren.put p ((g.warp.ren.at p).put ⟨y % 16, by omega⟩ d) }

/-- 10 R213. -/
def execMtr (d : SDst) (a : Src) (s : State) : Host.Outcome State Fault Refusal :=
  let i := Instr.mtr d a
  issue i s fun m g =>
    let x := (g.warp.one a).toNat
    let n := (g.warp.ren.at ⟨x / 16 % 4, by omega⟩).at ⟨x % 16, by omega⟩
    m.retire g i ((g.warp.begin i.uses).writeScal d (BitVec.ofNat 32 n.val))

/-- A path constant written; inside an open region a reserved operand (10 R213). -/
def setConst (i : Instr) (k : Fin 16) (y : Mach → Issue → Word) (s : State) : Host.Outcome State Fault Refusal :=
  issueOperand i s true (fun _ g => g.warp.meld.isSome) fun m g =>
    let p : Fin 4 := ⟨k.val / 4, by omega⟩
    m.retire g i { g.warp.begin i.uses with k := g.warp.k.put p ((g.warp.k.at p).put ⟨k.val % 4, by omega⟩ (y m g)) }

/-- 10 R213. -/
def execKset (k : Fin 16) (b : Src) (s : State) : Host.Outcome State Fault Refusal := setConst (.kset k b) k (fun _ g => g.warp.one b) s
/-- 10 R213. -/
def execKsetImm (k : Fin 16) (i : Fin 128) (s : State) : Host.Outcome State Fault Refusal := setConst (.ksetImm k i) k (fun m _ => m.imm i) s

end Sys2Proof.Machine
end

