-- ==== Sys2Proof/Machine/Scalar.lean ====
section
/-! DEFINITION. The scalar instructions (spec 09 R157 to R162). -/

namespace Sys2Proof.Machine

/-- A scalar result written and latched, whatever EXEC holds (09 R157, R158). -/
def scalarOp (i : Instr) (d : SDst) (f : Mach → Issue → Word) (s : State) : Host.Outcome State Fault Refusal :=
  issue i s fun m g => m.retire g i ((g.warp.begin i.uses).writeScal d (f m g))

def scal2 (i : Instr) (d : SDst) (a b : Src) (op : Word → Word → Word) (s : State) : Host.Outcome State Fault Refusal :=
  scalarOp i d (fun _ g => op (g.warp.one a) (g.warp.one b)) s

def scalI (i : Instr) (d : SDst) (a : Src) (k : Fin 128) (op : Word → Word → Word) (s : State) : Host.Outcome State Fault Refusal :=
  scalarOp i d (fun m g => op (g.warp.one a) (m.imm k)) s

/-- Division by zero is a precise trap and writes nothing (09 R159). -/
def scalDiv (i : Instr) (d : SDst) (a b : Src) (op : Word → Word → Word) (s : State) : Host.Outcome State Fault Refusal :=
  issue i s fun m g =>
    if g.warp.one b = 0 then m.trap g i (TrapRec.of 0x20)
    else m.retire g i ((g.warp.begin i.uses).writeScal d (op (g.warp.one a) (g.warp.one b)))

/-- Some active lane of the gang has CM set (09 R162). -/
def Issue.anyCm (g : Issue) : Bool := g.lanes.any fun l => g.warp.cm.getLsbD l.val

/-- 09 R158. -/
def execSadd (d : SDst) (a b : Src) (s : State) : Host.Outcome State Fault Refusal := scal2 (.sadd d a b) d a b (· + ·) s
/-- 09 R158. -/
def execSsub (d : SDst) (a b : Src) (s : State) : Host.Outcome State Fault Refusal := scal2 (.ssub d a b) d a b (· - ·) s
/-- 09 R158. -/
def execSmul (d : SDst) (a b : Src) (s : State) : Host.Outcome State Fault Refusal := scal2 (.smul d a b) d a b (· * ·) s
/-- 09 R158. -/
def execSmulh (d : SDst) (a b : Src) (s : State) : Host.Outcome State Fault Refusal := scal2 (.smulh d a b) d a b mulh s
/-- 09 R158. -/
def execSmulhU (d : SDst) (a b : Src) (s : State) : Host.Outcome State Fault Refusal := scal2 (.smulhU d a b) d a b mulhu s
/-- 09 R158. -/
def execSand (d : SDst) (a b : Src) (s : State) : Host.Outcome State Fault Refusal := scal2 (.sand d a b) d a b (· &&& ·) s
/-- 09 R158. -/
def execSor (d : SDst) (a b : Src) (s : State) : Host.Outcome State Fault Refusal := scal2 (.sor d a b) d a b (· ||| ·) s
/-- 09 R158. -/
def execSxor (d : SDst) (a b : Src) (s : State) : Host.Outcome State Fault Refusal := scal2 (.sxor d a b) d a b (· ^^^ ·) s
/-- 09 R158. -/
def execSshl (d : SDst) (a b : Src) (s : State) : Host.Outcome State Fault Refusal := scal2 (.sshl d a b) d a b shl s
/-- 09 R158. -/
def execSsrl (d : SDst) (a b : Src) (s : State) : Host.Outcome State Fault Refusal := scal2 (.ssrl d a b) d a b srl s
/-- 09 R158. -/
def execSsra (d : SDst) (a b : Src) (s : State) : Host.Outcome State Fault Refusal := scal2 (.ssra d a b) d a b sra s
/-- 09 R158. -/
def execSmin (d : SDst) (a b : Src) (s : State) : Host.Outcome State Fault Refusal := scal2 (.smin d a b) d a b Machine.smin s
/-- 09 R158. -/
def execSminU (d : SDst) (a b : Src) (s : State) : Host.Outcome State Fault Refusal := scal2 (.sminU d a b) d a b umin s
/-- 09 R158. -/
def execSmax (d : SDst) (a b : Src) (s : State) : Host.Outcome State Fault Refusal := scal2 (.smax d a b) d a b Machine.smax s
/-- 09 R158. -/
def execSmaxU (d : SDst) (a b : Src) (s : State) : Host.Outcome State Fault Refusal := scal2 (.smaxU d a b) d a b umax s
/-- 09 R158. -/
def execSaddImm (d : SDst) (a : Src) (i : Fin 128) (s : State) : Host.Outcome State Fault Refusal := scalI (.saddImm d a i) d a i (· + ·) s
/-- 09 R158. -/
def execSmulImm (d : SDst) (a : Src) (i : Fin 128) (s : State) : Host.Outcome State Fault Refusal := scalI (.smulImm d a i) d a i (· * ·) s
/-- 09 R158. -/
def execSandImm (d : SDst) (a : Src) (i : Fin 128) (s : State) : Host.Outcome State Fault Refusal := scalI (.sandImm d a i) d a i (· &&& ·) s
/-- 09 R158. -/
def execSorImm (d : SDst) (a : Src) (i : Fin 128) (s : State) : Host.Outcome State Fault Refusal := scalI (.sorImm d a i) d a i (· ||| ·) s
/-- 09 R158. -/
def execSxorImm (d : SDst) (a : Src) (i : Fin 128) (s : State) : Host.Outcome State Fault Refusal := scalI (.sxorImm d a i) d a i (· ^^^ ·) s
/-- 09 R158. -/
def execSshlImm (d : SDst) (a : Src) (i : Fin 128) (s : State) : Host.Outcome State Fault Refusal := scalI (.sshlImm d a i) d a i shl s
/-- 09 R158. -/
def execSsrlImm (d : SDst) (a : Src) (i : Fin 128) (s : State) : Host.Outcome State Fault Refusal := scalI (.ssrlImm d a i) d a i srl s
/-- 09 R158. -/
def execSsraImm (d : SDst) (a : Src) (i : Fin 128) (s : State) : Host.Outcome State Fault Refusal := scalI (.ssraImm d a i) d a i sra s
/-- 09 R159. -/
def execSdiv (d : SDst) (a b : Src) (s : State) : Host.Outcome State Fault Refusal := scalDiv (.sdiv d a b) d a b (fun x y => x.sdiv y) s
/-- 09 R159. -/
def execSdivU (d : SDst) (a b : Src) (s : State) : Host.Outcome State Fault Refusal := scalDiv (.sdivU d a b) d a b (· / ·) s
/-- 09 R159. -/
def execSrem (d : SDst) (a b : Src) (s : State) : Host.Outcome State Fault Refusal := scalDiv (.srem d a b) d a b (fun x y => x.srem y) s
/-- 09 R159. -/
def execSremU (d : SDst) (a b : Src) (s : State) : Host.Outcome State Fault Refusal := scalDiv (.sremU d a b) d a b (· % ·) s
/-- 09 R162. -/
def execSsel (d : SDst) (a b : Src) (s : State) : Host.Outcome State Fault Refusal :=
  scalarOp (.ssel d a b) d (fun _ g => if g.anyCm then g.warp.one a else g.warp.one b) s
/-- 09 R158. -/
def execSmov (d : SDst) (a : Src) (s : State) : Host.Outcome State Fault Refusal := scalarOp (.smov d a) d (fun _ g => g.warp.one a) s
/-- 09 R158. -/
def execSli (d : SDst) (i : Fin 128) (s : State) : Host.Outcome State Fault Refusal := scalarOp (.sli d i) d (fun m _ => m.imm i) s
/-- 09 R160. -/
def execSaddD (d : Fin 32) (a b : Src) (s : State) : Host.Outcome State Fault Refusal :=
  issue (.saddD d a b) s fun m g =>
    m.retire g (.saddD d a b) ((g.warp.begin (Instr.saddD d a b).uses).setPair d (g.warp.pair a + g.warp.pair b))
/-- 09 R160: the immediate is sign-extended to 64 bits. -/
def execSaddDImm (d : Fin 32) (a : Src) (i : Fin 128) (s : State) : Host.Outcome State Fault Refusal :=
  issue (.saddDImm d a i) s fun m g =>
    m.retire g (.saddDImm d a i)
      ((g.warp.begin (Instr.saddDImm d a i).uses).setPair d (g.warp.pair a + ((m.imm i).signExtend 64).toNat))
/-- 09 R161. -/
def execScmp (c : ICond) (a b : Src) (s : State) : Host.Outcome State Fault Refusal :=
  cmpOp (.scmp c a b) (fun _ g _ => ICond.holds c (g.warp.one a) (g.warp.one b)) s
/-- 09 R161. -/
def execScmpImm (c : ICond) (a : Src) (i : Fin 128) (s : State) : Host.Outcome State Fault Refusal :=
  cmpOp (.scmpImm c a i) (fun m g _ => ICond.holds c (g.warp.one a) (m.imm i)) s

end Sys2Proof.Machine
end

