-- ==== Sys2Proof/Machine/Mask.lean ====
section
/-! DEFINITION. The mask instructions (spec 09 R176, R177). -/

namespace Sys2Proof.Machine

/-- A mask's bits (09 R176). -/
def Warp.mask (x : Warp) (k : MaskName) : BitVec 32 :=
  match k with
  | .exec => x.exec
  | .cm => x.cm

def Warp.setMask (x : Warp) (k : MaskName) (v : BitVec 32) : Warp :=
  match k with
  | .exec => { x with exec := v }
  | .cm => { x with cm := v }

/-- The lanes of a mask that the gang may write: its live slices; in EXEC no lane outside the team, and inside a region only
lanes on a path (09 R176, 03 R51). -/
def Issue.writable (g : Issue) (k : MaskName) (l : Fin 32) : Bool :=
  g.gang.getLsbD (l.val / 4) &&
    match k with
    | .cm => true
    | .exec => insideLane g.team.tlanes g.w l.val && (g.warp.meld.isNone || (g.warp.pathOf l).isSome)

/-- A mask combined bit by bit with a source (09 R177). -/
def maskOp (i : Instr) (k : MaskName) (a : Src) (op : Bool → Bool → Bool) (s : State) : Host.Outcome State Fault Refusal :=
  issue i s fun m g =>
    m.retire g i ((g.warp.begin i.uses).setMask k (laneMask fun l =>
      if g.writable k l then op ((g.warp.mask k).getLsbD l.val) ((g.warp.one a).getLsbD l.val)
      else (g.warp.mask k).getLsbD l.val))

/-- 09 R177. -/
def execMsave (d : SDst) (k : MaskName) (s : State) : Host.Outcome State Fault Refusal := scalarOp (.msave d k) d (fun _ g => g.warp.mask k) s
/-- 09 R177. -/
def execMrest (k : MaskName) (a : Src) (s : State) : Host.Outcome State Fault Refusal := maskOp (.mrest k a) k a (fun _ x => x) s
/-- 09 R177. -/
def execMand (k : MaskName) (a : Src) (s : State) : Host.Outcome State Fault Refusal := maskOp (.mand k a) k a (· && ·) s
/-- 09 R177. -/
def execMor (k : MaskName) (a : Src) (s : State) : Host.Outcome State Fault Refusal := maskOp (.mor k a) k a (· || ·) s
/-- 09 R177. -/
def execMandn (k : MaskName) (a : Src) (s : State) : Host.Outcome State Fault Refusal := maskOp (.mandn k a) k a (fun m x => m && !x) s
/-- 09 R177. -/
def execMxor (k : MaskName) (a : Src) (s : State) : Host.Outcome State Fault Refusal := maskOp (.mxor k a) k a (· != ·) s
/-- 09 R177. -/
def execMset (k : MaskName) (a : Src) (s : State) : Host.Outcome State Fault Refusal :=
  issue (.mset k a) s fun m g =>
    m.retire g (.mset k a) ((g.warp.begin (Instr.mset k a).uses).setMask k (laneMask fun l =>
      if g.active l then g.warp.src a l != 0 else (g.warp.mask k).getLsbD l.val))
/-- 09 R177. -/
def execMpop (d : SDst) (k : MaskName) (s : State) : Host.Outcome State Fault Refusal := scalarOp (.mpop d k) d (fun _ g => popc (g.warp.mask k)) s
/-- 09 R177. -/
def execMfirst (d : SDst) (k : MaskName) (s : State) : Host.Outcome State Fault Refusal :=
  scalarOp (.mfirst d k) d (fun _ g => clz (brev (g.warp.mask k))) s

end Sys2Proof.Machine
end

