-- ==== Sys2Proof/Machine/Recovery.lean ====
section
/-! DEFINITION. Epochs that close by themselves, returning accesses, stops, the debugger and errors (spec 12 R220, R225; 21 R363,
R369 to R378; 01 R27; 09 R179; 23 R397). -/

namespace Sys2Proof.Machine

/-! ### Epochs (12 R225) -/

/-- 12 R225. -/
def execEpochTimeout (die : Nat) (s : State) : Host.Outcome State Fault Refusal :=
  always s fun m =>
    match (m.dies[die]?).bind Die.firstWrite with
    | some t => if t + Config.epochCycles ≤ m.now then m.closeEpoch die else m
    | none => m

/-- 12 R225. -/
def execDirtyTableFull (die : Nat) (s : State) : Host.Outcome State Fault Refusal :=
  always s fun m => if Config.dirtyLimit ≤ ((m.dies[die]?).map fun x => x.sectors.length).getD 0 then m.closeEpoch die else m

/-! ### Accesses in flight (12 R220, 21 R362, R363) -/

/-- 12 R220: the oldest access of a warp returns. -/
def execAccessReturn (t w : Nat) (s : State) : Host.Outcome State Fault Refusal :=
  always s fun m =>
    match m.settleOldest t w with
    | (.faulted, _) => m
    | (_, m1) => m1

/-- 21 R363: the late fault of the oldest access is taken. -/
def execLateFault (t w : Nat) (s : State) : Host.Outcome State Fault Refusal :=
  always s fun m =>
    match m.settleOldest t w with
    | (.faulted, m1) => m1
    | _ => m

/-! ### Stops and the debugger (21 R369, R370; 25 R402; 09 R179) -/

/-- 21 R369: a debugger halt or an error in context state. Stops of other causes come from the commands and events that cause them. -/
def execContextStop (ctx cause : Nat) (s : State) : Host.Outcome State Fault Refusal :=
  always s fun m =>
    if cause = 0x50 then m.askHalt ctx
    else if cause = 0x52 then m.stopContext ctx 0x52 none .stopped
    else m

/-- 25 R402. -/
def execStopReport (ctx : Nat) (s : State) : Host.Outcome State Fault Refusal := always s fun m => m.reportStop ctx
/-- 21 R369. -/
def execDebuggerHalt (ctx : Nat) (s : State) : Host.Outcome State Fault Refusal := always s fun m => m.askHalt ctx
/-- 21 R370. -/
def execDebuggerResume (ctx : Nat) (s : State) : Host.Outcome State Fault Refusal :=
  always s fun m => m.doHalts.modCtx ctx fun c => if c.halt = some .debugger then { c with halt := none, stops := [] } else c
/-- 09 R179. -/
def execDebuggerAttach (ctx : Nat) (on : Bool) (s : State) : Host.Outcome State Fault Refusal :=
  always s fun m => m.modCtx ctx fun c => { c with debugger := on }

/-! ### Errors (21 R373 to R378) -/

/-- 21 R373, 23 R397. -/
def execEccCorrected (die : Fin 8) (c : EccKind) (s : State) : Host.Outcome State Fault Refusal :=
  always s fun m => m.modDie die.val fun x => { x with ecc := match c with
    | .register => (x.ecc.1 + 1, x.ecc.2.1, x.ecc.2.2)
    | .sram => (x.ecc.1, x.ecc.2.1 + 1, x.ecc.2.2)
    | .link => (x.ecc.1, x.ecc.2.1, x.ecc.2.2 + 1) }

/-- 21 R373: the lane's register is marked; the next participant read takes the poison trap. -/
def execRegisterPoison (t w : Nat) (reg : Fin 64) (lane : Fin 32) (s : State) : Host.Outcome State Fault Refusal :=
  always s fun m => m.modWarp t w fun x => { x with poison := if x.poison.contains (reg, lane) then x.poison else (reg, lane) :: x.poison }

/-- 21 R378. -/
def execUncorrectableStateError (ctx : Nat) (s : State) : Host.Outcome State Fault Refusal :=
  always s fun m => m.stopContext ctx 0x52 none .stopped

/-- 21 R374: a dirty sector of the open epoch is lost; the close of the epoch publishes it poisoned. -/
def execSectorLoss (die sector : Nat) (s : State) : Host.Outcome State Fault Refusal :=
  always s fun m => m.modDie die fun x =>
    if x.sectors.contains sector then
      { x with
        dirty := x.dirty.filter fun c => sectorOf c.1 ≠ sector
        dirtyAt := x.dirtyAt.filter fun k => sectorOf k ≠ sector
        sectors := x.sectors.filter (· ≠ sector), lost := addNew x.lost sector }
    else x

/-! ### Temperature and power (23 R397, 01 R27): timing only, but for the shutdown -/

/-- A temperature measured. -/
def Mach.measured (m : Mach) (island temp : Nat) : Mach := { m with temps := (island, temp) :: m.temps.filter fun e => e.1 ≠ island }

/-- A frequency set for an island, with those that run at one frequency with it; none ends the lowering (01 R24). -/
def Mach.setFrequency (m : Mach) (island : Nat) (freq : Option Nat) : Mach :=
  let g := islandGroup island
  let rest := m.freqs.filter fun e => !g.contains e.1
  { m with freqs := (match freq with | some f => g.map fun i => (i, f) | none => []) ++ rest }

/-- 23 R397: an island throttles from 105 °C on. One of a disabled die is held off (01 R23). -/
def execThermalThrottle (x : IslandSpeed) (temp : Nat) (s : State) : Host.Outcome State Fault Refusal :=
  always s fun m =>
    if islandOff s.fuse.dmask x.island.val then m
    else (m.measured x.island.val temp).setFrequency x.island.val (if 105 ≤ temp then some x.freq else none)

/-- 23 R397: at 115 °C every context stops and the package powers down. -/
def execThermalShutdown (die temp : Nat) (s : State) : Host.Outcome State Fault Refusal :=
  always s fun m =>
    if m.dies.length ≤ die then m
    else
      let m0 := { m with dieTemps := (die, temp) :: m.dieTemps.filter fun e => e.1 ≠ die }
      if temp < 115 then m0
      else { (m0.contexts.map Context.id).foldl (fun m c => m.stopContext c 0x52 none .stopped) m0 with poweredDown := true }

/-- 01 R27. -/
def execPowerLimit (x : IslandSpeed) (s : State) : Host.Outcome State Fault Refusal :=
  always s fun m => if islandOff s.fuse.dmask x.island.val then m else m.setFrequency x.island.val (some x.freq)

end Sys2Proof.Machine
end

