-- ==== Sys2Proof/Machine/Dispatch.lean ====
section
/-! DEFINITION. The meaning of every constructor of Instr. -/

namespace Sys2Proof.Machine

def exec (i : Instr) (s : State) : Host.Outcome State Fault Refusal :=
      match i with
      | .vadd d a b => Sys2Proof.Machine.execVadd d a b s
      | .vaddImm d a i_ => Sys2Proof.Machine.execVaddImm d a i_ s
      | .vsub d a b => Sys2Proof.Machine.execVsub d a b s
      | .vmul d a b => Sys2Proof.Machine.execVmul d a b s
      | .vmulImm d a i_ => Sys2Proof.Machine.execVmulImm d a i_ s
      | .vmulh d a b => Sys2Proof.Machine.execVmulh d a b s
      | .vmulhU d a b => Sys2Proof.Machine.execVmulhU d a b s
      | .vmad d a b => Sys2Proof.Machine.execVmad d a b s
      | .vand d a b => Sys2Proof.Machine.execVand d a b s
      | .vandImm d a i_ => Sys2Proof.Machine.execVandImm d a i_ s
      | .vor d a b => Sys2Proof.Machine.execVor d a b s
      | .vorImm d a i_ => Sys2Proof.Machine.execVorImm d a i_ s
      | .vxor d a b => Sys2Proof.Machine.execVxor d a b s
      | .vxorImm d a i_ => Sys2Proof.Machine.execVxorImm d a i_ s
      | .vshl d a b => Sys2Proof.Machine.execVshl d a b s
      | .vshlImm d a i_ => Sys2Proof.Machine.execVshlImm d a i_ s
      | .vsrl d a b => Sys2Proof.Machine.execVsrl d a b s
      | .vsrlImm d a i_ => Sys2Proof.Machine.execVsrlImm d a i_ s
      | .vsra d a b => Sys2Proof.Machine.execVsra d a b s
      | .vsraImm d a i_ => Sys2Proof.Machine.execVsraImm d a i_ s
      | .vmin d a b => Sys2Proof.Machine.execVmin d a b s
      | .vminImm d a i_ => Sys2Proof.Machine.execVminImm d a i_ s
      | .vminU d a b => Sys2Proof.Machine.execVminU d a b s
      | .vminUImm d a i_ => Sys2Proof.Machine.execVminUImm d a i_ s
      | .vmax d a b => Sys2Proof.Machine.execVmax d a b s
      | .vmaxImm d a i_ => Sys2Proof.Machine.execVmaxImm d a i_ s
      | .vmaxU d a b => Sys2Proof.Machine.execVmaxU d a b s
      | .vmaxUImm d a i_ => Sys2Proof.Machine.execVmaxUImm d a i_ s
      | .vabs d a => Sys2Proof.Machine.execVabs d a s
      | .vclz d a => Sys2Proof.Machine.execVclz d a s
      | .vpopc d a => Sys2Proof.Machine.execVpopc d a s
      | .vbrev d a => Sys2Proof.Machine.execVbrev d a s
      | .vsel d a b => Sys2Proof.Machine.execVsel d a b s
      | .vsat d a b => Sys2Proof.Machine.execVsat d a b s
      | .vsatImm d a i_ => Sys2Proof.Machine.execVsatImm d a i_ s
      | .vcmp c a b => Sys2Proof.Machine.execVcmp c a b s
      | .vcmpImm c a i_ => Sys2Proof.Machine.execVcmpImm c a i_ s
      | .vfadd d a b m => Sys2Proof.Machine.execVfadd d a b m s
      | .vfsub d a b m => Sys2Proof.Machine.execVfsub d a b m s
      | .vfmul d a b m => Sys2Proof.Machine.execVfmul d a b m s
      | .vfmin d a b => Sys2Proof.Machine.execVfmin d a b s
      | .vfmax d a b => Sys2Proof.Machine.execVfmax d a b s
      | .vfabs d a => Sys2Proof.Machine.execVfabs d a s
      | .vfneg d a => Sys2Proof.Machine.execVfneg d a s
      | .vfrcp d a => Sys2Proof.Machine.execVfrcp d a s
      | .vfrsq d a => Sys2Proof.Machine.execVfrsq d a s
      | .vfexp2 d a => Sys2Proof.Machine.execVfexp2 d a s
      | .vflog2 d a => Sys2Proof.Machine.execVflog2 d a s
      | .vfsin d a => Sys2Proof.Machine.execVfsin d a s
      | .vfcos d a => Sys2Proof.Machine.execVfcos d a s
      | .vftanh d a => Sys2Proof.Machine.execVftanh d a s
      | .vfcmp c a b => Sys2Proof.Machine.execVfcmp c a b s
      | .vfmaF32 d a b na np m => Sys2Proof.Machine.execVfmaF32 d a b na np m s
      | .vfmaH2 d a b na np m => Sys2Proof.Machine.execVfmaH2 d a b na np m s
      | .vfmaB2 d a b na np m => Sys2Proof.Machine.execVfmaB2 d a b na np m s
      | .vcvtF32I32 d a m => Sys2Proof.Machine.execVcvtF32I32 d a m s
      | .vcvtI32F32 d a m => Sys2Proof.Machine.execVcvtI32F32 d a m s
      | .vcvtF16F32 d a m => Sys2Proof.Machine.execVcvtF16F32 d a m s
      | .vcvtBf16F32 d a m => Sys2Proof.Machine.execVcvtBf16F32 d a m s
      | .vcvtF32F16 d a => Sys2Proof.Machine.execVcvtF32F16 d a s
      | .vcvtF32Bf16 d a => Sys2Proof.Machine.execVcvtF32Bf16 d a s
      | .vpackH2 d a b m => Sys2Proof.Machine.execVpackH2 d a b m s
      | .vpackB2 d a b m => Sys2Proof.Machine.execVpackB2 d a b m s
      | .vpackI16 d a b => Sys2Proof.Machine.execVpackI16 d a b s
      | .vunpk d a b u => Sys2Proof.Machine.execVunpk d a b u s
      | .vqnt d a i_ => Sys2Proof.Machine.execVqnt d a i_ s
      | .vdqnt d a i_ => Sys2Proof.Machine.execVdqnt d a i_ s
      | .vmov d a => Sys2Proof.Machine.execVmov d a s
      | .vmovk d i_ => Sys2Proof.Machine.execVmovk d i_ s
      | .vmovs d a b => Sys2Proof.Machine.execVmovs d a b s
      | .vvote d a b u => Sys2Proof.Machine.execVvote d a b u s
      | .vshfl d a b u => Sys2Proof.Machine.execVshfl d a b u s
      | .vshflImm d a i_ u => Sys2Proof.Machine.execVshflImm d a i_ u s
      | .vbcast d a b => Sys2Proof.Machine.execVbcast d a b s
      | .vbcastImm d a i_ => Sys2Proof.Machine.execVbcastImm d a i_ s
      | .setpart b => Sys2Proof.Machine.execSetpart b s
      | .setpartImm i_ => Sys2Proof.Machine.execSetpartImm i_ s
      | .vred d a o => Sys2Proof.Machine.execVred d a o s
      | .vscan d a o => Sys2Proof.Machine.execVscan d a o s
      | .sadd d a b => Sys2Proof.Machine.execSadd d a b s
      | .saddImm d a i_ => Sys2Proof.Machine.execSaddImm d a i_ s
      | .ssub d a b => Sys2Proof.Machine.execSsub d a b s
      | .smul d a b => Sys2Proof.Machine.execSmul d a b s
      | .smulImm d a i_ => Sys2Proof.Machine.execSmulImm d a i_ s
      | .smulh d a b => Sys2Proof.Machine.execSmulh d a b s
      | .smulhU d a b => Sys2Proof.Machine.execSmulhU d a b s
      | .sdiv d a b => Sys2Proof.Machine.execSdiv d a b s
      | .sdivU d a b => Sys2Proof.Machine.execSdivU d a b s
      | .srem d a b => Sys2Proof.Machine.execSrem d a b s
      | .sremU d a b => Sys2Proof.Machine.execSremU d a b s
      | .sand d a b => Sys2Proof.Machine.execSand d a b s
      | .sandImm d a i_ => Sys2Proof.Machine.execSandImm d a i_ s
      | .sor d a b => Sys2Proof.Machine.execSor d a b s
      | .sorImm d a i_ => Sys2Proof.Machine.execSorImm d a i_ s
      | .sxor d a b => Sys2Proof.Machine.execSxor d a b s
      | .sxorImm d a i_ => Sys2Proof.Machine.execSxorImm d a i_ s
      | .sshl d a b => Sys2Proof.Machine.execSshl d a b s
      | .sshlImm d a i_ => Sys2Proof.Machine.execSshlImm d a i_ s
      | .ssrl d a b => Sys2Proof.Machine.execSsrl d a b s
      | .ssrlImm d a i_ => Sys2Proof.Machine.execSsrlImm d a i_ s
      | .ssra d a b => Sys2Proof.Machine.execSsra d a b s
      | .ssraImm d a i_ => Sys2Proof.Machine.execSsraImm d a i_ s
      | .smin d a b => Sys2Proof.Machine.execSmin d a b s
      | .sminU d a b => Sys2Proof.Machine.execSminU d a b s
      | .smax d a b => Sys2Proof.Machine.execSmax d a b s
      | .smaxU d a b => Sys2Proof.Machine.execSmaxU d a b s
      | .ssel d a b => Sys2Proof.Machine.execSsel d a b s
      | .smov d a => Sys2Proof.Machine.execSmov d a s
      | .saddD d a b => Sys2Proof.Machine.execSaddD d a b s
      | .saddDImm d a i_ => Sys2Proof.Machine.execSaddDImm d a i_ s
      | .scmp c a b => Sys2Proof.Machine.execScmp c a b s
      | .scmpImm c a i_ => Sys2Proof.Machine.execScmpImm c a i_ s
      | .sli d i_ => Sys2Proof.Machine.execSli d i_ s
      | .bra o => Sys2Proof.Machine.execBra o s
      | .brc o => Sys2Proof.Machine.execBrc o s
      | .brcN o => Sys2Proof.Machine.execBrcN o s
      | .switch d cs => Sys2Proof.Machine.execSwitch d cs s
      | .jmp x => Sys2Proof.Machine.execJmp x s
      | .call o x => Sys2Proof.Machine.execCall o x s
      | .ret x => Sys2Proof.Machine.execRet x s
      | .loop o x l => Sys2Proof.Machine.execLoop o x l s
      | .lbrk x => Sys2Proof.Machine.execLbrk x s
      | .regangW => Sys2Proof.Machine.execRegangW s
      | .regangN => Sys2Proof.Machine.execRegangN s
      | .exit => Sys2Proof.Machine.execExit s
      | .nop => Sys2Proof.Machine.execNop s
      | .yield => Sys2Proof.Machine.execYield s
      | .msave d mk => Sys2Proof.Machine.execMsave d mk s
      | .mrest mk a => Sys2Proof.Machine.execMrest mk a s
      | .mand mk a => Sys2Proof.Machine.execMand mk a s
      | .mor mk a => Sys2Proof.Machine.execMor mk a s
      | .mandn mk a => Sys2Proof.Machine.execMandn mk a s
      | .mxor mk a => Sys2Proof.Machine.execMxor mk a s
      | .mset mk a => Sys2Proof.Machine.execMset mk a s
      | .mpop d mk => Sys2Proof.Machine.execMpop d mk s
      | .mfirst d mk => Sys2Proof.Machine.execMfirst d mk s
      | .meld four a b => Sys2Proof.Machine.execMeld four a b s
      | .melde => Sys2Proof.Machine.execMelde s
      | .mtw d i_ => Sys2Proof.Machine.execMtw d i_ s
      | .mtr d a => Sys2Proof.Machine.execMtr d a s
      | .kset k b => Sys2Proof.Machine.execKset k b s
      | .ksetImm k i_ => Sys2Proof.Machine.execKsetImm k i_ s
      | .ld d a b z => Sys2Proof.Machine.execLd d a b z s
      | .ldSigned d a b z => Sys2Proof.Machine.execLdSigned d a b z s
      | .st d a b z => Sys2Proof.Machine.execSt d a b z s
      | .lds d a b z => Sys2Proof.Machine.execLds d a b z s
      | .sts d a b z => Sys2Proof.Machine.execSts d a b z s
      | .spld d a b z => Sys2Proof.Machine.execSpld d a b z s
      | .spldSigned d a b z => Sys2Proof.Machine.execSpldSigned d a b z s
      | .spst d a b z => Sys2Proof.Machine.execSpst d a b z s
      | .tld h rk cb d z => Sys2Proof.Machine.execTld h rk cb d z s
      | .tst h rk cb d z => Sys2Proof.Machine.execTst h rk cb d z s
      | .pref a b => Sys2Proof.Machine.execPref a b s
      | .shpld h a => Sys2Proof.Machine.execShpld h a s
      | .shpinv h => Sys2Proof.Machine.execShpinv h s
      | .atomDie d a b x o => Sys2Proof.Machine.execAtomDie d a b x o s
      | .atomPkg d a b x o => Sys2Proof.Machine.execAtomPkg d a b x o s
      | .atomSys d a b x o => Sys2Proof.Machine.execAtomSys d a b x o s
      | .atoms d a b x o => Sys2Proof.Machine.execAtoms d a b x o s
      | .fence sc => Sys2Proof.Machine.execFence sc s
      | .rel sc => Sys2Proof.Machine.execRel sc s
      | .acq sc => Sys2Proof.Machine.execAcq sc s
      | .lda32 d a sc => Sys2Proof.Machine.execLda32 d a sc s
      | .lda64 d a sc => Sys2Proof.Machine.execLda64 d a sc s
      | .stl32 d a sc => Sys2Proof.Machine.execStl32 d a sc s
      | .stl64 d a sc => Sys2Proof.Machine.execStl64 d a sc s
      | .waitp p a => Sys2Proof.Machine.execWaitp p a s
      | .cntr d => Sys2Proof.Machine.execCntr d s
      | .bar a b => Sys2Proof.Machine.execBar a b s
      | .bara a b => Sys2Proof.Machine.execBara a b s
      | .barw a => Sys2Proof.Machine.execBarw a s
      | .dbar => Sys2Proof.Machine.execDbar s
      | .gbar => Sys2Proof.Machine.execGbar s
      | .cwait d a b => Sys2Proof.Machine.execCwait d a b s
      | .csig a b => Sys2Proof.Machine.execCsig a b s
      | .mma vb va vf vc q0 => Sys2Proof.Machine.execMma vb va vf vc q0 s
      | .mmas vb va vf vc q0 => Sys2Proof.Machine.execMmas vb va vf vc q0 s
      | .mzero d => Sys2Proof.Machine.execMzero d s
      | .mcvtH2 d a m => Sys2Proof.Machine.execMcvtH2 d a m s
      | .mcvtB2 d a m => Sys2Proof.Machine.execMcvtB2 d a m s
      | .mcvtF32 d a m => Sys2Proof.Machine.execMcvtF32 d a m s
      | .mcvtI32 d a m => Sys2Proof.Machine.execMcvtI32 d a m s
      | .msclB a b => Sys2Proof.Machine.execMsclB a b s
      | .msclP a b => Sys2Proof.Machine.execMsclP a b s
      | .ersetBind a b => Sys2Proof.Machine.execErsetBind a b s
      | .ersetFree a => Sys2Proof.Machine.execErsetFree a s
      | .ersetPush a b => Sys2Proof.Machine.execErsetPush a b s
      | .ersetPop a b => Sys2Proof.Machine.execErsetPop a b s
      | .ersetWaitf a b => Sys2Proof.Machine.execErsetWaitf a b s
      | .ersetWaite a b => Sys2Proof.Machine.execErsetWaite a b s
      | .ecopy a => Sys2Proof.Machine.execEcopy a s
      | .egath a => Sys2Proof.Machine.execEgath a s
      | .escat a => Sys2Proof.Machine.execEscat a s
      | .ered a => Sys2Proof.Machine.execEred a s
      | .ebcast a => Sys2Proof.Machine.execEbcast a s
      | .prsv d a => Sys2Proof.Machine.execPrsv d a s
      | .pcmt a b => Sys2Proof.Machine.execPcmt a b s
      | .pacq d a => Sys2Proof.Machine.execPacq d a s
      | .prel a b => Sys2Proof.Machine.execPrel a b s
      | .ptryR d a => Sys2Proof.Machine.execPtryR d a s
      | .ptryA d a => Sys2Proof.Machine.execPtryA d a s
      | .pstat d a => Sys2Proof.Machine.execPstat d a s
      | .pmsg a b => Sys2Proof.Machine.execPmsg a b s
      | .precv d a b => Sys2Proof.Machine.execPrecv d a b s
      | .klaunch d a b => Sys2Proof.Machine.execKlaunch d a b s
      | .glaunch d a b => Sys2Proof.Machine.execGlaunch d a b s
      | .gcond a b => Sys2Proof.Machine.execGcond a b s
      | .rsplit d a => Sys2Proof.Machine.execRsplit d a s
      | .rmerge d a => Sys2Proof.Machine.execRmerge d a s
      | .rprot d a b => Sys2Proof.Machine.execRprot d a b s
      | .rinval sc a b => Sys2Proof.Machine.execRinval sc a b s
      | .rprobe d a => Sys2Proof.Machine.execRprobe d a s
      | .rres d a b => Sys2Proof.Machine.execRres d a b s
      | .rpress d a => Sys2Proof.Machine.execRpress d a s
      | .cwb sc a b => Sys2Proof.Machine.execCwb sc a b s
      | .cinv sc a b => Sys2Proof.Machine.execCinv sc a b s
      | .trap a => Sys2Proof.Machine.execTrap a s
      | .bkpt => Sys2Proof.Machine.execBkpt s
      | .sysr n d => Sys2Proof.Machine.execSysr n d s
      | .sysw n b => Sys2Proof.Machine.execSysw n b s
      | .syswImm n i_ => Sys2Proof.Machine.execSyswImm n i_ s
      | .ilbf => Sys2Proof.Machine.execIlbf s
      | .limm p => Sys2Proof.Machine.execLimm p s
      | .vaddShort d s_ => Sys2Proof.Machine.execVaddShort d s_ s
      | .vsubShort d s_ => Sys2Proof.Machine.execVsubShort d s_ s
      | .vandShort d s_ => Sys2Proof.Machine.execVandShort d s_ s
      | .vorShort d s_ => Sys2Proof.Machine.execVorShort d s_ s
      | .vxorShort d s_ => Sys2Proof.Machine.execVxorShort d s_ s
      | .vshlShort d s_ => Sys2Proof.Machine.execVshlShort d s_ s
      | .vsrlShort d s_ => Sys2Proof.Machine.execVsrlShort d s_ s
      | .vsraShort d s_ => Sys2Proof.Machine.execVsraShort d s_ s
      | .vminShort d s_ => Sys2Proof.Machine.execVminShort d s_ s
      | .vmaxShort d s_ => Sys2Proof.Machine.execVmaxShort d s_ s
      | .vfaddShort d s_ => Sys2Proof.Machine.execVfaddShort d s_ s
      | .vfsubShort d s_ => Sys2Proof.Machine.execVfsubShort d s_ s
      | .vfmulShort d s_ => Sys2Proof.Machine.execVfmulShort d s_ s
      | .vmovShort d s_ => Sys2Proof.Machine.execVmovShort d s_ s
      | .vaddi d i_ => Sys2Proof.Machine.execVaddi d i_ s
      | .vneg d s_ => Sys2Proof.Machine.execVneg d s_ s
      | .illegalInstruction cause iword => Sys2Proof.Machine.execIllegalInstruction cause iword s
      | .waiterRelease t w => Sys2Proof.Machine.execWaiterRelease t w s
      | .mmaWriteback t w => Sys2Proof.Machine.execMmaWriteback t w s
      | .scaleLineFill t w tid line => Sys2Proof.Machine.execScaleLineFill t w tid line s
      | .matrixUnitRestore die core unit => Sys2Proof.Machine.execMatrixUnitRestore die core unit s
      | .engineFire op => Sys2Proof.Machine.execEngineFire op s
      | .engineComplete op => Sys2Proof.Machine.execEngineComplete op s
      | .engineFault t w => Sys2Proof.Machine.execEngineFault t w s
      | .pressLineMove r => Sys2Proof.Machine.execPressLineMove r s
      | .pressSwitch r => Sys2Proof.Machine.execPressSwitch r s
      | .handlerLaunch ctx core => Sys2Proof.Machine.execHandlerLaunch ctx core s
      | .tresumeResume t pzero => Sys2Proof.Machine.execTresumeResume t pzero s
      | .tresumeResumeWithout t pzero => Sys2Proof.Machine.execTresumeResumeWithout t pzero s
      | .tresumeStop t pzero => Sys2Proof.Machine.execTresumeStop t pzero s
      | .apply d x => Sys2Proof.Machine.execApply d x s
      | .requestResend => Sys2Proof.Machine.execRequestResend s
      | .registerWrite offset value => Sys2Proof.Machine.execRegisterWrite offset value s
      | .doorbell p q => Sys2Proof.Machine.execDoorbell p q s
      | .deviceQueueRead p q => Sys2Proof.Machine.execDeviceQueueRead p q s
      | .dispatch p => Sys2Proof.Machine.execDispatch p s
      | .teamPlacement p die core => Sys2Proof.Machine.execTeamPlacement p die core s
      | .teamStart t => Sys2Proof.Machine.execTeamStart t s
      | .teamRestore t die core => Sys2Proof.Machine.execTeamRestore t die core s
      | .packetComplete p job => Sys2Proof.Machine.execPacketComplete p job s
      | .kernelLaunch p q => Sys2Proof.Machine.execKernelLaunch p q s
      | .planStart p job cores => Sys2Proof.Machine.execPlanStart p job cores s
      | .graphLaunch p job => Sys2Proof.Machine.execGraphLaunch p job s
      | .queueCreate p job => Sys2Proof.Machine.execQueueCreate p job s
      | .contextCreate p job id sysva pa => Sys2Proof.Machine.execContextCreate p job id sysva pa s
      | .contextDestroy p job => Sys2Proof.Machine.execContextDestroy p job s
      | .rangeMap p job => Sys2Proof.Machine.execRangeMap p job s
      | .rangeUnmap p job => Sys2Proof.Machine.execRangeUnmap p job s
      | .quotaSet p job => Sys2Proof.Machine.execQuotaSet p job s
      | .planLoad p job nums => Sys2Proof.Machine.execPlanLoad p job nums s
      | .planStop p job => Sys2Proof.Machine.execPlanStop p job s
      | .planRestart p job cores => Sys2Proof.Machine.execPlanRestart p job cores s
      | .graphLoad p job => Sys2Proof.Machine.execGraphLoad p job s
      | .signal p job => Sys2Proof.Machine.execSignal p job s
      | .wait p job => Sys2Proof.Machine.execWait p job s
      | .waitRelease p job => Sys2Proof.Machine.execWaitRelease p job s
      | .preempt p job => Sys2Proof.Machine.execPreempt p job s
      | .preemptResume p job => Sys2Proof.Machine.execPreemptResume p job s
      | .preemptMove p job => Sys2Proof.Machine.execPreemptMove p job s
      | .linkReconf p job => Sys2Proof.Machine.execLinkReconf p job s
      | .drainMarkerAck port => Sys2Proof.Machine.execDrainMarkerAck port s
      | .portRelock port peer lambda ok => Sys2Proof.Machine.execPortRelock port peer lambda ok s
      | .dieReset p job => Sys2Proof.Machine.execDieReset p job s
      | .attest p job => Sys2Proof.Machine.execAttest p job s
      | .domainSet p job => Sys2Proof.Machine.execDomainSet p job s
      | .epochTimeout die => Sys2Proof.Machine.execEpochTimeout die s
      | .dirtyTableFull die => Sys2Proof.Machine.execDirtyTableFull die s
      | .accessReturn t w => Sys2Proof.Machine.execAccessReturn t w s
      | .lateFault t w => Sys2Proof.Machine.execLateFault t w s
      | .forcedSave t w => Sys2Proof.Machine.execForcedSave t w s
      | .timeSliceExpiry t => Sys2Proof.Machine.execTimeSliceExpiry t s
      | .aging t x => Sys2Proof.Machine.execAging t x s
      | .balancerPeriod ctx plan => Sys2Proof.Machine.execBalancerPeriod ctx plan s
      | .kernelNode j node => Sys2Proof.Machine.execKernelNode j node s
      | .planNode j node => Sys2Proof.Machine.execPlanNode j node s
      | .signalNode j node => Sys2Proof.Machine.execSignalNode j node s
      | .conditionalNode j node => Sys2Proof.Machine.execConditionalNode j node s
      | .whileNode j node => Sys2Proof.Machine.execWhileNode j node s
      | .graphEnqueueArrive j node => Sys2Proof.Machine.execGraphEnqueueArrive j node s
      | .contextStop ctx cause => Sys2Proof.Machine.execContextStop ctx cause s
      | .stopReport ctx => Sys2Proof.Machine.execStopReport ctx s
      | .debuggerHalt ctx => Sys2Proof.Machine.execDebuggerHalt ctx s
      | .debuggerResume ctx => Sys2Proof.Machine.execDebuggerResume ctx s
      | .hostWrite pa bs => Sys2Proof.Machine.execHostWrite pa bs s
      | .hostRead a n => Sys2Proof.Machine.execHostRead a n s
      | .hostAtomicop pa x o y c => Sys2Proof.Machine.execHostAtomicop pa x o y c s
      | .peerWrite pa bs => Sys2Proof.Machine.execPeerWrite pa bs s
      | .peerRead pa n => Sys2Proof.Machine.execPeerRead pa n s
      | .peerAtomic pa x o y c => Sys2Proof.Machine.execPeerAtomic pa x o y c s
      | .ethernetRx port bs fcs => Sys2Proof.Machine.execEthernetRx port bs fcs s
      | .ethernetTx port => Sys2Proof.Machine.execEthernetTx port s
      | .lambdaRenew port lambda => Sys2Proof.Machine.execLambdaRenew port lambda s
      | .flitReplay link => Sys2Proof.Machine.execFlitReplay link s
      | .linkFail l => Sys2Proof.Machine.execLinkFail l s
      | .hostLeasePass => Sys2Proof.Machine.execHostLeasePass s
      | .eccCorrected die c => Sys2Proof.Machine.execEccCorrected die c s
      | .registerPoison t w reg lane => Sys2Proof.Machine.execRegisterPoison t w reg lane s
      | .uncorrectableStateError ctx => Sys2Proof.Machine.execUncorrectableStateError ctx s
      | .sectorLoss die sector => Sys2Proof.Machine.execSectorLoss die sector s
      | .thermalThrottle x temp => Sys2Proof.Machine.execThermalThrottle x temp s
      | .thermalShutdown die temp => Sys2Proof.Machine.execThermalShutdown die temp s
      | .powerLimit x => Sys2Proof.Machine.execPowerLimit x s
      | .deviceReset images => Sys2Proof.Machine.execDeviceReset images s
      | .matrixUnitRetention die core unit => Sys2Proof.Machine.execMatrixUnitRetention die core unit s
      | .debuggerAttach ctx on1 => Sys2Proof.Machine.execDebuggerAttach ctx on1 s
      | .portLock port peer lambda => Sys2Proof.Machine.execPortLock port peer lambda s
      | .remotePipeRequest pipe commit slot bs => Sys2Proof.Machine.execRemotePipeRequest pipe commit slot bs s

end Sys2Proof.Machine
end

