-- ==== Sys2Proof/Machine/Step.lean ====
section
/-! DEFINITION. One step: an input of the environment, or the next instruction of the gang whose turn it is. -/

namespace Sys2Proof.Machine

/-- What the environment may do by a row of the table: events and commands, but not what an instruction of a warp does itself. -/
def Instr.fromOutside (i : Instr) : Bool :=
  !i.encoded &&
    match i with
    | .illegalInstruction _ _ => false
    | .apply _ _ => false
    | .tresumeResume _ _ => false
    | .tresumeResumeWithout _ _ => false
    | .tresumeStop _ _ => false
    | _ => true

/-! ### The next issuer (03 R59, 07 R117, 18 R315)

The clusters of the package take turns, one instruction each: the spec orders only the issues of one cluster (DESIGN CHOICE:
assumption log 1). -/

/-- Every gang that can issue, by its lowest slice. -/
def Mach.turns (m : Mach) : List Turn :=
  m.numbered.flatMap fun (x : Nat × Team) => (List.range x.2.warps.length).flatMap fun w => (List.finRange 8).filterMap fun j =>
    let t : Turn := { t := x.1, w := w, slice := j.val }
    match x.2.warps[w]? with
    | some y => if (y.slices.at j).gang = j.val ∧ ({ m with turn := t } : Mach).issuer.isSome then some t else none
    | none => none

/-- Lexicographic order. -/
def before : List Nat → List Nat → Bool
  | a :: as, b :: bs => decide (a < b) || (decide (a = b) && before as bs)
  | _, _ => false

/-- Where a gang stands among those of its cluster, the first lowest: an aged gang before every level, the oldest first; then the
boost, the priority, and round-robin the warp and its gang that issued longest ago (18 R315, 03 R59). -/
def Mach.rank (m : Mach) (t : Turn) : List Nat :=
  match m.teams[t.t]?, m.warp? t.t t.w with
  | some team, some x =>
    let j : Fin 8 := ⟨t.slice % 8, by omega⟩
    let round := [((List.finRange 8).map x.last.at).foldl max 0, x.last.at j]
    if x.aged.getLsbD j.val then 0 :: (m.now - x.idle.at j) :: round
    else 1 :: (!team.boost).toNat :: (7 - team.prio) :: round
  | _, _ => []

/-- The first of some gangs. -/
def Mach.firstOf (m : Mach) : List Turn → Option Turn
  | [] => none
  | t :: ts =>
    match m.firstOf ts with
    | none => some t
    | some u => if before (m.rank u) (m.rank t) then some u else some t

/-- What a cluster issues next of some gangs: nothing but the chain that it is in (07 R117). -/
def Mach.pick (m : Mach) (ts : List Turn) (k : Nat × Nat × Fin 4) : Option Turn :=
  let mine := ts.filter fun t => decide (m.clusterOf t.t t.w = some k)
  match m.chainsIn k with
  | [] => m.firstOf mine
  | q :: _ => mine.find? fun t => decide ((t.t, t.w) = q) && m.ownsChain t.t t.w ⟨t.slice % 8, by omega⟩

/-- The number of a cluster among the 768 of a package. -/
def clusterNumber (k : Nat × Nat × Fin 4) : Nat := (k.1 * 24 + k.2.1) * 4 + k.2.2.val

/-- What every cluster issues next of some gangs, with its number. -/
def Mach.picks (m : Mach) (ts : List Turn) : List (Nat × Turn) :=
  let ks := (ts.filterMap fun t => m.clusterOf t.t t.w).foldl (fun l k => if l.contains k then l else k :: l) []
  ks.filterMap fun k => (m.pick ts k).map fun t => (clusterNumber k, t)

/-- The pick of the first cluster from number `n` on that has one. -/
def pickFrom (n : Nat) (ps : List (Nat × Turn)) : Option Turn :=
  (ps.find? fun p => ps.all fun q => decide ((p.1 + 768 - n % 768) % 768 ≤ (q.1 + 768 - n % 768) % 768)).map Prod.snd

/-- The number of the cluster whose turn it is. -/
def Mach.turnCluster (m : Mach) : Nat := ((m.clusterOf m.turn.t m.turn.w).map clusterNumber).getD 0

/-- The turn given to the first cluster from number `n` on that has a gang to issue. Gangs whose last issue stalled come again when
one has gone on, or when there is no other. -/
def Mach.turnFrom (m : Mach) (n : Nat) : Mach :=
  match pickFrom n (m.picks (m.turns.filter fun t => !m.tried.contains t)) with
  | some t => { m with turn := t }
  | none =>
    match pickFrom n (m.picks m.turns) with
    | some t => { m with turn := t, tried := [] }
    | none => m

/-- The gang that issues next: that of the cluster whose turn it is. -/
def Mach.choose (m : Mach) : Mach := m.turnFrom m.turnCluster

/-! ### Fetch, decode and run -/

/-- How many retired instructions of its open chain a gang runs again when the fetch of its next instruction takes a precise fault
(07 R119). -/
def Mach.chainAgain (m : Mach) (g : Issue) : Nat :=
  match g.chain with
  | some c => if m.inChain g.team g.warp then c.len else 0
  | none => 0

/-- A fault of the fetch (13 R248): the warp stands at the instruction being fetched, at the LIMM of its unit (07 R111); a precise
fault inside a chain resumes at its head (07 R119). -/
def Mach.fetchFault (m : Mach) (g : Issue) (cause gstate va : Nat) : Mach :=
  let agent := (((m.ctx? g.team.ctx).bind fun c => findRange c.ranges va).map RangeDesc.agent).getD 0
  let pc := m.trapPc g
  let redo := decide (causeClass cause = 2) || decide (cause = 0x37)
  let n := if redo then 0 else m.chainAgain g
  let rpc := if n = 0 then pc else (g.chain.map Chain.head).getD pc
  (m.modWarp g.t g.w (Warp.rewind · (if n = 0 then m.unit.isSome.toNat else n))).takeEvent g.t g.w g.gang rpc
    (if redo then pc else g.pc + 4) none redo false { m.lateRec g cause gstate agent va with pc := pc, rpc := rpc }

/-- The instruction that the fetch finds, run. -/
def fetched (s : State) (g : Issue) (f : Fetch × Mach) : Host.Outcome State Fault Refusal :=
  match f.1 with
  | .held => .next { s with m := f.2 }
  | .fault c gs va => .next { s with m := f.2.fetchFault g c gs va }
  | .bytes bs =>
    match decode bs with
    | .ok i => exec i { s with m := f.2 }
    | .error c => exec (.illegalInstruction c (wordOf bs)) { s with m := f.2 }

/-- The issuing gang fetches, decodes and runs its instruction. -/
def issueStep (s : State) (g : Issue) : Host.Outcome State Fault Refusal :=
  fetched s g (s.m.fetch g.team.die g.core g.warp.cluster g.team.ctx g.pc g.team.super (decide (g.warp.replayFetch &&& g.gang ≠ 0)))

/-- What a warp takes at its instruction boundary before it issues: a late fault found while it was stopped or saved (21 R366, R372),
an engine fault (19 R351), or its forced save (03 R62). -/
def Mach.beforeIssue (m : Mach) (g : Issue) : Option Mach :=
  if m.unit.isSome then none
  else if (g.warp.flight.head?.map Flight.faulted).getD false then some (m.settleOldest g.t g.w).2
  else if g.warp.engFault ≠ [] then some (m.takeEngFault g.t g.w)
  else m.forcedSave g.t g.w

/-- After an issue the debugger halts of the cycle fall due and the turn passes to the next cluster, but not between a LIMM and its
follower (21 R371, 07 R111). `second` says that the follower has issued. -/
def Mach.afterIssue (m : Mach) (g : Issue) (second : Bool) : Mach :=
  let m1 := m.noteIssue g
  match m1.unit, second with
  | some _, false => m1
  | some _, true => let m2 := (m1.backToLimm g).doHalts; m2.turnFrom (m2.turnCluster + 1)
  | none, _ => let m2 := m1.doHalts; m2.turnFrom (m2.turnCluster + 1)

/-- The gang that `turn` names issues; the turn then passes on. -/
def issueTurn (s : State) : Host.Outcome State Fault Refusal :=
  match s.m.issuer with
  | none => .next { s with m := s.m.doHalts }
  | some g =>
    match s.m.beforeIssue g with
    | some m => .next { s with m := m.afterIssue g false }
    | none =>
      match issueStep s g with
      | .next t => .next { t with m := t.m.afterIssue g s.m.unit.isSome }
      | o => o

/-! ### Inputs of the environment (DESIGN CHOICE: assumption log 5, 7) -/

/-- A warp as cycles pass: YCNT counts while PREQ is set, unless the warp waits for its handler (03 R62, 21 R372). `ready` says which
slices are ready (18 R316). -/
def Warp.tick (x : Warp) (ready : Fin 8 → Bool) (n : Nat) : Warp :=
  if x.run = .ready then
    { x with ycnt := if x.preq then x.ycnt - n else x.ycnt, idle := tab fun j => if ready j then x.idle.at j + n else x.idle.at j }
  else x

/-- Whether the instruction of a gang stalls it: issued now, it would not go on. A unit of LIMM stalls with its follower (07 R111). -/
def State.stalls (s : State) (g : Issue) : Bool :=
  let waits := fun m : Mach => m.unit.isSome || match m.warp? g.t g.w with
    | some x => decide (x.run = .ready) && !g.goesOn x
    | none => false
  match issueStep s g with
  | .next t =>
    match t.m.unit, t.m.issuer with
    | some _, some h => match issueStep t h with
      | .next u => waits u.m
      | _ => false
    | _, _ => waits t.m
  | _ => false

/-- Whether slice `j` of a warp is ready: its gang can issue, no instruction stalls it, and its stage is not descheduled (18 R316). -/
def State.sliceReady (s : State) (t w : Nat) (team : Team) (x : Warp) (j : Fin 8) : Bool :=
  let m := { s.m with turn := { t := t, w := w, slice := (x.slices.at j).gang } }
  !team.desched && match m.issuer with
    | some g => g.gang.getLsbD j.val && ((m.beforeIssue g).isSome || !State.stalls { s with m := m } g)
    | none => false

/-- Cycles pass. -/
def State.tick (s : State) (n : Nat) : State :=
  { s with m := { s.m with
      now := s.m.now + n
      teams := s.m.numbered.map fun (q : Nat × Team) =>
        if s.m.ctxRuns q.2.ctx && decide (q.2.phase = .running) then
          { q.2 with warps := (List.range q.2.warps.length).filterMap fun w =>
              (q.2.warps[w]?).map fun x => x.tick (s.sliceReady q.1 w q.2 x) n }
        else q.2 } }

/-- An input of the environment taken. A switch under way ends in the cycles that pass (23 R389). An input may give the turn to another cluster, but not choose what that cluster issues. -/
def takeInput (s : State) (x : Input) : Host.Outcome State Fault Refusal :=
  match x with
  | .row i => if Instr.fromOutside i then exec i s else .next s
  | .turn t => always s fun m => if (m.picks m.turns).any fun p => decide (p.2 = t) then { m with turn := t } else m
  | .tick n => .next (State.tick { s with m := s.m.doHalts.endSwitch } n)
  | .evictL1 d c l => always s fun m => m.modCore d c fun x => { x with l1 := x.l1.drop l }
  | .evictL2 d l => always s fun m => m.replaceLine d l
  | .evictInstr d c l => always s fun m => m.modCore d c fun x => { x with icache := x.icache.drop l }
  | .evictRange d c k => always s fun m => m.modCore d c fun x => { x with rtab := x.rtab.eraseIdx k }
  | .evictScale d c k => always s fun m => m.modCore d c fun x => { x with scale := x.scale.eraseIdx k }
  | .evictLlc l => always s fun m => { m with llcLines := m.llcLines.filter (· ≠ l), llcDirty := m.llcDirty.filter (· ≠ l) }
  | .evictLoop d c q => always s fun m => m.modCore d c fun x => { x with loops := x.loops.put q [] }

/-- One step: a unit of LIMM is completed first, then an input is taken, else the next gang issues. A package that is powered down does
nothing (23 R397). -/
def step (s : State) : Host.Outcome State Fault Refusal :=
  if s.m.poweredDown then .next s
  else if s.m.unit.isSome then issueTurn s
  else
    match s.m.inputs with
    | x :: xs => takeInput { s with m := { s.m with inputs := xs, tried := [] } } x
    | [] => issueTurn { s with m := s.m.choose }

/-! ### An instruction placed where the next step fetches it (DESIGN CHOICE: assumption log 2) -/

/-- The address at which a program of `withFetchWord` stands when no gang can issue. -/
def programVA : Nat := 0x10000

/-- A context with one granule of code, and one running team of one warp at privilege S, for a machine in which nothing runs. -/
def Mach.withProgram (m : Mach) : Mach :=
  let id := ((List.range 512).find? fun i => (m.ctx? i).isNone).getD 0
  let code : RangeDesc :=
    { baseg := programVA / 65536, lastg := programVA / 65536, offs := 0, prd := true, pwr := true, pex := true, pat := true, cls := 0
      sonly := false, agent := 0, isPartial := false, denyf := false, mapva := 0, peer := 0, maporg := 0 }
  let c : Context :=
    { id := id, part := 0, y := 0, q := 0, sdbase := 0, sdcnt := 0, hkdesc := 0, route := 0, sysva := 0, qtva := 0, saveva := 0
      ranges := [code], halt := none, haltDue := false, debugger := false, traps := [], stops := [], stopOwn := false, stopDie := 0, reported := false }
  let k : KDesc :=
    { entry := programVA, vregs := 64, span := false, teamw := 1, nbar := 16, frames := 64, tlanes := 32, nshape := 0, shapes := 0 }
  let q : Spot := { linear := 0, gx := 1, gy := 1, gz := 1, dies := [0], die := 0, core := 0 }
  let g : Given :=
    { ctx := id, part := 0, job := 0, plan := none, graph := none, args := 0, argsz := 0, super := true, cor := false, prio := 0
      served := none }
  let m1 := { m with contexts := m.contexts ++ [c], turn := { t := m.teams.length, w := 0, slice := 0 } }
  { m1 with teams := m1.teams ++ [m1.freshTeam k [] q g .running] }

/-- A byte where the fetch of a core reads it: at its home, with no other copy of its line, no tag and no poison. -/
def Mach.placeByte (m : Mach) (d c k : Nat) (b : Byte) : Mach :=
  let m1 := (m.modDie d fun x =>
    { x with
      l2 := x.l2.drop (lineOf k), dirty := Mem.erase x.dirty k, dirtyAt := x.dirtyAt.filter (· ≠ k)
      hdirty := Mem.erase x.hdirty k, hdirtyAt := x.hdirtyAt.filter (· ≠ k), lost := x.lost.filter (· ≠ sectorOf k) }).modCore d c fun x =>
    { x with icache := x.icache.drop (lineOf k), loops := tab fun _ => [] }
  { m1 with
    home := Mem.put m1.home k b, tags := m1.tags.filter fun t => t.1 / 4 ≠ lineOf k
    poisoned := m1.poisoned.filter (· ≠ sectorOf k) }

/-- The bytes of an instruction placed at the PC of the issuing gang. -/
def Mach.placeCode (m : Mach) (bs : List Byte) : Mach :=
  match m.issuer with
  | none => m
  | some g => (List.range bs.length).foldl (fun m i =>
      match m.keyOf g.team.ctx (g.pc + i) with
      | some k => m.placeByte g.team.die g.core k (bs.getD i 0)
      | none => m) m

/-- The machine with the instruction whose bits are `w` where the next step fetches it: no input and no unit of LIMM comes first, and
every other gang has to wait for the one that issues next. -/
def State.withFetchWord (s : State) (nbits w : Nat) : State :=
  let m := { s.m with inputs := [], unit := none, poweredDown := false }.choose
  let m1 := if m.issuer.isSome then m else m.withProgram
  { s with m := { m1.placeCode (bytesOf 20 (w % 2 ^ nbits)) with tried := m1.turns.filter (· ≠ m1.turn) } }

end Sys2Proof.Machine
end

