-- ==== Sys2Proof/Safety.lean ====
section
/-! DEFINITION. The vocabulary of the claims: when an instruction is executed normally, what it then leaves, and the results that
the tables of the spec give, written from those tables and not from the machine's operations. -/

namespace Sys2Proof.Machine

/-! ### When the issuing gang executes an instruction normally -/

/-- The gang `g` issues, and no condition of issue stops instruction `i`: no rule of a melded region is broken (03 R55), every name
lies below V (03 R41), its privilege is held (07 R120), every latch that it reads is full and of its kind (07 R115), no register that
it names awaits a value (12 R220), retirement order does not hold it back (21 R362) and no register that it reads is poisoned
(21 R373). -/
structure Admits (m : Mach) (g : Issue) (i : Instr) : Prop where
  issues : m.issuer = some g
  region : g.breaksMeld i i.uses = false
  pairs : g.lanes.any (g.oddName i.uses) = false
  belowV : g.aboveV i.uses = false
  privilege : ((i.uses.super && !g.team.super) || i.uses.denied) = false
  latches : g.warp.latchMisuse i.uses = false
  ready : g.hazard i.uses = false
  order : g.held i.uses = false
  sound : g.poisoned i.uses = none

/-- As `Admits`, for an instruction that also waits for every earlier memory instruction of its warp (21 R362). -/
structure AdmitsLast (m : Mach) (g : Issue) (i : Instr) : Prop extends Admits m g i where
  alone : g.warp.flight = []

/-! ### What retirement leaves (07 R114, R115; 09 R170) -/

/-- The address after the instruction. -/
def Issue.after (g : Issue) (i : Instr) : Nat := g.pc + i.size

/-- The next PC of an instruction that transfers no control (09 R170). -/
def Issue.nextPc (g : Issue) (i : Instr) : Nat :=
  match g.warp.loopEnd (g.after i) with
  | some l => if g.warp.lc.at l = 1 then g.after i else g.warp.ls.at l
  | none => g.after i

/-- The loop counters after it (09 R170). -/
def Issue.nextLc (g : Issue) (i : Instr) : Tab 3 Word :=
  match g.warp.loopEnd (g.after i) with
  | some l => g.warp.lc.put l (g.warp.lc.at l - 1)
  | none => g.warp.lc

/-- Whether it returns to the start of a loop, which ends a chain (07 R116). -/
def Issue.loopsBack (g : Issue) (i : Instr) : Bool :=
  match g.warp.loopEnd (g.after i) with
  | some l => decide (g.warp.lc.at l ≠ 1)
  | none => false

/-- No latch holds a value. -/
def emptyLatches : Tab 4 (Option Latch) := tab fun _ => none

/-- The latches after an instruction that is no latch writer (07 R115, R116). -/
def Issue.latchesKept (g : Issue) (i : Instr) : Tab 4 (Option Latch) :=
  if g.loopsBack i || i.uses.ending || !i.uses.readsLatch then emptyLatches else g.warp.b

/-- The latches after a latch writer (07 R114 to R116): its result in b0, the others moved up. -/
def Issue.latchesWritten (g : Issue) (i : Instr) (r : Latch) : Tab 4 (Option Latch) :=
  if g.loopsBack i || i.uses.ending then emptyLatches
  else tab fun k => if k = 0 then some r else if i.uses.readsLatch then g.warp.b.at ⟨k.val - 1, by omega⟩ else none

/-- The warp without what every retirement or trap may change: latches, program counters, loop counters, the marks of chains, skids and
replays, the instruction count of a region and the numbers of retired instructions. -/
def Warp.still (x : Warp) : Warp :=
  { x with
    b := emptyLatches, lc := tab fun _ => 0, slices := tab fun j => { x.slices.at j with pc := 0 }, chain := none
    flight := x.flight.map fun f => { f with skid := 0 }, meld := x.meld.map fun r => { r with count := 0 }
    replayData := 0, replayFetch := 0, retired := 0, nonmem := 0 }

/-- The whole state is as before but for the issuing warp, which becomes `x`, and for the LIMM that the instruction completes. -/
def State.withWarp (s : State) (g : Issue) (x : Warp) : State := { s with m := { s.m.setWarp g x with unit := none } }

/-- Instruction `i` retires without a transfer of control: the program counters of the gang and the loop counters are those of
09 R170, the other slices stay where they are. -/
structure GoesOn (g : Issue) (i : Instr) (x : Warp) : Prop where
  pcs : ∀ j, (x.slices.at j).pc = if g.gang.getLsbD j.val then g.nextPc i % 2 ^ 48 else (g.warp.slices.at j).pc
  loops : x.lc = g.nextLc i

/-- The state that a lane-by-lane result `r` leaves (07 R114): in active lanes the register that each lane's name of `d` selects
holds the result and is no longer poisoned, every other register of every lane is unchanged; so is all else but for b0. -/
structure WritesLanes (s : State) (g : Issue) (i : Instr) (d : Dst) (r : Fin 32 → Word) (x : Warp) : Prop where
  answers : exec i s = .next (s.withWarp g x)
  goes : GoesOn g i x
  regs : ∀ n l, (x.v.at n).at l = if !d.w && g.active l && decide (g.warp.name d.n l = n) then r l else (g.warp.v.at n).at l
  poison : ∀ n l, (n, l) ∈ x.poison ↔ (n, l) ∈ g.warp.poison ∧ ¬ (d.w = false ∧ g.active l = true ∧ g.warp.name d.n l = n)
  latches : x.b = g.latchesWritten i { scalar := false, val := tab fun l => if g.active l then r l else 0 }
  frame : x.still = ({ g.warp with v := x.v, poison := x.poison } : Warp).still

/-- The state that a scalar result leaves (07 R114). -/
structure WritesScalar (s : State) (g : Issue) (i : Instr) (d : SDst) (r : Word) (x : Warp) : Prop where
  answers : exec i s = .next (s.withWarp g x)
  goes : GoesOn g i x
  regs : ∀ n, x.s.at n = if !d.w && decide (d.n = n) then r else g.warp.s.at n
  latches : x.b = g.latchesWritten i { scalar := true, val := tab fun _ => r }
  frame : x.still = ({ g.warp with s := x.s } : Warp).still

/-- The state that an instruction leaves which writes only the mask CM: `c l` in active lanes, every other bit unchanged. -/
structure WritesCm (s : State) (g : Issue) (i : Instr) (c : Fin 32 → Bool) (x : Warp) : Prop where
  answers : exec i s = .next (s.withWarp g x)
  goes : GoesOn g i x
  bits : ∀ l : Fin 32, x.cm.getLsbD l.val = if g.active l then c l else g.warp.cm.getLsbD l.val
  latches : x.b = g.latchesKept i
  frame : x.still = ({ g.warp with cm := x.cm } : Warp).still

/-- The state that an instruction leaves whose only effect on its warp is that of `f`, which touches nothing that every retirement
may change. -/
structure Changes (s : State) (g : Issue) (i : Instr) (f : Warp → Warp) (x : Warp) : Prop where
  answers : exec i s = .next (s.withWarp g x)
  goes : GoesOn g i x
  latches : x.b = g.latchesKept i
  frame : x.still = (f g.warp).still

/-! ### Integer results (09 R158, R159; 10 R188 to R191) -/

namespace Spec

/-- A number as a word: mod 2^32. -/
def word (n : Int) : Word := BitVec.ofInt 32 n

def add (x y : Word) : Word := word (x.toInt + y.toInt)
def sub (x y : Word) : Word := word (x.toInt - y.toInt)
def mul (x y : Word) : Word := word (x.toInt * y.toInt)
/-- Bits 63 to 32 of the signed and of the unsigned product. -/
def mulh (x y : Word) : Word := word (x.toInt * y.toInt / 2 ^ 32)
def mulhU (x y : Word) : Word := word ((x.toNat * y.toNat / 2 ^ 32 : Nat) : Int)
/-- sh is y mod 32. -/
def shl (x y : Word) : Word := word ((x.toNat * 2 ^ (y.toNat % 32) : Nat) : Int)
def srl (x y : Word) : Word := word ((x.toNat / 2 ^ (y.toNat % 32) : Nat) : Int)
def sra (x y : Word) : Word := word (x.toInt / 2 ^ (y.toNat % 32))
def min (x y : Word) : Word := word (Min.min x.toInt y.toInt)
def max (x y : Word) : Word := word (Max.max x.toInt y.toInt)
def minU (x y : Word) : Word := word ((Min.min x.toNat y.toNat : Nat) : Int)
def maxU (x y : Word) : Word := word ((Max.max x.toNat y.toNat : Nat) : Int)
def abs (x : Word) : Word := word x.toInt.natAbs
/-- The number of zero bits above the highest set one. -/
def clz (x : Word) : Word := word (if x = 0 then 32 else 31 - (Nat.log2 x.toNat : Int))
def popc (x : Word) : Word := word (((List.finRange 32).filter fun i => x.getLsbD i.val).length : Int)
def brev (x : Word) : Word := x.reverse
/-- sat of 07 R122. -/
def sat (x lo hi : Int) : Int := if x < lo then lo else if x > hi then hi else x
/-- The n of VSAT. -/
def satWidth (y : Word) : Nat := if y.toNat % 64 = 0 ∨ y.toNat % 64 > 32 then 32 else y.toNat % 64
def vsat (x y : Word) : Word :=
  word (if y.getLsbD 6 then sat x.toInt 0 (2 ^ satWidth y - 1)
    else sat x.toInt (-(2 ^ (satWidth y - 1))) (2 ^ (satWidth y - 1) - 1))
/-- Division that truncates toward zero, and the remainder that goes with it. -/
def div (x y : Word) : Word := word (x.toInt.tdiv y.toInt)
def rem (x y : Word) : Word := word (x.toInt - y.toInt * x.toInt.tdiv y.toInt)
def divU (x y : Word) : Word := word ((x.toNat / y.toNat : Nat) : Int)
def remU (x y : Word) : Word := word ((x.toNat : Int) - y.toNat * (x.toNat / y.toNat : Nat))
/-- The conditions of 07 R113. -/
def cond (c : ICond) (x y : Word) : Bool :=
  match c with
  | .eq => decide (x = y)
  | .ne => decide (x ≠ y)
  | .lt => decide (x.toInt < y.toInt)
  | .le => decide (x.toInt ≤ y.toInt)
  | .gt => decide (x.toInt > y.toInt)
  | .ge => decide (x.toInt ≥ y.toInt)
  | .ltu => decide (x.toNat < y.toNat)
  | .leu => decide (x.toNat ≤ y.toNat)
  | .gtu => decide (x.toNat > y.toNat)
  | .geu => decide (x.toNat ≥ y.toNat)

end Spec

/-- A result lane by lane from two sources. -/
def lane2 (a b : Src) (op : Word → Word → Word) (_ : Mach) (g : Issue) (l : Fin 32) : Word := op (g.warp.src a l) (g.warp.src b l)
/-- A result lane by lane from a source and the immediate. -/
def laneI (a : Src) (k : Fin 128) (op : Word → Word → Word) (m : Mach) (g : Issue) (l : Fin 32) : Word := op (g.warp.src a l) (m.imm k)
/-- A result lane by lane from one source. -/
def lane1 (a : Src) (op : Word → Word) (_ : Mach) (g : Issue) (l : Fin 32) : Word := op (g.warp.src a l)

/-- The lane-by-lane integer instructions with their destinations and results (10 R188 to R191, R193, R203). -/
inductive LaneResult : Instr → Dst → (Mach → Issue → Fin 32 → Word) → Prop where
  | vadd d a b : LaneResult (.vadd d a b) d (lane2 a b Spec.add)
  | vaddImm d a k : LaneResult (.vaddImm d a k) d (laneI a k Spec.add)
  | vsub d a b : LaneResult (.vsub d a b) d (lane2 a b Spec.sub)
  | vmul d a b : LaneResult (.vmul d a b) d (lane2 a b Spec.mul)
  | vmulImm d a k : LaneResult (.vmulImm d a k) d (laneI a k Spec.mul)
  | vmulh d a b : LaneResult (.vmulh d a b) d (lane2 a b Spec.mulh)
  | vmulhU d a b : LaneResult (.vmulhU d a b) d (lane2 a b Spec.mulhU)
  | vand d a b : LaneResult (.vand d a b) d (lane2 a b (· &&& ·))
  | vandImm d a k : LaneResult (.vandImm d a k) d (laneI a k (· &&& ·))
  | vor d a b : LaneResult (.vor d a b) d (lane2 a b (· ||| ·))
  | vorImm d a k : LaneResult (.vorImm d a k) d (laneI a k (· ||| ·))
  | vxor d a b : LaneResult (.vxor d a b) d (lane2 a b (· ^^^ ·))
  | vxorImm d a k : LaneResult (.vxorImm d a k) d (laneI a k (· ^^^ ·))
  | vshl d a b : LaneResult (.vshl d a b) d (lane2 a b Spec.shl)
  | vshlImm d a k : LaneResult (.vshlImm d a k) d (laneI a k Spec.shl)
  | vsrl d a b : LaneResult (.vsrl d a b) d (lane2 a b Spec.srl)
  | vsrlImm d a k : LaneResult (.vsrlImm d a k) d (laneI a k Spec.srl)
  | vsra d a b : LaneResult (.vsra d a b) d (lane2 a b Spec.sra)
  | vsraImm d a k : LaneResult (.vsraImm d a k) d (laneI a k Spec.sra)
  | vmin d a b : LaneResult (.vmin d a b) d (lane2 a b Spec.min)
  | vminImm d a k : LaneResult (.vminImm d a k) d (laneI a k Spec.min)
  | vminU d a b : LaneResult (.vminU d a b) d (lane2 a b Spec.minU)
  | vminUImm d a k : LaneResult (.vminUImm d a k) d (laneI a k Spec.minU)
  | vmax d a b : LaneResult (.vmax d a b) d (lane2 a b Spec.max)
  | vmaxImm d a k : LaneResult (.vmaxImm d a k) d (laneI a k Spec.max)
  | vmaxU d a b : LaneResult (.vmaxU d a b) d (lane2 a b Spec.maxU)
  | vmaxUImm d a k : LaneResult (.vmaxUImm d a k) d (laneI a k Spec.maxU)

/-- The other lane-by-lane integer instructions (10 R189 to R191, R193). -/
inductive LaneResult' : Instr → Dst → (Mach → Issue → Fin 32 → Word) → Prop where
  | vmad d a b : LaneResult' (.vmad d a b) d fun _ g l => Spec.add (Spec.mul (g.warp.src a l) (g.warp.src b l)) (g.warp.src (.v d.n) l)
  | vabs d a : LaneResult' (.vabs d a) d (lane1 a Spec.abs)
  | vclz d a : LaneResult' (.vclz d a) d (lane1 a Spec.clz)
  | vpopc d a : LaneResult' (.vpopc d a) d (lane1 a Spec.popc)
  | vbrev d a : LaneResult' (.vbrev d a) d (lane1 a Spec.brev)
  | vsat d a b : LaneResult' (.vsat d a b) d (lane2 a b Spec.vsat)
  | vsatImm d a k : LaneResult' (.vsatImm d a k) d (laneI a k Spec.vsat)
  | vsel d a b : LaneResult' (.vsel d a b) d fun _ g l => if g.warp.cm.getLsbD l.val then g.warp.src a l else g.warp.src b l

/-- The scalar instructions with their destinations and results (09 R158, R162). -/
inductive ScalarResult : Instr → SDst → (Mach → Issue → Word) → Prop where
  | sadd d a b : ScalarResult (.sadd d a b) d fun _ g => Spec.add (g.warp.one a) (g.warp.one b)
  | saddImm d a k : ScalarResult (.saddImm d a k) d fun m g => Spec.add (g.warp.one a) (m.imm k)
  | ssub d a b : ScalarResult (.ssub d a b) d fun _ g => Spec.sub (g.warp.one a) (g.warp.one b)
  | smul d a b : ScalarResult (.smul d a b) d fun _ g => Spec.mul (g.warp.one a) (g.warp.one b)
  | smulImm d a k : ScalarResult (.smulImm d a k) d fun m g => Spec.mul (g.warp.one a) (m.imm k)
  | smulh d a b : ScalarResult (.smulh d a b) d fun _ g => Spec.mulh (g.warp.one a) (g.warp.one b)
  | smulhU d a b : ScalarResult (.smulhU d a b) d fun _ g => Spec.mulhU (g.warp.one a) (g.warp.one b)
  | sand d a b : ScalarResult (.sand d a b) d fun _ g => g.warp.one a &&& g.warp.one b
  | sandImm d a k : ScalarResult (.sandImm d a k) d fun m g => g.warp.one a &&& m.imm k
  | sor d a b : ScalarResult (.sor d a b) d fun _ g => g.warp.one a ||| g.warp.one b
  | sorImm d a k : ScalarResult (.sorImm d a k) d fun m g => g.warp.one a ||| m.imm k
  | sxor d a b : ScalarResult (.sxor d a b) d fun _ g => g.warp.one a ^^^ g.warp.one b
  | sxorImm d a k : ScalarResult (.sxorImm d a k) d fun m g => g.warp.one a ^^^ m.imm k
  | sshl d a b : ScalarResult (.sshl d a b) d fun _ g => Spec.shl (g.warp.one a) (g.warp.one b)
  | sshlImm d a k : ScalarResult (.sshlImm d a k) d fun m g => Spec.shl (g.warp.one a) (m.imm k)
  | ssrl d a b : ScalarResult (.ssrl d a b) d fun _ g => Spec.srl (g.warp.one a) (g.warp.one b)
  | ssrlImm d a k : ScalarResult (.ssrlImm d a k) d fun m g => Spec.srl (g.warp.one a) (m.imm k)
  | ssra d a b : ScalarResult (.ssra d a b) d fun _ g => Spec.sra (g.warp.one a) (g.warp.one b)
  | ssraImm d a k : ScalarResult (.ssraImm d a k) d fun m g => Spec.sra (g.warp.one a) (m.imm k)
  | smin d a b : ScalarResult (.smin d a b) d fun _ g => Spec.min (g.warp.one a) (g.warp.one b)
  | sminU d a b : ScalarResult (.sminU d a b) d fun _ g => Spec.minU (g.warp.one a) (g.warp.one b)
  | smax d a b : ScalarResult (.smax d a b) d fun _ g => Spec.max (g.warp.one a) (g.warp.one b)
  | smaxU d a b : ScalarResult (.smaxU d a b) d fun _ g => Spec.maxU (g.warp.one a) (g.warp.one b)
  | smov d a : ScalarResult (.smov d a) d fun _ g => g.warp.one a
  | sli d k : ScalarResult (.sli d k) d fun m _ => m.imm k
  | ssel d a b : ScalarResult (.ssel d a b) d fun _ g =>
      if ∃ l, g.active l = true ∧ g.warp.cm.getLsbD l.val = true then g.warp.one a else g.warp.one b

/-- The four divisions (09 R159). -/
inductive Division : Instr → SDst → Src → Src → (Word → Word → Word) → Prop where
  | sdiv d a b : Division (.sdiv d a b) d a b Spec.div
  | sdivU d a b : Division (.sdivU d a b) d a b Spec.divU
  | srem d a b : Division (.srem d a b) d a b Spec.rem
  | sremU d a b : Division (.sremU d a b) d a b Spec.remU

/-! ### Correct rounding (05 R74, R83 to R87), over the rational numbers -/

namespace Spec

/-- The formats of the float instructions. -/
def format (f : FFmt) : Prop := f = F32 ∨ f = F16 ∨ f = BF16

/-- The fields of a pattern (05 R74). -/
def fraction (f : FFmt) (x : Nat) : Nat := x % 2 ^ f.fw
def exponent (f : FFmt) (x : Nat) : Nat := x / 2 ^ f.fw % 2 ^ f.ew
def negative (f : FFmt) (x : Nat) : Bool := decide (x / 2 ^ (f.fw + f.ew) % 2 = 1)

/-- A pattern of a number, of a NaN, and of a NaN that signals. -/
def finite (f : FFmt) (x : Nat) : Prop := x < 2 ^ (1 + f.ew + f.fw) ∧ exponent f x ≠ 2 ^ f.ew - 1
def isNan (f : FFmt) (x : Nat) : Prop := exponent f x = 2 ^ f.ew - 1 ∧ fraction f x ≠ 0
def signals (f : FFmt) (x : Nat) : Prop := isNan f x ∧ fraction f x < 2 ^ (f.fw - 1)

/-- The value of a number (05 R74). -/
def value (f : FFmt) (x : Nat) : ℚ :=
  (if negative f x then -1 else 1) *
    if exponent f x = 0 then (fraction f x : ℚ) * 2 ^ (1 - f.bias - f.fw)
    else (2 ^ f.fw + fraction f x : ℚ) * 2 ^ ((exponent f x : Int) - f.bias - f.fw)

/-- The largest finite value and the spacing of the values below it, the smallest normal value and the spacing below that. -/
def largest (f : FFmt) : ℚ := (2 ^ (f.fw + 1) - 1) * 2 ^ (f.bias - f.fw)
def topUlp (f : FFmt) : ℚ := 2 ^ (f.bias - f.fw)
def smallest (f : FFmt) : ℚ := 2 ^ (1 - f.bias)
def lowUlp (f : FFmt) : ℚ := 2 ^ (1 - f.bias - f.fw)

/-- A value rounds in magnitude above the largest finite value (05 R87). -/
def overflows (f : FFmt) (r : Rm) (v : ℚ) : Prop :=
  match r with
  | .rne => largest f + topUlp f / 2 ≤ |v|
  | .rtz => largest f + topUlp f ≤ |v|
  | .rdn => v < -largest f ∨ largest f + topUlp f ≤ v
  | .rup => largest f < v ∨ v ≤ -(largest f + topUlp f)

/-- A value that is not 0 rounds, with an unbounded exponent, in magnitude below the smallest normal value: tiny (05 R87). -/
def tiny (f : FFmt) (r : Rm) (v : ℚ) : Prop :=
  match r with
  | .rne => |v| < smallest f - lowUlp f / 4
  | .rtz => |v| < smallest f
  | .rdn => -(smallest f - lowUlp f / 2) ≤ v ∧ v < smallest f
  | .rup => -smallest f < v ∧ v ≤ smallest f - lowUlp f / 2

/-- No value of the format lies nearer to `v` in the direction of the mode than that of `x` (05 R83). -/
def nearest (f : FFmt) (r : Rm) (v : ℚ) (x : Nat) : Prop :=
  let w := value f x
  match r with
  | .rne => ∀ u, finite f u → |v - w| ≤ |v - value f u| ∧ (|v - w| = |v - value f u| → value f u = w ∨ x % 2 = 0)
  | .rtz => |w| ≤ |v| ∧ ∀ u, finite f u → |value f u| ≤ |v| → |value f u| ≤ |w|
  | .rdn => w ≤ v ∧ ∀ u, finite f u → value f u ≤ v → value f u ≤ w
  | .rup => v ≤ w ∧ ∀ u, finite f u → v ≤ value f u → w ≤ value f u

/-- Whether an overflow gives an infinity, by mode and sign; else the largest finite value. -/
def toInfinity (r : Rm) (neg : Bool) : Bool :=
  match r with
  | .rne => true
  | .rtz => false
  | .rdn => neg
  | .rup => !neg

/-- `q` is the exact value `v` rounded once to a format, with the exceptions of a rounding (05 R84, R87); an exact zero has the sign
`neg`. -/
structure Rounds (f : FFmt) (r : Rm) (v : ℚ) (neg : Bool) (q : Nat × Exc) : Prop where
  zero : v = 0 → q = (f.sign neg, Exc.none)
  sign : v ≠ 0 → q.1 < 2 ^ (1 + f.ew + f.fw) ∧ (negative f q.1 = true ↔ v < 0)
  within : ¬ overflows f r v → finite f q.1 ∧ nearest f r v q.1
  above : overflows f r v → q.1 = if toInfinity r (decide (v < 0)) then f.infBits (decide (v < 0)) else f.maxBits (decide (v < 0))
  overflow : q.2.of = true ↔ overflows f r v
  underflow : q.2.uf = true ↔ v ≠ 0 ∧ tiny f r v ∧ value f q.1 ≠ v
  inexact : q.2.ix = true ↔ overflows f r v ∨ value f q.1 ≠ v
  others : q.2.iv = false ∧ q.2.dz = false

/-- The sign of an exact zero that is a sum: that of its terms where both are zeros of one sign `s = t`, else the mode's (05 R84). -/
def zeroSum (r : Rm) (zeros : Prop) [Decidable zeros] (s t : Bool) : Bool := if zeros ∧ s = t then s else decide (r = .rdn)

/-- `n` is `v` rounded to an integer (05 R83). -/
def integer (r : Rm) (v : ℚ) (n : Int) : Prop :=
  match r with
  | .rne => |v - n| ≤ 1 / 2 ∧ (|v - n| = 1 / 2 → n % 2 = 0)
  | .rtz => |(n : ℚ)| ≤ |v| ∧ |v - n| < 1 ∧ 0 ≤ v * n
  | .rdn => (n : ℚ) ≤ v ∧ v < n + 1
  | .rup => (n : ℚ) - 1 < v ∧ v ≤ n

/-- `q` is `v` rounded to an integer and saturated to I32, with IV outside its range (05 R85). -/
def ToInteger (r : Rm) (v : ℚ) (q : Int × Exc) : Prop :=
  ∃ n, integer r v n ∧ q.1 = sat n (-(2 ^ 31)) (2 ^ 31 - 1) ∧ (q.2.iv = true ↔ q.1 ≠ n) ∧ (q.2.ix = true ↔ (q.1 : ℚ) ≠ v) ∧
    q.2.dz = false ∧ q.2.of = false ∧ q.2.uf = false

end Spec

/-! ### 16-bit forms, moves and packing (07 R101, R102; 10 R200, R203) -/

/-- A five-bit field as a signed number. -/
def Spec.sext5 (i : Fin 32) : Word := Spec.word (if i.val < 16 then i.val else (i.val : Int) - 32)

/-- The element of VPACK.I16. -/
def Spec.sat16 (x : Word) : Int := Spec.sat x.toInt (-32768) 32767

/-- The 16-bit forms: the destination is the first source, or the only operand of VMOV and VNEG is the second (07 R102). -/
inductive ShortResult : Instr → Fin 64 → (Issue → Fin 32 → Word) → Prop where
  | vadd d c : ShortResult (.vaddShort d c) d fun g l => Spec.add (g.warp.src (.v d) l) (g.warp.src (shortSrc c) l)
  | vsub d c : ShortResult (.vsubShort d c) d fun g l => Spec.sub (g.warp.src (.v d) l) (g.warp.src (shortSrc c) l)
  | vand d c : ShortResult (.vandShort d c) d fun g l => g.warp.src (.v d) l &&& g.warp.src (shortSrc c) l
  | vor d c : ShortResult (.vorShort d c) d fun g l => g.warp.src (.v d) l ||| g.warp.src (shortSrc c) l
  | vxor d c : ShortResult (.vxorShort d c) d fun g l => g.warp.src (.v d) l ^^^ g.warp.src (shortSrc c) l
  | vshl d c : ShortResult (.vshlShort d c) d fun g l => Spec.shl (g.warp.src (.v d) l) (g.warp.src (shortSrc c) l)
  | vsrl d c : ShortResult (.vsrlShort d c) d fun g l => Spec.srl (g.warp.src (.v d) l) (g.warp.src (shortSrc c) l)
  | vsra d c : ShortResult (.vsraShort d c) d fun g l => Spec.sra (g.warp.src (.v d) l) (g.warp.src (shortSrc c) l)
  | vmin d c : ShortResult (.vminShort d c) d fun g l => Spec.min (g.warp.src (.v d) l) (g.warp.src (shortSrc c) l)
  | vmax d c : ShortResult (.vmaxShort d c) d fun g l => Spec.max (g.warp.src (.v d) l) (g.warp.src (shortSrc c) l)
  | vmov d c : ShortResult (.vmovShort d c) d fun g l => g.warp.src (shortSrc c) l
  | vneg d c : ShortResult (.vneg d c) d fun g l => Spec.sub 0 (g.warp.src (shortSrc c) l)
  | vaddi d i : ShortResult (.vaddi d i) d fun g l => Spec.add (g.warp.src (.v d) l) (Spec.sext5 i)

/-- The moves and VPACK.I16. -/
inductive MoveResult : Instr → Dst → (Mach → Issue → Fin 32 → Word) → Prop where
  | vmov d a : MoveResult (.vmov d a) d fun _ g l => g.warp.src a l
  | vmovk d k : MoveResult (.vmovk d k) d fun m _ _ => m.imm k
  | vpackI16 d a b : MoveResult (.vpackI16 d a b) d fun _ g l =>
      Spec.word (Spec.sat16 (g.warp.src a l) % 65536 + 65536 * (Spec.sat16 (g.warp.src b l) % 65536))

/-! ### Float results (10 R194 to R202, R208, R209) -/

/-- A float result lane by lane from two sources and from one. -/
def laneF2 (a b : Src) (op : Nat → Nat → Nat × Exc) (_ : Mach) (g : Issue) (l : Fin 32) : Nat × Exc :=
  op (g.warp.srcF32 a l).toNat (g.warp.srcF32 b l).toNat
def laneF1 (a : Src) (op : Nat → Nat × Exc) (_ : Mach) (g : Issue) (l : Fin 32) : Nat × Exc := op (g.warp.srcF32 a l).toNat

/-- The result of a 32-bit multiply-add, and of the two halves of a 16-bit one (10 R198). -/
def laneFma (d : Dst) (a b : Src) (na np : Bool) (r : Rm) (_ : Mach) (g : Issue) (l : Fin 32) : Nat × Exc :=
  ffma F32 r np na (g.warp.srcF32 a l).toNat (g.warp.srcF32 b l).toNat (g.warp.src (.v d.n) l).toNat
def laneFmaHalves (f : FFmt) (d : Dst) (a b : Src) (na np : Bool) (r : Rm) (_ : Mach) (g : Issue) (l : Fin 32) : Nat × Exc :=
  let x := (g.warp.srcHalves f a l).toNat
  let y := (g.warp.srcHalves f b l).toNat
  let z := (g.warp.src (.v d.n) l).toNat
  let lo := ffma f r np na (x % 65536) (y % 65536) (z % 65536)
  let hi := ffma f r np na (x / 65536) (y / 65536) (z / 65536)
  (lo.1 + 65536 * hi.1, lo.2.or hi.2)

/-- Two F32 values converted and packed (10 R200). -/
def packed (f : FFmt) (r : Rm) (x y : Nat) : Nat × Exc :=
  ((fcvt F32 f r x).1 + 65536 * (fcvt F32 f r y).1, (fcvt F32 f r x).2.or (fcvt F32 f r y).2)

/-- The arithmetic float instructions, with the value of each lane's result and the exceptions that it raises. -/
inductive FloatResult : Instr → Dst → (Mach → Issue → Fin 32 → Nat × Exc) → Prop where
  | vfadd d a b r : FloatResult (.vfadd d a b r) d (laneF2 a b (fadd F32 r))
  | vfsub d a b r : FloatResult (.vfsub d a b r) d (laneF2 a b (fsub F32 r))
  | vfmul d a b r : FloatResult (.vfmul d a b r) d (laneF2 a b (fmul F32 r))
  | vfmin d a b : FloatResult (.vfmin d a b) d (laneF2 a b (fminmax F32 false))
  | vfmax d a b : FloatResult (.vfmax d a b) d (laneF2 a b (fminmax F32 true))
  | vfabs d a : FloatResult (.vfabs d a) d (laneF1 a (fsignOp F32 true))
  | vfneg d a : FloatResult (.vfneg d a) d (laneF1 a (fsignOp F32 false))
  | vfmaF32 d a b na np r : FloatResult (.vfmaF32 d a b na np r) d (laneFma d a b na np r)
  | vfmaH2 d a b na np r : FloatResult (.vfmaH2 d a b na np r) d (laneFmaHalves F16 d a b na np r)
  | vfmaB2 d a b na np r : FloatResult (.vfmaB2 d a b na np r) d (laneFmaHalves BF16 d a b na np r)
  | vfaddShort d c : FloatResult (.vfaddShort d c) ⟨false, d⟩ (laneF2 (.v d) (shortSrc c) (fadd F32 .rne))
  | vfsubShort d c : FloatResult (.vfsubShort d c) ⟨false, d⟩ (laneF2 (.v d) (shortSrc c) (fsub F32 .rne))
  | vfmulShort d c : FloatResult (.vfmulShort d c) ⟨false, d⟩ (laneF2 (.v d) (shortSrc c) (fmul F32 .rne))

/-- The special functions (10 R196). -/
inductive SpecialFunction : Instr → Dst → (Mach → Issue → Fin 32 → Nat × Exc) → Prop where
  | vfrcp d a : SpecialFunction (.vfrcp d a) d (laneF1 a frcp)
  | vfrsq d a : SpecialFunction (.vfrsq d a) d (laneF1 a frsq)
  | vfexp2 d a : SpecialFunction (.vfexp2 d a) d (laneF1 a fexp2)
  | vflog2 d a : SpecialFunction (.vflog2 d a) d (laneF1 a flog2)
  | vfsin d a : SpecialFunction (.vfsin d a) d (laneF1 a fsin)
  | vfcos d a : SpecialFunction (.vfcos d a) d (laneF1 a fcos)
  | vftanh d a : SpecialFunction (.vftanh d a) d (laneF1 a ftanh)

/-- The conversions and VUNPK (10 R199 to R201). -/
inductive Conversion : Instr → Dst → (Mach → Issue → Fin 32 → Nat × Exc) → Prop where
  | toF32 d a r : Conversion (.vcvtF32I32 d a r) d fun _ g l => fofInt F32 r (g.warp.src a l).toInt
  | toI32 d a r : Conversion (.vcvtI32F32 d a r) d fun _ g l =>
      let q := ftoInt F32 r (g.warp.srcF32 a l).toNat
      ((Spec.word q.1).toNat, q.2)
  | toF16 d a r : Conversion (.vcvtF16F32 d a r) d (laneF1 a (fcvt F32 F16 r))
  | toBf16 d a r : Conversion (.vcvtBf16F32 d a r) d (laneF1 a (fcvt F32 BF16 r))
  | ofF16 d a : Conversion (.vcvtF32F16 d a) d fun _ g l => fcvt F16 F32 .rne ((g.warp.srcHalves F16 a l).toNat % 65536)
  | ofBf16 d a : Conversion (.vcvtF32Bf16 d a) d fun _ g l => fcvt BF16 F32 .rne ((g.warp.srcHalves BF16 a l).toNat % 65536)
  | packH2 d a b r : Conversion (.vpackH2 d a b r) d (laneF2 a b (packed F16 r))
  | packB2 d a b r : Conversion (.vpackB2 d a b r) d (laneF2 a b (packed BF16 r))
  | unpack d a b u : Conversion (.vunpk d a b u) d fun _ g l => unpack u (g.warp.src a l) (g.warp.src b l)

/-- The lanes of the tile of lane `l` (03 R57, 10 R204), ascending. -/
def Issue.tileLanes (g : Issue) (l : Fin 32) : List (Fin 32) := tileOf (tileSize g.warp.part) l

/-- The reductions over the active lanes of a tile and the scans up to a lane (10 R208, R209). -/
inductive Reduction : Instr → Dst → (Mach → Issue → Fin 32 → Nat × Exc) → Prop where
  | vred d a o : Reduction (.vred d a o) d fun _ g l => combine o (((g.tileLanes l).filter g.active).map (g.warp.srcRed o a))
  | vscan d a o : Reduction (.vscan d a o) d fun _ g l =>
      combine o (((g.tileLanes l).filter fun j => g.active j && decide (j.val ≤ l.val)).map (g.warp.srcRed o a))

/-- Every lane-by-lane instruction that can raise float exceptions. -/
def RaisesFloat (i : Instr) (d : Dst) (r : Mach → Issue → Fin 32 → Nat × Exc) : Prop :=
  FloatResult i d r ∨ SpecialFunction i d r ∨ Conversion i d r ∨ Reduction i d r

/-- No active lane raises an exception that FTEN enables (05 R89). -/
def Issue.quiet (g : Issue) (f : Fin 32 → Exc) : Prop := ∀ l, g.active l = true → (f l).traps g.warp.ften = false

/-- VQNT's block: the values of the active lanes, 0 in the others (10 R202). -/
def Issue.block (g : Issue) (a : Src) : List Nat := (List.finRange 32).map fun j => if g.active j then (g.warp.srcF32 a j).toNat else 0

/-! ### Masks and compares (09 R161, R176, R177; 10 R192, R197) -/

/-- The compares, with the bit that each active lane takes. -/
inductive Compare : Instr → (Mach → Issue → Fin 32 → Bool) → Prop where
  | vcmp c a b : Compare (.vcmp c a b) fun _ g l => Spec.cond c (g.warp.src a l) (g.warp.src b l)
  | vcmpImm c a k : Compare (.vcmpImm c a k) fun m g l => Spec.cond c (g.warp.src a l) (m.imm k)
  | scmp c a b : Compare (.scmp c a b) fun _ g _ => Spec.cond c (g.warp.one a) (g.warp.one b)
  | scmpImm c a k : Compare (.scmpImm c a k) fun m g _ => Spec.cond c (g.warp.one a) (m.imm k)

/-- A write of a mask: bit `l` becomes `c l` where `on l`, the other bits and the other mask are unchanged. -/
structure WritesMask (s : State) (g : Issue) (i : Instr) (k : MaskName) (on c : Fin 32 → Bool) (x : Warp) : Prop where
  answers : exec i s = .next (s.withWarp g x)
  goes : GoesOn g i x
  bits : ∀ l : Fin 32, (x.mask k).getLsbD l.val = if on l then c l else (g.warp.mask k).getLsbD l.val
  latches : x.b = g.latchesKept i
  frame : x.still = (g.warp.setMask k (x.mask k)).still

/-- The mask instructions that write a mask (09 R177): the lanes that may be written and the bits. -/
inductive MaskResult : Instr → MaskName → (Issue → Fin 32 → Bool) → (Issue → Fin 32 → Bool) → Prop where
  | mrest k a : MaskResult (.mrest k a) k (fun g => g.writable k) fun g l => (g.warp.one a).getLsbD l.val
  | mand k a : MaskResult (.mand k a) k (fun g => g.writable k) fun g l => (g.warp.mask k).getLsbD l.val && (g.warp.one a).getLsbD l.val
  | mor k a : MaskResult (.mor k a) k (fun g => g.writable k) fun g l => (g.warp.mask k).getLsbD l.val || (g.warp.one a).getLsbD l.val
  | mandn k a : MaskResult (.mandn k a) k (fun g => g.writable k) fun g l => (g.warp.mask k).getLsbD l.val && !(g.warp.one a).getLsbD l.val
  | mxor k a : MaskResult (.mxor k a) k (fun g => g.writable k) fun g l => xor ((g.warp.mask k).getLsbD l.val) ((g.warp.one a).getLsbD l.val)
  | mset k a : MaskResult (.mset k a) k (fun g => g.active) fun g l => g.warp.src a l != 0

/-- The mask instructions that read a mask into a scalar register (09 R177). -/
inductive MaskRead : Instr → SDst → (Issue → Word) → Prop where
  | msave d k : MaskRead (.msave d k) d fun g => g.warp.mask k
  | mpop d k : MaskRead (.mpop d k) d fun g => Spec.popc (g.warp.mask k)
  | mfirst d k : MaskRead (.mfirst d k) d fun g =>
      Spec.word ((((List.finRange 32).find? fun l => (g.warp.mask k).getLsbD l.val).map fun l => (l.val : Int)).getD 32)

/-! ### Cross-lane instructions (10 R203, R205 to R207, R210) -/

/-- Where the lane of a shuffle reads (10 R206): none if that lies outside the tile of `n` lanes. `u` is the suffix. -/
def Spec.from_ (u : Fin 4) (n : Nat) (l : Fin 32) (y : Word) : Option Nat :=
  let p := l.val % n
  let t0 := l.val - p
  match u with
  | 0 => some (t0 + y.toNat % n)
  | 1 => if y.toNat ≤ p then some (l.val - y.toNat) else none
  | 2 => if p + y.toNat < n then some (l.val + y.toNat) else none
  | 3 => some (t0 + (p ^^^ (y.toNat % n)))

/-- The shuffles and broadcasts, with the lane that each lane reads. -/
inductive Shuffle : Instr → Dst → Src → (Mach → Issue → Fin 32 → Option Nat) → Prop where
  | vshfl d a b u : Shuffle (.vshfl d a b u) d a fun _ g l => Spec.from_ u (tileSize g.warp.part) l (g.warp.src b l)
  | vshflImm d a k u : Shuffle (.vshflImm d a k u) d a fun m g l => Spec.from_ u (tileSize g.warp.part) l (m.imm k)
  | vbcast d a b : Shuffle (.vbcast d a b) d a fun _ g l => Spec.from_ 0 (tileSize g.warp.part) l (g.warp.one b)
  | vbcastImm d a k : Shuffle (.vbcastImm d a k) d a fun m g l => Spec.from_ 0 (tileSize g.warp.part) l (m.imm k)

/-- The value that a shuffle reads from lane `q`, its own if there is none, 0 from an inactive lane; and CM (10 R206). -/
def Issue.shuffled (g : Issue) (a : Src) (l : Fin 32) : Option Nat → Word
  | none => g.warp.src a l
  | some q => if g.active (laneAt q) then g.warp.src a (laneAt q) else 0
def Issue.shuffledCm (g : Issue) : Option Nat → Bool
  | none => false
  | some q => g.active (laneAt q)

/-- The state that a shuffle leaves: a result lane by lane, and CM of the active lanes. -/
structure WritesShuffle (s : State) (g : Issue) (i : Instr) (d : Dst) (r : Fin 32 → Word) (c : Fin 32 → Bool) (x : Warp) : Prop where
  answers : exec i s = .next (s.withWarp g x)
  goes : GoesOn g i x
  regs : ∀ n l, (x.v.at n).at l = if !d.w && g.active l && decide (g.warp.name d.n l = n) then r l else (g.warp.v.at n).at l
  poison : ∀ n l, (n, l) ∈ x.poison ↔ (n, l) ∈ g.warp.poison ∧ ¬ (d.w = false ∧ g.active l = true ∧ g.warp.name d.n l = n)
  bits : ∀ l : Fin 32, x.cm.getLsbD l.val = if g.active l then c l else g.warp.cm.getLsbD l.val
  latches : x.b = g.latchesWritten i { scalar := false, val := tab fun l => if g.active l then r l else 0 }
  frame : x.still = ({ g.warp with v := x.v, poison := x.poison, cm := x.cm } : Warp).still

/-- No active lane of `on` holds a poisoned register that the source names (21 R373). -/
def Issue.unpoisoned (g : Issue) (a : Src) (on : Fin 32 → Bool) : Prop :=
  ∀ n l, a = .v n → on l = true → g.active l = true → (g.warp.name n l, l) ∉ g.warp.poison

/-- A vote's result in a lane (10 R205): over the lanes of its tile that the member mask selects, of which those vote that are active
and hold a value that is not 0. -/
def Issue.vote (g : Issue) (a b : Src) (u : Fin 4) (l : Fin 32) : Word :=
  let member := fun j : Fin 32 => (g.warp.one b).getLsbD j.val
  let yes := fun j : Fin 32 => member j && g.active j && decide (g.warp.src a j ≠ 0)
  let any := (g.tileLanes l).any yes
  let all := (g.tileLanes l).all fun j => !member j || yes j
  match u with
  | 0 => if any then 1 else 0
  | 1 => if all then 1 else 0
  | 2 => laneMask fun j => (g.tileLanes l).contains j && yes j
  | 3 => if all || !any then 1 else 0

/-- Whether VMOVS reads one value rather than a lane of a vector (10 R203). -/
def Issue.single (g : Issue) : Src → Bool
  | .s _ => true
  | .c _ => true
  | .b n => match g.warp.b.at n with
    | some y => y.scalar
    | none => false
  | _ => false

/-! ### Scalar pairs (09 R160) -/

/-- The state that a result in a scalar pair leaves. -/
structure WritesPair (s : State) (g : Issue) (i : Instr) (d : Fin 32) (r : Nat) (x : Warp) : Prop where
  answers : exec i s = .next (s.withWarp g x)
  goes : GoesOn g i x
  regs : ∀ n, x.s.at n = if n = nextS d then BitVec.ofNat 32 (r / 2 ^ 32) else if n = d then BitVec.ofNat 32 r else g.warp.s.at n
  latches : x.b = g.latchesKept i
  frame : x.still = ({ g.warp with s := x.s } : Warp).still

/-- The 64-bit additions. -/
inductive PairResult : Instr → Fin 32 → (Mach → Issue → Nat) → Prop where
  | saddD d a b : PairResult (.saddD d a b) d fun _ g => (g.warp.pair a + g.warp.pair b) % 2 ^ 64
  | saddDImm d a k : PairResult (.saddDImm d a k) d fun m g => (((g.warp.pair a : Int) + (m.imm k).toInt) % 2 ^ 64).toNat

/-! ### Other changes of the warp -/

/-- The instructions whose only effect is one on the warp's own state, with the condition on their operands and the effect: PART.TILE
(10 R210), regions and their tables (10 R211 to R213), FTEN and PART by SYSW (09 R181), NOP, and YIELD without a request (03 R62). -/
inductive WarpEffect (m : Mach) (g : Issue) : Instr → (Warp → Warp) → Prop where
  | setpart b : (g.warp.one b).toNat ≤ 4 → WarpEffect m g (.setpart b) fun x => { x with part := (g.warp.one b).setWidth 16 }
  | setpartImm k : (m.imm k).toNat ≤ 4 → WarpEffect m g (.setpartImm k) fun x => { x with part := (m.imm k).setWidth 16 }
  | meld four a b (r : Meld) : g.ganged = true → r.saved = g.warp.exec → r.count = 0 →
      (∀ l : Fin 32, (r.path.at l).map (·.val) = if g.warp.exec.getLsbD l.val
        then some ((if (g.warp.one a).getLsbD l.val then 1 else 0) + if four && (g.warp.one b).getLsbD l.val then 2 else 0) else none) →
      WarpEffect m g (.meld four a b) fun x => { x with meld := some r }
  | melde (r : Meld) : g.warp.meld = some r → WarpEffect m g .melde fun x => { x with exec := r.saved, meld := none }
  | mtw d k (p : Fin 4) (e : Fin 16) : g.warp.meld = none → (m.imm k).toNat = 16 * p.val + e.val →
      WarpEffect m g (.mtw d k) fun x => { x with ren := x.ren.put p ((x.ren.at p).put e d) }
  | kset (p e : Fin 4) b : g.warp.meld = none →
      WarpEffect m g (.kset ⟨4 * p.val + e.val, by omega⟩ b) fun x => { x with k := x.k.put p ((x.k.at p).put e (g.warp.one b)) }
  | ksetImm (p e : Fin 4) k : g.warp.meld = none →
      WarpEffect m g (.ksetImm ⟨4 * p.val + e.val, by omega⟩ k) fun x => { x with k := x.k.put p ((x.k.at p).put e (m.imm k)) }
  | part b : (g.warp.one b).toNat ≤ 4 → WarpEffect m g (.sysw 16 b) fun x => { x with part := (g.warp.one b).setWidth 16 }
  | partImm k : (m.imm k).toNat ≤ 4 → WarpEffect m g (.syswImm 16 k) fun x => { x with part := (m.imm k).setWidth 16 }
  | ften b : (g.warp.one b).toNat < 32 → WarpEffect m g (.sysw 17 b) fun x => { x with ften := g.warp.one b }
  | ftenImm k : (m.imm k).toNat < 32 → WarpEffect m g (.syswImm 17 k) fun x => { x with ften := m.imm k }
  | nop : WarpEffect m g .nop id
  | yield : g.warp.preq = false → WarpEffect m g .yield id

/-! ### Control (09 R163 to R175, 03 R47 to R52) -/

/-- PC + 2 * OFF, mod 2^48 (09 R163). -/
def Spec.target (pc : Nat) (o : BitVec 16) : Nat := (((pc : Int) + 2 * o.toInt) % 2 ^ 48).toNat

/-- The state that a transfer of the whole gang to `pc` leaves, with the effect `f` on the warp's own state: every instruction that
transfers control ends a chain and empties the latches (07 R115, R116). -/
structure Jumps (s : State) (g : Issue) (i : Instr) (pc : Nat) (f : Warp → Warp) (x : Warp) : Prop where
  answers : exec i s = .next (s.withWarp g x)
  pcs : ∀ j, (x.slices.at j).pc = if g.gang.getLsbD j.val then pc % 2 ^ 48 else (g.warp.slices.at j).pc
  loops : x.lc = (f g.warp).lc
  latches : x.b = emptyLatches
  frame : x.still = (f g.warp).still

/-- The transfers of the whole gang: their target and their effect on the warp (09 R164, R167 to R171; 03 R55). -/
inductive Transfer (g : Issue) : Instr → Nat → (Warp → Warp) → Prop where
  | bra o : (g.warp.meld = none ∨ 0 < o.toInt) → Transfer g (.bra o) (Spec.target g.pc o) id
  | jmp x : g.warp.pair (.s x) % 2 = 0 → Transfer g (.jmp x) (g.warp.pair (.s x)) id
  | ret x : g.warp.pair (.s x) % 2 = 0 → Transfer g (.ret x) (g.warp.pair (.s x)) id
  | call o x : Transfer g (.call o x) (Spec.target g.pc o) fun y => y.setPair x ((g.pc + 4) % 2 ^ 48)
  | skip o x l : g.warp.s.at x = 0 → Transfer g (.loop o x l) (Spec.target g.pc o) fun y =>
      { y with ls := y.ls.put l ((g.pc + 4) % 2 ^ 48), le := y.le.put l (Spec.target g.pc o), lc := y.lc.put l 0 }
  | lbrk x (l : Fin 3) : x.val = l.val → g.warp.lc.at l ≠ 0 → Transfer g (.lbrk x) (g.warp.le.at l) fun y =>
      { y with lc := tab fun k => if y.ls.at l ≤ y.ls.at k ∧ y.ls.at k < y.le.at l then 0 else y.lc.at k }

/-- The warp with the three registers of a loop level set by LOOP (09 R169). -/
def Issue.loopSet (g : Issue) (o : BitVec 16) (x : Fin 32) (l : Fin 3) : Warp :=
  { g.warp with
    ls := g.warp.ls.put l ((g.pc + 4) % 2 ^ 48), le := g.warp.le.put l (Spec.target g.pc o), lc := g.warp.lc.put l (g.warp.s.at x) }

/-- The state that a LOOP leaves which enters its body (09 R169, R170): it transfers no control, and a loop end at its next
instruction applies with the level that it has set. -/
structure EntersLoop (s : State) (g : Issue) (o : BitVec 16) (x : Fin 32) (l : Fin 3) (y : Warp) : Prop where
  answers : exec (.loop o x l) s = .next (s.withWarp g y)
  goes : GoesOn { g with warp := g.loopSet o x l } (.loop o x l) y
  latches : y.b = emptyLatches
  frame : y.still = (g.loopSet o x l).still

/-- A slice of the issuing gang. -/
abbrev Issue.inGang (g : Issue) (j : Fin 8) : Prop := g.gang.getLsbD j.val = true

/-- The state that an instruction leaves after which each slice of the gang has an outcome of its own (03 R48, R49; 09 R165, R166):
slices whose outcomes agree form a gang, those that do not transfer control reach the loop end once. -/
structure Parts (s : State) (g : Issue) (i : Instr) (o : Fin 8 → Outcome) (x : Warp) : Prop where
  answers : exec i s = .next (s.withWarp g x)
  pcs : ∀ j, (x.slices.at j).pc =
    if g.gang.getLsbD j.val then (if (o j).moves then (o j).pc % 2 ^ 48 else g.nextPc i % 2 ^ 48) else (g.warp.slices.at j).pc
  entries : ∀ j, (x.slices.at j).stack = if g.gang.getLsbD j.val then (o j).stack else (g.warp.slices.at j).stack
  execs : ∀ l : Fin 32, x.exec.getLsbD l.val =
    if g.gang.getLsbD (l.val / 4) then (o (sliceOf l)).exec.getLsbD (l.val % 4) else g.warp.exec.getLsbD l.val
  gangs : ∀ j k, g.inGang j → g.inGang k →
    ((x.slices.at j).gang = (x.slices.at k).gang ↔ (o j).pc = (o k).pc ∧ (o j).moves = (o k).moves)
  others : ∀ j, ¬ g.inGang j → x.slices.at j = g.warp.slices.at j
  loops : x.lc = if ∃ j, g.inGang j ∧ (o j).moves = false then g.nextLc i else g.warp.lc
  latches : x.b = emptyLatches
  frame : x.still = ({ g.warp with exec := x.exec, slices := x.slices } : Warp).still

/-- EXEC of the lanes of slice `j`. -/
def Issue.execOf (g : Issue) (j : Fin 8) : BitVec 4 := BitVec.ofNat 4 (g.warp.exec.toNat / 2 ^ (4 * j.val))

/-- The lanes of slice `j` that take a conditional branch: the active ones whose CM bit is `want` (09 R165). -/
def Issue.takers (g : Issue) (want : Bool) (j : Fin 8) : BitVec 4 :=
  let cm := BitVec.ofNat 4 (g.warp.cm.toNat / 2 ^ (4 * j.val))
  g.execOf j &&& (if want then cm else ~~~cm)

/-- What slice `j` does at BRC or BRC.N (09 R165): it follows its lanes if they agree; else the side of its lowest active lane goes
first, and the other side is pushed. -/
def BrcOutcome (g : Issue) (o : BitVec 16) (want : Bool) (j : Fin 8) (q : Outcome) : Prop :=
  let a := g.execOf j
  let t := g.takers want j
  let stack := (g.warp.slices.at j).stack
  let target := Spec.target g.pc o
  let next := g.pc + 4
  (t = 0 → q = { pc := next, moves := false, exec := a, stack := stack }) ∧
  (t ≠ 0 → t = a → q = { pc := target, moves := true, exec := a, stack := stack }) ∧
  (t ≠ 0 → t ≠ a → ∀ p : Fin 4, a.getLsbD p.val = true → (∀ k : Fin 4, k < p → a.getLsbD k.val = false) →
    q = if t.getLsbD p.val then { pc := target, moves := true, exec := t, stack := ⟨.pending, next % 2 ^ 48, a &&& ~~~t, a⟩ :: stack }
      else { pc := next, moves := false, exec := a &&& ~~~t, stack := ⟨.pending, target, t, a⟩ :: stack })

/-- The outcome of a value at a SWITCH at `pc` (09 R166): the target of the lowest matching case, else what follows the case words. -/
def Spec.caseOf (pc size : Nat) (cs : List SwCase) (x : Word) : Nat × Bool :=
  match cs.find? fun c => decide (x.toNat = c.v.val) with
  | some c => ((((pc : Int) + 2 * c.off.toInt) % 2 ^ 48).toNat, true)
  | none => (pc + size, false)

/-- The lanes of slice `j` that satisfy `p`, four bits. -/
def Spec.laneBits (j : Fin 8) (p : Fin 32 → Bool) : BitVec 4 :=
  let bit := fun k : Fin 4 => if p ⟨4 * j.val + k.val, by omega⟩ then 2 ^ k.val else 0
  BitVec.ofNat 4 (bit 0 + bit 1 + bit 2 + bit 3)

/-- What slice `j` does at a SWITCH (09 R166): `outs` are the distinct outcomes of its active lanes, that of the lowest lane first. The
slice takes the first; each other is pushed with its lanes, the next-lowest on top. -/
def SwitchOutcome (g : Issue) (d : Fin 64) (cs : List SwCase) (j : Fin 8) (q : Outcome) : Prop :=
  let size := (Instr.switch d cs).size
  let out := fun l : Fin 32 => Spec.caseOf g.pc size cs (g.warp.src (.v d) l)
  let mine := fun l : Fin 32 => decide (l.val / 4 = j.val) && g.active l
  let lanes := fun o : Nat × Bool => Spec.laneBits j fun l => mine l && decide (out l = o)
  let stack := (g.warp.slices.at j).stack
  match (((List.finRange 32).filter mine).map out).eraseDups with
  | [] => q = { pc := g.pc + size, moves := false, exec := g.execOf j, stack := stack }
  | o :: os =>
    q = { pc := o.1, moves := o.2, exec := lanes o
          stack := os.map (fun e => ⟨.pending, e.1 % 2 ^ 48, lanes e, Spec.laneBits j mine⟩) ++ stack }

/-- Sub-gangs and divergence stacks have room for what the slices of the gang do (03 R42, R49, R50). -/
def Issue.fits (g : Issue) (m : Mach) (o : Fin 8 → Outcome) : Prop :=
  g.gangCount o ≤ m.gangLimit g ∧ ∀ j, g.inGang j → (o j).stack.length ≤ m.stackDepth g

/-- The state of a rejoin (03 R51, R52): every live slice in one gang, past the instruction. -/
structure Rejoins (s : State) (g : Issue) (i : Instr) (x : Warp) : Prop where
  answers : exec i s = .next (s.withWarp g x)
  goes : GoesOn g i x
  one : ∀ j k, g.inGang j → g.inGang k → (x.slices.at j).gang = (x.slices.at k).gang
  free : ∀ j, g.inGang j → (x.slices.at j).wait = .none
  entries : ∀ j, g.inGang j → (x.slices.at j).stack = (g.regang j).2.2
  execs : ∀ l : Fin 32, x.exec.getLsbD l.val =
    if g.gang.getLsbD (l.val / 4) then (g.regang (sliceOf l)).2.1.getLsbD (l.val % 4) else g.warp.exec.getLsbD l.val
  latches : x.b = emptyLatches
  frame : x.still = ({ g.warp with exec := x.exec, slices := x.slices } : Warp).still

/-- The state of a rejoin of the slices `on` (03 R50, R51; 09 R172): they form one gang that goes on after the instruction, a slice of
the issuing gang with a pending entry goes to its other side, and every other slice stays where it is. -/
structure Merges (s : State) (g : Issue) (i : Instr) (on : Fin 8 → Bool) (x : Warp) : Prop where
  answers : exec i s = .next (s.withWarp g x)
  pcs : ∀ j, (x.slices.at j).pc =
    if on j then g.nextPc i % 2 ^ 48 else if g.gang.getLsbD j.val then ((g.regang j).1.getD g.pc) % 2 ^ 48 else (g.warp.slices.at j).pc
  loops : x.lc = g.nextLc i
  one : ∀ j k, on j = true → on k = true → (x.slices.at j).gang = (x.slices.at k).gang
  apart : ∀ j k, on j = false → on k = false → ¬ g.inGang j → ¬ g.inGang k →
    ((x.slices.at j).gang = (x.slices.at k).gang ↔ (g.warp.slices.at j).gang = (g.warp.slices.at k).gang)
  waits : ∀ j, (x.slices.at j).wait = if on j then .none else (g.warp.slices.at j).wait
  entries : ∀ j, (x.slices.at j).stack = if g.gang.getLsbD j.val then (g.regang j).2.2 else (g.warp.slices.at j).stack
  execs : ∀ l : Fin 32, x.exec.getLsbD l.val =
    if g.gang.getLsbD (l.val / 4) then (g.regang (sliceOf l)).2.1.getLsbD (l.val % 4) else g.warp.exec.getLsbD l.val
  latches : x.b = emptyLatches
  frame : x.still = ({ g.warp with exec := x.exec, slices := x.slices } : Warp).still

/-- The slices that a REGANG.N merges (09 R172): those of the issuing gang without a pending entry, and every live slice at its PC whose
stack is empty and which waits nowhere. -/
def Issue.merged (g : Issue) (j : Fin 8) : Bool :=
  if g.gang.getLsbD j.val then (g.regang j).1.isNone
  else g.live.getLsbD j.val && decide ((g.warp.slices.at j).pc = g.pc % 2 ^ 48) && (g.warp.slices.at j).stack.isEmpty &&
    decide ((g.warp.slices.at j).wait = .none)

/-! ### Traps (21 R360 to R366) -/

/-- The trap record of an event of the issuing warp, with its identity part and PEND (21 R364). -/
def Issue.fullRecord (g : Issue) (m : Mach) (r : TrapRec) : TrapRec :=
  ({ r with pend := g.warp.pendBits (m.haltDue g.team.ctx) } : TrapRec).at g.team g.w g.core

/-- The machine after a trap that Nimom routes to a handler (21 R361, R366): the warp, before as `y`, is stopped with the record `r`, its
slices of the issuing gang at `pc` and its latches empty; no other state of it changes, but for accumulators that a matrix unit held.
The record is queued for a handler; every other warp and team is as before. -/
structure Taken (m : Mach) (g : Issue) (y : Warp) (r : TrapRec) (pc : Nat) (m' : Mach) : Prop where
  stopped : ∃ x p, m'.warp? g.t g.w = some x ∧ x.run = .stopped ∧ x.trap = some p ∧ p.rcd = g.fullRecord m r ∧ p.gang = g.gang ∧
    x.b = emptyLatches ∧ (∀ j, (x.slices.at j).pc = if g.gang.getLsbD j.val then pc % 2 ^ 48 else (y.slices.at j).pc) ∧ x.lc = y.lc ∧
    ({ x with run := y.run, trap := y.trap } : Warp).still = y.drainMma.still
  queued : ∃ va, (m'.ctx? g.team.ctx).map (·.traps) = some (g.ctx.traps ++ [.warp g.t g.w (g.fullRecord m r) va])
  others : ∀ t w, (t, w) ≠ (g.t, g.w) → m'.warp? t w = m.warp? t w
  unit : m'.unit = none

/-- The gang's events of a cause go to a handler: no handler team is trapped itself, and the route of the cause's group is 1
(21 R365, R368). -/
def Issue.routed (g : Issue) (cause : Nat) : Prop := g.team.served = none ∧ g.ctx.routeOf (causeGroup cause) = 1

/-- Where a precise trap of `i` resumes (07 R119): at the chain head if `i` reads a latch. -/
def Issue.resumeAt (g : Issue) (m : Mach) (i : Instr) : Nat :=
  let pc := match m.unit with
    | some u => u.pc
    | none => g.pc
  if i.uses.readsLatch then (g.chain.map Chain.head).getD pc else pc

/-- The operand values and states at which an admitted instruction traps precisely, with the cause. -/
inductive TrapCase (m : Mach) (g : Issue) : Instr → TrapRec → Prop where
  /-- 03 R55: a branch that does not go forward in a region. -/
  | braBack o : g.warp.meld.isSome = true → o.toInt ≤ 0 → TrapCase m g (.bra o) (TrapRec.of 0x07)
  /-- 07 R100: an odd target. -/
  | jmpOdd x : g.warp.pair (.s x) % 2 = 1 → TrapCase m g (.jmp x) (TrapRec.of 0x09)
  | retOdd x : g.warp.pair (.s x) % 2 = 1 → TrapCase m g (.ret x) (TrapRec.of 0x09)
  /-- 09 R171: a loop that is not active. -/
  | lbrk x (l : Fin 3) : x.val = l.val → g.warp.lc.at l = 0 → TrapCase m g (.lbrk x) (TrapRec.of 0x03)
  /-- 03 R58: EXIT of a warp that is not converged. -/
  | exit : g.converged = false → TrapCase m g .exit (TrapRec.of 0x25)
  /-- 10 R210: a tile code above 4. -/
  | setpart b : 4 < (g.warp.one b).toNat → TrapCase m g (.setpart b) (TrapRec.of 0x03)
  | setpartImm k : 4 < (m.imm k).toNat → TrapCase m g (.setpartImm k) (TrapRec.of 0x03)
  /-- 03 R55: MELD needs a ganged warp, MELDE an open region. -/
  | meld four a b : g.ganged = false → TrapCase m g (.meld four a b) (TrapRec.of 0x07)
  | melde : g.warp.meld = none → TrapCase m g .melde (TrapRec.of 0x07)
  /-- 10 R213: the tables are written outside a region only. -/
  | mtw d k : g.warp.meld.isSome = true ∨ 64 ≤ (m.imm k).toNat → TrapCase m g (.mtw d k) (TrapRec.of 0x03)
  | kset k b : g.warp.meld.isSome = true → TrapCase m g (.kset k b) (TrapRec.of 0x03)
  | ksetImm k c : g.warp.meld.isSome = true → TrapCase m g (.ksetImm k c) (TrapRec.of 0x03)
  /-- 10 R202: a mantissa width outside 2 to 8. -/
  | vqnt d a k : ((m.imm k).toNat < 2 ∨ 8 < (m.imm k).toNat) → TrapCase m g (.vqnt d a k) (TrapRec.of 0x03)
  | vdqnt d a k : ((m.imm k).toNat < 2 ∨ 8 < (m.imm k).toNat) → TrapCase m g (.vdqnt d a k) (TrapRec.of 0x03)
  /-- 09 R159. -/
  | div i d a b op : Division i d a b op → g.warp.one b = 0 → TrapCase m g i (TrapRec.of 0x20)
  /-- 03 R57, 05 R88, 21 R367: values that SYSW cannot write to PART, FTEN and TRESUME. -/
  | part b : 5 ≤ (g.warp.one b).toNat → TrapCase m g (.sysw 16 b) (TrapRec.of 0x03)
  | partImm k : 5 ≤ (m.imm k).toNat → TrapCase m g (.syswImm 16 k) (TrapRec.of 0x03)
  | ften b : 32 ≤ (g.warp.one b).toNat → TrapCase m g (.sysw 17 b) (TrapRec.of 0x03)
  | ftenImm k : 32 ≤ (m.imm k).toNat → TrapCase m g (.syswImm 17 k) (TrapRec.of 0x03)
  | tresume b : 8 ≤ (g.warp.one b).toNat ∨ (g.warp.one b).toNat % 4 = 0 → TrapCase m g (.sysw 28 b) (TrapRec.of 0x03)
  | tresumeImm k : 8 ≤ (m.imm k).toNat ∨ (m.imm k).toNat % 4 = 0 → TrapCase m g (.syswImm 28 k) (TrapRec.of 0x03)
  /-- 21 R367: a warp that is no handler, or one that has written TRESUME. -/
  | noHandler b : g.team.served = none ∨ g.team.resumed = true → TrapCase m g (.sysw 28 b) (TrapRec.of 0x03)
  /-- 14 R284, R287: reserved operand values. -/
  | rprot d a b : 32 ≤ (g.warp.one b).toNat → TrapCase m g (.rprot d a b) (TrapRec.of 0x03)
  | rres d a b : (g.warp.one b).toNat % 2 ^ 30 = 0 → TrapCase m g (.rres d a b) (TrapRec.of 0x03)
  /-- 19 R358: no graph node has launched the team, or a number above 255. -/
  | gcond a b : m.condVA g.team = none ∨ 256 ≤ (g.warp.one a).toNat → TrapCase m g (.gcond a b) (TrapRec.of 0x13)

/-- The operations of ERSET on a bound ring, with the source that names it (19 R345). -/
inductive RingName : Instr → Src → Prop where
  | free a : RingName (.ersetFree a) a
  | push a b : RingName (.ersetPush a b) a
  | pop a b : RingName (.ersetPop a b) a
  | waitf a b : RingName (.ersetWaitf a b) a
  | waite a b : RingName (.ersetWaite a b) a

/-- Those with a count, with the sources of both. -/
inductive RingCount : Instr → Src → Src → Prop where
  | push a b : RingCount (.ersetPush a b) a b
  | pop a b : RingCount (.ersetPop a b) a b
  | waitf a b : RingCount (.ersetWaitf a b) a b
  | waite a b : RingCount (.ersetWaite a b) a b

/-- The pipe instructions, with the source that names the pipe; `msg` says that mailboxes are allowed (19 R353, R356). -/
inductive PipeName : Instr → Src → Bool → Prop where
  | prsv d a : PipeName (.prsv d a) a false
  | ptryR d a : PipeName (.ptryR d a) a false
  | pacq d a : PipeName (.pacq d a) a true
  | ptryA d a : PipeName (.ptryA d a) a true
  | pcmt a b : PipeName (.pcmt a b) a false
  | prel a b : PipeName (.prel a b) a true
  | precv d a b : PipeName (.precv d a b) a true

/-- The posts with their kinds (19 R347, R349, R350). -/
inductive Posts : Instr → EngKind → Src → Prop where
  | ecopy a : Posts (.ecopy a) .copy a
  | egath a : Posts (.egath a) .gath a
  | escat a : Posts (.escat a) .scat a
  | ered a : Posts (.ered a) .red a
  | ebcast a : Posts (.ebcast a) .bcast a

/-- The precise traps of instructions that follow every earlier memory instruction of their warp, with the machine that the read of a
descriptor leaves. -/
inductive LastTrap (m : Mach) (g : Issue) : Instr → TrapRec → Mach → Prop where
  /-- 19 R345: a name that no ring can have, and a count outside 1 to DEPTH. -/
  | ringName i a : RingName i a → 16 ≤ (g.warp.one a).toNat → LastTrap m g i (TrapRec.of 0x03) m
  | bindName a b : 16 ≤ (g.warp.one b).toNat → LastTrap m g (.ersetBind a b) (TrapRec.of 0x03) m
  | count i a b : RingCount i a b → (g.warp.one b).toNat = 0 ∨ 4096 < (g.warp.one b).toNat → LastTrap m g i (TrapRec.of 0x03) m
  | deep i a b (h : Fin 16) r : RingCount i a b → (g.warp.one a).toNat = h.val → g.team.rings.at h = some r →
      r.depth < (g.warp.one b).toNat → LastTrap m g i (TrapRec.of 0x03) m
  /-- 19 R343, R345: a ring that is not bound, a descriptor that is not well formed, and no room or too few entries. -/
  | unbound i a b (h : Fin 16) : RingCount i a b → (g.warp.one a).toNat = h.val → g.team.rings.at h = none →
      1 ≤ (g.warp.one b).toNat → (g.warp.one b).toNat ≤ 4096 → LastTrap m g i (TrapRec.of 0x0F) m
  | unboundFree a (h : Fin 16) : (g.warp.one a).toNat = h.val → g.team.rings.at h = none → LastTrap m g (.ersetFree a) (TrapRec.of 0x0F) m
  | badRing a b v m' : (g.warp.one b).toNat < 16 → m.loadNow g (g.warp.pair a) 32 (g.plainly 32) = (.ok v, m') → Ring.parse v = none →
      LastTrap m g (.ersetBind a b) (TrapRec.of 0x0F) m'
  | full a b (h : Fin 16) r : (g.warp.one a).toNat = h.val → g.team.rings.at h = some r → (g.warp.one b).toNat ≤ r.depth →
      (g.warp.one b).toNat ≤ 4096 → r.room < (g.warp.one b).toNat → LastTrap m g (.ersetPush a b) (TrapRec.of 0x10) m
  | short a b (h : Fin 16) r : (g.warp.one a).toNat = h.val → g.team.rings.at h = some r → (g.warp.one b).toNat ≤ r.depth →
      (g.warp.one b).toNat ≤ 4096 → r.held < (g.warp.one b).toNat → LastTrap m g (.ersetPop a b) (TrapRec.of 0x10) m
  /-- 19 R353, R356: a pipe that is not loaded for the context, or is a mailbox where none is allowed; an address that names no slot in
  the state that the instruction needs. -/
  | noPipe i a msg : PipeName i a msg → m.ownPipe g (g.warp.one a).toNat msg = none → LastTrap m g i (TrapRec.of 0x11) m
  | noMailbox d a b p : m.ownPipe g (g.warp.one a).toNat true = some p → p.msg = false → LastTrap m g (.precv d a b) (TrapRec.of 0x11) m
  | noTarget a b : m.pipe? (g.warp.one a).toNat = none → LastTrap m g (.pmsg a b) (TrapRec.of 0x11) m
  | notMsg a b p : m.pipe? (g.warp.one a).toNat = some p → p.msg = false → LastTrap m g (.pmsg a b) (TrapRec.of 0x11) m
  | otherPartition a b p c : m.pipe? (g.warp.one a).toNat = some p → m.ctx? p.ctx = some c → c.part ≠ g.ctx.part →
      LastTrap m g (.pmsg a b) (TrapRec.of 0x11) m
  | noReserved a b p : m.ownPipe g (g.warp.one a).toNat false = some p → p.slotIn (g.warp.pair b) .reserved = none →
      LastTrap m g (.pcmt a b) (TrapRec.of 0x12) m
  | noTaken a b p : m.ownPipe g (g.warp.one a).toNat true = some p → p.slotIn (g.warp.pair b) .taken = none →
      LastTrap m g (.prel a b) (TrapRec.of 0x12) m
  /-- 19 R355. -/
  | statRing d a (h : Fin 16) : (g.warp.one a).toNat = h.val → g.team.rings.at h = none → LastTrap m g (.pstat d a) (TrapRec.of 0x0F) m
  | statPipe d a n : (g.warp.one a).toNat = 0x8000 + n → n < 4096 → m.ownPipe g n true = none → LastTrap m g (.pstat d a) (TrapRec.of 0x11) m
  | statName d a : 16 ≤ (g.warp.one a).toNat → (g.warp.one a).toNat < 0x8000 ∨ 0x9000 ≤ (g.warp.one a).toNat →
      LastTrap m g (.pstat d a) (TrapRec.of 0x03) m
  /-- 19 R346, R347: a descriptor that is not well formed or whose units do not fit, an endpoint that is not bound. -/
  | badPost i kind a v m' o : Posts i kind a → m.loadNow g (g.warp.pair a) 64 (g.plainly 64) = (.ok v, m') →
      o = EngOp.parse g kind (g.warp.pair a) (m'.trapPc g) v → o.wellFormed v = false ∨ (∃ h, h ∈ o.handles ∧ m'.endFits g o h = false) →
      LastTrap m g i (TrapRec.of 0x0E) m'
  | noRing i kind a v m' o h : Posts i kind a → m.loadNow g (g.warp.pair a) 64 (g.plainly 64) = (.ok v, m') →
      o = EngOp.parse g kind (g.warp.pair a) (m'.trapPc g) v → o.wellFormed v = true → (∀ h, h ∈ o.handles → m'.endFits g o h = true) →
      h ∈ o.handles → Mach.ringBound g h = false → LastTrap m g i (TrapRec.of 0x0F) m'
  | noEnd i kind a v m' o h : Posts i kind a → m.loadNow g (g.warp.pair a) 64 (g.plainly 64) = (.ok v, m') →
      o = EngOp.parse g kind (g.warp.pair a) (m'.trapPc g) v → o.wellFormed v = true → (∀ h, h ∈ o.handles → m'.endFits g o h = true) →
      (∀ h, h ∈ o.handles → Mach.ringBound g h = true) → h ∈ o.handles → m'.pipeBound g h = false →
      LastTrap m g i (TrapRec.of 0x11) m'

/-- The gang `g` issues and the tests of issue that come before privilege let `i` pass (07 R121). -/
structure Reaches (m : Mach) (g : Issue) (i : Instr) : Prop where
  issues : m.issuer = some g
  region : g.breaksMeld i i.uses = false
  pairs : g.lanes.any (g.oddName i.uses) = false
  belowV : g.aboveV i.uses = false

/-- The instructions of privilege S (07 R120, 09 R182, 14 R283), but for operand values that are reserved, which take that trap first
(07 R121). -/
inductive Privileged (m : Mach) (g : Issue) : Instr → Prop where
  | sysr n d : sysSuper n.val = true → Privileged m g (.sysr n d)
  | sysw n b : sysSuper n.val = true → (64 ≤ n.val → m.failsApply ⟨(n.val - 64) % 16, by omega⟩ (g.warp.one b) = false) → Privileged m g (.sysw n b)
  | syswImm n k : sysSuper n.val = true → (64 ≤ n.val → m.failsApply ⟨(n.val - 64) % 16, by omega⟩ (m.imm k) = false) →
      Privileged m g (.syswImm n k)
  | rsplit d a : Privileged m g (.rsplit d a)
  | rmerge d a : Privileged m g (.rmerge d a)
  | rpress d a : Privileged m g (.rpress d a)
  | rinval sc a b : Privileged m g (.rinval sc a b)
  | rprot d a b : (g.warp.one b).toNat < 32 → Privileged m g (.rprot d a b)
  | rres d a b : (g.warp.one b).toNat % 2 ^ 30 ≠ 0 → Privileged m g (.rres d a b)

/-! ### Special registers (09 R182, 03 R36, R38, R57, R62; 01 R31; 05 R88) -/

/-- The special registers that any privilege reads, with the value that each lane reads. -/
inductive SpecialReg (f : Fuse) (g : Issue) : Fin 128 → (Fin 32 → Word) → Prop where
  | laneid : SpecialReg f g 0 fun l => BitVec.ofNat 32 l.val
  | warpid : SpecialReg f g 1 fun _ => BitVec.ofNat 32 g.w
  | teamw : SpecialReg f g 2 fun _ => BitVec.ofNat 32 g.team.teamw
  | teamx : SpecialReg f g 3 fun _ => BitVec.ofNat 32 g.team.x
  | teamy : SpecialReg f g 4 fun _ => BitVec.ofNat 32 g.team.y
  | teamz : SpecialReg f g 5 fun _ => BitVec.ofNat 32 g.team.z
  | gridx : SpecialReg f g 6 fun _ => BitVec.ofNat 32 g.team.gx
  | gridy : SpecialReg f g 7 fun _ => BitVec.ofNat 32 g.team.gy
  | gridz : SpecialReg f g 8 fun _ => BitVec.ofNat 32 g.team.gz
  | dieix : SpecialReg f g 9 fun _ => BitVec.ofNat 32 g.team.die
  | dien : SpecialReg f g 10 fun _ => BitVec.ofNat 32 g.team.dien
  | dshare : SpecialReg f g 11 fun _ => BitVec.ofNat 32 g.team.dshare
  | pkgcfg : SpecialReg f g 12 fun _ => f.pkgcfg
  | argl : SpecialReg f g 13 fun _ => BitVec.ofNat 32 g.team.args
  | argh : SpecialReg f g 14 fun _ => BitVec.ofNat 32 (g.team.args / 2 ^ 32 % 2 ^ 16)
  | argsz : SpecialReg f g 15 fun _ => BitVec.ofNat 32 g.team.argsz
  | part : SpecialReg f g 16 fun _ => g.warp.part.setWidth 32
  | ften : SpecialReg f g 17 fun _ => g.warp.ften
  | preq : SpecialReg f g 18 fun _ => if g.warp.preq then 1 else 0
  | ycnt : SpecialReg f g 19 fun _ => BitVec.ofNat 32 (if g.warp.preq then g.warp.ycnt else g.ctx.y)

/-- The registers that only privilege S reads: those of the handler's record (21 R367) and of the cache domains (23 R387). -/
inductive SuperReg (m : Mach) (g : Issue) : Fin 128 → Word → Prop where
  | stopcode r va : g.team.record = some (r, va) → SuperReg m g 24 (BitVec.ofNat 32 (r.image % 2 ^ 24))
  | stopskid r va : g.team.record = some (r, va) → SuperReg m g 25 (BitVec.ofNat 32 (r.skid % 256))
  | trecl r va : g.team.record = some (r, va) → SuperReg m g 26 (BitVec.ofNat 32 va)
  | trech r va : g.team.record = some (r, va) → SuperReg m g 27 (BitVec.ofNat 32 (va / 2 ^ 32 % 2 ^ 16))
  | noRecord n : g.team.record = none → n.val = 24 ∨ n.val = 25 ∨ n.val = 26 ∨ n.val = 27 → SuperReg m g n 0
  | tresume : SuperReg m g 28 0
  | dom (k : Fin 16) : SuperReg m g ⟨64 + k.val, by omega⟩ (m.domCur.at k)

/-! ### Memory instructions (14 R258 to R275, 12 R220, R225) -/

/-- The state that an instruction leaves which goes on, with the effect that takes the machine to `m'` and the effect `f` on its warp. -/
structure Acts (s : State) (g : Issue) (i : Instr) (m' : Mach) (f : Warp → Warp) (x : Warp) : Prop where
  answers : exec i s = .next { s with m := { m'.setWarp g x with unit := none } }
  goes : GoesOn g i x
  latches : x.b = g.latchesKept i
  frame : x.still = (f g.warp).still

/-- The accesses that an instruction asks for: what kind of access, one request for each active lane in ascending order (14 R259), and the
lanes that need none. -/
inductive MemAccess (g : Issue) : Instr → Shot → List Ask → List (Nat × Nat × Nat) → Prop where
  | ld d a b z : MemAccess g (.ld d a b z) ⟨.ifg, .load false, .die, 2 ^ z.val, false, .load, anyClass⟩
      (g.asks false (g.warp.address a b) d fun _ => 0) []
  | ldSigned d a b z : MemAccess g (.ldSigned d a b z) ⟨.ifg, .load true, .die, 2 ^ z.val, false, .load, anyClass⟩
      (g.asks false (g.warp.address a b) d fun _ => 0) []
  | st d a b z : MemAccess g (.st d a b z) ⟨.ifg, .store, .die, 2 ^ z.val, false, .store, anyClass⟩
      (g.asks false (g.warp.address a b) d fun l => g.warp.regs d l (wide z.val) % 2 ^ (8 * 2 ^ z.val)) []
  | spld d a b z : MemAccess g (.spld d a b z) ⟨.ifs, .load false, .die, 2 ^ z.val, false, .load, anyClass⟩
      (g.asks true (g.warp.scratchAddress a b) d fun _ => 0) []
  | spldSigned d a b z : MemAccess g (.spldSigned d a b z) ⟨.ifs, .load true, .die, 2 ^ z.val, false, .load, anyClass⟩
      (g.asks true (g.warp.scratchAddress a b) d fun _ => 0) []
  | spst d a b z : MemAccess g (.spst d a b z) ⟨.ifs, .store, .die, 2 ^ z.val, false, .store, anyClass⟩
      (g.asks true (g.warp.scratchAddress a b) d fun l => g.warp.regs d l (wide z.val) % 2 ^ (8 * 2 ^ z.val)) []
  | lds d a b (z : Bool) : MemAccess g (.lds d a b z) ⟨.ifs, .load false, .die, if z then 8 else 4, true, .load, anyClass⟩
      [{ lane := 0, scratch := true, addr := (g.warp.one a + g.warp.one b).toNat, reg := d.val, cmp := 0
         data := if z then g.warp.pair (.s d) else (g.warp.s.at d).toNat }] []
  | sts d a b (z : Bool) : MemAccess g (.sts d a b z) ⟨.ifs, .store, .die, if z then 8 else 4, true, .store, anyClass⟩
      [{ lane := 0, scratch := true, addr := (g.warp.one a + g.warp.one b).toNat, reg := d.val, cmp := 0
         data := if z then g.warp.pair (.s d) else (g.warp.s.at d).toNat }] []
  | atomDie d a b x o : MemAccess g (.atomDie d a b x o) ⟨.ifg, .atomic o, .die, if x then 8 else 4, false, .atomic, fun c => decide (c ≤ 1)⟩
      (g.atomAsks false d a b x) []
  | atoms d a b x o : MemAccess g (.atoms d a b x o) ⟨.ifs, .atomic o, .die, if x then 8 else 4, false, .atomic, fun c => decide (c ≤ 1)⟩
      (g.atomAsks true d a b x) []
  | atomPkg d a b x o : g.warp.flight = [] →
      MemAccess g (.atomPkg d a b x o) ⟨.ifg, .atomic o, .home, if x then 8 else 4, false, .atomic, fun c => atomSupported false c o⟩
        (g.atomAsks false d a b x) []
  | atomSys d a b x o : g.warp.flight = [] →
      MemAccess g (.atomSys d a b x o) ⟨.ifg, .atomic o, .home, if x then 8 else 4, false, .atomic, fun c => atomSupported true c o⟩
        (g.atomAsks false d a b x) []
  | lda32 d a sc : MemAccess g (.lda32 d a sc) ⟨.ifg, .lda sc, .die, 4, false, .load, anyClass⟩ (g.asks false (g.warp.widePair a) d fun _ => 0) []
  | lda64 d a sc : MemAccess g (.lda64 d a sc) ⟨.ifg, .lda sc, .die, 8, false, .load, anyClass⟩ (g.asks false (g.warp.widePair a) d fun _ => 0) []

/-- The request of a lane of a tensor access (14 R268). -/
def Issue.tensorAsk (g : Issue) (r : Shape) (store : Bool) (rk : Fin 7) (cb d : Fin 64) (z : Fin 4) (l : Fin 32) : Ask :=
  { lane := l.val, scratch := r.scratch, addr := r.element (g.warp.coordsOf cb rk l), reg := (g.warp.name d l).val, cmp := 0
    data := if store then g.warp.regs d l (wide z.val) % 2 ^ (8 * 2 ^ z.val) else 0
    bad := if r.within (g.warp.coordsOf cb rk l) then none else some 0x33 }

/-- TLD and TST (14 R268): the lanes whose coordinates lie outside the shape are clipped, or fault with 0x33 if FAULT is set. -/
inductive TensorAccess (g : Issue) : Instr → Shot → List Ask → List (Nat × Nat × Nat) → Prop where
  | tld h rk cb d z r : g.team.shapes.at h = some r → r.rank = rk.val + 1 →
      TensorAccess g (.tld h rk cb d z) ⟨.ift, .load false, .die, 2 ^ z.val, false, .load, anyClass⟩
        ((g.lanes.filter fun l => r.within (g.warp.coordsOf cb rk l) || r.fault).map (g.tensorAsk r false rk cb d z))
        ((g.lanes.filter fun l => !(r.within (g.warp.coordsOf cb rk l) || r.fault)).map fun l => (l.val, (g.warp.name d l).val, 0))
  | tst h rk cb d z r : g.team.shapes.at h = some r → r.rank = rk.val + 1 →
      TensorAccess g (.tst h rk cb d z) ⟨.ift, .store, .die, 2 ^ z.val, false, .store, anyClass⟩
        ((g.lanes.filter fun l => r.within (g.warp.coordsOf cb rk l) || r.fault).map (g.tensorAsk r true rk cb d z))
        ((g.lanes.filter fun l => !(r.within (g.warp.coordsOf cb rk l) || r.fault)).map fun l => (l.val, (g.warp.name d l).val, 0))

/-- The machine without its memories: home memory with its tags, marks and lines, the dies, and requests held for a port. -/
def Mach.rest (m : Mach) : Mach :=
  { m with home := [], tags := [], poisoned := [], llcLines := [], llcDirty := [], dies := [], heldReqs := [] }

/-- The byte that a load by a die shows (12 R215, R216): the die's own write, else its copy of the line, else the home's byte. -/
def Mach.shows (m : Mach) (d k : Nat) : Byte :=
  match m.dies[d]? with
  | some x => x.byte (if x.l2.holds (lineOf k) then x.l2.data else m.home) k
  | none => 0

/-- The state that a memory instruction leaves whose addresses are generated, with the accesses `ls` and range tables as in `m'` (12 R220):
its counter is one higher and it is the youngest access in flight. Its results come later. -/
structure Launched (s : State) (g : Issue) (i : Instr) (q : Shot) (ls : List LaneAcc) (done : List (Nat × Nat × Nat)) (m' : Mach) (x : Warp) : Prop where
  answers : exec i s = .next { s with m := { m'.setWarp g x with unit := none } }
  goes : GoesOn g i x
  latches : x.b = emptyLatches
  counter : x.counter q.ctr = g.warp.counter q.ctr + 1
  flight : ∃ f, x.flight = g.warp.flight ++ [f] ∧ f.ctr = q.ctr ∧ f.act = q.act ∧ f.place = q.place ∧ f.size = q.size ∧ f.scalar = q.scalar ∧
    f.lanes = ls ∧ f.done = done ∧ f.skid = 0 ∧ f.replay = false ∧ f.gang = g.gang ∧ f.pc = s.m.trapPc g ∧ f.next = g.after i ∧ f.iword = i.word
  frame : x.still = ({ g.warp.raise q.ctr with flight := x.flight } : Warp).still

/-- The value of an atomic after its step, `w` bits wide (14 R271). -/
def Spec.atom (o : AtomOp) (w : Nat) (old y cmp : BitVec w) : BitVec w :=
  match o with
  | .add => old + y
  | .min => if y.toInt < old.toInt then y else old
  | .max => if old.toInt < y.toInt then y else old
  | .and => old &&& y
  | .or => old ||| y
  | .xor => old ^^^ y
  | .exch => y
  | .cas => if old = cmp then y else old
  | .fadd => BitVec.ofNat w (fadd F32 .rne old.toNat y.toNat).1

/-- A release at a scope goes on without a fault: no LINK_RECONF holds a write of the die (23 R393), nothing of its open epoch is lost
(21 R374), and the host and the peers can take what it writes (21 R376). -/
def Issue.releases (g : Issue) (m : Mach) (sc : Scope) : Prop :=
  m.flushHeld g.team.die sc = false ∧ m.lostAt g.team.die sc = [] ∧ m.undeliverable g.team.die sc = []

/-! ### Barriers and ranges (14 R277 to R288) -/

/-- The barrier `id` of a team opens or takes an arrival of count `n` (14 R278). -/
def Spec.arrives (b : Barrier) (n : Nat) : Barrier :=
  let need := if b.arrived = 0 then n else b.need
  if b.arrived + 1 < need then { phase := b.phase, need := need, arrived := b.arrived + 1 } else { phase := b.phase + 1, need := 0, arrived := 0 }

/-- Every live slice of the warp issues or waits at a barrier. -/
def Issue.allHere (g : Issue) : Prop :=
  ∀ j : Fin 8, g.live.getLsbD j.val = true → g.inGang j ∨ (g.warp.slices.at j).wait = .barrier

/-- The issuing gang goes on past a barrier; where it holds every live slice, no other slice moves. -/
structure PassesBarrier (g : Issue) (i : Instr) (x : Warp) : Prop where
  pcs : ∀ j, g.inGang j → (x.slices.at j).pc = g.nextPc i % 2 ^ 48
  alone : g.ganged = true → GoesOn g i x

/-- The issuing gang waits at the barrier for the other live slices. -/
structure StaysAtBarrier (g : Issue) (x : Warp) : Prop where
  waits : ∀ j, g.inGang j → x.slices.at j = { g.warp.slices.at j with wait := .barrier }
  others : ∀ j, ¬ g.inGang j → x.slices.at j = g.warp.slices.at j
  arrived : x.barWait = g.warp.barWait ∧ x.gridWait = g.warp.gridWait ∧ x.bara = g.warp.bara

/-- The machine with the issuing team changed. -/
def Mach.withTeam (m : Mach) (g : Issue) (f : Team → Team) : Mach := m.modTeam g.t f

/-- The machine with the ranges of the issuing context replaced. -/
def Mach.withRanges (m : Mach) (g : Issue) (rs : List RangeDesc) : Mach := m.setRanges g.team.ctx rs

/-- The instructions that change the ranges of their context, with their status and the ranges after them (14 R284; 13 R243). -/
inductive RangeChange (g : Issue) : Instr → Fin 32 → Nat → List RangeDesc → Prop where
  | rsplit d a : RangeChange g (.rsplit d a) d (splitRanges g.ctx.ranges (g.warp.pair a)).1 (splitRanges g.ctx.ranges (g.warp.pair a)).2
  | rmerge d a : RangeChange g (.rmerge d a) d (mergeRanges g.ctx.ranges (g.warp.pair a)).1 (mergeRanges g.ctx.ranges (g.warp.pair a)).2
  | rprot d a b : (g.warp.one b).toNat < 32 → RangeChange g (.rprot d a b) d (protRanges g.ctx.ranges (g.warp.pair a) (g.warp.one b).toNat).1
      (protRanges g.ctx.ranges (g.warp.pair a) (g.warp.one b).toNat).2

/-! ### Matrix instructions (16 R291 to R306) -/

/-- The core on which the issuing warp runs. -/
def Issue.onCore (g : Issue) (m : Mach) : Core := (m.core? g.team.die g.core).getD Core.reset

/-- An MMA or MMAS is executed normally: its first tests pass (16 R302), no matrix unit that it uses is retained (01 R24), the lanes of each
quarter agree on its words, which are ones that 16 R293 and R294 accept, and every exponent that it needs lies in a bound, valid entry
and in the scale cache (05 R94, R95). -/
structure AdmitsMma (m : Mach) (g : Issue) (i : Instr) (o : MmaOp) : Prop where
  issues : m.issuer = some g
  gate : g.mmaGate i o = .pass
  awake : m.retainedUnits g = false
  agree : ∀ q, q ∈ g.quarters → g.disagrees o.vf 0 q = false ∧ (o.sparse = true → g.disagrees o.vf 1 q = false)
  words : ∀ q, q ∈ g.quarters → (g.wordOf o q).ok o.sparse = true
  bound : ∀ q n, q ∈ g.quarters → n ∈ g.needs o q → n.1 < g.ctx.sdcnt
  entries : ∀ q n, q ∈ g.quarters → n ∈ g.needs o q → ∃ e, (g.onCore m).entry? g.team.ctx n.1 = some e ∧ e.valid = true ∧ n.2.1 < e.nblk
  lines : ∀ q n, q ∈ g.quarters → n ∈ g.needs o q → ((g.onCore m).exponent? g.team.ctx n.1 n.2.1).isSome

/-- The exceptions that the accumulators of a lane raise. -/
def Issue.mmaRaises (g : Issue) (m : Mach) (o : MmaOp) (l : Fin 32) : Exc :=
  ((g.accumulate o (g.onCore m)).filter fun w => w.2.1 = l).foldl (fun e w => e.or w.2.2.2) Exc.none

/-- The state that an MMA or MMAS leaves (16 R297, R303): a matrix unit holds the new accumulators of every active lane, to be written to
their registers later; no register has changed yet. -/
structure Multiplies (s : State) (g : Issue) (i : Instr) (o : MmaOp) (x : Warp) : Prop where
  answers : exec i s = .next (s.withWarp g x)
  goes : GoesOn g i x
  latches : x.b = g.latchesKept i
  pending : x.mma = g.warp.mma ++ [{ c := o.vc.val, writes := (g.accumulate o (g.onCore s.m)).map fun w => (w.1, w.2.1, w.2.2.1) }]
  frame : x.still = ({ g.warp with mma := x.mma } : Warp).still

/-- The operands of MMA and MMAS. -/
inductive MatrixOp : Instr → MmaOp → Prop where
  | mma vb va vf vc q : MatrixOp (.mma vb va vf vc q) ⟨vb, va, vf, vc, q, false⟩
  | mmas vb va vf vc q : MatrixOp (.mmas vb va vf vc q) ⟨vb, va, vf, vc, q, true⟩

/-- The state that a result in a run of `n` registers from `d` leaves: in active lanes the register that the name of place `j` selects holds
`r j`, the last of them where two names select one register; every other register of every lane is unchanged. -/
structure WritesRun (s : State) (g : Issue) (i : Instr) (d : Fin 64) (n : Nat) (r : Nat → Fin 32 → Word) (x : Warp) : Prop where
  answers : exec i s = .next (s.withWarp g x)
  goes : GoesOn g i x
  regs : ∀ k l, (x.v.at k).at l = match (List.range n).reverse.find? fun j => g.active l && decide (g.warp.name (nextV d j) l = k) with
    | some j => r j l
    | none => (g.warp.v.at k).at l
  poison : ∀ k l, (k, l) ∈ x.poison ↔ (k, l) ∈ g.warp.poison ∧ ¬ (g.active l = true ∧ ∃ j, j < n ∧ g.warp.name (nextV d j) l = k)
  latches : x.b = g.latchesKept i
  frame : x.still = ({ g.warp with v := x.v, poison := x.poison } : Warp).still

/-- MZERO and the conversions of accumulators (16 R304), with the value and the exceptions of each place of the run in each lane. -/
inductive RunResult (g : Issue) : Instr → Fin 64 → Nat → (Nat → Fin 32 → Nat × Exc) → Prop where
  | mzero d : RunResult g (.mzero d) d 8 fun _ _ => (0, Exc.none)
  | mcvtH2 d a r : RunResult g (.mcvtH2 d a r) d 4 fun j l => packed F16 r (g.warp.runSrcReg a (2 * j) l) (g.warp.runSrcReg a (2 * j + 1) l)
  | mcvtB2 d a r : RunResult g (.mcvtB2 d a r) d 4 fun j l => packed BF16 r (g.warp.runSrcReg a (2 * j) l) (g.warp.runSrcReg a (2 * j + 1) l)
  | mcvtF32 d a r : RunResult g (.mcvtF32 d a r) d 8 fun j l => fofInt F32 r (sextNat (g.warp.runSrcReg a j l) 32)
  | mcvtI32 d a r : RunResult g (.mcvtI32 d a r) d 8 fun j l =>
      let q := ftoInt F32 r (g.warp.runSrcReg a j l)
      ((Spec.word q.1).toNat, q.2)

/-- The exceptions of a lane over the places of a run. -/
def runRaises (n : Nat) (f : Nat → Fin 32 → Nat × Exc) (l : Fin 32) : Exc := (List.range n).foldl (fun e j => e.or (f j l).2) Exc.none

/-- The value of an element of an integer format or of PM1 (05 R73 to R77, R90). -/
def Spec.element (c bits : Nat) : Int :=
  match c with
  | 3 => (BitVec.ofNat 16 bits).toInt
  | 4 => (BitVec.ofNat 8 bits).toInt
  | 5 => (BitVec.ofNat 4 bits).toInt
  | 8 => if bits = 0 then 1 else -1
  | _ => bits

/-! ### Rings, engines and pipes (19 R343 to R356) -/

/-- The operations on rings that ERSET makes (19 R345), with the machine that each leaves. A PUSH or POP beside a posted operation that
advances the same pointer leaves that pointer undefined (19 R344): a free value. -/
inductive RingEffect (m : Mach) (g : Issue) : Instr → Mach → Prop where
  | bind a b (h : Fin 16) v r m' : (g.warp.one b).toNat = h.val → m.loadNow g (g.warp.pair a) 32 (g.plainly 32) = (.ok v, m') →
      Ring.parse v = some r → RingEffect m g (.ersetBind a b) (m'.setRing g.t h (some r))
  | free a (h : Fin 16) r : (g.warp.one a).toNat = h.val → g.team.rings.at h = some r →
      (∀ o, o ∈ m.opsOf g.t → h.val ∉ o.inRings ∧ h.val ∉ o.outRings) → RingEffect m g (.ersetFree a) (m.setRing g.t h none)
  | push a b (h : Fin 16) r n : (g.warp.one a).toNat = h.val → g.team.rings.at h = some r → (g.warp.one b).toNat = n → 1 ≤ n → n ≤ 4096 →
      n ≤ r.depth → n ≤ r.room → (∀ o, o ∈ m.opsOf g.t → h.val ∉ o.outRings) →
      RingEffect m g (.ersetPush a b) (m.setRing g.t h (some { r with pi := r.pi + BitVec.ofNat 32 n }))
  | pop a b (h : Fin 16) r n : (g.warp.one a).toNat = h.val → g.team.rings.at h = some r → (g.warp.one b).toNat = n → 1 ≤ n → n ≤ 4096 →
      n ≤ r.depth → n ≤ r.held → (∀ o, o ∈ m.opsOf g.t → h.val ∉ o.inRings) →
      RingEffect m g (.ersetPop a b) (m.setRing g.t h (some { r with ci := r.ci + BitVec.ofNat 32 n }))
  | pushFree a b (h : Fin 16) r n o : (g.warp.one a).toNat = h.val → g.team.rings.at h = some r → (g.warp.one b).toNat = n → 1 ≤ n →
      n ≤ 4096 → n ≤ r.depth → n ≤ r.room → o ∈ m.opsOf g.t → h.val ∈ o.outRings →
      RingEffect m g (.ersetPush a b) ({ m with free := m.free + 1 }.setRing g.t h (some { r with pi := Config.freeWord m.free }))
  | popFree a b (h : Fin 16) r n o : (g.warp.one a).toNat = h.val → g.team.rings.at h = some r → (g.warp.one b).toNat = n → 1 ≤ n →
      n ≤ 4096 → n ≤ r.depth → n ≤ r.held → o ∈ m.opsOf g.t → h.val ∈ o.inRings →
      RingEffect m g (.ersetPop a b) ({ m with free := m.free + 1 }.setRing g.t h (some { r with ci := Config.freeWord m.free }))
  | waitf a b (h : Fin 16) r n : (g.warp.one a).toNat = h.val → g.team.rings.at h = some r → (g.warp.one b).toNat = n → 1 ≤ n → n ≤ 4096 →
      n ≤ r.depth → n ≤ r.held → RingEffect m g (.ersetWaitf a b) (m.acquireDrops g.team.die g.core .die)
  | waite a b (h : Fin 16) r n : (g.warp.one a).toNat = h.val → g.team.rings.at h = some r → (g.warp.one b).toNat = n → 1 ≤ n → n ≤ 4096 →
      n ≤ r.depth → n ≤ r.room → RingEffect m g (.ersetWaite a b) (m.acquireDrops g.team.die g.core .die)

/-- A post is accepted (19 R346, R347): its descriptor is well formed, its endpoints fit and are bound, and the engine and the counter IFE
have room. -/
structure Accepts (m : Mach) (g : Issue) (kind : EngKind) (o : EngOp) (v : Nat) : Prop where
  formed : o.wellFormed v = true
  fits : ∀ h, h ∈ o.handles → m.endFits g o h = true
  rings : ∀ h, h ∈ o.handles → Mach.ringBound g h = true
  pipes : ∀ h, h ∈ o.handles → m.pipeBound g h = true
  room : (m.ops.filter fun q => decide (q.phase ≠ .ended) && q.die == o.die && decide (q.kind.engine = kind.engine)).length < Config.engineLimit
  counter : g.warp.ife < 255

/-- How an area that PMSG or PRECV copies stands after its checks (19 R356, 13 R252, 21 R376), with the machine that they leave. -/
inductive AreaOf (m : Mach) (g : Issue) (va n : Nat) (kind : Access) : RangeDesc → Area → Mach → Prop where
  | reached r m1 m2 : m.translate g.team.die g.core g.team.ctx va n kind g.team.super = (.ok r, m1) →
      m1.lateCheck g.team.ctx r va (decide (g.warp.replayData &&& g.gang ≠ 0)) = (.ok, m2) → AreaOf m g va n kind r .reached m2
  | denied r m1 m2 : m.translate g.team.die g.core g.team.ctx va n kind g.team.super = (.ok r, m1) →
      m1.lateCheck g.team.ctx r va (decide (g.warp.replayData &&& g.gang ≠ 0)) = (.zero, m2) → AreaOf m g va n kind r .denied m2
  | lost r m1 m2 c gs : m.translate g.team.die g.core g.team.ctx va n kind g.team.super = (.ok r, m1) →
      m1.lateCheck g.team.ctx r va (decide (g.warp.replayData &&& g.gang ≠ 0)) = (.fault c gs, m2) → c = 0x43 ∨ c = 0x44 →
      AreaOf m g va n kind r .lost m2

/-- The copy of a message in flight (19 R356): it reads the source, unless that is denied, and is to commit slot `j`. -/
def Issue.message (g : Issue) (m : Mach) (i : Instr) (p : Pipe) (j : Nat) (r : RangeDesc) (va : Nat) (st : Area) : Flight :=
  { ctr := .ifg, act := .pmsg p.num j, place := .die, size := p.slotSize, scalar := true
    lanes := [{ lane := 0, va := va, key := r.key va, desc := some r, reg := va, data := 0, cmp := if st = .denied then 1 else 0 }], done := []
    gang := g.gang, pc := m.trapPc g, head := m.trapPc g, next := g.after i, iword := i.word, skid := 0, replay := false, snap := g.warp.snap }

/-- The die at which an access of the issuing team at an address is made: the home of the pipe in whose slots it lies, else the team's
own (18 R320). -/
def Mach.accessDie (m : Mach) (g : Issue) (va : Nat) : Nat := (m.slotHome g.team.ctx va).getD g.team.die

/-- The bytes of a message stored by a core at an address of a range, at die `d`. -/
def Mach.storeMessage (m : Mach) (g : Issue) (d : Nat) (r : RangeDesc) (va n v : Nat) : Mach :=
  (pieces n).foldl (fun m q =>
    m.dieStore d (if d = g.team.die then some g.core else none) (r.key va + q.1) q.2 (v / 2 ^ (8 * q.1) % 2 ^ (8 * q.2))) m

/-- The pipe instructions (19 R353 to R356), with the machine that each leaves and its effect on the warp. A message that met poison, or
whose destination is lost or lies on a die cut off, is consumed with the imprecise fault of the copy. -/
inductive PipeEffect (m : Mach) (g : Issue) : Instr → Mach → (Warp → Warp) → Prop where
  | prsv d a p j q : m.ownPipe g (g.warp.one a).toNat false = some p → p.reserve = some (j, q) →
      PipeEffect m g (.prsv d a) ((m.setPipe q).joinSlot g p j) fun x => x.setPair d (p.slotAddr j)
  | ptryR d a p j q : m.ownPipe g (g.warp.one a).toNat false = some p → p.reserve = some (j, q) →
      PipeEffect m g (.ptryR d a) ((m.setPipe q).joinSlot g p j) fun x => x.setPair d (p.slotAddr j)
  | noRoom d a p : m.ownPipe g (g.warp.one a).toNat false = some p → p.reserve = none →
      PipeEffect m g (.ptryR d a) m fun x => x.setPair d (2 ^ 64 - 1)
  | pacq d a p j : m.ownPipe g (g.warp.one a).toNat true = some p → p.takeable = some j →
      PipeEffect m g (.pacq d a) ((m.setPipe (p.take j)).joinSlot g p j) fun x => x.setPair d (p.slotAddr j)
  | ptryA d a p j : m.ownPipe g (g.warp.one a).toNat true = some p → p.takeable = some j →
      PipeEffect m g (.ptryA d a) ((m.setPipe (p.take j)).joinSlot g p j) fun x => x.setPair d (p.slotAddr j)
  | noSlot d a p : m.ownPipe g (g.warp.one a).toNat true = some p → p.takeable = none →
      PipeEffect m g (.ptryA d a) m fun x => x.setPair d (2 ^ 64 - 1)
  | pcmt a b p j m1 : m.ownPipe g (g.warp.one a).toNat false = some p → p.slotIn (g.warp.pair b) .reserved = some j →
      g.releases m (p.scope g.team.die) → m1 = m.release g.team.die (p.scope g.team.die) →
      PipeEffect m g (.pcmt a b) (m1.commitSlot p.num j (m1.seenBy g.team.die)) id
  | prel a b p j : m.ownPipe g (g.warp.one a).toNat true = some p → p.slotIn (g.warp.pair b) .taken = some j →
      PipeEffect m g (.prel a b) (m.releaseSlot p.num j []) id
  | statRing d a (h : Fin 16) r : (g.warp.one a).toNat = h.val → g.team.rings.at h = some r →
      PipeEffect m g (.pstat d a) m fun x => x.setS d (BitVec.ofNat 32 (r.held % 2 ^ 16 + r.room * 2 ^ 16))
  | statPipe d a n p : (g.warp.one a).toNat = 0x8000 + n → n < 4096 → m.ownPipe g n true = some p →
      PipeEffect m g (.pstat d a) m fun x => x.setS d (BitVec.ofNat 32 p.status)
  | pmsg a b p c r st j q m2 m3 : m.pipe? (g.warp.one a).toNat = some p → p.msg = true → m.ctx? p.ctx = some c → c.part = g.ctx.part →
      g.warp.ifg < 255 → m.isHalted p.home = false → AreaOf m g (g.warp.pair b) p.slotSize .load r st m2 → g.releases m2 (p.scope g.team.die) →
      m3 = m2.release g.team.die (p.scope g.team.die) → p.reserve = some (j, q) →
      PipeEffect m g (.pmsg a b) (m3.setPipe (q.setSlot j { st := .reserved, seq := p.rseq, seen := m3.seenBy g.team.die })) fun x =>
        { x.raise .ifg with flight := x.flight ++ [g.message m (.pmsg a b) p j r (g.warp.pair b) st] }
  | precv d a b p r st j v m2 m3 : m.ownPipe g (g.warp.one a).toNat true = some p → p.msg = true →
      AreaOf m g (g.warp.pair b) p.slotSize .store r st m2 → st ≠ .lost → m2.isHalted (m2.accessDie g (g.warp.pair b)) = false →
      p.takeable = some j →
      m2.poisonAt p.home p.ctx (p.slotAddr j) p.slotSize = false → m2.bytesAt p.home p.ctx (p.slotAddr j) p.slotSize = some (v, m3) →
      PipeEffect m g (.precv d a b)
        ((if st = .denied then (m3.setPipe (p.take j)).joinSlot g p j
          else ((m3.setPipe (p.take j)).joinSlot g p j).storeMessage g (m2.accessDie g (g.warp.pair b)) r (g.warp.pair b) p.slotSize v).releaseSlot p.num j []) fun x => x.setS d p.tseq
  | precvBad d a b p r st j v m2 m3 : m.ownPipe g (g.warp.one a).toNat true = some p → p.msg = true →
      AreaOf m g (g.warp.pair b) p.slotSize .store r st m2 → p.takeable = some j →
      st = .lost ∨ m2.poisonAt p.home p.ctx (p.slotAddr j) p.slotSize = true ∨ m2.isHalted (m2.accessDie g (g.warp.pair b)) = true →
      m2.bytesAt p.home p.ctx (p.slotAddr j) p.slotSize = some (v, m3) →
      PipeEffect m g (.precv d a b) (((m3.setPipe (p.take j)).joinSlot g p j).releaseSlot p.num j []) fun x =>
        { x.setS d p.tseq with engFault := x.engFault ++
            [({ TrapRec.of 0x45 with pc := m.trapPc g, va := g.warp.pair b, skid := x.nonmem } : TrapRec).at g.team g.w g.core] }

/-! ### Launches (19 R357, R358) -/

/-- KLAUNCH and GLAUNCH with the KIND of the packets that they post. -/
inductive Launches : Instr → Nat → Fin 32 → Src → Src → Prop where
  | klaunch d a b : Launches (.klaunch d a b) 0 d a b
  | glaunch d a b : Launches (.glaunch d a b) 2 d a b

/-- Whether the queue of `size` entries whose descriptor lies at a key is full: PRODP and CONSP are as far apart (18 R308). -/
def Mach.queueFull (m : Mach) (dk size : Nat) : Prop :=
  (m.homeRead (dk + 8) 8 + (2 ^ 64 - m.homeRead (dk + 16) 8)) % 2 ^ 64 = size

/-- A packet posted in a device queue: its image in the next entry, then PRODP one higher (19 R357). -/
def Mach.postPacket (m : Mach) (g : Issue) (dk rk size prod v : Nat) : Mach :=
  let slot := rk + 64 * (prod % size)
  let p := launchImage v g.team.ctx
  ((m.homeStore g.team.die g.core slot 32 (p % 2 ^ 256)).homeStore g.team.die g.core (slot + 32) 32 (p / 2 ^ 256)).homeStore g.team.die g.core
    (dk + 8) 8 ((prod + 1) % 2 ^ 64)

/-- A launch finds its queue, and its release leaves `m1`, in which no switch holds the queue's descriptor and its next entry (19 R357,
23 R389). -/
structure Launchable (m : Mach) (g : Issue) (n dk rk size : Nat) (m1 : Mach) : Prop where
  queue : m.launchQueue g n = some (dk, rk, size)
  releases : g.releases m .pkg
  left : m1 = m.release g.team.die .pkg
  entry : m1.refuses (rk + 64 * (m1.homeRead (dk + 8) 8 % size)) = false
  descriptor : m1.refuses dk = false

/-- The statuses of a launch (19 R357), of several the lowest, with the machine that each leaves; `m` is the machine after the image `v` has
been read. The queue's pointers are those after the release. -/
inductive LaunchStatus (m : Mach) (g : Issue) (kind n v : Nat) : Nat → Mach → Prop where
  | noQueue : m.launchQueue g n = none → LaunchStatus m g kind n v 2 m
  | full dk rk size m1 : Launchable m g n dk rk size m1 → m1.queueFull dk size → LaunchStatus m g kind n v 1 m1
  | badKind dk rk size m1 : Launchable m g n dk rk size m1 → ¬ m1.queueFull dk size → v % 16 ≠ kind → LaunchStatus m g kind n v 3 m1
  | posted dk rk size m1 : Launchable m g n dk rk size m1 → ¬ m1.queueFull dk size → v % 16 = kind →
      LaunchStatus m g kind n v 0 (m1.postPacket g dk rk size (m1.homeRead (dk + 8) 8) v)

/-! ### Events (the rows of the opcode table that no word encodes): each with its conditions and the machine that it leaves -/

/-- What a fired operation comes to (19 R348, R351): the test of its counter, then its accesses; with the machine that they leave. -/
def Mach.engineComesTo (m : Mach) (o : EngOp) (r : Option EngStop) (m' : Mach) : Prop :=
  (∃ m1, m.counterTest o = (none, m1) ∧ m1.engWork o = (r, m')) ∨ (r.isSome = true ∧ m.counterTest o = (r, m'))

/-- The engines (01 R13, 19 R344, R348, R351). -/
inductive EngineEvent (m : Mach) : Instr → Mach → Prop where
  | fires op o ins m1 outs m2 : m.ops[op]? = some o → o.phase = .posted → m.ctxRuns o.ctx = true → m.engineFree o = true →
      (∀ q, q ∈ m.earlier op o → q.phase ≠ .posted) → Mach.claimAll o false o.sources [] m = some (ins, m1) →
      Mach.claimAll o true o.outs [] m1 = some (outs, m2) →
      EngineEvent m (.engineFire op)
        { m2 with ops := m2.ops.modify op fun o =>
            { o with phase := .fired, insAt := ins, outsAt := outs, descs := ((m.ctx? o.ctx).map Context.ranges).getD [] } }
  | waitsFire op o q : m.ops[op]? = some o → q ∈ m.earlier op o → q.phase = .posted → EngineEvent m (.engineFire op) m
  | noEngine op o : m.ops[op]? = some o → m.engineFree o = false → EngineEvent m (.engineFire op) m
  | completes op o m1 : m.ops[op]? = some o → o.phase = .fired → m.ctxRuns o.ctx = true → m.earlier op o = [] →
      m.flushHeld o.die o.scope = false → m.engineComesTo o none m1 → EngineEvent m (.engineComplete op) (m1.engDone op o)
  | waitsComplete op o q : m.ops[op]? = some o → q ∈ m.earlier op o → EngineEvent m (.engineComplete op) m
  | errs op o va m1 : m.ops[op]? = some o → o.phase = .fired → m.ctxRuns o.ctx = true → m.earlier op o = [] →
      m.flushHeld o.die o.scope = false → m.engineComesTo o (some (.error va)) m1 →
      EngineEvent m (.engineComplete op) ((m1.failOp op va).teamEnd o.team)
  | pauses op o r m1 : m.ops[op]? = some o → o.phase = .fired → m.ctxRuns o.ctx = true → m.earlier op o = [] →
      m.flushHeld o.die o.scope = false → m.engineComesTo o (some (.pause r)) m1 → EngineEvent m (.engineComplete op)
        (({ m1 with ops := m1.ops.modify op fun o => { o with phase := .paused r } } : Mach).route o.ctx r (.engine op r) false)

/-- The lives of teams: placement, start, restore, time slices, ageing, and the actions of a handler (03 R44, R45, R69; 18 R314 to R317;
21 R366, R368). -/
inductive TeamEvent (m : Mach) : Instr → Mach → Prop where
  | placed p die core i j k shapes n : die ∈ m.diesOf p → m.nextAt p die core = some (i, j) → m.savedOf p i = [] → j.kd = some k →
      m.shapesOf (some j.pkt.ctx) k = some shapes → m.nextLinear p i j die = some n →
      TeamEvent m (.teamPlacement p die core) { m with teams := m.teams ++ [m.freshTeam k shapes
        { linear := n, gx := j.pkt.gx, gy := j.pkt.gy, gz := j.pkt.gz, dies := m.dieSet p j.pkt.dies, die := die, core := core }
        (j.given p i) .placed] }
  | started t team j : m.teams[t]? = some team → m.job? team.part team.job = some j → team.phase = .placed → m.ctxRuns team.ctx = true →
      m.mayStart team j = true → TeamEvent m (.teamStart t)
        ((m.modTeam t fun x => { x with phase := .running }).modJob team.part team.job fun j =>
          { j with lastStart := (team.die, m.now) :: j.lastStart.filter fun e => e.1 ≠ team.die })
  | restored t die core team i j : m.teams[t]? = some team → team.phase = .saved → team.suspended = false → m.ctxRuns team.ctx = true →
      m.configOk team.part team = true → (team.plan.isSome || team.served.isSome) = false → m.nextAt team.part die core = some (i, j) →
      i = team.job → team.cor = false → j.pkt.cor = false → m.restorable t team die core = true →
      TeamEvent m (.teamRestore t die core) (m.restoreAt t die core)
  | restoredAll t die core team i j m' : m.teams[t]? = some team → team.phase = .saved → team.suspended = false → m.ctxRuns team.ctx = true →
      m.configOk team.part team = true → (∀ q, q ∈ m.savedOf team.part team.job → m.configOk team.part q.2 = true) →
      (team.plan.isSome || team.served.isSome) = false → m.nextAt team.part die core = some (i, j) → i = team.job → j.pkt.cor = true →
      m.corHeld team.part i = false → m.restoreAll (m.savedOf team.part i) = some m' → TeamEvent m (.teamRestore t die core) m'
  | restoredStage t die core team : m.teams[t]? = some team → team.phase = .saved → team.suspended = false → m.ctxRuns team.ctx = true →
      m.configOk team.part team = true → team.cor = false → (team.plan.isSome || team.served.isSome) = true →
      m.restorable t team die core = true → TeamEvent m (.teamRestore t die core) (m.restoreAt t die core)
  | unsuited t die core team : m.teams[t]? = some team → team.phase = .saved → team.suspended = false → m.ctxRuns team.ctx = true →
      team.cor = false → m.configOk team.part team = false →
      TeamEvent m (.teamRestore t die core) (m.modTeam t fun x => { x with suspended := true })
  | unsuitedAll t die core team q : m.teams[t]? = some team → team.phase = .saved → team.suspended = false → m.ctxRuns team.ctx = true →
      team.cor = true → q ∈ m.savedOf team.part team.job → m.configOk team.part q.2 = false →
      TeamEvent m (.teamRestore t die core)
        ((m.savedOf team.part team.job).foldl (fun m q => m.modTeam q.1 fun x => { x with suspended := true }) m)
  | handler ctx core c ev rest k shapes d : m.ctx? ctx = some c → c.traps = ev :: rest → d = (m.servedAt ev).1 → c.halt = none →
      m.handlers ctx < Config.handlerLimit → m.kernelAt ctx c.hkdesc = some (k, shapes) → k.teamw = 1 → k.span = false →
      k.nbar ≤ m.limit c.part 16 8 → m.roomAt d core false 1 k.frames k.nbar = true →
      TeamEvent m (.handlerLaunch ctx core)
        (let m1 := ((m.acquireDrops d core .pkg).applySeen d (m.seenBy (m.lead ctx))).modCtx ctx fun c => { c with traps := rest }
         { m1 with teams := m1.teams ++ [m1.freshTeam k shapes { linear := 0, gx := 1, gy := 1, gz := 1, dies := [d], die := d, core := core }
             { ctx := ctx, part := c.part, job := 0, plan := none, graph := none, args := 0, argsz := 0, super := true, cor := false, prio := 7
               served := some ev } .running] })
  | noHandler ctx core c ev rest : m.ctx? ctx = some c → c.traps = ev :: rest → c.halt = none → m.handlers ctx < Config.handlerLimit →
      m.kernelAt ctx c.hkdesc = none → TeamEvent m (.handlerLaunch ctx core) (m.stopBy ctx 0x53 (some (m.servedAt ev).2) (some ev) [] .stopped)
  | expired t team : m.teams[t]? = some team → team.phase = .running → team.plan = none → team.served = none → m.sliceOver team = true →
      m.waited team = true → team.cor = false → TeamEvent m (.timeSliceExpiry t) (m.raisePreq t true)
  | notExpired t team : m.teams[t]? = some team → m.sliceOver team = false → TeamEvent m (.timeSliceExpiry t) m
  | aged t w j team x : m.teams[t]? = some team → m.warp? t w = some x → team.phase = .running → x.run = .ready → team.desched = false →
      m.ctxRuns team.ctx = true → Config.agedCycles ≤ x.idle.at j →
      TeamEvent m (.aging t ⟨w, j⟩) (m.modWarp t w fun x => { x with aged := x.aged ||| gangOf team w x j })
  | young t w j x : m.warp? t w = some x → x.idle.at j < Config.agedCycles → TeamEvent m (.aging t ⟨w, j⟩) m

/-- The queues and their packets (18 R309 to R313, R323, R329). A descriptor is read in place (18 R334). -/
inductive QueueEvent (m : Mach) : Instr → Mach → Prop where
  | doorbell p q y m1 prod m2 : m.queueAt p q = some (y, m1) → y.dev = false → m1.queueRead p y.ctx (y.desc + 8) 8 = some (prod, m2) →
      QueueEvent m (.doorbell p q) (m2.modQueue p q fun z => { z with prodp := prod })
  | deviceRead p q y m1 prod m2 : m.queueAt p q = some (y, m1) → y.dev = true → m1.queueRead p y.ctx (y.desc + 8) 8 = some (prod, m2) →
      QueueEvent m (.deviceQueueRead p q) (m2.modQueue p q fun z => { z with prodp := prod })
  | taken p q x y m0 v m1 k ph : m.part? p = some x → m.queueAt p q = some (y, m0) → y.consp < y.prodp → y.held = false →
      (∀ j, j ∈ x.jobs → j.queue = q → j.phase ≠ .taken) →
      (m0.takeAcquire p).loadIn y.ctx (y.ring + 64 * (y.consp % 2 ^ (y.lgsize + 4))) 64 = some (v, m1) → k = Packet.parse v → k.kind = 0 →
      m1.takePhase p y k false = some ph →
      QueueEvent m (.kernelLaunch p q)
        (((m1.modPart p fun x => { x with jobs := x.jobs ++ [Job.of q y.consp k (k.due (m1.time p)) (y.admin && !k.kl) false ph none] }).modQueue
          p q fun z => { z with consp := (y.consp + 1) % 2 ^ 64 }).storeIn y.ctx (y.desc + 16) 8 ((y.consp + 1) % 2 ^ 64))
  | empty p q y m0 : m.queueAt p q = some (y, m0) → y.prodp ≤ y.consp → QueueEvent m (.kernelLaunch p q) m
  | dispatched p m1 x i j : m1 = (m.queueIds p).foldl (fun m q => m.takeNext p q fun _ => true) m → m1.part? p = some x → m1.chosen p x = some i →
      x.jobs[i]? = some j → (j.deadline = 0 ∨ m1.time p ≤ j.deadline) → QueueEvent m (.dispatch p) (m1.goJob p i)
  | late p m1 x i j : m1 = (m.queueIds p).foldl (fun m q => m.takeNext p q fun _ => true) m → m1.part? p = some x → m1.chosen p x = some i →
      x.jobs[i]? = some j → j.deadline ≠ 0 → j.deadline < m1.time p → j.pkt.miss = 0 →
      QueueEvent m (.dispatch p) ((m1.countMiss p j.queue).goJob p i)
  | dropped p m1 x i j : m1 = (m.queueIds p).foldl (fun m q => m.takeNext p q fun _ => true) m → m1.part? p = some x → m1.chosen p x = some i →
      x.jobs[i]? = some j → j.deadline ≠ 0 → j.deadline < m1.time p → j.pkt.miss = 1 →
      QueueEvent m (.dispatch p) (m1.modJob p i fun j => { j with phase := .done 1 })
  | graph p i j y runs : m.job? p i = some j → j.pkt.kind = 2 → j.phase = .dispatched → m.graphAt j.pkt.ctx j.pkt.obj = some y →
      runs = y.nodes.map (fun x => ({ credits := 0, ready := decide (x.npred = 0), busy := false, iters := 0 } : NodeRun)) →
      QueueEvent m (.graphLaunch p i)
        (({ m with graphJobs := m.graphJobs ++ [
              { live := true, ctx := j.pkt.ctx, va := y.va, part := p, job := some i, super := j.super
                count := (runs.filter NodeRun.ready).length, nodes := runs, sent := [] }] } : Mach).modJob p i fun j => { j with phase := .running })
  | noGraph p i j : m.job? p i = some j → j.pkt.kind = 2 → j.phase = .dispatched → m.graphAt j.pkt.ctx j.pkt.obj = none →
      QueueEvent m (.graphLaunch p i) (m.finishJob p i 8)

/-- A finished command (18 R332, R333), with the state that it leaves but for its own status. -/
inductive CommandEffect (m : Mach) (p i : Nat) (j : Job) : Instr → Nat → Nat → Mach → Prop where
  | queueCreate v w m1 m2 idx desc q : m.block j 16 64 = some (v, m1) → idx = field v 0 10 → desc = field v 64 48 → idx ≠ 0 →
      field v 10 54 = 0 → field v 112 16 = 0 → desc % 32 = 0 → m1.fwLoad j.pkt.ctx desc 32 = some (w, m2) → idx ∉ m.queueIds p →
      field w 0 48 % 64 = 0 → field w 48 4 ≤ 12 → field w 55 9 = 0 → field w 224 32 = 0 →
      m2.ringPlaced j.pkt.ctx (field w 0 48) (w.testBit 52) = true →
      q = { idx := idx, ctx := some j.pkt.ctx, desc := desc, ring := field w 0 48, lgsize := field w 48 4, dev := w.testBit 52
            cmdok := w.testBit 53, admin := w.testBit 54, prodp := 0, consp := 0, misses := 0, held := false } →
      CommandEffect m p i j (.queueCreate p i) 1 0
        (((m2.modPart p fun x => { x with queues := x.queues ++ [q] }).storeIn q.ctx (desc + 16) 8 0).storeIn q.ctx (desc + 24) 4 0)
  | indexInUse v w m1 m2 : m.block j 16 64 = some (v, m1) → field v 0 10 ≠ 0 → field v 10 54 = 0 → field v 112 16 = 0 →
      field v 64 48 % 32 = 0 → m1.fwLoad j.pkt.ctx (field v 64 48) 32 = some (w, m2) → field v 0 10 ∈ m.queueIds p →
      CommandEffect m p i j (.queueCreate p i) 1 5 m
  | contextCreate id sysva pa v a m1 base c : m.block j 64 64 = some (v, m1) → CreateAsk.parse v = some a →
      base = (if a.sysva = 0 then sysva else a.sysva) → m1.resultOk j 32 = true → m1.handlerSuits j a p = true →
      base / 65536 + Config.nimomGranules ≤ 2 ^ 32 → (m.contexts.filter fun c => c.part = p).length < Config.contextLimit →
      m.contexts.length < 512 → id < 512 → m.ctx? id = none → base % 65536 = 0 → pa % 65536 = 0 →
      m.backingFree (pa / 65536) Config.nimomGranules = true →
      c = { id := id, part := p, y := a.y, q := a.q, sdbase := a.sdbase, sdcnt := a.sdcnt, hkdesc := a.hkdesc
            route := BitVec.ofNat 16 a.route, sysva := base, qtva := base, saveva := base + 2 * 65536
            ranges := [nimomRange (base / 65536) 1 (pa / 65536) true,
              nimomRange (base / 65536 + 1) (Config.nimomGranules - 1) (pa / 65536 + 1) false]
            halt := none, haltDue := false, debugger := false, traps := [], stops := [], stopOwn := false, stopDie := m.leadOf p, reported := false } →
      CommandEffect m p i j (.contextCreate p i id sysva pa) 2 0
        (({ m1 with contexts := m1.contexts ++ [c] }.pastCaches pa 4096 (freshQuota 256)).storeIn j.space j.pkt.args 32
          (id + base * 2 ^ 64 + (base + 2 * 65536) * 2 ^ 128))
  | rangeMap v r m1 c m2 : m.block j 32 32 = some (v, m1) → RangeDesc.parse v = some r → m.ctx? j.pkt.ctx = some c → m.inSpace r = true →
      (∀ x, x ∈ c.ranges → x.meets r.baseg r.size = false) → c.ranges.length < Config.rangeLimit → r.isPartial = false →
      m1.charge c.id r.agent r.size = some m2 →
      CommandEffect m p i j (.rangeMap p i) 4 0 (m2.setRanges c.id (insertRange r c.ranges))
  | rangeMapPartial v r m1 c : m.block j 32 32 = some (v, m1) → RangeDesc.parse v = some r → m.ctx? j.pkt.ctx = some c → m.inSpace r = true →
      m.mapTranslates c.id r = true →
      (∀ x, x ∈ c.ranges → x.meets r.baseg r.size = false) → c.ranges.length < Config.rangeLimit → r.isPartial = true →
      CommandEffect m p i j (.rangeMap p i) 4 0 ((List.range r.size).foldl (fun m k => m.setResidency c.id r (r.baseg + k) 0)
        (m1.setRanges c.id (insertRange r c.ranges)))
  | overQuota v r m1 c : m.block j 32 32 = some (v, m1) → RangeDesc.parse v = some r → m.ctx? j.pkt.ctx = some c → m.inSpace r = true →
      (∀ x, x ∈ c.ranges → x.meets r.baseg r.size = false) → c.ranges.length < Config.rangeLimit → r.isPartial = false →
      m1.charge c.id r.agent r.size = none → CommandEffect m p i j (.rangeMap p i) 4 6 m
  | rangeUnmap v m1 c g n hit cores m2 m3 : m.block j 16 64 = some (v, m1) → m.ctx? j.pkt.ctx = some c → field v 0 16 = 0 →
      field v 48 16 = 0 → field v 96 32 = 0 → g = field v 16 32 → n = field v 64 32 → n ≠ 0 → hit = (fun r => r.meets g n && !c.nimom r) →
      c.ranges.filter hit ≠ [] → cores = (m.diesOf p).flatMap (fun d => (List.range Config.coresPerDie).map fun k => (d, k)) →
      c.ranges.length + ((c.ranges.filter hit).map fun r => (r.cut g n).2.length).sum ≤ Config.rangeLimit →
      m1.userOf cores c.id hit = none → m1.lateUserOf cores c.id hit = none → m1.opsUsing (m.diesOf p) c.id hit = [] →
      m2 = (c.ranges.filter hit).foldl (fun m r => m.leave c.id (r.cut g n).1) m1 →
      m3 = m2.setRanges c.id (c.ranges.flatMap fun r => if hit r then (r.cut g n).2 else [r]) →
      CommandEffect m p i j (.rangeUnmap p i) 5 0 ((m3.dropRanges cores c.id hit).announce c.id .pkg)
  | quotaSet v m1 c k : m.block j 16 64 = some (v, m1) → m.ctx? j.pkt.ctx = some c → field v 8 56 = 0 →
      m1.keyOf c.id (c.qtva + 16 * field v 0 8) = some k →
      CommandEffect m p i j (.quotaSet p i) 6 0 (m1.agentAtomic (m1.lead c.id) k 8 fun _ => field v 64 64).2
  | planLoad nums va m1 x ks ps np : m.namedRecord j = some (va, m1) → m.planAt j.pkt.ctx va = none → m.graphAt j.pkt.ctx va = none →
      m1.readPlan p j.pkt.ctx va nums = some (x, ks, ps, np) → m1.resultOk j (2 * np) = true → m1.planFits p (x.stages.zip ks) = true →
      m.pipes.length + np ≤ Config.pipeLimit → nums.length = np → nums.Nodup →
      (∀ n, n ∈ nums → n < Config.pipeLimit ∧ m.pipe? n = none) →
      CommandEffect m p i j (.planLoad p i nums) 7 0
        (({ m1 with plans := m1.plans ++ [x], pipes := m1.pipes ++ ps } : Mach).storeIn j.space j.pkt.args (2 * np)
          (((List.range np).zip nums).map fun q => q.2 * 2 ^ (16 * q.1)).sum)
  | graphLoad va m1 v m2 n vs ns : m.namedRecord j = some (va, m1) → m.planAt j.pkt.ctx va = none → m.graphAt j.pkt.ctx va = none →
      m1.fwLoad j.pkt.ctx va 64 = some (v, m2) → n = field v 0 13 → n ≠ 0 → n ≤ 4096 → field v 13 51 = 0 → field v 112 400 = 0 →
      m2.recordsAt j.pkt.ctx (va + 64) 64 n = some vs → vs.mapM (Node.parse n) = some ns →
      CommandEffect m p i j (.graphLoad p i) 10 0
        { m2 with graphs := m2.graphs ++ [{ ctx := j.pkt.ctx, va := va, condva := field v 64 48, nodes := ns }] }
  | signal cnt k v m1 : m.counterBlock j .atomic = some (cnt, k, v, m1) →
      m1.flushHeld (m1.lead j.pkt.ctx) ((k.map counterScope).getD .pkg) = false → m1.lostAt (m1.lead j.pkt.ctx) .sys = [] →
      CommandEffect m p i j (.signal p i) 11 0 (m1.addCounter j.pkt.ctx cnt v)
  | attest v m1 : m.block j 32 64 = some (v, m1) → m1.resultOk j 512 = true →
      CommandEffect m p i j (.attest p i) 16 0 (m1.storeIn j.space j.pkt.args 512 (m1.report v))
  | stopped x : j.phase = .running → m.planAt j.pkt.ctx j.block = some x → x.stopping = true → m.planSaved x.ctx x.va = true →
      CommandEffect m p i j (.planStop p i) 8 0 (m.endStop p x)
  | notRunning va m1 x : j.phase = .dispatched → m.namedRecord j = some (va, m1) → m.planAt j.pkt.ctx va = some x → x.job = none →
      CommandEffect m p i j (.planStop p i) 8 5 m
  | resumed v r a : j.phase = .running → m.block j 64 64 = some (v, r) → PreemptAsk.parse v = some a → m.resultOk j 8 = true → a.resume = true →
      (∀ x, x ∈ m.stillNamed j → x.2.phase ≠ .saved) →
      CommandEffect m p i j (.preemptResume p i) 13 0 (m.storeIn j.space j.pkt.args 8 j.result)
  | preempted v r a n : j.phase = .running → m.block j 64 64 = some (v, r) → PreemptAsk.parse v = some a → m.resultOk j 8 = true →
      a.resume = false → a.move = false → (∀ x, x ∈ m.stillNamed j → x.2.phase = .saved) → n = (m.stillNamed j).length →
      CommandEffect m p i j (.preempt p i) 13 0 (m.storeIn j.space j.pkt.args 8
        ((n - j.result % 2 ^ 32) % 2 ^ 32 + j.result / 2 ^ 32 % 2 ^ 32 * 2 ^ 32))
  | moved v r a n : j.phase = .running → m.block j 64 64 = some (v, r) → PreemptAsk.parse v = some a → m.resultOk j 8 = true → a.move = true →
      a.target < m.dies.length → m.preemptBar p j.pkt.ctx a = none → m.mayMove p j.pkt.ctx i a.target = true →
      m.sharesFit p j.pkt.ctx a.target = true → (∀ x, x ∈ m.stillNamed j → x.2.phase = .saved) →
      (∀ t, t ∈ m.teams → t.ctx = j.pkt.ctx → t.phase = .exited ∨ t.phase = .saved) → n = (m.stillNamed j).length →
      CommandEffect m p i j (.preemptMove p i) 13 0 ((m.moveContext p j.pkt.ctx i a.target).storeIn j.space j.pkt.args 8
        ((n - j.result % 2 ^ 32) % 2 ^ 32 + j.result / 2 ^ 32 % 2 ^ 32 * 2 ^ 32))

/-- The commands with the size and the alignment of their blocks (18 R334 to R340; 23 R382, R385, R396). -/
inductive BlockOf (p i : Nat) : Instr → Nat → Nat → Nat → Prop where
  | queueCreate : BlockOf p i (.queueCreate p i) 1 16 64
  | contextCreate id sysva pa : BlockOf p i (.contextCreate p i id sysva pa) 2 64 64
  | rangeMap : BlockOf p i (.rangeMap p i) 4 32 32
  | rangeUnmap : BlockOf p i (.rangeUnmap p i) 5 16 64
  | quotaSet : BlockOf p i (.quotaSet p i) 6 16 64
  | planLoad nums : BlockOf p i (.planLoad p i nums) 7 16 64
  | graphLoad : BlockOf p i (.graphLoad p i) 10 16 64
  | signal : BlockOf p i (.signal p i) 11 16 64
  | preempt : BlockOf p i (.preempt p i) 13 64 64
  | preemptResume : BlockOf p i (.preemptResume p i) 13 64 64
  | preemptMove : BlockOf p i (.preemptMove p i) 13 64 64
  | dieReset : BlockOf p i (.dieReset p i) 15 16 64
  | attest : BlockOf p i (.attest p i) 16 32 64
  | domainSet : BlockOf p i (.domainSet p i) 17 80 64

/-- The commands that go on after their dispatch, and what they begin or end (18 R327, R338, R339; 23 R382, R385, R393). -/
inductive CommandEvent (f : Fuse) (m : Mach) (p i : Nat) (j : Job) : Instr → Nat → Mach → Prop where
  | wait cnt k v m1 : j.phase = .dispatched → m.counterBlock j .load = some (cnt, k, v, m1) → m1.resultOk j 8 = true →
      CommandEvent f m p i j (.wait p i) 12 (m1.modJob p i fun j => { j with phase := .running, block := cnt, result := v })
  | released k v m0 m1 : j.phase = .running → m.fwKey j.pkt.ctx j.block .load = some (some k) →
      (m.unblock k).ldaRead (m.lead j.pkt.ctx) k 8 (counterScope k) = some (v, m0) →
      m1 = m0.acquireDrops (m.lead j.pkt.ctx) 0 (counterScope k) → counterMet v j.result = true →
      m1.flushHeld (m.lead j.pkt.ctx) .sys = false → m1.lostAt (m.lead j.pkt.ctx) .sys = [] →
      CommandEvent f m p i j (.waitRelease p i) 12
        ((((m1.storeIn j.space j.pkt.args 8 v).finishJob p i 0).announce j.pkt.ctx .sys).unhold p j.queue)
  | notYet k v m0 : j.phase = .running → m.fwKey j.pkt.ctx j.block .load = some (some k) →
      (m.unblock k).ldaRead (m.lead j.pkt.ctx) k 8 (counterScope k) = some (v, m0) → counterMet v j.result = false →
      CommandEvent f m p i j (.waitRelease p i) 12 m
  | stopBegins va m1 x : j.phase = .dispatched → m.namedRecord j = some (va, m1) → m.planAt j.pkt.ctx va = some x → x.job.isSome = true →
      x.stopping = false → CommandEvent f m p i j (.planStop p i) 8
        ((m1.beginStop x.ctx va).modJob p i fun j => { j with phase := .running, block := va })
  | restarts cores va m1 x ks m2 : j.phase = .dispatched → m.namedRecord j = some (va, m1) → m.planAt j.pkt.ctx va = some x → x.job = none →
      x.stopped = true → (∀ q, q ∈ m.planTeams x.ctx va → m.configOk p q.2 = true) → m1.stageKernels x = some ks →
      m.groupsOk p x (ks.map (·.1)) cores = true → m2 = ((m1.bringBack x).runPlan p i x.ctx va cores).refreshMarks →
      CommandEvent f m p i j (.planRestart p i cores) 9
        (((m2.planTeams x.ctx va).foldl (fun m q => m.modTeam q.1 fun t =>
            { t with suspended := false, sameDie := false, job := i, part := p }) m2).modJob p i fun j => { j with phase := .running, block := va })
  | reconfigures v m1 ks : j.phase = .dispatched → m.block j 576 64 = some (v, m1) → m.linkBlockOk j.space v = true → m1.resultOk j 1024 = true →
      ks = ((List.finRange 32).filter fun k => m.groupChanges v k.val) → ks ≠ [] →
      (∀ k, k ∈ ks → m.isEthernet k.val = false → ∀ q, q ∈ m.pipes → q.remote = true → q.peer ≠ (m.ports.at k).peer) →
      (∀ k, k ∈ ks → (m.ports.at k).job = none) →
      CommandEvent f m p i j (.linkReconf p i) 14 (({ m1 with
        ports := tab fun k =>
          if ks.contains k then
            { m1.ports.at k with
              txring := field v (512 + 128 * k.val) 48, rxring := field v (512 + 128 * k.val + 64) 48, space := j.space
              toEth := some (v.testBit k.val), job := some (p, i) }
          else m1.ports.at k } : Mach).modJob p i fun j => { j with phase := .running })
  | dieReset v m1 d m2 : m.block j 16 64 = some (v, m1) → field v 3 125 = 0 → d = field v 0 3 → d < m.dies.length → m.resetBarred d = false →
      m.flushHeld d .sys = false → m2 = m1.resetDie d → CommandEvent f m p i j (.dieReset p i) 15
        (({ m2 with routes := (m2.routes ++ ((List.range m.dies.length).flatMap fun k => (List.range m.dies.length).map fun e => (k, e)).filter
            (m.crosses f.dmask d)).eraseDups } : Mach).finishJob p i 0)
  | dieInUse v m1 : m.block j 16 64 = some (v, m1) → field v 3 125 = 0 → field v 0 3 < m.dies.length → m.resetBarred (field v 0 3) = true →
      CommandEvent f m p i j (.dieReset p i) 15 (m.finishJob p i 5)
  | domainSet v m1 a m2 : m.block j 80 64 = some (v, m1) → DomAsk.parse m.dies.length v = some a → m.domBusy a = false →
      m.workHeld p = false → m.workLost p = false →
      m2 = ((m1.announceJob p j 0).modJob p i fun j => { j with phase := .complete 0 }) → m2.switching = none →
      CommandEvent f m p i j (.domainSet p i) 17 { (m2.finishSwitch a.img).reform a.pmap with cfg := BitVec.ofNat 8 a.cfg, grant := a.grant, domBlock := v }
  | domainBusy v m1 a : m.block j 80 64 = some (v, m1) → DomAsk.parse m.dies.length v = some a → m.domBusy a = true →
      CommandEvent f m p i j (.domainSet p i) 17 (m.finishJob p i 5)

/-- A running plan's period end, and the nodes of graphs (18 R323, R329, R330). -/
inductive NodeEvent (m : Mach) : Instr → Mach → Prop where
  | notDue ctx va x c : m.planAt ctx va = some x → m.ctx? ctx = some c → c.halt = none → x.job.isSome = true → x.stopping = false →
      m.time c.part < x.due → NodeEvent m (.balancerPeriod ctx va) m
  | due ctx va x c : m.planAt ctx va = some x → m.ctx? ctx = some c → c.halt = none → x.job.isSome = true → x.stopping = false →
      x.due ≤ m.time c.part → NodeEvent m (.balancerPeriod ctx va)
        (((m.modPlan ctx va fun x => { x with due := x.due + x.period }).testCycles c.part x).balance c.part ctx va)
  | kernelBegins j n g y x r v m1 k : m.nodeAt j n = some (g, y, x, r) → x.kind = 0 → r.busy = false → r.ready = true →
      m.fwLoad g.ctx x.obj 64 = some (v, m1) → k = { Packet.parse v with ctx := g.ctx } →
      NodeEvent m (.kernelNode j n) ((m1.nodePacket g j n { k with ord := false, miss := 0 } (decide (k.kind = 0) && m1.packetOk g.part (Queue.zero 0) k)).modGraphJob j
        fun g => { g with nodes := g.nodes.modify n fun r => { r with busy := true } })
  | planBegins j n g y x r : m.nodeAt j n = some (g, y, x, r) → x.kind = 1 → r.busy = false → r.ready = true →
      NodeEvent m (.planNode j n) ((m.nodePacket g j n { Packet.parse 1 with obj := x.obj, ctx := g.ctx } true).modGraphJob j
        fun g => { g with nodes := g.nodes.modify n fun r => { r with busy := true } })
  | kernelEnds j n g y x r k q st : m.nodeAt j n = some (g, y, x, r) → x.kind = 0 → r.busy = true → m.nodeJob g.part j n = some (k, q) →
      q.phase = .complete st → m.lostAt (m.lead g.ctx) .pkg = [] →
      NodeEvent m (.kernelNode j n) (m.nodeDone j n x g.ctx 0 x.next)
  | planEnds j n g y x r k q st : m.nodeAt j n = some (g, y, x, r) → x.kind = 1 → r.busy = true → m.nodeJob g.part j n = some (k, q) →
      q.phase = .complete st → m.lostAt (m.lead g.ctx) .pkg = [] →
      NodeEvent m (.planNode j n) (m.nodeDone j n x g.ctx 0 x.next)
  | signals j n g y x r : m.nodeAt j n = some (g, y, x, r) → x.kind = 2 → r.ready = true →
      m.flushHeld (m.lead g.ctx) (match m.fwKey g.ctx x.obj .atomic with | some (some k) => counterScope k | _ => .pkg) = false →
      m.lostAt (m.lead g.ctx) .pkg = [] → NodeEvent m (.signalNode j n) ((m.addCounter g.ctx x.obj x.inc).nodeDone j n x g.ctx 0 x.next)
  | lost j n g y x r k ks : m.nodeAt j n = some (g, y, x, r) → x.kind = 2 → r.ready = true →
      m.flushHeld (m.lead g.ctx) (match m.fwKey g.ctx x.obj .atomic with | some (some k) => counterScope k | _ => .pkg) = false →
      m.lostAt (m.lead g.ctx) .pkg = k :: ks →
      NodeEvent m (.signalNode j n) (((m.announce g.ctx .pkg).modGraphJob j fun g => { g with live := false }).stopContext g.ctx 0x53
        (some { TrapRec.of 0x45 with edesc := g.va, va := m.vaOf g.ctx (32 * k), ctx := g.ctx, die := m.lead g.ctx }) .stopped)
  | branches j n g y x r w m1 : m.nodeAt j n = some (g, y, x, r) → x.kind = 3 → r.ready = true →
      m.lostAt (m.lead g.ctx) .pkg = [] → m.condWord g y x = (w, m1) →
      NodeEvent m (.conditionalNode j n) (m1.nodeDone j n x g.ctx 0 (x.branch (if w ≠ 0 then 0 else 1)))
  | iterates j n g y x r w m1 : m.nodeAt j n = some (g, y, x, r) → x.kind = 4 → r.ready = true →
      m.lostAt (m.lead g.ctx) .pkg = [] → m.condWord g y x = (w, m1) → w ≠ 0 →
      r.iters < x.bound → NodeEvent m (.whileNode j n) (m1.nodeDone j n x g.ctx (r.iters + 1) (x.branch 0))
  | leaves j n g y x r w m1 : m.nodeAt j n = some (g, y, x, r) → x.kind = 4 → r.ready = true →
      m.lostAt (m.lead g.ctx) .pkg = [] → m.condWord g y x = (w, m1) →
      (w = 0 ∨ x.bound ≤ r.iters) → NodeEvent m (.whileNode j n) (m1.nodeDone j n x g.ctx 0 (x.branch 1))
  | arrives j n g y x r : m.nodeAt j n = some (g, y, x, r) → n ∈ g.sent →
      NodeEvent m (.graphEnqueueArrive j n) (m.modGraphJob j fun g =>
        let g1 := GraphJob.wake { g with sent := g.sent.erase n, nodes := g.nodes.modify n fun r => { r with credits := r.credits + 1 } } n x
        { g1 with count := g1.count - 1 })

/-- The package: cache domains, links, ports and the device reset (23 R380 to R395, 18 R404). -/
inductive PackageEvent (f : Fuse) (m : Mach) : Instr → Mach → Prop where
  | begins (d : Fin 8) x new : 2 ^ 31 ≤ x.toNat → m.switching = none →
      new = m.domPend.put ⟨2 * d.val, by omega⟩ (x &&& 0x1FFFEFFF) → applyOk m.dies.length m.domCur new = true →
      PackageEvent f m (.apply d x) { m with switching := some ({ t := 0, w := 0, slice := 8 }, new) }
  | refused (d : Fin 8) x : 2 ^ 31 ≤ x.toNat → m.switching = none →
      applyOk m.dies.length m.domCur (m.domPend.put ⟨2 * d.val, by omega⟩ (x &&& 0x1FFFEFFF)) = false → PackageEvent f m (.apply d x) m
  | noApply (d : Fin 8) x : x.toNat < 2 ^ 31 → PackageEvent f m (.apply d x) m
  | ends (d : Fin 8) x t new : 2 ^ 31 ≤ x.toNat → m.switching = some (t, new) → PackageEvent f m (.apply d x) (m.finishSwitch new)
  | resent r rs : m.refused = r :: rs → (∀ i, i < r.bytes.length → m.refuses (r.pa + i) = false) →
      PackageEvent f m .requestResend
        { (List.range r.bytes.length).foldl (fun m i => m.outsideWrite (r.pa + i) 1 (r.bytes.getD i 0).toNat) m with refused := rs }
  | registerWrite (k : Fin 8) v : PackageEvent f m (.registerWrite (0x4000 + 8 * k.val) v) { m with q0addr := m.q0addr.put k (v % 2 ^ 64) }
  | dark port : (m.ports.at port).job.isSome = true →
      PackageEvent f m (.drainMarkerAck port) { m with ports := m.ports.put port { m.ports.at port with state := 3 } }
  | relocked port peer lambda q p i eth : m.ports.at port = q → q.job = some (p, i) → q.toEth = some eth → q.state = 3 →
      PackageEvent f m (.portRelock port peer lambda true)
        (({ m with
            ports := m.ports.put port { q with state := 2, peer := if eth then 0 else peer % 1024, lambda := if eth then 0 else lambda % 2 ^ 32
                                               toEth := none, job := none }
            assign := laneMask fun k => if k = port then eth else m.assign.getLsbD k.val } : Mach).releaseHeld.endReconf p i)
  | locking port peer lambda : (m.ports.at port).job = none → (m.ports.at port).state = 0 →
      PackageEvent f m (.portLock port peer lambda) { m with ports := m.ports.put port { m.ports.at port with state := 1 } }
  | locked port peer lambda : (m.ports.at port).job = none → (m.ports.at port).state = 1 → m.isEthernet port.val = false →
      PackageEvent f m (.portLock port peer lambda)
        { m with ports := m.ports.put port { m.ports.at port with state := 2, peer := peer % 1024, lambda := lambda % 2 ^ 32 } }
  | renewed port lambda : (m.ports.at port).state = 2 → m.isEthernet port.val = false →
      PackageEvent f m (.lambdaRenew port lambda) { m with ports := m.ports.put port { m.ports.at port with lambda := lambda % 2 ^ 32 } }
  | replayed n : PackageEvent f m (.flitReplay n) m
  | leasePasses x y d : m.dies[m.lease]? = some x → x.halted = true → m.dies[d]? = some y → y.halted = false →
      (∀ k z, k < d → m.dies[k]? = some z → z.halted = true) → PackageEvent f m .hostLeasePass { m with lease := d }
  | leaseStays x : m.dies[m.lease]? = some x → x.halted = false → PackageEvent f m .hostLeasePass m

/-- Accesses from outside the package (12 R229 to R231; 23 R386, R390, R392; 18 R318). -/
inductive OutsideEvent (m : Mach) : Instr → Mach → Prop where
  | hostWrite pa bs k : m.hostKey pa bs.length = some k → keyClass k ≠ 2 → (∀ i, i < bs.length → m.refuses (k + i) = false) → m.refused = [] →
      OutsideEvent m (.hostWrite pa bs) (m.outsideWrite k bs.length (bytesValue bs))
  | peerWrite pa bs k : m.packageKey pa bs.length = some k → m.peerIn = true → peerSize pa bs.length = true → keyClass k ≠ 2 →
      (∀ i, i < bs.length → m.refuses (k + i) = false) → m.refused = [] →
      OutsideEvent m (.peerWrite pa (bs.map some)) (m.outsideWrite k bs.length (bytesValue bs))
  | peerPart pa bs k : m.packageKey pa bs.length = some k → m.peerIn = true → peerSize pa bs.length = true →
      OutsideEvent m (.peerWrite pa bs) ((enabledRuns 0 bs).foldl (fun m r => m.fromOutside (k + r.1) r.2) m)
  | hostRead pa n k : m.hostKey pa n = some k → m.switching = none → m.refused = [] →
      OutsideEvent m (.hostRead (.memory pa) n) { m with hostReads := m.hostReads ++ [bytesOf n (m.homeRead k n)] }
  | peerRead pa n k : m.packageKey pa n = some k → m.peerIn = true → peerSize pa n = true → m.switching = none → m.refused = [] →
      OutsideEvent m (.peerRead pa n) { m with hostReads := m.hostReads ++ [bytesOf n (m.homeRead k n)] }
  | hostAtomic pa x o y c n k v m2 : n = (if x = true then 8 else 4) → m.hostKey pa n = some k → k % n = 0 → atomSupported true 2 o = true →
      keyClass k ≠ 2 → m.switching = none → m.refused = [] → v = m.homeRead k n →
      m2 = m.outsideWrite k n (AtomOp.apply o (8 * n) v (y % 2 ^ (8 * n)) (c % 2 ^ (8 * n))) →
      OutsideEvent m (.hostAtomicop pa x o y c) { m2 with hostReads := m2.hostReads ++ [bytesOf n v] }
  | peerAtomic pa x o y c n k v m2 : n = (if x = true then 8 else 4) → m.packageKey pa n = some k → m.peerIn = true → k % n = 0 →
      atomSupported true 3 o = true → keyClass k ≠ 2 → m.switching = none → m.refused = [] → v = m.homeRead k n →
      m2 = m.outsideWrite k n (AtomOp.apply o (8 * n) v (y % 2 ^ (8 * n)) (c % 2 ^ (8 * n))) →
      OutsideEvent m (.peerAtomic pa x o y c) { m2 with hostReads := m2.hostReads ++ [bytesOf n v] }
  | received port bs r va sp : m.ethernetRing port true = some (r, va) → bs.length ≤ frameLimit → r.room ≠ 0 → sp = (m.ports.at port).space →
      OutsideEvent m (.ethernetRx port bs (crc32 bs))
        ((m.writeIn sp (r.entry r.pi.toNat) bs.length (bytesValue bs)).writeIn sp (va + 8) 4 (r.pi + 1).toNat)
  | lostFrame port bs fcs : fcs ≠ crc32 bs → OutsideEvent m (.ethernetRx port bs fcs) m
  | sent port r va sp n m1 bs : m.ethernetRing port false = some (r, va) → r.held ≠ 0 → sp = (m.ports.at port).space →
      n = min (2 ^ r.elg) frameLimit → m1 = m.writeIn sp (va + 12) 4 (r.ci + 1).toNat → bs = bytesOf n (m.readIn sp (r.entry r.ci.toNat) n) →
      OutsideEvent m (.ethernetTx port) { m1 with frames := m1.frames ++ [(port.val, bs ++ bytesOf 4 (crc32 bs))] }
  | reserved pipe slot bs p j q : m.pipe? pipe = some p → p.remote = true → p.reserve = some (j, q) →
      OutsideEvent m (.remotePipeRequest pipe false slot bs) (m.setPipe q)
  | committed pipe slot bs p : m.pipe? pipe = some p → p.remote = true → p.stateOf slot = some .reserved →
      OutsideEvent m (.remotePipeRequest pipe true slot bs) (((List.range (min bs.length p.slotSize)).foldl (fun m i =>
        m.putBytes p.home p.ctx (p.slotAddr slot + i) 1 (bs.getD i 0).toNat) m).commitSlot pipe slot [])

/-- Epochs that close by themselves, matrix units, errors, the debugger, temperature and power (12 R225; 01 R24, R27; 05 R95;
21 R369 to R378; 23 R397; 25 R402). -/
inductive MachineEvent (m : Mach) : Instr → Mach → Prop where
  | timeout d x t : m.dies[d]? = some x → x.firstWrite = some t → t + Config.epochCycles ≤ m.now →
      MachineEvent m (.epochTimeout d) (m.closeEpoch d)
  | early d x t : m.dies[d]? = some x → x.firstWrite = some t → m.now < t + Config.epochCycles → MachineEvent m (.epochTimeout d) m
  | full d x : m.dies[d]? = some x → Config.dirtyLimit ≤ x.sectors.length → MachineEvent m (.dirtyTableFull d) (m.closeEpoch d)
  | lineFill t w tid line x y : m.teams[t]? = some x → m.warp? t w = some y →
      MachineEvent m (.scaleLineFill t w tid line) (m.fetchScale x.die y.core x.ctx tid line x.super)
  | unitRestored d c u : MachineEvent m (.matrixUnitRestore d c u)
      (m.modCore d c fun x => { x with retained := x.retained &&& ~~~(BitVec.ofNat 4 (2 ^ u)) })
  | unitRetained d c u : (∀ t, t ∈ m.teams → t.die = d → ∀ x, x ∈ t.warps → x.core = c → x.mma = []) →
      MachineEvent m (.matrixUnitRetention d c u) (m.modCore d c fun x => { x with retained := x.retained ||| BitVec.ofNat 4 (2 ^ u) })
  | halts ctx : MachineEvent m (.debuggerHalt ctx) (m.modCtx ctx fun c => { c with haltDue := c.halt.isNone })
  | haltsContext ctx : MachineEvent m (.contextStop ctx 0x50) (m.modCtx ctx fun c => { c with haltDue := c.halt.isNone })
  | resumes ctx : (∀ c, c ∈ m.contexts → c.haltDue = false) → MachineEvent m (.debuggerResume ctx)
      (m.modCtx ctx fun c => if c.halt = some .debugger then { c with halt := none, stops := [] } else c)
  | attaches ctx on : MachineEvent m (.debuggerAttach ctx on) (m.modCtx ctx fun c => { c with debugger := on })
  | reports ctx c : m.ctx? ctx = some c → c.halt.isSome = true → c.reported = false → m.haltedDie c.stopDie = false →
      m.flushHeld c.stopDie .sys = false → m.lostAt c.stopDie .sys = [] → m.stopsLost c = false →
      MachineEvent m (.stopReport ctx) { ((m.release c.stopDie .sys).modCtx ctx fun c => { c with reported := true }) with
        msix := (m.release c.stopDie .sys).msix ++ [(c.part, 0)] }
  | corrected (d : Fin 8) c : MachineEvent m (.eccCorrected d c) (m.modDie d.val fun x => { x with ecc :=
      (x.ecc.1 + (if c = .register then 1 else 0), x.ecc.2.1 + (if c = .sram then 1 else 0), x.ecc.2.2 + (if c = .link then 1 else 0)) })
  | poisoned t w n l x : m.warp? t w = some x → (n, l) ∉ x.poison →
      MachineEvent m (.registerPoison t w n l) (m.modWarp t w fun x => { x with poison := (n, l) :: x.poison })
  | lost d k x : m.dies[d]? = some x → k ∈ x.sectors → MachineEvent m (.sectorLoss d k) (m.modDie d fun x =>
      { x with
        dirty := x.dirty.filter fun c => sectorOf c.1 ≠ k, dirtyAt := x.dirtyAt.filter fun a => sectorOf a ≠ k
        sectors := x.sectors.filter (· ≠ k), lost := addNew x.lost k })

/-- What the islands do (23 R397, 01 R23, R27): a measured temperature from 105 degrees on lowers the frequency, one below ends that, and
a power limit lowers it. -/
inductive IslandEvent (f : Fuse) (m : Mach) : Instr → Mach → Prop where
  | throttled (n : Fin 1024) temp freq : islandOff f.dmask n.val = false → 105 ≤ temp →
      IslandEvent f m (.thermalThrottle ⟨n, freq⟩ temp)
        { m with
          temps := (n.val, temp) :: m.temps.filter fun e => e.1 ≠ n.val
          freqs := ((islandGroup n.val).map fun i => (i, freq)) ++ m.freqs.filter fun e => !(islandGroup n.val).contains e.1 }
  | cool (n : Fin 1024) temp freq : islandOff f.dmask n.val = false → temp < 105 →
      IslandEvent f m (.thermalThrottle ⟨n, freq⟩ temp)
        { m with
          temps := (n.val, temp) :: m.temps.filter fun e => e.1 ≠ n.val
          freqs := m.freqs.filter fun e => !(islandGroup n.val).contains e.1 }
  | power (n : Fin 1024) freq : islandOff f.dmask n.val = false →
      IslandEvent f m (.powerLimit ⟨n, freq⟩)
        { m with freqs := ((islandGroup n.val).map fun i => (i, freq)) ++ m.freqs.filter fun e => !(islandGroup n.val).contains e.1 }
  | offThrottle (n : Fin 1024) temp freq : islandOff f.dmask n.val = true → IslandEvent f m (.thermalThrottle ⟨n, freq⟩ temp) m
  | offPower (n : Fin 1024) freq : islandOff f.dmask n.val = true → IslandEvent f m (.powerLimit ⟨n, freq⟩) m

/-- What the host reads in BAR 0 and over the sideband (23 R386, R391, R395 to R397; 01 R31; 25 R401). -/
inductive HostReads (f : Fuse) (m : Mach) : HostAddr → Nat → List Byte → Prop where
  | config : HostReads f m (.register 0) 4 (bytesOf 4 f.pkgcfg.toNat)
  | time (p : Fin 8) : HostReads f m (.register (0x2000 + 8 * p.val)) 8 (bytesOf 8 (m.time p.val))
  | link (k : Fin 32) : HostReads f m (.register (0x3000 + 32 * k.val)) 32 (bytesOf 32 (m.linkRecord k))
  | queue0 (p : Fin 8) : HostReads f m (.register (0x4000 + 8 * p.val)) 8 (bytesOf 8 (m.q0addr.at p))
  | registers d x n : m.dies[d.val]? = some x → HostReads f m (.errors d .register) n (bytesOf n x.ecc.1)
  | srams d x n : m.dies[d.val]? = some x → HostReads f m (.errors d .sram) n (bytesOf n x.ecc.2.1)
  | links d x n : m.dies[d.val]? = some x → HostReads f m (.errors d .link) n (bytesOf n x.ecc.2.2)
  | temperature (i : Fin 1024) n v : islandOff f.dmask i.val = false → (m.temps.find? fun e => e.1 == i.val) = some (i.val, v) →
      HostReads f m (.temperature i) n (bytesOf n v)
  | refusal n : HostReads f m .refusal n (bytesOf n m.imageRefused.toNat)
  | halted d x n : m.dies[d]? = some x → HostReads f m (.halted d) n (bytesOf n x.halted.toNat)
  | haltedMemory d k x n : m.dies[d]? = some x → x.halted = true →
      HostReads f m (.dieMemory d k) n ((List.range n).map fun i => x.byte m.home (k + i))

/-- The events that stop a context, with the cause of their records (21 R369, R378; 09 R179). -/
inductive StopEvent (c : Nat) : Instr → Nat → Halt → Prop where
  | contextError : StopEvent c (.contextStop c 0x52) 0x52 .stopped
  | state : StopEvent c (.uncorrectableStateError c) 0x52 .stopped

end Sys2Proof.Machine
end

