-- ==== Sys2Proof/Certificates/Slice0/Obligations.lean ====
section
/-! DEFINITION. The statements for the provers. Each docstring names the rules of the spec that the statement formalises, or says that it is
the model's. -/

open Sys2Proof Sys2Proof.Machine

/-- The machine without the instruction lines of a core and what its loop buffer `q` holds. -/
def Sys2Proof.Machine.Mach.noInstrLines (m : Mach) (d c : Nat) (q : Fin 4) : Mach :=
  m.modCore d c fun x => { x with icache := { lines := [], data := [] }, loops := x.loops.put q [] }

/-! ### Results of the register instructions -/

/-- 10 R188 in every form, 07 R114: each instruction of the table, admitted at issue, completes with its result in the register that each
active lane's name selects and in b0, and changes nothing else. 10 R189 to R191, R193: VMAD, VABS, VCLZ, VPOPC, VBREV, VSAT and VSEL
complete with their results. 07 R102: the 16-bit forms without float exceptions complete; the destination of the two-operand ones is their
first source. 10 R203, R200: VMOV, VMOVK and VPACK.I16 complete with their results. -/
def Obligations.VectorResults : Prop :=
  (∀ (s : State) (g : Issue) (i : Instr) (d : Dst) (r : Mach → Issue → Fin 32 → Word),
     LaneResult i d r → Admits s.m g i → ∃ x, WritesLanes s g i d (r s.m g) x) ∧
  (∀ (s : State) (g : Issue) (i : Instr) (d : Dst) (r : Mach → Issue → Fin 32 → Word),
     LaneResult' i d r → Admits s.m g i → ∃ x, WritesLanes s g i d (r s.m g) x) ∧
  (∀ (s : State) (g : Issue) (i : Instr) (d : Fin 64) (r : Issue → Fin 32 → Word),
     ShortResult i d r → Admits s.m g i → ∃ x, WritesLanes s g i ⟨false, d⟩ (r g) x) ∧
  (∀ (s : State) (g : Issue) (i : Instr) (d : Dst) (r : Mach → Issue → Fin 32 → Word),
     MoveResult i d r → Admits s.m g i → ∃ x, WritesLanes s g i d (r s.m g) x)

/-- 10 R194 to R201, R208, R209, 05 R89: a float, conversion or reduction instruction none of whose active lanes raises an
enabled exception completes with its results. 05 R89: if an active lane raises an enabled exception the instruction is a precise
trap of cause 0x21, whose record holds every exception raised in an active lane and the lowest lane that raises an enabled one.
Where the bits of a special function are open, the result is a free value (DESIGN CHOICE: assumption log 9); that the record holds
the masked exceptions raised beside an enabled one, in whatever active lane, is a DESIGN CHOICE: assumption log 76; the lane of a
record, the inexact bit of a conversion that saturates and the NaN of a reduction are DEDUCED: assumption log 26, 29, 34. -/
def Obligations.FloatResults : Prop :=
  (∀ (s : State) (g : Issue) (i : Instr) (d : Dst) (r : Mach → Issue → Fin 32 → Nat × Exc),
     RaisesFloat i d r → Admits s.m g i → g.quiet (fun l => (r s.m g l).2) →
       ∃ x, WritesLanes s g i d (fun l => BitVec.ofNat 32 (r s.m g l).1) x) ∧
  (∀ (s : State) (g : Issue) (i : Instr) (d : Dst) (r : Mach → Issue → Fin 32 → Nat × Exc) (k : Fin 32),
     RaisesFloat i d r → Admits s.m g i → g.active k = true → (r s.m g k).2.traps g.warp.ften = true →
       (∀ l, g.active l = true → (r s.m g l).2.traps g.warp.ften = true → k ≤ l) →
       ∃ fex : Nat, exec i s = .next { s with m := s.m.trap g i { TrapRec.of 0x21 with fex := fex, lane := k.val } } ∧
         ∀ b, fex.testBit b = true ↔ ∃ l, g.active l = true ∧ (r s.m g l).2.bits.testBit b = true)

/-- 10 R202: VQNT of a width from 2 to 8 completes with each lane's mantissa and the shared exponent of the block, VDQNT with the value of
the mantissa. -/
def Obligations.BlockFloatResults : Prop :=
  ∀ (s : State) (g : Issue) (d : Dst) (a : Src) (k : Fin 128) (w : Nat), (s.m.imm k).toNat = w → 2 ≤ w → w ≤ 8 →
    (Admits s.m g (.vqnt d a k) → (bfpQuantise w (g.block a)).2.2.traps g.warp.ften = false →
      ∃ x, WritesLanes s g (.vqnt d a k) d (fun l =>
        BitVec.ofInt 32 ((bfpQuantise w (g.block a)).1 * 2 ^ 24 + (bfpQuantise w (g.block a)).2.1.getD l.val 0 % 256)) x) ∧
    (Admits s.m g (.vdqnt d a k) →
      ∃ x, WritesLanes s g (.vdqnt d a k) d (fun l =>
        BitVec.ofNat 32 (F32.pattern (bfpVal w ((g.warp.src a l).toNat / 2 ^ 24) (sextNat (g.warp.src a l).toNat w)))) x)

/-- 10 R192, 09 R161: a compare completes with CM of the active lanes set from its condition, and writes nothing else. 10 R197: VFCMP
completes with CM of the active lanes set, unless an enabled exception is raised. -/
def Obligations.CompareResults : Prop :=
  (∀ (s : State) (g : Issue) (i : Instr) (c : Mach → Issue → Fin 32 → Bool), Compare i c → Admits s.m g i →
     ∃ x, WritesCm s g i (c s.m g) x) ∧
  (∀ (s : State) (g : Issue) (c : FCond) (a b : Src), Admits s.m g (.vfcmp c a b) →
     g.quiet (fun l => (FCond.holds c F32 (g.warp.srcF32 a l).toNat (g.warp.srcF32 b l).toNat).2) →
     ∃ x, WritesCm s g (.vfcmp c a b) (fun l => (FCond.holds c F32 (g.warp.srcF32 a l).toNat (g.warp.srcF32 b l).toNat).1) x)

/-- 09 R158, R162: the scalar instructions complete with their results. 09 R160: the 64-bit additions complete with the sum mod 2^64 in the
pair, and write no latch. 09 R177: MSAVE, MPOP and MFIRST complete with the mask, its number of set bits and its lowest set bit, 32 if it is
0. 10 R213: MTR completes with the register that its renaming table entry names. -/
def Obligations.ScalarResults : Prop :=
  (∀ (s : State) (g : Issue) (i : Instr) (d : SDst) (r : Mach → Issue → Word),
     ScalarResult i d r → Admits s.m g i → ∃ x, WritesScalar s g i d (r s.m g) x) ∧
  (∀ (s : State) (g : Issue) (i : Instr) (d : Fin 32) (r : Mach → Issue → Nat), PairResult i d r → Admits s.m g i →
     ∃ x, WritesPair s g i d (r s.m g) x) ∧
  (∀ (s : State) (g : Issue) (i : Instr) (d : SDst) (r : Issue → Word), MaskRead i d r → Admits s.m g i → ∃ x, WritesScalar s g i d (r g) x) ∧
  (∀ (s : State) (g : Issue) (d : SDst) (a : Src) (p : Fin 4) (e : Fin 16), Admits s.m g (.mtr d a) →
     (g.warp.one a).toNat % 64 = 16 * p.val + e.val →
     ∃ x, WritesScalar s g (.mtr d a) d (Spec.word ((g.warp.ren.at p).at e).val) x)

/-- 09 R159: a division by a divisor that is not 0 completes with its result; one by 0 takes the precise trap of cause 0x20. -/
def Obligations.DivisionResults : Prop :=
  ∀ (s : State) (g : Issue) (i : Instr) (d : SDst) (a b : Src) (op : Word → Word → Word), Division i d a b op → Admits s.m g i →
    (g.warp.one b ≠ 0 → ∃ x, WritesScalar s g i d (op (g.warp.one a) (g.warp.one b)) x) ∧
    (g.warp.one b = 0 → exec i s = .next { s with m := s.m.trap g i (TrapRec.of 0x20) })

/-- 09 R176, R177: a mask instruction that writes a mask completes with the bits that its table gives, in the lanes that it may write. -/
def Obligations.MaskWrites : Prop :=
  ∀ (s : State) (g : Issue) (i : Instr) (k : MaskName) (on c : Issue → Fin 32 → Bool), MaskResult i k on c → Admits s.m g i →
    ∃ x, WritesMask s g i k (on g) (c g) x

/-- 10 R206, R207: a shuffle or broadcast whose source lanes hold no poison completes with the value of the source lane and with CM. 10
R205, R203: a vote whose member lanes hold no poison and VMOVS whose lane holds none complete with their results. -/
def Obligations.CrossLaneResults : Prop :=
  (∀ (s : State) (g : Issue) (i : Instr) (d : Dst) (a : Src) (q : Mach → Issue → Fin 32 → Option Nat), Shuffle i d a q → Admits s.m g i →
     g.unpoisoned a (fun _ => true) →
     ∃ x, WritesShuffle s g i d (fun l => g.shuffled a l (q s.m g l)) (fun l => g.shuffledCm (q s.m g l)) x) ∧
  (∀ (s : State) (g : Issue) (a b : Src),
     (∀ (d : Dst) (u : Fin 4), Admits s.m g (.vvote d a b u) → g.unpoisoned a (fun j => (g.warp.one b).getLsbD j.val) →
       ∃ x, WritesLanes s g (.vvote d a b u) d (g.vote a b u) x) ∧
     (∀ d : SDst, Admits s.m g (.vmovs d a b) → g.unpoisoned a (fun j => decide (j = laneAt (g.warp.one b).toNat)) →
       ∃ x, WritesScalar s g (.vmovs d a b) d
         (if g.single a ∨ g.active (laneAt (g.warp.one b).toNat) then g.warp.src a (laneAt (g.warp.one b).toNat) else 0) x))

/-- 10 R210 to R213, 09 R181, R175, 03 R62: the instructions whose only effect is one on the warp's own state complete with it. -/
def Obligations.WarpEffects : Prop :=
  ∀ (s : State) (g : Issue) (i : Instr) (f : Warp → Warp), WarpEffect s.m g i f → Admits s.m g i → ∃ x, Changes s g i f x

/-! ### Control -/

/-- 09 R164, R167 to R171: BRA, JMP, RET, CALL, a LOOP of count 0 and LBRK complete with the whole gang at their target. 09 R169, R170:
any other LOOP completes with its level set and the gang at its next instruction, where the end of a loop body applies. -/
def Obligations.Transfers : Prop :=
  (∀ (s : State) (g : Issue) (i : Instr) (pc : Nat) (f : Warp → Warp), Transfer g i pc f → Admits s.m g i → ∃ x, Jumps s g i pc f x) ∧
  (∀ (s : State) (g : Issue) (o : BitVec 16) (x : Fin 32) (l : Fin 3), g.warp.s.at x ≠ 0 → Admits s.m g (.loop o x l) →
     ∃ y, EntersLoop s g o x l y)

/-- 09 R165, 03 R49, R50: BRC and BRC.N complete slice by slice where sub-gangs and stacks have room; else they trap with 0x24, or with
0x23. -/
def Obligations.ConditionalBranches : Prop :=
  ∀ (s : State) (g : Issue) (i : Instr) (off : BitVec 16) (want : Bool) (o : Fin 8 → Outcome),
    i = (if want then .brc off else .brcN off) → Admits s.m g i → (∀ j, g.inGang j → BrcOutcome g off want j (o j)) →
      (g.fits s.m o → ∃ x, Parts s g i o x) ∧
      (s.m.gangLimit g < g.gangCount o → exec i s = .next { s with m := s.m.trap g i (TrapRec.of 0x24) }) ∧
      (g.gangCount o ≤ s.m.gangLimit g → (∃ j, g.inGang j ∧ s.m.stackDepth g < (o j).stack.length) →
        exec i s = .next { s with m := s.m.trap g i (TrapRec.of 0x23) })

/-- 09 R166, R165, 03 R49, R50: SWITCH completes slice by slice where sub-gangs and stacks have room: a slice goes with its lowest
active lane, and the lanes of each other outcome are pushed; else it traps with 0x24, or with 0x23. -/
def Obligations.Switches : Prop :=
  ∀ (s : State) (g : Issue) (d : Fin 64) (cs : List SwCase) (o : Fin 8 → Outcome), Admits s.m g (.switch d cs) →
    (∀ j, g.inGang j → SwitchOutcome g d cs j (o j)) →
      (g.fits s.m o → ∃ x, Parts s g (.switch d cs) o x) ∧
      (s.m.gangLimit g < g.gangCount o → exec (.switch d cs) s = .next { s with m := s.m.trap g (.switch d cs) (TrapRec.of 0x24) }) ∧
      (g.gangCount o ≤ s.m.gangLimit g → (∃ j, g.inGang j ∧ s.m.stackDepth g < (o j).stack.length) →
        exec (.switch d cs) s = .next { s with m := s.m.trap g (.switch d cs) (TrapRec.of 0x23) })

/-- 03 R50, R51, R52: at REGANG.W and REGANG.N slices with a pending entry go to its other side; slices of a ganged warp that
have none rejoin and go on. 03 R51: at REGANG.W a gang whose slices have no pending entry waits there while some other live
slice is elsewhere, and with the last gang every live slice goes on. 03 R51, 09 R172: REGANG.N merges the slices of its gang that
have no pending entry with those at its PC whose stack is empty. 03 R50: the stack at a REGANG. A pending entry on top sends the
slice to its side, with its lanes, and becomes a join; a join on top restores EXEC and is taken off. How slices that wait
regroup is DEDUCED: assumption log 15; that no REGANG tests the sub-gang capacity is a DESIGN CHOICE: assumption log 71. -/
def Obligations.Rejoining : Prop :=
  (∀ (s : State) (g : Issue) (i : Instr), i = .regangW ∨ i = .regangN → Admits s.m g i →
     ((∀ j, g.inGang j → (g.regang j).1.isSome) → ∃ x, Parts s g i g.regangOut x) ∧
     (g.ganged = true → (∀ j, g.inGang j → (g.regang j).1 = none) → ∃ x, Rejoins s g i x)) ∧
  (∀ (s : State) (g : Issue) (k : Fin 8), Admits s.m g .regangW → (∀ j, g.inGang j → (g.regang j).1 = none) →
     g.live.getLsbD k.val = true → ¬ g.inGang k → ((g.warp.slices.at k).wait ≠ .regang ∨ (g.warp.slices.at k).pc ≠ g.pc % 2 ^ 48) →
     ∃ x, exec .regangW s = .next (s.withWarp g x) ∧ x.v = g.warp.v ∧ x.s = g.warp.s ∧
       ∀ j, if g.inGang j then (x.slices.at j).wait = .regang ∧ (x.slices.at j).pc = g.pc % 2 ^ 48 else x.slices.at j = g.warp.slices.at j) ∧
  (∀ (s : State) (g : Issue), Admits s.m g .regangW → (∀ j, g.inGang j → (g.regang j).1 = none) →
     (∀ k : Fin 8, g.live.getLsbD k.val = true → ¬ g.inGang k →
       (g.warp.slices.at k).wait = .regang ∧ (g.warp.slices.at k).pc = g.pc % 2 ^ 48) →
     ∃ x, Merges s g .regangW (fun j => g.live.getLsbD j.val) x) ∧
  (∀ (s : State) (g : Issue), Admits s.m g .regangN → (∃ j, g.inGang j ∧ (g.regang j).1 = none) → ∃ x, Merges s g .regangN g.merged x) ∧
  (∀ (a : BitVec 4) (pc : Nat) (mask outer : BitVec 4) (t : List DivEntry),
     regangStack a (⟨.pending, pc, mask, outer⟩ :: t) = (some pc, mask, ⟨.join, pc, mask, outer⟩ :: t) ∧
     regangStack a (⟨.join, pc, mask, outer⟩ :: t) = regangStack outer t ∧ regangStack a [] = (none, a, []))

/-- 03 R58, 09 R173: EXIT of a converged warp with nothing in flight ends the warp, and the team with its last warp. 03 R62: YIELD of a
ganged warp whose PREQ is set saves it at the next instruction. That its divergence stacks may hold entries is a DESIGN CHOICE:
assumption log 72. -/
def Obligations.ExitsAndYields : Prop :=
  (∀ (s : State) (g : Issue), Admits s.m g .exit → g.converged = true → g.warp.ifs + g.warp.ifg + g.warp.ift = 0 → g.warp.flight = [] →
     ∃ m, exec .exit s = .next { s with m := m } ∧ (m.warp? g.t g.w).map (·.run) = some .exited ∧
       (g.team.served = none → s.m.teamBusy g.t = false → (∀ w x, w ≠ g.w → g.team.warps[w]? = some x → x.run = .exited) →
         (m.teams[g.t]?).map (·.phase) = some .exited)) ∧
  (∀ (s : State) (g : Issue), Admits s.m g .yield → g.warp.preq = true → g.ganged = true → g.team.served = none →
     ∃ m x, exec .yield s = .next { s with m := m } ∧ m.warp? g.t g.w = some x ∧ x.run = .saved ∧ x.s = g.warp.s ∧
       ∀ j, g.inGang j → (x.slices.at j).pc = g.nextPc .yield % 2 ^ 48)

/-! ### Traps and the system -/

/-- The precise traps of admitted instructions, each rule named at its case: the instruction takes the trap of its cause. Those of
ERSET, of the pipe instructions and of the posts follow every earlier memory instruction. 07 R120, R121: an instruction of privilege S
that a warp of privilege U issues takes the trap of cause 0x05, but for an APPLY whose value is refused. Causes and lanes that no rule names are DEDUCED: assumption log 10, 11,
13, 26, 30. -/
def Obligations.PreciseTraps : Prop :=
  (∀ (s : State) (g : Issue) (i : Instr) (r : TrapRec), TrapCase s.m g i r → Admits s.m g i →
     exec i s = .next { s with m := s.m.trap g i r }) ∧
  (∀ (s : State) (g : Issue) (i : Instr) (r : TrapRec) (m' : Mach), LastTrap s.m g i r m' → AdmitsLast s.m g i →
     exec i s = .next { s with m := m'.trap g i r }) ∧
  (∀ (s : State) (g : Issue) (i : Instr), Privileged s.m g i → Reaches s.m g i → g.team.super = false →
     exec i s = .next { s with m := s.m.trap g i (TrapRec.of 0x05) })

/-- 21 R361, R364, R366, 07 R119: a precise trap that goes to a handler leaves the warp as it was before the instruction,
stopped with its record, whose PC is the instruction's and whose RPC is where it resumes. 21 R365, R369: an event of a group
whose route is 0 stops the context. The address of a record is a DESIGN CHOICE: assumption log 17. -/
def Obligations.TrapEntry : Prop :=
  (∀ (m : Mach) (g : Issue) (i : Instr) (r : TrapRec), m.issuer = some g → i.encoded = true → (∀ c w, i ≠ .illegalInstruction c w) →
     g.routed r.cause →
     Taken m g g.warp { r with pc := m.trapPc g, rpc := g.resumeAt m i, iword := i.word } (g.resumeAt m i) (m.trap g i r)) ∧
  (∀ (m : Mach) (g : Issue) (i : Instr) (r : TrapRec), m.issuer = some g → g.team.served = none → g.ctx.routeOf (causeGroup r.cause) = 0 →
     ((m.trap g i r).ctx? g.team.ctx).map (·.halt) = some (some .stopped))

/-- 07 R121: a word that does not decode takes the trap of its cause. 07 R121, R115, 12 R220: an instruction of the register
families that a test at issue turns away takes that test's trap, with nothing of its effect, or waits. The wait of an
instruction that writes a register still to be loaded, and the resume of an undecodable word, are DEDUCED: assumption log 12,
13. That cause 0x07 is tested first is a DESIGN CHOICE: assumption log 70, as is misuse of a latch in a field that a vector
instruction reads as one value: assumption log 93; that the source which VSEL does not select counts as read is DEDUCED: assumption
log 30. -/
def Obligations.TurnedAway : Prop :=
  (∀ (s : State) (g : Issue) (c : Illegal) (w : Nat), s.m.issuer = some g →
     exec (.illegalInstruction c w) s = .next { s with m := s.m.trap g (.illegalInstruction c w) (TrapRec.of (illegalCode c)) }) ∧
  (∀ (s : State) (g : Issue) (i : Instr),
     (∃ d r, LaneResult i d r) ∨ (∃ d r, LaneResult' i d r) ∨ (∃ d r, ScalarResult i d r) ∨ (∃ c, Compare i c) → s.m.issuer = some g →
     (g.breaksMeld i i.uses = true → exec i s = .next { s with m := s.m.trap g i (TrapRec.of 0x07) }) ∧
     (g.breaksMeld i i.uses = false → g.lanes.any (g.oddName i.uses) = false →
       (g.aboveV i.uses = true → ∃ l, exec i s = .next { s with m := s.m.trap g i { TrapRec.of 0x04 with lane := l } }) ∧
       (g.aboveV i.uses = false → ((i.uses.super && !g.team.super) || i.uses.denied) = false →
         (g.warp.latchMisuse i.uses = true → exec i s = .next { s with m := s.m.trap g i (TrapRec.of 0x06) }) ∧
         (g.warp.latchMisuse i.uses = false →
           ((g.hazard i.uses = true ∨ g.held i.uses = true) → exec i s = .next { s with m := s.m.stall g }) ∧
           (g.hazard i.uses = false → g.held i.uses = false → ∀ p, g.poisoned i.uses = some p →
             exec i s = .next { s with m := s.m.trap g i { TrapRec.of 0x26 with lane := p.1.val, reg := p.2.val } })))))

/-- 09 R178, R179, 21 R361: TRAP and, with no debugger, BKPT retire and take their trap after the instruction: the record's PC is that of
the instruction, its RPC the next one, TCODE the operand. -/
def Obligations.SystemTraps : Prop :=
  ∀ (s : State) (g : Issue),
    (∀ a : Src, Admits s.m g (.trap a) → g.routed 0x27 → ∃ y m, exec (.trap a) s = .next { s with m := m } ∧
      GoesOn g (.trap a) y ∧ y.still = g.warp.still ∧
      Taken s.m g y
        { TrapRec.of 0x27 with
          pc := s.m.trapPc g, rpc := g.nextPc (.trap a) % 2 ^ 48, iword := (Instr.trap a).word, tcode := (g.warp.one a).toNat % 65536 }
        (g.nextPc (.trap a)) m) ∧
    (Admits s.m g .bkpt → g.routed 0x28 → g.ctx.debugger = false → ∃ y m, exec .bkpt s = .next { s with m := m } ∧
      GoesOn g .bkpt y ∧ y.still = g.warp.still ∧
      Taken s.m g y { TrapRec.of 0x28 with pc := s.m.trapPc g, rpc := g.nextPc .bkpt % 2 ^ 48, iword := Instr.bkpt.word } (g.nextPc .bkpt) m) ∧
    (Admits s.m g .bkpt → g.ctx.debugger = true → ∃ m, exec .bkpt s = .next { s with m := m } ∧
      (m.ctx? g.team.ctx).map (·.halt) = some (some .debugger))

/-- 09 R180, R182: SYSR of a register that any privilege reads completes with its value, lane by lane or, but for LANEID, in a scalar
register. 09 R182, 21
R367, 23 R387: SYSR of a handler register, which reads 0 in any other warp, or of a cache-domain register completes at privilege S, and
is an illegal instruction of cause privilege without it. -/
def Obligations.SpecialRegisters : Prop :=
  (∀ (s : State) (g : Issue) (n : Fin 128) (r : Fin 32 → Word), SpecialReg s.fuse g n r →
     (∀ d, Admits s.m g (.sysr n (.vec d)) → ∃ x, WritesLanes s g (.sysr n (.vec d)) d r x) ∧
     (∀ d, n.val ≠ 0 → Admits s.m g (.sysr n (.scal d)) → ∃ x, WritesScalar s g (.sysr n (.scal d)) d (r 0) x)) ∧
  (∀ (s : State) (g : Issue) (n : Fin 128) (r : Word), SuperReg s.m g n r →
     (∀ d, Admits s.m g (.sysr n (.vec d)) → ∃ x, WritesLanes s g (.sysr n (.vec d)) d (fun _ => r) x) ∧
     (∀ d, Admits s.m g (.sysr n (.scal d)) → ∃ x, WritesScalar s g (.sysr n (.scal d)) d r x) ∧
     (∀ d, Reaches s.m g (.sysr n d) → g.team.super = false →
       exec (.sysr n d) s = .next { s with m := s.m.trap g (.sysr n d) (TrapRec.of 0x05) }))

/-- 23 R387, R389, 00 R8: at privilege S and with the grant SYSW of a cache-domain register without APPLY completes with the value
pending, its reserved bits ignored; with APPLY it begins the switch to the registers then pending, or is an illegal instruction of
cause reserved operand if they fail a check; 24 R399: an APPLY that came before it begins first. 07 R121: without privilege or grant
it is an illegal instruction, of cause reserved operand for an APPLY whose value fails the checks and can be read, else of cause
privilege. When a switch ends is DEDUCED: assumption log 32. -/
def Obligations.DomainRegisterWrites : Prop :=
  ∀ (s : State) (g : Issue) (k : Fin 16) (n : Fin 128) (i : Instr) (v : Word), n.val = 64 + k.val →
    (∃ b, i = .sysw n b ∧ g.warp.one b = v) ∨ (∃ c, i = .syswImm n c ∧ s.m.imm c = v) →
    let new := s.m.domPend.put k (v &&& if k.val % 2 = 1 then 0xFFFFF else 0x1FFFEFFF)
    let apply := k.val % 2 = 0 ∧ v.getLsbD 31 = true
    let first := ∀ q, s.m.applyQueue.head? = some q → q.1 = s.m.turn
    (Admits s.m g i → s.m.grant = g.team.part → ¬ apply → ∃ x,
      exec i s = .next { s with m := { s.m.setWarp g x with unit := none, domPend := new } } ∧ GoesOn g i x ∧ x.still = g.warp.still) ∧
    (Admits s.m g i → s.m.grant = g.team.part → apply → s.m.switching = none → s.m.switched.contains s.m.turn = false →
      (first → applyOk s.m.dies.length s.m.domCur new = true → exec i s = .next { s with m := { s.m with
        switching := some (s.m.turn, new), applies := s.m.applyQueue.filter fun q => decide (q.1 ≠ s.m.turn) } }) ∧
      (first → applyOk s.m.dies.length s.m.domCur new = false → exec i s = .next { s with m := s.m.trap g i (TrapRec.of 0x03) }) ∧
      (¬ first → ∃ a, exec i s = .next { s with m := { s.m with applies := a } } ∧ (s.m.turn, g.pc) ∈ a ∧ ∀ q, q ∈ s.m.applyQueue → q ∈ a)) ∧
    (Reaches s.m g i → g.team.super = false ∨ (s.m.grant ≠ g.team.part ∧ s.m.switched.contains s.m.turn = false) →
      let old := (s.m.switching.map Prod.snd).getD s.m.domCur
      let next := ((s.m.switching.map Prod.snd).getD s.m.domPend).put k (v &&& if k.val % 2 = 1 then 0xFFFFF else 0x1FFFEFFF)
      let refused := apply ∧ applyOk s.m.dies.length old next = false
      (refused → g.warp.latchMisuse i.uses = false → exec i s = .next { s with m := s.m.trap g i (TrapRec.of 0x03) }) ∧
      (¬ refused → exec i s = .next { s with m := s.m.trap g i (TrapRec.of 0x05) }))

/-- 21 R367, R368: a handler's SYSW of TRESUME with action 1 or 2 resumes the warp that it serves, which is then ready and holds no record.
21 R368: the actions of a running handler that serves a stopped warp. Actions 1 and 2 resume the warp; action 3 stops the context. -/
def Obligations.HandlerResumes : Prop :=
  (∀ (s : State) (g : Issue) (i : Instr) (v : Word) (t w : Nat) (r : TrapRec) (va : Nat) (x : Warp),
     (∃ b, i = .sysw 28 b ∧ g.warp.one b = v) ∨ (∃ k, i = .syswImm 28 k ∧ s.m.imm k = v) → Admits s.m g i → g.team.super = true →
     g.team.resumed = false → g.team.served = some (.warp t w r va) → v = 1 ∨ v = 2 → (t, w) ≠ (g.t, g.w) → s.m.warp? t w = some x →
     x.trap.isSome →
     ∃ m, exec i s = .next { s with m := m } ∧ (m.teams[g.t]?).map (·.resumed) = some true ∧
       (m.warp? t w).map (·.run) = some .ready ∧ (m.warp? t w).map (·.trap) = some none) ∧
  (∀ (s : State) (t : Nat) (pzero : Bool) (team : Team) (t' w : Nat) (r : TrapRec) (va : Nat) (x : Warp), s.m.teams[t]? = some team →
     team.phase = .running → team.resumed = false → s.m.ctxRuns team.ctx = true → team.served = some (.warp t' w r va) →
     (pzero = true → r.cause = 0x26) →
     (∀ i, i = .tresumeResume t pzero ∨ i = .tresumeResumeWithout t pzero → s.m.warp? t' w = some x → x.trap.isSome →
       ∃ m, exec i s = .next { s with m := m } ∧ (m.warp? t' w).map (·.run) = some .ready ∧ (m.warp? t' w).map (·.trap) = some none ∧
         (m.teams[t]?).map (·.resumed) = some true) ∧
     ∃ m, exec (.tresumeStop t pzero) s = .next { s with m := m } ∧ (m.ctx? team.ctx).map (·.halt) = some (some .stopped))

/-- 07 R111, 09 R184: a LIMM whose follower takes an immediate leaves its 25 bits for the follower, whose immediate is then the
32-bit value of both. That a unit of LIMM runs in two steps is a DESIGN CHOICE: assumption log 14. -/
def Obligations.LimmCompletes : Prop :=
  ∀ (s : State) (g : Issue) (p : BitVec 25), Admits s.m g (.limm p) → s.m.followerOk g = true → g.warp.loopEnd (g.pc + 4) = none →
    ∃ x, exec (.limm p) s = .next { s with m := { s.m.setWarp g x with unit := some { p := p.toNat, pc := g.pc } } } ∧
      GoesOn g (.limm p) x ∧ x.still = g.warp.still ∧
      ∀ k : Fin 128, ({ s.m.setWarp g x with unit := some { p := p.toNat, pc := g.pc } } : Mach).imm k = p ++ BitVec.ofNat 7 k.val

/-! ### Memory -/

/-- 14 R259 to R264, R268, R271 to R275, 12 R220: a memory instruction whose addresses are generated issues: its counter rises, it joins the
accesses in flight, the gang goes on, and no byte of memory has changed. 13 R245, 21 R361: if an address of it faults it takes the precise
trap of the first faulting lane's cause, with the lane and the address. -/
def Obligations.MemoryInstructionsIssue : Prop :=
  (∀ (s : State) (g : Issue) (i : Instr) (q : Shot) (asks : List Ask) (done : List (Nat × Nat × Nat)) (ls : List LaneAcc) (m' : Mach),
     MemAccess g i q asks done ∨ TensorAccess g i q asks done → Admits s.m g i → g.warp.counter q.ctr < 255 →
     s.m.generateAll g q.kind q.size q.sup asks = (.ok ls, m') →
     (∃ x, Launched s g i q ls done m' x) ∧ m'.rest = s.m.rest ∧ m'.home = s.m.home ∧ ∀ d k, m'.shows d k = s.m.shows d k) ∧
  (∀ (s : State) (g : Issue) (i : Instr) (q : Shot) (asks : List Ask) (done : List (Nat × Nat × Nat)) (c : Nat) (a : Ask) (m' : Mach),
     MemAccess g i q asks done ∨ TensorAccess g i q asks done → Admits s.m g i → g.warp.counter q.ctr < 255 →
     s.m.generateAll g q.kind q.size q.sup asks = (.error (c, a), m') →
     exec i s = .next { s with m := m'.trap g i { TrapRec.of c with lane := a.lane, va := a.addr } })

/-- 13 R244, R245: the checks of a translation in their order: alignment, the address space, a range, its end, its permissions. -/
def Obligations.TranslationChecks : Prop :=
  ∀ (m : Mach) (d c ctx va n : Nat) (a : Access) (super : Bool) (o : Option RangeDesc), (m.lookup d c ctx va).1 = o →
    (va % n ≠ 0 → (m.translate d c ctx va n a super).1 = .error 0x32) ∧
    (va % n = 0 → 2 ^ 48 ≤ va ∨ o = none → (m.translate d c ctx va n a super).1 = .error 0x30) ∧
    (∀ r, o = some r → va % n = 0 → va < 2 ^ 48 →
      (m.translate d c ctx va n a super).1 =
        if r.lastg < (va + n - 1) / 65536 then .error 0x30 else if r.permits a super then .ok r else .error 0x34)

/-- 12 R215, R216: what a store by a core writes at the die L2 is at once what that L2 shows, and changes no other byte of any die; a plain
load of the storing core gives it, while one of another core that holds the line in its L1 gives that copy. 12 R216, 00 R4: an aligned
read at a die gives the bytes that its L2 shows, lowest first. -/
def Obligations.StoresShow : Prop :=
  ∀ (m : Mach) (d k n : Nat), n = 1 ∨ n = 2 ∨ n = 4 ∨ n = 8 → k % n = 0 → keyClass k ≠ 4 →
    (∀ c v : Nat,
       (d < m.dies.length → ∀ d' k' : Nat, (m.dieWrite d (some c) k n v).shows d' k' =
         if d' = d ∧ k ≤ k' ∧ k' < k + n then BitVec.ofNat 8 (v / 256 ^ (k' - k)) else m.shows d' k') ∧
       ((m.core? d c).isSome → ∃ m', (m.dieWrite d (some c) k n v).coreLoad d c k n = some (v % 256 ^ n, m')) ∧
       ∀ (e c' : Nat) (x : Core), (e, c') ≠ (d, c) → m.core? e c' = some x → x.l1.holds (lineOf k) = true →
         (m.dieWrite d (some c) k n v).coreLoad e c' k n = some (Mem.read x.l1.data k n, m.dieWrite d (some c) k n v)) ∧
    (∀ (m' : Mach) (v : Nat), Mem.wf m.home = true → m.press = [] → m.dieRead d k n = some (v, m') →
       v < 256 ^ n ∧ ∀ i, i < n → BitVec.ofNat 8 (v / 256 ^ i) = m.shows d (k + i))

/-- 12 R218: a scratch access reads and writes its bytes of the team's scratch and no others. -/
def Obligations.ScratchAccesses : Prop :=
  ∀ (m : Mach) (t : Nat) (team : Team) (core : Nat) (f : Flight) (a : LaneAcc), a.desc = none → m.teams[t]? = some team →
    (∀ sg, f.act = .load sg → m.performLane t team core f a = (.done (widen sg f.size (Mem.read team.scratch a.va f.size)), m)) ∧
    (f.act = .store → (m.performLane t team core f a).1 = .done 0 ∧
      ∀ k, ((m.performLane t team core f a).2.teams[t]?).map (fun x => Mem.get x.scratch k) =
        some (if a.va ≤ k ∧ k < a.va + f.size then BitVec.ofNat 8 (a.data / 256 ^ (k - a.va)) else Mem.get team.scratch k))

/-- 14 R271: the value that an atomic leaves at its location, from the old value, the operand and the comparand. 05 R83 to R87, R74: the
float operations. On numbers, addition, subtraction, multiplication, multiply-add, the reciprocal and the conversions give the exact
result rounded once, with its exceptions; on a NaN they give the canonical NaN, and IV if a NaN operand signals, as 0 times infinity
and the difference of infinities do. That a conversion to I32 that saturates is inexact is DEDUCED: assumption log 29. -/
def Obligations.AtomicValues : Prop :=
  (∀ (o : AtomOp) (w : Nat) (old y cmp : BitVec w), w = 32 ∨ w = 64 →
     AtomOp.apply o w old.toNat y.toNat cmp.toNat = if o = .fadd then (fadd F32 .rne old.toNat y.toNat).1 else (Spec.atom o w old y cmp).toNat) ∧
  (∀ (f : FFmt) (r : Rm) (x y z : Nat), Spec.format f → Spec.finite f x → Spec.finite f y → Spec.finite f z →
     let a := Spec.value f x
     let b := Spec.value f y
     let c := Spec.value f z
     Spec.Rounds f r (a + b) (Spec.zeroSum r (a = 0 ∧ b = 0) (Spec.negative f x) (Spec.negative f y)) (fadd f r x y) ∧
     Spec.Rounds f r (a - b) (Spec.zeroSum r (a = 0 ∧ b = 0) (Spec.negative f x) (!Spec.negative f y)) (fsub f r x y) ∧
     Spec.Rounds f r (a * b) (Spec.negative f x != Spec.negative f y) (fmul f r x y) ∧
     ∀ np na : Bool, Spec.Rounds f r ((if np then -(a * b) else a * b) + if na then -c else c)
       (Spec.zeroSum r (a * b = 0 ∧ c = 0) ((Spec.negative f x != Spec.negative f y) != np) (Spec.negative f z != na)) (ffma f r np na x y z)) ∧
  (∀ x : Nat, Spec.finite F32 x →
     (Spec.value F32 x ≠ 0 → Spec.Rounds F32 .rne (1 / Spec.value F32 x) false (frcp x)) ∧
     (Spec.value F32 x = 0 → frcp x = (F32.infBits (Spec.negative F32 x), { Exc.none with dz := true }))) ∧
  (∀ (f g : FFmt) (r : Rm) (x : Nat) (n : Int), Spec.format f → Spec.format g → Spec.finite f x →
     Spec.Rounds g r (Spec.value f x) (Spec.negative f x) (fcvt f g r x) ∧ Spec.Rounds g r n false (fofInt g r n) ∧
     Spec.ToInteger r (Spec.value f x) (ftoInt f r x)) ∧
  (∀ (f g : FFmt) (r : Rm) (x y z : Nat) (np na : Bool), Spec.format f → Spec.format g →
     (Spec.isNan f x ∨ Spec.isNan f y →
       (∀ q, q = fadd f r x y ∨ q = fsub f r x y ∨ q = fmul f r x y → q.1 = f.nan ∧ (q.2.iv = true ↔ Spec.signals f x ∨ Spec.signals f y)) ∧
       (ffma f r np na x y z).1 = f.nan) ∧
     (Spec.isNan f z → (ffma f r np na x y z).1 = f.nan) ∧
     (Spec.isNan f x → (fcvt f g r x).1 = g.nan ∧ ((fcvt f g r x).2.iv = true ↔ Spec.signals f x) ∧ ftoInt f r x = (0, Exc.invalid)) ∧
     (∀ s t : Bool, fadd f r (f.infBits s) (f.infBits t) = if s = t then (f.infBits s, Exc.none) else (f.nan, Exc.invalid)) ∧
     (∀ s t : Bool, fmul f r (f.infBits s) (f.sign t) = (f.nan, Exc.invalid) ∧ fmul f r (f.sign t) (f.infBits s) = (f.nan, Exc.invalid))) ∧
  F32.nan = 0x7FC00000 ∧ F16.nan = 0x7E00 ∧ BF16.nan = 0x7FC0

/-- 21 R362, 12 R220: when the oldest access of a warp has been performed in every lane, ACCESS_RETURN retires it: it leaves the
flight, its counter falls, and each lane's result of at most 32 bits is in its register and no longer poisoned; nothing else of
the warp changes, but for the fault of a message's copy that it may be to take. 21 R363, R365: LATE_FAULT takes the late fault of the
oldest access of a ready warp. The warp is stopped with the record of the first faulting lane, its later accesses are cancelled and
no register that is not still being computed has changed; the record goes to a handler, or the context stops. That an access is
performed when it retires is a DESIGN CHOICE: assumption log 6. -/
def Obligations.AccessesReturn : Prop :=
  (∀ (s : State) (t w : Nat) (team : Team) (x : Warp) (f : Flight) (fs : List Flight), s.m.teams[t]? = some team → team.warps[w]? = some x →
     x.flight = f :: fs → f.scalar = false → f.size ≤ 4 → (∀ sc, f.act ≠ .lda sc) → (∀ k, f.act ≠ .bind k) →
     (s.m.performLanes t team x.core f f.lanes).bad = [] → (s.m.performLanes t team x.core f f.lanes).left = [] →
     let done := f.done ++ (s.m.performLanes t team x.core f f.lanes).done
     ∃ m y, exec (.accessReturn t w) s = .next { s with m := m } ∧ m.warp? t w = some y ∧ y.flight = fs ∧
       y.counter f.ctr = x.counter f.ctr - 1 ∧
       (∀ n l, (y.v.at n).at l = match (done.reverse.find? fun e => decide (e.1 % 32 = l.val) && decide (e.2.1 % 64 = n.val)) with
         | some e => if f.act.writes then BitVec.ofNat 32 e.2.2 else (x.v.at n).at l
         | none => (x.v.at n).at l) ∧
       (∀ n l, (n, l) ∈ y.poison ↔ (n, l) ∈ x.poison ∧
         ¬ (f.act.writes = true ∧ ∃ e, e ∈ done ∧ e.1 % 32 = l.val ∧ e.2.1 % 64 = n.val)) ∧
       ((∀ n j, f.act ≠ .pmsg n j) → y.engFault = x.engFault) ∧
       y = { x.lower f.ctr with flight := fs, v := y.v, poison := y.poison, engFault := y.engFault }) ∧
  (∀ (s : State) (t w : Nat) (team : Team) (x : Warp) (c : Context) (f : Flight) (fs : List Flight) (a : LaneAcc) (cause gs : Nat)
     (bad : List (LaneAcc × Nat × Nat)),
     s.m.teams[t]? = some team → team.warps[w]? = some x → s.m.ctx? team.ctx = some c → c.halt = none → x.run = .ready → team.served = none →
     x.flight = f :: fs → (s.m.performLanes t team x.core f f.lanes).bad = (a, cause, gs) :: bad →
     (s.m.performLanes t team x.core f f.lanes).left = [] →
     (c.routeOf (causeGroup cause) = 1 →
       ∃ m y p va, exec (.lateFault t w) s = .next { s with m := m } ∧ m.warp? t w = some y ∧ y.run = .stopped ∧ y.trap = some p ∧
         p.rcd.cause = cause ∧ p.rcd.lane = a.lane ∧ p.rcd.va = a.va ∧ p.rcd.pc = f.pc ∧ p.rcd.iword = f.iword ∧ y.flight = [] ∧
         y.s = x.s ∧ y.exec = x.exec ∧ y.cm = x.cm ∧ y.k = x.k ∧ y.ren = x.ren ∧ (x.mma = [] → y.v = x.v ∧ y.poison = x.poison) ∧
         (m.ctx? team.ctx).map (·.traps) = some (c.traps ++ [.warp t w p.rcd va])) ∧
     (c.routeOf (causeGroup cause) = 0 →
       ∃ m, exec (.lateFault t w) s = .next { s with m := m } ∧ (m.ctx? team.ctx).map (·.halt) = some (some .stopped)))

/-- 14 R265, R267: SHPLD of a valid record, readable at once, and SHPINV complete with the shape register of the team set and
emptied. 14 R270, R274, R290: PREF, FENCE, REL, ACQ, CWB and CINV complete with their effect on caches and epochs, and none on
registers. 09 R183: ILBF drops the instruction lines that the core holds and what the loop buffer of the cluster holds. Which lines
CWB and CINV skip is DEDUCED: assumption log 38. -/
def Obligations.CacheInstructions : Prop :=
  (∀ (s : State) (g : Issue) (h : Fin 32),
     (∀ (a : Src) (v : Nat) (r : Shape) (m' : Mach), AdmitsLast s.m g (.shpld h a) → s.m.loadNow g (g.warp.pair a) 64 (g.plainly 64) = (.ok v, m') →
       Shape.parse v = some r →
       ∃ x, Acts s g (.shpld h a) (m'.withTeam g fun t => { t with shapes := t.shapes.put h (some r) }) id x) ∧
     (∀ (a : Src) (v : Nat) (m' : Mach), AdmitsLast s.m g (.shpld h a) → s.m.loadNow g (g.warp.pair a) 64 (g.plainly 64) = (.ok v, m') →
       Shape.parse v = none → exec (.shpld h a) s = .next { s with m := m'.trap g (.shpld h a) (TrapRec.of 0x0A) }) ∧
     (AdmitsLast s.m g (.shpinv h) → ∃ x, Acts s g (.shpinv h) (s.m.withTeam g fun t => { t with shapes := t.shapes.put h none }) id x)) ∧
  (∀ (s : State) (g : Issue) (sc : Scope) (a b : Src),
     (AdmitsLast s.m g (.pref a b) → ∃ x, Acts s g (.pref a b) (g.lanes.foldl (fun m l => m.prefetch g (g.warp.address a b l)) s.m) id x) ∧
     (AdmitsLast s.m g (.rel sc) → g.releases s.m sc → ∃ x, Acts s g (.rel sc) (s.m.release g.team.die sc) id x) ∧
     (AdmitsLast s.m g (.acq sc) → ∃ x, Acts s g (.acq sc) (s.m.acquireDrops g.team.die g.core sc) id x) ∧
     (AdmitsLast s.m g (.fence sc) → g.releases s.m sc →
       ∃ x, Acts s g (.fence sc) ((s.m.release g.team.die sc).acquireDrops g.team.die g.core sc) id x) ∧
     (let hit := g.ctx.lineMeets (g.warp.pair a) (g.warp.one b).toNat
      (sc = .sys → ∀ k, k ∈ s.m.hostBytesOf g.team.die hit → s.m.peerHeld k = false ∧ s.m.targetLost k = false) →
        (AdmitsLast s.m g (.cwb sc a b) → ∃ x, Acts s g (.cwb sc a b) (s.m.writeBackLines g.team.die sc hit) id x) ∧
        (AdmitsLast s.m g (.cinv sc a b) →
          ∃ x, Acts s g (.cinv sc a b) ((s.m.writeBackLines g.team.die sc hit).dropLines g.team.die g.core sc hit) id x))) ∧
  (∀ (s : State) (g : Issue), AdmitsLast s.m g .ilbf → ∃ x,
     exec .ilbf s = .next { s with m := { (s.m.noInstrLines g.team.die g.core g.warp.cluster).setWarp g x with unit := none } } ∧
     GoesOn g .ilbf x ∧ x.still = g.warp.still ∧ x.b = emptyLatches)

/-- 12 R222, R226, R227: a release of PKG scope closes the die's open epoch: the next epoch is open and empty, and the record of
the closed one covers its dirty sectors. 12 R225: an epoch with no dirty sector is not published, and such a release changes nothing.
12 R222, R405: a release of SYS scope, whose targets can be reached, also leaves the die no dirty byte of the host or of a peer, and
those bytes at their targets. An acquire of TEAM scope or wider leaves the core without L1 lines and without scale lines. 14 R275,
R282: a releasing store and CSIG, their addresses generated and nothing lost in what they release, release and then issue. That a record
covers exactly the dirty sectors is DEDUCED: assumption log 8. -/
def Obligations.ReleaseAndAcquire : Prop :=
  (∀ (m : Mach) (d c : Nat) (x : Die), m.dies[d]? = some x →
     (x.halted = false → x.sectors ≠ [] → ∃ y, (m.release d .pkg).dies[d]? = some y ∧ y.epoch = x.epoch + 1 ∧ y.sectors = [] ∧ y.lost = [] ∧ y.dirtyAt = [] ∧
       y.log.head?.map (fun r => (r.epoch, r.sectors)) = some (x.epoch, x.sectors ++ x.lost)) ∧
     (x.sectors = [] → x.lost = [] → m.release d .pkg = m) ∧
     (x.halted = false → m.press = [] → (∀ k, k ∈ x.hdirtyAt → keyClass k = 2 ∨ keyClass k = 3) → m.flushHeld d .sys = false →
       m.undeliverable d .sys = [] →
       (∃ y, (m.release d .sys).dies[d]? = some y ∧ y.sectors = [] ∧ y.lost = [] ∧ y.hdirtyAt = [] ∧
         (x.sectors ≠ [] ∨ x.lost ≠ [] ∨ x.dirtyAt = [] → y.dirtyAt = []) ∧
         y.epoch = if x.sectors = [] ∧ x.lost = [] then x.epoch else x.epoch + 1) ∧
       ∀ k, k ∈ x.hdirtyAt → (m.release d .sys).homeRead k 1 = (Mem.get x.hdirty k).toNat) ∧
     (∀ sc k, sc = .team ∨ sc = .die ∨ sc = .pkg ∨ sc = .sys → (m.acquireDrops d c sc).core? d c = some k →
       k.l1.lines = [] ∧ k.scale = [] ∧ k.sdir = [])) ∧
  (∀ (s : State) (g : Issue) (i : Instr) (q : Shot) (asks : List Ask) (sc : Scope) (ls ls' : List LaneAcc) (m' m'' : Mach),
     (∃ d a, i = .stl32 d a sc ∧ q = ⟨.ifg, .stl sc, .home, 4, false, .store, anyClass⟩ ∧
       asks = g.asks false (g.warp.widePair a) d fun l => g.warp.regs d l 1) ∨
     (∃ d a, i = .stl64 d a sc ∧ q = ⟨.ifg, .stl sc, .home, 8, false, .store, anyClass⟩ ∧
       asks = g.asks false (g.warp.widePair a) d fun l => g.warp.regs d l 2) ∨
     (∃ a b, i = .csig a b ∧ q = ⟨.ifg, .csig, .home, 8, true, .atomic, fun c => decide (c ≤ 3)⟩ ∧
       asks = [{ lane := 0, scratch := false, addr := g.warp.pair a, reg := 0, data := g.warp.pair b, cmp := 0 }] ∧
       sc = counterScope ((ls.map (·.key)).headD 0)) →
     AdmitsLast s.m g i → g.warp.counter q.ctr < 255 → s.m.generateAll g q.kind q.size q.sup asks = (.ok ls, m') → g.releases m' sc →
     (m'.release g.team.die sc).generateAll g q.kind q.size q.sup asks = (.ok ls', m'') → ∃ x, Launched s g i q ls' [] m'' x)

/-! ### Counters and barriers -/

/-- 14 R276: WAITP completes when the counter is at most its operand, or the operand is 255 or more; CNTR completes with the counters. -/
def Obligations.InFlightCounters : Prop :=
  ∀ (s : State) (g : Issue),
    (∀ (p : Path) (a : Src), AdmitsLast s.m g (.waitp p a) →
      (g.warp.pathCount p ≤ (g.warp.one a).toNat ∨ 255 ≤ (g.warp.one a).toNat → ∃ x, Acts s g (.waitp p a) s.m id x) ∧
      ((g.warp.one a).toNat < g.warp.pathCount p → (g.warp.one a).toNat < 255 → exec (.waitp p a) s = .next s)) ∧
    (∀ d : Fin 32, AdmitsLast s.m g (.cntr d) → ∃ x, Acts s g (.cntr d) s.m (fun y =>
      y.setS d (BitVec.ofNat 32 (g.warp.ifs + g.warp.ifg * 2 ^ 8 + g.warp.ift * 2 ^ 16 + g.warp.ife * 2 ^ 24))) x)

/-- 14 R278: BAR and BARA arrive with the last live slice of the warp, until then the others wait there. BARA, and the BAR that
completes the phase, go on; any other BAR waits at the instruction. 14 R278, R280: a BAR that has arrived goes on once its phase is
complete, as does a BARW; an id or a count outside the limits of R277 traps. How slices that wait regroup is DEDUCED: assumption log
15, and that a waiting BAR goes on without a second issue, no operand of it read: assumption log 74; that a BARW of an id on which the
warp has made no BARA goes on is the second part of assumption log 15. -/
def Obligations.NamedBarriers : Prop :=
  (∀ (s : State) (g : Issue) (i : Instr) (waits : Bool) (a b : Src) (id : Fin 16) (n : Nat),
     i = (if waits then .bar a b else .bara a b) → AdmitsLast s.m g i → g.barOperands a b = some (id, n) →
     (waits = true → g.warp.barWait = none) →
     let bar := Spec.arrives (g.team.bars.at id) n
     let m' := s.m.withTeam g fun t => { t with bars := t.bars.put id bar }
     (g.allHere →
       (waits = false → ∃ x, exec i s = .next { s with m := m'.setWarp g x } ∧ PassesBarrier g i x ∧
         x.bara = g.warp.bara.put id (some (g.team.bars.at id).phase)) ∧
       (waits = true → (g.team.bars.at id).phase < bar.phase →
         ∃ x, exec i s = .next { s with m := (m'.acquireDrops g.team.die g.core .team).setWarp g x } ∧ PassesBarrier g i x ∧ x.barWait = none) ∧
       (waits = true → bar.phase = (g.team.bars.at id).phase → ∃ x, exec i s = .next { s with m := m'.setWarp g x } ∧
         x.barWait = some (id.val, (g.team.bars.at id).phase) ∧ x.slices = g.warp.slices)) ∧
     (¬ g.allHere → ∃ x, exec i s = .next { s with m := s.m.setWarp g x } ∧ StaysAtBarrier g x)) ∧
  (∀ (s : State) (g : Issue) (a b : Src),
     (∀ (p : Nat) (k : Fin 16), s.m.issuer = some g → g.warp.barWait = some (k.val, p) →
       (p < (g.team.bars.at k).phase → ∃ x,
         exec (.bar a b) s = .next { s with m := (s.m.acquireDrops g.team.die g.core .team).setWarp g x } ∧ PassesBarrier g (.bar a b) x ∧
         x.barWait = none) ∧
       ((g.team.bars.at k).phase ≤ p → exec (.bar a b) s = .next s)) ∧
     (∀ k : Fin 16, AdmitsLast s.m g (.barw a) → (g.warp.one a).toNat = k.val → k.val < g.team.nbar →
       (∀ p, g.warp.bara.at k = some p → p < (g.team.bars.at k).phase) →
       ∃ x, Acts s g (.barw a) (s.m.acquireDrops g.team.die g.core .team) id x) ∧
     (AdmitsLast s.m g (.bar a b) → g.warp.barWait = none →
       (g.team.nbar ≤ (g.warp.one a).toNat ∨ 16 ≤ (g.warp.one a).toNat ∨ g.team.teamw < (g.warp.one b).toNat) →
       exec (.bar a b) s = .next { s with m := s.m.trap g (.bar a b) (TrapRec.of 0x03) }))

/-- 14 R279: in a coresident grid DBAR and GBAR arrive with the last live slice of the warp, with a release, and complete when every team
has arrived; elsewhere they trap with 0x0D. How slices that wait regroup is DEDUCED: assumption log 15. -/
def Obligations.GridBarriers : Prop :=
  ∀ (s : State) (g : Issue),
    (∀ p : Nat, s.m.issuer = some g → g.warp.gridWait = some (some g.team.dshare, p) →
      (s.m.gridDone g.team (some g.team.dshare) p = true → ∃ x,
        exec .dbar s = .next { s with m := (s.m.acquireDrops g.team.die g.core .die).setWarp g x } ∧ PassesBarrier g .dbar x ∧ x.gridWait = none) ∧
      (s.m.gridDone g.team (some g.team.dshare) p = false → exec .dbar s = .next s)) ∧
    (∀ p : Nat, s.m.issuer = some g → g.warp.gridWait = some (none, p) →
      (s.m.gridDone g.team none p = true → ∃ x,
        exec .gbar s = .next { s with m := ((s.m.acquireDrops g.team.die g.core .pkg).joinGrid g.team none).setWarp g x } ∧
        PassesBarrier g .gbar x ∧ x.gridWait = none) ∧
      (s.m.gridDone g.team none p = false → exec .gbar s = .next s)) ∧
    (∀ (i : Instr) (sc : Scope) (share : Option Nat), (i = .dbar ∧ sc = .die ∧ share = some g.team.dshare) ∨ (i = .gbar ∧ sc = .pkg ∧ share = none) →
      AdmitsLast s.m g i → g.warp.gridWait = none →
      (g.team.cor = false → g.team.plan = none → exec i s = .next { s with m := s.m.trap g i (TrapRec.of 0x0D) }) ∧
      (g.team.cor = true ∨ g.team.plan.isSome = true →
        (g.allHere → g.releases s.m sc → ∃ x m, exec i s = .next { s with m := m } ∧ m.warp? g.t g.w = some x ∧
          x.gridWait = some (share, g.team.arrivals share) ∧ x.slices = g.warp.slices) ∧
        (¬ g.allHere → ∃ x, exec i s = .next { s with m := s.m.setWarp g x } ∧ StaysAtBarrier g x)))

/-- 14 R281, 12 R237: CWAIT reads its counter and completes with it in its pair once the counter has reached the threshold; until then it
stays. 12 R237, 07 R117: WAITER_RELEASE of a warp that stands at a CWAIT whose counter has reached its threshold completes that CWAIT, if
its cluster is in no chain of another warp or of another sub-gang, and leaves the turn where it is. 13 R248: what a CWAIT that stays
reads next is no replay. -/
def Obligations.CounterWaits : Prop :=
  (∀ (s : State) (g : Issue) (d : Fin 32) (a b : Src) (v k : Nat) (m' : Mach), AdmitsLast s.m g (.cwait d a b) →
     s.m.loadNow g (g.warp.pair a) 8 (fun m k => m.ldaRead g.team.die k 8 (counterScope k)) = (.ok v, m') → m'.keyOf g.team.ctx (g.warp.pair a) = some k →
     (0 ≤ (BitVec.ofNat 64 v - BitVec.ofNat 64 (g.warp.pair b)).toInt →
       ∃ x, Acts s g (.cwait d a b) (m'.acquireDrops g.team.die g.core (counterScope k)) (fun y => y.setPair d v) x) ∧
     ((BitVec.ofNat 64 v - BitVec.ofNat 64 (g.warp.pair b)).toInt < 0 →
       exec (.cwait d a b) s = .next { s with m := m'.modWarp g.t g.w (Warp.replayed · g.gang) })) ∧
  (∀ (s : State) (t w : Nat) (j : Fin 8) (d : Fin 32) (a b : Src) (g : Issue) (v k : Nat) (m0 m' : Mach), s.m.cwaiter t w = some (j, d, a, b) →
     s.m.unit = none → s.m.chainElsewhere t w j = false → m0 = { s.m with turn := { t := t, w := w, slice := j.val } } → AdmitsLast m0 g (.cwait d a b) →
     m0.loadNow g (g.warp.pair a) 8 (fun m k => m.ldaRead g.team.die k 8 (counterScope k)) = (.ok v, m') → m'.keyOf g.team.ctx (g.warp.pair a) = some k →
     0 ≤ (BitVec.ofNat 64 v - BitVec.ofNat 64 (g.warp.pair b)).toInt →
     ∃ x, exec (.waiterRelease t w) s =
         .next { s with m := { ({ (m'.acquireDrops g.team.die g.core (counterScope k)).setWarp g x with unit := none } : Mach).noteIssue g with
                               turn := s.m.turn } } ∧
       GoesOn g (.cwait d a b) x ∧ x.still = (g.warp.setPair d v).still)

/-! ### Ranges -/

/-- 14 R284, 13 R243: RSPLIT, RMERGE and RPROT complete with their status, and with the context's ranges changed where it is 0. 14 R286:
RPROBE completes with the eight words of the descriptor of its address, zeros if no range holds it. 14 R284: an RSPLIT that succeeds changes
the key and the permissions of no address. -/
def Obligations.RangeChanges : Prop :=
  (∀ (s : State) (g : Issue) (i : Instr) (d : Fin 32) (st : Nat) (rs : List RangeDesc), RangeChange g i d st rs → AdmitsLast s.m g i →
     (∃ x, Acts s g i (s.m.withRanges g rs) (fun y => y.setS d (BitVec.ofNat 32 st)) x) ∧ (st ≠ 0 → rs = g.ctx.ranges)) ∧
  (∀ (s : State) (g : Issue) (d : Fin 32) (a : Src) (v : Nat), AdmitsLast s.m g (.rprobe d a) →
     ((findRange g.ctx.ranges (g.warp.pair a)).map RangeDesc.image).getD 0 = v →
     ∃ x, Acts s g (.rprobe d a) s.m (fun y => y.setOct d v) x ∧
       (∀ k : Fin 8, x.s.at ⟨(d.val + k.val) % 32, by omega⟩ = BitVec.ofNat 32 (v / 2 ^ (32 * k.val))) ∧
       ∀ n : Fin 32, (∀ k : Fin 8, n.val ≠ (d.val + k.val) % 32) → x.s.at n = g.warp.s.at n) ∧
  (∀ (rs : List RangeDesc) (va x : Nat), (splitRanges rs va).1 = 0 →
     (findRange (splitRanges rs va).2 x).map (fun r => (r.key x, r.prd, r.pwr, r.pex, r.pat, r.sonly, r.agent)) =
       (findRange rs x).map fun r => (r.key x, r.prd, r.pwr, r.pex, r.pat, r.sonly, r.agent))

/-- 14 R285, 13 R253, R254: RINVAL drops the descriptors from the range tables of its scope and completes, with a release, once
every access translated with one of them is performed; until then it stays while those accesses go on. Which accesses are awaited
is DEDUCED: assumption log 36. -/
def Obligations.RangeInvalidation : Prop :=
  ∀ (s : State) (g : Issue) (sc : Scope) (a b : Src), AdmitsLast s.m g (.rinval sc a b) →
    let hit := fun r : RangeDesc => r.meets (g.warp.pair a / 65536 % 2 ^ 32) (g.warp.one b).toNat
    let cores := s.m.coresIn g sc
    let m1 := s.m.dropRanges cores g.team.ctx hit
    (m1.userOf cores g.team.ctx hit = none → m1.lateUserOf cores g.team.ctx hit = none →
      m1.opsUsing (s.m.engineDies g sc) g.team.ctx hit = [] → g.releases m1 sc →
      ∃ x, Acts s g (.rinval sc a b) (m1.release g.team.die sc) id x) ∧
    (∀ t w, m1.userOf cores g.team.ctx hit = some (t, w) → exec (.rinval sc a b) s = .next { s with m := m1.background t w }) ∧
    (m1.userOf cores g.team.ctx hit = none →
      (m1.lateUserOf cores g.team.ctx hit).isSome = true ∨ m1.opsUsing (s.m.engineDies g sc) g.team.ctx hit ≠ [] →
      exec (.rinval sc a b) s = .next { s with m := m1 })

/-- 14 R287, 13 R247, R251: RRES completes with its status: 1 where no range holds the address, 5 in a range that is not partial, 6 past its
end; else 0, the granules in their new state and USED charged or credited for those that become or cease to be RESIDENT. A charge that
does not fit changes no granule and takes the quota trap of cause 0x37. 13 R251: the quota step. A charge that fits raises USED at its
home by 65,536 bytes a granule; one that does not is refused. -/
def Obligations.ResidencyRequests : Prop :=
  (∀ (s : State) (g : Issue) (d : Fin 32) (a b : Src) (n st va : Nat), AdmitsLast s.m g (.rres d a b) → (g.warp.one b).toNat = n + st * 2 ^ 30 →
     1 ≤ n → n < 2 ^ 30 → g.warp.pair a = va →
     let ends := fun (k : Nat) (m' : Mach) => ∃ x, Acts s g (.rres d a b) m' (fun y => y.setS d (BitVec.ofNat 32 k)) x
     let gs := (List.range n).map (va / 65536 + ·)
     (findRange g.ctx.ranges va = none → ends 1 s.m) ∧
     ∀ r, findRange g.ctx.ranges va = some r →
       (r.isPartial = false → ends 5 s.m) ∧
       (r.isPartial = true → r.lastg < va / 65536 + n - 1 → ends 6 s.m) ∧
       (r.isPartial = true → va / 65536 + n - 1 ≤ r.lastg → s.m.pressed g.team.ctx r (va / 65536) n = false →
         let res := s.m.residents g.team.ctx r gs
         (st = 3 → res = n → ends 0 s.m) ∧
         (∀ m1, st = 3 → res ≠ n → s.m.charge g.team.ctx r.agent (n - res) = some m1 →
           ends 0 (gs.foldl (fun m k => m.setResidency g.team.ctx r k 3) m1)) ∧
         (∀ m1, st = 3 → res ≠ n → s.m.charge g.team.ctx r.agent (n - res) = none →
           m1 = s.m.takeEvent g.t g.w g.gang (g.resumeAt s.m (.rres d a b)) (g.after (.rres d a b)) none false true
             { TrapRec.of 0x37 with
               pc := s.m.trapPc g, rpc := g.resumeAt s.m (.rres d a b), iword := (Instr.rres d a b).word, va := va, agent := r.agent
               limit := (s.m.quota g.team.ctx r.agent).1, used := (s.m.quota g.team.ctx r.agent).2 } →
           exec (.rres d a b) s = .next { s with m := m1 }) ∧
         (st ≠ 3 → res = 0 → ends 0 (gs.foldl (fun m k => m.setResidency g.team.ctx r k st) s.m)) ∧
         (st ≠ 3 → res ≠ 0 → ends 0 (gs.foldl (fun m k => m.setResidency g.team.ctx r k st) (s.m.credit g.team.ctx r.agent res))))) ∧
  (∀ (m : Mach) (ctx agent n : Nat),
     (m.quota ctx agent).2 + 65536 * n ≤ (m.quota ctx agent).1 →
       m.charge ctx agent n = some (m.setUsed ctx agent ((m.quota ctx agent).2 + 65536 * n)) ∧
     ((m.quota ctx agent).1 < (m.quota ctx agent).2 + 65536 * n → m.charge ctx agent n = none))

/-- 14 R288: RPRESS completes with its status: 1 for a block that cannot be read or is not valid, 2 for a destination that is
not free, 3 when the press is full, else 0 with the request accepted. 13 R256, 14 R289: PRESS_LINE_MOVE copies the next line of
a request whose granule is STAGED or RESIDENT; PRESS_SWITCH, once every line has moved and no access through an old descriptor
is in flight, gives every range its new backing and takes the request off; until then the request stays. The order of the lines and
the status of a block that cannot be read are a DESIGN CHOICE: assumption log 33, as is that a switch waits while its parts would
exceed the ranges of a context: assumption log 89. -/
def Obligations.PressWork : Prop :=
  (∀ (s : State) (g : Issue) (d : Fin 32) (a : Src), AdmitsLast s.m g (.rpress d a) →
     (s.m.pressBlock g (g.warp.pair a) = none → ∃ x, Acts s g (.rpress d a) s.m (fun y => y.setS d 1) x) ∧
     ∀ v p, s.m.pressBlock g (g.warp.pair a) = some v → PressAsk.parse v = p →
       (p.ok = false → ∃ x, Acts s g (.rpress d a) s.m (fun y => y.setS d 1) x) ∧
       (p.ok = true → s.m.destinationFree p (blockSum (p.blocks g.ctx.ranges)) = false →
         ∃ x, Acts s g (.rpress d a) s.m (fun y => y.setS d 2) x) ∧
       (p.ok = true → s.m.destinationFree p (blockSum (p.blocks g.ctx.ranges)) = true → 8 ≤ s.m.press.length →
         ∃ x, Acts s g (.rpress d a) s.m (fun y => y.setS d 3) x) ∧
       (p.ok = true → s.m.destinationFree p (blockSum (p.blocks g.ctx.ranges)) = true → s.m.press.length < 8 →
         ∃ x y, exec (.rpress d a) s = .next { s with m := { ({ s.m with press := s.m.press ++ [x] } : Mach).setWarp g y with unit := none } } ∧
           x = ⟨g.team.ctx, g.team.die, p.frm, p.cls, p.ngr, p.dest, p.cnt, p.blocks g.ctx.ranges, 0, false, []⟩ ∧
           GoesOn g (.rpress d a) y ∧ y.still = (g.warp.setS d 0).still)) ∧
  (∀ (s : State) (r : Nat) (p : Press) (old new base : Nat), s.m.press[r]? = some p → blockLine p.blocks p.dest p.moved = some (old, new) →
     base = lineOf (physKey p.cls 0 0) → p.cls ≤ 1 → keyClass (128 * (base + old)) ≠ 4 → keyClass (128 * (base + new)) ≠ 4 →
     ∃ m, exec (.pressLineMove r) s = .next { s with m := m } ∧ m.press = s.m.press.modify r (fun q => { q with moved := q.moved + 1 }) ∧
       (s.m.lineMoves p old = true → ∀ i, i < 128 → Mem.get m.home (128 * (base + new) + i) = Mem.get s.m.home (128 * (base + old) + i)) ∧
       (s.m.lineMoves p old = false → m.home = s.m.home)) ∧
  (∀ (s : State) (r : Nat) (p : Press), s.m.press[r]? = some p → p.switched = false → s.m.opsUsing (List.range s.m.dies.length) p.ctx p.cached = [] →
     s.m.lateUserOf s.m.allCores p.ctx p.cached = none → s.m.userOf s.m.allCores p.ctx p.cached = none → 512 * blockSum p.blocks ≤ p.moved →
     (s.m.pressedRanges p).length ≤ Config.rangeLimit →
     ∃ m, exec (.pressSwitch r) s = .next { s with m := m } ∧ m.press = s.m.press.eraseIdx r ∧
       (m.ctx? p.ctx).map (·.ranges) = (s.m.ctx? p.ctx).map fun c => c.ranges.flatMap (RangeDesc.switched · p)) ∧
  (∀ (s : State) (r : Nat) (p : Press), s.m.press[r]? = some p → p.switched = false →
     (p.moved < 512 * blockSum p.blocks → exec (.pressSwitch r) s = .next s) ∧
     (∀ t w, 512 * blockSum p.blocks ≤ p.moved → (s.m.pressedRanges p).length ≤ Config.rangeLimit → s.m.userOf s.m.allCores p.ctx p.cached = some (t, w) →
       exec (.pressSwitch r) s = .next { s with m := s.m.background t w }))

/-! ### Matrix units, engines, pipes and launches -/

/-- 16 R297, R300, R303: an MMA or MMAS executed normally, none of whose accumulators raises an enabled exception, completes
with the new accumulators pending; MMA_WRITEBACK writes the oldest pending ones. A retained unit is restored first (01 R24). 16
R302: words of which lanes disagree, a format pair that is not accepted and a block number outside a bound, valid entry trap in that
order. 16 R304 to R306: MZERO and MCVT complete with their results in a run of registers, MSCL.P with a line fetched, MSCL.B as a
store of the entry of a bound tensor. When a missing scale line is fetched is DEDUCED: assumption log 39. -/
def Obligations.MatrixResults : Prop :=
  ((∀ (s : State) (g : Issue) (i : Instr) (o : MmaOp), MatrixOp i o →
     (AdmitsMma s.m g i o → g.quiet (g.mmaRaises s.m o) → ∃ x, Multiplies s g i o x) ∧
     (s.m.issuer = some g → g.mmaGate i o = .pass → s.m.retainedUnits g = true → exec i s = .next { s with m := s.m.restoreUnits g }) ∧
     (s.m.issuer = some g → g.mmaGate i o = .pass → s.m.retainedUnits g = false →
       let traps := fun c : Nat => ∃ l : Nat, exec i s = .next { s with m := s.m.trap g i { TrapRec.of c with lane := l } }
       let agree := fun q : Nat => g.disagrees o.vf 0 q = false ∧ (o.sparse = true → g.disagrees o.vf 1 q = false)
       ((∃ q, q ∈ g.quarters ∧ ¬ agree q) → traps 0x22) ∧
       ((∀ q, q ∈ g.quarters → agree q) →
         ((∃ q, q ∈ g.quarters ∧ (g.wordOf o q).ok o.sparse = false) → traps 0x0C) ∧
         ((∀ q, q ∈ g.quarters → (g.wordOf o q).ok o.sparse = true) →
           ((∃ q n, q ∈ g.quarters ∧ n ∈ g.needs o q ∧ g.ctx.sdcnt ≤ n.1) → traps 0x0B) ∧
           ((∀ q n, q ∈ g.quarters → n ∈ g.needs o q → n.1 < g.ctx.sdcnt ∧ ((g.onCore s.m).entry? g.team.ctx n.1).isSome = true) →
             (∃ q n e, q ∈ g.quarters ∧ n ∈ g.needs o q ∧ (g.onCore s.m).entry? g.team.ctx n.1 = some e ∧
               (e.valid = false ∨ e.nblk ≤ n.2.1)) → traps 0x0B))))) ∧
   (∀ (s : State) (t w : Nat) (x : Warp) (p : MmaPend) (ps : List MmaPend), s.m.warp? t w = some x → x.mma = p :: ps →
     ∃ m y, exec (.mmaWriteback t w) s = .next { s with m := m } ∧ m.warp? t w = some y ∧ y.mma = ps ∧ y.s = x.s ∧ y.slices = x.slices ∧
       ∀ n l, (y.v.at n).at l = match p.writes.reverse.find? fun e => decide (e.1 = n) && decide (e.2.1 = l) with
         | some e => e.2.2
         | none => (x.v.at n).at l)) ∧
  (∀ (s : State) (g : Issue), s.m.retainedUnits g = false →
     (∀ (i : Instr) (d : Fin 64) (n : Nat) (f : Nat → Fin 32 → Nat × Exc), RunResult g i d n f → Admits s.m g i → g.quiet (runRaises n f) →
       ∃ x, WritesRun s g i d n (fun j l => BitVec.ofNat 32 (f j l).1) x) ∧
     (∀ a b : Src, Admits s.m g (.msclP a b) → ∃ x, Acts s g (.msclP a b)
       (s.m.fetchScale g.team.die g.core g.team.ctx ((g.warp.one a).toNat % 65536) ((g.warp.one b).toNat / 64) g.team.super) id x) ∧
     (∀ (a b : Src) (t n : Nat) (q : Shot) (ls : List LaneAcc) (m' : Mach), Admits s.m g (.msclB a b) → g.warp.pair b / 2 ^ 32 % 65536 = t →
       g.warp.pair b % 2 ^ 32 = n → q = ⟨.ifg, .bind t, .die, 16, true, .store, anyClass⟩ →
       (g.ctx.sdcnt ≤ t → exec (.msclB a b) s = .next { s with m := s.m.trap g (.msclB a b) (TrapRec.illegal .scale) }) ∧
       (t < g.ctx.sdcnt → g.warp.counter .ifg < 255 →
         s.m.generateAll g q.kind q.size q.sup [{ lane := 0, scratch := false, addr := g.ctx.sdbase + 16 * t, reg := 0, cmp := 0
                                                  data := g.warp.pair a % 2 ^ 48 + n * 2 ^ 64 + (if n = 0 then 0 else 2 ^ 96) }] = (.ok ls, m') →
         ∃ x, Launched s g (.msclB a b) q ls [] m' x)))

/-- 05 R90, R91, 16 R297: the sum of a dense product of two integer formats, accumulated in I32, is the accumulator plus the products of the
elements, mod 2^32, and raises nothing. -/
def Obligations.IntegerProducts : Prop :=
  ∀ (t : Tile) (i j : Fin 32) (n c : Nat), t.f.acc = 1 → isIntFmt t.f.a = true → isIntFmt t.f.b = true → 0 < t.kb → t.k = n * t.kb → c < 2 ^ 32 →
    (t.sum false i (some j) c).1 = (BitVec.ofInt 32 ((c : Int) + ((List.range t.k).map fun k =>
      Spec.element t.f.a (elemBits t.f.a (t.aStr i) k) * Spec.element t.f.b (elemBits t.f.b (t.bStr j) k)).sum)).toNat ∧
    (t.sum false i (some j) c).2 = Exc.none

/-- 19 R345, R347: ERSET's operations on bound rings complete with their effect; a post that is accepted completes with the
operation posted and IFE one higher. A pointer that both owners advance is a free value (DESIGN CHOICE: assumption log 23). -/
def Obligations.RingsAndPosts : Prop :=
  ∀ (s : State) (g : Issue) (i : Instr), AdmitsLast s.m g i →
    (∀ m', RingEffect s.m g i m' → ∃ x, Acts s g i m' id x) ∧
    (∀ (kind : EngKind) (a : Src) (v : Nat) (m' : Mach) (o : EngOp), Posts i kind a →
      s.m.loadNow g (g.warp.pair a) 64 (g.plainly 64) = (.ok v, m') → o = EngOp.parse g kind (g.warp.pair a) (m'.trapPc g) v →
      Accepts m' g kind o v →
      ∃ x, Acts s g i { m' with ops := m'.ops ++ [{ o with posted := g.warp.nonmem }] } (fun y => { y with ife := y.ife + 1 }) x)

/-- 19 R344, R348, R351: an operation fires when its endpoints hold and have room, in the order of the posts on each ring end;
it does its accesses and ends, pauses, or ends in error; an ended one has its phase. ENGINE_FAULT stops the warp with the record
of the error; an access of the warp that replays, or that another instruction has retired past, is performed first. The order of the
accesses of an operation is a DESIGN CHOICE: assumption log 22; that an operation does not fire while its die has no free engine of its
kind is DEDUCED: assumption log 75, as is the place of an engine fault among accesses in flight: assumption log 40. -/
def Obligations.EngineOperations : Prop :=
  (∀ (s : State) (i : Instr) (m' : Mach), EngineEvent s.m i m' → exec i s = .next { s with m := m' }) ∧
  (∀ (m : Mach) (op : Nat) (o : EngOp), m.ops[op]? = some o →
    ((m.engDone op o).ops[op]?).map (·.phase) = some .ended) ∧
  (∀ (s : State) (t w : Nat) (team : Team) (x : Warp) (c : Context) (r : TrapRec) (rs : List TrapRec), s.m.teams[t]? = some team →
    s.m.warp? t w = some x → s.m.ctx? team.ctx = some c → c.halt = none → x.run = .ready → x.engFault = r :: rs → team.served = none →
    ((∀ q, q ∈ x.flight → q.replay = false ∧ q.skid = 0) → c.routeOf (causeGroup r.cause) = 1 →
      ∃ m y p, exec (.engineFault t w) s = .next { s with m := m } ∧ m.warp? t w = some y ∧ y.run = .stopped ∧ y.trap = some p ∧
        p.rcd.cause = r.cause ∧ p.rcd.va = r.va ∧ p.rcd.edesc = r.edesc ∧ y.engFault = rs ∧ y.flight = []) ∧
    (∀ q, q ∈ x.flight → q.replay = true ∨ q.skid ≠ 0 → exec (.engineFault t w) s = .next { s with m := (s.m.settleOldest t w).2 }))

/-- 19 R353 to R356: the pipe instructions complete with their effect; PRSV stays where no slot is free and PACQ where none can be taken. A
message sent by PMSG is committed when its copy returns at a home that no failed link has cut off, and IFG falls then. That a copy which
fails leaves a fault of cause 0x45 with its address is DEDUCED: assumption log 40, as are the epochs that a slot carries to its next
user: assumption log 64. -/
def Obligations.PipeInstructions : Prop :=
  (∀ (s : State) (g : Issue) (i : Instr), AdmitsLast s.m g i →
    (∀ (m' : Mach) (f : Warp → Warp), PipeEffect s.m g i m' f → ∃ x, Acts s g i m' f x) ∧
    (∀ (d : Fin 32) (a : Src) (p : Pipe), i = .prsv d a → s.m.ownPipe g (g.warp.one a).toNat false = some p → p.reserve = none → exec i s = .next s) ∧
    (∀ (d : Fin 32) (a : Src) (p : Pipe), i = .pacq d a → s.m.ownPipe g (g.warp.one a).toNat true = some p → p.takeable = none → exec i s = .next s)) ∧
  (∀ (s : State) (t w : Nat) (team : Team) (x : Warp) (f : Flight) (fs : List Flight) (n j : Nat) (p : Pipe), s.m.teams[t]? = some team →
    team.warps[w]? = some x → x.flight = f :: fs → f.act = .pmsg n j → f.ctr = .ifg → (s.m.performLanes t team x.core f f.lanes).bad = [] →
    (s.m.performLanes t team x.core f f.lanes).left = [] → (s.m.performLanes t team x.core f f.lanes).m.pipe? n = some p →
    (s.m.performLanes t team x.core f f.lanes).m.isHalted p.home = false → j < p.slots.length → ∃ m y q, exec (.accessReturn t w) s = .next { s with m := m } ∧ m.warp? t w = some y ∧ y.flight = fs ∧
      y.ifg = x.ifg - 1 ∧ m.pipe? n = some q ∧ (q.stateOf j = some .ready ∨ q.stateOf j = some .committed))

/-- 18 R319: the slot protocol. A reservation gets a free slot and the next reservation number; a take gets the committed slot of the
next take number; a commit behind an older reserved slot is not yet counted. That a reservation gets the lowest free slot is the model's
(DESIGN CHOICE: assumption log 96). -/
def Obligations.SlotProtocol : Prop :=
  ∀ (p : Pipe) (j : Nat),
    (∀ q, p.reserve = some (j, q) → p.stateOf j = some .free ∧ (∀ k, k < j → p.stateOf k ≠ some .free) ∧
      (q.slots[j]?).map (fun s => (s.st, s.seq)) = some (.reserved, p.rseq) ∧ q.rseq = p.rseq + 1 ∧ q.cseq = p.cseq ∧ q.tseq = p.tseq ∧
      ∀ k, k ≠ j → q.slots[k]? = p.slots[k]?) ∧
    (p.takeable = some j → (p.slots[j]?).map (fun s => (s.st, s.seq)) = some (.committed, p.tseq) ∧
      ((p.take j).slots[j]?).map (fun s => (s.st, s.seq)) = some (.taken, p.tseq) ∧ (p.take j).tseq = p.tseq + 1 ∧ (p.take j).cseq = p.cseq ∧
      ∀ k, k ≠ j → (p.take j).slots[k]? = p.slots[k]?) ∧
    (∀ s seen, p.slots[j]? = some s → s.seq ≠ p.cseq → p.find .ready p.cseq = none →
      (p.commit j seen).cseq = p.cseq ∧ ((p.commit j seen).slots[j]?).map (fun s => s.st) = some .ready)

/-- 19 R357, R358: KLAUNCH and GLAUNCH complete with their status, and post a packet where it is 0; GCOND issues a store of its
condition word. The order of the tests is DEDUCED: assumption log 41. -/
def Obligations.LaunchResults : Prop :=
  ∀ (s : State) (g : Issue),
    (∀ (i : Instr) (kind : Nat) (d : Fin 32) (a b : Src) (v st : Nat) (m' m1 : Mach), Launches i kind d a b → AdmitsLast s.m g i →
      s.m.loadNow g (g.warp.pair a) 64 (g.plainly 64) = (.ok v, m') → LaunchStatus m' g kind (g.warp.one b).toNat v st m1 →
      ∃ x, Acts s g i m1 (fun y => y.setS d (BitVec.ofNat 32 st)) x) ∧
    (∀ (a b : Src) (va n : Nat) (q : Shot) (ls : List LaneAcc) (m' : Mach), Admits s.m g (.gcond a b) → s.m.condVA g.team = some va →
      (g.warp.one a).toNat = n → n < 256 → g.warp.counter .ifg < 255 → q = ⟨.ifg, .store, .die, 4, true, .store, anyClass⟩ →
      s.m.generateAll g q.kind q.size q.sup [{ lane := 0, scratch := false, addr := va + 4 * n, reg := 0, data := (g.warp.one b).toNat, cmp := 0 }] =
        (.ok ls, m') → ∃ x, Launched s g (.gcond a b) q ls [] m' x)

/-! ### Teams, queues, commands and graphs -/

/-- 03 R36, R37: a team starts with its place in its grid, its shape slots and no ring bound, and each of its warps with every register, mask
and counter 0, every latch empty, every lane inside TLANES active, every slice at the kernel's entry in one gang, entry e of every renaming
table naming v(48 + e), and YCNT the Y of its context. -/
def Obligations.TeamsAtStart : Prop :=
  ∀ (m : Mach) (k : KDesc) (shapes : List Shape) (q : Spot) (g : Given) (ph : TeamPhase) (team : Team), team = m.freshTeam k shapes q g ph →
    (0 < q.gx → 0 < q.gy → team.x < q.gx ∧ team.y < q.gy ∧ team.x + q.gx * (team.y + q.gy * team.z) = q.linear) ∧
    team.warps.length = k.teamw ∧ team.args = g.args ∧ team.ctx = g.ctx ∧ (∀ h, team.shapes.at h = shapes[h.val]?) ∧ (∀ h, team.rings.at h = none) ∧
    ∀ (w : Nat) (x : Warp), team.warps[w]? = some x →
      (∀ n l, (x.v.at n).at l = 0) ∧ (∀ n, x.s.at n = 0) ∧ x.poison = [] ∧ (∀ n, x.b.at n = none) ∧
      (∀ n, x.lc.at n = 0 ∧ x.ls.at n = 0 ∧ x.le.at n = 0) ∧ (∀ p e, ((x.ren.at p).at e).val = 48 + e.val) ∧ (∀ p n, (x.k.at p).at n = 0) ∧
      x.ycnt = ((m.ctx? g.ctx).map Context.y).getD 0 ∧ x.cm = 0 ∧ x.part = 0 ∧
      x.ften = 0 ∧ x.meld = none ∧ x.ifs + x.ifg + x.ift + x.ife = 0 ∧ x.flight = [] ∧ x.preq = false ∧ x.run = .ready ∧
      (∀ l : Fin 32, x.exec.getLsbD l.val = insideLane k.tlanes w l.val) ∧
      ∀ j, x.slices.at j = { pc := k.entry, stack := [], gang := 0, wait := .none }

/-- 03 R44, R45, R62, R67, R69, 18 R314 to R317, 21 R366: the events of teams have their effect. A warp saved by force at the
end of its allowance is saved with its registers. The places are arguments of the events (DESIGN CHOICE: assumption log 16);
when a forced save is taken and what a restore elsewhere keeps are DEDUCED: assumption log 62, 63; that the start of a handler joins
the announcement of its record is a DESIGN CHOICE: assumption log 17. -/
def Obligations.TeamEvents : Prop :=
  (∀ (s : State) (i : Instr) (m' : Mach), TeamEvent s.m i m' → exec i s = .next { s with m := m' }) ∧
  (∀ (s : State) (t w : Nat) (team : Team) (x : Warp), s.m.teams[t]? = some team → s.m.warp? t w = some x → team.phase = .running →
    x.run = .ready → x.preq = true → x.ycnt = 0 → x.faultDue = false → s.m.haltDue team.ctx = false → s.m.unit = none →
    s.m.ctxRuns team.ctx = true → team.served = none →
    ∃ m y, exec (.forcedSave t w) s = .next { s with m := m } ∧ m.warp? t w = some y ∧ y.run = .saved ∧ y.s = x.s ∧ y.exec = x.exec)

/-- 18 R309 to R313, R323, R329: the events of queues have their effect. A kernel packet whose teams have all exited completes;
PLAN_START of a loaded plan on core groups that suit it runs the plan. The places are arguments of the events (DESIGN CHOICE:
assumption log 16); the die of firmware's stores and the releases that a completion gathers are DEDUCED: assumption log 37, 50.
-/
def Obligations.QueueEvents : Prop :=
  (∀ (s : State) (i : Instr) (m' : Mach), QueueEvent s.m i m' → exec i s = .next { s with m := m' }) ∧
  (∀ (s : State) (p i st : Nat) (j : Job), s.m.job? p i = some j → s.m.jobStatus p i j = some st → s.m.workHeld p = false →
    s.m.workLost p = false →
    ∃ m, exec (.packetComplete p i) s = .next { s with m := m } ∧ (m.job? p i).map (·.phase) = some (.complete st)) ∧
  (∀ (s : State) (p i : Nat) (j : Job) (x : Plan) (ks : List (KDesc × List Shape)) (cores : List (List (Nat × Nat))), s.m.job? p i = some j →
    j.pkt.kind = 1 → j.phase = .dispatched → s.m.planAt j.pkt.ctx j.pkt.obj = some x → x.job = none → s.m.stageKernels x = some ks →
    (∀ k, k ∈ ks → k.1.nbar ≤ s.m.limit p 16 8) → s.m.groupsOk p x (ks.map (·.1)) cores = true → s.m.planYields p j cores.flatten = false →
    ∃ m, exec (.planStart p i cores) s = .next { s with m := m } ∧ (m.job? p i).map (·.phase) = some .running ∧
      (m.planAt j.pkt.ctx j.pkt.obj).map (·.job) = some (some i))

/-- 18 R332 to R340, 13 R251, 23 R396: a command that succeeds leaves its effect and is done with status 0; one that is refused
is done with its status and has no effect. A block that is misaligned or cannot be read ends in MALFORMED. Identifiers and
places are arguments (DESIGN CHOICE: assumption log 16); the places of Nimom's structures and the free parts of an attestation's report
are a DESIGN CHOICE: assumption log 17, 18; statuses that no rule names are DEDUCED: assumption log 43, 45, 46, 47, 48, 49, 56. -/
def Obligations.Commands : Prop :=
  ∀ (s : State) (p k : Nat) (j : Job) (i : Instr) (code : Nat), s.m.job? p k = some j → j.isCommand code = true →
    (∀ st m', CommandEffect s.m p k j i code st m' → exec i s = .next { s with m := m'.finishJob p k st }) ∧
    (∀ n al, BlockOf p k i code n al → s.m.block j n al = none → exec i s = .next { s with m := s.m.finishJob p k 3 })

/-- 18 R327, R339, 23 R382, R385, R393: the commands that take several steps, or that leave more than a status, have their
effect. 18 R333: CONTEXT_DESTROY of a context leaves no context of its number, and no queue, plan, pipe or graph of it.
Identifiers and places are arguments (DESIGN CHOICE: assumption log 16, 66), and near memory keeps its bytes over a DOMAIN_SET (DESIGN
CHOICE: assumption log 54); which sets are BUSY and what bars a DIE_RESET are DEDUCED: assumption log 55, 56. -/
def Obligations.LongCommands : Prop :=
  (∀ (s : State) (p k : Nat) (j : Job) (i : Instr) (code : Nat) (m' : Mach), s.m.job? p k = some j → j.isCommand code = true →
     CommandEvent s.fuse s.m p k j i code m' → exec i s = .next { s with m := m' }) ∧
  (∀ (s : State) (p k : Nat) (j : Job), s.m.job? p k = some j → j.isCommand 3 = true → j.pkt.obj = 0 → s.m.workHeld p = false →
     s.m.workLost p = false →
     ∃ m, exec (.contextDestroy p k) s = .next { s with m := m } ∧ m.ctx? j.pkt.ctx = none ∧
       (∀ x, x ∈ m.plans → x.ctx ≠ j.pkt.ctx) ∧ (∀ x, x ∈ m.pipes → x.ctx ≠ j.pkt.ctx) ∧ (∀ x, x ∈ m.graphs → x.ctx ≠ j.pkt.ctx) ∧
       (∀ x, x ∈ m.parts → ∀ q, q ∈ x.queues → q.ctx ≠ some j.pkt.ctx))

/-- 18 R323, R329, R330: the period ends of plans and the nodes of graphs have their effect. The travel of credits, the choices
of the balancer, an unreadable condition word and the end of a walker that meets a lost sector are a DESIGN CHOICE: assumption log 52,
59, 60, 80. -/
def Obligations.NodeEvents : Prop :=
  ∀ (s : State) (i : Instr) (m' : Mach), NodeEvent s.m i m' → exec i s = .next { s with m := m' }

/-! ### The package, what acts from outside, and the machine as a whole -/

/-- 23 R380 to R395: the events of cache domains, ports, links and the lease have their effect. A failed link that leaves dies
cut off halts them; a device reset restores partition 0 with its queue 0 and keeps memory and failed links (18 R404). The end of
a switch, the numbers of interrupts and the fate of held requests are DEDUCED: assumption log 32, 44, 51, 57; images, measured values and
the test of a signature are the environment's (DESIGN CHOICE: assumption log 18, 19). -/
def Obligations.PackageEvents : Prop :=
  ∀ (s : State),
    (∀ (i : Instr) (m' : Mach), PackageEvent s.fuse s.m i m' → exec i s = .next { s with m := m' }) ∧
    (∀ l : LinkName, ∃ m, exec (.linkFail l) s = .next { s with m := m } ∧ l ∈ m.brokenLinks ∧
      ∀ d x, d < s.m.dies.length → m.dies[d]? = some x →
        d ∉ ({ s.m with brokenLinks := m.brokenLinks } : Mach).joined s.fuse.dmask 8 → x.halted = true) ∧
    (∀ images : List BootImage, ∃ m, exec (.deviceReset images) s = .next { s with m := m } ∧ m.home = s.m.home ∧
      m.brokenLinks = s.m.brokenLinks ∧ m.contexts = [] ∧ m.teams = [] ∧ m.parts.map (fun p => (p.id, p.queues.map (·.idx))) = [(0, [0])] ∧
      m.images = images ∧ (m.imageRefused = false ↔ images ≠ [] ∧ ∀ x, x ∈ images → s.fuse.rollback ≤ x.version ∧
        Config.freeVerify s.fuse.bootKey x.bytes x.signature = true) ∧
      ∀ x, x ∈ m.dies → x.halted = m.imageRefused)

/-- 12 R229 to R231, 23 R386, R390, R392, R397, 18 R318: accesses of the host, of peers and of Ethernet have their effect. 23 R386, R391,
R396, R397: HOST_READ answers what memory, a register of BAR 0 or the sideband shows. The keys of host memory are a DESIGN CHOICE:
assumption log 20, 53; the length of a frame is DEDUCED: assumption log 58; its check is PRESUMED: assumption log 82. -/
def Obligations.OutsideEvents : Prop :=
  (∀ (s : State) (i : Instr) (m' : Mach), OutsideEvent s.m i m' → exec i s = .next { s with m := m' }) ∧
  (∀ (s : State) (a : HostAddr) (n : Nat) (bs : List Byte), HostReads s.fuse s.m a n bs →
    exec (.hostRead a n) s = .next { s with m := { s.m with hostReads := s.m.hostReads ++ [bs] } })

/-- 12 R225, 05 R95, 01 R24, R27, 21 R369 to R378, 23 R397, 25 R402: the remaining events have their effect. A stop halts the
context; at 115 degrees every context is halted and the package powers down. Time and measured values are inputs (DESIGN CHOICE:
assumption log 5, 19); halts, poison and the number of a stop report's interrupt are read as in assumption log 31, 35, 51 (DEDUCED). -/
def Obligations.MachineEvents : Prop :=
  ∀ (s : State),
    (∀ (i : Instr) (m' : Mach), MachineEvent s.m i m' → exec i s = .next { s with m := m' }) ∧
    (∀ (i : Instr) (m' : Mach), IslandEvent s.fuse s.m i m' → exec i s = .next { s with m := m' }) ∧
    (∀ (n : Nat) (c : Context), s.m.ctx? n = some c → c.halt = none → c.haltDue = true → (s.m.doHalts.ctx? n).map (·.halt) = some (some .debugger)) ∧
    (∀ (i : Instr) (n cause : Nat) (h : Halt) (c : Context), StopEvent n i cause h → s.m.ctx? n = some c → c.halt = none →
      ∃ m, exec i s = .next { s with m := m } ∧ (m.ctx? n).map (·.halt) = some (some h)) ∧
    (∀ d temp : Nat, d < s.m.dies.length → 115 ≤ temp → ∃ m, exec (.thermalShutdown d temp) s = .next { s with m := m } ∧ m.poweredDown = true ∧
      ∀ n c, m.ctx? n = some c → c.halt.isSome)

/-- 18 R404, 23 R385, R387, R391, 12 R222: the machine after reset has no context and no team, all dies in partition 0 with the grant to no
partition, epoch 1 open and empty on every die, and all ports down. The fused form, the empty memory and the caches are the model's
(DESIGN CHOICE: assumption log 3, 4, 21). -/
def Obligations.AfterReset : Prop :=
  State.reset.m.contexts = [] ∧ State.reset.m.teams = [] ∧ State.reset.m.dies.length = 8 ∧ (∀ p, p ∈ State.reset.m.pmap → p = 0) ∧
  State.reset.m.parts.map (fun p => (p.id, p.queues.map (·.idx))) = [(0, [0])] ∧ State.reset.m.grant = 0xF ∧ State.reset.m.cfg = 0 ∧
  (∀ x, x ∈ State.reset.m.dies → x.epoch = 1 ∧ x.sectors = [] ∧ x.halted = false) ∧ (∀ k, (State.reset.m.ports.at k).state = 0) ∧
  Mem.wf State.reset.m.home = true ∧ State.reset.m.issuer = none

/-- 01 R31, R32: no step changes what was fused at manufacture, which PKGCFG reports. Every step keeps the canonical form of home memory,
which is the model's: rising addresses, and no byte listed that is 0. -/
def Obligations.FuseKept : Prop :=
  ∀ s t : State, step s = .next t → t.fuse = s.fuse ∧ (Mem.wf s.m.home = true → Mem.wf t.m.home = true)

/-- No step of the model stops: every step of every state answers a next state. Every word that a gang fetches, decodable or
not, and every event has an effect. It is the model's; no rule states it of the machine. -/
def Obligations.EveryStepAnswers : Prop :=
  ∀ s : State, ∃ t, step s = .next t

/-- 07 R99, R111, 03 R59: inside a unit of LIMM, or with no input waiting, the step of a machine in which a gang can issue and
has nothing to take first fetches the instruction at its PC, decodes it, and is exec of it on the machine that the fetch leaves;
the turn then passes on. The order of issue and of inputs is a DESIGN CHOICE: assumption log 1, 14. -/
def Obligations.StepRunsTheDecodedInstruction : Prop :=
  ∀ (s t : State) (g : Issue) (bs : List Byte) (i : Instr) (m0 m1 : Mach), s.m.poweredDown = false → (s.m.unit = none → s.m.inputs = []) →
    m0 = (if s.m.unit.isSome then s.m else s.m.choose) → m0.issuer = some g → m0.beforeIssue g = none →
    m0.fetch g.team.die g.core g.warp.cluster g.team.ctx g.pc g.team.super (decide (g.warp.replayFetch &&& g.gang ≠ 0)) = (.bytes bs, m1) →
    (decode bs = .ok i ∨ ∃ c, decode bs = .error c ∧ i = .illegalInstruction c (wordOf bs)) → exec i { s with m := m1 } = .next t →
    step s = .next { t with m := t.m.afterIssue g m0.unit.isSome }

/-- Words that the spec writes out decode to the instructions that it gives them: the examples of 07 R104, 09 R158, R164, R166, R168, R170, R180,
10 R206, 14 R258, R274. -/
def Obligations.WordsDecode : Prop :=
  decodeTableWord 32 0x06084005 = some (.vfmaF32 ⟨false, 4⟩ (.v 2) (.v 3) false false .rne) ∧
  decodeTableWord 32 0x1C0456C1 = some (.vcmpImm .ge (.v 1) 14) ∧ decodeTableWord 16 0xE0A0 = some (.vaddShort 5 28) ∧
  decodeTableWord 32 0x8B10300B = some (.sadd ⟨false, 3⟩ (.s 4) (.s 5)) ∧ decodeTableWord 32 0x0000408D = some (.jmp 8) ∧
  decodeTableWord 96 0x00000609040402810008206D = some (.switch 2 [⟨1, 10⟩, ⟨4, 16⟩, ⟨9, 24⟩]) ∧
  decodeTableWord 32 0x002850AD = some (.call 40 10) ∧ decodeTableWord 32 0x0003210D = some (.loop 3 4 0) ∧
  decodeTableWord 32 0x0224605B = some (.sysr 9 (.scal ⟨false, 6⟩)) ∧ decodeTableWord 32 0xF40420C9 = some (.vshfl ⟨false, 2⟩ (.v 1) (.c 10) 2) ∧
  decodeTableWord 32 0x05204411 = some (.ld 4 (.s 8) (.v 2) 2) ∧ decodeTableWord 32 0x000041B3 = some (.acq .pkg)

/-- Every encoded instruction that keeps its limits is read back from its own bytes: no bit of an encoding is dropped. -/
def Obligations.DecodeReadsEncode : Prop :=
  ∀ i : Instr, wellFormed i = true → i.encoded = true → (∀ c w, i ≠ .illegalInstruction c w) → decode (encode i) = .ok i
end

