-- ==== Sys2Proof/Laws/Dispatch.lean ====
section
/-! SUPPORT. The dispatch, arm by arm: the meaning of each constructor. -/

namespace Sys2Proof.Machine

@[simp] theorem exec_vadd (s : State) : ∀ d a b, exec (.vadd d a b) s = execVadd d a b s := fun _ _ _ => rfl
@[simp] theorem exec_vaddImm (s : State) : ∀ d a i_, exec (.vaddImm d a i_) s = execVaddImm d a i_ s := fun _ _ _ => rfl
@[simp] theorem exec_vsub (s : State) : ∀ d a b, exec (.vsub d a b) s = execVsub d a b s := fun _ _ _ => rfl
@[simp] theorem exec_vmul (s : State) : ∀ d a b, exec (.vmul d a b) s = execVmul d a b s := fun _ _ _ => rfl
@[simp] theorem exec_vmulImm (s : State) : ∀ d a i_, exec (.vmulImm d a i_) s = execVmulImm d a i_ s := fun _ _ _ => rfl
@[simp] theorem exec_vmulh (s : State) : ∀ d a b, exec (.vmulh d a b) s = execVmulh d a b s := fun _ _ _ => rfl
@[simp] theorem exec_vmulhU (s : State) : ∀ d a b, exec (.vmulhU d a b) s = execVmulhU d a b s := fun _ _ _ => rfl
@[simp] theorem exec_vmad (s : State) : ∀ d a b, exec (.vmad d a b) s = execVmad d a b s := fun _ _ _ => rfl
@[simp] theorem exec_vand (s : State) : ∀ d a b, exec (.vand d a b) s = execVand d a b s := fun _ _ _ => rfl
@[simp] theorem exec_vandImm (s : State) : ∀ d a i_, exec (.vandImm d a i_) s = execVandImm d a i_ s := fun _ _ _ => rfl
@[simp] theorem exec_vor (s : State) : ∀ d a b, exec (.vor d a b) s = execVor d a b s := fun _ _ _ => rfl
@[simp] theorem exec_vorImm (s : State) : ∀ d a i_, exec (.vorImm d a i_) s = execVorImm d a i_ s := fun _ _ _ => rfl
@[simp] theorem exec_vxor (s : State) : ∀ d a b, exec (.vxor d a b) s = execVxor d a b s := fun _ _ _ => rfl
@[simp] theorem exec_vxorImm (s : State) : ∀ d a i_, exec (.vxorImm d a i_) s = execVxorImm d a i_ s := fun _ _ _ => rfl
@[simp] theorem exec_vshl (s : State) : ∀ d a b, exec (.vshl d a b) s = execVshl d a b s := fun _ _ _ => rfl
@[simp] theorem exec_vshlImm (s : State) : ∀ d a i_, exec (.vshlImm d a i_) s = execVshlImm d a i_ s := fun _ _ _ => rfl
@[simp] theorem exec_vsrl (s : State) : ∀ d a b, exec (.vsrl d a b) s = execVsrl d a b s := fun _ _ _ => rfl
@[simp] theorem exec_vsrlImm (s : State) : ∀ d a i_, exec (.vsrlImm d a i_) s = execVsrlImm d a i_ s := fun _ _ _ => rfl
@[simp] theorem exec_vsra (s : State) : ∀ d a b, exec (.vsra d a b) s = execVsra d a b s := fun _ _ _ => rfl
@[simp] theorem exec_vsraImm (s : State) : ∀ d a i_, exec (.vsraImm d a i_) s = execVsraImm d a i_ s := fun _ _ _ => rfl
@[simp] theorem exec_vmin (s : State) : ∀ d a b, exec (.vmin d a b) s = execVmin d a b s := fun _ _ _ => rfl
@[simp] theorem exec_vminImm (s : State) : ∀ d a i_, exec (.vminImm d a i_) s = execVminImm d a i_ s := fun _ _ _ => rfl
@[simp] theorem exec_vminU (s : State) : ∀ d a b, exec (.vminU d a b) s = execVminU d a b s := fun _ _ _ => rfl
@[simp] theorem exec_vminUImm (s : State) : ∀ d a i_, exec (.vminUImm d a i_) s = execVminUImm d a i_ s := fun _ _ _ => rfl
@[simp] theorem exec_vmax (s : State) : ∀ d a b, exec (.vmax d a b) s = execVmax d a b s := fun _ _ _ => rfl
@[simp] theorem exec_vmaxImm (s : State) : ∀ d a i_, exec (.vmaxImm d a i_) s = execVmaxImm d a i_ s := fun _ _ _ => rfl
@[simp] theorem exec_vmaxU (s : State) : ∀ d a b, exec (.vmaxU d a b) s = execVmaxU d a b s := fun _ _ _ => rfl
@[simp] theorem exec_vmaxUImm (s : State) : ∀ d a i_, exec (.vmaxUImm d a i_) s = execVmaxUImm d a i_ s := fun _ _ _ => rfl
@[simp] theorem exec_vabs (s : State) : ∀ d a, exec (.vabs d a) s = execVabs d a s := fun _ _ => rfl
@[simp] theorem exec_vclz (s : State) : ∀ d a, exec (.vclz d a) s = execVclz d a s := fun _ _ => rfl
@[simp] theorem exec_vpopc (s : State) : ∀ d a, exec (.vpopc d a) s = execVpopc d a s := fun _ _ => rfl
@[simp] theorem exec_vbrev (s : State) : ∀ d a, exec (.vbrev d a) s = execVbrev d a s := fun _ _ => rfl
@[simp] theorem exec_vsel (s : State) : ∀ d a b, exec (.vsel d a b) s = execVsel d a b s := fun _ _ _ => rfl
@[simp] theorem exec_vsat (s : State) : ∀ d a b, exec (.vsat d a b) s = execVsat d a b s := fun _ _ _ => rfl
@[simp] theorem exec_vsatImm (s : State) : ∀ d a i_, exec (.vsatImm d a i_) s = execVsatImm d a i_ s := fun _ _ _ => rfl
@[simp] theorem exec_vcmp (s : State) : ∀ c a b, exec (.vcmp c a b) s = execVcmp c a b s := fun _ _ _ => rfl
@[simp] theorem exec_vcmpImm (s : State) : ∀ c a i_, exec (.vcmpImm c a i_) s = execVcmpImm c a i_ s := fun _ _ _ => rfl
@[simp] theorem exec_vfadd (s : State) : ∀ d a b m, exec (.vfadd d a b m) s = execVfadd d a b m s := fun _ _ _ _ => rfl
@[simp] theorem exec_vfsub (s : State) : ∀ d a b m, exec (.vfsub d a b m) s = execVfsub d a b m s := fun _ _ _ _ => rfl
@[simp] theorem exec_vfmul (s : State) : ∀ d a b m, exec (.vfmul d a b m) s = execVfmul d a b m s := fun _ _ _ _ => rfl
@[simp] theorem exec_vfmin (s : State) : ∀ d a b, exec (.vfmin d a b) s = execVfmin d a b s := fun _ _ _ => rfl
@[simp] theorem exec_vfmax (s : State) : ∀ d a b, exec (.vfmax d a b) s = execVfmax d a b s := fun _ _ _ => rfl
@[simp] theorem exec_vfabs (s : State) : ∀ d a, exec (.vfabs d a) s = execVfabs d a s := fun _ _ => rfl
@[simp] theorem exec_vfneg (s : State) : ∀ d a, exec (.vfneg d a) s = execVfneg d a s := fun _ _ => rfl
@[simp] theorem exec_vfrcp (s : State) : ∀ d a, exec (.vfrcp d a) s = execVfrcp d a s := fun _ _ => rfl
@[simp] theorem exec_vfrsq (s : State) : ∀ d a, exec (.vfrsq d a) s = execVfrsq d a s := fun _ _ => rfl
@[simp] theorem exec_vfexp2 (s : State) : ∀ d a, exec (.vfexp2 d a) s = execVfexp2 d a s := fun _ _ => rfl
@[simp] theorem exec_vflog2 (s : State) : ∀ d a, exec (.vflog2 d a) s = execVflog2 d a s := fun _ _ => rfl
@[simp] theorem exec_vfsin (s : State) : ∀ d a, exec (.vfsin d a) s = execVfsin d a s := fun _ _ => rfl
@[simp] theorem exec_vfcos (s : State) : ∀ d a, exec (.vfcos d a) s = execVfcos d a s := fun _ _ => rfl
@[simp] theorem exec_vftanh (s : State) : ∀ d a, exec (.vftanh d a) s = execVftanh d a s := fun _ _ => rfl
@[simp] theorem exec_vfcmp (s : State) : ∀ c a b, exec (.vfcmp c a b) s = execVfcmp c a b s := fun _ _ _ => rfl
@[simp] theorem exec_vfmaF32 (s : State) : ∀ d a b na np m, exec (.vfmaF32 d a b na np m) s = execVfmaF32 d a b na np m s := fun _ _ _ _ _ _ => rfl
@[simp] theorem exec_vfmaH2 (s : State) : ∀ d a b na np m, exec (.vfmaH2 d a b na np m) s = execVfmaH2 d a b na np m s := fun _ _ _ _ _ _ => rfl
@[simp] theorem exec_vfmaB2 (s : State) : ∀ d a b na np m, exec (.vfmaB2 d a b na np m) s = execVfmaB2 d a b na np m s := fun _ _ _ _ _ _ => rfl
@[simp] theorem exec_vcvtF32I32 (s : State) : ∀ d a m, exec (.vcvtF32I32 d a m) s = execVcvtF32I32 d a m s := fun _ _ _ => rfl
@[simp] theorem exec_vcvtI32F32 (s : State) : ∀ d a m, exec (.vcvtI32F32 d a m) s = execVcvtI32F32 d a m s := fun _ _ _ => rfl
@[simp] theorem exec_vcvtF16F32 (s : State) : ∀ d a m, exec (.vcvtF16F32 d a m) s = execVcvtF16F32 d a m s := fun _ _ _ => rfl
@[simp] theorem exec_vcvtBf16F32 (s : State) : ∀ d a m, exec (.vcvtBf16F32 d a m) s = execVcvtBf16F32 d a m s := fun _ _ _ => rfl
@[simp] theorem exec_vcvtF32F16 (s : State) : ∀ d a, exec (.vcvtF32F16 d a) s = execVcvtF32F16 d a s := fun _ _ => rfl
@[simp] theorem exec_vcvtF32Bf16 (s : State) : ∀ d a, exec (.vcvtF32Bf16 d a) s = execVcvtF32Bf16 d a s := fun _ _ => rfl
@[simp] theorem exec_vpackH2 (s : State) : ∀ d a b m, exec (.vpackH2 d a b m) s = execVpackH2 d a b m s := fun _ _ _ _ => rfl
@[simp] theorem exec_vpackB2 (s : State) : ∀ d a b m, exec (.vpackB2 d a b m) s = execVpackB2 d a b m s := fun _ _ _ _ => rfl
@[simp] theorem exec_vpackI16 (s : State) : ∀ d a b, exec (.vpackI16 d a b) s = execVpackI16 d a b s := fun _ _ _ => rfl
@[simp] theorem exec_vunpk (s : State) : ∀ d a b u, exec (.vunpk d a b u) s = execVunpk d a b u s := fun _ _ _ _ => rfl
@[simp] theorem exec_vqnt (s : State) : ∀ d a i_, exec (.vqnt d a i_) s = execVqnt d a i_ s := fun _ _ _ => rfl
@[simp] theorem exec_vdqnt (s : State) : ∀ d a i_, exec (.vdqnt d a i_) s = execVdqnt d a i_ s := fun _ _ _ => rfl
@[simp] theorem exec_vmov (s : State) : ∀ d a, exec (.vmov d a) s = execVmov d a s := fun _ _ => rfl
@[simp] theorem exec_vmovk (s : State) : ∀ d i_, exec (.vmovk d i_) s = execVmovk d i_ s := fun _ _ => rfl
@[simp] theorem exec_vmovs (s : State) : ∀ d a b, exec (.vmovs d a b) s = execVmovs d a b s := fun _ _ _ => rfl
@[simp] theorem exec_vvote (s : State) : ∀ d a b u, exec (.vvote d a b u) s = execVvote d a b u s := fun _ _ _ _ => rfl
@[simp] theorem exec_vshfl (s : State) : ∀ d a b u, exec (.vshfl d a b u) s = execVshfl d a b u s := fun _ _ _ _ => rfl
@[simp] theorem exec_vshflImm (s : State) : ∀ d a i_ u, exec (.vshflImm d a i_ u) s = execVshflImm d a i_ u s := fun _ _ _ _ => rfl
@[simp] theorem exec_vbcast (s : State) : ∀ d a b, exec (.vbcast d a b) s = execVbcast d a b s := fun _ _ _ => rfl
@[simp] theorem exec_vbcastImm (s : State) : ∀ d a i_, exec (.vbcastImm d a i_) s = execVbcastImm d a i_ s := fun _ _ _ => rfl
@[simp] theorem exec_setpart (s : State) : ∀ b, exec (.setpart b) s = execSetpart b s := fun _ => rfl
@[simp] theorem exec_setpartImm (s : State) : ∀ i_, exec (.setpartImm i_) s = execSetpartImm i_ s := fun _ => rfl
@[simp] theorem exec_vred (s : State) : ∀ d a o, exec (.vred d a o) s = execVred d a o s := fun _ _ _ => rfl
@[simp] theorem exec_vscan (s : State) : ∀ d a o, exec (.vscan d a o) s = execVscan d a o s := fun _ _ _ => rfl
@[simp] theorem exec_sadd (s : State) : ∀ d a b, exec (.sadd d a b) s = execSadd d a b s := fun _ _ _ => rfl
@[simp] theorem exec_saddImm (s : State) : ∀ d a i_, exec (.saddImm d a i_) s = execSaddImm d a i_ s := fun _ _ _ => rfl
@[simp] theorem exec_ssub (s : State) : ∀ d a b, exec (.ssub d a b) s = execSsub d a b s := fun _ _ _ => rfl
@[simp] theorem exec_smul (s : State) : ∀ d a b, exec (.smul d a b) s = execSmul d a b s := fun _ _ _ => rfl
@[simp] theorem exec_smulImm (s : State) : ∀ d a i_, exec (.smulImm d a i_) s = execSmulImm d a i_ s := fun _ _ _ => rfl
@[simp] theorem exec_smulh (s : State) : ∀ d a b, exec (.smulh d a b) s = execSmulh d a b s := fun _ _ _ => rfl
@[simp] theorem exec_smulhU (s : State) : ∀ d a b, exec (.smulhU d a b) s = execSmulhU d a b s := fun _ _ _ => rfl
@[simp] theorem exec_sdiv (s : State) : ∀ d a b, exec (.sdiv d a b) s = execSdiv d a b s := fun _ _ _ => rfl
@[simp] theorem exec_sdivU (s : State) : ∀ d a b, exec (.sdivU d a b) s = execSdivU d a b s := fun _ _ _ => rfl
@[simp] theorem exec_srem (s : State) : ∀ d a b, exec (.srem d a b) s = execSrem d a b s := fun _ _ _ => rfl
@[simp] theorem exec_sremU (s : State) : ∀ d a b, exec (.sremU d a b) s = execSremU d a b s := fun _ _ _ => rfl
@[simp] theorem exec_sand (s : State) : ∀ d a b, exec (.sand d a b) s = execSand d a b s := fun _ _ _ => rfl
@[simp] theorem exec_sandImm (s : State) : ∀ d a i_, exec (.sandImm d a i_) s = execSandImm d a i_ s := fun _ _ _ => rfl
@[simp] theorem exec_sor (s : State) : ∀ d a b, exec (.sor d a b) s = execSor d a b s := fun _ _ _ => rfl
@[simp] theorem exec_sorImm (s : State) : ∀ d a i_, exec (.sorImm d a i_) s = execSorImm d a i_ s := fun _ _ _ => rfl
@[simp] theorem exec_sxor (s : State) : ∀ d a b, exec (.sxor d a b) s = execSxor d a b s := fun _ _ _ => rfl
@[simp] theorem exec_sxorImm (s : State) : ∀ d a i_, exec (.sxorImm d a i_) s = execSxorImm d a i_ s := fun _ _ _ => rfl
@[simp] theorem exec_sshl (s : State) : ∀ d a b, exec (.sshl d a b) s = execSshl d a b s := fun _ _ _ => rfl
@[simp] theorem exec_sshlImm (s : State) : ∀ d a i_, exec (.sshlImm d a i_) s = execSshlImm d a i_ s := fun _ _ _ => rfl
@[simp] theorem exec_ssrl (s : State) : ∀ d a b, exec (.ssrl d a b) s = execSsrl d a b s := fun _ _ _ => rfl
@[simp] theorem exec_ssrlImm (s : State) : ∀ d a i_, exec (.ssrlImm d a i_) s = execSsrlImm d a i_ s := fun _ _ _ => rfl
@[simp] theorem exec_ssra (s : State) : ∀ d a b, exec (.ssra d a b) s = execSsra d a b s := fun _ _ _ => rfl
@[simp] theorem exec_ssraImm (s : State) : ∀ d a i_, exec (.ssraImm d a i_) s = execSsraImm d a i_ s := fun _ _ _ => rfl
@[simp] theorem exec_smin (s : State) : ∀ d a b, exec (.smin d a b) s = execSmin d a b s := fun _ _ _ => rfl
@[simp] theorem exec_sminU (s : State) : ∀ d a b, exec (.sminU d a b) s = execSminU d a b s := fun _ _ _ => rfl
@[simp] theorem exec_smax (s : State) : ∀ d a b, exec (.smax d a b) s = execSmax d a b s := fun _ _ _ => rfl
@[simp] theorem exec_smaxU (s : State) : ∀ d a b, exec (.smaxU d a b) s = execSmaxU d a b s := fun _ _ _ => rfl
@[simp] theorem exec_ssel (s : State) : ∀ d a b, exec (.ssel d a b) s = execSsel d a b s := fun _ _ _ => rfl
@[simp] theorem exec_smov (s : State) : ∀ d a, exec (.smov d a) s = execSmov d a s := fun _ _ => rfl
@[simp] theorem exec_saddD (s : State) : ∀ d a b, exec (.saddD d a b) s = execSaddD d a b s := fun _ _ _ => rfl
@[simp] theorem exec_saddDImm (s : State) : ∀ d a i_, exec (.saddDImm d a i_) s = execSaddDImm d a i_ s := fun _ _ _ => rfl
@[simp] theorem exec_scmp (s : State) : ∀ c a b, exec (.scmp c a b) s = execScmp c a b s := fun _ _ _ => rfl
@[simp] theorem exec_scmpImm (s : State) : ∀ c a i_, exec (.scmpImm c a i_) s = execScmpImm c a i_ s := fun _ _ _ => rfl
@[simp] theorem exec_sli (s : State) : ∀ d i_, exec (.sli d i_) s = execSli d i_ s := fun _ _ => rfl
@[simp] theorem exec_bra (s : State) : ∀ o, exec (.bra o) s = execBra o s := fun _ => rfl
@[simp] theorem exec_brc (s : State) : ∀ o, exec (.brc o) s = execBrc o s := fun _ => rfl
@[simp] theorem exec_brcN (s : State) : ∀ o, exec (.brcN o) s = execBrcN o s := fun _ => rfl
@[simp] theorem exec_switch (s : State) : ∀ d cs, exec (.switch d cs) s = execSwitch d cs s := fun _ _ => rfl
@[simp] theorem exec_jmp (s : State) : ∀ x, exec (.jmp x) s = execJmp x s := fun _ => rfl
@[simp] theorem exec_call (s : State) : ∀ o x, exec (.call o x) s = execCall o x s := fun _ _ => rfl
@[simp] theorem exec_ret (s : State) : ∀ x, exec (.ret x) s = execRet x s := fun _ => rfl
@[simp] theorem exec_loop (s : State) : ∀ o x l, exec (.loop o x l) s = execLoop o x l s := fun _ _ _ => rfl
@[simp] theorem exec_lbrk (s : State) : ∀ x, exec (.lbrk x) s = execLbrk x s := fun _ => rfl
@[simp] theorem exec_regangW (s : State) : exec .regangW s = execRegangW s := rfl
@[simp] theorem exec_regangN (s : State) : exec .regangN s = execRegangN s := rfl
@[simp] theorem exec_exit (s : State) : exec .exit s = execExit s := rfl
@[simp] theorem exec_nop (s : State) : exec .nop s = execNop s := rfl
@[simp] theorem exec_yield (s : State) : exec .yield s = execYield s := rfl
@[simp] theorem exec_msave (s : State) : ∀ d mk, exec (.msave d mk) s = execMsave d mk s := fun _ _ => rfl
@[simp] theorem exec_mrest (s : State) : ∀ mk a, exec (.mrest mk a) s = execMrest mk a s := fun _ _ => rfl
@[simp] theorem exec_mand (s : State) : ∀ mk a, exec (.mand mk a) s = execMand mk a s := fun _ _ => rfl
@[simp] theorem exec_mor (s : State) : ∀ mk a, exec (.mor mk a) s = execMor mk a s := fun _ _ => rfl
@[simp] theorem exec_mandn (s : State) : ∀ mk a, exec (.mandn mk a) s = execMandn mk a s := fun _ _ => rfl
@[simp] theorem exec_mxor (s : State) : ∀ mk a, exec (.mxor mk a) s = execMxor mk a s := fun _ _ => rfl
@[simp] theorem exec_mset (s : State) : ∀ mk a, exec (.mset mk a) s = execMset mk a s := fun _ _ => rfl
@[simp] theorem exec_mpop (s : State) : ∀ d mk, exec (.mpop d mk) s = execMpop d mk s := fun _ _ => rfl
@[simp] theorem exec_mfirst (s : State) : ∀ d mk, exec (.mfirst d mk) s = execMfirst d mk s := fun _ _ => rfl
@[simp] theorem exec_meld (s : State) : ∀ four a b, exec (.meld four a b) s = execMeld four a b s := fun _ _ _ => rfl
@[simp] theorem exec_melde (s : State) : exec .melde s = execMelde s := rfl
@[simp] theorem exec_mtw (s : State) : ∀ d i_, exec (.mtw d i_) s = execMtw d i_ s := fun _ _ => rfl
@[simp] theorem exec_mtr (s : State) : ∀ d a, exec (.mtr d a) s = execMtr d a s := fun _ _ => rfl
@[simp] theorem exec_kset (s : State) : ∀ k b, exec (.kset k b) s = execKset k b s := fun _ _ => rfl
@[simp] theorem exec_ksetImm (s : State) : ∀ k i_, exec (.ksetImm k i_) s = execKsetImm k i_ s := fun _ _ => rfl
@[simp] theorem exec_ld (s : State) : ∀ d a b z, exec (.ld d a b z) s = execLd d a b z s := fun _ _ _ _ => rfl
@[simp] theorem exec_ldSigned (s : State) : ∀ d a b z, exec (.ldSigned d a b z) s = execLdSigned d a b z s := fun _ _ _ _ => rfl
@[simp] theorem exec_st (s : State) : ∀ d a b z, exec (.st d a b z) s = execSt d a b z s := fun _ _ _ _ => rfl
@[simp] theorem exec_lds (s : State) : ∀ d a b z, exec (.lds d a b z) s = execLds d a b z s := fun _ _ _ _ => rfl
@[simp] theorem exec_sts (s : State) : ∀ d a b z, exec (.sts d a b z) s = execSts d a b z s := fun _ _ _ _ => rfl
@[simp] theorem exec_spld (s : State) : ∀ d a b z, exec (.spld d a b z) s = execSpld d a b z s := fun _ _ _ _ => rfl
@[simp] theorem exec_spldSigned (s : State) : ∀ d a b z, exec (.spldSigned d a b z) s = execSpldSigned d a b z s := fun _ _ _ _ => rfl
@[simp] theorem exec_spst (s : State) : ∀ d a b z, exec (.spst d a b z) s = execSpst d a b z s := fun _ _ _ _ => rfl
@[simp] theorem exec_tld (s : State) : ∀ h rk cb d z, exec (.tld h rk cb d z) s = execTld h rk cb d z s := fun _ _ _ _ _ => rfl
@[simp] theorem exec_tst (s : State) : ∀ h rk cb d z, exec (.tst h rk cb d z) s = execTst h rk cb d z s := fun _ _ _ _ _ => rfl
@[simp] theorem exec_pref (s : State) : ∀ a b, exec (.pref a b) s = execPref a b s := fun _ _ => rfl
@[simp] theorem exec_shpld (s : State) : ∀ h a, exec (.shpld h a) s = execShpld h a s := fun _ _ => rfl
@[simp] theorem exec_shpinv (s : State) : ∀ h, exec (.shpinv h) s = execShpinv h s := fun _ => rfl
@[simp] theorem exec_atomDie (s : State) : ∀ d a b x o, exec (.atomDie d a b x o) s = execAtomDie d a b x o s := fun _ _ _ _ _ => rfl
@[simp] theorem exec_atomPkg (s : State) : ∀ d a b x o, exec (.atomPkg d a b x o) s = execAtomPkg d a b x o s := fun _ _ _ _ _ => rfl
@[simp] theorem exec_atomSys (s : State) : ∀ d a b x o, exec (.atomSys d a b x o) s = execAtomSys d a b x o s := fun _ _ _ _ _ => rfl
@[simp] theorem exec_atoms (s : State) : ∀ d a b x o, exec (.atoms d a b x o) s = execAtoms d a b x o s := fun _ _ _ _ _ => rfl
@[simp] theorem exec_fence (s : State) : ∀ sc, exec (.fence sc) s = execFence sc s := fun _ => rfl
@[simp] theorem exec_rel (s : State) : ∀ sc, exec (.rel sc) s = execRel sc s := fun _ => rfl
@[simp] theorem exec_acq (s : State) : ∀ sc, exec (.acq sc) s = execAcq sc s := fun _ => rfl
@[simp] theorem exec_lda32 (s : State) : ∀ d a sc, exec (.lda32 d a sc) s = execLda32 d a sc s := fun _ _ _ => rfl
@[simp] theorem exec_lda64 (s : State) : ∀ d a sc, exec (.lda64 d a sc) s = execLda64 d a sc s := fun _ _ _ => rfl
@[simp] theorem exec_stl32 (s : State) : ∀ d a sc, exec (.stl32 d a sc) s = execStl32 d a sc s := fun _ _ _ => rfl
@[simp] theorem exec_stl64 (s : State) : ∀ d a sc, exec (.stl64 d a sc) s = execStl64 d a sc s := fun _ _ _ => rfl
@[simp] theorem exec_waitp (s : State) : ∀ p a, exec (.waitp p a) s = execWaitp p a s := fun _ _ => rfl
@[simp] theorem exec_cntr (s : State) : ∀ d, exec (.cntr d) s = execCntr d s := fun _ => rfl
@[simp] theorem exec_bar (s : State) : ∀ a b, exec (.bar a b) s = execBar a b s := fun _ _ => rfl
@[simp] theorem exec_bara (s : State) : ∀ a b, exec (.bara a b) s = execBara a b s := fun _ _ => rfl
@[simp] theorem exec_barw (s : State) : ∀ a, exec (.barw a) s = execBarw a s := fun _ => rfl
@[simp] theorem exec_dbar (s : State) : exec .dbar s = execDbar s := rfl
@[simp] theorem exec_gbar (s : State) : exec .gbar s = execGbar s := rfl
@[simp] theorem exec_cwait (s : State) : ∀ d a b, exec (.cwait d a b) s = execCwait d a b s := fun _ _ _ => rfl
@[simp] theorem exec_csig (s : State) : ∀ a b, exec (.csig a b) s = execCsig a b s := fun _ _ => rfl
@[simp] theorem exec_mma (s : State) : ∀ vb va vf vc q0, exec (.mma vb va vf vc q0) s = execMma vb va vf vc q0 s := fun _ _ _ _ _ => rfl
@[simp] theorem exec_mmas (s : State) : ∀ vb va vf vc q0, exec (.mmas vb va vf vc q0) s = execMmas vb va vf vc q0 s := fun _ _ _ _ _ => rfl
@[simp] theorem exec_mzero (s : State) : ∀ d, exec (.mzero d) s = execMzero d s := fun _ => rfl
@[simp] theorem exec_mcvtH2 (s : State) : ∀ d a m, exec (.mcvtH2 d a m) s = execMcvtH2 d a m s := fun _ _ _ => rfl
@[simp] theorem exec_mcvtB2 (s : State) : ∀ d a m, exec (.mcvtB2 d a m) s = execMcvtB2 d a m s := fun _ _ _ => rfl
@[simp] theorem exec_mcvtF32 (s : State) : ∀ d a m, exec (.mcvtF32 d a m) s = execMcvtF32 d a m s := fun _ _ _ => rfl
@[simp] theorem exec_mcvtI32 (s : State) : ∀ d a m, exec (.mcvtI32 d a m) s = execMcvtI32 d a m s := fun _ _ _ => rfl
@[simp] theorem exec_msclB (s : State) : ∀ a b, exec (.msclB a b) s = execMsclB a b s := fun _ _ => rfl
@[simp] theorem exec_msclP (s : State) : ∀ a b, exec (.msclP a b) s = execMsclP a b s := fun _ _ => rfl
@[simp] theorem exec_ersetBind (s : State) : ∀ a b, exec (.ersetBind a b) s = execErsetBind a b s := fun _ _ => rfl
@[simp] theorem exec_ersetFree (s : State) : ∀ a, exec (.ersetFree a) s = execErsetFree a s := fun _ => rfl
@[simp] theorem exec_ersetPush (s : State) : ∀ a b, exec (.ersetPush a b) s = execErsetPush a b s := fun _ _ => rfl
@[simp] theorem exec_ersetPop (s : State) : ∀ a b, exec (.ersetPop a b) s = execErsetPop a b s := fun _ _ => rfl
@[simp] theorem exec_ersetWaitf (s : State) : ∀ a b, exec (.ersetWaitf a b) s = execErsetWaitf a b s := fun _ _ => rfl
@[simp] theorem exec_ersetWaite (s : State) : ∀ a b, exec (.ersetWaite a b) s = execErsetWaite a b s := fun _ _ => rfl
@[simp] theorem exec_ecopy (s : State) : ∀ a, exec (.ecopy a) s = execEcopy a s := fun _ => rfl
@[simp] theorem exec_egath (s : State) : ∀ a, exec (.egath a) s = execEgath a s := fun _ => rfl
@[simp] theorem exec_escat (s : State) : ∀ a, exec (.escat a) s = execEscat a s := fun _ => rfl
@[simp] theorem exec_ered (s : State) : ∀ a, exec (.ered a) s = execEred a s := fun _ => rfl
@[simp] theorem exec_ebcast (s : State) : ∀ a, exec (.ebcast a) s = execEbcast a s := fun _ => rfl
@[simp] theorem exec_prsv (s : State) : ∀ d a, exec (.prsv d a) s = execPrsv d a s := fun _ _ => rfl
@[simp] theorem exec_pcmt (s : State) : ∀ a b, exec (.pcmt a b) s = execPcmt a b s := fun _ _ => rfl
@[simp] theorem exec_pacq (s : State) : ∀ d a, exec (.pacq d a) s = execPacq d a s := fun _ _ => rfl
@[simp] theorem exec_prel (s : State) : ∀ a b, exec (.prel a b) s = execPrel a b s := fun _ _ => rfl
@[simp] theorem exec_ptryR (s : State) : ∀ d a, exec (.ptryR d a) s = execPtryR d a s := fun _ _ => rfl
@[simp] theorem exec_ptryA (s : State) : ∀ d a, exec (.ptryA d a) s = execPtryA d a s := fun _ _ => rfl
@[simp] theorem exec_pstat (s : State) : ∀ d a, exec (.pstat d a) s = execPstat d a s := fun _ _ => rfl
@[simp] theorem exec_pmsg (s : State) : ∀ a b, exec (.pmsg a b) s = execPmsg a b s := fun _ _ => rfl
@[simp] theorem exec_precv (s : State) : ∀ d a b, exec (.precv d a b) s = execPrecv d a b s := fun _ _ _ => rfl
@[simp] theorem exec_klaunch (s : State) : ∀ d a b, exec (.klaunch d a b) s = execKlaunch d a b s := fun _ _ _ => rfl
@[simp] theorem exec_glaunch (s : State) : ∀ d a b, exec (.glaunch d a b) s = execGlaunch d a b s := fun _ _ _ => rfl
@[simp] theorem exec_gcond (s : State) : ∀ a b, exec (.gcond a b) s = execGcond a b s := fun _ _ => rfl
@[simp] theorem exec_rsplit (s : State) : ∀ d a, exec (.rsplit d a) s = execRsplit d a s := fun _ _ => rfl
@[simp] theorem exec_rmerge (s : State) : ∀ d a, exec (.rmerge d a) s = execRmerge d a s := fun _ _ => rfl
@[simp] theorem exec_rprot (s : State) : ∀ d a b, exec (.rprot d a b) s = execRprot d a b s := fun _ _ _ => rfl
@[simp] theorem exec_rinval (s : State) : ∀ sc a b, exec (.rinval sc a b) s = execRinval sc a b s := fun _ _ _ => rfl
@[simp] theorem exec_rprobe (s : State) : ∀ d a, exec (.rprobe d a) s = execRprobe d a s := fun _ _ => rfl
@[simp] theorem exec_rres (s : State) : ∀ d a b, exec (.rres d a b) s = execRres d a b s := fun _ _ _ => rfl
@[simp] theorem exec_rpress (s : State) : ∀ d a, exec (.rpress d a) s = execRpress d a s := fun _ _ => rfl
@[simp] theorem exec_cwb (s : State) : ∀ sc a b, exec (.cwb sc a b) s = execCwb sc a b s := fun _ _ _ => rfl
@[simp] theorem exec_cinv (s : State) : ∀ sc a b, exec (.cinv sc a b) s = execCinv sc a b s := fun _ _ _ => rfl
@[simp] theorem exec_trap (s : State) : ∀ a, exec (.trap a) s = execTrap a s := fun _ => rfl
@[simp] theorem exec_bkpt (s : State) : exec .bkpt s = execBkpt s := rfl
@[simp] theorem exec_sysr (s : State) : ∀ n d, exec (.sysr n d) s = execSysr n d s := fun _ _ => rfl
@[simp] theorem exec_sysw (s : State) : ∀ n b, exec (.sysw n b) s = execSysw n b s := fun _ _ => rfl
@[simp] theorem exec_syswImm (s : State) : ∀ n i_, exec (.syswImm n i_) s = execSyswImm n i_ s := fun _ _ => rfl
@[simp] theorem exec_ilbf (s : State) : exec .ilbf s = execIlbf s := rfl
@[simp] theorem exec_limm (s : State) : ∀ p, exec (.limm p) s = execLimm p s := fun _ => rfl
@[simp] theorem exec_vaddShort (s : State) : ∀ d s_, exec (.vaddShort d s_) s = execVaddShort d s_ s := fun _ _ => rfl
@[simp] theorem exec_vsubShort (s : State) : ∀ d s_, exec (.vsubShort d s_) s = execVsubShort d s_ s := fun _ _ => rfl
@[simp] theorem exec_vandShort (s : State) : ∀ d s_, exec (.vandShort d s_) s = execVandShort d s_ s := fun _ _ => rfl
@[simp] theorem exec_vorShort (s : State) : ∀ d s_, exec (.vorShort d s_) s = execVorShort d s_ s := fun _ _ => rfl
@[simp] theorem exec_vxorShort (s : State) : ∀ d s_, exec (.vxorShort d s_) s = execVxorShort d s_ s := fun _ _ => rfl
@[simp] theorem exec_vshlShort (s : State) : ∀ d s_, exec (.vshlShort d s_) s = execVshlShort d s_ s := fun _ _ => rfl
@[simp] theorem exec_vsrlShort (s : State) : ∀ d s_, exec (.vsrlShort d s_) s = execVsrlShort d s_ s := fun _ _ => rfl
@[simp] theorem exec_vsraShort (s : State) : ∀ d s_, exec (.vsraShort d s_) s = execVsraShort d s_ s := fun _ _ => rfl
@[simp] theorem exec_vminShort (s : State) : ∀ d s_, exec (.vminShort d s_) s = execVminShort d s_ s := fun _ _ => rfl
@[simp] theorem exec_vmaxShort (s : State) : ∀ d s_, exec (.vmaxShort d s_) s = execVmaxShort d s_ s := fun _ _ => rfl
@[simp] theorem exec_vfaddShort (s : State) : ∀ d s_, exec (.vfaddShort d s_) s = execVfaddShort d s_ s := fun _ _ => rfl
@[simp] theorem exec_vfsubShort (s : State) : ∀ d s_, exec (.vfsubShort d s_) s = execVfsubShort d s_ s := fun _ _ => rfl
@[simp] theorem exec_vfmulShort (s : State) : ∀ d s_, exec (.vfmulShort d s_) s = execVfmulShort d s_ s := fun _ _ => rfl
@[simp] theorem exec_vmovShort (s : State) : ∀ d s_, exec (.vmovShort d s_) s = execVmovShort d s_ s := fun _ _ => rfl
@[simp] theorem exec_vaddi (s : State) : ∀ d i_, exec (.vaddi d i_) s = execVaddi d i_ s := fun _ _ => rfl
@[simp] theorem exec_vneg (s : State) : ∀ d s_, exec (.vneg d s_) s = execVneg d s_ s := fun _ _ => rfl
@[simp] theorem exec_illegalInstruction (s : State) : ∀ cause iword, exec (.illegalInstruction cause iword) s = execIllegalInstruction cause iword s := fun _ _ => rfl
@[simp] theorem exec_waiterRelease (s : State) : ∀ t w, exec (.waiterRelease t w) s = execWaiterRelease t w s := fun _ _ => rfl
@[simp] theorem exec_mmaWriteback (s : State) : ∀ t w, exec (.mmaWriteback t w) s = execMmaWriteback t w s := fun _ _ => rfl
@[simp] theorem exec_scaleLineFill (s : State) : ∀ t w tid line, exec (.scaleLineFill t w tid line) s = execScaleLineFill t w tid line s := fun _ _ _ _ => rfl
@[simp] theorem exec_matrixUnitRestore (s : State) : ∀ die core unit, exec (.matrixUnitRestore die core unit) s = execMatrixUnitRestore die core unit s := fun _ _ _ => rfl
@[simp] theorem exec_engineFire (s : State) : ∀ op, exec (.engineFire op) s = execEngineFire op s := fun _ => rfl
@[simp] theorem exec_engineComplete (s : State) : ∀ op, exec (.engineComplete op) s = execEngineComplete op s := fun _ => rfl
@[simp] theorem exec_engineFault (s : State) : ∀ t w, exec (.engineFault t w) s = execEngineFault t w s := fun _ _ => rfl
@[simp] theorem exec_pressLineMove (s : State) : ∀ r, exec (.pressLineMove r) s = execPressLineMove r s := fun _ => rfl
@[simp] theorem exec_pressSwitch (s : State) : ∀ r, exec (.pressSwitch r) s = execPressSwitch r s := fun _ => rfl
@[simp] theorem exec_handlerLaunch (s : State) : ∀ ctx core, exec (.handlerLaunch ctx core) s = execHandlerLaunch ctx core s := fun _ _ => rfl
@[simp] theorem exec_tresumeResume (s : State) : ∀ t pzero, exec (.tresumeResume t pzero) s = execTresumeResume t pzero s := fun _ _ => rfl
@[simp] theorem exec_tresumeResumeWithout (s : State) : ∀ t pzero, exec (.tresumeResumeWithout t pzero) s = execTresumeResumeWithout t pzero s := fun _ _ => rfl
@[simp] theorem exec_tresumeStop (s : State) : ∀ t pzero, exec (.tresumeStop t pzero) s = execTresumeStop t pzero s := fun _ _ => rfl
@[simp] theorem exec_apply (s : State) : ∀ d x, exec (.apply d x) s = execApply d x s := fun _ _ => rfl
@[simp] theorem exec_requestResend (s : State) : exec .requestResend s = execRequestResend s := rfl
@[simp] theorem exec_registerWrite (s : State) : ∀ offset value, exec (.registerWrite offset value) s = execRegisterWrite offset value s := fun _ _ => rfl
@[simp] theorem exec_doorbell (s : State) : ∀ p q, exec (.doorbell p q) s = execDoorbell p q s := fun _ _ => rfl
@[simp] theorem exec_deviceQueueRead (s : State) : ∀ p q, exec (.deviceQueueRead p q) s = execDeviceQueueRead p q s := fun _ _ => rfl
@[simp] theorem exec_dispatch (s : State) : ∀ p, exec (.dispatch p) s = execDispatch p s := fun _ => rfl
@[simp] theorem exec_teamPlacement (s : State) : ∀ p die core, exec (.teamPlacement p die core) s = execTeamPlacement p die core s := fun _ _ _ => rfl
@[simp] theorem exec_teamStart (s : State) : ∀ t, exec (.teamStart t) s = execTeamStart t s := fun _ => rfl
@[simp] theorem exec_teamRestore (s : State) : ∀ t die core, exec (.teamRestore t die core) s = execTeamRestore t die core s := fun _ _ _ => rfl
@[simp] theorem exec_packetComplete (s : State) : ∀ p job, exec (.packetComplete p job) s = execPacketComplete p job s := fun _ _ => rfl
@[simp] theorem exec_kernelLaunch (s : State) : ∀ p q, exec (.kernelLaunch p q) s = execKernelLaunch p q s := fun _ _ => rfl
@[simp] theorem exec_planStart (s : State) : ∀ p job cores, exec (.planStart p job cores) s = execPlanStart p job cores s := fun _ _ _ => rfl
@[simp] theorem exec_graphLaunch (s : State) : ∀ p job, exec (.graphLaunch p job) s = execGraphLaunch p job s := fun _ _ => rfl
@[simp] theorem exec_queueCreate (s : State) : ∀ p job, exec (.queueCreate p job) s = execQueueCreate p job s := fun _ _ => rfl
@[simp] theorem exec_contextCreate (s : State) : ∀ p job id sysva pa, exec (.contextCreate p job id sysva pa) s = execContextCreate p job id sysva pa s := fun _ _ _ _ _ => rfl
@[simp] theorem exec_contextDestroy (s : State) : ∀ p job, exec (.contextDestroy p job) s = execContextDestroy p job s := fun _ _ => rfl
@[simp] theorem exec_rangeMap (s : State) : ∀ p job, exec (.rangeMap p job) s = execRangeMap p job s := fun _ _ => rfl
@[simp] theorem exec_rangeUnmap (s : State) : ∀ p job, exec (.rangeUnmap p job) s = execRangeUnmap p job s := fun _ _ => rfl
@[simp] theorem exec_quotaSet (s : State) : ∀ p job, exec (.quotaSet p job) s = execQuotaSet p job s := fun _ _ => rfl
@[simp] theorem exec_planLoad (s : State) : ∀ p job nums, exec (.planLoad p job nums) s = execPlanLoad p job nums s := fun _ _ _ => rfl
@[simp] theorem exec_planStop (s : State) : ∀ p job, exec (.planStop p job) s = execPlanStop p job s := fun _ _ => rfl
@[simp] theorem exec_planRestart (s : State) : ∀ p job cores, exec (.planRestart p job cores) s = execPlanRestart p job cores s := fun _ _ _ => rfl
@[simp] theorem exec_graphLoad (s : State) : ∀ p job, exec (.graphLoad p job) s = execGraphLoad p job s := fun _ _ => rfl
@[simp] theorem exec_signal (s : State) : ∀ p job, exec (.signal p job) s = execSignal p job s := fun _ _ => rfl
@[simp] theorem exec_wait (s : State) : ∀ p job, exec (.wait p job) s = execWait p job s := fun _ _ => rfl
@[simp] theorem exec_waitRelease (s : State) : ∀ p job, exec (.waitRelease p job) s = execWaitRelease p job s := fun _ _ => rfl
@[simp] theorem exec_preempt (s : State) : ∀ p job, exec (.preempt p job) s = execPreempt p job s := fun _ _ => rfl
@[simp] theorem exec_preemptResume (s : State) : ∀ p job, exec (.preemptResume p job) s = execPreemptResume p job s := fun _ _ => rfl
@[simp] theorem exec_preemptMove (s : State) : ∀ p job, exec (.preemptMove p job) s = execPreemptMove p job s := fun _ _ => rfl
@[simp] theorem exec_linkReconf (s : State) : ∀ p job, exec (.linkReconf p job) s = execLinkReconf p job s := fun _ _ => rfl
@[simp] theorem exec_drainMarkerAck (s : State) : ∀ port, exec (.drainMarkerAck port) s = execDrainMarkerAck port s := fun _ => rfl
@[simp] theorem exec_portRelock (s : State) : ∀ port peer lambda ok, exec (.portRelock port peer lambda ok) s = execPortRelock port peer lambda ok s := fun _ _ _ _ => rfl
@[simp] theorem exec_dieReset (s : State) : ∀ p job, exec (.dieReset p job) s = execDieReset p job s := fun _ _ => rfl
@[simp] theorem exec_attest (s : State) : ∀ p job, exec (.attest p job) s = execAttest p job s := fun _ _ => rfl
@[simp] theorem exec_domainSet (s : State) : ∀ p job, exec (.domainSet p job) s = execDomainSet p job s := fun _ _ => rfl
@[simp] theorem exec_epochTimeout (s : State) : ∀ die, exec (.epochTimeout die) s = execEpochTimeout die s := fun _ => rfl
@[simp] theorem exec_dirtyTableFull (s : State) : ∀ die, exec (.dirtyTableFull die) s = execDirtyTableFull die s := fun _ => rfl
@[simp] theorem exec_accessReturn (s : State) : ∀ t w, exec (.accessReturn t w) s = execAccessReturn t w s := fun _ _ => rfl
@[simp] theorem exec_lateFault (s : State) : ∀ t w, exec (.lateFault t w) s = execLateFault t w s := fun _ _ => rfl
@[simp] theorem exec_forcedSave (s : State) : ∀ t w, exec (.forcedSave t w) s = execForcedSave t w s := fun _ _ => rfl
@[simp] theorem exec_timeSliceExpiry (s : State) : ∀ t, exec (.timeSliceExpiry t) s = execTimeSliceExpiry t s := fun _ => rfl
@[simp] theorem exec_aging (s : State) : ∀ t x, exec (.aging t x) s = execAging t x s := fun _ _ => rfl
@[simp] theorem exec_balancerPeriod (s : State) : ∀ ctx plan, exec (.balancerPeriod ctx plan) s = execBalancerPeriod ctx plan s := fun _ _ => rfl
@[simp] theorem exec_kernelNode (s : State) : ∀ j node, exec (.kernelNode j node) s = execKernelNode j node s := fun _ _ => rfl
@[simp] theorem exec_planNode (s : State) : ∀ j node, exec (.planNode j node) s = execPlanNode j node s := fun _ _ => rfl
@[simp] theorem exec_signalNode (s : State) : ∀ j node, exec (.signalNode j node) s = execSignalNode j node s := fun _ _ => rfl
@[simp] theorem exec_conditionalNode (s : State) : ∀ j node, exec (.conditionalNode j node) s = execConditionalNode j node s := fun _ _ => rfl
@[simp] theorem exec_whileNode (s : State) : ∀ j node, exec (.whileNode j node) s = execWhileNode j node s := fun _ _ => rfl
@[simp] theorem exec_graphEnqueueArrive (s : State) : ∀ j node, exec (.graphEnqueueArrive j node) s = execGraphEnqueueArrive j node s := fun _ _ => rfl
@[simp] theorem exec_contextStop (s : State) : ∀ ctx cause, exec (.contextStop ctx cause) s = execContextStop ctx cause s := fun _ _ => rfl
@[simp] theorem exec_stopReport (s : State) : ∀ ctx, exec (.stopReport ctx) s = execStopReport ctx s := fun _ => rfl
@[simp] theorem exec_debuggerHalt (s : State) : ∀ ctx, exec (.debuggerHalt ctx) s = execDebuggerHalt ctx s := fun _ => rfl
@[simp] theorem exec_debuggerResume (s : State) : ∀ ctx, exec (.debuggerResume ctx) s = execDebuggerResume ctx s := fun _ => rfl
@[simp] theorem exec_hostWrite (s : State) : ∀ pa bs, exec (.hostWrite pa bs) s = execHostWrite pa bs s := fun _ _ => rfl
@[simp] theorem exec_hostRead (s : State) : ∀ pa n, exec (.hostRead pa n) s = execHostRead pa n s := fun _ _ => rfl
@[simp] theorem exec_hostAtomicop (s : State) : ∀ pa x o y c, exec (.hostAtomicop pa x o y c) s = execHostAtomicop pa x o y c s := fun _ _ _ _ _ => rfl
@[simp] theorem exec_peerWrite (s : State) : ∀ pa bs, exec (.peerWrite pa bs) s = execPeerWrite pa bs s := fun _ _ => rfl
@[simp] theorem exec_peerRead (s : State) : ∀ pa n, exec (.peerRead pa n) s = execPeerRead pa n s := fun _ _ => rfl
@[simp] theorem exec_peerAtomic (s : State) : ∀ pa x o y c, exec (.peerAtomic pa x o y c) s = execPeerAtomic pa x o y c s := fun _ _ _ _ _ => rfl
@[simp] theorem exec_ethernetRx (s : State) : ∀ port bs fcsOk, exec (.ethernetRx port bs fcsOk) s = execEthernetRx port bs fcsOk s := fun _ _ _ => rfl
@[simp] theorem exec_ethernetTx (s : State) : ∀ port, exec (.ethernetTx port) s = execEthernetTx port s := fun _ => rfl
@[simp] theorem exec_lambdaRenew (s : State) : ∀ port lambda, exec (.lambdaRenew port lambda) s = execLambdaRenew port lambda s := fun _ _ => rfl
@[simp] theorem exec_flitReplay (s : State) : ∀ link, exec (.flitReplay link) s = execFlitReplay link s := fun _ => rfl
@[simp] theorem exec_linkFail (s : State) : ∀ l, exec (.linkFail l) s = execLinkFail l s := fun _ => rfl
@[simp] theorem exec_hostLeasePass (s : State) : exec .hostLeasePass s = execHostLeasePass s := rfl
@[simp] theorem exec_eccCorrected (s : State) : ∀ die c, exec (.eccCorrected die c) s = execEccCorrected die c s := fun _ _ => rfl
@[simp] theorem exec_registerPoison (s : State) : ∀ t w reg lane, exec (.registerPoison t w reg lane) s = execRegisterPoison t w reg lane s := fun _ _ _ _ => rfl
@[simp] theorem exec_uncorrectableStateError (s : State) : ∀ ctx, exec (.uncorrectableStateError ctx) s = execUncorrectableStateError ctx s := fun _ => rfl
@[simp] theorem exec_sectorLoss (s : State) : ∀ die sector, exec (.sectorLoss die sector) s = execSectorLoss die sector s := fun _ _ => rfl
@[simp] theorem exec_thermalThrottle (s : State) : ∀ x t, exec (.thermalThrottle x t) s = execThermalThrottle x t s := fun _ _ => rfl
@[simp] theorem exec_thermalShutdown (s : State) : ∀ die temp, exec (.thermalShutdown die temp) s = execThermalShutdown die temp s := fun _ _ => rfl
@[simp] theorem exec_powerLimit (s : State) : ∀ x, exec (.powerLimit x) s = execPowerLimit x s := fun _ => rfl
@[simp] theorem exec_deviceReset (s : State) : ∀ imageOk, exec (.deviceReset imageOk) s = execDeviceReset imageOk s := fun _ => rfl
@[simp] theorem exec_matrixUnitRetention (s : State) : ∀ die core unit, exec (.matrixUnitRetention die core unit) s = execMatrixUnitRetention die core unit s := fun _ _ _ => rfl
@[simp] theorem exec_debuggerAttach (s : State) : ∀ ctx on1, exec (.debuggerAttach ctx on1) s = execDebuggerAttach ctx on1 s := fun _ _ => rfl
@[simp] theorem exec_portLock (s : State) : ∀ port peer lambda, exec (.portLock port peer lambda) s = execPortLock port peer lambda s := fun _ _ _ => rfl
@[simp] theorem exec_remotePipeRequest (s : State) : ∀ pipe commit slot bs, exec (.remotePipeRequest pipe commit slot bs) s = execRemotePipeRequest pipe commit slot bs s := fun _ _ _ _ => rfl

end Sys2Proof.Machine
end

