-- ==== Sys2Proof/Laws/State.lean ====
section
/-! SUPPORT. What the named updates of a warp and of the package leave as it was: one lemma per field and update. -/

namespace Sys2Proof.Machine

/-! Warps -/

@[simp] theorem Warp.noLatch_core (x : Warp) : (x.noLatch).core = x.core := by simp only [Warp.noLatch]
@[simp] theorem Warp.noLatch_v (x : Warp) : (x.noLatch).v = x.v := by simp only [Warp.noLatch]
@[simp] theorem Warp.noLatch_poison (x : Warp) : (x.noLatch).poison = x.poison := by simp only [Warp.noLatch]
@[simp] theorem Warp.noLatch_s (x : Warp) : (x.noLatch).s = x.s := by simp only [Warp.noLatch]
@[simp] theorem Warp.noLatch_exec (x : Warp) : (x.noLatch).exec = x.exec := by simp only [Warp.noLatch]
@[simp] theorem Warp.noLatch_cm (x : Warp) : (x.noLatch).cm = x.cm := by simp only [Warp.noLatch]
@[simp] theorem Warp.noLatch_part (x : Warp) : (x.noLatch).part = x.part := by simp only [Warp.noLatch]
@[simp] theorem Warp.noLatch_ften (x : Warp) : (x.noLatch).ften = x.ften := by simp only [Warp.noLatch]
@[simp] theorem Warp.noLatch_lc (x : Warp) : (x.noLatch).lc = x.lc := by simp only [Warp.noLatch]
@[simp] theorem Warp.noLatch_ls (x : Warp) : (x.noLatch).ls = x.ls := by simp only [Warp.noLatch]
@[simp] theorem Warp.noLatch_le (x : Warp) : (x.noLatch).le = x.le := by simp only [Warp.noLatch]
@[simp] theorem Warp.noLatch_slices (x : Warp) : (x.noLatch).slices = x.slices := by simp only [Warp.noLatch]
@[simp] theorem Warp.noLatch_meld (x : Warp) : (x.noLatch).meld = x.meld := by simp only [Warp.noLatch]
@[simp] theorem Warp.noLatch_ren (x : Warp) : (x.noLatch).ren = x.ren := by simp only [Warp.noLatch]
@[simp] theorem Warp.noLatch_k (x : Warp) : (x.noLatch).k = x.k := by simp only [Warp.noLatch]
@[simp] theorem Warp.noLatch_ifs (x : Warp) : (x.noLatch).ifs = x.ifs := by simp only [Warp.noLatch]
@[simp] theorem Warp.noLatch_ifg (x : Warp) : (x.noLatch).ifg = x.ifg := by simp only [Warp.noLatch]
@[simp] theorem Warp.noLatch_ift (x : Warp) : (x.noLatch).ift = x.ift := by simp only [Warp.noLatch]
@[simp] theorem Warp.noLatch_ife (x : Warp) : (x.noLatch).ife = x.ife := by simp only [Warp.noLatch]
@[simp] theorem Warp.noLatch_preq (x : Warp) : (x.noLatch).preq = x.preq := by simp only [Warp.noLatch]
@[simp] theorem Warp.noLatch_slice (x : Warp) : (x.noLatch).slice = x.slice := by simp only [Warp.noLatch]
@[simp] theorem Warp.noLatch_slot (x : Warp) : (x.noLatch).slot = x.slot := by simp only [Warp.noLatch]
@[simp] theorem Warp.noLatch_asked (x : Warp) : (x.noLatch).asked = x.asked := by simp only [Warp.noLatch]
@[simp] theorem Warp.noLatch_last (x : Warp) : (x.noLatch).last = x.last := by simp only [Warp.noLatch]
@[simp] theorem Warp.noLatch_ycnt (x : Warp) : (x.noLatch).ycnt = x.ycnt := by simp only [Warp.noLatch]
@[simp] theorem Warp.noLatch_chain (x : Warp) : (x.noLatch).chain = x.chain := by simp only [Warp.noLatch]
@[simp] theorem Warp.noLatch_nonmem (x : Warp) : (x.noLatch).nonmem = x.nonmem := by simp only [Warp.noLatch]
@[simp] theorem Warp.noLatch_replayData (x : Warp) : (x.noLatch).replayData = x.replayData := by simp only [Warp.noLatch]
@[simp] theorem Warp.noLatch_replayFetch (x : Warp) : (x.noLatch).replayFetch = x.replayFetch := by simp only [Warp.noLatch]
@[simp] theorem Warp.noLatch_flight (x : Warp) : (x.noLatch).flight = x.flight := by simp only [Warp.noLatch]
@[simp] theorem Warp.noLatch_mma (x : Warp) : (x.noLatch).mma = x.mma := by simp only [Warp.noLatch]
@[simp] theorem Warp.noLatch_barWait (x : Warp) : (x.noLatch).barWait = x.barWait := by simp only [Warp.noLatch]
@[simp] theorem Warp.noLatch_bara (x : Warp) : (x.noLatch).bara = x.bara := by simp only [Warp.noLatch]
@[simp] theorem Warp.noLatch_gridWait (x : Warp) : (x.noLatch).gridWait = x.gridWait := by simp only [Warp.noLatch]
@[simp] theorem Warp.noLatch_run (x : Warp) : (x.noLatch).run = x.run := by simp only [Warp.noLatch]
@[simp] theorem Warp.noLatch_trap (x : Warp) : (x.noLatch).trap = x.trap := by simp only [Warp.noLatch]
@[simp] theorem Warp.noLatch_engFault (x : Warp) : (x.noLatch).engFault = x.engFault := by simp only [Warp.noLatch]
@[simp] theorem Warp.noLatch_retired (x : Warp) : (x.noLatch).retired = x.retired := by simp only [Warp.noLatch]
@[simp] theorem Warp.noLatch_idle (x : Warp) : (x.noLatch).idle = x.idle := by simp only [Warp.noLatch]
@[simp] theorem Warp.noLatch_aged (x : Warp) : (x.noLatch).aged = x.aged := by simp only [Warp.noLatch]
@[simp] theorem Warp.setS_core (x : Warp) (n : Fin 32) (w : Word) : (x.setS n w).core = x.core := by simp only [Warp.setS]
@[simp] theorem Warp.setS_v (x : Warp) (n : Fin 32) (w : Word) : (x.setS n w).v = x.v := by simp only [Warp.setS]
@[simp] theorem Warp.setS_poison (x : Warp) (n : Fin 32) (w : Word) : (x.setS n w).poison = x.poison := by simp only [Warp.setS]
@[simp] theorem Warp.setS_b (x : Warp) (n : Fin 32) (w : Word) : (x.setS n w).b = x.b := by simp only [Warp.setS]
@[simp] theorem Warp.setS_exec (x : Warp) (n : Fin 32) (w : Word) : (x.setS n w).exec = x.exec := by simp only [Warp.setS]
@[simp] theorem Warp.setS_cm (x : Warp) (n : Fin 32) (w : Word) : (x.setS n w).cm = x.cm := by simp only [Warp.setS]
@[simp] theorem Warp.setS_part (x : Warp) (n : Fin 32) (w : Word) : (x.setS n w).part = x.part := by simp only [Warp.setS]
@[simp] theorem Warp.setS_ften (x : Warp) (n : Fin 32) (w : Word) : (x.setS n w).ften = x.ften := by simp only [Warp.setS]
@[simp] theorem Warp.setS_lc (x : Warp) (n : Fin 32) (w : Word) : (x.setS n w).lc = x.lc := by simp only [Warp.setS]
@[simp] theorem Warp.setS_ls (x : Warp) (n : Fin 32) (w : Word) : (x.setS n w).ls = x.ls := by simp only [Warp.setS]
@[simp] theorem Warp.setS_le (x : Warp) (n : Fin 32) (w : Word) : (x.setS n w).le = x.le := by simp only [Warp.setS]
@[simp] theorem Warp.setS_slices (x : Warp) (n : Fin 32) (w : Word) : (x.setS n w).slices = x.slices := by simp only [Warp.setS]
@[simp] theorem Warp.setS_meld (x : Warp) (n : Fin 32) (w : Word) : (x.setS n w).meld = x.meld := by simp only [Warp.setS]
@[simp] theorem Warp.setS_ren (x : Warp) (n : Fin 32) (w : Word) : (x.setS n w).ren = x.ren := by simp only [Warp.setS]
@[simp] theorem Warp.setS_k (x : Warp) (n : Fin 32) (w : Word) : (x.setS n w).k = x.k := by simp only [Warp.setS]
@[simp] theorem Warp.setS_ifs (x : Warp) (n : Fin 32) (w : Word) : (x.setS n w).ifs = x.ifs := by simp only [Warp.setS]
@[simp] theorem Warp.setS_ifg (x : Warp) (n : Fin 32) (w : Word) : (x.setS n w).ifg = x.ifg := by simp only [Warp.setS]
@[simp] theorem Warp.setS_ift (x : Warp) (n : Fin 32) (w : Word) : (x.setS n w).ift = x.ift := by simp only [Warp.setS]
@[simp] theorem Warp.setS_ife (x : Warp) (n : Fin 32) (w : Word) : (x.setS n w).ife = x.ife := by simp only [Warp.setS]
@[simp] theorem Warp.setS_preq (x : Warp) (n : Fin 32) (w : Word) : (x.setS n w).preq = x.preq := by simp only [Warp.setS]
@[simp] theorem Warp.setS_slice (x : Warp) (n : Fin 32) (w : Word) : (x.setS n w).slice = x.slice := by simp only [Warp.setS]
@[simp] theorem Warp.setS_slot (x : Warp) (n : Fin 32) (w : Word) : (x.setS n w).slot = x.slot := by simp only [Warp.setS]
@[simp] theorem Warp.setS_asked (x : Warp) (n : Fin 32) (w : Word) : (x.setS n w).asked = x.asked := by simp only [Warp.setS]
@[simp] theorem Warp.setS_last (x : Warp) (n : Fin 32) (w : Word) : (x.setS n w).last = x.last := by simp only [Warp.setS]
@[simp] theorem Warp.setS_ycnt (x : Warp) (n : Fin 32) (w : Word) : (x.setS n w).ycnt = x.ycnt := by simp only [Warp.setS]
@[simp] theorem Warp.setS_chain (x : Warp) (n : Fin 32) (w : Word) : (x.setS n w).chain = x.chain := by simp only [Warp.setS]
@[simp] theorem Warp.setS_nonmem (x : Warp) (n : Fin 32) (w : Word) : (x.setS n w).nonmem = x.nonmem := by simp only [Warp.setS]
@[simp] theorem Warp.setS_replayData (x : Warp) (n : Fin 32) (w : Word) : (x.setS n w).replayData = x.replayData := by simp only [Warp.setS]
@[simp] theorem Warp.setS_replayFetch (x : Warp) (n : Fin 32) (w : Word) : (x.setS n w).replayFetch = x.replayFetch := by simp only [Warp.setS]
@[simp] theorem Warp.setS_flight (x : Warp) (n : Fin 32) (w : Word) : (x.setS n w).flight = x.flight := by simp only [Warp.setS]
@[simp] theorem Warp.setS_mma (x : Warp) (n : Fin 32) (w : Word) : (x.setS n w).mma = x.mma := by simp only [Warp.setS]
@[simp] theorem Warp.setS_barWait (x : Warp) (n : Fin 32) (w : Word) : (x.setS n w).barWait = x.barWait := by simp only [Warp.setS]
@[simp] theorem Warp.setS_bara (x : Warp) (n : Fin 32) (w : Word) : (x.setS n w).bara = x.bara := by simp only [Warp.setS]
@[simp] theorem Warp.setS_gridWait (x : Warp) (n : Fin 32) (w : Word) : (x.setS n w).gridWait = x.gridWait := by simp only [Warp.setS]
@[simp] theorem Warp.setS_run (x : Warp) (n : Fin 32) (w : Word) : (x.setS n w).run = x.run := by simp only [Warp.setS]
@[simp] theorem Warp.setS_trap (x : Warp) (n : Fin 32) (w : Word) : (x.setS n w).trap = x.trap := by simp only [Warp.setS]
@[simp] theorem Warp.setS_engFault (x : Warp) (n : Fin 32) (w : Word) : (x.setS n w).engFault = x.engFault := by simp only [Warp.setS]
@[simp] theorem Warp.setS_retired (x : Warp) (n : Fin 32) (w : Word) : (x.setS n w).retired = x.retired := by simp only [Warp.setS]
@[simp] theorem Warp.setS_idle (x : Warp) (n : Fin 32) (w : Word) : (x.setS n w).idle = x.idle := by simp only [Warp.setS]
@[simp] theorem Warp.setS_aged (x : Warp) (n : Fin 32) (w : Word) : (x.setS n w).aged = x.aged := by simp only [Warp.setS]
@[simp] theorem Warp.setPair_core (x : Warp) (n : Fin 32) (w : Nat) : (x.setPair n w).core = x.core := by simp only [Warp.setPair, Warp.setS]
@[simp] theorem Warp.setPair_v (x : Warp) (n : Fin 32) (w : Nat) : (x.setPair n w).v = x.v := by simp only [Warp.setPair, Warp.setS]
@[simp] theorem Warp.setPair_poison (x : Warp) (n : Fin 32) (w : Nat) : (x.setPair n w).poison = x.poison := by simp only [Warp.setPair, Warp.setS]
@[simp] theorem Warp.setPair_b (x : Warp) (n : Fin 32) (w : Nat) : (x.setPair n w).b = x.b := by simp only [Warp.setPair, Warp.setS]
@[simp] theorem Warp.setPair_exec (x : Warp) (n : Fin 32) (w : Nat) : (x.setPair n w).exec = x.exec := by simp only [Warp.setPair, Warp.setS]
@[simp] theorem Warp.setPair_cm (x : Warp) (n : Fin 32) (w : Nat) : (x.setPair n w).cm = x.cm := by simp only [Warp.setPair, Warp.setS]
@[simp] theorem Warp.setPair_part (x : Warp) (n : Fin 32) (w : Nat) : (x.setPair n w).part = x.part := by simp only [Warp.setPair, Warp.setS]
@[simp] theorem Warp.setPair_ften (x : Warp) (n : Fin 32) (w : Nat) : (x.setPair n w).ften = x.ften := by simp only [Warp.setPair, Warp.setS]
@[simp] theorem Warp.setPair_lc (x : Warp) (n : Fin 32) (w : Nat) : (x.setPair n w).lc = x.lc := by simp only [Warp.setPair, Warp.setS]
@[simp] theorem Warp.setPair_ls (x : Warp) (n : Fin 32) (w : Nat) : (x.setPair n w).ls = x.ls := by simp only [Warp.setPair, Warp.setS]
@[simp] theorem Warp.setPair_le (x : Warp) (n : Fin 32) (w : Nat) : (x.setPair n w).le = x.le := by simp only [Warp.setPair, Warp.setS]
@[simp] theorem Warp.setPair_slices (x : Warp) (n : Fin 32) (w : Nat) : (x.setPair n w).slices = x.slices := by simp only [Warp.setPair, Warp.setS]
@[simp] theorem Warp.setPair_meld (x : Warp) (n : Fin 32) (w : Nat) : (x.setPair n w).meld = x.meld := by simp only [Warp.setPair, Warp.setS]
@[simp] theorem Warp.setPair_ren (x : Warp) (n : Fin 32) (w : Nat) : (x.setPair n w).ren = x.ren := by simp only [Warp.setPair, Warp.setS]
@[simp] theorem Warp.setPair_k (x : Warp) (n : Fin 32) (w : Nat) : (x.setPair n w).k = x.k := by simp only [Warp.setPair, Warp.setS]
@[simp] theorem Warp.setPair_ifs (x : Warp) (n : Fin 32) (w : Nat) : (x.setPair n w).ifs = x.ifs := by simp only [Warp.setPair, Warp.setS]
@[simp] theorem Warp.setPair_ifg (x : Warp) (n : Fin 32) (w : Nat) : (x.setPair n w).ifg = x.ifg := by simp only [Warp.setPair, Warp.setS]
@[simp] theorem Warp.setPair_ift (x : Warp) (n : Fin 32) (w : Nat) : (x.setPair n w).ift = x.ift := by simp only [Warp.setPair, Warp.setS]
@[simp] theorem Warp.setPair_ife (x : Warp) (n : Fin 32) (w : Nat) : (x.setPair n w).ife = x.ife := by simp only [Warp.setPair, Warp.setS]
@[simp] theorem Warp.setPair_preq (x : Warp) (n : Fin 32) (w : Nat) : (x.setPair n w).preq = x.preq := by simp only [Warp.setPair, Warp.setS]
@[simp] theorem Warp.setPair_slice (x : Warp) (n : Fin 32) (w : Nat) : (x.setPair n w).slice = x.slice := by simp only [Warp.setPair, Warp.setS]
@[simp] theorem Warp.setPair_slot (x : Warp) (n : Fin 32) (w : Nat) : (x.setPair n w).slot = x.slot := by simp only [Warp.setPair, Warp.setS]
@[simp] theorem Warp.setPair_asked (x : Warp) (n : Fin 32) (w : Nat) : (x.setPair n w).asked = x.asked := by simp only [Warp.setPair, Warp.setS]
@[simp] theorem Warp.setPair_last (x : Warp) (n : Fin 32) (w : Nat) : (x.setPair n w).last = x.last := by simp only [Warp.setPair, Warp.setS]
@[simp] theorem Warp.setPair_ycnt (x : Warp) (n : Fin 32) (w : Nat) : (x.setPair n w).ycnt = x.ycnt := by simp only [Warp.setPair, Warp.setS]
@[simp] theorem Warp.setPair_chain (x : Warp) (n : Fin 32) (w : Nat) : (x.setPair n w).chain = x.chain := by simp only [Warp.setPair, Warp.setS]
@[simp] theorem Warp.setPair_nonmem (x : Warp) (n : Fin 32) (w : Nat) : (x.setPair n w).nonmem = x.nonmem := by simp only [Warp.setPair, Warp.setS]
@[simp] theorem Warp.setPair_replayData (x : Warp) (n : Fin 32) (w : Nat) : (x.setPair n w).replayData = x.replayData := by simp only [Warp.setPair, Warp.setS]
@[simp] theorem Warp.setPair_replayFetch (x : Warp) (n : Fin 32) (w : Nat) : (x.setPair n w).replayFetch = x.replayFetch := by simp only [Warp.setPair, Warp.setS]
@[simp] theorem Warp.setPair_flight (x : Warp) (n : Fin 32) (w : Nat) : (x.setPair n w).flight = x.flight := by simp only [Warp.setPair, Warp.setS]
@[simp] theorem Warp.setPair_mma (x : Warp) (n : Fin 32) (w : Nat) : (x.setPair n w).mma = x.mma := by simp only [Warp.setPair, Warp.setS]
@[simp] theorem Warp.setPair_barWait (x : Warp) (n : Fin 32) (w : Nat) : (x.setPair n w).barWait = x.barWait := by simp only [Warp.setPair, Warp.setS]
@[simp] theorem Warp.setPair_bara (x : Warp) (n : Fin 32) (w : Nat) : (x.setPair n w).bara = x.bara := by simp only [Warp.setPair, Warp.setS]
@[simp] theorem Warp.setPair_gridWait (x : Warp) (n : Fin 32) (w : Nat) : (x.setPair n w).gridWait = x.gridWait := by simp only [Warp.setPair, Warp.setS]
@[simp] theorem Warp.setPair_run (x : Warp) (n : Fin 32) (w : Nat) : (x.setPair n w).run = x.run := by simp only [Warp.setPair, Warp.setS]
@[simp] theorem Warp.setPair_trap (x : Warp) (n : Fin 32) (w : Nat) : (x.setPair n w).trap = x.trap := by simp only [Warp.setPair, Warp.setS]
@[simp] theorem Warp.setPair_engFault (x : Warp) (n : Fin 32) (w : Nat) : (x.setPair n w).engFault = x.engFault := by simp only [Warp.setPair, Warp.setS]
@[simp] theorem Warp.setPair_retired (x : Warp) (n : Fin 32) (w : Nat) : (x.setPair n w).retired = x.retired := by simp only [Warp.setPair, Warp.setS]
@[simp] theorem Warp.setPair_idle (x : Warp) (n : Fin 32) (w : Nat) : (x.setPair n w).idle = x.idle := by simp only [Warp.setPair, Warp.setS]
@[simp] theorem Warp.setPair_aged (x : Warp) (n : Fin 32) (w : Nat) : (x.setPair n w).aged = x.aged := by simp only [Warp.setPair, Warp.setS]
@[simp] theorem Warp.setV_core (x : Warp) (on : Fin 32 → Bool) (n : Fin 64) (r : Fin 32 → Word) : (x.setV on n r).core = x.core := by simp only [Warp.setV]
@[simp] theorem Warp.setV_s (x : Warp) (on : Fin 32 → Bool) (n : Fin 64) (r : Fin 32 → Word) : (x.setV on n r).s = x.s := by simp only [Warp.setV]
@[simp] theorem Warp.setV_b (x : Warp) (on : Fin 32 → Bool) (n : Fin 64) (r : Fin 32 → Word) : (x.setV on n r).b = x.b := by simp only [Warp.setV]
@[simp] theorem Warp.setV_exec (x : Warp) (on : Fin 32 → Bool) (n : Fin 64) (r : Fin 32 → Word) : (x.setV on n r).exec = x.exec := by simp only [Warp.setV]
@[simp] theorem Warp.setV_cm (x : Warp) (on : Fin 32 → Bool) (n : Fin 64) (r : Fin 32 → Word) : (x.setV on n r).cm = x.cm := by simp only [Warp.setV]
@[simp] theorem Warp.setV_part (x : Warp) (on : Fin 32 → Bool) (n : Fin 64) (r : Fin 32 → Word) : (x.setV on n r).part = x.part := by simp only [Warp.setV]
@[simp] theorem Warp.setV_ften (x : Warp) (on : Fin 32 → Bool) (n : Fin 64) (r : Fin 32 → Word) : (x.setV on n r).ften = x.ften := by simp only [Warp.setV]
@[simp] theorem Warp.setV_lc (x : Warp) (on : Fin 32 → Bool) (n : Fin 64) (r : Fin 32 → Word) : (x.setV on n r).lc = x.lc := by simp only [Warp.setV]
@[simp] theorem Warp.setV_ls (x : Warp) (on : Fin 32 → Bool) (n : Fin 64) (r : Fin 32 → Word) : (x.setV on n r).ls = x.ls := by simp only [Warp.setV]
@[simp] theorem Warp.setV_le (x : Warp) (on : Fin 32 → Bool) (n : Fin 64) (r : Fin 32 → Word) : (x.setV on n r).le = x.le := by simp only [Warp.setV]
@[simp] theorem Warp.setV_slices (x : Warp) (on : Fin 32 → Bool) (n : Fin 64) (r : Fin 32 → Word) : (x.setV on n r).slices = x.slices := by simp only [Warp.setV]
@[simp] theorem Warp.setV_meld (x : Warp) (on : Fin 32 → Bool) (n : Fin 64) (r : Fin 32 → Word) : (x.setV on n r).meld = x.meld := by simp only [Warp.setV]
@[simp] theorem Warp.setV_ren (x : Warp) (on : Fin 32 → Bool) (n : Fin 64) (r : Fin 32 → Word) : (x.setV on n r).ren = x.ren := by simp only [Warp.setV]
@[simp] theorem Warp.setV_k (x : Warp) (on : Fin 32 → Bool) (n : Fin 64) (r : Fin 32 → Word) : (x.setV on n r).k = x.k := by simp only [Warp.setV]
@[simp] theorem Warp.setV_ifs (x : Warp) (on : Fin 32 → Bool) (n : Fin 64) (r : Fin 32 → Word) : (x.setV on n r).ifs = x.ifs := by simp only [Warp.setV]
@[simp] theorem Warp.setV_ifg (x : Warp) (on : Fin 32 → Bool) (n : Fin 64) (r : Fin 32 → Word) : (x.setV on n r).ifg = x.ifg := by simp only [Warp.setV]
@[simp] theorem Warp.setV_ift (x : Warp) (on : Fin 32 → Bool) (n : Fin 64) (r : Fin 32 → Word) : (x.setV on n r).ift = x.ift := by simp only [Warp.setV]
@[simp] theorem Warp.setV_ife (x : Warp) (on : Fin 32 → Bool) (n : Fin 64) (r : Fin 32 → Word) : (x.setV on n r).ife = x.ife := by simp only [Warp.setV]
@[simp] theorem Warp.setV_preq (x : Warp) (on : Fin 32 → Bool) (n : Fin 64) (r : Fin 32 → Word) : (x.setV on n r).preq = x.preq := by simp only [Warp.setV]
@[simp] theorem Warp.setV_slice (x : Warp) (on : Fin 32 → Bool) (n : Fin 64) (r : Fin 32 → Word) : (x.setV on n r).slice = x.slice := by simp only [Warp.setV]
@[simp] theorem Warp.setV_slot (x : Warp) (on : Fin 32 → Bool) (n : Fin 64) (r : Fin 32 → Word) : (x.setV on n r).slot = x.slot := by simp only [Warp.setV]
@[simp] theorem Warp.setV_asked (x : Warp) (on : Fin 32 → Bool) (n : Fin 64) (r : Fin 32 → Word) : (x.setV on n r).asked = x.asked := by simp only [Warp.setV]
@[simp] theorem Warp.setV_last (x : Warp) (on : Fin 32 → Bool) (n : Fin 64) (r : Fin 32 → Word) : (x.setV on n r).last = x.last := by simp only [Warp.setV]
@[simp] theorem Warp.setV_ycnt (x : Warp) (on : Fin 32 → Bool) (n : Fin 64) (r : Fin 32 → Word) : (x.setV on n r).ycnt = x.ycnt := by simp only [Warp.setV]
@[simp] theorem Warp.setV_chain (x : Warp) (on : Fin 32 → Bool) (n : Fin 64) (r : Fin 32 → Word) : (x.setV on n r).chain = x.chain := by simp only [Warp.setV]
@[simp] theorem Warp.setV_nonmem (x : Warp) (on : Fin 32 → Bool) (n : Fin 64) (r : Fin 32 → Word) : (x.setV on n r).nonmem = x.nonmem := by simp only [Warp.setV]
@[simp] theorem Warp.setV_replayData (x : Warp) (on : Fin 32 → Bool) (n : Fin 64) (r : Fin 32 → Word) : (x.setV on n r).replayData = x.replayData := by simp only [Warp.setV]
@[simp] theorem Warp.setV_replayFetch (x : Warp) (on : Fin 32 → Bool) (n : Fin 64) (r : Fin 32 → Word) : (x.setV on n r).replayFetch = x.replayFetch := by simp only [Warp.setV]
@[simp] theorem Warp.setV_flight (x : Warp) (on : Fin 32 → Bool) (n : Fin 64) (r : Fin 32 → Word) : (x.setV on n r).flight = x.flight := by simp only [Warp.setV]
@[simp] theorem Warp.setV_mma (x : Warp) (on : Fin 32 → Bool) (n : Fin 64) (r : Fin 32 → Word) : (x.setV on n r).mma = x.mma := by simp only [Warp.setV]
@[simp] theorem Warp.setV_barWait (x : Warp) (on : Fin 32 → Bool) (n : Fin 64) (r : Fin 32 → Word) : (x.setV on n r).barWait = x.barWait := by simp only [Warp.setV]
@[simp] theorem Warp.setV_bara (x : Warp) (on : Fin 32 → Bool) (n : Fin 64) (r : Fin 32 → Word) : (x.setV on n r).bara = x.bara := by simp only [Warp.setV]
@[simp] theorem Warp.setV_gridWait (x : Warp) (on : Fin 32 → Bool) (n : Fin 64) (r : Fin 32 → Word) : (x.setV on n r).gridWait = x.gridWait := by simp only [Warp.setV]
@[simp] theorem Warp.setV_run (x : Warp) (on : Fin 32 → Bool) (n : Fin 64) (r : Fin 32 → Word) : (x.setV on n r).run = x.run := by simp only [Warp.setV]
@[simp] theorem Warp.setV_trap (x : Warp) (on : Fin 32 → Bool) (n : Fin 64) (r : Fin 32 → Word) : (x.setV on n r).trap = x.trap := by simp only [Warp.setV]
@[simp] theorem Warp.setV_engFault (x : Warp) (on : Fin 32 → Bool) (n : Fin 64) (r : Fin 32 → Word) : (x.setV on n r).engFault = x.engFault := by simp only [Warp.setV]
@[simp] theorem Warp.setV_retired (x : Warp) (on : Fin 32 → Bool) (n : Fin 64) (r : Fin 32 → Word) : (x.setV on n r).retired = x.retired := by simp only [Warp.setV]
@[simp] theorem Warp.setV_idle (x : Warp) (on : Fin 32 → Bool) (n : Fin 64) (r : Fin 32 → Word) : (x.setV on n r).idle = x.idle := by simp only [Warp.setV]
@[simp] theorem Warp.setV_aged (x : Warp) (on : Fin 32 → Bool) (n : Fin 64) (r : Fin 32 → Word) : (x.setV on n r).aged = x.aged := by simp only [Warp.setV]
@[simp] theorem Warp.setReg_core (x : Warp) (r : Fin 64) (l : Fin 32) (w : Word) : (x.setReg r l w).core = x.core := by simp only [Warp.setReg]
@[simp] theorem Warp.setReg_s (x : Warp) (r : Fin 64) (l : Fin 32) (w : Word) : (x.setReg r l w).s = x.s := by simp only [Warp.setReg]
@[simp] theorem Warp.setReg_b (x : Warp) (r : Fin 64) (l : Fin 32) (w : Word) : (x.setReg r l w).b = x.b := by simp only [Warp.setReg]
@[simp] theorem Warp.setReg_exec (x : Warp) (r : Fin 64) (l : Fin 32) (w : Word) : (x.setReg r l w).exec = x.exec := by simp only [Warp.setReg]
@[simp] theorem Warp.setReg_cm (x : Warp) (r : Fin 64) (l : Fin 32) (w : Word) : (x.setReg r l w).cm = x.cm := by simp only [Warp.setReg]
@[simp] theorem Warp.setReg_part (x : Warp) (r : Fin 64) (l : Fin 32) (w : Word) : (x.setReg r l w).part = x.part := by simp only [Warp.setReg]
@[simp] theorem Warp.setReg_ften (x : Warp) (r : Fin 64) (l : Fin 32) (w : Word) : (x.setReg r l w).ften = x.ften := by simp only [Warp.setReg]
@[simp] theorem Warp.setReg_lc (x : Warp) (r : Fin 64) (l : Fin 32) (w : Word) : (x.setReg r l w).lc = x.lc := by simp only [Warp.setReg]
@[simp] theorem Warp.setReg_ls (x : Warp) (r : Fin 64) (l : Fin 32) (w : Word) : (x.setReg r l w).ls = x.ls := by simp only [Warp.setReg]
@[simp] theorem Warp.setReg_le (x : Warp) (r : Fin 64) (l : Fin 32) (w : Word) : (x.setReg r l w).le = x.le := by simp only [Warp.setReg]
@[simp] theorem Warp.setReg_slices (x : Warp) (r : Fin 64) (l : Fin 32) (w : Word) : (x.setReg r l w).slices = x.slices := by simp only [Warp.setReg]
@[simp] theorem Warp.setReg_meld (x : Warp) (r : Fin 64) (l : Fin 32) (w : Word) : (x.setReg r l w).meld = x.meld := by simp only [Warp.setReg]
@[simp] theorem Warp.setReg_ren (x : Warp) (r : Fin 64) (l : Fin 32) (w : Word) : (x.setReg r l w).ren = x.ren := by simp only [Warp.setReg]
@[simp] theorem Warp.setReg_k (x : Warp) (r : Fin 64) (l : Fin 32) (w : Word) : (x.setReg r l w).k = x.k := by simp only [Warp.setReg]
@[simp] theorem Warp.setReg_ifs (x : Warp) (r : Fin 64) (l : Fin 32) (w : Word) : (x.setReg r l w).ifs = x.ifs := by simp only [Warp.setReg]
@[simp] theorem Warp.setReg_ifg (x : Warp) (r : Fin 64) (l : Fin 32) (w : Word) : (x.setReg r l w).ifg = x.ifg := by simp only [Warp.setReg]
@[simp] theorem Warp.setReg_ift (x : Warp) (r : Fin 64) (l : Fin 32) (w : Word) : (x.setReg r l w).ift = x.ift := by simp only [Warp.setReg]
@[simp] theorem Warp.setReg_ife (x : Warp) (r : Fin 64) (l : Fin 32) (w : Word) : (x.setReg r l w).ife = x.ife := by simp only [Warp.setReg]
@[simp] theorem Warp.setReg_preq (x : Warp) (r : Fin 64) (l : Fin 32) (w : Word) : (x.setReg r l w).preq = x.preq := by simp only [Warp.setReg]
@[simp] theorem Warp.setReg_slice (x : Warp) (r : Fin 64) (l : Fin 32) (w : Word) : (x.setReg r l w).slice = x.slice := by simp only [Warp.setReg]
@[simp] theorem Warp.setReg_slot (x : Warp) (r : Fin 64) (l : Fin 32) (w : Word) : (x.setReg r l w).slot = x.slot := by simp only [Warp.setReg]
@[simp] theorem Warp.setReg_asked (x : Warp) (r : Fin 64) (l : Fin 32) (w : Word) : (x.setReg r l w).asked = x.asked := by simp only [Warp.setReg]
@[simp] theorem Warp.setReg_last (x : Warp) (r : Fin 64) (l : Fin 32) (w : Word) : (x.setReg r l w).last = x.last := by simp only [Warp.setReg]
@[simp] theorem Warp.setReg_ycnt (x : Warp) (r : Fin 64) (l : Fin 32) (w : Word) : (x.setReg r l w).ycnt = x.ycnt := by simp only [Warp.setReg]
@[simp] theorem Warp.setReg_chain (x : Warp) (r : Fin 64) (l : Fin 32) (w : Word) : (x.setReg r l w).chain = x.chain := by simp only [Warp.setReg]
@[simp] theorem Warp.setReg_nonmem (x : Warp) (r : Fin 64) (l : Fin 32) (w : Word) : (x.setReg r l w).nonmem = x.nonmem := by simp only [Warp.setReg]
@[simp] theorem Warp.setReg_replayData (x : Warp) (r : Fin 64) (l : Fin 32) (w : Word) : (x.setReg r l w).replayData = x.replayData := by simp only [Warp.setReg]
@[simp] theorem Warp.setReg_replayFetch (x : Warp) (r : Fin 64) (l : Fin 32) (w : Word) : (x.setReg r l w).replayFetch = x.replayFetch := by simp only [Warp.setReg]
@[simp] theorem Warp.setReg_flight (x : Warp) (r : Fin 64) (l : Fin 32) (w : Word) : (x.setReg r l w).flight = x.flight := by simp only [Warp.setReg]
@[simp] theorem Warp.setReg_mma (x : Warp) (r : Fin 64) (l : Fin 32) (w : Word) : (x.setReg r l w).mma = x.mma := by simp only [Warp.setReg]
@[simp] theorem Warp.setReg_barWait (x : Warp) (r : Fin 64) (l : Fin 32) (w : Word) : (x.setReg r l w).barWait = x.barWait := by simp only [Warp.setReg]
@[simp] theorem Warp.setReg_bara (x : Warp) (r : Fin 64) (l : Fin 32) (w : Word) : (x.setReg r l w).bara = x.bara := by simp only [Warp.setReg]
@[simp] theorem Warp.setReg_gridWait (x : Warp) (r : Fin 64) (l : Fin 32) (w : Word) : (x.setReg r l w).gridWait = x.gridWait := by simp only [Warp.setReg]
@[simp] theorem Warp.setReg_run (x : Warp) (r : Fin 64) (l : Fin 32) (w : Word) : (x.setReg r l w).run = x.run := by simp only [Warp.setReg]
@[simp] theorem Warp.setReg_trap (x : Warp) (r : Fin 64) (l : Fin 32) (w : Word) : (x.setReg r l w).trap = x.trap := by simp only [Warp.setReg]
@[simp] theorem Warp.setReg_engFault (x : Warp) (r : Fin 64) (l : Fin 32) (w : Word) : (x.setReg r l w).engFault = x.engFault := by simp only [Warp.setReg]
@[simp] theorem Warp.setReg_retired (x : Warp) (r : Fin 64) (l : Fin 32) (w : Word) : (x.setReg r l w).retired = x.retired := by simp only [Warp.setReg]
@[simp] theorem Warp.setReg_idle (x : Warp) (r : Fin 64) (l : Fin 32) (w : Word) : (x.setReg r l w).idle = x.idle := by simp only [Warp.setReg]
@[simp] theorem Warp.setReg_aged (x : Warp) (r : Fin 64) (l : Fin 32) (w : Word) : (x.setReg r l w).aged = x.aged := by simp only [Warp.setReg]
@[simp] theorem Warp.push_core (x : Warp) (k : Bool) (r : Fin 32 → Word) : (x.push k r).core = x.core := by simp only [Warp.push]
@[simp] theorem Warp.push_v (x : Warp) (k : Bool) (r : Fin 32 → Word) : (x.push k r).v = x.v := by simp only [Warp.push]
@[simp] theorem Warp.push_poison (x : Warp) (k : Bool) (r : Fin 32 → Word) : (x.push k r).poison = x.poison := by simp only [Warp.push]
@[simp] theorem Warp.push_s (x : Warp) (k : Bool) (r : Fin 32 → Word) : (x.push k r).s = x.s := by simp only [Warp.push]
@[simp] theorem Warp.push_exec (x : Warp) (k : Bool) (r : Fin 32 → Word) : (x.push k r).exec = x.exec := by simp only [Warp.push]
@[simp] theorem Warp.push_cm (x : Warp) (k : Bool) (r : Fin 32 → Word) : (x.push k r).cm = x.cm := by simp only [Warp.push]
@[simp] theorem Warp.push_part (x : Warp) (k : Bool) (r : Fin 32 → Word) : (x.push k r).part = x.part := by simp only [Warp.push]
@[simp] theorem Warp.push_ften (x : Warp) (k : Bool) (r : Fin 32 → Word) : (x.push k r).ften = x.ften := by simp only [Warp.push]
@[simp] theorem Warp.push_lc (x : Warp) (k : Bool) (r : Fin 32 → Word) : (x.push k r).lc = x.lc := by simp only [Warp.push]
@[simp] theorem Warp.push_ls (x : Warp) (k : Bool) (r : Fin 32 → Word) : (x.push k r).ls = x.ls := by simp only [Warp.push]
@[simp] theorem Warp.push_le (x : Warp) (k : Bool) (r : Fin 32 → Word) : (x.push k r).le = x.le := by simp only [Warp.push]
@[simp] theorem Warp.push_slices (x : Warp) (k : Bool) (r : Fin 32 → Word) : (x.push k r).slices = x.slices := by simp only [Warp.push]
@[simp] theorem Warp.push_meld (x : Warp) (k : Bool) (r : Fin 32 → Word) : (x.push k r).meld = x.meld := by simp only [Warp.push]
@[simp] theorem Warp.push_ren (x : Warp) (k : Bool) (r : Fin 32 → Word) : (x.push k r).ren = x.ren := by simp only [Warp.push]
@[simp] theorem Warp.push_k (x : Warp) (k : Bool) (r : Fin 32 → Word) : (x.push k r).k = x.k := by simp only [Warp.push]
@[simp] theorem Warp.push_ifs (x : Warp) (k : Bool) (r : Fin 32 → Word) : (x.push k r).ifs = x.ifs := by simp only [Warp.push]
@[simp] theorem Warp.push_ifg (x : Warp) (k : Bool) (r : Fin 32 → Word) : (x.push k r).ifg = x.ifg := by simp only [Warp.push]
@[simp] theorem Warp.push_ift (x : Warp) (k : Bool) (r : Fin 32 → Word) : (x.push k r).ift = x.ift := by simp only [Warp.push]
@[simp] theorem Warp.push_ife (x : Warp) (k : Bool) (r : Fin 32 → Word) : (x.push k r).ife = x.ife := by simp only [Warp.push]
@[simp] theorem Warp.push_preq (x : Warp) (k : Bool) (r : Fin 32 → Word) : (x.push k r).preq = x.preq := by simp only [Warp.push]
@[simp] theorem Warp.push_slice (x : Warp) (k : Bool) (r : Fin 32 → Word) : (x.push k r).slice = x.slice := by simp only [Warp.push]
@[simp] theorem Warp.push_slot (x : Warp) (k : Bool) (r : Fin 32 → Word) : (x.push k r).slot = x.slot := by simp only [Warp.push]
@[simp] theorem Warp.push_asked (x : Warp) (k : Bool) (r : Fin 32 → Word) : (x.push k r).asked = x.asked := by simp only [Warp.push]
@[simp] theorem Warp.push_last (x : Warp) (k : Bool) (r : Fin 32 → Word) : (x.push k r).last = x.last := by simp only [Warp.push]
@[simp] theorem Warp.push_ycnt (x : Warp) (k : Bool) (r : Fin 32 → Word) : (x.push k r).ycnt = x.ycnt := by simp only [Warp.push]
@[simp] theorem Warp.push_chain (x : Warp) (k : Bool) (r : Fin 32 → Word) : (x.push k r).chain = x.chain := by simp only [Warp.push]
@[simp] theorem Warp.push_nonmem (x : Warp) (k : Bool) (r : Fin 32 → Word) : (x.push k r).nonmem = x.nonmem := by simp only [Warp.push]
@[simp] theorem Warp.push_replayData (x : Warp) (k : Bool) (r : Fin 32 → Word) : (x.push k r).replayData = x.replayData := by simp only [Warp.push]
@[simp] theorem Warp.push_replayFetch (x : Warp) (k : Bool) (r : Fin 32 → Word) : (x.push k r).replayFetch = x.replayFetch := by simp only [Warp.push]
@[simp] theorem Warp.push_flight (x : Warp) (k : Bool) (r : Fin 32 → Word) : (x.push k r).flight = x.flight := by simp only [Warp.push]
@[simp] theorem Warp.push_mma (x : Warp) (k : Bool) (r : Fin 32 → Word) : (x.push k r).mma = x.mma := by simp only [Warp.push]
@[simp] theorem Warp.push_barWait (x : Warp) (k : Bool) (r : Fin 32 → Word) : (x.push k r).barWait = x.barWait := by simp only [Warp.push]
@[simp] theorem Warp.push_bara (x : Warp) (k : Bool) (r : Fin 32 → Word) : (x.push k r).bara = x.bara := by simp only [Warp.push]
@[simp] theorem Warp.push_gridWait (x : Warp) (k : Bool) (r : Fin 32 → Word) : (x.push k r).gridWait = x.gridWait := by simp only [Warp.push]
@[simp] theorem Warp.push_run (x : Warp) (k : Bool) (r : Fin 32 → Word) : (x.push k r).run = x.run := by simp only [Warp.push]
@[simp] theorem Warp.push_trap (x : Warp) (k : Bool) (r : Fin 32 → Word) : (x.push k r).trap = x.trap := by simp only [Warp.push]
@[simp] theorem Warp.push_engFault (x : Warp) (k : Bool) (r : Fin 32 → Word) : (x.push k r).engFault = x.engFault := by simp only [Warp.push]
@[simp] theorem Warp.push_retired (x : Warp) (k : Bool) (r : Fin 32 → Word) : (x.push k r).retired = x.retired := by simp only [Warp.push]
@[simp] theorem Warp.push_idle (x : Warp) (k : Bool) (r : Fin 32 → Word) : (x.push k r).idle = x.idle := by simp only [Warp.push]
@[simp] theorem Warp.push_aged (x : Warp) (k : Bool) (r : Fin 32 → Word) : (x.push k r).aged = x.aged := by simp only [Warp.push]
@[simp] theorem Warp.setPc_core (x : Warp) (gang : BitVec 8) (pc : Nat) : (x.setPc gang pc).core = x.core := by simp only [Warp.setPc]
@[simp] theorem Warp.setPc_v (x : Warp) (gang : BitVec 8) (pc : Nat) : (x.setPc gang pc).v = x.v := by simp only [Warp.setPc]
@[simp] theorem Warp.setPc_poison (x : Warp) (gang : BitVec 8) (pc : Nat) : (x.setPc gang pc).poison = x.poison := by simp only [Warp.setPc]
@[simp] theorem Warp.setPc_s (x : Warp) (gang : BitVec 8) (pc : Nat) : (x.setPc gang pc).s = x.s := by simp only [Warp.setPc]
@[simp] theorem Warp.setPc_b (x : Warp) (gang : BitVec 8) (pc : Nat) : (x.setPc gang pc).b = x.b := by simp only [Warp.setPc]
@[simp] theorem Warp.setPc_exec (x : Warp) (gang : BitVec 8) (pc : Nat) : (x.setPc gang pc).exec = x.exec := by simp only [Warp.setPc]
@[simp] theorem Warp.setPc_cm (x : Warp) (gang : BitVec 8) (pc : Nat) : (x.setPc gang pc).cm = x.cm := by simp only [Warp.setPc]
@[simp] theorem Warp.setPc_part (x : Warp) (gang : BitVec 8) (pc : Nat) : (x.setPc gang pc).part = x.part := by simp only [Warp.setPc]
@[simp] theorem Warp.setPc_ften (x : Warp) (gang : BitVec 8) (pc : Nat) : (x.setPc gang pc).ften = x.ften := by simp only [Warp.setPc]
@[simp] theorem Warp.setPc_lc (x : Warp) (gang : BitVec 8) (pc : Nat) : (x.setPc gang pc).lc = x.lc := by simp only [Warp.setPc]
@[simp] theorem Warp.setPc_ls (x : Warp) (gang : BitVec 8) (pc : Nat) : (x.setPc gang pc).ls = x.ls := by simp only [Warp.setPc]
@[simp] theorem Warp.setPc_le (x : Warp) (gang : BitVec 8) (pc : Nat) : (x.setPc gang pc).le = x.le := by simp only [Warp.setPc]
@[simp] theorem Warp.setPc_meld (x : Warp) (gang : BitVec 8) (pc : Nat) : (x.setPc gang pc).meld = x.meld := by simp only [Warp.setPc]
@[simp] theorem Warp.setPc_ren (x : Warp) (gang : BitVec 8) (pc : Nat) : (x.setPc gang pc).ren = x.ren := by simp only [Warp.setPc]
@[simp] theorem Warp.setPc_k (x : Warp) (gang : BitVec 8) (pc : Nat) : (x.setPc gang pc).k = x.k := by simp only [Warp.setPc]
@[simp] theorem Warp.setPc_ifs (x : Warp) (gang : BitVec 8) (pc : Nat) : (x.setPc gang pc).ifs = x.ifs := by simp only [Warp.setPc]
@[simp] theorem Warp.setPc_ifg (x : Warp) (gang : BitVec 8) (pc : Nat) : (x.setPc gang pc).ifg = x.ifg := by simp only [Warp.setPc]
@[simp] theorem Warp.setPc_ift (x : Warp) (gang : BitVec 8) (pc : Nat) : (x.setPc gang pc).ift = x.ift := by simp only [Warp.setPc]
@[simp] theorem Warp.setPc_ife (x : Warp) (gang : BitVec 8) (pc : Nat) : (x.setPc gang pc).ife = x.ife := by simp only [Warp.setPc]
@[simp] theorem Warp.setPc_preq (x : Warp) (gang : BitVec 8) (pc : Nat) : (x.setPc gang pc).preq = x.preq := by simp only [Warp.setPc]
@[simp] theorem Warp.setPc_slice (x : Warp) (gang : BitVec 8) (pc : Nat) : (x.setPc gang pc).slice = x.slice := by simp only [Warp.setPc]
@[simp] theorem Warp.setPc_slot (x : Warp) (gang : BitVec 8) (pc : Nat) : (x.setPc gang pc).slot = x.slot := by simp only [Warp.setPc]
@[simp] theorem Warp.setPc_asked (x : Warp) (gang : BitVec 8) (pc : Nat) : (x.setPc gang pc).asked = x.asked := by simp only [Warp.setPc]
@[simp] theorem Warp.setPc_last (x : Warp) (gang : BitVec 8) (pc : Nat) : (x.setPc gang pc).last = x.last := by simp only [Warp.setPc]
@[simp] theorem Warp.setPc_ycnt (x : Warp) (gang : BitVec 8) (pc : Nat) : (x.setPc gang pc).ycnt = x.ycnt := by simp only [Warp.setPc]
@[simp] theorem Warp.setPc_chain (x : Warp) (gang : BitVec 8) (pc : Nat) : (x.setPc gang pc).chain = x.chain := by simp only [Warp.setPc]
@[simp] theorem Warp.setPc_nonmem (x : Warp) (gang : BitVec 8) (pc : Nat) : (x.setPc gang pc).nonmem = x.nonmem := by simp only [Warp.setPc]
@[simp] theorem Warp.setPc_replayData (x : Warp) (gang : BitVec 8) (pc : Nat) : (x.setPc gang pc).replayData = x.replayData := by simp only [Warp.setPc]
@[simp] theorem Warp.setPc_replayFetch (x : Warp) (gang : BitVec 8) (pc : Nat) : (x.setPc gang pc).replayFetch = x.replayFetch := by simp only [Warp.setPc]
@[simp] theorem Warp.setPc_flight (x : Warp) (gang : BitVec 8) (pc : Nat) : (x.setPc gang pc).flight = x.flight := by simp only [Warp.setPc]
@[simp] theorem Warp.setPc_mma (x : Warp) (gang : BitVec 8) (pc : Nat) : (x.setPc gang pc).mma = x.mma := by simp only [Warp.setPc]
@[simp] theorem Warp.setPc_barWait (x : Warp) (gang : BitVec 8) (pc : Nat) : (x.setPc gang pc).barWait = x.barWait := by simp only [Warp.setPc]
@[simp] theorem Warp.setPc_bara (x : Warp) (gang : BitVec 8) (pc : Nat) : (x.setPc gang pc).bara = x.bara := by simp only [Warp.setPc]
@[simp] theorem Warp.setPc_gridWait (x : Warp) (gang : BitVec 8) (pc : Nat) : (x.setPc gang pc).gridWait = x.gridWait := by simp only [Warp.setPc]
@[simp] theorem Warp.setPc_run (x : Warp) (gang : BitVec 8) (pc : Nat) : (x.setPc gang pc).run = x.run := by simp only [Warp.setPc]
@[simp] theorem Warp.setPc_trap (x : Warp) (gang : BitVec 8) (pc : Nat) : (x.setPc gang pc).trap = x.trap := by simp only [Warp.setPc]
@[simp] theorem Warp.setPc_engFault (x : Warp) (gang : BitVec 8) (pc : Nat) : (x.setPc gang pc).engFault = x.engFault := by simp only [Warp.setPc]
@[simp] theorem Warp.setPc_retired (x : Warp) (gang : BitVec 8) (pc : Nat) : (x.setPc gang pc).retired = x.retired := by simp only [Warp.setPc]
@[simp] theorem Warp.setPc_idle (x : Warp) (gang : BitVec 8) (pc : Nat) : (x.setPc gang pc).idle = x.idle := by simp only [Warp.setPc]
@[simp] theorem Warp.setPc_aged (x : Warp) (gang : BitVec 8) (pc : Nat) : (x.setPc gang pc).aged = x.aged := by simp only [Warp.setPc]

/-! Teams and dies -/

@[simp] theorem Team.modWarp_ctx (x : Team) (w : Nat) (f : Warp → Warp) : (x.modWarp w f).ctx = x.ctx := by simp only [Team.modWarp]
@[simp] theorem Team.modWarp_part (x : Team) (w : Nat) (f : Warp → Warp) : (x.modWarp w f).part = x.part := by simp only [Team.modWarp]
@[simp] theorem Team.modWarp_job (x : Team) (w : Nat) (f : Warp → Warp) : (x.modWarp w f).job = x.job := by simp only [Team.modWarp]
@[simp] theorem Team.modWarp_plan (x : Team) (w : Nat) (f : Warp → Warp) : (x.modWarp w f).plan = x.plan := by simp only [Team.modWarp]
@[simp] theorem Team.modWarp_graph (x : Team) (w : Nat) (f : Warp → Warp) : (x.modWarp w f).graph = x.graph := by simp only [Team.modWarp]
@[simp] theorem Team.modWarp_linear (x : Team) (w : Nat) (f : Warp → Warp) : (x.modWarp w f).linear = x.linear := by simp only [Team.modWarp]
@[simp] theorem Team.modWarp_x (x : Team) (w : Nat) (f : Warp → Warp) : (x.modWarp w f).x = x.x := by simp only [Team.modWarp]
@[simp] theorem Team.modWarp_y (x : Team) (w : Nat) (f : Warp → Warp) : (x.modWarp w f).y = x.y := by simp only [Team.modWarp]
@[simp] theorem Team.modWarp_z (x : Team) (w : Nat) (f : Warp → Warp) : (x.modWarp w f).z = x.z := by simp only [Team.modWarp]
@[simp] theorem Team.modWarp_gx (x : Team) (w : Nat) (f : Warp → Warp) : (x.modWarp w f).gx = x.gx := by simp only [Team.modWarp]
@[simp] theorem Team.modWarp_gy (x : Team) (w : Nat) (f : Warp → Warp) : (x.modWarp w f).gy = x.gy := by simp only [Team.modWarp]
@[simp] theorem Team.modWarp_gz (x : Team) (w : Nat) (f : Warp → Warp) : (x.modWarp w f).gz = x.gz := by simp only [Team.modWarp]
@[simp] theorem Team.modWarp_dien (x : Team) (w : Nat) (f : Warp → Warp) : (x.modWarp w f).dien = x.dien := by simp only [Team.modWarp]
@[simp] theorem Team.modWarp_dies (x : Team) (w : Nat) (f : Warp → Warp) : (x.modWarp w f).dies = x.dies := by simp only [Team.modWarp]
@[simp] theorem Team.modWarp_die (x : Team) (w : Nat) (f : Warp → Warp) : (x.modWarp w f).die = x.die := by simp only [Team.modWarp]
@[simp] theorem Team.modWarp_backing (x : Team) (w : Nat) (f : Warp → Warp) : (x.modWarp w f).backing = x.backing := by simp only [Team.modWarp]
@[simp] theorem Team.modWarp_core (x : Team) (w : Nat) (f : Warp → Warp) : (x.modWarp w f).core = x.core := by simp only [Team.modWarp]
@[simp] theorem Team.modWarp_teamw (x : Team) (w : Nat) (f : Warp → Warp) : (x.modWarp w f).teamw = x.teamw := by simp only [Team.modWarp]
@[simp] theorem Team.modWarp_span (x : Team) (w : Nat) (f : Warp → Warp) : (x.modWarp w f).span = x.span := by simp only [Team.modWarp]
@[simp] theorem Team.modWarp_vregs (x : Team) (w : Nat) (f : Warp → Warp) : (x.modWarp w f).vregs = x.vregs := by simp only [Team.modWarp]
@[simp] theorem Team.modWarp_frames (x : Team) (w : Nat) (f : Warp → Warp) : (x.modWarp w f).frames = x.frames := by simp only [Team.modWarp]
@[simp] theorem Team.modWarp_nbar (x : Team) (w : Nat) (f : Warp → Warp) : (x.modWarp w f).nbar = x.nbar := by simp only [Team.modWarp]
@[simp] theorem Team.modWarp_tlanes (x : Team) (w : Nat) (f : Warp → Warp) : (x.modWarp w f).tlanes = x.tlanes := by simp only [Team.modWarp]
@[simp] theorem Team.modWarp_args (x : Team) (w : Nat) (f : Warp → Warp) : (x.modWarp w f).args = x.args := by simp only [Team.modWarp]
@[simp] theorem Team.modWarp_argsz (x : Team) (w : Nat) (f : Warp → Warp) : (x.modWarp w f).argsz = x.argsz := by simp only [Team.modWarp]
@[simp] theorem Team.modWarp_super (x : Team) (w : Nat) (f : Warp → Warp) : (x.modWarp w f).super = x.super := by simp only [Team.modWarp]
@[simp] theorem Team.modWarp_cor (x : Team) (w : Nat) (f : Warp → Warp) : (x.modWarp w f).cor = x.cor := by simp only [Team.modWarp]
@[simp] theorem Team.modWarp_prio (x : Team) (w : Nat) (f : Warp → Warp) : (x.modWarp w f).prio = x.prio := by simp only [Team.modWarp]
@[simp] theorem Team.modWarp_boost (x : Team) (w : Nat) (f : Warp → Warp) : (x.modWarp w f).boost = x.boost := by simp only [Team.modWarp]
@[simp] theorem Team.modWarp_desched (x : Team) (w : Nat) (f : Warp → Warp) : (x.modWarp w f).desched = x.desched := by simp only [Team.modWarp]
@[simp] theorem Team.modWarp_suspended (x : Team) (w : Nat) (f : Warp → Warp) : (x.modWarp w f).suspended = x.suspended := by simp only [Team.modWarp]
@[simp] theorem Team.modWarp_sameDie (x : Team) (w : Nat) (f : Warp → Warp) : (x.modWarp w f).sameDie = x.sameDie := by simp only [Team.modWarp]
@[simp] theorem Team.modWarp_placedAt (x : Team) (w : Nat) (f : Warp → Warp) : (x.modWarp w f).placedAt = x.placedAt := by simp only [Team.modWarp]
@[simp] theorem Team.modWarp_phase (x : Team) (w : Nat) (f : Warp → Warp) : (x.modWarp w f).phase = x.phase := by simp only [Team.modWarp]
@[simp] theorem Team.modWarp_scratch (x : Team) (w : Nat) (f : Warp → Warp) : (x.modWarp w f).scratch = x.scratch := by simp only [Team.modWarp]
@[simp] theorem Team.modWarp_shapes (x : Team) (w : Nat) (f : Warp → Warp) : (x.modWarp w f).shapes = x.shapes := by simp only [Team.modWarp]
@[simp] theorem Team.modWarp_rings (x : Team) (w : Nat) (f : Warp → Warp) : (x.modWarp w f).rings = x.rings := by simp only [Team.modWarp]
@[simp] theorem Team.modWarp_bars (x : Team) (w : Nat) (f : Warp → Warp) : (x.modWarp w f).bars = x.bars := by simp only [Team.modWarp]
@[simp] theorem Team.modWarp_gridArrived (x : Team) (w : Nat) (f : Warp → Warp) : (x.modWarp w f).gridArrived = x.gridArrived := by simp only [Team.modWarp]
@[simp] theorem Team.modWarp_gridSeen (x : Team) (w : Nat) (f : Warp → Warp) : (x.modWarp w f).gridSeen = x.gridSeen := by simp only [Team.modWarp]
@[simp] theorem Team.modWarp_shareArrived (x : Team) (w : Nat) (f : Warp → Warp) : (x.modWarp w f).shareArrived = x.shareArrived := by simp only [Team.modWarp]
@[simp] theorem Team.modWarp_served (x : Team) (w : Nat) (f : Warp → Warp) : (x.modWarp w f).served = x.served := by simp only [Team.modWarp]
@[simp] theorem Team.modWarp_resumed (x : Team) (w : Nat) (f : Warp → Warp) : (x.modWarp w f).resumed = x.resumed := by simp only [Team.modWarp]

/-! The package -/

@[simp] theorem Mach.modDie_turn (x : Mach) (d : Nat) (f : Die → Die) : (x.modDie d f).turn = x.turn := by simp only [Mach.modDie]
@[simp] theorem Mach.modDie_inputs (x : Mach) (d : Nat) (f : Die → Die) : (x.modDie d f).inputs = x.inputs := by simp only [Mach.modDie]
@[simp] theorem Mach.modDie_unit (x : Mach) (d : Nat) (f : Die → Die) : (x.modDie d f).unit = x.unit := by simp only [Mach.modDie]
@[simp] theorem Mach.modDie_free (x : Mach) (d : Nat) (f : Die → Die) : (x.modDie d f).free = x.free := by simp only [Mach.modDie]
@[simp] theorem Mach.modDie_now (x : Mach) (d : Nat) (f : Die → Die) : (x.modDie d f).now = x.now := by simp only [Mach.modDie]
@[simp] theorem Mach.modDie_home (x : Mach) (d : Nat) (f : Die → Die) : (x.modDie d f).home = x.home := by simp only [Mach.modDie]
@[simp] theorem Mach.modDie_tags (x : Mach) (d : Nat) (f : Die → Die) : (x.modDie d f).tags = x.tags := by simp only [Mach.modDie]
@[simp] theorem Mach.modDie_poisoned (x : Mach) (d : Nat) (f : Die → Die) : (x.modDie d f).poisoned = x.poisoned := by simp only [Mach.modDie]
@[simp] theorem Mach.modDie_llcLines (x : Mach) (d : Nat) (f : Die → Die) : (x.modDie d f).llcLines = x.llcLines := by simp only [Mach.modDie]
@[simp] theorem Mach.modDie_llcDirty (x : Mach) (d : Nat) (f : Die → Die) : (x.modDie d f).llcDirty = x.llcDirty := by simp only [Mach.modDie]
@[simp] theorem Mach.modDie_domCur (x : Mach) (d : Nat) (f : Die → Die) : (x.modDie d f).domCur = x.domCur := by simp only [Mach.modDie]
@[simp] theorem Mach.modDie_domPend (x : Mach) (d : Nat) (f : Die → Die) : (x.modDie d f).domPend = x.domPend := by simp only [Mach.modDie]
@[simp] theorem Mach.modDie_switching (x : Mach) (d : Nat) (f : Die → Die) : (x.modDie d f).switching = x.switching := by simp only [Mach.modDie]
@[simp] theorem Mach.modDie_refused (x : Mach) (d : Nat) (f : Die → Die) : (x.modDie d f).refused = x.refused := by simp only [Mach.modDie]
@[simp] theorem Mach.modDie_pmap (x : Mach) (d : Nat) (f : Die → Die) : (x.modDie d f).pmap = x.pmap := by simp only [Mach.modDie]
@[simp] theorem Mach.modDie_cfg (x : Mach) (d : Nat) (f : Die → Die) : (x.modDie d f).cfg = x.cfg := by simp only [Mach.modDie]
@[simp] theorem Mach.modDie_grant (x : Mach) (d : Nat) (f : Die → Die) : (x.modDie d f).grant = x.grant := by simp only [Mach.modDie]
@[simp] theorem Mach.modDie_domBlock (x : Mach) (d : Nat) (f : Die → Die) : (x.modDie d f).domBlock = x.domBlock := by simp only [Mach.modDie]
@[simp] theorem Mach.modDie_parts (x : Mach) (d : Nat) (f : Die → Die) : (x.modDie d f).parts = x.parts := by simp only [Mach.modDie]
@[simp] theorem Mach.modDie_q0addr (x : Mach) (d : Nat) (f : Die → Die) : (x.modDie d f).q0addr = x.q0addr := by simp only [Mach.modDie]
@[simp] theorem Mach.modDie_contexts (x : Mach) (d : Nat) (f : Die → Die) : (x.modDie d f).contexts = x.contexts := by simp only [Mach.modDie]
@[simp] theorem Mach.modDie_teams (x : Mach) (d : Nat) (f : Die → Die) : (x.modDie d f).teams = x.teams := by simp only [Mach.modDie]
@[simp] theorem Mach.modDie_ops (x : Mach) (d : Nat) (f : Die → Die) : (x.modDie d f).ops = x.ops := by simp only [Mach.modDie]
@[simp] theorem Mach.modDie_plans (x : Mach) (d : Nat) (f : Die → Die) : (x.modDie d f).plans = x.plans := by simp only [Mach.modDie]
@[simp] theorem Mach.modDie_pipes (x : Mach) (d : Nat) (f : Die → Die) : (x.modDie d f).pipes = x.pipes := by simp only [Mach.modDie]
@[simp] theorem Mach.modDie_graphs (x : Mach) (d : Nat) (f : Die → Die) : (x.modDie d f).graphs = x.graphs := by simp only [Mach.modDie]
@[simp] theorem Mach.modDie_graphJobs (x : Mach) (d : Nat) (f : Die → Die) : (x.modDie d f).graphJobs = x.graphJobs := by simp only [Mach.modDie]
@[simp] theorem Mach.modDie_press (x : Mach) (d : Nat) (f : Die → Die) : (x.modDie d f).press = x.press := by simp only [Mach.modDie]
@[simp] theorem Mach.modDie_brokenLinks (x : Mach) (d : Nat) (f : Die → Die) : (x.modDie d f).brokenLinks = x.brokenLinks := by simp only [Mach.modDie]
@[simp] theorem Mach.modDie_routes (x : Mach) (d : Nat) (f : Die → Die) : (x.modDie d f).routes = x.routes := by simp only [Mach.modDie]
@[simp] theorem Mach.modDie_lease (x : Mach) (d : Nat) (f : Die → Die) : (x.modDie d f).lease = x.lease := by simp only [Mach.modDie]
@[simp] theorem Mach.modDie_assign (x : Mach) (d : Nat) (f : Die → Die) : (x.modDie d f).assign = x.assign := by simp only [Mach.modDie]
@[simp] theorem Mach.modDie_ports (x : Mach) (d : Nat) (f : Die → Die) : (x.modDie d f).ports = x.ports := by simp only [Mach.modDie]
@[simp] theorem Mach.modDie_heldReqs (x : Mach) (d : Nat) (f : Die → Die) : (x.modDie d f).heldReqs = x.heldReqs := by simp only [Mach.modDie]
@[simp] theorem Mach.modDie_frames (x : Mach) (d : Nat) (f : Die → Die) : (x.modDie d f).frames = x.frames := by simp only [Mach.modDie]
@[simp] theorem Mach.modDie_msix (x : Mach) (d : Nat) (f : Die → Die) : (x.modDie d f).msix = x.msix := by simp only [Mach.modDie]
@[simp] theorem Mach.modDie_hostReads (x : Mach) (d : Nat) (f : Die → Die) : (x.modDie d f).hostReads = x.hostReads := by simp only [Mach.modDie]
@[simp] theorem Mach.modDie_freqs (x : Mach) (d : Nat) (f : Die → Die) : (x.modDie d f).freqs = x.freqs := by simp only [Mach.modDie]
@[simp] theorem Mach.modDie_temps (x : Mach) (d : Nat) (f : Die → Die) : (x.modDie d f).temps = x.temps := by simp only [Mach.modDie]
@[simp] theorem Mach.modDie_dieTemps (x : Mach) (d : Nat) (f : Die → Die) : (x.modDie d f).dieTemps = x.dieTemps := by simp only [Mach.modDie]
@[simp] theorem Mach.modDie_images (x : Mach) (d : Nat) (f : Die → Die) : (x.modDie d f).images = x.images := by simp only [Mach.modDie]
@[simp] theorem Mach.modDie_tried (x : Mach) (d : Nat) (f : Die → Die) : (x.modDie d f).tried = x.tried := by simp only [Mach.modDie]
@[simp] theorem Mach.modDie_seq (x : Mach) (d : Nat) (f : Die → Die) : (x.modDie d f).seq = x.seq := by simp only [Mach.modDie]
@[simp] theorem Mach.modDie_switched (x : Mach) (d : Nat) (f : Die → Die) : (x.modDie d f).switched = x.switched := by simp only [Mach.modDie]
@[simp] theorem Mach.modDie_applies (x : Mach) (d : Nat) (f : Die → Die) : (x.modDie d f).applies = x.applies := by simp only [Mach.modDie]
@[simp] theorem Mach.modDie_poweredDown (x : Mach) (d : Nat) (f : Die → Die) : (x.modDie d f).poweredDown = x.poweredDown := by simp only [Mach.modDie]
@[simp] theorem Mach.modDie_imageRefused (x : Mach) (d : Nat) (f : Die → Die) : (x.modDie d f).imageRefused = x.imageRefused := by simp only [Mach.modDie]
@[simp] theorem Mach.modCore_turn (x : Mach) (d c : Nat) (f : Core → Core) : (x.modCore d c f).turn = x.turn := by simp only [Mach.modCore, Mach.modDie]
@[simp] theorem Mach.modCore_inputs (x : Mach) (d c : Nat) (f : Core → Core) : (x.modCore d c f).inputs = x.inputs := by simp only [Mach.modCore, Mach.modDie]
@[simp] theorem Mach.modCore_unit (x : Mach) (d c : Nat) (f : Core → Core) : (x.modCore d c f).unit = x.unit := by simp only [Mach.modCore, Mach.modDie]
@[simp] theorem Mach.modCore_free (x : Mach) (d c : Nat) (f : Core → Core) : (x.modCore d c f).free = x.free := by simp only [Mach.modCore, Mach.modDie]
@[simp] theorem Mach.modCore_now (x : Mach) (d c : Nat) (f : Core → Core) : (x.modCore d c f).now = x.now := by simp only [Mach.modCore, Mach.modDie]
@[simp] theorem Mach.modCore_home (x : Mach) (d c : Nat) (f : Core → Core) : (x.modCore d c f).home = x.home := by simp only [Mach.modCore, Mach.modDie]
@[simp] theorem Mach.modCore_tags (x : Mach) (d c : Nat) (f : Core → Core) : (x.modCore d c f).tags = x.tags := by simp only [Mach.modCore, Mach.modDie]
@[simp] theorem Mach.modCore_poisoned (x : Mach) (d c : Nat) (f : Core → Core) : (x.modCore d c f).poisoned = x.poisoned := by simp only [Mach.modCore, Mach.modDie]
@[simp] theorem Mach.modCore_llcLines (x : Mach) (d c : Nat) (f : Core → Core) : (x.modCore d c f).llcLines = x.llcLines := by simp only [Mach.modCore, Mach.modDie]
@[simp] theorem Mach.modCore_llcDirty (x : Mach) (d c : Nat) (f : Core → Core) : (x.modCore d c f).llcDirty = x.llcDirty := by simp only [Mach.modCore, Mach.modDie]
@[simp] theorem Mach.modCore_domCur (x : Mach) (d c : Nat) (f : Core → Core) : (x.modCore d c f).domCur = x.domCur := by simp only [Mach.modCore, Mach.modDie]
@[simp] theorem Mach.modCore_domPend (x : Mach) (d c : Nat) (f : Core → Core) : (x.modCore d c f).domPend = x.domPend := by simp only [Mach.modCore, Mach.modDie]
@[simp] theorem Mach.modCore_switching (x : Mach) (d c : Nat) (f : Core → Core) : (x.modCore d c f).switching = x.switching := by simp only [Mach.modCore, Mach.modDie]
@[simp] theorem Mach.modCore_refused (x : Mach) (d c : Nat) (f : Core → Core) : (x.modCore d c f).refused = x.refused := by simp only [Mach.modCore, Mach.modDie]
@[simp] theorem Mach.modCore_pmap (x : Mach) (d c : Nat) (f : Core → Core) : (x.modCore d c f).pmap = x.pmap := by simp only [Mach.modCore, Mach.modDie]
@[simp] theorem Mach.modCore_cfg (x : Mach) (d c : Nat) (f : Core → Core) : (x.modCore d c f).cfg = x.cfg := by simp only [Mach.modCore, Mach.modDie]
@[simp] theorem Mach.modCore_grant (x : Mach) (d c : Nat) (f : Core → Core) : (x.modCore d c f).grant = x.grant := by simp only [Mach.modCore, Mach.modDie]
@[simp] theorem Mach.modCore_domBlock (x : Mach) (d c : Nat) (f : Core → Core) : (x.modCore d c f).domBlock = x.domBlock := by simp only [Mach.modCore, Mach.modDie]
@[simp] theorem Mach.modCore_parts (x : Mach) (d c : Nat) (f : Core → Core) : (x.modCore d c f).parts = x.parts := by simp only [Mach.modCore, Mach.modDie]
@[simp] theorem Mach.modCore_q0addr (x : Mach) (d c : Nat) (f : Core → Core) : (x.modCore d c f).q0addr = x.q0addr := by simp only [Mach.modCore, Mach.modDie]
@[simp] theorem Mach.modCore_contexts (x : Mach) (d c : Nat) (f : Core → Core) : (x.modCore d c f).contexts = x.contexts := by simp only [Mach.modCore, Mach.modDie]
@[simp] theorem Mach.modCore_teams (x : Mach) (d c : Nat) (f : Core → Core) : (x.modCore d c f).teams = x.teams := by simp only [Mach.modCore, Mach.modDie]
@[simp] theorem Mach.modCore_ops (x : Mach) (d c : Nat) (f : Core → Core) : (x.modCore d c f).ops = x.ops := by simp only [Mach.modCore, Mach.modDie]
@[simp] theorem Mach.modCore_plans (x : Mach) (d c : Nat) (f : Core → Core) : (x.modCore d c f).plans = x.plans := by simp only [Mach.modCore, Mach.modDie]
@[simp] theorem Mach.modCore_pipes (x : Mach) (d c : Nat) (f : Core → Core) : (x.modCore d c f).pipes = x.pipes := by simp only [Mach.modCore, Mach.modDie]
@[simp] theorem Mach.modCore_graphs (x : Mach) (d c : Nat) (f : Core → Core) : (x.modCore d c f).graphs = x.graphs := by simp only [Mach.modCore, Mach.modDie]
@[simp] theorem Mach.modCore_graphJobs (x : Mach) (d c : Nat) (f : Core → Core) : (x.modCore d c f).graphJobs = x.graphJobs := by simp only [Mach.modCore, Mach.modDie]
@[simp] theorem Mach.modCore_press (x : Mach) (d c : Nat) (f : Core → Core) : (x.modCore d c f).press = x.press := by simp only [Mach.modCore, Mach.modDie]
@[simp] theorem Mach.modCore_brokenLinks (x : Mach) (d c : Nat) (f : Core → Core) : (x.modCore d c f).brokenLinks = x.brokenLinks := by simp only [Mach.modCore, Mach.modDie]
@[simp] theorem Mach.modCore_routes (x : Mach) (d c : Nat) (f : Core → Core) : (x.modCore d c f).routes = x.routes := by simp only [Mach.modCore, Mach.modDie]
@[simp] theorem Mach.modCore_lease (x : Mach) (d c : Nat) (f : Core → Core) : (x.modCore d c f).lease = x.lease := by simp only [Mach.modCore, Mach.modDie]
@[simp] theorem Mach.modCore_assign (x : Mach) (d c : Nat) (f : Core → Core) : (x.modCore d c f).assign = x.assign := by simp only [Mach.modCore, Mach.modDie]
@[simp] theorem Mach.modCore_ports (x : Mach) (d c : Nat) (f : Core → Core) : (x.modCore d c f).ports = x.ports := by simp only [Mach.modCore, Mach.modDie]
@[simp] theorem Mach.modCore_heldReqs (x : Mach) (d c : Nat) (f : Core → Core) : (x.modCore d c f).heldReqs = x.heldReqs := by simp only [Mach.modCore, Mach.modDie]
@[simp] theorem Mach.modCore_frames (x : Mach) (d c : Nat) (f : Core → Core) : (x.modCore d c f).frames = x.frames := by simp only [Mach.modCore, Mach.modDie]
@[simp] theorem Mach.modCore_msix (x : Mach) (d c : Nat) (f : Core → Core) : (x.modCore d c f).msix = x.msix := by simp only [Mach.modCore, Mach.modDie]
@[simp] theorem Mach.modCore_hostReads (x : Mach) (d c : Nat) (f : Core → Core) : (x.modCore d c f).hostReads = x.hostReads := by simp only [Mach.modCore, Mach.modDie]
@[simp] theorem Mach.modCore_freqs (x : Mach) (d c : Nat) (f : Core → Core) : (x.modCore d c f).freqs = x.freqs := by simp only [Mach.modCore, Mach.modDie]
@[simp] theorem Mach.modCore_temps (x : Mach) (d c : Nat) (f : Core → Core) : (x.modCore d c f).temps = x.temps := by simp only [Mach.modCore, Mach.modDie]
@[simp] theorem Mach.modCore_dieTemps (x : Mach) (d c : Nat) (f : Core → Core) : (x.modCore d c f).dieTemps = x.dieTemps := by simp only [Mach.modCore, Mach.modDie]
@[simp] theorem Mach.modCore_images (x : Mach) (d c : Nat) (f : Core → Core) : (x.modCore d c f).images = x.images := by simp only [Mach.modCore, Mach.modDie]
@[simp] theorem Mach.modCore_tried (x : Mach) (d c : Nat) (f : Core → Core) : (x.modCore d c f).tried = x.tried := by simp only [Mach.modCore, Mach.modDie]
@[simp] theorem Mach.modCore_seq (x : Mach) (d c : Nat) (f : Core → Core) : (x.modCore d c f).seq = x.seq := by simp only [Mach.modCore, Mach.modDie]
@[simp] theorem Mach.modCore_switched (x : Mach) (d c : Nat) (f : Core → Core) : (x.modCore d c f).switched = x.switched := by simp only [Mach.modCore, Mach.modDie]
@[simp] theorem Mach.modCore_applies (x : Mach) (d c : Nat) (f : Core → Core) : (x.modCore d c f).applies = x.applies := by simp only [Mach.modCore, Mach.modDie]
@[simp] theorem Mach.modCore_poweredDown (x : Mach) (d c : Nat) (f : Core → Core) : (x.modCore d c f).poweredDown = x.poweredDown := by simp only [Mach.modCore, Mach.modDie]
@[simp] theorem Mach.modCore_imageRefused (x : Mach) (d c : Nat) (f : Core → Core) : (x.modCore d c f).imageRefused = x.imageRefused := by simp only [Mach.modCore, Mach.modDie]
@[simp] theorem Mach.modTeam_turn (x : Mach) (t : Nat) (f : Team → Team) : (x.modTeam t f).turn = x.turn := by simp only [Mach.modTeam]
@[simp] theorem Mach.modTeam_inputs (x : Mach) (t : Nat) (f : Team → Team) : (x.modTeam t f).inputs = x.inputs := by simp only [Mach.modTeam]
@[simp] theorem Mach.modTeam_unit (x : Mach) (t : Nat) (f : Team → Team) : (x.modTeam t f).unit = x.unit := by simp only [Mach.modTeam]
@[simp] theorem Mach.modTeam_free (x : Mach) (t : Nat) (f : Team → Team) : (x.modTeam t f).free = x.free := by simp only [Mach.modTeam]
@[simp] theorem Mach.modTeam_now (x : Mach) (t : Nat) (f : Team → Team) : (x.modTeam t f).now = x.now := by simp only [Mach.modTeam]
@[simp] theorem Mach.modTeam_home (x : Mach) (t : Nat) (f : Team → Team) : (x.modTeam t f).home = x.home := by simp only [Mach.modTeam]
@[simp] theorem Mach.modTeam_tags (x : Mach) (t : Nat) (f : Team → Team) : (x.modTeam t f).tags = x.tags := by simp only [Mach.modTeam]
@[simp] theorem Mach.modTeam_poisoned (x : Mach) (t : Nat) (f : Team → Team) : (x.modTeam t f).poisoned = x.poisoned := by simp only [Mach.modTeam]
@[simp] theorem Mach.modTeam_llcLines (x : Mach) (t : Nat) (f : Team → Team) : (x.modTeam t f).llcLines = x.llcLines := by simp only [Mach.modTeam]
@[simp] theorem Mach.modTeam_llcDirty (x : Mach) (t : Nat) (f : Team → Team) : (x.modTeam t f).llcDirty = x.llcDirty := by simp only [Mach.modTeam]
@[simp] theorem Mach.modTeam_dies (x : Mach) (t : Nat) (f : Team → Team) : (x.modTeam t f).dies = x.dies := by simp only [Mach.modTeam]
@[simp] theorem Mach.modTeam_domCur (x : Mach) (t : Nat) (f : Team → Team) : (x.modTeam t f).domCur = x.domCur := by simp only [Mach.modTeam]
@[simp] theorem Mach.modTeam_domPend (x : Mach) (t : Nat) (f : Team → Team) : (x.modTeam t f).domPend = x.domPend := by simp only [Mach.modTeam]
@[simp] theorem Mach.modTeam_switching (x : Mach) (t : Nat) (f : Team → Team) : (x.modTeam t f).switching = x.switching := by simp only [Mach.modTeam]
@[simp] theorem Mach.modTeam_refused (x : Mach) (t : Nat) (f : Team → Team) : (x.modTeam t f).refused = x.refused := by simp only [Mach.modTeam]
@[simp] theorem Mach.modTeam_pmap (x : Mach) (t : Nat) (f : Team → Team) : (x.modTeam t f).pmap = x.pmap := by simp only [Mach.modTeam]
@[simp] theorem Mach.modTeam_cfg (x : Mach) (t : Nat) (f : Team → Team) : (x.modTeam t f).cfg = x.cfg := by simp only [Mach.modTeam]
@[simp] theorem Mach.modTeam_grant (x : Mach) (t : Nat) (f : Team → Team) : (x.modTeam t f).grant = x.grant := by simp only [Mach.modTeam]
@[simp] theorem Mach.modTeam_domBlock (x : Mach) (t : Nat) (f : Team → Team) : (x.modTeam t f).domBlock = x.domBlock := by simp only [Mach.modTeam]
@[simp] theorem Mach.modTeam_parts (x : Mach) (t : Nat) (f : Team → Team) : (x.modTeam t f).parts = x.parts := by simp only [Mach.modTeam]
@[simp] theorem Mach.modTeam_q0addr (x : Mach) (t : Nat) (f : Team → Team) : (x.modTeam t f).q0addr = x.q0addr := by simp only [Mach.modTeam]
@[simp] theorem Mach.modTeam_contexts (x : Mach) (t : Nat) (f : Team → Team) : (x.modTeam t f).contexts = x.contexts := by simp only [Mach.modTeam]
@[simp] theorem Mach.modTeam_ops (x : Mach) (t : Nat) (f : Team → Team) : (x.modTeam t f).ops = x.ops := by simp only [Mach.modTeam]
@[simp] theorem Mach.modTeam_plans (x : Mach) (t : Nat) (f : Team → Team) : (x.modTeam t f).plans = x.plans := by simp only [Mach.modTeam]
@[simp] theorem Mach.modTeam_pipes (x : Mach) (t : Nat) (f : Team → Team) : (x.modTeam t f).pipes = x.pipes := by simp only [Mach.modTeam]
@[simp] theorem Mach.modTeam_graphs (x : Mach) (t : Nat) (f : Team → Team) : (x.modTeam t f).graphs = x.graphs := by simp only [Mach.modTeam]
@[simp] theorem Mach.modTeam_graphJobs (x : Mach) (t : Nat) (f : Team → Team) : (x.modTeam t f).graphJobs = x.graphJobs := by simp only [Mach.modTeam]
@[simp] theorem Mach.modTeam_press (x : Mach) (t : Nat) (f : Team → Team) : (x.modTeam t f).press = x.press := by simp only [Mach.modTeam]
@[simp] theorem Mach.modTeam_brokenLinks (x : Mach) (t : Nat) (f : Team → Team) : (x.modTeam t f).brokenLinks = x.brokenLinks := by simp only [Mach.modTeam]
@[simp] theorem Mach.modTeam_routes (x : Mach) (t : Nat) (f : Team → Team) : (x.modTeam t f).routes = x.routes := by simp only [Mach.modTeam]
@[simp] theorem Mach.modTeam_lease (x : Mach) (t : Nat) (f : Team → Team) : (x.modTeam t f).lease = x.lease := by simp only [Mach.modTeam]
@[simp] theorem Mach.modTeam_assign (x : Mach) (t : Nat) (f : Team → Team) : (x.modTeam t f).assign = x.assign := by simp only [Mach.modTeam]
@[simp] theorem Mach.modTeam_ports (x : Mach) (t : Nat) (f : Team → Team) : (x.modTeam t f).ports = x.ports := by simp only [Mach.modTeam]
@[simp] theorem Mach.modTeam_heldReqs (x : Mach) (t : Nat) (f : Team → Team) : (x.modTeam t f).heldReqs = x.heldReqs := by simp only [Mach.modTeam]
@[simp] theorem Mach.modTeam_frames (x : Mach) (t : Nat) (f : Team → Team) : (x.modTeam t f).frames = x.frames := by simp only [Mach.modTeam]
@[simp] theorem Mach.modTeam_msix (x : Mach) (t : Nat) (f : Team → Team) : (x.modTeam t f).msix = x.msix := by simp only [Mach.modTeam]
@[simp] theorem Mach.modTeam_hostReads (x : Mach) (t : Nat) (f : Team → Team) : (x.modTeam t f).hostReads = x.hostReads := by simp only [Mach.modTeam]
@[simp] theorem Mach.modTeam_freqs (x : Mach) (t : Nat) (f : Team → Team) : (x.modTeam t f).freqs = x.freqs := by simp only [Mach.modTeam]
@[simp] theorem Mach.modTeam_temps (x : Mach) (t : Nat) (f : Team → Team) : (x.modTeam t f).temps = x.temps := by simp only [Mach.modTeam]
@[simp] theorem Mach.modTeam_dieTemps (x : Mach) (t : Nat) (f : Team → Team) : (x.modTeam t f).dieTemps = x.dieTemps := by simp only [Mach.modTeam]
@[simp] theorem Mach.modTeam_images (x : Mach) (t : Nat) (f : Team → Team) : (x.modTeam t f).images = x.images := by simp only [Mach.modTeam]
@[simp] theorem Mach.modTeam_tried (x : Mach) (t : Nat) (f : Team → Team) : (x.modTeam t f).tried = x.tried := by simp only [Mach.modTeam]
@[simp] theorem Mach.modTeam_seq (x : Mach) (t : Nat) (f : Team → Team) : (x.modTeam t f).seq = x.seq := by simp only [Mach.modTeam]
@[simp] theorem Mach.modTeam_switched (x : Mach) (t : Nat) (f : Team → Team) : (x.modTeam t f).switched = x.switched := by simp only [Mach.modTeam]
@[simp] theorem Mach.modTeam_applies (x : Mach) (t : Nat) (f : Team → Team) : (x.modTeam t f).applies = x.applies := by simp only [Mach.modTeam]
@[simp] theorem Mach.modTeam_poweredDown (x : Mach) (t : Nat) (f : Team → Team) : (x.modTeam t f).poweredDown = x.poweredDown := by simp only [Mach.modTeam]
@[simp] theorem Mach.modTeam_imageRefused (x : Mach) (t : Nat) (f : Team → Team) : (x.modTeam t f).imageRefused = x.imageRefused := by simp only [Mach.modTeam]
@[simp] theorem Mach.modWarp_turn (x : Mach) (t w : Nat) (f : Warp → Warp) : (x.modWarp t w f).turn = x.turn := by simp only [Mach.modWarp, Mach.modTeam]
@[simp] theorem Mach.modWarp_inputs (x : Mach) (t w : Nat) (f : Warp → Warp) : (x.modWarp t w f).inputs = x.inputs := by simp only [Mach.modWarp, Mach.modTeam]
@[simp] theorem Mach.modWarp_unit (x : Mach) (t w : Nat) (f : Warp → Warp) : (x.modWarp t w f).unit = x.unit := by simp only [Mach.modWarp, Mach.modTeam]
@[simp] theorem Mach.modWarp_free (x : Mach) (t w : Nat) (f : Warp → Warp) : (x.modWarp t w f).free = x.free := by simp only [Mach.modWarp, Mach.modTeam]
@[simp] theorem Mach.modWarp_now (x : Mach) (t w : Nat) (f : Warp → Warp) : (x.modWarp t w f).now = x.now := by simp only [Mach.modWarp, Mach.modTeam]
@[simp] theorem Mach.modWarp_home (x : Mach) (t w : Nat) (f : Warp → Warp) : (x.modWarp t w f).home = x.home := by simp only [Mach.modWarp, Mach.modTeam]
@[simp] theorem Mach.modWarp_tags (x : Mach) (t w : Nat) (f : Warp → Warp) : (x.modWarp t w f).tags = x.tags := by simp only [Mach.modWarp, Mach.modTeam]
@[simp] theorem Mach.modWarp_poisoned (x : Mach) (t w : Nat) (f : Warp → Warp) : (x.modWarp t w f).poisoned = x.poisoned := by simp only [Mach.modWarp, Mach.modTeam]
@[simp] theorem Mach.modWarp_llcLines (x : Mach) (t w : Nat) (f : Warp → Warp) : (x.modWarp t w f).llcLines = x.llcLines := by simp only [Mach.modWarp, Mach.modTeam]
@[simp] theorem Mach.modWarp_llcDirty (x : Mach) (t w : Nat) (f : Warp → Warp) : (x.modWarp t w f).llcDirty = x.llcDirty := by simp only [Mach.modWarp, Mach.modTeam]
@[simp] theorem Mach.modWarp_dies (x : Mach) (t w : Nat) (f : Warp → Warp) : (x.modWarp t w f).dies = x.dies := by simp only [Mach.modWarp, Mach.modTeam]
@[simp] theorem Mach.modWarp_domCur (x : Mach) (t w : Nat) (f : Warp → Warp) : (x.modWarp t w f).domCur = x.domCur := by simp only [Mach.modWarp, Mach.modTeam]
@[simp] theorem Mach.modWarp_domPend (x : Mach) (t w : Nat) (f : Warp → Warp) : (x.modWarp t w f).domPend = x.domPend := by simp only [Mach.modWarp, Mach.modTeam]
@[simp] theorem Mach.modWarp_switching (x : Mach) (t w : Nat) (f : Warp → Warp) : (x.modWarp t w f).switching = x.switching := by simp only [Mach.modWarp, Mach.modTeam]
@[simp] theorem Mach.modWarp_refused (x : Mach) (t w : Nat) (f : Warp → Warp) : (x.modWarp t w f).refused = x.refused := by simp only [Mach.modWarp, Mach.modTeam]
@[simp] theorem Mach.modWarp_pmap (x : Mach) (t w : Nat) (f : Warp → Warp) : (x.modWarp t w f).pmap = x.pmap := by simp only [Mach.modWarp, Mach.modTeam]
@[simp] theorem Mach.modWarp_cfg (x : Mach) (t w : Nat) (f : Warp → Warp) : (x.modWarp t w f).cfg = x.cfg := by simp only [Mach.modWarp, Mach.modTeam]
@[simp] theorem Mach.modWarp_grant (x : Mach) (t w : Nat) (f : Warp → Warp) : (x.modWarp t w f).grant = x.grant := by simp only [Mach.modWarp, Mach.modTeam]
@[simp] theorem Mach.modWarp_domBlock (x : Mach) (t w : Nat) (f : Warp → Warp) : (x.modWarp t w f).domBlock = x.domBlock := by simp only [Mach.modWarp, Mach.modTeam]
@[simp] theorem Mach.modWarp_parts (x : Mach) (t w : Nat) (f : Warp → Warp) : (x.modWarp t w f).parts = x.parts := by simp only [Mach.modWarp, Mach.modTeam]
@[simp] theorem Mach.modWarp_q0addr (x : Mach) (t w : Nat) (f : Warp → Warp) : (x.modWarp t w f).q0addr = x.q0addr := by simp only [Mach.modWarp, Mach.modTeam]
@[simp] theorem Mach.modWarp_contexts (x : Mach) (t w : Nat) (f : Warp → Warp) : (x.modWarp t w f).contexts = x.contexts := by simp only [Mach.modWarp, Mach.modTeam]
@[simp] theorem Mach.modWarp_ops (x : Mach) (t w : Nat) (f : Warp → Warp) : (x.modWarp t w f).ops = x.ops := by simp only [Mach.modWarp, Mach.modTeam]
@[simp] theorem Mach.modWarp_plans (x : Mach) (t w : Nat) (f : Warp → Warp) : (x.modWarp t w f).plans = x.plans := by simp only [Mach.modWarp, Mach.modTeam]
@[simp] theorem Mach.modWarp_pipes (x : Mach) (t w : Nat) (f : Warp → Warp) : (x.modWarp t w f).pipes = x.pipes := by simp only [Mach.modWarp, Mach.modTeam]
@[simp] theorem Mach.modWarp_graphs (x : Mach) (t w : Nat) (f : Warp → Warp) : (x.modWarp t w f).graphs = x.graphs := by simp only [Mach.modWarp, Mach.modTeam]
@[simp] theorem Mach.modWarp_graphJobs (x : Mach) (t w : Nat) (f : Warp → Warp) : (x.modWarp t w f).graphJobs = x.graphJobs := by simp only [Mach.modWarp, Mach.modTeam]
@[simp] theorem Mach.modWarp_press (x : Mach) (t w : Nat) (f : Warp → Warp) : (x.modWarp t w f).press = x.press := by simp only [Mach.modWarp, Mach.modTeam]
@[simp] theorem Mach.modWarp_brokenLinks (x : Mach) (t w : Nat) (f : Warp → Warp) : (x.modWarp t w f).brokenLinks = x.brokenLinks := by simp only [Mach.modWarp, Mach.modTeam]
@[simp] theorem Mach.modWarp_routes (x : Mach) (t w : Nat) (f : Warp → Warp) : (x.modWarp t w f).routes = x.routes := by simp only [Mach.modWarp, Mach.modTeam]
@[simp] theorem Mach.modWarp_lease (x : Mach) (t w : Nat) (f : Warp → Warp) : (x.modWarp t w f).lease = x.lease := by simp only [Mach.modWarp, Mach.modTeam]
@[simp] theorem Mach.modWarp_assign (x : Mach) (t w : Nat) (f : Warp → Warp) : (x.modWarp t w f).assign = x.assign := by simp only [Mach.modWarp, Mach.modTeam]
@[simp] theorem Mach.modWarp_ports (x : Mach) (t w : Nat) (f : Warp → Warp) : (x.modWarp t w f).ports = x.ports := by simp only [Mach.modWarp, Mach.modTeam]
@[simp] theorem Mach.modWarp_heldReqs (x : Mach) (t w : Nat) (f : Warp → Warp) : (x.modWarp t w f).heldReqs = x.heldReqs := by simp only [Mach.modWarp, Mach.modTeam]
@[simp] theorem Mach.modWarp_frames (x : Mach) (t w : Nat) (f : Warp → Warp) : (x.modWarp t w f).frames = x.frames := by simp only [Mach.modWarp, Mach.modTeam]
@[simp] theorem Mach.modWarp_msix (x : Mach) (t w : Nat) (f : Warp → Warp) : (x.modWarp t w f).msix = x.msix := by simp only [Mach.modWarp, Mach.modTeam]
@[simp] theorem Mach.modWarp_hostReads (x : Mach) (t w : Nat) (f : Warp → Warp) : (x.modWarp t w f).hostReads = x.hostReads := by simp only [Mach.modWarp, Mach.modTeam]
@[simp] theorem Mach.modWarp_freqs (x : Mach) (t w : Nat) (f : Warp → Warp) : (x.modWarp t w f).freqs = x.freqs := by simp only [Mach.modWarp, Mach.modTeam]
@[simp] theorem Mach.modWarp_temps (x : Mach) (t w : Nat) (f : Warp → Warp) : (x.modWarp t w f).temps = x.temps := by simp only [Mach.modWarp, Mach.modTeam]
@[simp] theorem Mach.modWarp_dieTemps (x : Mach) (t w : Nat) (f : Warp → Warp) : (x.modWarp t w f).dieTemps = x.dieTemps := by simp only [Mach.modWarp, Mach.modTeam]
@[simp] theorem Mach.modWarp_images (x : Mach) (t w : Nat) (f : Warp → Warp) : (x.modWarp t w f).images = x.images := by simp only [Mach.modWarp, Mach.modTeam]
@[simp] theorem Mach.modWarp_tried (x : Mach) (t w : Nat) (f : Warp → Warp) : (x.modWarp t w f).tried = x.tried := by simp only [Mach.modWarp, Mach.modTeam]
@[simp] theorem Mach.modWarp_seq (x : Mach) (t w : Nat) (f : Warp → Warp) : (x.modWarp t w f).seq = x.seq := by simp only [Mach.modWarp, Mach.modTeam]
@[simp] theorem Mach.modWarp_switched (x : Mach) (t w : Nat) (f : Warp → Warp) : (x.modWarp t w f).switched = x.switched := by simp only [Mach.modWarp, Mach.modTeam]
@[simp] theorem Mach.modWarp_applies (x : Mach) (t w : Nat) (f : Warp → Warp) : (x.modWarp t w f).applies = x.applies := by simp only [Mach.modWarp, Mach.modTeam]
@[simp] theorem Mach.modWarp_poweredDown (x : Mach) (t w : Nat) (f : Warp → Warp) : (x.modWarp t w f).poweredDown = x.poweredDown := by simp only [Mach.modWarp, Mach.modTeam]
@[simp] theorem Mach.modWarp_imageRefused (x : Mach) (t w : Nat) (f : Warp → Warp) : (x.modWarp t w f).imageRefused = x.imageRefused := by simp only [Mach.modWarp, Mach.modTeam]
@[simp] theorem Mach.setWarp_turn (x : Mach) (g : Issue) (y : Warp) : (x.setWarp g y).turn = x.turn := by simp only [Mach.setWarp, Mach.modWarp, Mach.modTeam]
@[simp] theorem Mach.setWarp_inputs (x : Mach) (g : Issue) (y : Warp) : (x.setWarp g y).inputs = x.inputs := by simp only [Mach.setWarp, Mach.modWarp, Mach.modTeam]
@[simp] theorem Mach.setWarp_unit (x : Mach) (g : Issue) (y : Warp) : (x.setWarp g y).unit = x.unit := by simp only [Mach.setWarp, Mach.modWarp, Mach.modTeam]
@[simp] theorem Mach.setWarp_free (x : Mach) (g : Issue) (y : Warp) : (x.setWarp g y).free = x.free := by simp only [Mach.setWarp, Mach.modWarp, Mach.modTeam]
@[simp] theorem Mach.setWarp_now (x : Mach) (g : Issue) (y : Warp) : (x.setWarp g y).now = x.now := by simp only [Mach.setWarp, Mach.modWarp, Mach.modTeam]
@[simp] theorem Mach.setWarp_home (x : Mach) (g : Issue) (y : Warp) : (x.setWarp g y).home = x.home := by simp only [Mach.setWarp, Mach.modWarp, Mach.modTeam]
@[simp] theorem Mach.setWarp_tags (x : Mach) (g : Issue) (y : Warp) : (x.setWarp g y).tags = x.tags := by simp only [Mach.setWarp, Mach.modWarp, Mach.modTeam]
@[simp] theorem Mach.setWarp_poisoned (x : Mach) (g : Issue) (y : Warp) : (x.setWarp g y).poisoned = x.poisoned := by simp only [Mach.setWarp, Mach.modWarp, Mach.modTeam]
@[simp] theorem Mach.setWarp_llcLines (x : Mach) (g : Issue) (y : Warp) : (x.setWarp g y).llcLines = x.llcLines := by simp only [Mach.setWarp, Mach.modWarp, Mach.modTeam]
@[simp] theorem Mach.setWarp_llcDirty (x : Mach) (g : Issue) (y : Warp) : (x.setWarp g y).llcDirty = x.llcDirty := by simp only [Mach.setWarp, Mach.modWarp, Mach.modTeam]
@[simp] theorem Mach.setWarp_dies (x : Mach) (g : Issue) (y : Warp) : (x.setWarp g y).dies = x.dies := by simp only [Mach.setWarp, Mach.modWarp, Mach.modTeam]
@[simp] theorem Mach.setWarp_domCur (x : Mach) (g : Issue) (y : Warp) : (x.setWarp g y).domCur = x.domCur := by simp only [Mach.setWarp, Mach.modWarp, Mach.modTeam]
@[simp] theorem Mach.setWarp_domPend (x : Mach) (g : Issue) (y : Warp) : (x.setWarp g y).domPend = x.domPend := by simp only [Mach.setWarp, Mach.modWarp, Mach.modTeam]
@[simp] theorem Mach.setWarp_switching (x : Mach) (g : Issue) (y : Warp) : (x.setWarp g y).switching = x.switching := by simp only [Mach.setWarp, Mach.modWarp, Mach.modTeam]
@[simp] theorem Mach.setWarp_refused (x : Mach) (g : Issue) (y : Warp) : (x.setWarp g y).refused = x.refused := by simp only [Mach.setWarp, Mach.modWarp, Mach.modTeam]
@[simp] theorem Mach.setWarp_pmap (x : Mach) (g : Issue) (y : Warp) : (x.setWarp g y).pmap = x.pmap := by simp only [Mach.setWarp, Mach.modWarp, Mach.modTeam]
@[simp] theorem Mach.setWarp_cfg (x : Mach) (g : Issue) (y : Warp) : (x.setWarp g y).cfg = x.cfg := by simp only [Mach.setWarp, Mach.modWarp, Mach.modTeam]
@[simp] theorem Mach.setWarp_grant (x : Mach) (g : Issue) (y : Warp) : (x.setWarp g y).grant = x.grant := by simp only [Mach.setWarp, Mach.modWarp, Mach.modTeam]
@[simp] theorem Mach.setWarp_domBlock (x : Mach) (g : Issue) (y : Warp) : (x.setWarp g y).domBlock = x.domBlock := by simp only [Mach.setWarp, Mach.modWarp, Mach.modTeam]
@[simp] theorem Mach.setWarp_parts (x : Mach) (g : Issue) (y : Warp) : (x.setWarp g y).parts = x.parts := by simp only [Mach.setWarp, Mach.modWarp, Mach.modTeam]
@[simp] theorem Mach.setWarp_q0addr (x : Mach) (g : Issue) (y : Warp) : (x.setWarp g y).q0addr = x.q0addr := by simp only [Mach.setWarp, Mach.modWarp, Mach.modTeam]
@[simp] theorem Mach.setWarp_contexts (x : Mach) (g : Issue) (y : Warp) : (x.setWarp g y).contexts = x.contexts := by simp only [Mach.setWarp, Mach.modWarp, Mach.modTeam]
@[simp] theorem Mach.setWarp_ops (x : Mach) (g : Issue) (y : Warp) : (x.setWarp g y).ops = x.ops := by simp only [Mach.setWarp, Mach.modWarp, Mach.modTeam]
@[simp] theorem Mach.setWarp_plans (x : Mach) (g : Issue) (y : Warp) : (x.setWarp g y).plans = x.plans := by simp only [Mach.setWarp, Mach.modWarp, Mach.modTeam]
@[simp] theorem Mach.setWarp_pipes (x : Mach) (g : Issue) (y : Warp) : (x.setWarp g y).pipes = x.pipes := by simp only [Mach.setWarp, Mach.modWarp, Mach.modTeam]
@[simp] theorem Mach.setWarp_graphs (x : Mach) (g : Issue) (y : Warp) : (x.setWarp g y).graphs = x.graphs := by simp only [Mach.setWarp, Mach.modWarp, Mach.modTeam]
@[simp] theorem Mach.setWarp_graphJobs (x : Mach) (g : Issue) (y : Warp) : (x.setWarp g y).graphJobs = x.graphJobs := by simp only [Mach.setWarp, Mach.modWarp, Mach.modTeam]
@[simp] theorem Mach.setWarp_press (x : Mach) (g : Issue) (y : Warp) : (x.setWarp g y).press = x.press := by simp only [Mach.setWarp, Mach.modWarp, Mach.modTeam]
@[simp] theorem Mach.setWarp_brokenLinks (x : Mach) (g : Issue) (y : Warp) : (x.setWarp g y).brokenLinks = x.brokenLinks := by simp only [Mach.setWarp, Mach.modWarp, Mach.modTeam]
@[simp] theorem Mach.setWarp_routes (x : Mach) (g : Issue) (y : Warp) : (x.setWarp g y).routes = x.routes := by simp only [Mach.setWarp, Mach.modWarp, Mach.modTeam]
@[simp] theorem Mach.setWarp_lease (x : Mach) (g : Issue) (y : Warp) : (x.setWarp g y).lease = x.lease := by simp only [Mach.setWarp, Mach.modWarp, Mach.modTeam]
@[simp] theorem Mach.setWarp_assign (x : Mach) (g : Issue) (y : Warp) : (x.setWarp g y).assign = x.assign := by simp only [Mach.setWarp, Mach.modWarp, Mach.modTeam]
@[simp] theorem Mach.setWarp_ports (x : Mach) (g : Issue) (y : Warp) : (x.setWarp g y).ports = x.ports := by simp only [Mach.setWarp, Mach.modWarp, Mach.modTeam]
@[simp] theorem Mach.setWarp_heldReqs (x : Mach) (g : Issue) (y : Warp) : (x.setWarp g y).heldReqs = x.heldReqs := by simp only [Mach.setWarp, Mach.modWarp, Mach.modTeam]
@[simp] theorem Mach.setWarp_frames (x : Mach) (g : Issue) (y : Warp) : (x.setWarp g y).frames = x.frames := by simp only [Mach.setWarp, Mach.modWarp, Mach.modTeam]
@[simp] theorem Mach.setWarp_msix (x : Mach) (g : Issue) (y : Warp) : (x.setWarp g y).msix = x.msix := by simp only [Mach.setWarp, Mach.modWarp, Mach.modTeam]
@[simp] theorem Mach.setWarp_hostReads (x : Mach) (g : Issue) (y : Warp) : (x.setWarp g y).hostReads = x.hostReads := by simp only [Mach.setWarp, Mach.modWarp, Mach.modTeam]
@[simp] theorem Mach.setWarp_freqs (x : Mach) (g : Issue) (y : Warp) : (x.setWarp g y).freqs = x.freqs := by simp only [Mach.setWarp, Mach.modWarp, Mach.modTeam]
@[simp] theorem Mach.setWarp_temps (x : Mach) (g : Issue) (y : Warp) : (x.setWarp g y).temps = x.temps := by simp only [Mach.setWarp, Mach.modWarp, Mach.modTeam]
@[simp] theorem Mach.setWarp_dieTemps (x : Mach) (g : Issue) (y : Warp) : (x.setWarp g y).dieTemps = x.dieTemps := by simp only [Mach.setWarp, Mach.modWarp, Mach.modTeam]
@[simp] theorem Mach.setWarp_images (x : Mach) (g : Issue) (y : Warp) : (x.setWarp g y).images = x.images := by simp only [Mach.setWarp, Mach.modWarp, Mach.modTeam]
@[simp] theorem Mach.setWarp_tried (x : Mach) (g : Issue) (y : Warp) : (x.setWarp g y).tried = x.tried := by simp only [Mach.setWarp, Mach.modWarp, Mach.modTeam]
@[simp] theorem Mach.setWarp_seq (x : Mach) (g : Issue) (y : Warp) : (x.setWarp g y).seq = x.seq := by simp only [Mach.setWarp, Mach.modWarp, Mach.modTeam]
@[simp] theorem Mach.setWarp_switched (x : Mach) (g : Issue) (y : Warp) : (x.setWarp g y).switched = x.switched := by simp only [Mach.setWarp, Mach.modWarp, Mach.modTeam]
@[simp] theorem Mach.setWarp_applies (x : Mach) (g : Issue) (y : Warp) : (x.setWarp g y).applies = x.applies := by simp only [Mach.setWarp, Mach.modWarp, Mach.modTeam]
@[simp] theorem Mach.setWarp_poweredDown (x : Mach) (g : Issue) (y : Warp) : (x.setWarp g y).poweredDown = x.poweredDown := by simp only [Mach.setWarp, Mach.modWarp, Mach.modTeam]
@[simp] theorem Mach.setWarp_imageRefused (x : Mach) (g : Issue) (y : Warp) : (x.setWarp g y).imageRefused = x.imageRefused := by simp only [Mach.setWarp, Mach.modWarp, Mach.modTeam]
@[simp] theorem Mach.modCtx_turn (x : Mach) (c : Nat) (f : Context → Context) : (x.modCtx c f).turn = x.turn := by simp only [Mach.modCtx]
@[simp] theorem Mach.modCtx_inputs (x : Mach) (c : Nat) (f : Context → Context) : (x.modCtx c f).inputs = x.inputs := by simp only [Mach.modCtx]
@[simp] theorem Mach.modCtx_unit (x : Mach) (c : Nat) (f : Context → Context) : (x.modCtx c f).unit = x.unit := by simp only [Mach.modCtx]
@[simp] theorem Mach.modCtx_free (x : Mach) (c : Nat) (f : Context → Context) : (x.modCtx c f).free = x.free := by simp only [Mach.modCtx]
@[simp] theorem Mach.modCtx_now (x : Mach) (c : Nat) (f : Context → Context) : (x.modCtx c f).now = x.now := by simp only [Mach.modCtx]
@[simp] theorem Mach.modCtx_home (x : Mach) (c : Nat) (f : Context → Context) : (x.modCtx c f).home = x.home := by simp only [Mach.modCtx]
@[simp] theorem Mach.modCtx_tags (x : Mach) (c : Nat) (f : Context → Context) : (x.modCtx c f).tags = x.tags := by simp only [Mach.modCtx]
@[simp] theorem Mach.modCtx_poisoned (x : Mach) (c : Nat) (f : Context → Context) : (x.modCtx c f).poisoned = x.poisoned := by simp only [Mach.modCtx]
@[simp] theorem Mach.modCtx_llcLines (x : Mach) (c : Nat) (f : Context → Context) : (x.modCtx c f).llcLines = x.llcLines := by simp only [Mach.modCtx]
@[simp] theorem Mach.modCtx_llcDirty (x : Mach) (c : Nat) (f : Context → Context) : (x.modCtx c f).llcDirty = x.llcDirty := by simp only [Mach.modCtx]
@[simp] theorem Mach.modCtx_dies (x : Mach) (c : Nat) (f : Context → Context) : (x.modCtx c f).dies = x.dies := by simp only [Mach.modCtx]
@[simp] theorem Mach.modCtx_domCur (x : Mach) (c : Nat) (f : Context → Context) : (x.modCtx c f).domCur = x.domCur := by simp only [Mach.modCtx]
@[simp] theorem Mach.modCtx_domPend (x : Mach) (c : Nat) (f : Context → Context) : (x.modCtx c f).domPend = x.domPend := by simp only [Mach.modCtx]
@[simp] theorem Mach.modCtx_switching (x : Mach) (c : Nat) (f : Context → Context) : (x.modCtx c f).switching = x.switching := by simp only [Mach.modCtx]
@[simp] theorem Mach.modCtx_refused (x : Mach) (c : Nat) (f : Context → Context) : (x.modCtx c f).refused = x.refused := by simp only [Mach.modCtx]
@[simp] theorem Mach.modCtx_pmap (x : Mach) (c : Nat) (f : Context → Context) : (x.modCtx c f).pmap = x.pmap := by simp only [Mach.modCtx]
@[simp] theorem Mach.modCtx_cfg (x : Mach) (c : Nat) (f : Context → Context) : (x.modCtx c f).cfg = x.cfg := by simp only [Mach.modCtx]
@[simp] theorem Mach.modCtx_grant (x : Mach) (c : Nat) (f : Context → Context) : (x.modCtx c f).grant = x.grant := by simp only [Mach.modCtx]
@[simp] theorem Mach.modCtx_domBlock (x : Mach) (c : Nat) (f : Context → Context) : (x.modCtx c f).domBlock = x.domBlock := by simp only [Mach.modCtx]
@[simp] theorem Mach.modCtx_parts (x : Mach) (c : Nat) (f : Context → Context) : (x.modCtx c f).parts = x.parts := by simp only [Mach.modCtx]
@[simp] theorem Mach.modCtx_q0addr (x : Mach) (c : Nat) (f : Context → Context) : (x.modCtx c f).q0addr = x.q0addr := by simp only [Mach.modCtx]
@[simp] theorem Mach.modCtx_teams (x : Mach) (c : Nat) (f : Context → Context) : (x.modCtx c f).teams = x.teams := by simp only [Mach.modCtx]
@[simp] theorem Mach.modCtx_ops (x : Mach) (c : Nat) (f : Context → Context) : (x.modCtx c f).ops = x.ops := by simp only [Mach.modCtx]
@[simp] theorem Mach.modCtx_plans (x : Mach) (c : Nat) (f : Context → Context) : (x.modCtx c f).plans = x.plans := by simp only [Mach.modCtx]
@[simp] theorem Mach.modCtx_pipes (x : Mach) (c : Nat) (f : Context → Context) : (x.modCtx c f).pipes = x.pipes := by simp only [Mach.modCtx]
@[simp] theorem Mach.modCtx_graphs (x : Mach) (c : Nat) (f : Context → Context) : (x.modCtx c f).graphs = x.graphs := by simp only [Mach.modCtx]
@[simp] theorem Mach.modCtx_graphJobs (x : Mach) (c : Nat) (f : Context → Context) : (x.modCtx c f).graphJobs = x.graphJobs := by simp only [Mach.modCtx]
@[simp] theorem Mach.modCtx_press (x : Mach) (c : Nat) (f : Context → Context) : (x.modCtx c f).press = x.press := by simp only [Mach.modCtx]
@[simp] theorem Mach.modCtx_brokenLinks (x : Mach) (c : Nat) (f : Context → Context) : (x.modCtx c f).brokenLinks = x.brokenLinks := by simp only [Mach.modCtx]
@[simp] theorem Mach.modCtx_routes (x : Mach) (c : Nat) (f : Context → Context) : (x.modCtx c f).routes = x.routes := by simp only [Mach.modCtx]
@[simp] theorem Mach.modCtx_lease (x : Mach) (c : Nat) (f : Context → Context) : (x.modCtx c f).lease = x.lease := by simp only [Mach.modCtx]
@[simp] theorem Mach.modCtx_assign (x : Mach) (c : Nat) (f : Context → Context) : (x.modCtx c f).assign = x.assign := by simp only [Mach.modCtx]
@[simp] theorem Mach.modCtx_ports (x : Mach) (c : Nat) (f : Context → Context) : (x.modCtx c f).ports = x.ports := by simp only [Mach.modCtx]
@[simp] theorem Mach.modCtx_heldReqs (x : Mach) (c : Nat) (f : Context → Context) : (x.modCtx c f).heldReqs = x.heldReqs := by simp only [Mach.modCtx]
@[simp] theorem Mach.modCtx_frames (x : Mach) (c : Nat) (f : Context → Context) : (x.modCtx c f).frames = x.frames := by simp only [Mach.modCtx]
@[simp] theorem Mach.modCtx_msix (x : Mach) (c : Nat) (f : Context → Context) : (x.modCtx c f).msix = x.msix := by simp only [Mach.modCtx]
@[simp] theorem Mach.modCtx_hostReads (x : Mach) (c : Nat) (f : Context → Context) : (x.modCtx c f).hostReads = x.hostReads := by simp only [Mach.modCtx]
@[simp] theorem Mach.modCtx_freqs (x : Mach) (c : Nat) (f : Context → Context) : (x.modCtx c f).freqs = x.freqs := by simp only [Mach.modCtx]
@[simp] theorem Mach.modCtx_temps (x : Mach) (c : Nat) (f : Context → Context) : (x.modCtx c f).temps = x.temps := by simp only [Mach.modCtx]
@[simp] theorem Mach.modCtx_dieTemps (x : Mach) (c : Nat) (f : Context → Context) : (x.modCtx c f).dieTemps = x.dieTemps := by simp only [Mach.modCtx]
@[simp] theorem Mach.modCtx_images (x : Mach) (c : Nat) (f : Context → Context) : (x.modCtx c f).images = x.images := by simp only [Mach.modCtx]
@[simp] theorem Mach.modCtx_tried (x : Mach) (c : Nat) (f : Context → Context) : (x.modCtx c f).tried = x.tried := by simp only [Mach.modCtx]
@[simp] theorem Mach.modCtx_seq (x : Mach) (c : Nat) (f : Context → Context) : (x.modCtx c f).seq = x.seq := by simp only [Mach.modCtx]
@[simp] theorem Mach.modCtx_switched (x : Mach) (c : Nat) (f : Context → Context) : (x.modCtx c f).switched = x.switched := by simp only [Mach.modCtx]
@[simp] theorem Mach.modCtx_applies (x : Mach) (c : Nat) (f : Context → Context) : (x.modCtx c f).applies = x.applies := by simp only [Mach.modCtx]
@[simp] theorem Mach.modCtx_poweredDown (x : Mach) (c : Nat) (f : Context → Context) : (x.modCtx c f).poweredDown = x.poweredDown := by simp only [Mach.modCtx]
@[simp] theorem Mach.modCtx_imageRefused (x : Mach) (c : Nat) (f : Context → Context) : (x.modCtx c f).imageRefused = x.imageRefused := by simp only [Mach.modCtx]
@[simp] theorem Mach.modPart_turn (x : Mach) (p : Nat) (f : Partition → Partition) : (x.modPart p f).turn = x.turn := by simp only [Mach.modPart]
@[simp] theorem Mach.modPart_inputs (x : Mach) (p : Nat) (f : Partition → Partition) : (x.modPart p f).inputs = x.inputs := by simp only [Mach.modPart]
@[simp] theorem Mach.modPart_unit (x : Mach) (p : Nat) (f : Partition → Partition) : (x.modPart p f).unit = x.unit := by simp only [Mach.modPart]
@[simp] theorem Mach.modPart_free (x : Mach) (p : Nat) (f : Partition → Partition) : (x.modPart p f).free = x.free := by simp only [Mach.modPart]
@[simp] theorem Mach.modPart_now (x : Mach) (p : Nat) (f : Partition → Partition) : (x.modPart p f).now = x.now := by simp only [Mach.modPart]
@[simp] theorem Mach.modPart_home (x : Mach) (p : Nat) (f : Partition → Partition) : (x.modPart p f).home = x.home := by simp only [Mach.modPart]
@[simp] theorem Mach.modPart_tags (x : Mach) (p : Nat) (f : Partition → Partition) : (x.modPart p f).tags = x.tags := by simp only [Mach.modPart]
@[simp] theorem Mach.modPart_poisoned (x : Mach) (p : Nat) (f : Partition → Partition) : (x.modPart p f).poisoned = x.poisoned := by simp only [Mach.modPart]
@[simp] theorem Mach.modPart_llcLines (x : Mach) (p : Nat) (f : Partition → Partition) : (x.modPart p f).llcLines = x.llcLines := by simp only [Mach.modPart]
@[simp] theorem Mach.modPart_llcDirty (x : Mach) (p : Nat) (f : Partition → Partition) : (x.modPart p f).llcDirty = x.llcDirty := by simp only [Mach.modPart]
@[simp] theorem Mach.modPart_dies (x : Mach) (p : Nat) (f : Partition → Partition) : (x.modPart p f).dies = x.dies := by simp only [Mach.modPart]
@[simp] theorem Mach.modPart_domCur (x : Mach) (p : Nat) (f : Partition → Partition) : (x.modPart p f).domCur = x.domCur := by simp only [Mach.modPart]
@[simp] theorem Mach.modPart_domPend (x : Mach) (p : Nat) (f : Partition → Partition) : (x.modPart p f).domPend = x.domPend := by simp only [Mach.modPart]
@[simp] theorem Mach.modPart_switching (x : Mach) (p : Nat) (f : Partition → Partition) : (x.modPart p f).switching = x.switching := by simp only [Mach.modPart]
@[simp] theorem Mach.modPart_refused (x : Mach) (p : Nat) (f : Partition → Partition) : (x.modPart p f).refused = x.refused := by simp only [Mach.modPart]
@[simp] theorem Mach.modPart_pmap (x : Mach) (p : Nat) (f : Partition → Partition) : (x.modPart p f).pmap = x.pmap := by simp only [Mach.modPart]
@[simp] theorem Mach.modPart_cfg (x : Mach) (p : Nat) (f : Partition → Partition) : (x.modPart p f).cfg = x.cfg := by simp only [Mach.modPart]
@[simp] theorem Mach.modPart_grant (x : Mach) (p : Nat) (f : Partition → Partition) : (x.modPart p f).grant = x.grant := by simp only [Mach.modPart]
@[simp] theorem Mach.modPart_domBlock (x : Mach) (p : Nat) (f : Partition → Partition) : (x.modPart p f).domBlock = x.domBlock := by simp only [Mach.modPart]
@[simp] theorem Mach.modPart_q0addr (x : Mach) (p : Nat) (f : Partition → Partition) : (x.modPart p f).q0addr = x.q0addr := by simp only [Mach.modPart]
@[simp] theorem Mach.modPart_contexts (x : Mach) (p : Nat) (f : Partition → Partition) : (x.modPart p f).contexts = x.contexts := by simp only [Mach.modPart]
@[simp] theorem Mach.modPart_teams (x : Mach) (p : Nat) (f : Partition → Partition) : (x.modPart p f).teams = x.teams := by simp only [Mach.modPart]
@[simp] theorem Mach.modPart_ops (x : Mach) (p : Nat) (f : Partition → Partition) : (x.modPart p f).ops = x.ops := by simp only [Mach.modPart]
@[simp] theorem Mach.modPart_plans (x : Mach) (p : Nat) (f : Partition → Partition) : (x.modPart p f).plans = x.plans := by simp only [Mach.modPart]
@[simp] theorem Mach.modPart_pipes (x : Mach) (p : Nat) (f : Partition → Partition) : (x.modPart p f).pipes = x.pipes := by simp only [Mach.modPart]
@[simp] theorem Mach.modPart_graphs (x : Mach) (p : Nat) (f : Partition → Partition) : (x.modPart p f).graphs = x.graphs := by simp only [Mach.modPart]
@[simp] theorem Mach.modPart_graphJobs (x : Mach) (p : Nat) (f : Partition → Partition) : (x.modPart p f).graphJobs = x.graphJobs := by simp only [Mach.modPart]
@[simp] theorem Mach.modPart_press (x : Mach) (p : Nat) (f : Partition → Partition) : (x.modPart p f).press = x.press := by simp only [Mach.modPart]
@[simp] theorem Mach.modPart_brokenLinks (x : Mach) (p : Nat) (f : Partition → Partition) : (x.modPart p f).brokenLinks = x.brokenLinks := by simp only [Mach.modPart]
@[simp] theorem Mach.modPart_routes (x : Mach) (p : Nat) (f : Partition → Partition) : (x.modPart p f).routes = x.routes := by simp only [Mach.modPart]
@[simp] theorem Mach.modPart_lease (x : Mach) (p : Nat) (f : Partition → Partition) : (x.modPart p f).lease = x.lease := by simp only [Mach.modPart]
@[simp] theorem Mach.modPart_assign (x : Mach) (p : Nat) (f : Partition → Partition) : (x.modPart p f).assign = x.assign := by simp only [Mach.modPart]
@[simp] theorem Mach.modPart_ports (x : Mach) (p : Nat) (f : Partition → Partition) : (x.modPart p f).ports = x.ports := by simp only [Mach.modPart]
@[simp] theorem Mach.modPart_heldReqs (x : Mach) (p : Nat) (f : Partition → Partition) : (x.modPart p f).heldReqs = x.heldReqs := by simp only [Mach.modPart]
@[simp] theorem Mach.modPart_frames (x : Mach) (p : Nat) (f : Partition → Partition) : (x.modPart p f).frames = x.frames := by simp only [Mach.modPart]
@[simp] theorem Mach.modPart_msix (x : Mach) (p : Nat) (f : Partition → Partition) : (x.modPart p f).msix = x.msix := by simp only [Mach.modPart]
@[simp] theorem Mach.modPart_hostReads (x : Mach) (p : Nat) (f : Partition → Partition) : (x.modPart p f).hostReads = x.hostReads := by simp only [Mach.modPart]
@[simp] theorem Mach.modPart_freqs (x : Mach) (p : Nat) (f : Partition → Partition) : (x.modPart p f).freqs = x.freqs := by simp only [Mach.modPart]
@[simp] theorem Mach.modPart_temps (x : Mach) (p : Nat) (f : Partition → Partition) : (x.modPart p f).temps = x.temps := by simp only [Mach.modPart]
@[simp] theorem Mach.modPart_dieTemps (x : Mach) (p : Nat) (f : Partition → Partition) : (x.modPart p f).dieTemps = x.dieTemps := by simp only [Mach.modPart]
@[simp] theorem Mach.modPart_images (x : Mach) (p : Nat) (f : Partition → Partition) : (x.modPart p f).images = x.images := by simp only [Mach.modPart]
@[simp] theorem Mach.modPart_tried (x : Mach) (p : Nat) (f : Partition → Partition) : (x.modPart p f).tried = x.tried := by simp only [Mach.modPart]
@[simp] theorem Mach.modPart_seq (x : Mach) (p : Nat) (f : Partition → Partition) : (x.modPart p f).seq = x.seq := by simp only [Mach.modPart]
@[simp] theorem Mach.modPart_switched (x : Mach) (p : Nat) (f : Partition → Partition) : (x.modPart p f).switched = x.switched := by simp only [Mach.modPart]
@[simp] theorem Mach.modPart_applies (x : Mach) (p : Nat) (f : Partition → Partition) : (x.modPart p f).applies = x.applies := by simp only [Mach.modPart]
@[simp] theorem Mach.modPart_poweredDown (x : Mach) (p : Nat) (f : Partition → Partition) : (x.modPart p f).poweredDown = x.poweredDown := by simp only [Mach.modPart]
@[simp] theorem Mach.modPart_imageRefused (x : Mach) (p : Nat) (f : Partition → Partition) : (x.modPart p f).imageRefused = x.imageRefused := by simp only [Mach.modPart]
@[simp] theorem Mach.modJob_turn (x : Mach) (p j : Nat) (f : Job → Job) : (x.modJob p j f).turn = x.turn := by simp only [Mach.modJob, Mach.modPart]
@[simp] theorem Mach.modJob_inputs (x : Mach) (p j : Nat) (f : Job → Job) : (x.modJob p j f).inputs = x.inputs := by simp only [Mach.modJob, Mach.modPart]
@[simp] theorem Mach.modJob_unit (x : Mach) (p j : Nat) (f : Job → Job) : (x.modJob p j f).unit = x.unit := by simp only [Mach.modJob, Mach.modPart]
@[simp] theorem Mach.modJob_free (x : Mach) (p j : Nat) (f : Job → Job) : (x.modJob p j f).free = x.free := by simp only [Mach.modJob, Mach.modPart]
@[simp] theorem Mach.modJob_now (x : Mach) (p j : Nat) (f : Job → Job) : (x.modJob p j f).now = x.now := by simp only [Mach.modJob, Mach.modPart]
@[simp] theorem Mach.modJob_home (x : Mach) (p j : Nat) (f : Job → Job) : (x.modJob p j f).home = x.home := by simp only [Mach.modJob, Mach.modPart]
@[simp] theorem Mach.modJob_tags (x : Mach) (p j : Nat) (f : Job → Job) : (x.modJob p j f).tags = x.tags := by simp only [Mach.modJob, Mach.modPart]
@[simp] theorem Mach.modJob_poisoned (x : Mach) (p j : Nat) (f : Job → Job) : (x.modJob p j f).poisoned = x.poisoned := by simp only [Mach.modJob, Mach.modPart]
@[simp] theorem Mach.modJob_llcLines (x : Mach) (p j : Nat) (f : Job → Job) : (x.modJob p j f).llcLines = x.llcLines := by simp only [Mach.modJob, Mach.modPart]
@[simp] theorem Mach.modJob_llcDirty (x : Mach) (p j : Nat) (f : Job → Job) : (x.modJob p j f).llcDirty = x.llcDirty := by simp only [Mach.modJob, Mach.modPart]
@[simp] theorem Mach.modJob_dies (x : Mach) (p j : Nat) (f : Job → Job) : (x.modJob p j f).dies = x.dies := by simp only [Mach.modJob, Mach.modPart]
@[simp] theorem Mach.modJob_domCur (x : Mach) (p j : Nat) (f : Job → Job) : (x.modJob p j f).domCur = x.domCur := by simp only [Mach.modJob, Mach.modPart]
@[simp] theorem Mach.modJob_domPend (x : Mach) (p j : Nat) (f : Job → Job) : (x.modJob p j f).domPend = x.domPend := by simp only [Mach.modJob, Mach.modPart]
@[simp] theorem Mach.modJob_switching (x : Mach) (p j : Nat) (f : Job → Job) : (x.modJob p j f).switching = x.switching := by simp only [Mach.modJob, Mach.modPart]
@[simp] theorem Mach.modJob_refused (x : Mach) (p j : Nat) (f : Job → Job) : (x.modJob p j f).refused = x.refused := by simp only [Mach.modJob, Mach.modPart]
@[simp] theorem Mach.modJob_pmap (x : Mach) (p j : Nat) (f : Job → Job) : (x.modJob p j f).pmap = x.pmap := by simp only [Mach.modJob, Mach.modPart]
@[simp] theorem Mach.modJob_cfg (x : Mach) (p j : Nat) (f : Job → Job) : (x.modJob p j f).cfg = x.cfg := by simp only [Mach.modJob, Mach.modPart]
@[simp] theorem Mach.modJob_grant (x : Mach) (p j : Nat) (f : Job → Job) : (x.modJob p j f).grant = x.grant := by simp only [Mach.modJob, Mach.modPart]
@[simp] theorem Mach.modJob_domBlock (x : Mach) (p j : Nat) (f : Job → Job) : (x.modJob p j f).domBlock = x.domBlock := by simp only [Mach.modJob, Mach.modPart]
@[simp] theorem Mach.modJob_q0addr (x : Mach) (p j : Nat) (f : Job → Job) : (x.modJob p j f).q0addr = x.q0addr := by simp only [Mach.modJob, Mach.modPart]
@[simp] theorem Mach.modJob_contexts (x : Mach) (p j : Nat) (f : Job → Job) : (x.modJob p j f).contexts = x.contexts := by simp only [Mach.modJob, Mach.modPart]
@[simp] theorem Mach.modJob_teams (x : Mach) (p j : Nat) (f : Job → Job) : (x.modJob p j f).teams = x.teams := by simp only [Mach.modJob, Mach.modPart]
@[simp] theorem Mach.modJob_ops (x : Mach) (p j : Nat) (f : Job → Job) : (x.modJob p j f).ops = x.ops := by simp only [Mach.modJob, Mach.modPart]
@[simp] theorem Mach.modJob_plans (x : Mach) (p j : Nat) (f : Job → Job) : (x.modJob p j f).plans = x.plans := by simp only [Mach.modJob, Mach.modPart]
@[simp] theorem Mach.modJob_pipes (x : Mach) (p j : Nat) (f : Job → Job) : (x.modJob p j f).pipes = x.pipes := by simp only [Mach.modJob, Mach.modPart]
@[simp] theorem Mach.modJob_graphs (x : Mach) (p j : Nat) (f : Job → Job) : (x.modJob p j f).graphs = x.graphs := by simp only [Mach.modJob, Mach.modPart]
@[simp] theorem Mach.modJob_graphJobs (x : Mach) (p j : Nat) (f : Job → Job) : (x.modJob p j f).graphJobs = x.graphJobs := by simp only [Mach.modJob, Mach.modPart]
@[simp] theorem Mach.modJob_press (x : Mach) (p j : Nat) (f : Job → Job) : (x.modJob p j f).press = x.press := by simp only [Mach.modJob, Mach.modPart]
@[simp] theorem Mach.modJob_brokenLinks (x : Mach) (p j : Nat) (f : Job → Job) : (x.modJob p j f).brokenLinks = x.brokenLinks := by simp only [Mach.modJob, Mach.modPart]
@[simp] theorem Mach.modJob_routes (x : Mach) (p j : Nat) (f : Job → Job) : (x.modJob p j f).routes = x.routes := by simp only [Mach.modJob, Mach.modPart]
@[simp] theorem Mach.modJob_lease (x : Mach) (p j : Nat) (f : Job → Job) : (x.modJob p j f).lease = x.lease := by simp only [Mach.modJob, Mach.modPart]
@[simp] theorem Mach.modJob_assign (x : Mach) (p j : Nat) (f : Job → Job) : (x.modJob p j f).assign = x.assign := by simp only [Mach.modJob, Mach.modPart]
@[simp] theorem Mach.modJob_ports (x : Mach) (p j : Nat) (f : Job → Job) : (x.modJob p j f).ports = x.ports := by simp only [Mach.modJob, Mach.modPart]
@[simp] theorem Mach.modJob_heldReqs (x : Mach) (p j : Nat) (f : Job → Job) : (x.modJob p j f).heldReqs = x.heldReqs := by simp only [Mach.modJob, Mach.modPart]
@[simp] theorem Mach.modJob_frames (x : Mach) (p j : Nat) (f : Job → Job) : (x.modJob p j f).frames = x.frames := by simp only [Mach.modJob, Mach.modPart]
@[simp] theorem Mach.modJob_msix (x : Mach) (p j : Nat) (f : Job → Job) : (x.modJob p j f).msix = x.msix := by simp only [Mach.modJob, Mach.modPart]
@[simp] theorem Mach.modJob_hostReads (x : Mach) (p j : Nat) (f : Job → Job) : (x.modJob p j f).hostReads = x.hostReads := by simp only [Mach.modJob, Mach.modPart]
@[simp] theorem Mach.modJob_freqs (x : Mach) (p j : Nat) (f : Job → Job) : (x.modJob p j f).freqs = x.freqs := by simp only [Mach.modJob, Mach.modPart]
@[simp] theorem Mach.modJob_temps (x : Mach) (p j : Nat) (f : Job → Job) : (x.modJob p j f).temps = x.temps := by simp only [Mach.modJob, Mach.modPart]
@[simp] theorem Mach.modJob_dieTemps (x : Mach) (p j : Nat) (f : Job → Job) : (x.modJob p j f).dieTemps = x.dieTemps := by simp only [Mach.modJob, Mach.modPart]
@[simp] theorem Mach.modJob_images (x : Mach) (p j : Nat) (f : Job → Job) : (x.modJob p j f).images = x.images := by simp only [Mach.modJob, Mach.modPart]
@[simp] theorem Mach.modJob_tried (x : Mach) (p j : Nat) (f : Job → Job) : (x.modJob p j f).tried = x.tried := by simp only [Mach.modJob, Mach.modPart]
@[simp] theorem Mach.modJob_seq (x : Mach) (p j : Nat) (f : Job → Job) : (x.modJob p j f).seq = x.seq := by simp only [Mach.modJob, Mach.modPart]
@[simp] theorem Mach.modJob_switched (x : Mach) (p j : Nat) (f : Job → Job) : (x.modJob p j f).switched = x.switched := by simp only [Mach.modJob, Mach.modPart]
@[simp] theorem Mach.modJob_applies (x : Mach) (p j : Nat) (f : Job → Job) : (x.modJob p j f).applies = x.applies := by simp only [Mach.modJob, Mach.modPart]
@[simp] theorem Mach.modJob_poweredDown (x : Mach) (p j : Nat) (f : Job → Job) : (x.modJob p j f).poweredDown = x.poweredDown := by simp only [Mach.modJob, Mach.modPart]
@[simp] theorem Mach.modJob_imageRefused (x : Mach) (p j : Nat) (f : Job → Job) : (x.modJob p j f).imageRefused = x.imageRefused := by simp only [Mach.modJob, Mach.modPart]
@[simp] theorem Mach.modPipe_turn (x : Mach) (n : Nat) (f : Pipe → Pipe) : (x.modPipe n f).turn = x.turn := by simp only [Mach.modPipe]
@[simp] theorem Mach.modPipe_inputs (x : Mach) (n : Nat) (f : Pipe → Pipe) : (x.modPipe n f).inputs = x.inputs := by simp only [Mach.modPipe]
@[simp] theorem Mach.modPipe_unit (x : Mach) (n : Nat) (f : Pipe → Pipe) : (x.modPipe n f).unit = x.unit := by simp only [Mach.modPipe]
@[simp] theorem Mach.modPipe_free (x : Mach) (n : Nat) (f : Pipe → Pipe) : (x.modPipe n f).free = x.free := by simp only [Mach.modPipe]
@[simp] theorem Mach.modPipe_now (x : Mach) (n : Nat) (f : Pipe → Pipe) : (x.modPipe n f).now = x.now := by simp only [Mach.modPipe]
@[simp] theorem Mach.modPipe_home (x : Mach) (n : Nat) (f : Pipe → Pipe) : (x.modPipe n f).home = x.home := by simp only [Mach.modPipe]
@[simp] theorem Mach.modPipe_tags (x : Mach) (n : Nat) (f : Pipe → Pipe) : (x.modPipe n f).tags = x.tags := by simp only [Mach.modPipe]
@[simp] theorem Mach.modPipe_poisoned (x : Mach) (n : Nat) (f : Pipe → Pipe) : (x.modPipe n f).poisoned = x.poisoned := by simp only [Mach.modPipe]
@[simp] theorem Mach.modPipe_llcLines (x : Mach) (n : Nat) (f : Pipe → Pipe) : (x.modPipe n f).llcLines = x.llcLines := by simp only [Mach.modPipe]
@[simp] theorem Mach.modPipe_llcDirty (x : Mach) (n : Nat) (f : Pipe → Pipe) : (x.modPipe n f).llcDirty = x.llcDirty := by simp only [Mach.modPipe]
@[simp] theorem Mach.modPipe_dies (x : Mach) (n : Nat) (f : Pipe → Pipe) : (x.modPipe n f).dies = x.dies := by simp only [Mach.modPipe]
@[simp] theorem Mach.modPipe_domCur (x : Mach) (n : Nat) (f : Pipe → Pipe) : (x.modPipe n f).domCur = x.domCur := by simp only [Mach.modPipe]
@[simp] theorem Mach.modPipe_domPend (x : Mach) (n : Nat) (f : Pipe → Pipe) : (x.modPipe n f).domPend = x.domPend := by simp only [Mach.modPipe]
@[simp] theorem Mach.modPipe_switching (x : Mach) (n : Nat) (f : Pipe → Pipe) : (x.modPipe n f).switching = x.switching := by simp only [Mach.modPipe]
@[simp] theorem Mach.modPipe_refused (x : Mach) (n : Nat) (f : Pipe → Pipe) : (x.modPipe n f).refused = x.refused := by simp only [Mach.modPipe]
@[simp] theorem Mach.modPipe_pmap (x : Mach) (n : Nat) (f : Pipe → Pipe) : (x.modPipe n f).pmap = x.pmap := by simp only [Mach.modPipe]
@[simp] theorem Mach.modPipe_cfg (x : Mach) (n : Nat) (f : Pipe → Pipe) : (x.modPipe n f).cfg = x.cfg := by simp only [Mach.modPipe]
@[simp] theorem Mach.modPipe_grant (x : Mach) (n : Nat) (f : Pipe → Pipe) : (x.modPipe n f).grant = x.grant := by simp only [Mach.modPipe]
@[simp] theorem Mach.modPipe_domBlock (x : Mach) (n : Nat) (f : Pipe → Pipe) : (x.modPipe n f).domBlock = x.domBlock := by simp only [Mach.modPipe]
@[simp] theorem Mach.modPipe_parts (x : Mach) (n : Nat) (f : Pipe → Pipe) : (x.modPipe n f).parts = x.parts := by simp only [Mach.modPipe]
@[simp] theorem Mach.modPipe_q0addr (x : Mach) (n : Nat) (f : Pipe → Pipe) : (x.modPipe n f).q0addr = x.q0addr := by simp only [Mach.modPipe]
@[simp] theorem Mach.modPipe_contexts (x : Mach) (n : Nat) (f : Pipe → Pipe) : (x.modPipe n f).contexts = x.contexts := by simp only [Mach.modPipe]
@[simp] theorem Mach.modPipe_teams (x : Mach) (n : Nat) (f : Pipe → Pipe) : (x.modPipe n f).teams = x.teams := by simp only [Mach.modPipe]
@[simp] theorem Mach.modPipe_ops (x : Mach) (n : Nat) (f : Pipe → Pipe) : (x.modPipe n f).ops = x.ops := by simp only [Mach.modPipe]
@[simp] theorem Mach.modPipe_plans (x : Mach) (n : Nat) (f : Pipe → Pipe) : (x.modPipe n f).plans = x.plans := by simp only [Mach.modPipe]
@[simp] theorem Mach.modPipe_graphs (x : Mach) (n : Nat) (f : Pipe → Pipe) : (x.modPipe n f).graphs = x.graphs := by simp only [Mach.modPipe]
@[simp] theorem Mach.modPipe_graphJobs (x : Mach) (n : Nat) (f : Pipe → Pipe) : (x.modPipe n f).graphJobs = x.graphJobs := by simp only [Mach.modPipe]
@[simp] theorem Mach.modPipe_press (x : Mach) (n : Nat) (f : Pipe → Pipe) : (x.modPipe n f).press = x.press := by simp only [Mach.modPipe]
@[simp] theorem Mach.modPipe_brokenLinks (x : Mach) (n : Nat) (f : Pipe → Pipe) : (x.modPipe n f).brokenLinks = x.brokenLinks := by simp only [Mach.modPipe]
@[simp] theorem Mach.modPipe_routes (x : Mach) (n : Nat) (f : Pipe → Pipe) : (x.modPipe n f).routes = x.routes := by simp only [Mach.modPipe]
@[simp] theorem Mach.modPipe_lease (x : Mach) (n : Nat) (f : Pipe → Pipe) : (x.modPipe n f).lease = x.lease := by simp only [Mach.modPipe]
@[simp] theorem Mach.modPipe_assign (x : Mach) (n : Nat) (f : Pipe → Pipe) : (x.modPipe n f).assign = x.assign := by simp only [Mach.modPipe]
@[simp] theorem Mach.modPipe_ports (x : Mach) (n : Nat) (f : Pipe → Pipe) : (x.modPipe n f).ports = x.ports := by simp only [Mach.modPipe]
@[simp] theorem Mach.modPipe_heldReqs (x : Mach) (n : Nat) (f : Pipe → Pipe) : (x.modPipe n f).heldReqs = x.heldReqs := by simp only [Mach.modPipe]
@[simp] theorem Mach.modPipe_frames (x : Mach) (n : Nat) (f : Pipe → Pipe) : (x.modPipe n f).frames = x.frames := by simp only [Mach.modPipe]
@[simp] theorem Mach.modPipe_msix (x : Mach) (n : Nat) (f : Pipe → Pipe) : (x.modPipe n f).msix = x.msix := by simp only [Mach.modPipe]
@[simp] theorem Mach.modPipe_hostReads (x : Mach) (n : Nat) (f : Pipe → Pipe) : (x.modPipe n f).hostReads = x.hostReads := by simp only [Mach.modPipe]
@[simp] theorem Mach.modPipe_freqs (x : Mach) (n : Nat) (f : Pipe → Pipe) : (x.modPipe n f).freqs = x.freqs := by simp only [Mach.modPipe]
@[simp] theorem Mach.modPipe_temps (x : Mach) (n : Nat) (f : Pipe → Pipe) : (x.modPipe n f).temps = x.temps := by simp only [Mach.modPipe]
@[simp] theorem Mach.modPipe_dieTemps (x : Mach) (n : Nat) (f : Pipe → Pipe) : (x.modPipe n f).dieTemps = x.dieTemps := by simp only [Mach.modPipe]
@[simp] theorem Mach.modPipe_images (x : Mach) (n : Nat) (f : Pipe → Pipe) : (x.modPipe n f).images = x.images := by simp only [Mach.modPipe]
@[simp] theorem Mach.modPipe_tried (x : Mach) (n : Nat) (f : Pipe → Pipe) : (x.modPipe n f).tried = x.tried := by simp only [Mach.modPipe]
@[simp] theorem Mach.modPipe_seq (x : Mach) (n : Nat) (f : Pipe → Pipe) : (x.modPipe n f).seq = x.seq := by simp only [Mach.modPipe]
@[simp] theorem Mach.modPipe_switched (x : Mach) (n : Nat) (f : Pipe → Pipe) : (x.modPipe n f).switched = x.switched := by simp only [Mach.modPipe]
@[simp] theorem Mach.modPipe_applies (x : Mach) (n : Nat) (f : Pipe → Pipe) : (x.modPipe n f).applies = x.applies := by simp only [Mach.modPipe]
@[simp] theorem Mach.modPipe_poweredDown (x : Mach) (n : Nat) (f : Pipe → Pipe) : (x.modPipe n f).poweredDown = x.poweredDown := by simp only [Mach.modPipe]
@[simp] theorem Mach.modPipe_imageRefused (x : Mach) (n : Nat) (f : Pipe → Pipe) : (x.modPipe n f).imageRefused = x.imageRefused := by simp only [Mach.modPipe]

end Sys2Proof.Machine
end

