-- ==== Sys2Proof/Laws/Issue.lean ====
section
/-! SUPPORT. What the shared shapes of a meaning do: an instruction that the tests at issue admit runs, one that they turn away takes
its trap or waits; what a retirement leaves. -/

namespace Sys2Proof.Machine

/-- The tests at issue pass exactly where no condition of issue stops the instruction. -/
theorem Admits.gate {m : Mach} {g : Issue} {i : Instr} (h : Admits m g i) : g.gate i i.uses = .pass := by
  simp [Issue.gate, h.region, h.pairs, h.belowV, h.privilege, h.latches, h.ready, h.order, h.sound]

/-- An instruction that is admitted runs. -/
theorem issue_admits {s : State} {g : Issue} {i : Instr} (run : Mach → Issue → Mach) (h : Admits s.m g i) :
    issue i s run = .next { s with m := run s.m g } := by
  simp [issue, issueWith, withIssuer, onMach, h.issues, h.gate]

theorem issueOperand_admits {s : State} {g : Issue} {i : Instr} (imm : Bool) (bad : Mach → Issue → Bool) (run : Mach → Issue → Mach)
    (h : Admits s.m g i) (hb : bad s.m g = false) : issueOperand i s imm bad run = .next { s with m := run s.m g } := by
  simp [issueOperand, Mach.issueChecked, withIssuer, onMach, h.issues, h.gate, hb]

/-- What the test of a reserved operand adds to the tests at issue. -/
theorem Mach.issueChecked_pass {m : Mach} {g : Issue} {i : Instr} {u : Uses} (imm bad : Bool) (run : Mach → Mach) (h : g.gate i u = .pass) :
    m.issueChecked g i u imm bad run = if bad then m.illegal g i .reservedOperand else run m := by
  simp only [Mach.issueChecked, h]

theorem Mach.issueChecked_trap {m : Mach} {g : Issue} {i : Instr} {u : Uses} {r : TrapRec} (imm : Bool) (run : Mach → Mach)
    (h : g.gate i u = .trap r) : m.issueChecked g i u imm false run = m.trap g i r := by
  simp [Mach.issueChecked, h]

theorem Mach.issueChecked_wait {m : Mach} {g : Issue} {i : Instr} {u : Uses} (imm bad : Bool) (run : Mach → Mach) (h : g.gate i u = .wait) :
    m.issueChecked g i u imm bad run = m.stall g := by
  simp only [Mach.issueChecked, h]

theorem issueLast_admits {s : State} {g : Issue} {i : Instr} (run : Mach → Issue → Mach) (h : AdmitsLast s.m g i) :
    issueLast i s run = .next { s with m := run s.m g } := by
  simp [issueLast, issue_admits _ h.toAdmits, h.alone]

/-- An instruction of the issuing gang answers a next state whatever the tests at issue say. -/
theorem issue_next {s : State} {g : Issue} (i : Instr) (run : Mach → Issue → Mach) (h : s.m.issuer = some g) :
    ∃ m, issue i s run = .next { s with m := m } := by
  simp only [issue, issueWith, withIssuer, onMach, h]
  cases g.gate i i.uses <;> exact ⟨_, rfl⟩

/-- Without an issuing gang an encoded instruction stops. -/
theorem issue_noIssuer {s : State} (i : Instr) (run : Mach → Issue → Mach) (h : s.m.issuer = none) :
    issue i s run = .fault .noIssuer := by
  simp [issue, issueWith, withIssuer, onMach, h]

theorem always_next (s : State) (f : Mach → Mach) : always s f = .next { s with m := f s.m } := rfl

/-! ### Retirement -/

theorem Warp.countMeld_still (x : Warp) : x.countMeld.still = x.still := by
  unfold Warp.countMeld
  cases h : x.meld with
  | none => rfl
  | some r => simp [Warp.still, h]

theorem Warp.skidOn_still (x : Warp) (u : Uses) : (x.skidOn u).still = x.still := by
  unfold Warp.skidOn
  split
  · rfl
  · simp [Warp.still]

theorem Warp.chainOn_still (x : Warp) (u : Uses) (head : Nat) (gang : BitVec 8) : (x.chainOn u head gang).still = x.still := by
  unfold Warp.chainOn
  split
  · simp [Warp.still, Warp.noLatch]
  · split <;> simp [Warp.still]

theorem Warp.settle_still (x : Warp) (u : Uses) (head : Nat) (gang : BitVec 8) : (x.settle u head gang).still = x.still := by
  have : (x.settle u head gang).still = ((x.chainOn u head gang).skidOn u).countMeld.still := by simp only [Warp.settle, Warp.still]
  rw [this, Warp.countMeld_still, Warp.skidOn_still, Warp.chainOn_still]

theorem Warp.setPc_still (x : Warp) (gang : BitVec 8) (pc : Nat) : (x.setPc gang pc).still = x.still := by
  have h : ∀ j : Fin 8, ({ (x.setPc gang pc).slices.at j with pc := 0 } : Slice) = { x.slices.at j with pc := 0 } := by
    intro j
    simp only [Warp.setPc, tab_at]
    split <;> rfl
  simp only [Warp.still, h]
  simp only [Warp.setPc]

theorem Warp.afterEnd_still (x : Warp) (q : Nat) : (x.afterEnd q).2.still = x.still := by
  unfold Warp.afterEnd
  cases x.loopEnd q with
  | none => rfl
  | some l => dsimp only; split <;> simp [Warp.still, Warp.noLatch]

theorem Warp.goOn_still (x : Warp) (gang : BitVec 8) (q : Nat) : (x.goOn gang q).still = x.still := by
  rw [Warp.goOn, Warp.setPc_still, Warp.afterEnd_still]

theorem Warp.begin_still (x : Warp) (u : Uses) : (x.begin u).still = x.still := by
  unfold Warp.begin
  split <;> simp [Warp.still, Warp.noLatch]

/-! ### What each part of a retirement leaves as it was -/

@[simp] theorem Warp.countMeld_core (x : Warp) : (x.countMeld).core = x.core := by unfold Warp.countMeld; split <;> rfl
@[simp] theorem Warp.countMeld_v (x : Warp) : (x.countMeld).v = x.v := by unfold Warp.countMeld; split <;> rfl
@[simp] theorem Warp.countMeld_poison (x : Warp) : (x.countMeld).poison = x.poison := by unfold Warp.countMeld; split <;> rfl
@[simp] theorem Warp.countMeld_s (x : Warp) : (x.countMeld).s = x.s := by unfold Warp.countMeld; split <;> rfl
@[simp] theorem Warp.countMeld_b (x : Warp) : (x.countMeld).b = x.b := by unfold Warp.countMeld; split <;> rfl
@[simp] theorem Warp.countMeld_exec (x : Warp) : (x.countMeld).exec = x.exec := by unfold Warp.countMeld; split <;> rfl
@[simp] theorem Warp.countMeld_cm (x : Warp) : (x.countMeld).cm = x.cm := by unfold Warp.countMeld; split <;> rfl
@[simp] theorem Warp.countMeld_part (x : Warp) : (x.countMeld).part = x.part := by unfold Warp.countMeld; split <;> rfl
@[simp] theorem Warp.countMeld_ften (x : Warp) : (x.countMeld).ften = x.ften := by unfold Warp.countMeld; split <;> rfl
@[simp] theorem Warp.countMeld_lc (x : Warp) : (x.countMeld).lc = x.lc := by unfold Warp.countMeld; split <;> rfl
@[simp] theorem Warp.countMeld_ls (x : Warp) : (x.countMeld).ls = x.ls := by unfold Warp.countMeld; split <;> rfl
@[simp] theorem Warp.countMeld_le (x : Warp) : (x.countMeld).le = x.le := by unfold Warp.countMeld; split <;> rfl
@[simp] theorem Warp.countMeld_slices (x : Warp) : (x.countMeld).slices = x.slices := by unfold Warp.countMeld; split <;> rfl
@[simp] theorem Warp.countMeld_ren (x : Warp) : (x.countMeld).ren = x.ren := by unfold Warp.countMeld; split <;> rfl
@[simp] theorem Warp.countMeld_k (x : Warp) : (x.countMeld).k = x.k := by unfold Warp.countMeld; split <;> rfl
@[simp] theorem Warp.countMeld_ifs (x : Warp) : (x.countMeld).ifs = x.ifs := by unfold Warp.countMeld; split <;> rfl
@[simp] theorem Warp.countMeld_ifg (x : Warp) : (x.countMeld).ifg = x.ifg := by unfold Warp.countMeld; split <;> rfl
@[simp] theorem Warp.countMeld_ift (x : Warp) : (x.countMeld).ift = x.ift := by unfold Warp.countMeld; split <;> rfl
@[simp] theorem Warp.countMeld_ife (x : Warp) : (x.countMeld).ife = x.ife := by unfold Warp.countMeld; split <;> rfl
@[simp] theorem Warp.countMeld_preq (x : Warp) : (x.countMeld).preq = x.preq := by unfold Warp.countMeld; split <;> rfl
@[simp] theorem Warp.countMeld_slice (x : Warp) : (x.countMeld).slice = x.slice := by unfold Warp.countMeld; split <;> rfl
@[simp] theorem Warp.countMeld_slot (x : Warp) : (x.countMeld).slot = x.slot := by unfold Warp.countMeld; split <;> rfl
@[simp] theorem Warp.countMeld_asked (x : Warp) : (x.countMeld).asked = x.asked := by unfold Warp.countMeld; split <;> rfl
@[simp] theorem Warp.countMeld_last (x : Warp) : (x.countMeld).last = x.last := by unfold Warp.countMeld; split <;> rfl
@[simp] theorem Warp.countMeld_ycnt (x : Warp) : (x.countMeld).ycnt = x.ycnt := by unfold Warp.countMeld; split <;> rfl
@[simp] theorem Warp.countMeld_chain (x : Warp) : (x.countMeld).chain = x.chain := by unfold Warp.countMeld; split <;> rfl
@[simp] theorem Warp.countMeld_nonmem (x : Warp) : (x.countMeld).nonmem = x.nonmem := by unfold Warp.countMeld; split <;> rfl
@[simp] theorem Warp.countMeld_replayData (x : Warp) : (x.countMeld).replayData = x.replayData := by unfold Warp.countMeld; split <;> rfl
@[simp] theorem Warp.countMeld_replayFetch (x : Warp) : (x.countMeld).replayFetch = x.replayFetch := by unfold Warp.countMeld; split <;> rfl
@[simp] theorem Warp.countMeld_flight (x : Warp) : (x.countMeld).flight = x.flight := by unfold Warp.countMeld; split <;> rfl
@[simp] theorem Warp.countMeld_mma (x : Warp) : (x.countMeld).mma = x.mma := by unfold Warp.countMeld; split <;> rfl
@[simp] theorem Warp.countMeld_barWait (x : Warp) : (x.countMeld).barWait = x.barWait := by unfold Warp.countMeld; split <;> rfl
@[simp] theorem Warp.countMeld_bara (x : Warp) : (x.countMeld).bara = x.bara := by unfold Warp.countMeld; split <;> rfl
@[simp] theorem Warp.countMeld_gridWait (x : Warp) : (x.countMeld).gridWait = x.gridWait := by unfold Warp.countMeld; split <;> rfl
@[simp] theorem Warp.countMeld_run (x : Warp) : (x.countMeld).run = x.run := by unfold Warp.countMeld; split <;> rfl
@[simp] theorem Warp.countMeld_trap (x : Warp) : (x.countMeld).trap = x.trap := by unfold Warp.countMeld; split <;> rfl
@[simp] theorem Warp.countMeld_engFault (x : Warp) : (x.countMeld).engFault = x.engFault := by unfold Warp.countMeld; split <;> rfl
@[simp] theorem Warp.countMeld_retired (x : Warp) : (x.countMeld).retired = x.retired := by unfold Warp.countMeld; split <;> rfl
@[simp] theorem Warp.countMeld_idle (x : Warp) : (x.countMeld).idle = x.idle := by unfold Warp.countMeld; split <;> rfl
@[simp] theorem Warp.countMeld_aged (x : Warp) : (x.countMeld).aged = x.aged := by unfold Warp.countMeld; split <;> rfl
@[simp] theorem Warp.skidOn_core (x : Warp) (u : Uses) : (x.skidOn u).core = x.core := by unfold Warp.skidOn; split <;> rfl
@[simp] theorem Warp.skidOn_v (x : Warp) (u : Uses) : (x.skidOn u).v = x.v := by unfold Warp.skidOn; split <;> rfl
@[simp] theorem Warp.skidOn_poison (x : Warp) (u : Uses) : (x.skidOn u).poison = x.poison := by unfold Warp.skidOn; split <;> rfl
@[simp] theorem Warp.skidOn_s (x : Warp) (u : Uses) : (x.skidOn u).s = x.s := by unfold Warp.skidOn; split <;> rfl
@[simp] theorem Warp.skidOn_b (x : Warp) (u : Uses) : (x.skidOn u).b = x.b := by unfold Warp.skidOn; split <;> rfl
@[simp] theorem Warp.skidOn_exec (x : Warp) (u : Uses) : (x.skidOn u).exec = x.exec := by unfold Warp.skidOn; split <;> rfl
@[simp] theorem Warp.skidOn_cm (x : Warp) (u : Uses) : (x.skidOn u).cm = x.cm := by unfold Warp.skidOn; split <;> rfl
@[simp] theorem Warp.skidOn_part (x : Warp) (u : Uses) : (x.skidOn u).part = x.part := by unfold Warp.skidOn; split <;> rfl
@[simp] theorem Warp.skidOn_ften (x : Warp) (u : Uses) : (x.skidOn u).ften = x.ften := by unfold Warp.skidOn; split <;> rfl
@[simp] theorem Warp.skidOn_lc (x : Warp) (u : Uses) : (x.skidOn u).lc = x.lc := by unfold Warp.skidOn; split <;> rfl
@[simp] theorem Warp.skidOn_ls (x : Warp) (u : Uses) : (x.skidOn u).ls = x.ls := by unfold Warp.skidOn; split <;> rfl
@[simp] theorem Warp.skidOn_le (x : Warp) (u : Uses) : (x.skidOn u).le = x.le := by unfold Warp.skidOn; split <;> rfl
@[simp] theorem Warp.skidOn_slices (x : Warp) (u : Uses) : (x.skidOn u).slices = x.slices := by unfold Warp.skidOn; split <;> rfl
@[simp] theorem Warp.skidOn_meld (x : Warp) (u : Uses) : (x.skidOn u).meld = x.meld := by unfold Warp.skidOn; split <;> rfl
@[simp] theorem Warp.skidOn_ren (x : Warp) (u : Uses) : (x.skidOn u).ren = x.ren := by unfold Warp.skidOn; split <;> rfl
@[simp] theorem Warp.skidOn_k (x : Warp) (u : Uses) : (x.skidOn u).k = x.k := by unfold Warp.skidOn; split <;> rfl
@[simp] theorem Warp.skidOn_ifs (x : Warp) (u : Uses) : (x.skidOn u).ifs = x.ifs := by unfold Warp.skidOn; split <;> rfl
@[simp] theorem Warp.skidOn_ifg (x : Warp) (u : Uses) : (x.skidOn u).ifg = x.ifg := by unfold Warp.skidOn; split <;> rfl
@[simp] theorem Warp.skidOn_ift (x : Warp) (u : Uses) : (x.skidOn u).ift = x.ift := by unfold Warp.skidOn; split <;> rfl
@[simp] theorem Warp.skidOn_ife (x : Warp) (u : Uses) : (x.skidOn u).ife = x.ife := by unfold Warp.skidOn; split <;> rfl
@[simp] theorem Warp.skidOn_preq (x : Warp) (u : Uses) : (x.skidOn u).preq = x.preq := by unfold Warp.skidOn; split <;> rfl
@[simp] theorem Warp.skidOn_slice (x : Warp) (u : Uses) : (x.skidOn u).slice = x.slice := by unfold Warp.skidOn; split <;> rfl
@[simp] theorem Warp.skidOn_slot (x : Warp) (u : Uses) : (x.skidOn u).slot = x.slot := by unfold Warp.skidOn; split <;> rfl
@[simp] theorem Warp.skidOn_asked (x : Warp) (u : Uses) : (x.skidOn u).asked = x.asked := by unfold Warp.skidOn; split <;> rfl
@[simp] theorem Warp.skidOn_last (x : Warp) (u : Uses) : (x.skidOn u).last = x.last := by unfold Warp.skidOn; split <;> rfl
@[simp] theorem Warp.skidOn_ycnt (x : Warp) (u : Uses) : (x.skidOn u).ycnt = x.ycnt := by unfold Warp.skidOn; split <;> rfl
@[simp] theorem Warp.skidOn_chain (x : Warp) (u : Uses) : (x.skidOn u).chain = x.chain := by unfold Warp.skidOn; split <;> rfl
@[simp] theorem Warp.skidOn_nonmem (x : Warp) (u : Uses) : (x.skidOn u).nonmem = x.nonmem := by unfold Warp.skidOn; split <;> rfl
@[simp] theorem Warp.skidOn_replayData (x : Warp) (u : Uses) : (x.skidOn u).replayData = x.replayData := by unfold Warp.skidOn; split <;> rfl
@[simp] theorem Warp.skidOn_replayFetch (x : Warp) (u : Uses) : (x.skidOn u).replayFetch = x.replayFetch := by unfold Warp.skidOn; split <;> rfl
@[simp] theorem Warp.skidOn_mma (x : Warp) (u : Uses) : (x.skidOn u).mma = x.mma := by unfold Warp.skidOn; split <;> rfl
@[simp] theorem Warp.skidOn_barWait (x : Warp) (u : Uses) : (x.skidOn u).barWait = x.barWait := by unfold Warp.skidOn; split <;> rfl
@[simp] theorem Warp.skidOn_bara (x : Warp) (u : Uses) : (x.skidOn u).bara = x.bara := by unfold Warp.skidOn; split <;> rfl
@[simp] theorem Warp.skidOn_gridWait (x : Warp) (u : Uses) : (x.skidOn u).gridWait = x.gridWait := by unfold Warp.skidOn; split <;> rfl
@[simp] theorem Warp.skidOn_run (x : Warp) (u : Uses) : (x.skidOn u).run = x.run := by unfold Warp.skidOn; split <;> rfl
@[simp] theorem Warp.skidOn_trap (x : Warp) (u : Uses) : (x.skidOn u).trap = x.trap := by unfold Warp.skidOn; split <;> rfl
@[simp] theorem Warp.skidOn_engFault (x : Warp) (u : Uses) : (x.skidOn u).engFault = x.engFault := by unfold Warp.skidOn; split <;> rfl
@[simp] theorem Warp.skidOn_retired (x : Warp) (u : Uses) : (x.skidOn u).retired = x.retired := by unfold Warp.skidOn; split <;> rfl
@[simp] theorem Warp.skidOn_idle (x : Warp) (u : Uses) : (x.skidOn u).idle = x.idle := by unfold Warp.skidOn; split <;> rfl
@[simp] theorem Warp.skidOn_aged (x : Warp) (u : Uses) : (x.skidOn u).aged = x.aged := by unfold Warp.skidOn; split <;> rfl
@[simp] theorem Warp.begin_core (x : Warp) (u : Uses) : (x.begin u).core = x.core := by unfold Warp.begin; split <;> simp
@[simp] theorem Warp.begin_v (x : Warp) (u : Uses) : (x.begin u).v = x.v := by unfold Warp.begin; split <;> simp
@[simp] theorem Warp.begin_poison (x : Warp) (u : Uses) : (x.begin u).poison = x.poison := by unfold Warp.begin; split <;> simp
@[simp] theorem Warp.begin_s (x : Warp) (u : Uses) : (x.begin u).s = x.s := by unfold Warp.begin; split <;> simp
@[simp] theorem Warp.begin_exec (x : Warp) (u : Uses) : (x.begin u).exec = x.exec := by unfold Warp.begin; split <;> simp
@[simp] theorem Warp.begin_cm (x : Warp) (u : Uses) : (x.begin u).cm = x.cm := by unfold Warp.begin; split <;> simp
@[simp] theorem Warp.begin_part (x : Warp) (u : Uses) : (x.begin u).part = x.part := by unfold Warp.begin; split <;> simp
@[simp] theorem Warp.begin_ften (x : Warp) (u : Uses) : (x.begin u).ften = x.ften := by unfold Warp.begin; split <;> simp
@[simp] theorem Warp.begin_lc (x : Warp) (u : Uses) : (x.begin u).lc = x.lc := by unfold Warp.begin; split <;> simp
@[simp] theorem Warp.begin_ls (x : Warp) (u : Uses) : (x.begin u).ls = x.ls := by unfold Warp.begin; split <;> simp
@[simp] theorem Warp.begin_le (x : Warp) (u : Uses) : (x.begin u).le = x.le := by unfold Warp.begin; split <;> simp
@[simp] theorem Warp.begin_slices (x : Warp) (u : Uses) : (x.begin u).slices = x.slices := by unfold Warp.begin; split <;> simp
@[simp] theorem Warp.begin_meld (x : Warp) (u : Uses) : (x.begin u).meld = x.meld := by unfold Warp.begin; split <;> simp
@[simp] theorem Warp.begin_ren (x : Warp) (u : Uses) : (x.begin u).ren = x.ren := by unfold Warp.begin; split <;> simp
@[simp] theorem Warp.begin_k (x : Warp) (u : Uses) : (x.begin u).k = x.k := by unfold Warp.begin; split <;> simp
@[simp] theorem Warp.begin_ifs (x : Warp) (u : Uses) : (x.begin u).ifs = x.ifs := by unfold Warp.begin; split <;> simp
@[simp] theorem Warp.begin_ifg (x : Warp) (u : Uses) : (x.begin u).ifg = x.ifg := by unfold Warp.begin; split <;> simp
@[simp] theorem Warp.begin_ift (x : Warp) (u : Uses) : (x.begin u).ift = x.ift := by unfold Warp.begin; split <;> simp
@[simp] theorem Warp.begin_ife (x : Warp) (u : Uses) : (x.begin u).ife = x.ife := by unfold Warp.begin; split <;> simp
@[simp] theorem Warp.begin_preq (x : Warp) (u : Uses) : (x.begin u).preq = x.preq := by unfold Warp.begin; split <;> simp
@[simp] theorem Warp.begin_slice (x : Warp) (u : Uses) : (x.begin u).slice = x.slice := by unfold Warp.begin; split <;> simp
@[simp] theorem Warp.begin_slot (x : Warp) (u : Uses) : (x.begin u).slot = x.slot := by unfold Warp.begin; split <;> simp
@[simp] theorem Warp.begin_asked (x : Warp) (u : Uses) : (x.begin u).asked = x.asked := by unfold Warp.begin; split <;> simp
@[simp] theorem Warp.begin_last (x : Warp) (u : Uses) : (x.begin u).last = x.last := by unfold Warp.begin; split <;> simp
@[simp] theorem Warp.begin_ycnt (x : Warp) (u : Uses) : (x.begin u).ycnt = x.ycnt := by unfold Warp.begin; split <;> simp
@[simp] theorem Warp.begin_chain (x : Warp) (u : Uses) : (x.begin u).chain = x.chain := by unfold Warp.begin; split <;> simp
@[simp] theorem Warp.begin_nonmem (x : Warp) (u : Uses) : (x.begin u).nonmem = x.nonmem := by unfold Warp.begin; split <;> simp
@[simp] theorem Warp.begin_replayData (x : Warp) (u : Uses) : (x.begin u).replayData = x.replayData := by unfold Warp.begin; split <;> simp
@[simp] theorem Warp.begin_replayFetch (x : Warp) (u : Uses) : (x.begin u).replayFetch = x.replayFetch := by unfold Warp.begin; split <;> simp
@[simp] theorem Warp.begin_flight (x : Warp) (u : Uses) : (x.begin u).flight = x.flight := by unfold Warp.begin; split <;> simp
@[simp] theorem Warp.begin_mma (x : Warp) (u : Uses) : (x.begin u).mma = x.mma := by unfold Warp.begin; split <;> simp
@[simp] theorem Warp.begin_barWait (x : Warp) (u : Uses) : (x.begin u).barWait = x.barWait := by unfold Warp.begin; split <;> simp
@[simp] theorem Warp.begin_bara (x : Warp) (u : Uses) : (x.begin u).bara = x.bara := by unfold Warp.begin; split <;> simp
@[simp] theorem Warp.begin_gridWait (x : Warp) (u : Uses) : (x.begin u).gridWait = x.gridWait := by unfold Warp.begin; split <;> simp
@[simp] theorem Warp.begin_run (x : Warp) (u : Uses) : (x.begin u).run = x.run := by unfold Warp.begin; split <;> simp
@[simp] theorem Warp.begin_trap (x : Warp) (u : Uses) : (x.begin u).trap = x.trap := by unfold Warp.begin; split <;> simp
@[simp] theorem Warp.begin_engFault (x : Warp) (u : Uses) : (x.begin u).engFault = x.engFault := by unfold Warp.begin; split <;> simp
@[simp] theorem Warp.begin_retired (x : Warp) (u : Uses) : (x.begin u).retired = x.retired := by unfold Warp.begin; split <;> simp
@[simp] theorem Warp.begin_idle (x : Warp) (u : Uses) : (x.begin u).idle = x.idle := by unfold Warp.begin; split <;> simp
@[simp] theorem Warp.begin_aged (x : Warp) (u : Uses) : (x.begin u).aged = x.aged := by unfold Warp.begin; split <;> simp
@[simp] theorem Warp.chainOn_core (x : Warp) (u : Uses) (head : Nat) (gang : BitVec 8) : (x.chainOn u head gang).core = x.core := by unfold Warp.chainOn; (repeat' split) <;> simp
@[simp] theorem Warp.chainOn_v (x : Warp) (u : Uses) (head : Nat) (gang : BitVec 8) : (x.chainOn u head gang).v = x.v := by unfold Warp.chainOn; (repeat' split) <;> simp
@[simp] theorem Warp.chainOn_poison (x : Warp) (u : Uses) (head : Nat) (gang : BitVec 8) : (x.chainOn u head gang).poison = x.poison := by unfold Warp.chainOn; (repeat' split) <;> simp
@[simp] theorem Warp.chainOn_s (x : Warp) (u : Uses) (head : Nat) (gang : BitVec 8) : (x.chainOn u head gang).s = x.s := by unfold Warp.chainOn; (repeat' split) <;> simp
@[simp] theorem Warp.chainOn_exec (x : Warp) (u : Uses) (head : Nat) (gang : BitVec 8) : (x.chainOn u head gang).exec = x.exec := by unfold Warp.chainOn; (repeat' split) <;> simp
@[simp] theorem Warp.chainOn_cm (x : Warp) (u : Uses) (head : Nat) (gang : BitVec 8) : (x.chainOn u head gang).cm = x.cm := by unfold Warp.chainOn; (repeat' split) <;> simp
@[simp] theorem Warp.chainOn_part (x : Warp) (u : Uses) (head : Nat) (gang : BitVec 8) : (x.chainOn u head gang).part = x.part := by unfold Warp.chainOn; (repeat' split) <;> simp
@[simp] theorem Warp.chainOn_ften (x : Warp) (u : Uses) (head : Nat) (gang : BitVec 8) : (x.chainOn u head gang).ften = x.ften := by unfold Warp.chainOn; (repeat' split) <;> simp
@[simp] theorem Warp.chainOn_lc (x : Warp) (u : Uses) (head : Nat) (gang : BitVec 8) : (x.chainOn u head gang).lc = x.lc := by unfold Warp.chainOn; (repeat' split) <;> simp
@[simp] theorem Warp.chainOn_ls (x : Warp) (u : Uses) (head : Nat) (gang : BitVec 8) : (x.chainOn u head gang).ls = x.ls := by unfold Warp.chainOn; (repeat' split) <;> simp
@[simp] theorem Warp.chainOn_le (x : Warp) (u : Uses) (head : Nat) (gang : BitVec 8) : (x.chainOn u head gang).le = x.le := by unfold Warp.chainOn; (repeat' split) <;> simp
@[simp] theorem Warp.chainOn_slices (x : Warp) (u : Uses) (head : Nat) (gang : BitVec 8) : (x.chainOn u head gang).slices = x.slices := by unfold Warp.chainOn; (repeat' split) <;> simp
@[simp] theorem Warp.chainOn_meld (x : Warp) (u : Uses) (head : Nat) (gang : BitVec 8) : (x.chainOn u head gang).meld = x.meld := by unfold Warp.chainOn; (repeat' split) <;> simp
@[simp] theorem Warp.chainOn_ren (x : Warp) (u : Uses) (head : Nat) (gang : BitVec 8) : (x.chainOn u head gang).ren = x.ren := by unfold Warp.chainOn; (repeat' split) <;> simp
@[simp] theorem Warp.chainOn_k (x : Warp) (u : Uses) (head : Nat) (gang : BitVec 8) : (x.chainOn u head gang).k = x.k := by unfold Warp.chainOn; (repeat' split) <;> simp
@[simp] theorem Warp.chainOn_ifs (x : Warp) (u : Uses) (head : Nat) (gang : BitVec 8) : (x.chainOn u head gang).ifs = x.ifs := by unfold Warp.chainOn; (repeat' split) <;> simp
@[simp] theorem Warp.chainOn_ifg (x : Warp) (u : Uses) (head : Nat) (gang : BitVec 8) : (x.chainOn u head gang).ifg = x.ifg := by unfold Warp.chainOn; (repeat' split) <;> simp
@[simp] theorem Warp.chainOn_ift (x : Warp) (u : Uses) (head : Nat) (gang : BitVec 8) : (x.chainOn u head gang).ift = x.ift := by unfold Warp.chainOn; (repeat' split) <;> simp
@[simp] theorem Warp.chainOn_ife (x : Warp) (u : Uses) (head : Nat) (gang : BitVec 8) : (x.chainOn u head gang).ife = x.ife := by unfold Warp.chainOn; (repeat' split) <;> simp
@[simp] theorem Warp.chainOn_preq (x : Warp) (u : Uses) (head : Nat) (gang : BitVec 8) : (x.chainOn u head gang).preq = x.preq := by unfold Warp.chainOn; (repeat' split) <;> simp
@[simp] theorem Warp.chainOn_slice (x : Warp) (u : Uses) (head : Nat) (gang : BitVec 8) : (x.chainOn u head gang).slice = x.slice := by unfold Warp.chainOn; (repeat' split) <;> simp
@[simp] theorem Warp.chainOn_slot (x : Warp) (u : Uses) (head : Nat) (gang : BitVec 8) : (x.chainOn u head gang).slot = x.slot := by unfold Warp.chainOn; (repeat' split) <;> simp
@[simp] theorem Warp.chainOn_asked (x : Warp) (u : Uses) (head : Nat) (gang : BitVec 8) : (x.chainOn u head gang).asked = x.asked := by unfold Warp.chainOn; (repeat' split) <;> simp
@[simp] theorem Warp.chainOn_last (x : Warp) (u : Uses) (head : Nat) (gang : BitVec 8) : (x.chainOn u head gang).last = x.last := by unfold Warp.chainOn; (repeat' split) <;> simp
@[simp] theorem Warp.chainOn_ycnt (x : Warp) (u : Uses) (head : Nat) (gang : BitVec 8) : (x.chainOn u head gang).ycnt = x.ycnt := by unfold Warp.chainOn; (repeat' split) <;> simp
@[simp] theorem Warp.chainOn_replayData (x : Warp) (u : Uses) (head : Nat) (gang : BitVec 8) : (x.chainOn u head gang).replayData = x.replayData := by unfold Warp.chainOn; (repeat' split) <;> simp
@[simp] theorem Warp.chainOn_replayFetch (x : Warp) (u : Uses) (head : Nat) (gang : BitVec 8) : (x.chainOn u head gang).replayFetch = x.replayFetch := by unfold Warp.chainOn; (repeat' split) <;> simp
@[simp] theorem Warp.chainOn_flight (x : Warp) (u : Uses) (head : Nat) (gang : BitVec 8) : (x.chainOn u head gang).flight = x.flight := by unfold Warp.chainOn; (repeat' split) <;> simp
@[simp] theorem Warp.chainOn_mma (x : Warp) (u : Uses) (head : Nat) (gang : BitVec 8) : (x.chainOn u head gang).mma = x.mma := by unfold Warp.chainOn; (repeat' split) <;> simp
@[simp] theorem Warp.chainOn_barWait (x : Warp) (u : Uses) (head : Nat) (gang : BitVec 8) : (x.chainOn u head gang).barWait = x.barWait := by unfold Warp.chainOn; (repeat' split) <;> simp
@[simp] theorem Warp.chainOn_bara (x : Warp) (u : Uses) (head : Nat) (gang : BitVec 8) : (x.chainOn u head gang).bara = x.bara := by unfold Warp.chainOn; (repeat' split) <;> simp
@[simp] theorem Warp.chainOn_gridWait (x : Warp) (u : Uses) (head : Nat) (gang : BitVec 8) : (x.chainOn u head gang).gridWait = x.gridWait := by unfold Warp.chainOn; (repeat' split) <;> simp
@[simp] theorem Warp.chainOn_run (x : Warp) (u : Uses) (head : Nat) (gang : BitVec 8) : (x.chainOn u head gang).run = x.run := by unfold Warp.chainOn; (repeat' split) <;> simp
@[simp] theorem Warp.chainOn_trap (x : Warp) (u : Uses) (head : Nat) (gang : BitVec 8) : (x.chainOn u head gang).trap = x.trap := by unfold Warp.chainOn; (repeat' split) <;> simp
@[simp] theorem Warp.chainOn_engFault (x : Warp) (u : Uses) (head : Nat) (gang : BitVec 8) : (x.chainOn u head gang).engFault = x.engFault := by unfold Warp.chainOn; (repeat' split) <;> simp
@[simp] theorem Warp.chainOn_retired (x : Warp) (u : Uses) (head : Nat) (gang : BitVec 8) : (x.chainOn u head gang).retired = x.retired := by unfold Warp.chainOn; (repeat' split) <;> simp
@[simp] theorem Warp.chainOn_idle (x : Warp) (u : Uses) (head : Nat) (gang : BitVec 8) : (x.chainOn u head gang).idle = x.idle := by unfold Warp.chainOn; (repeat' split) <;> simp
@[simp] theorem Warp.chainOn_aged (x : Warp) (u : Uses) (head : Nat) (gang : BitVec 8) : (x.chainOn u head gang).aged = x.aged := by unfold Warp.chainOn; (repeat' split) <;> simp
@[simp] theorem Warp.settle_core (x : Warp) (u : Uses) (head : Nat) (gang : BitVec 8) : (x.settle u head gang).core = x.core := by simp [Warp.settle]
@[simp] theorem Warp.settle_v (x : Warp) (u : Uses) (head : Nat) (gang : BitVec 8) : (x.settle u head gang).v = x.v := by simp [Warp.settle]
@[simp] theorem Warp.settle_poison (x : Warp) (u : Uses) (head : Nat) (gang : BitVec 8) : (x.settle u head gang).poison = x.poison := by simp [Warp.settle]
@[simp] theorem Warp.settle_s (x : Warp) (u : Uses) (head : Nat) (gang : BitVec 8) : (x.settle u head gang).s = x.s := by simp [Warp.settle]
@[simp] theorem Warp.settle_exec (x : Warp) (u : Uses) (head : Nat) (gang : BitVec 8) : (x.settle u head gang).exec = x.exec := by simp [Warp.settle]
@[simp] theorem Warp.settle_cm (x : Warp) (u : Uses) (head : Nat) (gang : BitVec 8) : (x.settle u head gang).cm = x.cm := by simp [Warp.settle]
@[simp] theorem Warp.settle_part (x : Warp) (u : Uses) (head : Nat) (gang : BitVec 8) : (x.settle u head gang).part = x.part := by simp [Warp.settle]
@[simp] theorem Warp.settle_ften (x : Warp) (u : Uses) (head : Nat) (gang : BitVec 8) : (x.settle u head gang).ften = x.ften := by simp [Warp.settle]
@[simp] theorem Warp.settle_lc (x : Warp) (u : Uses) (head : Nat) (gang : BitVec 8) : (x.settle u head gang).lc = x.lc := by simp [Warp.settle]
@[simp] theorem Warp.settle_ls (x : Warp) (u : Uses) (head : Nat) (gang : BitVec 8) : (x.settle u head gang).ls = x.ls := by simp [Warp.settle]
@[simp] theorem Warp.settle_le (x : Warp) (u : Uses) (head : Nat) (gang : BitVec 8) : (x.settle u head gang).le = x.le := by simp [Warp.settle]
@[simp] theorem Warp.settle_slices (x : Warp) (u : Uses) (head : Nat) (gang : BitVec 8) : (x.settle u head gang).slices = x.slices := by simp [Warp.settle]
@[simp] theorem Warp.settle_ren (x : Warp) (u : Uses) (head : Nat) (gang : BitVec 8) : (x.settle u head gang).ren = x.ren := by simp [Warp.settle]
@[simp] theorem Warp.settle_k (x : Warp) (u : Uses) (head : Nat) (gang : BitVec 8) : (x.settle u head gang).k = x.k := by simp [Warp.settle]
@[simp] theorem Warp.settle_ifs (x : Warp) (u : Uses) (head : Nat) (gang : BitVec 8) : (x.settle u head gang).ifs = x.ifs := by simp [Warp.settle]
@[simp] theorem Warp.settle_ifg (x : Warp) (u : Uses) (head : Nat) (gang : BitVec 8) : (x.settle u head gang).ifg = x.ifg := by simp [Warp.settle]
@[simp] theorem Warp.settle_ift (x : Warp) (u : Uses) (head : Nat) (gang : BitVec 8) : (x.settle u head gang).ift = x.ift := by simp [Warp.settle]
@[simp] theorem Warp.settle_ife (x : Warp) (u : Uses) (head : Nat) (gang : BitVec 8) : (x.settle u head gang).ife = x.ife := by simp [Warp.settle]
@[simp] theorem Warp.settle_preq (x : Warp) (u : Uses) (head : Nat) (gang : BitVec 8) : (x.settle u head gang).preq = x.preq := by simp [Warp.settle]
@[simp] theorem Warp.settle_slice (x : Warp) (u : Uses) (head : Nat) (gang : BitVec 8) : (x.settle u head gang).slice = x.slice := by simp [Warp.settle]
@[simp] theorem Warp.settle_slot (x : Warp) (u : Uses) (head : Nat) (gang : BitVec 8) : (x.settle u head gang).slot = x.slot := by simp [Warp.settle]
@[simp] theorem Warp.settle_asked (x : Warp) (u : Uses) (head : Nat) (gang : BitVec 8) : (x.settle u head gang).asked = x.asked := by simp [Warp.settle]
@[simp] theorem Warp.settle_last (x : Warp) (u : Uses) (head : Nat) (gang : BitVec 8) : (x.settle u head gang).last = x.last := by simp [Warp.settle]
@[simp] theorem Warp.settle_ycnt (x : Warp) (u : Uses) (head : Nat) (gang : BitVec 8) : (x.settle u head gang).ycnt = x.ycnt := by simp [Warp.settle]
@[simp] theorem Warp.settle_mma (x : Warp) (u : Uses) (head : Nat) (gang : BitVec 8) : (x.settle u head gang).mma = x.mma := by simp [Warp.settle]
@[simp] theorem Warp.settle_barWait (x : Warp) (u : Uses) (head : Nat) (gang : BitVec 8) : (x.settle u head gang).barWait = x.barWait := by simp [Warp.settle]
@[simp] theorem Warp.settle_bara (x : Warp) (u : Uses) (head : Nat) (gang : BitVec 8) : (x.settle u head gang).bara = x.bara := by simp [Warp.settle]
@[simp] theorem Warp.settle_gridWait (x : Warp) (u : Uses) (head : Nat) (gang : BitVec 8) : (x.settle u head gang).gridWait = x.gridWait := by simp [Warp.settle]
@[simp] theorem Warp.settle_run (x : Warp) (u : Uses) (head : Nat) (gang : BitVec 8) : (x.settle u head gang).run = x.run := by simp [Warp.settle]
@[simp] theorem Warp.settle_trap (x : Warp) (u : Uses) (head : Nat) (gang : BitVec 8) : (x.settle u head gang).trap = x.trap := by simp [Warp.settle]
@[simp] theorem Warp.settle_engFault (x : Warp) (u : Uses) (head : Nat) (gang : BitVec 8) : (x.settle u head gang).engFault = x.engFault := by simp [Warp.settle]
@[simp] theorem Warp.afterEnd_core (x : Warp) (q : Nat) : ((x.afterEnd q).2).core = x.core := by unfold Warp.afterEnd; cases x.loopEnd q <;> dsimp only <;> (try split) <;> simp
@[simp] theorem Warp.afterEnd_v (x : Warp) (q : Nat) : ((x.afterEnd q).2).v = x.v := by unfold Warp.afterEnd; cases x.loopEnd q <;> dsimp only <;> (try split) <;> simp
@[simp] theorem Warp.afterEnd_poison (x : Warp) (q : Nat) : ((x.afterEnd q).2).poison = x.poison := by unfold Warp.afterEnd; cases x.loopEnd q <;> dsimp only <;> (try split) <;> simp
@[simp] theorem Warp.afterEnd_s (x : Warp) (q : Nat) : ((x.afterEnd q).2).s = x.s := by unfold Warp.afterEnd; cases x.loopEnd q <;> dsimp only <;> (try split) <;> simp
@[simp] theorem Warp.afterEnd_exec (x : Warp) (q : Nat) : ((x.afterEnd q).2).exec = x.exec := by unfold Warp.afterEnd; cases x.loopEnd q <;> dsimp only <;> (try split) <;> simp
@[simp] theorem Warp.afterEnd_cm (x : Warp) (q : Nat) : ((x.afterEnd q).2).cm = x.cm := by unfold Warp.afterEnd; cases x.loopEnd q <;> dsimp only <;> (try split) <;> simp
@[simp] theorem Warp.afterEnd_part (x : Warp) (q : Nat) : ((x.afterEnd q).2).part = x.part := by unfold Warp.afterEnd; cases x.loopEnd q <;> dsimp only <;> (try split) <;> simp
@[simp] theorem Warp.afterEnd_ften (x : Warp) (q : Nat) : ((x.afterEnd q).2).ften = x.ften := by unfold Warp.afterEnd; cases x.loopEnd q <;> dsimp only <;> (try split) <;> simp
@[simp] theorem Warp.afterEnd_ls (x : Warp) (q : Nat) : ((x.afterEnd q).2).ls = x.ls := by unfold Warp.afterEnd; cases x.loopEnd q <;> dsimp only <;> (try split) <;> simp
@[simp] theorem Warp.afterEnd_le (x : Warp) (q : Nat) : ((x.afterEnd q).2).le = x.le := by unfold Warp.afterEnd; cases x.loopEnd q <;> dsimp only <;> (try split) <;> simp
@[simp] theorem Warp.afterEnd_slices (x : Warp) (q : Nat) : ((x.afterEnd q).2).slices = x.slices := by unfold Warp.afterEnd; cases x.loopEnd q <;> dsimp only <;> (try split) <;> simp
@[simp] theorem Warp.afterEnd_meld (x : Warp) (q : Nat) : ((x.afterEnd q).2).meld = x.meld := by unfold Warp.afterEnd; cases x.loopEnd q <;> dsimp only <;> (try split) <;> simp
@[simp] theorem Warp.afterEnd_ren (x : Warp) (q : Nat) : ((x.afterEnd q).2).ren = x.ren := by unfold Warp.afterEnd; cases x.loopEnd q <;> dsimp only <;> (try split) <;> simp
@[simp] theorem Warp.afterEnd_k (x : Warp) (q : Nat) : ((x.afterEnd q).2).k = x.k := by unfold Warp.afterEnd; cases x.loopEnd q <;> dsimp only <;> (try split) <;> simp
@[simp] theorem Warp.afterEnd_ifs (x : Warp) (q : Nat) : ((x.afterEnd q).2).ifs = x.ifs := by unfold Warp.afterEnd; cases x.loopEnd q <;> dsimp only <;> (try split) <;> simp
@[simp] theorem Warp.afterEnd_ifg (x : Warp) (q : Nat) : ((x.afterEnd q).2).ifg = x.ifg := by unfold Warp.afterEnd; cases x.loopEnd q <;> dsimp only <;> (try split) <;> simp
@[simp] theorem Warp.afterEnd_ift (x : Warp) (q : Nat) : ((x.afterEnd q).2).ift = x.ift := by unfold Warp.afterEnd; cases x.loopEnd q <;> dsimp only <;> (try split) <;> simp
@[simp] theorem Warp.afterEnd_ife (x : Warp) (q : Nat) : ((x.afterEnd q).2).ife = x.ife := by unfold Warp.afterEnd; cases x.loopEnd q <;> dsimp only <;> (try split) <;> simp
@[simp] theorem Warp.afterEnd_preq (x : Warp) (q : Nat) : ((x.afterEnd q).2).preq = x.preq := by unfold Warp.afterEnd; cases x.loopEnd q <;> dsimp only <;> (try split) <;> simp
@[simp] theorem Warp.afterEnd_slice (x : Warp) (q : Nat) : ((x.afterEnd q).2).slice = x.slice := by unfold Warp.afterEnd; cases x.loopEnd q <;> dsimp only <;> (try split) <;> simp
@[simp] theorem Warp.afterEnd_slot (x : Warp) (q : Nat) : ((x.afterEnd q).2).slot = x.slot := by unfold Warp.afterEnd; cases x.loopEnd q <;> dsimp only <;> (try split) <;> simp
@[simp] theorem Warp.afterEnd_asked (x : Warp) (q : Nat) : ((x.afterEnd q).2).asked = x.asked := by unfold Warp.afterEnd; cases x.loopEnd q <;> dsimp only <;> (try split) <;> simp
@[simp] theorem Warp.afterEnd_last (x : Warp) (q : Nat) : ((x.afterEnd q).2).last = x.last := by unfold Warp.afterEnd; cases x.loopEnd q <;> dsimp only <;> (try split) <;> simp
@[simp] theorem Warp.afterEnd_ycnt (x : Warp) (q : Nat) : ((x.afterEnd q).2).ycnt = x.ycnt := by unfold Warp.afterEnd; cases x.loopEnd q <;> dsimp only <;> (try split) <;> simp
@[simp] theorem Warp.afterEnd_replayData (x : Warp) (q : Nat) : ((x.afterEnd q).2).replayData = x.replayData := by unfold Warp.afterEnd; cases x.loopEnd q <;> dsimp only <;> (try split) <;> simp
@[simp] theorem Warp.afterEnd_replayFetch (x : Warp) (q : Nat) : ((x.afterEnd q).2).replayFetch = x.replayFetch := by unfold Warp.afterEnd; cases x.loopEnd q <;> dsimp only <;> (try split) <;> simp
@[simp] theorem Warp.afterEnd_flight (x : Warp) (q : Nat) : ((x.afterEnd q).2).flight = x.flight := by unfold Warp.afterEnd; cases x.loopEnd q <;> dsimp only <;> (try split) <;> simp
@[simp] theorem Warp.afterEnd_mma (x : Warp) (q : Nat) : ((x.afterEnd q).2).mma = x.mma := by unfold Warp.afterEnd; cases x.loopEnd q <;> dsimp only <;> (try split) <;> simp
@[simp] theorem Warp.afterEnd_barWait (x : Warp) (q : Nat) : ((x.afterEnd q).2).barWait = x.barWait := by unfold Warp.afterEnd; cases x.loopEnd q <;> dsimp only <;> (try split) <;> simp
@[simp] theorem Warp.afterEnd_bara (x : Warp) (q : Nat) : ((x.afterEnd q).2).bara = x.bara := by unfold Warp.afterEnd; cases x.loopEnd q <;> dsimp only <;> (try split) <;> simp
@[simp] theorem Warp.afterEnd_gridWait (x : Warp) (q : Nat) : ((x.afterEnd q).2).gridWait = x.gridWait := by unfold Warp.afterEnd; cases x.loopEnd q <;> dsimp only <;> (try split) <;> simp
@[simp] theorem Warp.afterEnd_run (x : Warp) (q : Nat) : ((x.afterEnd q).2).run = x.run := by unfold Warp.afterEnd; cases x.loopEnd q <;> dsimp only <;> (try split) <;> simp
@[simp] theorem Warp.afterEnd_trap (x : Warp) (q : Nat) : ((x.afterEnd q).2).trap = x.trap := by unfold Warp.afterEnd; cases x.loopEnd q <;> dsimp only <;> (try split) <;> simp
@[simp] theorem Warp.afterEnd_engFault (x : Warp) (q : Nat) : ((x.afterEnd q).2).engFault = x.engFault := by unfold Warp.afterEnd; cases x.loopEnd q <;> dsimp only <;> (try split) <;> simp
@[simp] theorem Warp.afterEnd_retired (x : Warp) (q : Nat) : ((x.afterEnd q).2).retired = x.retired := by unfold Warp.afterEnd; cases x.loopEnd q <;> dsimp only <;> (try split) <;> simp
@[simp] theorem Warp.afterEnd_idle (x : Warp) (q : Nat) : ((x.afterEnd q).2).idle = x.idle := by unfold Warp.afterEnd; cases x.loopEnd q <;> dsimp only <;> (try split) <;> simp
@[simp] theorem Warp.afterEnd_aged (x : Warp) (q : Nat) : ((x.afterEnd q).2).aged = x.aged := by unfold Warp.afterEnd; cases x.loopEnd q <;> dsimp only <;> (try split) <;> simp
@[simp] theorem Warp.goOn_core (x : Warp) (gang : BitVec 8) (q : Nat) : (x.goOn gang q).core = x.core := by simp [Warp.goOn]
@[simp] theorem Warp.goOn_v (x : Warp) (gang : BitVec 8) (q : Nat) : (x.goOn gang q).v = x.v := by simp [Warp.goOn]
@[simp] theorem Warp.goOn_poison (x : Warp) (gang : BitVec 8) (q : Nat) : (x.goOn gang q).poison = x.poison := by simp [Warp.goOn]
@[simp] theorem Warp.goOn_s (x : Warp) (gang : BitVec 8) (q : Nat) : (x.goOn gang q).s = x.s := by simp [Warp.goOn]
@[simp] theorem Warp.goOn_exec (x : Warp) (gang : BitVec 8) (q : Nat) : (x.goOn gang q).exec = x.exec := by simp [Warp.goOn]
@[simp] theorem Warp.goOn_cm (x : Warp) (gang : BitVec 8) (q : Nat) : (x.goOn gang q).cm = x.cm := by simp [Warp.goOn]
@[simp] theorem Warp.goOn_part (x : Warp) (gang : BitVec 8) (q : Nat) : (x.goOn gang q).part = x.part := by simp [Warp.goOn]
@[simp] theorem Warp.goOn_ften (x : Warp) (gang : BitVec 8) (q : Nat) : (x.goOn gang q).ften = x.ften := by simp [Warp.goOn]
@[simp] theorem Warp.goOn_ls (x : Warp) (gang : BitVec 8) (q : Nat) : (x.goOn gang q).ls = x.ls := by simp [Warp.goOn]
@[simp] theorem Warp.goOn_le (x : Warp) (gang : BitVec 8) (q : Nat) : (x.goOn gang q).le = x.le := by simp [Warp.goOn]
@[simp] theorem Warp.goOn_meld (x : Warp) (gang : BitVec 8) (q : Nat) : (x.goOn gang q).meld = x.meld := by simp [Warp.goOn]
@[simp] theorem Warp.goOn_ren (x : Warp) (gang : BitVec 8) (q : Nat) : (x.goOn gang q).ren = x.ren := by simp [Warp.goOn]
@[simp] theorem Warp.goOn_k (x : Warp) (gang : BitVec 8) (q : Nat) : (x.goOn gang q).k = x.k := by simp [Warp.goOn]
@[simp] theorem Warp.goOn_ifs (x : Warp) (gang : BitVec 8) (q : Nat) : (x.goOn gang q).ifs = x.ifs := by simp [Warp.goOn]
@[simp] theorem Warp.goOn_ifg (x : Warp) (gang : BitVec 8) (q : Nat) : (x.goOn gang q).ifg = x.ifg := by simp [Warp.goOn]
@[simp] theorem Warp.goOn_ift (x : Warp) (gang : BitVec 8) (q : Nat) : (x.goOn gang q).ift = x.ift := by simp [Warp.goOn]
@[simp] theorem Warp.goOn_ife (x : Warp) (gang : BitVec 8) (q : Nat) : (x.goOn gang q).ife = x.ife := by simp [Warp.goOn]
@[simp] theorem Warp.goOn_preq (x : Warp) (gang : BitVec 8) (q : Nat) : (x.goOn gang q).preq = x.preq := by simp [Warp.goOn]
@[simp] theorem Warp.goOn_slice (x : Warp) (gang : BitVec 8) (q : Nat) : (x.goOn gang q).slice = x.slice := by simp [Warp.goOn]
@[simp] theorem Warp.goOn_slot (x : Warp) (gang : BitVec 8) (q : Nat) : (x.goOn gang q).slot = x.slot := by simp [Warp.goOn]
@[simp] theorem Warp.goOn_asked (x : Warp) (gang : BitVec 8) (q : Nat) : (x.goOn gang q).asked = x.asked := by simp [Warp.goOn]
@[simp] theorem Warp.goOn_last (x : Warp) (gang : BitVec 8) (q : Nat) : (x.goOn gang q).last = x.last := by simp [Warp.goOn]
@[simp] theorem Warp.goOn_ycnt (x : Warp) (gang : BitVec 8) (q : Nat) : (x.goOn gang q).ycnt = x.ycnt := by simp [Warp.goOn]
@[simp] theorem Warp.goOn_replayData (x : Warp) (gang : BitVec 8) (q : Nat) : (x.goOn gang q).replayData = x.replayData := by simp [Warp.goOn]
@[simp] theorem Warp.goOn_replayFetch (x : Warp) (gang : BitVec 8) (q : Nat) : (x.goOn gang q).replayFetch = x.replayFetch := by simp [Warp.goOn]
@[simp] theorem Warp.goOn_flight (x : Warp) (gang : BitVec 8) (q : Nat) : (x.goOn gang q).flight = x.flight := by simp [Warp.goOn]
@[simp] theorem Warp.goOn_mma (x : Warp) (gang : BitVec 8) (q : Nat) : (x.goOn gang q).mma = x.mma := by simp [Warp.goOn]
@[simp] theorem Warp.goOn_barWait (x : Warp) (gang : BitVec 8) (q : Nat) : (x.goOn gang q).barWait = x.barWait := by simp [Warp.goOn]
@[simp] theorem Warp.goOn_bara (x : Warp) (gang : BitVec 8) (q : Nat) : (x.goOn gang q).bara = x.bara := by simp [Warp.goOn]
@[simp] theorem Warp.goOn_gridWait (x : Warp) (gang : BitVec 8) (q : Nat) : (x.goOn gang q).gridWait = x.gridWait := by simp [Warp.goOn]
@[simp] theorem Warp.goOn_run (x : Warp) (gang : BitVec 8) (q : Nat) : (x.goOn gang q).run = x.run := by simp [Warp.goOn]
@[simp] theorem Warp.goOn_trap (x : Warp) (gang : BitVec 8) (q : Nat) : (x.goOn gang q).trap = x.trap := by simp [Warp.goOn]
@[simp] theorem Warp.goOn_engFault (x : Warp) (gang : BitVec 8) (q : Nat) : (x.goOn gang q).engFault = x.engFault := by simp [Warp.goOn]
@[simp] theorem Warp.goOn_retired (x : Warp) (gang : BitVec 8) (q : Nat) : (x.goOn gang q).retired = x.retired := by simp [Warp.goOn]
@[simp] theorem Warp.goOn_idle (x : Warp) (gang : BitVec 8) (q : Nat) : (x.goOn gang q).idle = x.idle := by simp [Warp.goOn]
@[simp] theorem Warp.goOn_aged (x : Warp) (gang : BitVec 8) (q : Nat) : (x.goOn gang q).aged = x.aged := by simp [Warp.goOn]

/-- The latches at retirement: emptied by a chain-ending instruction. -/
theorem Warp.settle_b (x : Warp) (u : Uses) (head : Nat) (gang : BitVec 8) : (x.settle u head gang).b = if u.ending then emptyLatches else x.b := by
  simp only [Warp.settle, Warp.countMeld_b, Warp.skidOn_b, Warp.chainOn]
  by_cases h2 : u.ending
  · simp [h2, Warp.noLatch, emptyLatches]
  · by_cases h3 : u.readsLatch <;> simp [h2, h3]

/-! ### The whole of a retirement -/

theorem sub_one_eq_zero (n : Word) : n - 1 = 0 ↔ n = 1 := by
  constructor <;> intro h <;> bv_omega

/-- The loop end (09 R170). -/
theorem Warp.afterEnd_pc (x : Warp) (q : Nat) : (x.afterEnd q).1 = match x.loopEnd q with
    | some l => if x.lc.at l = 1 then q else x.ls.at l
    | none => q := by
  unfold Warp.afterEnd
  cases x.loopEnd q with
  | none => rfl
  | some l => simp only [sub_one_eq_zero]; split <;> rfl

theorem Warp.afterEnd_lc (x : Warp) (q : Nat) : (x.afterEnd q).2.lc = match x.loopEnd q with
    | some l => x.lc.put l (x.lc.at l - 1)
    | none => x.lc := by
  unfold Warp.afterEnd
  cases x.loopEnd q with
  | none => rfl
  | some l => dsimp only; split <;> simp

theorem Warp.afterEnd_b (x : Warp) (q : Nat) : (x.afterEnd q).2.b = match x.loopEnd q with
    | some l => if x.lc.at l = 1 then x.b else emptyLatches
    | none => x.b := by
  unfold Warp.afterEnd
  cases x.loopEnd q with
  | none => rfl
  | some l => simp only [sub_one_eq_zero]; split <;> rfl

/-- A name depends on the open region and the renaming tables alone. -/
theorem Warp.name_congr {x y : Warp} (h1 : x.meld = y.meld) (h2 : x.ren = y.ren) : x.name = y.name := by
  funext n l; simp only [Warp.name, Warp.pathOf, h1, h2]

theorem Warp.loopEnd_congr {x y : Warp} (h1 : x.lc = y.lc) (h2 : x.le = y.le) (q : Nat) : x.loopEnd q = y.loopEnd q := by
  simp only [Warp.loopEnd, h1, h2]

/-- The PCs and the loop counters after a retirement that transfers no control. -/
theorem GoesOn.of_settle {g : Issue} (i : Instr) {y : Warp} (head : Nat) (h1 : y.lc = g.warp.lc) (h2 : y.ls = g.warp.ls)
    (h3 : y.le = g.warp.le) (h4 : y.slices = g.warp.slices) : GoesOn g i ((y.settle i.uses head g.gang).goOn g.gang (g.pc + i.size)) := by
  have e : (y.settle i.uses head g.gang).loopEnd (g.pc + i.size) = g.warp.loopEnd (g.pc + i.size) :=
    Warp.loopEnd_congr (by simp [h1]) (by simp [h3]) _
  constructor
  · intro j
    simp only [Warp.goOn, Warp.setPc, tab_at, Warp.afterEnd_slices, Warp.settle_slices, h4, Warp.afterEnd_pc, e, Issue.nextPc, Issue.after,
      Warp.settle_lc, Warp.settle_ls, h1, h2]
    split <;> rfl
  · simp only [Warp.goOn, Warp.setPc_lc, Warp.afterEnd_lc, e, Issue.nextLc, Issue.after, Warp.settle_lc, h1]
    all_goals (cases g.warp.loopEnd (g.pc + i.size) <;> rfl)

/-- The latches after a retirement that transfers no control. -/
theorem goOn_b {g : Issue} (i : Instr) {y : Warp} (head : Nat) (h1 : y.lc = g.warp.lc) (h3 : y.le = g.warp.le) :
    ((y.settle i.uses head g.gang).goOn g.gang (g.pc + i.size)).b = if g.loopsBack i || i.uses.ending then emptyLatches else y.b := by
  have e : (y.settle i.uses head g.gang).loopEnd (g.pc + i.size) = g.warp.loopEnd (g.pc + i.size) :=
    Warp.loopEnd_congr (by simp [h1]) (by simp [h3]) _
  simp only [Warp.goOn, Warp.setPc_b, Warp.afterEnd_b, e, Issue.loopsBack, Issue.after, Warp.settle_lc, h1, Warp.settle_b]
  obtain ⟨o, ho⟩ : ∃ o, g.warp.loopEnd (g.pc + i.size) = o := ⟨_, rfl⟩
  cases o with
  | none => simp [ho]
  | some l => by_cases h : g.warp.lc.at l = 1#32 <;> simp [ho, h]

end Sys2Proof.Machine
end

