-- ==== Sys2Proof/Laws/Memory.lean ====
section
/-! SUPPORT. The laws of memories: a read after a write, other addresses left alone, and the canonical form kept by every operation. -/

namespace Sys2Proof.Machine

/-! ### The canonical form -/

/-- Every address listed lies above `a`. -/
def Mem.above (a : Nat) (m : Mem) : Prop := ∀ c ∈ m, a < c.1

theorem Mem.wf_cons (k : Nat) (v : Byte) (m : Mem) : Mem.wf ((k, v) :: m) = true ↔ v ≠ 0 ∧ Mem.above k m ∧ Mem.wf m = true := by
  induction m generalizing k v with
  | nil => simp [Mem.wf, Mem.above]
  | cons c t ih =>
    obtain ⟨k', v'⟩ := c
    simp only [Mem.wf, Bool.and_eq_true, bne_iff_ne, ne_eq, decide_eq_true_eq, ih]
    constructor
    · rintro ⟨⟨hv, hk⟩, hv', ha, ht⟩
      refine ⟨hv, ?_, hv', ha, ht⟩
      intro c hc
      rcases List.mem_cons.mp hc with rfl | hc
      · exact hk
      · exact Nat.lt_trans hk (ha c hc)
    · rintro ⟨hv, ha, h⟩
      exact ⟨⟨hv, ha _ (List.mem_cons_self ..)⟩, h⟩

@[simp] theorem Mem.wf_nil : Mem.wf [] = true := rfl

theorem Mem.wf_filter (m : Mem) (p : Host.Cell → Bool) (h : Mem.wf m = true) : Mem.wf (m.filter p) = true := by
  induction m with
  | nil => rfl
  | cons c t ih =>
    obtain ⟨k, v⟩ := c
    obtain ⟨hv, ha, ht⟩ := (Mem.wf_cons k v t).mp h
    by_cases hp : p (k, v)
    · rw [List.filter_cons_of_pos hp]
      exact (Mem.wf_cons ..).mpr ⟨hv, fun c hc => ha c (List.mem_filter.mp hc).1, ih ht⟩
    · rw [List.filter_cons_of_neg hp]
      exact ih ht

theorem Mem.wf_erase (m : Mem) (a : Nat) (h : Mem.wf m = true) : Mem.wf (Mem.erase m a) = true := Mem.wf_filter m _ h

theorem Mem.mem_insert (m : Mem) (a : Nat) (b : Byte) (c : Host.Cell) : c ∈ Mem.insert m a b ↔ c = (a, b) ∨ c ∈ m := by
  induction m with
  | nil => simp [Mem.insert]
  | cons d t ih =>
    obtain ⟨k, v⟩ := d
    by_cases hk : a < k <;> simp only [Mem.insert, hk, if_true, if_false, List.mem_cons, ih]
    exact or_left_comm

theorem Mem.wf_insert (m : Mem) (a : Nat) (b : Byte) (hb : b ≠ 0) (hn : ∀ c ∈ m, c.1 ≠ a) (h : Mem.wf m = true) :
    Mem.wf (Mem.insert m a b) = true := by
  induction m with
  | nil => simpa [Mem.insert, Mem.wf] using hb
  | cons c t ih =>
    obtain ⟨k, v⟩ := c
    obtain ⟨hv, ha, ht⟩ := (Mem.wf_cons k v t).mp h
    by_cases hk : a < k
    · simp only [Mem.insert, hk, if_true]
      refine (Mem.wf_cons ..).mpr ⟨hb, ?_, h⟩
      intro c hc
      rcases List.mem_cons.mp hc with rfl | hc
      · exact hk
      · exact Nat.lt_trans hk (ha c hc)
    · simp only [Mem.insert, hk, if_false]
      refine (Mem.wf_cons ..).mpr ⟨hv, ?_, ih (fun c hc => hn c (List.mem_cons_of_mem _ hc)) ht⟩
      intro c hc
      rcases (Mem.mem_insert ..).mp hc with rfl | hc
      · have := hn (k, v) (List.mem_cons_self ..); simp only [ne_eq] at this; omega
      · exact ha c hc

/-- A write of a byte keeps the canonical form. -/
theorem Mem.wf_put (m : Mem) (a : Nat) (b : Byte) (h : Mem.wf m = true) : Mem.wf (Mem.put m a b) = true := by
  unfold Mem.put
  by_cases hb : b = 0
  · simpa [hb] using Mem.wf_erase m a h
  · simp only [hb, if_false]
    exact Mem.wf_insert _ a b hb (fun c hc => by simpa using (List.mem_filter.mp hc).2) (Mem.wf_erase m a h)

/-- A write of several bytes keeps it. -/
theorem Mem.wf_write (m : Mem) (a n v : Nat) (h : Mem.wf m = true) : Mem.wf (Mem.write m a n v) = true := by
  induction n generalizing m a v with
  | zero => exact h
  | succ n ih => exact ih _ _ _ (Mem.wf_put m a _ h)

theorem Mem.wf_span (m : Mem) (a n : Nat) (h : Mem.wf m = true) : Mem.wf (Mem.span m a n) = true := Mem.wf_filter m _ h

theorem Mem.wf_replace (m : Mem) (a n : Nat) (src : Mem) (h : Mem.wf m = true) : Mem.wf (Mem.replace m a n src) = true := by
  unfold Mem.replace
  have : ∀ m : Mem, Mem.wf m = true → Mem.wf (src.foldl (fun acc c => Mem.put acc c.1 c.2) m) = true := by
    induction src with
    | nil => exact fun _ h => h
    | cons c t ih => exact fun m h => ih _ (Mem.wf_put m c.1 c.2 h)
  exact this _ (Mem.wf_filter m _ h)

/-- Reset memory is canonical. -/
theorem reset_home_wf : Mem.wf State.reset.m.home = true := rfl

/-- Home memory is written at one place, and keeps its form. -/
theorem Mach.rawWrite_home (m : Mach) (k n v : Nat) : (m.rawWrite k n v).home = Mem.write m.home (storeKey k) n v := rfl

theorem Mach.rawWrite_wf (m : Mach) (k n v : Nat) (h : Mem.wf m.home = true) : Mem.wf (m.rawWrite k n v).home = true :=
  Mem.wf_write _ _ _ _ h

theorem Mach.lineWrite_wf (m : Mach) (k n v : Nat) (h : Mem.wf m.home = true) : Mem.wf (m.lineWrite k n v).home = true := by
  unfold Mach.lineWrite
  split
  · exact Mach.rawWrite_wf _ _ _ _ (Mach.rawWrite_wf _ _ _ _ h)
  · exact Mach.rawWrite_wf _ _ _ _ h

theorem Mach.homeWrite_wf (m : Mach) (k n v : Nat) (h : Mem.wf m.home = true) : Mem.wf (m.homeWrite k n v).home = true := by
  unfold Mach.homeWrite
  generalize lineParts k n (n / 128 + 1) = ps
  induction ps generalizing m with
  | nil => exact h
  | cons p ps ih => exact ih _ (Mach.lineWrite_wf _ _ _ _ h)

/-! ### Reading after writing -/

theorem Mem.get_of_not_mem (m : Mem) (a : Nat) (h : ∀ c ∈ m, c.1 ≠ a) : Mem.get m a = 0 := by
  induction m with
  | nil => rfl
  | cons c t ih =>
    obtain ⟨k, v⟩ := c
    have hk : k ≠ a := h (k, v) (List.mem_cons_self ..)
    simp only [Mem.get, hk, if_false]
    exact ih fun c hc => h c (List.mem_cons_of_mem _ hc)

theorem Mem.get_filter_ne (m : Mem) (a x : Nat) (h : x ≠ a) : Mem.get (Mem.erase m a) x = Mem.get m x := by
  induction m with
  | nil => rfl
  | cons c t ih =>
    obtain ⟨k, v⟩ := c
    have ih' : Mem.get (t.filter fun c => !decide (c.1 = a)) x = Mem.get t x := by simpa [Mem.erase] using ih
    by_cases hk : k = a
    · subst hk
      simp [Mem.erase, Mem.get, ih', Ne.symm h]
    · simp [Mem.erase, Mem.get, ih', hk]

@[simp] theorem Mem.get_erase_self (m : Mem) (a : Nat) : Mem.get (Mem.erase m a) a = 0 :=
  Mem.get_of_not_mem _ a fun c hc => by simpa using (List.mem_filter.mp hc).2

theorem Mem.get_insert (m : Mem) (a : Nat) (b : Byte) (x : Nat) (hn : ∀ c ∈ m, c.1 ≠ a) :
    Mem.get (Mem.insert m a b) x = if x = a then b else Mem.get m x := by
  induction m with
  | nil => simp [Mem.insert, Mem.get, eq_comm]
  | cons c t ih =>
    obtain ⟨k, v⟩ := c
    have hk : k ≠ a := hn (k, v) (List.mem_cons_self ..)
    have ih' := ih fun c hc => hn c (List.mem_cons_of_mem _ hc)
    by_cases hlt : a < k
    · simp [Mem.insert, Mem.get, hlt, eq_comm]
    · simp only [Mem.insert, hlt, if_false, Mem.get, ih']
      by_cases hx : x = a
      · subst hx; simp [hk]
      · simp [hx]

/-- The byte written is read back; every other byte is as before. -/
@[simp] theorem Mem.get_put (m : Mem) (a : Nat) (b : Byte) (x : Nat) :
    Mem.get (Mem.put m a b) x = if x = a then b else Mem.get m x := by
  unfold Mem.put
  by_cases hb : b = 0
  · subst hb
    by_cases hx : x = a
    · subst hx; simp
    · simp [hx, Mem.get_filter_ne]
  · simp only [hb, if_false]
    rw [Mem.get_insert _ _ _ _ fun c hc => by simpa using (List.mem_filter.mp hc).2]
    by_cases hx : x = a
    · simp [hx]
    · simp [hx, Mem.get_filter_ne]

/-- A write of `n` bytes: the byte at `x` is byte `x - a` of the value, every byte outside is as before. -/
theorem Mem.get_write (m : Mem) (a n v x : Nat) :
    Mem.get (Mem.write m a n v) x = if a ≤ x ∧ x < a + n then BitVec.ofNat 8 (v / 256 ^ (x - a)) else Mem.get m x := by
  induction n generalizing m a v with
  | zero => simp only [Mem.write]; rw [if_neg (by omega)]
  | succ n ih =>
    rw [Mem.write, ih, Mem.get_put]
    by_cases hx : x = a
    · subst hx; rw [if_neg (by omega), if_pos rfl, if_pos (by omega)]; simp
    · by_cases h : a + 1 ≤ x ∧ x < a + 1 + n
      · rw [if_pos h, if_pos (by omega), Nat.div_div_eq_div_mul, ← Nat.pow_succ']
        congr 3; omega
      · rw [if_neg h, if_neg hx, if_neg (by omega)]

theorem Mem.read_lt (m : Mem) (a n : Nat) : Mem.read m a n < 256 ^ n := by
  induction n generalizing a with
  | zero => simp [Mem.read]
  | succ n ih =>
    have h1 := ih (a + 1)
    have h2 : (Mem.get m a).toNat < 256 := (Mem.get m a).isLt
    rw [Mem.read, Nat.pow_succ]; omega

/-- The value written is read back. -/
theorem Mem.read_write_self (m : Mem) (a n v : Nat) : Mem.read (Mem.write m a n v) a n = v % 256 ^ n := by
  have key : ∀ n k m, (∀ i, i < n → Mem.get m (a + k + i) = BitVec.ofNat 8 (v / 256 ^ (k + i))) →
      Mem.read m (a + k) n = v / 256 ^ k % 256 ^ n := by
    intro n
    induction n with
    | zero => intro k m _; simp [Mem.read, Nat.mod_one]
    | succ n ih =>
      intro k m h
      have h0 := h 0 (by omega)
      have ih' := ih (k + 1) m fun i hi => by
        have := h (i + 1) (by omega)
        rwa [show a + (k + 1) + i = a + k + (i + 1) by omega, show k + 1 + i = k + (i + 1) by omega]
      rw [Mem.read, show a + k + 1 = a + (k + 1) by omega, ih']
      simp only [Nat.add_zero] at h0
      have e : 256 ^ (k + 1) = 256 ^ k * 256 := Nat.pow_succ ..
      rw [h0, BitVec.toNat_ofNat, e, ← Nat.div_div_eq_div_mul, Nat.pow_succ' (n := n), Nat.mod_mul]
  have := key n 0 (Mem.write m a n v) fun i hi => by
    rw [Mem.get_write, if_pos (by omega), show a + 0 + i - a = 0 + i by omega]
  simpa only [Nat.add_zero, Nat.pow_zero, Nat.div_one] using this

/-- A read outside the bytes written is as before. -/
theorem Mem.read_write_disjoint (m : Mem) (a n v b k : Nat) (h : b + k ≤ a ∨ a + n ≤ b) :
    Mem.read (Mem.write m a n v) b k = Mem.read m b k := by
  induction k generalizing b with
  | zero => rfl
  | succ k ih => rw [Mem.read, Mem.read, Mem.get_write, if_neg (by omega), ih (b + 1) (by omega)]

end Sys2Proof.Machine
end

