-- ==== Sys2Proof/Laws/Rest.lean ====
section
/-! SUPPORT. What the operations over memory, caches and epochs leave alone: everything of the machine but home memory with its tags,
marks and lines, the dies, requests held for a port, and the domain registers, which the end of a switch changes. -/

namespace Sys2Proof.Machine

/-- The machine without its memories and without the state of a domain switch. -/
def Mach.base (m : Mach) : Mach :=
  { m.rest with domCur := tab fun _ => 0, domPend := tab fun _ => 0, switching := none, switched := [] }

/-- Machines that agree but for their memories agree so. -/
theorem base_of_rest {m m' : Mach} (h : m'.rest = m.rest) : m'.base = m.base := by
  simp only [Mach.base, h]

theorem foldl_base {α : Type} (f : Mach → α → Mach) (h : ∀ m a, (f m a).base = m.base) (l : List α) (m : Mach) :
    (l.foldl f m).base = m.base := by
  induction l generalizing m with
  | nil => rfl
  | cons a t ih => rw [List.foldl_cons, ih, h]

@[simp] theorem modDie_base (m : Mach) (d : Nat) (f : Die → Die) : (m.modDie d f).base = m.base := rfl
@[simp] theorem modCore_base (m : Mach) (d c : Nat) (f : Core → Core) : (m.modCore d c f).base = m.base := rfl
@[simp] theorem mergeTag_base (m : Mach) (a : Nat) (v : List Nat) : (m.mergeTag a v).base = m.base := rfl
@[simp] theorem setTag_base (m : Mach) (a d e : Nat) : (m.setTag a d e).base = m.base := rfl
@[simp] theorem llcTouch_base (m : Mach) (k : Nat) (b : Bool) : (m.llcTouch k b).base = m.base := by
  rfl
@[simp] theorem clearPoison_base (m : Mach) (k n : Nat) : (m.clearPoison k n).base = m.base := rfl
@[simp] theorem rawWrite_base (m : Mach) (k n v : Nat) : (m.rawWrite k n v).base = m.base := by
  have : (m.rawWrite k n v).base = ((m.clearPoison (storeKey k) n).llcTouch k true).base := rfl
  simp [this]
@[simp] theorem lineWrite_base (m : Mach) (k n v : Nat) : (m.lineWrite k n v).base = m.base := by
  unfold Mach.lineWrite; split <;> simp
@[simp] theorem homeWrite_base (m : Mach) (k n v : Nat) : (m.homeWrite k n v).base = m.base :=
  foldl_base _ (fun _ _ => lineWrite_base ..) _ _

@[simp] theorem applyAll_base (m : Mach) (d : Nat) : (m.applyAll d).base = m.base := rfl
@[simp] theorem applyRec_base (n : Nat) (m : Mach) (d a e : Nat) : (Mach.applyRec n m d a e).base = m.base := by
  induction n generalizing m d a e with
  | zero => rfl
  | succ n ih =>
    unfold Mach.applyRec
    split
    · rfl
    · dsimp only
      split
      · rfl
      · rw [ih, modDie_base, foldl_base]
        intro m c; split
        · exact ih ..
        · rfl
@[simp] theorem apply_base (m : Mach) (d a e : Nat) : (m.apply d a e).base = m.base := applyRec_base ..
@[simp] theorem applyLatest_base (m : Mach) (d : Nat) : (m.applyLatest d).base = m.base := foldl_base _ (fun _ _ => apply_base ..) _ _
@[simp] theorem applySeen_base (m : Mach) (d : Nat) (v : List Nat) : (m.applySeen d v).base = m.base :=
  foldl_base _ (fun _ _ => apply_base ..) _ _
@[simp] theorem acquireDrops_base (m : Mach) (d c : Nat) (sc : Scope) : (m.acquireDrops d c sc).base = m.base := by
  cases sc <;> simp [Mach.acquireDrops]
@[simp] theorem finishSwitch_base (m : Mach) (new : Tab 16 Word) : (m.finishSwitch new).base = m.base := by
  unfold Mach.finishSwitch
  dsimp only
  exact (foldl_base Mach.applyLatest applyLatest_base _ _ :)
@[simp] theorem awaitSwitch_base (m : Mach) (ls : List Nat) : (m.awaitSwitch ls).base = m.base := by
  unfold Mach.awaitSwitch
  split
  · split <;> simp
  · rfl
theorem readTag_base {m m' : Mach} {d a : Nat} (h : m.readTag d a = some m') : m'.base = m.base := by
  unfold Mach.readTag at h
  dsimp only at h
  split at h
  · cases h
  · cases h; simp
@[simp] theorem drainSector_base (m : Mach) (d e a : Nat) : (m.drainSector d e a).base = m.base := by
  unfold Mach.drainSector
  split
  · rfl
  · dsimp only
    split
    · rfl
    · split
      · simp
      · rw [setTag_base, foldl_base]; intros; simp
@[simp] theorem closeEpoch_base (m : Mach) (d : Nat) : (m.closeEpoch d).base = m.base := by
  unfold Mach.closeEpoch
  dsimp only
  split
  · simp
  · split
    · simp
    · rw [modDie_base, foldl_base, foldl_base]
      · simp
      · intros; simp
      · intro m a; rfl
@[simp] theorem publishLine_base (m : Mach) (k : Nat) : (m.publishLine Mach.closeEpoch k).base = m.base := by
  unfold Mach.publishLine
  apply foldl_base
  intro m a
  apply foldl_base
  intro m b
  split <;> simp
@[simp] theorem unblock_base (m : Mach) (k : Nat) : (m.unblock k).base = m.base := by simp [Mach.unblock]
@[simp] theorem flushBytes_base (m : Mach) (d : Nat) (ks : List Nat) : (m.flushBytes d ks).base = m.base := by
  unfold Mach.flushBytes
  split
  · rfl
  · dsimp only
    rw [modDie_base, foldl_base]
    intro m k
    split
    · rfl
    · simp
@[simp] theorem flushHost_base (m : Mach) (d : Nat) : (m.flushHost d).base = m.base := flushBytes_base ..
@[simp] theorem replaceLine_base (m : Mach) (d l : Nat) : (m.replaceLine d l).base = m.base := by
  unfold Mach.replaceLine; dsimp only; split <;> simp
@[simp] theorem release_base (m : Mach) (d : Nat) (sc : Scope) : (m.release d sc).base = m.base := by
  cases sc <;> simp [Mach.release]

theorem foldl_bind_base {α : Type} (f : Mach → α → Option Mach) (h : ∀ m a m', f m a = some m' → m'.base = m.base) (l : List α) (o : Option Mach)
    (m m' : Mach) (ho : o = some m) (hr : l.foldl (fun o a => o.bind fun m => f m a) o = some m') : m'.base = m.base := by
  induction l generalizing o m with
  | nil => subst ho; cases hr; rfl
  | cons a t ih =>
    subst ho
    rw [List.foldl_cons] at hr
    simp only [Option.bind_some] at hr
    cases hf : f m a with
    | none =>
      rw [hf] at hr
      have : ∀ l : List α, l.foldl (fun o a => o.bind fun m => f m a) none = none := by
        intro l; induction l with
        | nil => rfl
        | cons _ _ ih => simpa using ih
      rw [this] at hr; cases hr
    | some m1 => exact (ih _ _ hf hr).trans (h _ _ _ hf)

theorem fetchLine_base {m m' : Mach} {d l : Nat} (h : m.fetchLine d l = some m') : m'.base = m.base := by
  unfold Mach.fetchLine at h
  split at h
  · cases h
  · split at h
    · cases h; rfl
    · split at h
      · cases h
      · dsimp only at h
        rw [Option.map_eq_some_iff] at h
        obtain ⟨m1, h1, rfl⟩ := h
        rw [modDie_base, llcTouch_base, foldl_base _ (fun _ _ => replaceLine_base ..)]
        exact foldl_bind_base (fun m s => m.readTag d s) (fun _ _ _ => readTag_base) _ _ _ _ rfl h1

theorem dieRead_base {m m' : Mach} {d k n v : Nat} (h : m.dieRead d k n = some (v, m')) : m'.base = m.base := by
  unfold Mach.dieRead at h
  split at h
  · cases h; rfl
  · split at h
    · cases h
    · split at h
      · cases h; rfl
      · rw [Option.bind_eq_some_iff] at h
        obtain ⟨m1, h1, h2⟩ := h
        rw [Option.map_eq_some_iff] at h2
        obtain ⟨x, -, h3⟩ := h2
        cases h3
        exact fetchLine_base h1

theorem coreLoad_base {m m' : Mach} {d c k n v : Nat} (h : m.coreLoad d c k n = some (v, m')) : m'.base = m.base := by
  unfold Mach.coreLoad at h
  split at h
  · cases h
  · split at h
    · cases h; rfl
    · split at h
      · cases h; rfl
      · split at h
        · exact dieRead_base h
        · rename_i m1 h1
          rw [Option.map_eq_some_iff] at h
          obtain ⟨x, -, h3⟩ := h
          cases h3
          simpa using fetchLine_base h1

@[simp] theorem dieWrite_base (m : Mach) (d : Nat) (c : Option Nat) (k n v : Nat) : (m.dieWrite d c k n v).base = m.base := by
  unfold Mach.dieWrite
  cases c <;> simp
@[simp] theorem closeIfFull_base (m : Mach) (d : Nat) : (m.closeIfFull d).base = m.base := by
  unfold Mach.closeIfFull; split <;> simp
@[simp] theorem allocate_base (m : Mach) (d l : Nat) : (m.allocate d l).base = m.base := by
  unfold Mach.allocate
  cases h : m.fetchLine d l with
  | none => rfl
  | some m1 => exact fetchLine_base h
/-- A write past the read-only registers leaves alone what each of its parts does. -/
theorem pastReadOnly_base (m : Mach) (k n v : Nat) (w : Mach → Nat → Nat → Nat → Mach) (h : ∀ m k n v, (w m k n v).base = m.base) :
    (m.pastReadOnly k n v w).base = m.base := by
  unfold Mach.pastReadOnly
  dsimp only
  split
  · apply foldl_base
    intro m i
    split
    · rfl
    · exact h ..
  · exact h ..
@[simp] theorem dieStore_base (m : Mach) (d : Nat) (c : Option Nat) (k n v : Nat) : (m.dieStore d c k n v).base = m.base := by
  unfold Mach.dieStore
  apply pastReadOnly_base
  intros
  split <;> simp
@[simp] theorem markStale_base (m : Mach) (d l : Nat) : (m.markStale d l).base = m.base := by
  apply foldl_base
  intros
  split <;> simp
@[simp] theorem homeStore_base (m : Mach) (d c k n v : Nat) : (m.homeStore d c k n v).base = m.base := by
  unfold Mach.homeStore Mach.dropOwn
  apply pastReadOnly_base
  intros
  dsimp only
  split <;> simp
@[simp] theorem earlyDrain_base (m : Mach) (d : Nat) (l : List Nat) : (m.earlyDrain d l).base = m.base := by
  unfold Mach.earlyDrain
  split
  · rfl
  · dsimp only
    rw [foldl_base, foldl_base]
    · intros; simp
    · intro m a; rfl
theorem homeLoad_base {m m' : Mach} {d k n v : Nat} (h : m.homeLoad d k n = some (v, m')) : m'.base = m.base := by
  unfold Mach.homeLoad at h
  split at h
  · cases h
  · rw [Option.map_eq_some_iff] at h
    obtain ⟨m1, h1, h2⟩ := h
    cases h2
    split at h1
    · exact readTag_base h1
    · cases h1; rfl
@[simp] theorem outsideWrite_base (m : Mach) (k n v : Nat) : (m.outsideWrite k n v).base = m.base := by
  unfold Mach.outsideWrite
  apply pastReadOnly_base
  intros
  unfold Mach.pastCaches
  simp
  try rfl
@[simp] theorem lookup_base (m : Mach) (d c ctx va : Nat) : (m.lookup d c ctx va).2.base = m.base := by
  unfold Mach.lookup
  dsimp only
  split
  · rfl
  · split
    · rfl
    · rfl
@[simp] theorem translate_base (m : Mach) (d c ctx va n : Nat) (a : Access) (super : Bool) : (m.translate d c ctx va n a super).2.base = m.base := by
  have hl := lookup_base m d c ctx va
  unfold Mach.translate
  split
  · rfl
  · split
    · rfl
    · split
      · rename_i h; rw [h] at hl; exact hl
      · rename_i h; rw [h] at hl
        split
        · exact hl
        · split <;> exact hl
@[simp] theorem fwWrite_base (m : Mach) (ctx va n v : Nat) : (m.fwWrite ctx va n v).base = m.base := by
  unfold Mach.fwWrite; split <;> simp
@[simp] theorem fwStoreAt_base (m : Mach) (d ctx va n v : Nat) : (m.fwStoreAt d ctx va n v).base = m.base := by
  unfold Mach.fwStoreAt
  apply foldl_base
  intro m p
  split <;> simp
@[simp] theorem fwStore_base (m : Mach) (ctx va n v : Nat) : (m.fwStore ctx va n v).base = m.base := fwStoreAt_base ..
@[simp] theorem announce_base (m : Mach) (ctx : Nat) (sc : Scope) : (m.announce ctx sc).base = m.base := by simp [Mach.announce]
@[simp] theorem setResidency_base (m : Mach) (ctx : Nat) (r : RangeDesc) (g st : Nat) : (m.setResidency ctx r g st).base = m.base := by
  simp [Mach.setResidency]
@[simp] theorem setUsed_base (m : Mach) (ctx a u : Nat) : (m.setUsed ctx a u).base = m.base := by
  unfold Mach.setUsed; split <;> simp
theorem charge_base {m m' : Mach} {ctx a n : Nat} (h : m.charge ctx a n = some m') : m'.base = m.base := by
  unfold Mach.charge at h
  dsimp only at h
  split at h
  · cases h; simp
  · cases h
@[simp] theorem credit_base (m : Mach) (ctx a n : Nat) : (m.credit ctx a n).base = m.base := by simp [Mach.credit]
@[simp] theorem lateCheck_base (m : Mach) (ctx : Nat) (r : RangeDesc) (va : Nat) (b : Bool) : (m.lateCheck ctx r va b).2.base = m.base := by
  unfold Mach.lateCheck
  dsimp only
  split
  · rfl
  · rfl
  · split
    · rfl
    · split
      · rename_i h; simpa using charge_base h
      · rfl
  · rfl
theorem instrLine_base {m m' : Mach} {d c k v : Nat} {q : List (Nat × Nat)} (h : m.instrLine d c q k = some (v, m')) : m'.base = m.base := by
  unfold Mach.instrLine at h
  split at h
  · cases h
  · split at h
    · cases h; rfl
    · split at h
      · cases h; rfl
      · rw [Option.bind_eq_some_iff] at h
        obtain ⟨m1, h1, h2⟩ := h
        rw [Option.map_eq_some_iff] at h2
        obtain ⟨x, -, h3⟩ := h2
        cases h3
        simpa using fetchLine_base h1

@[simp] theorem fetchHalf_base (m : Mach) (d c : Nat) (q : List (Nat × Nat)) (ctx va : Nat) (super replay : Bool) :
    (m.fetchHalf d c q ctx va super replay).2.base = m.base := by
  have ht := translate_base m d c ctx va 2 .fetch super
  unfold Mach.fetchHalf
  split
  · rename_i h; rw [h] at ht; exact ht
  · rename_i r m1 h
    rw [h] at ht
    have hgo : ∀ m2 : Mach, m2.base = m.base → (
        (if m2.meetsPoison d (r.key va) 2 then ((.error (.fault 0x42 0 va), m2) : Except Fetch (Nat × Nat) × Mach)
        else match m2.instrLine d c q (r.key va) with
          | some (v, m) => (.ok (r.key va, v), m)
          | none => (.error .held, m2))).2.base = m.base := by
      intro m2 h2
      split
      · exact h2
      · split
        · rename_i h3; exact (instrLine_base h3).trans h2
        · exact h2
    dsimp only
    split
    · split
      · exact ht
      · exact hgo m1 ht
    · exact ht
    · split
      · exact ht
      · split
        · rename_i h4; exact hgo _ (by rw [setResidency_base, charge_base h4]; exact ht)
        · exact ht
    · exact ht

@[simp] theorem fetchHalves_base (m : Mach) (d c : Nat) (q : List (Nat × Nat)) (ctx va : Nat) (super replay : Bool) (n : Nat) :
    (m.fetchHalves d c q ctx va super replay n).2.base = m.base := by
  induction n generalizing m va with
  | zero => rfl
  | succ n ih =>
    have h1 := fetchHalf_base m d c q ctx va super replay
    unfold Mach.fetchHalves
    split
    · rename_i h; rw [h] at h1; exact h1
    · rename_i m1 h
      rw [h] at h1
      have h2 := (ih m1 (va + 2)).trans h1
      split
      · rename_i h3; rw [h3] at h2; exact h2
      · rename_i h3; rw [h3] at h2; exact h2

@[simp] theorem fetchWhole_base (m : Mach) (d c : Nat) (q : List (Nat × Nat)) (ctx va : Nat) (super replay : Bool) :
    (m.fetchWhole d c q ctx va super replay).2.base = m.base := by
  have h1 := fetchHalf_base m d c q ctx va super replay
  unfold Mach.fetchWhole
  split
  · rename_i h; rw [h] at h1; exact h1
  · rename_i m1 h
    rw [h] at h1
    split
    · exact h1
    · have h2 := (fetchHalf_base m1 d c q ctx (va + 2) super replay).trans h1
      split
      · rename_i h'; rw [h'] at h2; exact h2
      · rename_i b1 _ _ b2 m2 h'
        rw [h'] at h2
        have h3 := (fetchHalves_base m2 d c q ctx (va + 4) super replay ((lengthOf (halfBytes [b1, b2]) - 4) / 2)).trans h2
        split
        · rename_i h''; rw [h''] at h3; exact h3
        · rename_i h''; rw [h''] at h3; exact h3

@[simp] theorem fetchInstr_base (m : Mach) (d c : Nat) (q : Fin 4) (ctx va : Nat) (super replay : Bool) :
    (m.fetchInstr d c q ctx va super replay).2.base = m.base := by
  unfold Mach.fetchInstr
  dsimp only
  generalize m.loopAt d c q ctx va super = loop
  have h1 := fetchWhole_base m d c loop ctx va super replay
  cases h : m.fetchWhole d c loop ctx va super replay with
  | mk e m1 =>
    rw [h] at h1
    cases e with
    | error e => exact h1
    | ok hs =>
      dsimp only
      by_cases hc : hs = loop ∨ (loop = [] ∧ (hs.map fun h => lineOf h.1).eraseDups.length ≤ 1)
      · rw [if_pos hc]; exact h1
      · rw [if_neg hc, fetchWhole_base]; exact h1

/-- A fetch leaves all but the memories and the domain registers as they are. -/
@[simp] theorem fetch_base (m : Mach) (d c : Nat) (q : Fin 4) (ctx va : Nat) (super replay : Bool) :
    (m.fetch d c q ctx va super replay).2.base = m.base := by
  have h1 := fetchInstr_base m d c q ctx va super replay
  unfold Mach.fetch
  split
  · rename_i h; rw [h] at h1; exact h1
  · rename_i h; rw [h] at h1; exact h1

/-- What machines that agree but for their memories and the domain registers have in common. -/
theorem teams_of_base {m m' : Mach} (h : m'.base = m.base) : m'.teams = m.teams :=
  (congrArg Mach.teams h : m'.base.teams = m.base.teams)
theorem contexts_of_base {m m' : Mach} (h : m'.base = m.base) : m'.contexts = m.contexts :=
  (congrArg Mach.contexts h : m'.base.contexts = m.base.contexts)
theorem turn_of_base {m m' : Mach} (h : m'.base = m.base) : m'.turn = m.turn :=
  (congrArg Mach.turn h : m'.base.turn = m.base.turn)
theorem unit_of_base {m m' : Mach} (h : m'.base = m.base) : m'.unit = m.unit :=
  (congrArg Mach.unit h : m'.base.unit = m.base.unit)

theorem issuer_of_base {m m' : Mach} (h : m'.base = m.base) : m'.issuer = m.issuer := by
  simp only [Mach.issuer, teams_of_base h, turn_of_base h, Mach.ctx?, contexts_of_base h]

end Sys2Proof.Machine
end

