-- ==== Sys2Proof/Laws/Results.lean ====
section
/-! SUPPORT. What the shared shapes of the register instructions leave: a result lane by lane, a scalar result, a new CM. -/

namespace Sys2Proof.Machine

theorem Warp.writeVec_frame (x : Warp) (on : Fin 32 → Bool) (d : Dst) (r : Fin 32 → Word) :
    (x.writeVec on d r).still = ({ x with v := (x.writeVec on d r).v, poison := (x.writeVec on d r).poison } : Warp).still := by
  unfold Warp.writeVec
  split <;> simp [Warp.still, Warp.push, Warp.setV]

theorem Warp.writeScal_frame (x : Warp) (d : SDst) (r : Word) :
    (x.writeScal d r).still = ({ x with s := (x.writeScal d r).s } : Warp).still := by
  unfold Warp.writeScal
  split <;> simp [Warp.still, Warp.push, Warp.setS]

/-- An instruction that ends in a lane-by-lane result leaves what 07 R114 says. -/
theorem WritesLanes.of_retire {s : State} {g : Issue} {i : Instr} {d : Dst} {r : Fin 32 → Word}
    (he : exec i s = .next { s with m := s.m.retire g i ((g.warp.begin i.uses).writeVec g.active d r) }) :
    ∃ x, WritesLanes s g i d r x := by
  have hn : ∀ k q, ((g.warp.begin i.uses).push k q).name = g.warp.name := fun k q => Warp.name_congr (by simp) (by simp)
  refine ⟨(((g.warp.begin i.uses).writeVec g.active d r).settle i.uses (s.m.trapPc g) g.gang).goOn g.gang (g.pc + i.size),
    ⟨?_, ?_, ?_, ?_, ?_, ?_⟩⟩
  · rw [he]; rfl
  · apply GoesOn.of_settle <;> (unfold Warp.writeVec; split <;> simp)
  · intro n l
    simp only [Warp.goOn_v, Warp.settle_v]
    unfold Warp.writeVec
    cases hw : d.w <;> simp [Warp.setV, hn]
  · intro n l
    simp only [Warp.goOn_poison, Warp.settle_poison]
    unfold Warp.writeVec
    cases hw : d.w <;> simp [Warp.setV, hn]
    cases g.active l <;> simp
  · rw [goOn_b]
    · unfold Issue.latchesWritten
      split
      · rfl
      · unfold Warp.writeVec Warp.begin
        cases d.w <;> by_cases h3 : i.uses.readsLatch <;> simp [Warp.push, h3, Warp.noLatch]
    · unfold Warp.writeVec; split <;> simp
    · unfold Warp.writeVec; split <;> simp
  · rw [Warp.goOn_still, Warp.settle_still, Warp.writeVec_frame]
    simp only [Warp.goOn_v, Warp.settle_v, Warp.goOn_poison, Warp.settle_poison]
    unfold Warp.still
    simp

/-- An instruction that ends in a scalar result leaves what 07 R114 says. -/
theorem WritesScalar.of_retire {s : State} {g : Issue} {i : Instr} {d : SDst} {r : Word}
    (he : exec i s = .next { s with m := s.m.retire g i ((g.warp.begin i.uses).writeScal d r) }) :
    ∃ x, WritesScalar s g i d r x := by
  refine ⟨(((g.warp.begin i.uses).writeScal d r).settle i.uses (s.m.trapPc g) g.gang).goOn g.gang (g.pc + i.size), ⟨?_, ?_, ?_, ?_, ?_⟩⟩
  · rw [he]; rfl
  · apply GoesOn.of_settle <;> (unfold Warp.writeScal; split <;> simp)
  · intro n
    simp only [Warp.goOn_s, Warp.settle_s]
    unfold Warp.writeScal
    cases hw : d.w <;> simp [Warp.setS, eq_comm]
  · rw [goOn_b]
    · unfold Issue.latchesWritten
      split
      · rfl
      · unfold Warp.writeScal Warp.begin
        cases d.w <;> by_cases h3 : i.uses.readsLatch <;> simp [Warp.push, h3, Warp.noLatch]
    · unfold Warp.writeScal; split <;> simp
    · unfold Warp.writeScal; split <;> simp
  · rw [Warp.goOn_still, Warp.settle_still, Warp.writeScal_frame]
    simp only [Warp.goOn_s, Warp.settle_s]
    unfold Warp.still
    simp

/-- The latches after an instruction that is no latch writer. -/
theorem begin_latchesKept (g : Issue) (i : Instr) :
    (if g.loopsBack i || i.uses.ending then emptyLatches else (g.warp.begin i.uses).b) = g.latchesKept i := by
  unfold Issue.latchesKept Warp.begin
  by_cases h1 : g.loopsBack i <;> by_cases h2 : i.uses.ending <;> by_cases h3 : i.uses.readsLatch <;>
    simp [h1, h2, h3, Warp.noLatch, emptyLatches]

/-- An instruction that ends with a change `f` of its warp that leaves loops, PCs and latches alone. -/
theorem Changes.of_retire {s : State} {g : Issue} {i : Instr} {f : Warp → Warp}
    (hb : ∀ x, (f x).b = x.b) (hl : ∀ x, (f x).lc = x.lc) (h2 : ∀ x, (f x).ls = x.ls) (h3 : ∀ x, (f x).le = x.le)
    (h4 : ∀ x, (f x).slices = x.slices) (hf : (f (g.warp.begin i.uses)).still = (f g.warp).still)
    (he : exec i s = .next { s with m := s.m.retire g i (f (g.warp.begin i.uses)) }) : ∃ x, Changes s g i f x := by
  refine ⟨((f (g.warp.begin i.uses)).settle i.uses (s.m.trapPc g) g.gang).goOn g.gang (g.pc + i.size), ⟨?_, ?_, ?_, ?_⟩⟩
  · rw [he]; rfl
  · apply GoesOn.of_settle <;> simp [hl, h2, h3, h4]
  · rw [goOn_b _ _ (by simp [hl]) (by simp [h3]), hb]
    exact begin_latchesKept g i
  · rw [Warp.goOn_still, Warp.settle_still, hf]

/-- As `Changes.of_retire`, for an instruction whose effect takes the machine to `m'`. -/
theorem Acts.of_retire {s : State} {g : Issue} {i : Instr} {m' : Mach} {f : Warp → Warp}
    (hb : ∀ x, (f x).b = x.b) (hl : ∀ x, (f x).lc = x.lc) (h2 : ∀ x, (f x).ls = x.ls) (h3 : ∀ x, (f x).le = x.le)
    (h4 : ∀ x, (f x).slices = x.slices) (hf : (f (g.warp.begin i.uses)).still = (f g.warp).still)
    (he : exec i s = .next { s with m := m'.retire g i (f (g.warp.begin i.uses)) }) : ∃ x, Acts s g i m' f x := by
  refine ⟨((f (g.warp.begin i.uses)).settle i.uses (m'.trapPc g) g.gang).goOn g.gang (g.pc + i.size), ⟨?_, ?_, ?_, ?_⟩⟩
  · rw [he]; rfl
  · apply GoesOn.of_settle <;> simp [hl, h2, h3, h4]
  · rw [goOn_b _ _ (by simp [hl]) (by simp [h3]), hb]
    exact begin_latchesKept g i
  · rw [Warp.goOn_still, Warp.settle_still, hf]

/-! ### Masks by bits -/

/-- The number whose low bits are given. -/
theorem bitSum (n : Nat) (f : Fin n → Bool) :
    ((List.finRange n).map fun l => if f l then 2 ^ l.val else 0).sum < 2 ^ n ∧
    ∀ j : Fin n, ((List.finRange n).map fun l => if f l then 2 ^ l.val else 0).sum.testBit j.val = f j := by
  induction n with
  | zero => exact ⟨by simp, fun j => j.elim0⟩
  | succ n ih =>
    obtain ⟨h1, h2⟩ := ih fun l => f l.castSucc
    rw [List.finRange_succ_last, List.map_append, List.sum_append, List.map_map]
    simp only [List.map_cons, List.map_nil, List.sum_cons, List.sum_nil, Nat.add_zero, Function.comp_def, Fin.val_castSucc, Fin.val_last]
    constructor
    · split <;> omega
    · intro j
      induction j using Fin.lastCases with
      | last =>
        simp only [Fin.val_last]
        cases h : f (Fin.last n)
        · simpa using Nat.testBit_lt_two_pow h1
        · simp only [if_true]
          rw [Nat.add_comm, Nat.testBit_two_pow_add_eq, Nat.testBit_lt_two_pow h1]; rfl
      | cast j =>
        rw [← h2 j]
        split
        · rw [Nat.add_comm, Fin.val_castSucc, Nat.testBit_two_pow_add_gt j.isLt]
        · simp

theorem laneMask_bit (f : Fin 32 → Bool) (l : Fin 32) : (laneMask f).getLsbD l.val = f l := by
  simp only [laneMask, BitVec.getLsbD_ofNat, (bitSum 32 f).2 l, l.isLt, decide_true, Bool.true_and]

theorem sliceMask_bit (f : Fin 8 → Bool) (j : Fin 8) : (sliceMask f).getLsbD j.val = f j := by
  simp only [sliceMask, BitVec.getLsbD_ofNat, (bitSum 8 f).2 j, j.isLt, decide_true, Bool.true_and]

/-- An instruction that ends by writing a mask bit by bit. -/
theorem WritesMask.of_retire {s : State} {g : Issue} {i : Instr} {k : MaskName} {on c : Fin 32 → Bool}
    (he : exec i s = .next { s with m := s.m.retire g i ((g.warp.begin i.uses).setMask k
      (laneMask fun l => if on l then c l else (g.warp.mask k).getLsbD l.val)) }) : ∃ x, WritesMask s g i k on c x := by
  refine ⟨(((g.warp.begin i.uses).setMask k (laneMask fun l => if on l then c l else (g.warp.mask k).getLsbD l.val)).settle i.uses (s.m.trapPc g) g.gang).goOn g.gang (g.pc + i.size), ⟨?_, ?_, ?_, ?_, ?_⟩⟩
  · rw [he]; rfl
  · apply GoesOn.of_settle <;> cases k <;> simp [Warp.setMask]
  · intro l
    cases k <;> simp only [Warp.mask, Warp.setMask, Warp.goOn_exec, Warp.settle_exec, Warp.goOn_cm, Warp.settle_cm, laneMask_bit]
  · rw [goOn_b _ _ (by cases k <;> simp [Warp.setMask]) (by cases k <;> simp [Warp.setMask])]
    rw [show ∀ v, ((g.warp.begin i.uses).setMask k v).b = (g.warp.begin i.uses).b from by intro v; cases k <;> rfl]
    exact begin_latchesKept g i
  · rw [Warp.goOn_still, Warp.settle_still]
    have h := Warp.begin_still g.warp i.uses
    cases k <;> (simp only [Warp.setMask, Warp.mask, Warp.goOn_exec, Warp.settle_exec, Warp.goOn_cm, Warp.settle_cm]; unfold Warp.still; simp)

/-- An instruction that ends as a compare does. -/
theorem WritesCm.of_retire {s : State} {g : Issue} {i : Instr} {c : Fin 32 → Bool}
    (he : exec i s = .next { s with m := s.m.retire g i { g.warp.begin i.uses with cm := g.withCm c } }) : ∃ x, WritesCm s g i c x := by
  obtain ⟨x, h⟩ := WritesMask.of_retire (k := .cm) (on := g.active) (c := c) he
  exact ⟨x, h.answers, h.goes, h.bits, h.latches, h.frame⟩

/-- An instruction that ends as a shuffle does. -/
theorem WritesShuffle.of_retire {s : State} {g : Issue} {i : Instr} {d : Dst} {r : Fin 32 → Word} {c : Fin 32 → Bool}
    (he : exec i s = .next { s with m := s.m.retire g i { (g.warp.begin i.uses).writeVec g.active d r with cm := g.withCm c } }) :
    ∃ x, WritesShuffle s g i d r c x := by
  have hn : ∀ k q, ((g.warp.begin i.uses).push k q).name = g.warp.name := fun k q => Warp.name_congr (by simp) (by simp)
  refine ⟨(({ (g.warp.begin i.uses).writeVec g.active d r with cm := g.withCm c } : Warp).settle i.uses (s.m.trapPc g) g.gang).goOn g.gang (g.pc + i.size),
    ⟨?_, ?_, ?_, ?_, ?_, ?_, ?_⟩⟩
  · rw [he]; rfl
  · apply GoesOn.of_settle <;> (unfold Warp.writeVec; dsimp only; split <;> simp)
  · intro n l
    simp only [Warp.goOn_v, Warp.settle_v]
    unfold Warp.writeVec
    cases hw : d.w <;> simp [Warp.setV, hn]
  · intro n l
    simp only [Warp.goOn_poison, Warp.settle_poison]
    unfold Warp.writeVec
    cases hw : d.w <;> simp [Warp.setV, hn]
    cases g.active l <;> simp
  · intro l
    simp only [Warp.goOn_cm, Warp.settle_cm, Issue.withCm, laneMask_bit]
  · rw [goOn_b]
    · unfold Issue.latchesWritten
      split
      · rfl
      · unfold Warp.writeVec Warp.begin
        cases d.w <;> by_cases h3 : i.uses.readsLatch <;> simp [Warp.push, h3, Warp.noLatch]
    · unfold Warp.writeVec; dsimp only; split <;> simp
    · unfold Warp.writeVec; dsimp only; split <;> simp
  · rw [Warp.goOn_still, Warp.settle_still]
    simp only [Warp.goOn_v, Warp.settle_v, Warp.goOn_poison, Warp.settle_poison, Warp.goOn_cm, Warp.settle_cm]
    unfold Warp.writeVec
    cases d.w <;> (unfold Warp.still; simp [Warp.push, Warp.setV])

/-- An instruction that ends by writing a scalar pair. -/
theorem WritesPair.of_retire {s : State} {g : Issue} {i : Instr} {d : Fin 32} {r : Nat}
    (he : exec i s = .next { s with m := s.m.retire g i ((g.warp.begin i.uses).setPair d r) }) : ∃ x, WritesPair s g i d r x := by
  refine ⟨(((g.warp.begin i.uses).setPair d r).settle i.uses (s.m.trapPc g) g.gang).goOn g.gang (g.pc + i.size), ⟨?_, ?_, ?_, ?_, ?_⟩⟩
  · rw [he]; rfl
  · apply GoesOn.of_settle <;> simp [Warp.setPair, Warp.setS]
  · intro n
    simp only [Warp.goOn_s, Warp.settle_s, Warp.setPair, Warp.setS, Tab.put_at, Warp.begin_s, eq_comm (a := n)]
  · rw [goOn_b _ _ (by simp [Warp.setPair, Warp.setS]) (by simp [Warp.setPair, Warp.setS]),
      show ((g.warp.begin i.uses).setPair d r).b = (g.warp.begin i.uses).b by simp only [Warp.setPair, Warp.setS]]
    exact begin_latchesKept g i
  · rw [Warp.goOn_still, Warp.settle_still]
    simp only [Warp.goOn_s, Warp.settle_s]
    unfold Warp.still
    simp [Warp.setPair, Warp.setS]

/-! ### Float exceptions -/

theorem Exc.or_traps (a b : Exc) (f : BitVec 32) : (a.or b).traps f = (a.traps f || b.traps f) := by
  simp only [Exc.or, Exc.traps, Bool.and_or_distrib_right]
  ac_rfl

/-- The exceptions of the active lanes together trap exactly where those of one do. -/
theorem Issue.excs_traps (g : Issue) (f : Fin 32 → Exc) (e : BitVec 32) : (g.excs f).traps e = g.lanes.any fun l => (f l).traps e := by
  have h : ∀ (l : List (Fin 32)) (a : Exc), (l.foldl (fun e k => e.or (f k)) a).traps e = (a.traps e || l.any fun k => (f k).traps e) := by
    intro l
    induction l with
    | nil => simp
    | cons k t ih => intro a; simp only [List.foldl_cons, ih, Exc.or_traps, List.any_cons, Bool.or_assoc]
  rw [Issue.excs, h]
  simp [Exc.none, Exc.traps]

theorem Issue.mem_lanes (g : Issue) (l : Fin 32) : l ∈ g.lanes ↔ g.active l = true := by
  simp [Issue.lanes]

theorem unlessFloat_quiet {m : Mach} {g : Issue} {i : Instr} {f : Fin 32 → Exc} {k : Mach} (h : g.quiet f) :
    m.unlessFloat g i f k = k := by
  have : (g.excs f).traps g.warp.ften = false := by
    rw [Issue.excs_traps, List.any_eq_false]
    intro l hl
    simp [h l ((g.mem_lanes l).1 hl)]
  simp [Mach.unlessFloat, this]

/-- A float instruction that raises no enabled exception. -/
theorem floatOp_quiet {s : State} {g : Issue} {i : Instr} {d : Dst} {f : Mach → Issue → Fin 32 → Nat × Exc}
    (he : exec i s = floatOp i d f s) (h : Admits s.m g i) (hq : g.quiet fun l => (f s.m g l).2) :
    ∃ x, WritesLanes s g i d (fun l => BitVec.ofNat 32 (f s.m g l).1) x := by
  apply WritesLanes.of_retire
  rw [he, floatOp, issue_admits _ h, unlessFloat_quiet hq]

/-! ### The shared meanings, admitted -/

theorem lanesOp_admits {s : State} {g : Issue} {i : Instr} {d : Dst} {f : Mach → Issue → Fin 32 → Word} (he : exec i s = lanesOp i d f s)
    (h : Admits s.m g i) : ∃ x, WritesLanes s g i d (f s.m g) x :=
  WritesLanes.of_retire (by rw [he, lanesOp, issue_admits _ h])

theorem scalarOp_admits {s : State} {g : Issue} {i : Instr} {d : SDst} {f : Mach → Issue → Word} (he : exec i s = scalarOp i d f s)
    (h : Admits s.m g i) : ∃ x, WritesScalar s g i d (f s.m g) x :=
  WritesScalar.of_retire (by rw [he, scalarOp, issue_admits _ h])

theorem cmpOp_admits {s : State} {g : Issue} {i : Instr} {f : Mach → Issue → Fin 32 → Bool} (he : exec i s = cmpOp i f s)
    (h : Admits s.m g i) : ∃ x, WritesCm s g i (f s.m g) x :=
  WritesCm.of_retire (by rw [he, cmpOp, issue_admits _ h])

theorem maskOp_admits {s : State} {g : Issue} {i : Instr} {k : MaskName} {a : Src} {op : Bool → Bool → Bool} (he : exec i s = maskOp i k a op s)
    (h : Admits s.m g i) :
    ∃ x, WritesMask s g i k (g.writable k) (fun l => op ((g.warp.mask k).getLsbD l.val) ((g.warp.one a).getLsbD l.val)) x :=
  WritesMask.of_retire (by rw [he, maskOp, issue_admits _ h])

/-! ### Transfers of control -/

theorem Warp.setPc_pcs (x : Warp) (gang : BitVec 8) (pc : Nat) (j : Fin 8) :
    ((x.setPc gang pc).slices.at j).pc = if gang.getLsbD j.val then pc % 2 ^ 48 else (x.slices.at j).pc := by
  simp only [Warp.setPc, tab_at]
  split <;> rfl

/-- An instruction that ends with a transfer of the whole gang. -/
theorem Jumps.of_retireTo {s : State} {g : Issue} {i : Instr} {pc : Nat} {f : Warp → Warp} (hend : i.uses.ending = true)
    (hs : (f (g.warp.begin i.uses)).slices = g.warp.slices) (hl : (f (g.warp.begin i.uses)).lc = (f g.warp).lc)
    (hf : (f (g.warp.begin i.uses)).still = (f g.warp).still)
    (he : exec i s = .next { s with m := s.m.retireTo g i (f (g.warp.begin i.uses)) pc }) : ∃ x, Jumps s g i pc f x := by
  refine ⟨((f (g.warp.begin i.uses)).settle i.uses (s.m.trapPc g) g.gang).setPc g.gang pc, ⟨?_, ?_, ?_, ?_, ?_⟩⟩
  · rw [he]; rfl
  · intro j; rw [Warp.setPc_pcs, Warp.settle_slices, hs]
  · simp [hl]
  · rw [Warp.setPc_b, Warp.settle_b, hend]; rfl
  · rw [Warp.setPc_still, Warp.settle_still, hf]

end Sys2Proof.Machine
end

