-- ==== Sys2Proof/Laws/Traps.lean ====
section
/-! SUPPORT. The issuing gang and its warp within the machine, and what taking a trap leaves. -/

namespace Sys2Proof.Machine

/-- What an issuing gang is. -/
theorem issuer_some {m : Mach} {g : Issue} (h : m.issuer = some g) :
    m.teams[g.t]? = some g.team ∧ g.team.warps[g.w]? = some g.warp ∧ m.ctx? g.team.ctx = some g.ctx ∧ g.team.phase = .running ∧
      g.warp.run = .ready ∧ g.ctx.halt = none := by
  unfold Mach.issuer at h
  split at h
  · cases h
  · rename_i team ht
    split at h
    · rename_i warp ctx hw hc
      split at h
      · dsimp only at h
        split at h
        · rename_i hcond
          cases h
          simp at hcond
          exact ⟨ht, hw, hc, hcond.1.1.1.1.1, hcond.1.1.1.1.2, hcond.1.1.1.2⟩
        · cases h
      · cases h
    · cases h

theorem warp_issuer {m : Mach} {g : Issue} (h : m.issuer = some g) : m.warp? g.t g.w = some g.warp := by
  obtain ⟨h1, h2, -⟩ := issuer_some h
  simp [Mach.warp?, h1, h2]

theorem warp_modWarp_self {m : Mach} {t w : Nat} {x : Warp} (h : m.warp? t w = some x) (f : Warp → Warp) :
    (m.modWarp t w f).warp? t w = some (f x) := by
  unfold Mach.warp? at *
  simp only [Mach.modWarp, Mach.modTeam, List.getElem?_modify_eq]
  cases ht : m.teams[t]? with
  | none => simp [ht] at h
  | some y => simp only [ht] at h; simp [Team.modWarp, h]

theorem warp_modWarp_other {m : Mach} {t w t' w' : Nat} (h : (t', w') ≠ (t, w)) (f : Warp → Warp) :
    (m.modWarp t w f).warp? t' w' = m.warp? t' w' := by
  unfold Mach.warp?
  simp only [Mach.modWarp, Mach.modTeam, List.getElem?_modify]
  by_cases ht : t = t'
  · subst ht
    have hw : w ≠ w' := fun e => h (by rw [e])
    cases m.teams[t]? <;> simp [Team.modWarp, hw]
  · cases m.teams[t']? <;> simp [ht]

theorem warp_of_teams {m m' : Mach} (h : m'.teams = m.teams) (t w : Nat) : m'.warp? t w = m.warp? t w := by simp [Mach.warp?, h]

theorem ctx_modCtx {m : Mach} {id : Nat} {c : Context} (h : m.ctx? id = some c) (f : Context → Context) (hf : ∀ c, (f c).id = c.id) :
    (m.modCtx id f).ctx? id = some (f c) := by
  unfold Mach.ctx? Mach.modCtx at *
  simp only [List.find?_map]
  have e : ((fun c => c.id == id) ∘ fun c => if c.id = id then f c else c) = fun c : Context => c.id == id := by
    funext c; simp only [Function.comp]; split <;> simp [*]
  rw [e, h]
  have := List.find?_some h
  simp at this
  simp [this]

/-- The warp that a trap stops. -/
def Warp.stoppedBy (x : Warp) (gang : BitVec 8) (pc : Nat) (p : Pending) : Warp :=
  { (x.drainMma.setPc gang pc).noLatch with
    run := .stopped, chain := none, replayData := x.replayData &&& ~~~gang, replayFetch := x.replayFetch &&& ~~~gang
    trap := some p }

theorem foldl_keep {α β : Type} (l : List α) (f : Warp → α → Warp) (p : Warp → β) (h : ∀ x a, p (f x a) = p x) (x : Warp) :
    p (l.foldl f x) = p x := by
  induction l generalizing x with
  | nil => rfl
  | cons a t ih => rw [List.foldl_cons, ih, h]

/-- Writing back accumulators changes nothing but vector registers. -/
theorem drainMma_keep {β : Type} (p : Warp → β) (h : ∀ x r l v, p (x.setReg r l v) = p x) (h2 : ∀ x : Warp, p { x with mma := [] } = p x)
    (x : Warp) : p x.drainMma = p x := by
  unfold Warp.drainMma
  rw [h2]
  exact foldl_keep _ _ _ (fun x a => foldl_keep _ _ _ (fun x b => h ..) x) x

@[simp] theorem drainMma_slices (x : Warp) : x.drainMma.slices = x.slices := by
  refine drainMma_keep (fun x => x.slices) ?_ ?_ x <;> (intros; simp only [Warp.setReg])
@[simp] theorem drainMma_lc (x : Warp) : x.drainMma.lc = x.lc := by
  refine drainMma_keep (fun x => x.lc) ?_ ?_ x <;> (intros; simp only [Warp.setReg])
@[simp] theorem drainMma_run (x : Warp) : x.drainMma.run = x.run := by
  refine drainMma_keep (fun x => x.run) ?_ ?_ x <;> (intros; simp only [Warp.setReg])
@[simp] theorem drainMma_trap (x : Warp) : x.drainMma.trap = x.trap := by
  refine drainMma_keep (fun x => x.trap) ?_ ?_ x <;> (intros; simp only [Warp.setReg])
@[simp] theorem drainMma_s (x : Warp) : x.drainMma.s = x.s := by
  refine drainMma_keep (fun x => x.s) ?_ ?_ x <;> (intros; simp only [Warp.setReg])

theorem Warp.stoppedBy_still (x : Warp) (gang : BitVec 8) (pc : Nat) (p : Pending) :
    ({ x.stoppedBy gang pc p with run := x.run, trap := x.trap } : Warp).still = x.drainMma.still := by
  rw [← Warp.setPc_still x.drainMma gang pc]
  have h1 : x.run = (x.drainMma.setPc gang pc).run := by simp
  have h2 : x.trap = (x.drainMma.setPc gang pc).trap := by simp
  rw [h1, h2]
  simp only [Warp.stoppedBy, Warp.noLatch, Warp.still]

/-- A stopped warp whose record is queued is what a trap that goes to a handler leaves. -/
theorem Taken.of_stopped {m m' : Mach} {g : Issue} {y : Warp} {p : Pending} {r : TrapRec} {pc va : Nat}
    (h1 : m'.warp? g.t g.w = some (y.stoppedBy g.gang pc p)) (hp : p.rcd = g.fullRecord m r) (hg : p.gang = g.gang)
    (hq : (m'.ctx? g.team.ctx).map (·.traps) = some (g.ctx.traps ++ [.warp g.t g.w p.rcd va]))
    (ho : ∀ t w, (t, w) ≠ (g.t, g.w) → m'.warp? t w = m.warp? t w) (hu : m'.unit = none) : Taken m g y r pc m' := by
  refine ⟨⟨_, p, h1, rfl, rfl, hp, hg, rfl, ?_, ?_, Warp.stoppedBy_still ..⟩, ⟨va, hp ▸ hq⟩, ho, hu⟩
  · intro j
    have : ∀ q, (y.stoppedBy g.gang pc q).slices = (y.drainMma.setPc g.gang pc).slices := fun q => by simp only [Warp.stoppedBy, Warp.noLatch]
    rw [this, Warp.setPc_pcs, drainMma_slices]
  · have : ∀ q, (y.stoppedBy g.gang pc q).lc = y.drainMma.lc := fun q => by simp only [Warp.stoppedBy, Warp.noLatch, Warp.setPc]
    rw [this, drainMma_lc]

/-- Taking an event whose group goes to a handler (21 R361, R366). -/
theorem takeEvent_handled {m : Mach} {t w : Nat} {team : Team} {x : Warp} {c : Context} (gang : BitVec 8) (pc next : Nat) (late : Option Flight)
    (redo rres : Bool) (r0 : TrapRec) (ht : m.teams[t]? = some team) (hw : m.warp? t w = some x) (hs : team.served = none)
    (hc : m.ctx? team.ctx = some c) (hr : c.routeOf (causeGroup r0.cause) = 1) :
    ∃ p va, p.rcd = ({ r0 with pend := x.pendBits (m.haltDue team.ctx) } : TrapRec).at team w x.core ∧ p.gang = gang ∧ p.next = next ∧ p.late = late ∧ p.redo = redo ∧
      (m.takeEvent t w gang pc next late redo rres r0).warp? t w = some (x.stoppedBy gang pc p) ∧
      ((m.takeEvent t w gang pc next late redo rres r0).ctx? team.ctx).map (·.traps) = some (c.traps ++ [.warp t w p.rcd va]) ∧
      (∀ t' w', (t', w') ≠ (t, w) → (m.takeEvent t w gang pc next late redo rres r0).warp? t' w' = m.warp? t' w') ∧
      (m.takeEvent t w gang pc next late redo rres r0).unit = none := by
  let p : Pending :=
    { rcd := ({ r0 with pend := x.pendBits (m.haltDue team.ctx) } : TrapRec).at team w x.core, gang := gang, next := next, late := late, redo := redo
      recVA := m.trapEntry c }
  let m1 : Mach := { (m.modWarp t w fun _ => x.stoppedBy gang pc p) with unit := none }
  have hm : m.takeEvent t w gang pc next late redo rres r0 = m1.route team.ctx p.rcd (.warp t w p.rcd) rres := by
    simp only [Mach.takeEvent, ht, hw, hc, hs, Option.isSome_none]
    rfl
  have hc1 : m1.ctx? team.ctx = some c := hc
  have hg : causeGroup p.rcd.cause = causeGroup r0.cause := rfl
  have hroute : m1.route team.ctx p.rcd (.warp t w p.rcd) rres =
      ((m1.fwStore team.ctx (m1.trapEntry c) 64 p.rcd.image).announce team.ctx .pkg).modCtx team.ctx fun y =>
        { y with traps := y.traps ++ [.warp t w p.rcd (m1.trapEntry c)] } := by
    simp only [Mach.route, hc1, hg, hr]
  have hbase : ((m1.fwStore team.ctx (m1.trapEntry c) 64 p.rcd.image).announce team.ctx .pkg).base = m1.base := by simp
  refine ⟨p, m1.trapEntry c, rfl, rfl, rfl, rfl, rfl, ?_, ?_, ?_, ?_⟩
  · rw [hm, hroute]
    refine (warp_of_teams (m := m1) (teams_of_base hbase) t w).trans ?_
    exact warp_modWarp_self hw _
  · rw [hm, hroute, ctx_modCtx (c := c)]
    · rfl
    · simp only [Mach.ctx?, contexts_of_base hbase]; exact hc1
    · intro c; rfl
  · intro t' w' hne
    rw [hm, hroute]
    exact (warp_of_teams (m := m1) (teams_of_base hbase) t' w').trans (warp_modWarp_other hne _)
  · rw [hm, hroute]
    exact unit_of_base hbase

end Sys2Proof.Machine
end

