-- ==== Sys2Proof/Laws/Words.lean ====
section
/-! SUPPORT. The word operations of the machine compute the results that the spec's tables give. -/

namespace Sys2Proof.Machine

theorem spec_add (x y : Word) : Spec.add x y = x + y := by simp [Spec.add, Spec.word, ← BitVec.toInt_inj]
theorem spec_sub (x y : Word) : Spec.sub x y = x - y := by simp [Spec.sub, Spec.word, ← BitVec.toInt_inj]
theorem spec_mul (x y : Word) : Spec.mul x y = x * y := by simp [Spec.mul, Spec.word, ← BitVec.toInt_inj]

theorem spec_mulh (x y : Word) : Spec.mulh x y = mulh x y := by
  have h : x.signExtend 64 * y.signExtend 64 = BitVec.ofInt 64 (x.toInt * y.toInt) := by
    rw [BitVec.ofInt_mul]; rfl
  simp only [Spec.mulh, Spec.word, mulh, h]
  apply BitVec.eq_of_toNat_eq
  simp only [BitVec.toNat_ofInt, BitVec.toNat_ofNat]
  generalize x.toInt * y.toInt = p
  omega

theorem spec_mulhU (x y : Word) : Spec.mulhU x y = mulhu x y := by simp only [mulhu, Spec.mulhU, Spec.word, BitVec.ofInt_natCast]

theorem spec_shl (x y : Word) : Spec.shl x y = shl x y := by
  simp only [shl, Spec.shl, Spec.word, BitVec.ofInt_natCast]
  apply BitVec.eq_of_toNat_eq; simp [Nat.shiftLeft_eq]

theorem spec_srl (x y : Word) : Spec.srl x y = srl x y := by
  simp only [srl, Spec.srl, Spec.word, BitVec.ofInt_natCast]
  apply BitVec.eq_of_toNat_eq
  have := x.isLt
  have h : x.toNat / 2 ^ (y.toNat % 32) < 2 ^ 32 := lt_of_le_of_lt (Nat.div_le_self _ _) this
  simp only [BitVec.toNat_ofNat, BitVec.toNat_ushiftRight, Nat.shiftRight_eq_div_pow, Nat.mod_eq_of_lt h]

theorem spec_sra (x y : Word) : Spec.sra x y = sra x y := by
  simp only [sra, Spec.sra, Spec.word]
  apply BitVec.eq_of_toInt_eq
  have h : x.toInt / 2 ^ (y.toNat % 32) = (x.sshiftRight (y.toNat % 32)).toInt := by
    rw [BitVec.toInt_sshiftRight, Int.shiftRight_eq_div_pow]; norm_cast
  rw [h, BitVec.ofInt_toInt]

theorem spec_min (x y : Word) : Spec.min x y = smin x y := by
  simp only [Spec.min, Spec.word, smin, BitVec.slt]
  split
  · rename_i h; simp only [decide_eq_true_eq] at h; rw [min_eq_right h.le, BitVec.ofInt_toInt]
  · rename_i h; simp only [decide_eq_true_eq, not_lt] at h; rw [min_eq_left h, BitVec.ofInt_toInt]

theorem spec_max (x y : Word) : Spec.max x y = smax x y := by
  simp only [Spec.max, Spec.word, smax, BitVec.slt]
  split
  · rename_i h; simp only [decide_eq_true_eq] at h; rw [max_eq_right h.le, BitVec.ofInt_toInt]
  · rename_i h; simp only [decide_eq_true_eq, not_lt] at h; rw [max_eq_left h, BitVec.ofInt_toInt]

theorem spec_minU (x y : Word) : Spec.minU x y = umin x y := by
  simp only [Spec.minU, Spec.word, umin, BitVec.ult, BitVec.ofInt_natCast]
  split
  · rename_i h; simp only [decide_eq_true_eq] at h; rw [min_eq_right h.le, BitVec.ofNat_toNat, BitVec.setWidth_eq]
  · rename_i h; simp only [decide_eq_true_eq, not_lt] at h; rw [min_eq_left h, BitVec.ofNat_toNat, BitVec.setWidth_eq]

theorem spec_maxU (x y : Word) : Spec.maxU x y = umax x y := by
  simp only [Spec.maxU, Spec.word, umax, BitVec.ult, BitVec.ofInt_natCast]
  split
  · rename_i h; simp only [decide_eq_true_eq] at h; rw [max_eq_right h.le, BitVec.ofNat_toNat, BitVec.setWidth_eq]
  · rename_i h; simp only [decide_eq_true_eq, not_lt] at h; rw [max_eq_left h, BitVec.ofNat_toNat, BitVec.setWidth_eq]

theorem spec_abs (x : Word) : Spec.abs x = wabs x := by
  simp only [Spec.abs, Spec.word, wabs, BitVec.slt]
  split
  · rename_i h
    simp at h
    rw [Int.ofNat_natAbs_of_nonpos h.le, BitVec.ofInt_neg, BitVec.ofInt_toInt]
  · rename_i h
    simp at h
    rw [Int.natAbs_of_nonneg h, BitVec.ofInt_toInt]

theorem spec_vsat (x y : Word) : Spec.vsat x y = vsatOp x y := by
  have hs : ∀ a lo hi, Spec.sat a lo hi = satInt a lo hi := by intros; rfl
  have hn : Spec.satWidth y = if y.toNat % 64 = 0 ∨ 32 < y.toNat % 64 then 32 else y.toNat % 64 := rfl
  simp only [Spec.vsat, vsatOp, hs, hn, Spec.word, apply_ite (BitVec.ofInt 32)]

theorem spec_cond (c : ICond) (x y : Word) : Spec.cond c x y = ICond.holds c x y := by
  cases c with
  | eq => rfl
  | ne => by_cases h : x = y <;> simp [Spec.cond, ICond.holds, h]
  | _ => simp [Spec.cond, ICond.holds, BitVec.slt, BitVec.sle, BitVec.ult, BitVec.ule]

theorem topBits_eq (x : Word) : topBits x = (List.range 32).reverse.map fun i => x.getLsbD i := by
  rw [topBits, show (List.range 32).reverse = (List.range 32).map (31 - ·) from rfl, List.map_map]; rfl

theorem spec_popc (x : Word) : Spec.popc x = popc x := by
  have h : (List.finRange 32).map Fin.val = List.range 32 := rfl
  simp only [Spec.popc, popc, Spec.word, BitVec.ofInt_natCast, topBits_eq]
  congr 1
  rw [List.filter_map, List.length_map, List.filter_reverse, List.length_reverse, ← h, List.filter_map, List.length_map]
  rfl

theorem takeWhile_clz (n x : Nat) (hx : x ≠ 0) (hn : x < 2 ^ n) :
    (((List.range n).map fun i => x.testBit (n - 1 - i)).takeWhile (! ·)).length = n - 1 - Nat.log2 x := by
  induction n with
  | zero => omega
  | succ n ih =>
    rw [List.range_succ_eq_map, List.map_cons, List.map_map, List.takeWhile_cons]
    cases h : x.testBit n
    · have hlt : x < 2 ^ n := by
        by_contra hc
        have := Nat.testBit_lt_two_pow (x := x - 2 ^ n) (i := n) (by omega)
        rw [show x = 2 ^ n + (x - 2 ^ n) by omega, Nat.testBit_two_pow_add_eq, this] at h
        cases h
      have hl : Nat.log2 x < n := (Nat.log2_lt hx).2 hlt
      simp only [Nat.add_sub_cancel, Nat.sub_zero, h, Bool.not_false, if_true, List.length_cons, Function.comp_def]
      rw [show (fun i => x.testBit (n - (i + 1))) = fun i => x.testBit (n - 1 - i) by funext i; congr 1; omega, ih hlt]
      omega
    · have hl : n ≤ Nat.log2 x := (Nat.le_log2 hx).2 (Nat.ge_two_pow_of_testBit h)
      simp [h]
      omega

theorem spec_clz (x : Word) : Spec.clz x = clz x := by
  simp only [Spec.clz, clz, Spec.word, topBits]
  by_cases h : x = 0
  · subst h; rfl
  · have hx : x.toNat ≠ 0 := fun e => h (BitVec.eq_of_toNat_eq (by simpa using e))
    have hl : Nat.log2 x.toNat < 32 := (Nat.log2_lt hx).2 x.isLt
    have := takeWhile_clz 32 x.toNat hx x.isLt
    simp only [BitVec.getLsbD, h, if_false]
    rw [show (fun i => x.toNat.testBit (31 - i)) = fun i => x.toNat.testBit (32 - 1 - i) from rfl, this,
      show (31 : Int) - (Nat.log2 x.toNat : Int) = ((32 - 1 - Nat.log2 x.toNat : Nat) : Int) by omega, BitVec.ofInt_natCast]

theorem spec_brev (x : Word) : Spec.brev x = brev x := by
  apply BitVec.eq_of_getLsbD_eq
  intro i hi
  rw [Spec.brev, brev, BitVec.getLsbD_reverse, laneMask_bit _ ⟨i, hi⟩, BitVec.getMsbD, decide_eq_true hi]
  simp

theorem spec_div (x y : Word) : Spec.div x y = x.sdiv y := by
  apply BitVec.eq_of_toInt_eq
  rw [BitVec.toInt_sdiv, Spec.div, Spec.word, BitVec.toInt_ofInt]

theorem spec_rem (x y : Word) : Spec.rem x y = x.srem y := by
  apply BitVec.eq_of_toInt_eq
  have h : x.toInt - y.toInt * x.toInt.tdiv y.toInt = x.toInt.tmod y.toInt := by rw [Int.tmod_def]
  rw [Spec.rem, Spec.word, h, ← BitVec.toInt_srem, BitVec.ofInt_toInt]

theorem spec_divU (x y : Word) : Spec.divU x y = x / y := by
  apply BitVec.eq_of_toNat_eq
  rw [Spec.divU, Spec.word, BitVec.ofInt_natCast, ← BitVec.toNat_udiv, BitVec.ofNat_toNat, BitVec.setWidth_eq]

theorem spec_remU (x y : Word) : Spec.remU x y = x % y := by
  have h : (x.toNat : Int) - y.toNat * (x.toNat / y.toNat : Nat) = (x.toNat % y.toNat : Nat) := by
    have := Nat.div_add_mod x.toNat y.toNat
    omega
  apply BitVec.eq_of_toNat_eq
  rw [Spec.remU, Spec.word, h, BitVec.ofInt_natCast, ← BitVec.toNat_umod, BitVec.ofNat_toNat, BitVec.setWidth_eq]

end Sys2Proof.Machine
end

