-- ==== Sys2Proof/Tests/Slice0.lean ====
section
/-! SUPPORT. Tests: ill-formed terms refused, words decoded, one step of a few instructions, and for every statement with
hypotheses states and operands that meet them. -/

open Sys2Proof Sys2Proof.Machine

namespace Sys2Proof.Tests

set_option maxRecDepth 100000
set_option Elab.async false

/-! ### Each well-formedness check refuses an ill-formed term -/

theorem test_wf_suppressed_vector_destination : wellFormed (.vadd ⟨true, 1⟩ (.v 0) (.v 0)) = false := by decide
theorem test_wf_suppressed_scalar_destination : wellFormed (.sadd ⟨true, 1⟩ (.s 0) (.s 0)) = false := by decide
theorem test_wf_suppressed_destination_zero : wellFormed (.vadd ⟨true, 0⟩ (.v 0) (.v 0)) = true := by decide
theorem test_wf_scalar_source_vector : wellFormed (.sadd ⟨false, 0⟩ (.v 0) (.s 0)) = false := by decide
theorem test_wf_scalar_source_path_constant : wellFormed (.setpart (.k 3)) = false := by decide
theorem test_wf_pair_odd : wellFormed (.ecopy (.s 3)) = false := by decide
theorem test_wf_pair_constant : wellFormed (.ecopy (.c 3)) = false := by decide
theorem test_wf_pair_or_constant_odd : wellFormed (.csig (.s 2) (.s 3)) = false := by decide
theorem test_wf_pair_or_constant_latch : wellFormed (.csig (.s 2) (.b 0)) = false := by decide
theorem test_wf_base_odd : wellFormed (.pref (.v 3) (.c 0)) = false := by decide
theorem test_wf_base_constant : wellFormed (.pref (.c 0) (.c 0)) = false := by decide
theorem test_wf_wide_operand : wellFormed (.atomDie 2 (.s 2) (.s 3) true .add) = false := by decide
theorem test_wf_wide_destination : wellFormed (.atomDie 3 (.s 2) (.s 4) true .add) = false := by decide
theorem test_wf_wide_float : wellFormed (.atomDie 2 (.s 2) (.s 4) true .fadd) = false := by decide
theorem test_wf_wide_load_destination : wellFormed (.ld 3 (.s 2) (.c 0) 3) = false := by decide
theorem test_wf_wide_scratch_destination : wellFormed (.lds 3 (.s 2) (.c 0) true) = false := by decide
theorem test_wf_wide_stack_destination : wellFormed (.spld 3 (.c 0) (.c 0) 3) = false := by decide
theorem test_wf_wide_acquiring_load : wellFormed (.lda64 3 (.s 2) .die) = false := by decide
theorem test_wf_accumulator_odd : wellFormed (.mma 8 0 30 17 false) = false := by decide
theorem test_wf_accumulator_source : wellFormed (.mcvtF32 0 (.s 2) .rne) = false := by decide
theorem test_wf_double_add : wellFormed (.saddD 3 (.s 2) (.c 0)) = false := by decide
theorem test_wf_cases_none : wellFormed (.switch 0 []) = false := by decide
theorem test_wf_cases_nine : wellFormed (.switch 0 (List.replicate 9 ⟨0, 0⟩)) = false := by decide
theorem test_wf_jump_odd : wellFormed (.jmp 3) = false := by decide
theorem test_wf_loop_offset : wellFormed (.loop 2 0 0) = false := by decide
theorem test_wf_loop_offset_negative : wellFormed (.loop 0xFFFF 0 0) = false := by decide
theorem test_wf_break_level : wellFormed (.lbrk 3) = false := by decide
theorem test_wf_meld_two_paths : wellFormed (.meld false (.s 2) (.s 3)) = false := by decide
theorem test_wf_meld_four_paths : wellFormed (.meld true (.s 2) (.v 3)) = false := by decide
theorem test_wf_coordinates : wellFormed (.tld 0 2 62 0 2) = false := by decide
theorem test_wf_coordinates_last : wellFormed (.tld 0 2 61 0 2) = true := by decide
theorem test_wf_probe_destination : wellFormed (.rprobe 4 (.s 2)) = false := by decide
theorem test_wf_special_register : wellFormed (.sysr 20 (.vec ⟨false, 0⟩)) = false := by decide
theorem test_wf_special_register_read_only : wellFormed (.sysw 0 (.s 0)) = false := by decide
theorem test_wf_lane_number_scalar : wellFormed (.sysr 0 (.scal ⟨false, 0⟩)) = false := by decide
theorem test_wf_zero_halfword : wellFormed (.vaddShort 0 0) = false := by decide

/-! ### Words that the spec works out (07 R101 and its two worked words, 09, 10, 14, 16, 19, 23) -/

theorem test_worked_control :
    decodeTableWord 32 0x8B10300B = some (.sadd ⟨false, 3⟩ (.s 4) (.s 5)) ∧ decodeTableWord 32 0x6400768B = some (.sli ⟨false, 7⟩ 50) ∧
    decodeTableWord 96 0x00000609040402810008206D = some (.switch 2 [⟨1, 10⟩, ⟨4, 16⟩, ⟨9, 24⟩]) ∧
    decodeTableWord 32 0x0000408D = some (.jmp 8) ∧ decodeTableWord 32 0x002850AD = some (.call 40 10) ∧ decodeTableWord 32 0x000050CD = some (.ret 10) ∧
    decodeTableWord 32 0x0600468B = some (.sli ⟨false, 4⟩ 3) ∧ decodeTableWord 32 0x0003210D = some (.loop 3 4 0) ∧ decodeTableWord 16 0x1020 = some (.vaddShort 1 2) ∧
    decodeTableWord 32 0x0000018D = some .regangW ∧ decodeTableWord 32 0x000001AD = some .regangN ∧ decodeTableWord 32 0x0000020D = some .exit ∧
    decodeTableWord 32 0x0000024D = some .yield ∧ decodeTableWord 32 0x0000022D = some .nop ∧ decodeTableWord 32 0x0180004F = some (.mand .exec (.b 0)) := by decide

theorem test_worked_system :
    decodeTableWord 32 0x0108001B = some (.trap (.s 2)) ∧ decodeTableWord 32 0x0000003B = some .bkpt ∧ decodeTableWord 32 0x0000105B = some (.sysr 0 (.vec ⟨false, 1⟩)) ∧
    decodeTableWord 32 0x0224605B = some (.sysr 9 (.scal ⟨false, 6⟩)) ∧ decodeTableWord 32 0x8644007B = some (.sysw 17 (.s 3)) ∧ decodeTableWord 32 0x8700007B = some (.sysw 64 (.s 3)) := by decide

theorem test_worked_lanes :
    decodeTableWord 16 0xE0A0 = some (.vaddShort 5 28) ∧ decodeTableWord 32 0x06084005 = some (.vfmaF32 ⟨false, 4⟩ (.v 2) (.v 3) false false .rne) ∧
    decodeTableWord 32 0x1C0456C1 = some (.vcmpImm .ge (.v 1) 14) ∧ decodeTableWord 32 0xF40420C9 = some (.vshfl ⟨false, 2⟩ (.v 1) (.c 10) 2) ∧
    decodeTableWord 32 0xEE0C4049 = some (.vvote ⟨false, 4⟩ (.v 3) (.c 7) 2) ∧ decodeTableWord 32 0x0108020F = some (.meld false (.s 2) (.v 0)) ∧
    decodeTableWord 32 0x0000022F = some .melde := by decide

theorem test_worked_memory :
    decodeTableWord 32 0x05204411 = some (.ld 4 (.s 8) (.v 2) 2) ∧ decodeTableWord 32 0x05205431 = some (.st 5 (.s 8) (.v 2) 2) ∧
    decodeTableWord 32 0x193084D1 = some (.tld 3 1 12 8 2) ∧ decodeTableWord 32 0x00004193 = some (.rel .pkg) ∧ decodeTableWord 32 0x000041B3 = some (.acq .pkg) ∧
    decodeTableWord 32 0x00004173 = some (.fence .pkg) ∧ decodeTableWord 32 0x010C13B3 = some (.waitp .ifg (.s 3)) ∧ decodeTableWord 32 0x01201019 = some (.rsplit 1 (.s 8)) ∧
    decodeTableWord 32 0x95204079 = some (.rinval .pkg (.s 8) (.s 10)) ∧ decodeTableWord 32 0x01210099 = some (.rprobe 16 (.s 8)) := by decide

theorem test_worked_matrix :
    decodeTableWord 32 0x20079015 = some (.mma 8 0 30 16 false) ∧ decodeTableWord 32 0x600A1035 = some (.mmas 24 0 40 16 false) ∧
    decodeTableWord 32 0x00010055 = some (.mzero 16) ∧ decodeTableWord 32 0x004180D5 = some (.mcvtH2 24 (.v 16) .rne) ∧ decodeTableWord 32 0x952002D5 = some (.msclB (.s 8) (.s 10)) := by decide

theorem test_worked_engines :
    decodeTableWord 32 0xF1280017 = some (.ersetBind (.s 10) (.c 8)) ∧ decodeTableWord 32 0xF3E04017 = some (.ersetWaitf (.c 8) (.c 9)) ∧
    decodeTableWord 32 0xF3E03017 = some (.ersetPop (.c 8) (.c 9)) ∧ decodeTableWord 32 0x01200037 = some (.ecopy (.s 8)) ∧
    decodeTableWord 32 0x0110A117 = some (.prsv 10 (.s 4)) ∧ decodeTableWord 32 0x95100137 = some (.pcmt (.s 4) (.s 10)) ∧ decodeTableWord 32 0x01F4C157 = some (.pacq 12 (.c 13)) ∧
    decodeTableWord 32 0x99F40177 = some (.prel (.c 13) (.s 12)) ∧ decodeTableWord 32 0x91100217 = some (.pmsg (.s 4) (.s 8)) ∧
    decodeTableWord 32 0x89203317 = some (.klaunch 3 (.s 8) (.s 4)) ∧ decodeTableWord 32 0x8BE80357 = some (.gcond (.c 10) (.s 5)) := by decide

/-- The reserved halfword, a reserved code of field vd, a used W bit, an unused field that is not zero, an unassigned point (07 R103, R113, R114, R121). -/
theorem test_words_refused :
    decodeTableWord 16 0x0000 = none ∧ decodeTableWord 32 0x8B12000B = none ∧ decodeTableWord 32 0x1C0A56C1 = none ∧ decodeTableWord 32 0x0004022D = none ∧
    decodeTableWord 32 0x0000037B = none ∧ decodeTableWord 32 0x01E0408D = none := by decide

/-! ### For every family, words written out from the encodings of 07 -/

theorem test_decode_vector_integer_1 :
    decodeTableWord 32 0x5D2E8001 = some (.vadd ⟨false, 40⟩ (.s 11) (.v 46)) ∧
    decodeTableWord 32 0x0186F401 = some (.vaddImm ⟨false, 47⟩ (.b 1) 0) ∧
    decodeTableWord 32 0xB1DF6021 = some (.vsub ⟨false, 54⟩ (.c 7) (.s 24)) ∧
    decodeTableWord 32 0xF4240841 = some (.vmul ⟨true, 0⟩ (.v 9) (.c 10)) ∧
    decodeTableWord 32 0xAF2C4441 = some (.vmulImm ⟨false, 4⟩ (.s 11) 87) ∧
    decodeTableWord 32 0xC784B061 = some (.vmulh ⟨false, 11⟩ (.b 1) (.b 3)) ∧
    decodeTableWord 32 0xB1DD2081 = some (.vmulhU ⟨false, 18⟩ (.c 7) (.s 24)) ∧
    decodeTableWord 32 0xF42590A1 = some (.vmad ⟨false, 25⟩ (.v 9) (.c 10)) ∧
    decodeTableWord 32 0x5D2C08C1 = some (.vand ⟨true, 0⟩ (.s 11) (.v 46)) ∧
    decodeTableWord 32 0xD18674C1 = some (.vandImm ⟨false, 39⟩ (.b 1) 104) ∧
    decodeTableWord 32 0xB1DEE0E1 = some (.vor ⟨false, 46⟩ (.c 7) (.s 24)) ∧
    decodeTableWord 32 0x442754E1 = some (.vorImm ⟨false, 53⟩ (.v 9) 34) := by decide

theorem test_decode_vector_integer_2 :
    decodeTableWord 32 0x5D2FC101 = some (.vxor ⟨false, 60⟩ (.s 11) (.v 46)) ∧
    decodeTableWord 32 0xB9840D01 = some (.vxorImm ⟨true, 0⟩ (.b 1) 92) ∧
    decodeTableWord 32 0xB1DCA121 = some (.vshl ⟨false, 10⟩ (.c 7) (.s 24)) ∧
    decodeTableWord 32 0x2C251521 = some (.vshlImm ⟨false, 17⟩ (.v 9) 22) ∧
    decodeTableWord 32 0x5D2D8141 = some (.vsrl ⟨false, 24⟩ (.s 11) (.v 46)) ∧
    decodeTableWord 32 0xA185F541 = some (.vsrlImm ⟨false, 31⟩ (.b 1) 80) ∧
    decodeTableWord 32 0xB1DC0961 = some (.vsra ⟨true, 0⟩ (.c 7) (.s 24)) ∧
    decodeTableWord 32 0x1426D561 = some (.vsraImm ⟨false, 45⟩ (.v 9) 10) ∧
    decodeTableWord 32 0x5D2F4181 = some (.vmin ⟨false, 52⟩ (.s 11) (.v 46)) ∧
    decodeTableWord 32 0x8987B581 = some (.vminImm ⟨false, 59⟩ (.b 1) 68) ∧
    decodeTableWord 32 0xB1DC21A1 = some (.vminU ⟨false, 2⟩ (.c 7) (.s 24)) ∧
    decodeTableWord 32 0xFC240DA1 = some (.vminUImm ⟨true, 0⟩ (.v 9) 126) := by decide

theorem test_decode_vector_integer_3 :
    decodeTableWord 32 0x5D2D01C1 = some (.vmax ⟨false, 16⟩ (.s 11) (.v 46)) ∧
    decodeTableWord 32 0x718575C1 = some (.vmaxImm ⟨false, 23⟩ (.b 1) 56) ∧
    decodeTableWord 32 0xB1DDE1E1 = some (.vmaxU ⟨false, 30⟩ (.c 7) (.s 24)) ∧
    decodeTableWord 32 0xE42655E1 = some (.vmaxUImm ⟨false, 37⟩ (.v 9) 114) ∧
    decodeTableWord 32 0x012C0A01 = some (.vabs ⟨true, 0⟩ (.s 11)) ∧
    decodeTableWord 32 0x01873221 = some (.vclz ⟨false, 51⟩ (.b 1)) ∧
    decodeTableWord 32 0x01DFA241 = some (.vpopc ⟨false, 58⟩ (.c 7)) ∧
    decodeTableWord 32 0x00241261 = some (.vbrev ⟨false, 1⟩ (.v 9)) ∧
    decodeTableWord 32 0x5D2C8281 = some (.vsel ⟨false, 8⟩ (.s 11) (.v 46)) ∧
    decodeTableWord 32 0xC7840AA1 = some (.vsat ⟨true, 0⟩ (.b 1) (.b 3)) ∧
    decodeTableWord 32 0x7BDD66A1 = some (.vsatImm ⟨false, 22⟩ (.c 7) 61) ∧
    decodeTableWord 32 0xF42462C1 = some (.vcmp .ltu (.v 9) (.c 10)) := by decide

theorem test_decode_vector_integer_4 :
    decodeTableWord 32 0xEF2C76C1 = some (.vcmpImm .leu (.s 11) 119) := by decide

theorem test_decode_vector_float_1 :
    decodeTableWord 32 0xC786B043 = some (.vfadd ⟨false, 43⟩ (.b 1) (.b 3) .rdn) ∧
    decodeTableWord 32 0xB1DC08E3 = some (.vfsub ⟨true, 0⟩ (.c 7) (.s 24) .rup) ∧
    decodeTableWord 32 0xF4279103 = some (.vfmul ⟨false, 57⟩ (.v 9) (.c 10) .rne) ∧
    decodeTableWord 32 0x5D2C0183 = some (.vfmin ⟨false, 0⟩ (.s 11) (.v 46)) ∧
    decodeTableWord 32 0xC78471A3 = some (.vfmax ⟨false, 7⟩ (.b 1) (.b 3)) ∧
    decodeTableWord 32 0x01DCE1C3 = some (.vfabs ⟨false, 14⟩ (.c 7)) ∧
    decodeTableWord 32 0x002409E3 = some (.vfneg ⟨true, 0⟩ (.v 9)) ∧
    decodeTableWord 32 0x012DC203 = some (.vfrcp ⟨false, 28⟩ (.s 11)) ∧
    decodeTableWord 32 0x01863223 = some (.vfrsq ⟨false, 35⟩ (.b 1)) ∧
    decodeTableWord 32 0x01DEA243 = some (.vfexp2 ⟨false, 42⟩ (.c 7)) ∧
    decodeTableWord 32 0x00271263 = some (.vflog2 ⟨false, 49⟩ (.v 9)) ∧
    decodeTableWord 32 0x012C0A83 = some (.vfsin ⟨true, 0⟩ (.s 11)) := by decide

theorem test_decode_vector_float_2 :
    decodeTableWord 32 0x0187F2A3 = some (.vfcos ⟨false, 63⟩ (.b 1)) ∧
    decodeTableWord 32 0x01DC62C3 = some (.vftanh ⟨false, 6⟩ (.c 7)) ∧
    decodeTableWord 32 0xF42462E3 = some (.vfcmp .ord (.v 9) (.c 10)) := by decide

theorem test_decode_fma :
    decodeTableWord 32 0x5D2D4485 = some (.vfmaF32 ⟨false, 20⟩ (.s 11) (.v 46) true false .rtz) ∧
    decodeTableWord 32 0xC7840B25 = some (.vfmaH2 ⟨true, 0⟩ (.b 1) (.b 3) false true .rdn) ∧
    decodeTableWord 32 0xB1DE25C5 = some (.vfmaB2 ⟨false, 34⟩ (.c 7) (.s 24) true false .rup) := by decide

theorem test_decode_conversions_moves_1 :
    decodeTableWord 32 0x00269007 = some (.vcvtF32I32 ⟨false, 41⟩ (.v 9) .rne) ∧
    decodeTableWord 32 0x012F00A7 = some (.vcvtI32F32 ⟨false, 48⟩ (.s 11) .rtz) ∧
    decodeTableWord 32 0x01877147 = some (.vcvtF16F32 ⟨false, 55⟩ (.b 1) .rdn) ∧
    decodeTableWord 32 0x01DC09E7 = some (.vcvtBf16F32 ⟨true, 0⟩ (.c 7) .rup) ∧
    decodeTableWord 32 0x00245207 = some (.vcvtF32F16 ⟨false, 5⟩ (.v 9)) ∧
    decodeTableWord 32 0x012CC227 = some (.vcvtF32Bf16 ⟨false, 12⟩ (.s 11)) ∧
    decodeTableWord 32 0xC78532C7 = some (.vpackH2 ⟨false, 19⟩ (.b 1) (.b 3) .rdn) ∧
    decodeTableWord 32 0xB1DDA367 = some (.vpackB2 ⟨false, 26⟩ (.c 7) (.s 24) .rup) ∧
    decodeTableWord 32 0xF4240B87 = some (.vpackI16 ⟨true, 0⟩ (.v 9) (.c 10)) ∧
    decodeTableWord 32 0x5D2E84C7 = some (.vunpk ⟨false, 40⟩ (.s 11) (.v 46) 6) ∧
    decodeTableWord 32 0x8186F507 = some (.vqnt ⟨false, 47⟩ (.b 1) 64) ∧
    decodeTableWord 32 0xBBDF6527 = some (.vdqnt ⟨false, 54⟩ (.c 7) 93) := by decide

theorem test_decode_conversions_moves_2 :
    decodeTableWord 32 0x0027D607 = some (.vmov ⟨false, 61⟩ (.v 9)) ∧
    decodeTableWord 32 0x2E000E27 = some (.vmovk ⟨true, 0⟩ 23) ∧
    decodeTableWord 32 0xB584F647 = some (.vmovs ⟨false, 15⟩ (.b 1) (.s 26)) := by decide

theorem test_decode_cross_lane :
    decodeTableWord 32 0xB5DD2009 = some (.vvote ⟨false, 18⟩ (.c 7) (.s 26) 0) ∧
    decodeTableWord 32 0xF42590A9 = some (.vshfl ⟨false, 25⟩ (.v 9) (.c 10) 1) ∧
    decodeTableWord 32 0x172E04C9 = some (.vshflImm ⟨false, 32⟩ (.s 11) 11 2) ∧
    decodeTableWord 32 0xB5840909 = some (.vbcast ⟨true, 0⟩ (.b 1) (.s 26)) ∧
    decodeTableWord 32 0x8BDEE509 = some (.vbcastImm ⟨false, 46⟩ (.c 7) 69) ∧
    decodeTableWord 32 0x98000189 = some (.setpart (.s 12)) ∧
    decodeTableWord 32 0xFE000589 = some (.setpartImm 127) ∧
    decodeTableWord 32 0x01843329 = some (.vred ⟨false, 3⟩ (.b 1) .fmin) ∧
    decodeTableWord 32 0x01DC0E89 = some (.vscan ⟨true, 0⟩ (.c 7) .maxU) := by decide

theorem test_decode_scalar_1 :
    decodeTableWord 32 0x9929500B = some (.sadd ⟨false, 21⟩ (.s 10) (.s 12)) ∧
    decodeTableWord 32 0xE769C40B = some (.saddImm ⟨false, 28⟩ (.s 26) 115) ∧
    decodeTableWord 32 0xBD10302B = some (.ssub ⟨false, 3⟩ (.s 4) (.s 30)) ∧
    decodeTableWord 32 0xAD48A04B = some (.smul ⟨false, 10⟩ (.s 18) (.s 22)) ∧
    decodeTableWord 32 0x95280C4B = some (.smulImm ⟨true, 0⟩ (.s 10) 74) ∧
    decodeTableWord 32 0x8D69806B = some (.smulh ⟨false, 24⟩ (.s 26) (.s 6)) ∧
    decodeTableWord 32 0xBD11F08B = some (.smulhU ⟨false, 31⟩ (.s 4) (.s 30)) ∧
    decodeTableWord 32 0xAD4860AB = some (.sdiv ⟨false, 6⟩ (.s 18) (.s 22)) ∧
    decodeTableWord 32 0x9928D0CB = some (.sdivU ⟨false, 13⟩ (.s 10) (.s 12)) ∧
    decodeTableWord 32 0x8D6808EB = some (.srem ⟨true, 0⟩ (.s 26) (.s 6)) ∧
    decodeTableWord 32 0xBD11B10B = some (.sremU ⟨false, 27⟩ (.s 4) (.s 30)) ∧
    decodeTableWord 32 0xAD48212B = some (.sand ⟨false, 2⟩ (.s 18) (.s 22)) := by decide

theorem test_decode_scalar_2 :
    decodeTableWord 32 0x6528952B = some (.sandImm ⟨false, 9⟩ (.s 10) 50) ∧
    decodeTableWord 32 0x8D69014B = some (.sor ⟨false, 16⟩ (.s 26) (.s 6)) ∧
    decodeTableWord 32 0xD9100D4B = some (.sorImm ⟨true, 0⟩ (.s 4) 108) ∧
    decodeTableWord 32 0xAD49E16B = some (.sxor ⟨false, 30⟩ (.s 18) (.s 22)) ∧
    decodeTableWord 32 0x4D28556B = some (.sxorImm ⟨false, 5⟩ (.s 10) 38) ∧
    decodeTableWord 32 0x8D68C18B = some (.sshl ⟨false, 12⟩ (.s 26) (.s 6)) ∧
    decodeTableWord 32 0xC111358B = some (.sshlImm ⟨false, 19⟩ (.s 4) 96) ∧
    decodeTableWord 32 0xAD4809AB = some (.ssrl ⟨true, 0⟩ (.s 18) (.s 22)) ∧
    decodeTableWord 32 0x352815AB = some (.ssrlImm ⟨false, 1⟩ (.s 10) 26) ∧
    decodeTableWord 32 0x8D6881CB = some (.ssra ⟨false, 8⟩ (.s 26) (.s 6)) ∧
    decodeTableWord 32 0xA910F5CB = some (.ssraImm ⟨false, 15⟩ (.s 4) 84) ∧
    decodeTableWord 32 0xAD4961EB = some (.smin ⟨false, 22⟩ (.s 18) (.s 22)) := by decide

theorem test_decode_scalar_3 :
    decodeTableWord 32 0x99280A0B = some (.sminU ⟨true, 0⟩ (.s 10) (.s 12)) ∧
    decodeTableWord 32 0x8D68422B = some (.smax ⟨false, 4⟩ (.s 26) (.s 6)) ∧
    decodeTableWord 32 0xBD10B24B = some (.smaxU ⟨false, 11⟩ (.s 4) (.s 30)) ∧
    decodeTableWord 32 0xAD49226B = some (.ssel ⟨false, 18⟩ (.s 18) (.s 22)) ∧
    decodeTableWord 32 0x0129928B = some (.smov ⟨false, 25⟩ (.s 10)) ∧
    decodeTableWord 32 0x8D6862AB = some (.saddD 6 (.s 26) (.s 6)) ∧
    decodeTableWord 32 0x791106AB = some (.saddDImm 16 (.s 4) 60) ∧
    decodeTableWord 32 0xAD4812CB = some (.scmp .ne (.s 18) (.s 22)) ∧
    decodeTableWord 32 0xED2826CB = some (.scmpImm .lt (.s 10) 118) ∧
    decodeTableWord 32 0x2601C68B = some (.sli ⟨false, 28⟩ 19) := by decide

theorem test_decode_control_1 :
    decodeTableWord 32 0x9A31000D = some (.bra 0x9A31) ∧
    decodeTableWord 32 0x9A31002D = some (.brc 0x9A31) ∧
    decodeTableWord 32 0x9A31004D = some (.brcN 0x9A31) ∧
    decodeTableWord 32 0x0000908D = some (.jmp 18) ∧
    decodeTableWord 32 0x9A3190AD = some (.call 0x9A31 18) ∧
    decodeTableWord 32 0x000090CD = some (.ret 18) ∧
    decodeTableWord 32 0x0123094D = some (.loop 0x123 1 2) ∧
    decodeTableWord 32 0x0000116D = some (.lbrk 2) ∧
    decodeTableWord 32 0x0000018D = some .regangW ∧
    decodeTableWord 32 0x000001AD = some .regangN ∧
    decodeTableWord 32 0x0000020D = some .exit ∧
    decodeTableWord 32 0x0000022D = some .nop := by decide

theorem test_decode_control_2 :
    decodeTableWord 32 0x0000024D = some .yield := by decide

theorem test_decode_masks_melds_1 :
    decodeTableWord 32 0x0201E00F = some (.msave ⟨false, 30⟩ .cm) ∧
    decodeTableWord 32 0x0128002F = some (.mrest .exec (.s 10)) ∧
    decodeTableWord 32 0x0368004F = some (.mand .cm (.s 26)) ∧
    decodeTableWord 32 0x0110006F = some (.mor .exec (.s 4)) ∧
    decodeTableWord 32 0x0348008F = some (.mandn .cm (.s 18)) ∧
    decodeTableWord 32 0x012800AF = some (.mxor .exec (.s 10)) ∧
    decodeTableWord 32 0x02A400CF = some (.mset .cm (.v 41)) ∧
    decodeTableWord 32 0x000008EF = some (.mpop ⟨true, 0⟩ .exec) ∧
    decodeTableWord 32 0x0201610F = some (.mfirst ⟨false, 22⟩ .cm) ∧
    decodeTableWord 32 0x9928120F = some (.meld true (.s 10) (.s 12)) ∧
    decodeTableWord 32 0x0000022F = some .melde ∧
    decodeTableWord 32 0xD001624F = some (.mtw 22 104) := by decide

theorem test_decode_masks_melds_2 :
    decodeTableWord 32 0x01480A6F = some (.mtr ⟨true, 0⟩ (.s 18)) ∧
    decodeTableWord 32 0x9800528F = some (.kset 5 (.s 12)) ∧
    decodeTableWord 32 0x7E00268F = some (.ksetImm 2 63) := by decide

theorem test_decode_loads_stores_1 :
    decodeTableWord 32 0x57136611 = some (.ld 54 (.s 4) (.v 43) 3) ∧
    decodeTableWord 32 0xF34BE371 = some (.ldSigned 62 (.s 18) (.c 9) 1) ∧
    decodeTableWord 32 0x57286631 = some (.st 6 (.s 10) (.v 43) 3) ∧
    decodeTableWord 32 0x8D68E651 = some (.lds 14 (.s 26) (.s 6) true) ∧
    decodeTableWord 32 0xBD118671 = some (.sts 24 (.s 4) (.s 30) true) ∧
    decodeTableWord 32 0xF295E691 = some (.spld 30 (.v 37) (.c 9) 3) ∧
    decodeTableWord 32 0x56966391 = some (.spldSigned 38 (.v 37) (.v 43) 1) ∧
    decodeTableWord 32 0xF296E6B1 = some (.spst 46 (.v 37) (.c 9) 3) ∧
    decodeTableWord 32 0x3DCF66D1 = some (.tld 7 5 51 54 3) ∧
    decodeTableWord 32 0xA5CFE6F1 = some (.tst 20 5 51 62 3) ∧
    decodeTableWord 32 0x57280111 = some (.pref (.s 10) (.v 43)) ∧
    decodeTableWord 32 0x0168E131 = some (.shpld 14 (.s 26)) := by decide

theorem test_decode_loads_stores_2 :
    decodeTableWord 32 0x0001B151 = some (.shpinv 27) := by decide

theorem test_decode_atomics_sync_1 :
    decodeTableWord 32 0x5949E8F3 = some (.atomDie 30 (.s 18) (.v 44) true .cas) ∧
    decodeTableWord 32 0x592A6A73 = some (.atomPkg 38 (.s 10) (.v 44) true .and) ∧
    decodeTableWord 32 0x596AECD3 = some (.atomSys 46 (.s 26) (.v 44) true .exch) ∧
    decodeTableWord 32 0x58976713 = some (.atoms 54 (.v 37) (.v 44) false .fadd) ∧
    decodeTableWord 32 0x00003173 = some (.fence .die) ∧
    decodeTableWord 32 0x00004193 = some (.rel .pkg) ∧
    decodeTableWord 32 0x000051B3 = some (.acq .sys) ∧
    decodeTableWord 32 0x011161D3 = some (.lda32 22 (.s 4) .lane) ∧
    decodeTableWord 32 0x0349E1F3 = some (.lda64 30 (.s 18) .warp) ∧
    decodeTableWord 32 0x052A6373 = some (.stl32 38 (.s 10) .team) ∧
    decodeTableWord 32 0x076AE393 = some (.stl64 46 (.s 26) .die) ∧
    decodeTableWord 32 0x011023B3 = some (.waitp .ift (.s 4)) := by decide

theorem test_decode_atomics_sync_2 :
    decodeTableWord 32 0x0000A3D3 = some (.cntr 10) ∧
    decodeTableWord 32 0x992803F3 = some (.bar (.s 10) (.s 12)) ∧
    decodeTableWord 32 0x8D680573 = some (.bara (.s 26) (.s 6)) ∧
    decodeTableWord 32 0x01100593 = some (.barw (.s 4)) ∧
    decodeTableWord 32 0x000005B3 = some .dbar ∧
    decodeTableWord 32 0x000005D3 = some .gbar ∧
    decodeTableWord 32 0x8D6865F3 = some (.cwait 6 (.s 26) (.s 6)) ∧
    decodeTableWord 32 0xBD100773 = some (.csig (.s 4) (.s 30)) := by decide

theorem test_decode_matrix :
    decodeTableWord 32 0xB2CB1695 = some (.mma 44 44 44 22 true) ∧
    decodeTableWord 32 0xE79E56B5 = some (.mmas 57 57 57 22 true) ∧
    decodeTableWord 32 0x0000E055 = some (.mzero 14) ∧
    decodeTableWord 32 0x044960D5 = some (.mcvtH2 22 (.v 18) .rdn) ∧
    decodeTableWord 32 0x0649E155 = some (.mcvtB2 30 (.v 18) .rup) ∧
    decodeTableWord 32 0x004A61D5 = some (.mcvtF32 38 (.v 18) .rne) ∧
    decodeTableWord 32 0x024AE255 = some (.mcvtI32 46 (.v 18) .rtz) ∧
    decodeTableWord 32 0xBD1002D5 = some (.msclB (.s 4) (.s 30)) ∧
    decodeTableWord 32 0xAD480355 = some (.msclP (.s 18) (.s 22)) := by decide

theorem test_decode_engines_pipes_1 :
    decodeTableWord 32 0x99280017 = some (.ersetBind (.s 10) (.s 12)) ∧
    decodeTableWord 32 0x01681017 = some (.ersetFree (.s 26)) ∧
    decodeTableWord 32 0xBD102017 = some (.ersetPush (.s 4) (.s 30)) ∧
    decodeTableWord 32 0xAD483017 = some (.ersetPop (.s 18) (.s 22)) ∧
    decodeTableWord 32 0x99284017 = some (.ersetWaitf (.s 10) (.s 12)) ∧
    decodeTableWord 32 0x8D685017 = some (.ersetWaite (.s 26) (.s 6)) ∧
    decodeTableWord 32 0x01100037 = some (.ecopy (.s 4)) ∧
    decodeTableWord 32 0x01480057 = some (.egath (.s 18)) ∧
    decodeTableWord 32 0x01280077 = some (.escat (.s 10)) ∧
    decodeTableWord 32 0x01680097 = some (.ered (.s 26)) ∧
    decodeTableWord 32 0x011000B7 = some (.ebcast (.s 4)) ∧
    decodeTableWord 32 0x01482117 = some (.prsv 2 (.s 18)) := by decide

theorem test_decode_engines_pipes_2 :
    decodeTableWord 32 0x99280137 = some (.pcmt (.s 10) (.s 12)) ∧
    decodeTableWord 32 0x01696157 = some (.pacq 22 (.s 26)) ∧
    decodeTableWord 32 0xBD100177 = some (.prel (.s 4) (.s 30)) ∧
    decodeTableWord 32 0x0148A197 = some (.ptryR 10 (.s 18)) ∧
    decodeTableWord 32 0x012941B7 = some (.ptryA 20 (.s 10)) ∧
    decodeTableWord 32 0x0169E1D7 = some (.pstat 30 (.s 26)) ∧
    decodeTableWord 32 0xBD100217 = some (.pmsg (.s 4) (.s 30)) ∧
    decodeTableWord 32 0xAD492237 = some (.precv 18 (.s 18) (.s 22)) ∧
    decodeTableWord 32 0x9929C317 = some (.klaunch 28 (.s 10) (.s 12)) ∧
    decodeTableWord 32 0x8D686337 = some (.glaunch 6 (.s 26) (.s 6)) ∧
    decodeTableWord 32 0xBD100357 = some (.gcond (.s 4) (.s 30)) := by decide

theorem test_decode_ranges_caches :
    decodeTableWord 32 0x0149A019 = some (.rsplit 26 (.s 18)) ∧
    decodeTableWord 32 0x01284039 = some (.rmerge 4 (.s 10)) ∧
    decodeTableWord 32 0x8D68E059 = some (.rprot 14 (.s 26) (.s 6)) ∧
    decodeTableWord 32 0xBD100079 = some (.rinval .lane (.s 4) (.s 30)) ∧
    decodeTableWord 32 0x01488099 = some (.rprobe 8 (.s 18)) ∧
    decodeTableWord 32 0x9928C0B9 = some (.rres 12 (.s 10) (.s 12)) ∧
    decodeTableWord 32 0x016960D9 = some (.rpress 22 (.s 26)) ∧
    decodeTableWord 32 0xBD104119 = some (.cwb .pkg (.s 4) (.s 30)) ∧
    decodeTableWord 32 0xAD485139 = some (.cinv .sys (.s 18) (.s 22)) := by decide

theorem test_decode_system :
    decodeTableWord 32 0x0128001B = some (.trap (.s 10)) ∧
    decodeTableWord 32 0x0000003B = some .bkpt ∧
    decodeTableWord 32 0x026D505B = some (.sysr 27 (.scal ⟨false, 21⟩)) ∧
    decodeTableWord 32 0xAC44007B = some (.sysw 17 (.s 22)) ∧
    decodeTableWord 32 0x6444047B = some (.syswImm 17 50) ∧
    decodeTableWord 32 0x0000009B = some .ilbf := by decide

theorem test_decode_limm :
    decodeTableWord 32 0xD5E6F79D = some (.limm 0x1ABCDEF) := by decide

theorem test_decode_short_1 :
    decodeTableWord 16 0xE7C0 = some (.vaddShort 62 28) ∧
    decodeTableWord 16 0x48C2 = some (.vsubShort 6 9) ∧
    decodeTableWord 16 0xB1C4 = some (.vandShort 14 22) ∧
    decodeTableWord 16 0x1AC6 = some (.vorShort 22 3) ∧
    decodeTableWord 16 0x83C8 = some (.vxorShort 30 16) ∧
    decodeTableWord 16 0xECCA = some (.vshlShort 38 29) ∧
    decodeTableWord 16 0x55CC = some (.vsrlShort 46 10) ∧
    decodeTableWord 16 0xBECE = some (.vsraShort 54 23) ∧
    decodeTableWord 16 0x27D0 = some (.vminShort 62 4) ∧
    decodeTableWord 16 0x88D2 = some (.vmaxShort 6 17) ∧
    decodeTableWord 16 0xF1D4 = some (.vfaddShort 14 30) ∧
    decodeTableWord 16 0x5AD6 = some (.vfsubShort 22 11) := by decide

theorem test_decode_short_2 :
    decodeTableWord 16 0xC3D8 = some (.vfmulShort 30 24) ∧
    decodeTableWord 16 0x2CDA = some (.vmovShort 38 5) ∧
    decodeTableWord 16 0xFDDC = some (.vaddi 46 31) ∧
    decodeTableWord 16 0xFEDE = some (.vneg 54 31) := by decide

/-! ### Small states -/

/-- One running warp of one team at privilege S that is about to issue. -/
def base : Mach := (Mach.reset 8).withProgram

def stateOf (m : Mach) : State := { State.reset with m := m }

/-- `base` with its warp, its team or its context changed. -/
def withW (f : Warp → Warp) : State := stateOf (base.modWarp 0 0 f)
def withT (f : Team → Team) : State := stateOf (base.modTeam 0 f)
def withC (f : Context → Context) : State := stateOf (base.modCtx 0 f)
def s0 : State := stateOf base

/-- A gang for machines in which none issues. -/
def spare : Issue :=
  { t := 0, w := 0, warp := Warp.start 0 0 0 32 0 0, gang := 0, pc := 0
    team := base.freshTeam { entry := 0, vregs := 64, span := false, teamw := 1, nbar := 16, frames := 64, tlanes := 32, nshape := 0, shapes := 0 } []
      { linear := 0, gx := 1, gy := 1, gz := 1, dies := [0], die := 0, core := 0 }
      { ctx := 0, part := 0, job := 0, plan := none, graph := none, args := 0, argsz := 0, super := true, cor := false, prio := 0, served := none } .running
    ctx := { id := 0, part := 0, y := 0, q := 0, sdbase := 0, sdcnt := 0, hkdesc := 0, route := 0, sysva := 0, qtva := 0, saveva := 0, ranges := []
             halt := none, haltDue := false, debugger := false, traps := [], stops := [], stopOwn := false, stopDie := 0, reported := false } }

/-- The issuing gang. -/
def iss (s : State) : Issue := s.m.issuer.getD spare

/-- Whether an instruction is admitted. -/
def ok (s : State) (i : Instr) : Bool :=
  match s.m.issuer with
  | some g => !g.breaksMeld i i.uses && !g.lanes.any (g.oddName i.uses) && !g.aboveV i.uses && !((i.uses.super && !g.team.super) || i.uses.denied) &&
      !g.warp.latchMisuse i.uses && !g.hazard i.uses && !g.held i.uses && decide (g.poisoned i.uses = none)
  | none => false

theorem iss_of {s : State} (h : s.m.issuer.isSome = true) : s.m.issuer = some (iss s) := by
  unfold iss; cases hg : s.m.issuer with
  | none => simp [hg] at h
  | some g => rfl

theorem admits_of {s : State} {i : Instr} (h : ok s i = true) : Admits s.m (iss s) i := by
  unfold iss; unfold ok at h
  cases hg : s.m.issuer with
  | none => simp [hg] at h
  | some g =>
    simp only [hg, Bool.and_eq_true, Bool.not_eq_true', decide_eq_true_eq] at h
    exact ⟨hg, h.1.1.1.1.1.1.1, h.1.1.1.1.1.1.2, h.1.1.1.1.1.2, h.1.1.1.1.2, h.1.1.1.2, h.1.1.2, h.1.2, h.2⟩

theorem reached_of {m : Mach} {g : Issue} {i : Instr} (h : Admits m g i) : Reaches m g i := ⟨h.issues, h.region, h.pairs, h.belowV⟩
theorem last_of {s : State} {i : Instr} (h : ok s i = true) (hf : (iss s).warp.flight = []) : AdmitsLast s.m (iss s) i := ⟨admits_of h, hf⟩

/-- An open region. -/
def sMeld : State := withW fun x => { x with meld := some ⟨5, tab fun _ => some 3, 1⟩ }

/-- Slice 7 goes on its own. -/
def sSplit : State := withW fun x => { x with slices := tab fun j => { x.slices.at j with gang := if j.val < 7 then 0 else 7 } }

/-- A load into v5 of every lane in flight. -/
def flight5 : Flight :=
  { ctr := .ifg, act := .load false, place := .die, size := 4, scalar := false
    lanes := (List.range 32).map fun l => { lane := l, va := 0x10000 + 4 * l, key := 0x10000 + 4 * l, desc := findRange (base.contexts.flatMap Context.ranges) 0x10000, reg := 5, data := 0, cmp := 0 }
    done := [], gang := 255, pc := 0x10000, head := 0x10000, next := 0x10004, iword := 0, skid := 0, replay := false
    snap := { slices := tab fun _ => { pc := 0x10000, stack := [], gang := 0, wait := .none }, lc := tab fun _ => 0, count := 0, chain := none } }

/-- Every event goes to a handler. -/
def sRouted : State := withC fun c => { c with route := 0x5555 }

def isOk {ε α β : Type} : Except ε α × β → Bool
  | (.ok _, _) => true
  | (.error _, _) => false
def isNow : Now × Mach → Bool
  | (.ok _, _) => true
  | _ => false

theorem ok_of {ε α β : Type} {x : Except ε α × β} (h : isOk x = true) : ∃ a b, x = (.ok a, b) := by
  rcases x with ⟨_ | a, b⟩
  · cases h
  · exact ⟨a, b, rfl⟩
theorem error_of {ε α β : Type} {x : Except ε α × β} (h : isOk x = false) : ∃ a b, x = (.error a, b) := by
  rcases x with ⟨a | _, b⟩
  · exact ⟨a, b, rfl⟩
  · cases h
theorem now_of {x : Now × Mach} (h : isNow x = true) : ∃ a b, x = (.ok a, b) := by
  rcases x with ⟨_ | _, b⟩ <;> first | exact ⟨_, b, rfl⟩ | cases h

/-- The pair s2 names an address of the one range, and so does the pair s4, at its last eight bytes. -/
def sAddr : State := withW fun x => { x with s := (x.s.put 2 0x10000).put 4 0x1FFF8 }

/-! ### One step of one instruction on a small state: the expected values are worked by hand from the rules named -/

/-- A lane of a register, a scalar, CM and the PC of slice 0 after a step that fetches the word `w`. -/
def stepped (s : State) (nbits w : Nat) : Option Warp :=
  match step (s.withFetchWord nbits w) with
  | .next t => t.m.warp? 0 0
  | _ => none

def lane (n : Fin 64) (l : Fin 32) (x : Warp) : Word := (x.v.at n).at l
def sreg (n : Fin 32) (x : Warp) : Word := x.s.at n
def pc0 (x : Warp) : Nat := (x.slices.at 0).pc

/-- Registers given by a value for each lane. -/
def withV (l : List (Fin 64 × (Fin 32 → Word))) : State := withW fun x => { x with v := l.foldl (fun v e => v.put e.1 (tab e.2)) x.v }
def withS (l : List (Fin 32 × Word)) : State := withW fun x => { x with s := l.foldl (fun v e => v.put e.1 e.2) x.s }

/-- 09 R158, the worked word of SADD: 0xFFFF_FFFF + 2 wraps. -/
theorem test_sadd_wraps : (stepped (withS [(4, 0xFFFFFFFF), (5, 2)]) 32 0x8B10300B).map (fun x => (sreg 3 x, pc0 x)) = some (1, 0x10004) := by decide +kernel

/-- 09 R159: a remainder has the sign of the dividend. -/
theorem test_srem_sign : (exec (.srem ⟨false, 1⟩ (.s 4) (.s 5)) (withS [(4, 0xFFFFFFF9), (5, 2)]) |> fun o => match o with
    | .next t => (t.m.warp? 0 0).map (sreg 1)
    | _ => none) = some 0xFFFFFFFF := by decide +kernel

/-- 07 R101: the 16-bit form reads its destination first and is two bytes long. -/
theorem test_vsub_short : (stepped (withV [(1, fun _ => 5), (2, fun _ => 7)]) 16 0x1022).map (fun x => (lane 1 31 x, pc0 x)) = some (0xFFFFFFFE, 0x10002) := by decide +kernel

/-- 07, the worked word of VCMP.GE v1, 14, with v1 holding the lane number: lanes 14 to 31 (10 R192). -/
theorem test_vcmp_ge : (stepped (withV [(1, fun l => BitVec.ofNat 32 l.val)]) 32 0x1C0456C1).map (·.cm) = some 0xFFFFC000 := by decide +kernel

/-- 10 R198, the worked word of VFMA: 1.5 times 2 plus 1 is 4. -/
theorem test_vfma : (stepped (withV [(2, fun _ => 0x3FC00000), (3, fun _ => 0x40000000), (4, fun _ => 0x3F800000)]) 32 0x06084005).map (lane 4 3) = some 0x40800000 := by decide +kernel

/-- 10 R190: the absolute value of the most negative number. -/
theorem test_vabs_minimum : (match exec (.vabs ⟨false, 1⟩ (.v 2)) (withV [(2, fun _ => 0x80000000)]) with
    | .next t => (t.m.warp? 0 0).map (lane 1 0)
    | _ => none) = some 0x80000000 := by decide +kernel

/-- 10 R188: a shift amount is taken mod 32. -/
theorem test_vshl_amount : (match exec (.vshlImm ⟨false, 1⟩ (.v 2) 33) (withV [(2, fun _ => 3)]) with
    | .next t => (t.m.warp? 0 0).map (lane 1 0)
    | _ => none) = some 6 := by decide +kernel

/-- 10 R199: a conversion out of range saturates, and a NaN gives 0. -/
theorem test_vcvt_saturates : (match exec (.vcvtI32F32 ⟨false, 1⟩ (.v 2) .rne) (withV [(2, fun l => if l.val = 0 then 0x4F800000 else 0x7FC00000)]) with
    | .next t => (t.m.warp? 0 0).map fun x => (lane 1 0 x, lane 1 1 x)
    | _ => none) = some (0x7FFFFFFF, 0) := by decide +kernel

/-- 10 R202: the dequantised block the rule works out, 3.25 and -2.0. -/
theorem test_vdqnt : (match exec (.vdqnt ⟨false, 1⟩ (.v 2) 6) (withV [(2, fun l => if l.val = 0 then 0x8100001A else 0x810000F0)]) with
    | .next t => (t.m.warp? 0 0).map fun x => (lane 1 0 x, lane 1 1 x)
    | _ => none) = some (0x40500000, 0xC0000000) := by decide +kernel

/-- The fragments of 10 R210: sub-gang P of slice 0 and slices 2 to 7, tiles of 8, lane 2 finished early. -/
def sTiles : State := withW fun x =>
  { x with
    v := (x.v.put 1 (tab fun l => BitVec.ofNat 32 (10 + l.val))).put 3 (tab fun l => if l.val = 0 ∨ (2 ≤ l.val ∧ l.val ≤ 7) then 1 else 0)
    part := 3, exec := 0xFFFFFFFB, slices := tab fun j => { x.slices.at j with gang := if j.val = 1 then 1 else 0 } }

theorem test_vshfl_fragment : (stepped sTiles 32 0xF40420C9).map (fun x => ([lane 2 0 x, lane 2 1 x, lane 2 2 x, lane 2 3 x, lane 2 5 x, lane 2 8 x, lane 2 14 x, lane 2 15 x], x.cm.toNat % 2 ^ 16)) =
    some ([0, 13, 0, 0, 0, 20, 24, 25], 0x3F02) := by decide +kernel

theorem test_vvote_fragment : (stepped sTiles 32 0xEE0C4049).map (fun x => [lane 4 0 x, lane 4 1 x, lane 4 2 x, lane 4 3 x]) = some [9, 9, 0, 9] := by decide +kernel

/-- 09 R168, the worked word of CALL: the link is PC + 4 and the target PC + 80. -/
theorem test_call : (stepped s0 32 0x002850AD).map (fun x => (sreg 10 x, sreg 11 x, pc0 x)) = some (0x10004, 0, 0x10050) := by decide +kernel

/-- 09 R169: a count of 0 passes over the body. -/
theorem test_loop_none : (stepped s0 32 0x0003210D).map (fun x => (x.lc.at 0, pc0 x)) = some (0, 0x10006) := by decide +kernel

/-- 09 R169: the body begins at PC + 4. -/
theorem test_loop_three : (stepped (withS [(4, 3)]) 32 0x0003210D).map (fun x => (x.lc.at 0, x.ls.at 0, x.le.at 0, pc0 x)) = some (3, 0x10004, 0x10006, 0x10004) := by decide +kernel

/-- 09 R166, the worked SWITCH: lane 0 of every slice holds 4, lane 1 holds 9, lane 2 a value of no case, lane 3 holds 4. -/
theorem test_switch : (stepped (withV [(2, fun l => if l.val % 4 = 1 then 9 else if l.val % 4 = 2 then 70 else 4)]) 96 0x00000609040402810008206D).map
    (fun x => (pc0 x, x.exec, (x.slices.at 0).stack.length)) = some (0x10020, 0x99999999, 2) := by decide +kernel

/-- 09 R177: the lowest set bit of an empty mask is 32. -/
theorem test_mfirst_empty : (match exec (.mfirst ⟨false, 1⟩ .cm) s0 with
    | .next t => (t.m.warp? 0 0).map (sreg 1)
    | _ => none) = some 32 := by decide +kernel

/-- 10 R211: the path of a lane is its bit of m0, and EXEC is saved. -/
theorem test_meld : (stepped (withS [(2, 0xFF00)]) 32 0x0108020F).map (fun x => x.meld.map fun m => [m.path.at 0, m.path.at 8, m.path.at 15, m.path.at 16]) =
    some (some [some 0, some 1, some 1, some 0]) := by decide +kernel

/-- 09 R178: a software trap that stops its context records its PC, the low half of its operand and the next instruction. -/
theorem test_trap : (match step ((withS [(2, 0x12345)]).withFetchWord 32 0x0108001B) with
    | .next t => (t.m.warp? 0 0).map fun x => x.trap.map fun p => (p.rcd.pc, p.rcd.tcode, p.rcd.rpc)
    | _ => none) = some (some (0x10000, 0x2345, 0x10004)) := by decide +kernel

/-- 14 R259: a load of 32 lanes is in flight and counted in IFG. -/
theorem test_ld_counts : (stepped (withS [(8, 0x10100), (9, 0)]) 32 0x05204411).map (fun x => (x.ifg, x.flight.length, pc0 x)) = some (1, 1, 0x10004) := by decide +kernel

/-- 07 R103: zeroed memory does not execute. -/
theorem test_zero_halfword_traps : (stepped s0 16 0).map (fun x => pc0 x) ≠ some 0x10002 := by decide +kernel

/-! ### Witnesses: states and operands that meet the hypotheses of the statements -/

theorem witness_VectorResults :
    (∃ (s : State) (g : Issue) (i : _) (d : _) (r : _), LaneResult i d r ∧ Admits s.m g i) ∧ (∃ (s : State) (g : Issue) (i : _) (d : _) (r : _), LaneResult' i d r ∧ Admits s.m g i) ∧
    (∃ (s : State) (g : Issue) (i : _) (d : _) (r : _), ShortResult i d r ∧ Admits s.m g i) ∧ (∃ (s : State) (g : Issue) (i : _) (d : _) (r : _), MoveResult i d r ∧ Admits s.m g i) :=
  ⟨⟨s0, iss s0, _, _, _, .vadd ⟨false, 63⟩ (.v 0) (.c 0), admits_of (by decide)⟩, ⟨s0, iss s0, _, _, _, .vmad ⟨true, 0⟩ (.v 63) (.s 31), admits_of (by decide)⟩,
   ⟨s0, iss s0, _, _, _, .vadd 63 27, admits_of (by decide)⟩, ⟨s0, iss s0, _, _, _, .vmovk ⟨false, 7⟩ 127, admits_of (by decide)⟩⟩

/-- A signalling NaN in v2 with the invalid exception enabled. -/
def sNan : State := withW fun x => { x with ften := 1, v := x.v.put 2 (tab fun _ => 0x7FA00000) }

theorem witness_FloatResults :
    (∃ (s : State) (g : Issue) (i : _) (d : _) (r : _), RaisesFloat i d r ∧ Admits s.m g i ∧ g.quiet (fun l => (r s.m g l).2)) ∧
    (∃ (s : State) (g : Issue) (i : _) (d : _) (r : _) (k : _), RaisesFloat i d r ∧ Admits s.m g i ∧ g.active k = true ∧ (r s.m g k).2.traps g.warp.ften = true ∧
      ∀ l, g.active l = true → (r s.m g l).2.traps g.warp.ften = true → k ≤ l) :=
  ⟨⟨s0, iss s0, _, _, _, .inl (.vfadd ⟨false, 1⟩ (.v 2) (.c 9) .rne), admits_of (by decide), by unfold Issue.quiet; decide⟩,
   ⟨sNan, iss sNan, _, _, _, 0, .inl (.vfadd ⟨false, 1⟩ (.v 2) (.c 9) .rne), admits_of (by decide), by decide, by decide, by decide⟩⟩

theorem witness_BlockFloatResults :
    (∃ (s : State) (g : Issue) (d : Dst) (a : Src) (k : Fin 128) (w : Nat), (s.m.imm k).toNat = w ∧ 2 ≤ w ∧ w ≤ 8 ∧
      Admits s.m g (.vqnt d a k) ∧ (bfpQuantise w (g.block a)).2.2.traps g.warp.ften = false) ∧
    (∃ (s : State) (g : Issue) (d : Dst) (a : Src) (k : Fin 128) (w : Nat), (s.m.imm k).toNat = w ∧ 2 ≤ w ∧ w ≤ 8 ∧ Admits s.m g (.vdqnt d a k)) :=
  ⟨⟨s0, iss s0, ⟨false, 1⟩, .v 2, 2, 2, by decide, by decide, by decide, admits_of (by decide), by decide⟩,
   ⟨s0, iss s0, ⟨false, 1⟩, .v 2, 8, 8, by decide, by decide, by decide, admits_of (by decide)⟩⟩

theorem witness_CompareResults :
    (∃ (s : State) (g : Issue) (i : _) (c : _), Compare i c ∧ Admits s.m g i) ∧
    (∃ (s : State) (g : Issue) (c : FCond) (a b : Src), Admits s.m g (.vfcmp c a b) ∧
      g.quiet (fun l => (FCond.holds c F32 (g.warp.srcF32 a l).toNat (g.warp.srcF32 b l).toNat).2)) :=
  ⟨⟨s0, iss s0, _, _, .vcmp .geu (.v 63) (.c 15), admits_of (by decide)⟩,
   ⟨s0, iss s0, .uno, .v 1, .c 0, admits_of (by decide), by unfold Issue.quiet; decide⟩⟩

theorem witness_ScalarResults :
    (∃ (s : State) (g : Issue) (i : _) (d : _) (r : _), ScalarResult i d r ∧ Admits s.m g i) ∧ (∃ (s : State) (g : Issue) (i : _) (d : _) (r : _), PairResult i d r ∧ Admits s.m g i) ∧
    (∃ (s : State) (g : Issue) (i : _) (d : _) (r : _), MaskRead i d r ∧ Admits s.m g i) ∧
    (∃ (s : State) (g : Issue) (d : SDst) (a : Src) (p : Fin 4) (e : Fin 16), Admits s.m g (.mtr d a) ∧ (g.warp.one a).toNat % 64 = 16 * p.val + e.val) :=
  ⟨⟨s0, iss s0, _, _, _, .sadd ⟨false, 31⟩ (.s 31) (.c 0), admits_of (by decide)⟩, ⟨s0, iss s0, _, _, _, .saddD 30 (.s 28) (.c 0), admits_of (by decide)⟩,
   ⟨s0, iss s0, _, _, _, .mfirst ⟨true, 0⟩ .cm, admits_of (by decide)⟩,
   ⟨s0, iss s0, ⟨false, 0⟩, .c 7, 3, 15, admits_of (by decide), by decide⟩⟩

theorem witness_DivisionResults :
    (∃ (s : State) (g : Issue) (i : _) (d : _) (a : _) (b : _) (op : _), Division i d a b op ∧ Admits s.m g i ∧ g.warp.one b ≠ 0) ∧ (∃ (s : State) (g : Issue) (i : _) (d : _) (a : _) (b : _) (op : _), Division i d a b op ∧ Admits s.m g i ∧ g.warp.one b = 0) :=
  ⟨⟨s0, iss s0, _, _, _, _, _, .sdiv ⟨false, 1⟩ (.s 1) (.c 7), admits_of (by decide), by decide⟩,
   ⟨s0, iss s0, _, _, _, _, _, .srem ⟨false, 1⟩ (.s 1) (.s 2), admits_of (by decide), by decide⟩⟩

theorem witness_MaskWrites : ∃ (s : State) (g : Issue) (i : _) (k : _) (on : _) (c : _), MaskResult i k on c ∧ Admits s.m g i :=
  ⟨s0, iss s0, _, _, _, _, .mandn .exec (.c 15), admits_of (by decide)⟩

theorem witness_CrossLaneResults :
    (∃ (s : State) (g : Issue) (i : _) (d : _) (a : _) (q : _), Shuffle i d a q ∧ Admits s.m g i ∧ g.unpoisoned a fun _ => true) ∧
    (∃ (s : State) (g : Issue) (a b : Src) (d : Dst) (u : Fin 4), Admits s.m g (.vvote d a b u) ∧ g.unpoisoned a fun j => (g.warp.one b).getLsbD j.val) ∧
    (∃ (s : State) (g : Issue) (a b : Src) (d : SDst), Admits s.m g (.vmovs d a b) ∧ g.unpoisoned a fun j => decide (j = laneAt (g.warp.one b).toNat)) :=
  ⟨⟨s0, iss s0, _, _, _, _, .vshfl ⟨false, 1⟩ (.v 2) (.v 3) 3, admits_of (by decide), by intro n l _ _ _; exact List.not_mem_nil⟩,
   ⟨s0, iss s0, .v 1, .c 7, ⟨false, 1⟩, 3, admits_of (by decide), by intro n l _ _ _; exact List.not_mem_nil⟩,
   ⟨s0, iss s0, .v 1, .c 7, ⟨false, 1⟩, admits_of (by decide), by intro n l _ _ _; exact List.not_mem_nil⟩⟩


theorem witness_WarpEffects : (∃ (s : State) (g : Issue) (i : _) (f : _), WarpEffect s.m g i f ∧ Admits s.m g i) ∧ (∃ (s : State) (g : Issue) (f : _), WarpEffect s.m g .melde f ∧ Admits s.m g .melde) :=
  ⟨⟨s0, iss s0, _, _, .setpartImm 4 (by decide), admits_of (by decide)⟩,
   ⟨sMeld, iss sMeld, _, .melde _ (by decide : (iss sMeld).warp.meld = some ⟨5, tab fun _ => some 3, 1⟩), admits_of (by decide)⟩⟩

/-! #### Control -/

theorem witness_Transfers :
    (∃ (s : State) (g : Issue) (pc : _) (f : _), Transfer g (.bra 0x8000) pc f ∧ Admits s.m g (.bra 0x8000)) ∧ (∃ (s : State) (g : Issue) (i : _) (pc : _) (f : _), Transfer g i pc f ∧ Admits s.m g i ∧ ∃ o x l, i = .loop o x l) ∧
    (∃ (s : State) (g : Issue) (o : BitVec 16) (x : Fin 32) (l : Fin 3), g.warp.s.at x ≠ 0 ∧ Admits s.m g (.loop o x l)) :=
  ⟨⟨s0, iss s0, _, _, .bra _ (.inl (by decide)), admits_of (by decide)⟩, ⟨s0, iss s0, _, _, _, .skip 3 31 2 (by decide), admits_of (by decide), _, _, _, rfl⟩,
   ⟨withS [(31, 1)], iss (withS [(31, 1)]), 3, 31, 2, by decide, admits_of (by decide)⟩⟩

/-- CM set in lane 0 only, and a full divergence stack. -/
def sDeep : State := withW fun x => { x with
  cm := 1, slices := tab fun j => { x.slices.at j with stack := (List.range 8).map fun k => ⟨.join, k, 15, 15⟩ } }
/-- A compact partition, and five gangs to be. -/
def sMany : State := stateOf ({ base with cfg := 1 }.modWarp 0 0 fun x => { x with
  cm := 0xF0, slices := tab fun j => { x.slices.at j with gang := if j.val < 2 then 0 else min j.val 4 } })

def stay (s : State) (j : Fin 8) : Outcome := { pc := (iss s).pc + 4, moves := false, exec := (iss s).execOf j, stack := ((iss s).warp.slices.at j).stack }

theorem witness_ConditionalBranches :
    (∃ (s : State) (g : Issue) (o : Fin 8 → Outcome), Admits s.m g (.brc 2) ∧ (∀ j, g.inGang j → BrcOutcome g 2 true j (o j)) ∧ g.fits s.m o) ∧
    (∃ (s : State) (g : Issue) (o : Fin 8 → Outcome), Admits s.m g (.brc 2) ∧ (∀ j, g.inGang j → BrcOutcome g 2 true j (o j)) ∧ s.m.gangLimit g < g.gangCount o) ∧
    (∃ (s : State) (g : Issue) (o : Fin 8 → Outcome), Admits s.m g (.brc 2) ∧ (∀ j, g.inGang j → BrcOutcome g 2 true j (o j)) ∧ g.gangCount o ≤ s.m.gangLimit g ∧
      ∃ j, g.inGang j ∧ s.m.stackDepth g < (o j).stack.length) := by
  refine ⟨⟨s0, iss s0, stay s0, admits_of (by decide), by unfold BrcOutcome; decide, by unfold Issue.fits; decide⟩,
    ⟨sMany, iss sMany, fun j => if j = 1 then { stay sMany j with pc := (iss sMany).pc + 4, moves := true } else stay sMany j, admits_of (by decide), by unfold BrcOutcome; decide, by decide⟩,
    ⟨sDeep, iss sDeep, fun j => if j = 0 then { pc := (iss sDeep).pc + 4, moves := true, exec := 1, stack := ⟨.pending, (iss sDeep).pc + 4, 14, 15⟩ :: ((iss sDeep).warp.slices.at 0).stack } else stay sDeep j, admits_of (by decide), by unfold BrcOutcome; decide, by decide, 0, by decide, by decide⟩⟩

/-- The outcomes of SWITCH v63 with a case for 63 and one for 0, read from a table of one row for each slice: the lanes that hold 63. -/
def sCases : List SwCase := [⟨63, 1⟩, ⟨0, 0x200⟩]
def v63 (x : Warp) (on : Fin 32 → Bool) : Warp := { x with v := x.v.put 63 (tab fun l => if on l then 63 else 0) }
/-- Lane 0 holds 63 and the stacks are full, the slices 0 and 1 of five gangs to be hold different values, and lane 4 holds 63. -/
def sSwDeep : State := stateOf (sDeep.m.modWarp 0 0 (v63 · fun l => l = 0))
def sSwMany : State := stateOf (sMany.m.modWarp 0 0 (v63 · fun l => l.val < 4))
def sSwitch : State := withW (v63 · fun l => l = 4)

/-- Slice `j` goes to the case of 0. -/
def swZero (s : State) (j : Fin 8) : Outcome := { pc := programVA - 1024, moves := true, exec := (iss s).execOf j, stack := ((iss s).warp.slices.at j).stack }
/-- Slice `j`, whose lowest lane alone holds 63, goes to that case, and its other lanes are pushed. -/
def swParts (s : State) (j : Fin 8) : Outcome :=
  { pc := programVA + 2, moves := true, exec := 1, stack := ⟨.pending, programVA - 1024, 14, 15⟩ :: ((iss s).warp.slices.at j).stack }

def isSwitch (g : Issue) (d : Fin 64) (cs : List SwCase) (j : Fin 8) (q : Outcome) : Bool :=
  let size := (Instr.switch d cs).size
  let out := fun l : Fin 32 => Spec.caseOf g.pc size cs (g.warp.src (.v d) l)
  let mine := fun l : Fin 32 => decide (l.val / 4 = j.val) && g.active l
  let lanes := fun o : Nat × Bool => Spec.laneBits j fun l => mine l && decide (out l = o)
  let stack := (g.warp.slices.at j).stack
  match (((List.finRange 32).filter mine).map out).eraseDups with
  | [] => decide (q = { pc := g.pc + size, moves := false, exec := g.execOf j, stack := stack })
  | o :: os => decide (q = { pc := o.1, moves := o.2, exec := lanes o, stack := os.map (fun e => ⟨.pending, e.1 % 2 ^ 48, lanes e, Spec.laneBits j mine⟩) ++ stack })

theorem switch_of {g : Issue} {d : Fin 64} {cs : List SwCase} {o : Fin 8 → Outcome} (h : ∀ j, g.inGang j → isSwitch g d cs j (o j) = true) (j : Fin 8) (hj : g.inGang j) :
    SwitchOutcome g d cs j (o j) := by
  have h := h j hj
  unfold isSwitch at h
  unfold SwitchOutcome
  dsimp only at h ⊢
  split at h
  all_goals (next e => first | exact of_decide_eq_true h | (rw [e]; exact of_decide_eq_true h))

theorem witness_Switches :
    (∃ (s : State) (g : Issue) (d : Fin 64) (cs : List SwCase) (o : Fin 8 → Outcome), Admits s.m g (.switch d cs) ∧
      (∀ j, g.inGang j → SwitchOutcome g d cs j (o j)) ∧ g.fits s.m o) ∧
    (∃ (s : State) (g : Issue) (d : Fin 64) (cs : List SwCase) (o : Fin 8 → Outcome), Admits s.m g (.switch d cs) ∧
      (∀ j, g.inGang j → SwitchOutcome g d cs j (o j)) ∧ s.m.gangLimit g < g.gangCount o) ∧
    (∃ (s : State) (g : Issue) (d : Fin 64) (cs : List SwCase) (o : Fin 8 → Outcome), Admits s.m g (.switch d cs) ∧
      (∀ j, g.inGang j → SwitchOutcome g d cs j (o j)) ∧ g.gangCount o ≤ s.m.gangLimit g ∧ ∃ j, g.inGang j ∧ s.m.stackDepth g < (o j).stack.length) :=
  ⟨⟨sSwitch, iss sSwitch, 63, sCases, fun j => if j = 1 then swParts sSwitch j else swZero sSwitch j, admits_of (by decide), switch_of (by decide +kernel), by unfold Issue.fits; decide⟩,
   ⟨sSwMany, iss sSwMany, 63, sCases, fun j => if j = 0 then { swParts sSwMany j with exec := 15, stack := [] } else swZero sSwMany j, admits_of (by decide), switch_of (by decide +kernel), by decide⟩,
   ⟨sSwDeep, iss sSwDeep, 63, sCases, fun j => if j = 0 then swParts sSwDeep j else swZero sSwDeep j, admits_of (by decide), switch_of (by decide +kernel), by decide, 0, by decide, by decide⟩⟩

/-- Slice 7 waits at the REGANG.W that the others reach. -/
def sLast : State := stateOf (sSplit.m.modWarp 0 0 fun x => { x with slices := x.slices.put 7 { x.slices.at 7 with wait := .regang } })
def sPending : State := withW fun x => { x with slices := tab fun j => { x.slices.at j with stack := [⟨.pending, 8, 3, 15⟩] } }

theorem witness_Rejoining :
    (∃ (s : State) (g : Issue), Admits s.m g .regangN ∧ ∀ j, g.inGang j → (g.regang j).1.isSome) ∧
    (∃ (s : State) (g : Issue), Admits s.m g .regangW ∧ g.ganged = true ∧ ∀ j, g.inGang j → (g.regang j).1 = none) ∧
    (∃ (s : State) (g : Issue) (k : Fin 8), Admits s.m g .regangW ∧ (∀ j, g.inGang j → (g.regang j).1 = none) ∧ g.live.getLsbD k.val = true ∧ ¬ g.inGang k ∧
      ((g.warp.slices.at k).wait ≠ .regang ∨ (g.warp.slices.at k).pc ≠ g.pc % 2 ^ 48)) ∧
    (∃ (s : State) (g : Issue), Admits s.m g .regangW ∧ g.ganged = false ∧ (∀ j, g.inGang j → (g.regang j).1 = none) ∧
      ∀ k : Fin 8, g.live.getLsbD k.val = true → ¬ g.inGang k → (g.warp.slices.at k).wait = .regang ∧ (g.warp.slices.at k).pc = g.pc % 2 ^ 48) ∧
    (∃ (s : State) (g : Issue), Admits s.m g .regangN ∧ g.ganged = false ∧ ∃ j, g.inGang j ∧ (g.regang j).1 = none) :=
  ⟨⟨sPending, iss sPending, admits_of (by decide), by decide⟩, ⟨s0, iss s0, admits_of (by decide), by decide, by decide⟩,
   ⟨sSplit, iss sSplit, 7, admits_of (by decide), by decide, by decide, by decide, .inl (by decide)⟩,
   ⟨sLast, iss sLast, admits_of (by decide), by decide, by decide, by decide⟩, ⟨sSplit, iss sSplit, admits_of (by decide), by decide, 0, by decide, by decide⟩⟩

def sAsked : State := withW fun x => { x with preq := true }

theorem witness_ExitsAndYields :
    (∃ (s : State) (g : Issue), Admits s.m g .exit ∧ g.converged = true ∧ g.warp.ifs + g.warp.ifg + g.warp.ift = 0 ∧ g.warp.flight = [] ∧ g.team.served = none ∧
      s.m.teamBusy g.t = false ∧ ∀ w x, w ≠ g.w → g.team.warps[w]? = some x → x.run = .exited) ∧
    (∃ (s : State) (g : Issue), Admits s.m g .yield ∧ g.warp.preq = true ∧ g.ganged = true ∧ g.team.served = none) :=
  ⟨⟨s0, iss s0, admits_of (by decide), by decide, by decide, by decide, by decide, by decide,
    fun w x hw hx => by
      have : w < (iss s0).team.warps.length := (List.getElem?_eq_some_iff.mp hx).1
      have h1 : (iss s0).team.warps.length = 1 := by decide
      have h0 : (iss s0).w = 0 := by decide
      omega⟩,
   ⟨sAsked, iss sAsked, admits_of (by decide), by decide, by decide, by decide⟩⟩

/-! #### Traps and the system -/

/-- Some precise trap of `i` at `s`. -/
def TrapsAt (s : State) (i : Instr) : Prop := ∃ r, TrapCase s.m (iss s) i r ∧ Admits s.m (iss s) i

def sUser : State := withT fun x => { x with super := false }
def sOdd : State := withW fun x => { x with s := x.s.put 2 1 }
def sWide : State := withW fun x => { x with s := x.s.put 2 32 }

/-- Whether an instruction reaches the test of privilege, at privilege U. -/
def unprivileged (s : State) (i : Instr) : Bool :=
  match s.m.issuer with
  | some g => !g.breaksMeld i i.uses && !g.lanes.any (g.oddName i.uses) && !g.aboveV i.uses && !g.team.super
  | none => false

theorem reaches_of {s : State} {i : Instr} (h : unprivileged s i = true) : Reaches s.m (iss s) i ∧ (iss s).team.super = false := by
  unfold iss; unfold unprivileged at h
  cases hg : s.m.issuer with
  | none => simp [hg] at h
  | some g =>
    simp only [hg, Bool.and_eq_true, Bool.not_eq_true'] at h
    exact ⟨⟨hg, h.1.1.1, h.1.1.2, h.1.2⟩, h.2⟩

theorem witness_PreciseTraps :
    TrapsAt sMeld (.bra 0) ∧ TrapsAt sOdd (.jmp 2) ∧ TrapsAt sOdd (.ret 2) ∧ TrapsAt s0 (.lbrk 2) ∧ TrapsAt sSplit .exit ∧
    TrapsAt s0 (.setpartImm 5) ∧ TrapsAt s0 (.setpart (.c 5)) ∧ TrapsAt sSplit (.meld true (.c 1) (.c 2)) ∧ TrapsAt s0 .melde ∧ TrapsAt s0 (.mtw 0 64) ∧
    TrapsAt sMeld (.kset 15 (.c 1)) ∧ TrapsAt sMeld (.ksetImm 0 1) ∧ TrapsAt s0 (.vqnt ⟨false, 1⟩ (.v 2) 9) ∧ TrapsAt s0 (.vdqnt ⟨false, 1⟩ (.v 2) 1) ∧
    TrapsAt s0 (.sdiv ⟨false, 1⟩ (.s 1) (.s 0)) ∧ TrapsAt s0 (.sysw 16 (.c 5)) ∧ TrapsAt s0 (.syswImm 16 5) ∧ TrapsAt sWide (.sysw 17 (.s 2)) ∧
    TrapsAt s0 (.syswImm 17 32) ∧ TrapsAt s0 (.sysw 28 (.c 4)) ∧ TrapsAt s0 (.syswImm 28 8) ∧ TrapsAt s0 (.sysw 28 (.c 1)) ∧ TrapsAt sWide (.rprot 1 (.s 4) (.s 2)) ∧
    TrapsAt s0 (.rres 1 (.s 4) (.s 0)) ∧ TrapsAt s0 (.gcond (.c 0) (.c 1)) ∧
    (∃ (s : State) (g : Issue) (i : Instr), Privileged s.m g i ∧ Reaches s.m g i ∧ g.team.super = false) :=
  ⟨⟨_, .braBack _ (by decide) (by decide), admits_of (by decide)⟩, ⟨_, .jmpOdd _ (by decide), admits_of (by decide)⟩,
   ⟨_, .retOdd _ (by decide), admits_of (by decide)⟩, ⟨_, .lbrk _ 2 (by decide) (by decide), admits_of (by decide)⟩,
   ⟨_, .exit (by decide), admits_of (by decide)⟩, ⟨_, .setpartImm _ (by decide), admits_of (by decide)⟩,
   ⟨_, .setpart _ (by decide), admits_of (by decide)⟩, ⟨_, .meld _ _ _ (by decide), admits_of (by decide)⟩, ⟨_, .melde (by decide), admits_of (by decide)⟩,
   ⟨_, .mtw _ _ (by decide), admits_of (by decide)⟩, ⟨_, .kset _ _ (by decide), admits_of (by decide)⟩,
   ⟨_, .ksetImm _ _ (by decide), admits_of (by decide)⟩, ⟨_, .vqnt _ _ _ (by decide), admits_of (by decide)⟩,
   ⟨_, .vdqnt _ _ _ (by decide), admits_of (by decide)⟩, ⟨_, .div _ _ _ _ _ (.sdiv _ _ _) (by decide), admits_of (by decide)⟩,
   ⟨_, .part _ (by decide), admits_of (by decide)⟩, ⟨_, .partImm _ (by decide), admits_of (by decide)⟩, ⟨_, .ften _ (by decide), admits_of (by decide)⟩,
   ⟨_, .ftenImm _ (by decide), admits_of (by decide)⟩, ⟨_, .tresume _ (by decide), admits_of (by decide)⟩, ⟨_, .tresumeImm _ (by decide), admits_of (by decide)⟩,
   ⟨_, .noHandler _ (by decide), admits_of (by decide)⟩, ⟨_, .rprot _ _ _ (by decide), admits_of (by decide)⟩, ⟨_, .rres _ _ _ (by decide), admits_of (by decide)⟩,
   ⟨_, .gcond _ _ (by decide), admits_of (by decide)⟩, ⟨sUser, iss sUser, .sysr 79 (.scal ⟨false, 0⟩), .sysr _ _ (by decide), reaches_of (by decide)⟩⟩


theorem witness_TrapEntry :
    (∃ (m : Mach) (g : Issue) (i : Instr) (r : TrapRec), m.issuer = some g ∧ i.encoded = true ∧ (∀ c w, i ≠ .illegalInstruction c w) ∧ g.routed r.cause) ∧
    (∃ (m : Mach) (g : Issue) (i : Instr) (r : TrapRec), m.issuer = some g ∧ i = .melde ∧ g.team.served = none ∧ g.ctx.routeOf (causeGroup r.cause) = 0) :=
  ⟨⟨sRouted.m, iss sRouted, .melde, TrapRec.of 0x07, iss_of (by decide), by decide, by intro c w; exact Instr.noConfusion, by unfold Issue.routed; decide⟩,
   ⟨s0.m, iss s0, .melde, TrapRec.of 0x07, iss_of (by decide), rfl, by decide, by decide⟩⟩

/-- V of 16 registers. -/
def sNarrow : State := withT fun x => { x with vregs := 16 }
def sFlight : State := withW fun x => { x with ifg := 1, flight := [flight5] }
def sPoison : State := withW fun x => { x with poison := [(5, 31)] }

theorem witness_TurnedAway :
    (∃ (s : State) (g : Issue) (i : Instr), (∃ d r, LaneResult i d r) ∧ s.m.issuer = some g ∧ g.breaksMeld i i.uses = true) ∧
    (∃ (s : State) (g : Issue) (i : Instr), (∃ d r, LaneResult i d r) ∧ s.m.issuer = some g ∧ g.breaksMeld i i.uses = false ∧
      g.lanes.any (g.oddName i.uses) = false ∧ g.aboveV i.uses = true) ∧
    (∃ (s : State) (g : Issue) (i : Instr), (∃ c, Compare i c) ∧ s.m.issuer = some g ∧ g.breaksMeld i i.uses = false ∧
      g.lanes.any (g.oddName i.uses) = false ∧ g.aboveV i.uses = false ∧ ((i.uses.super && !g.team.super) || i.uses.denied) = false ∧ g.warp.latchMisuse i.uses = true) ∧
    (∃ (s : State) (g : Issue) (i : Instr), (∃ d r, LaneResult i d r) ∧ s.m.issuer = some g ∧ g.breaksMeld i i.uses = false ∧
      g.lanes.any (g.oddName i.uses) = false ∧ g.aboveV i.uses = false ∧ ((i.uses.super && !g.team.super) || i.uses.denied) = false ∧ g.warp.latchMisuse i.uses = false ∧
      g.hazard i.uses = true) ∧
    (∃ (s : State) (g : Issue) (i : Instr) (p : _), (∃ d r, LaneResult' i d r) ∧ s.m.issuer = some g ∧ g.breaksMeld i i.uses = false ∧
      g.lanes.any (g.oddName i.uses) = false ∧ g.aboveV i.uses = false ∧ ((i.uses.super && !g.team.super) || i.uses.denied) = false ∧ g.warp.latchMisuse i.uses = false ∧
      g.hazard i.uses = false ∧ g.held i.uses = false ∧ g.poisoned i.uses = some p) :=
  ⟨⟨s0, iss s0, .vadd ⟨false, 1⟩ (.k 0) (.v 2), ⟨_, _, .vadd _ _ _⟩, iss_of (by decide), by decide⟩,
   ⟨sNarrow, iss sNarrow, .vadd ⟨false, 16⟩ (.v 1) (.v 2), ⟨_, _, .vadd _ _ _⟩, iss_of (by decide), by decide, by decide, by decide⟩,
   ⟨s0, iss s0, .scmp .eq (.b 3) (.c 0), ⟨_, .scmp _ _ _⟩, iss_of (by decide), by decide, by decide, by decide, by decide, by decide⟩,
   ⟨sFlight, iss sFlight, .vadd ⟨false, 1⟩ (.v 5) (.v 2), ⟨_, _, .vadd _ _ _⟩, iss_of (by decide), by decide, by decide, by decide, by decide, by decide, by decide⟩,
   ⟨sPoison, iss sPoison, .vabs ⟨false, 1⟩ (.v 5), _, ⟨_, _, .vabs _ _⟩, iss_of (by decide), by decide, by decide, by decide, by decide, by decide, by decide, by decide,
     (by decide : _ = some ((31 : Fin 32), (5 : Fin 64)))⟩⟩

def sWatched : State := withC fun c => { c with debugger := true }

theorem witness_SystemTraps :
    (∃ (s : State) (g : Issue) (a : Src), Admits s.m g (.trap a) ∧ g.routed 0x27) ∧
    (∃ (s : State) (g : Issue), Admits s.m g .bkpt ∧ g.routed 0x28 ∧ g.ctx.debugger = false) ∧
    (∃ (s : State) (g : Issue), Admits s.m g .bkpt ∧ g.ctx.debugger = true) :=
  ⟨⟨sRouted, iss sRouted, .c 15, admits_of (by decide), by unfold Issue.routed; decide⟩,
   ⟨sRouted, iss sRouted, admits_of (by decide), by unfold Issue.routed; decide, by decide⟩, ⟨sWatched, iss sWatched, admits_of (by decide), by decide⟩⟩

theorem witness_SpecialRegisters :
    (∃ (s : State) (g : Issue) (n : Fin 128) (r : _) (d : Dst), SpecialReg s.fuse g n r ∧ Admits s.m g (.sysr n (.vec d))) ∧
    (∃ (s : State) (g : Issue) (n : Fin 128) (r : _) (d : SDst), SpecialReg s.fuse g n r ∧ Admits s.m g (.sysr n (.scal d))) ∧
    (∃ (s : State) (g : Issue) (n : Fin 128) (r : Word) (d : SDst), SuperReg s.m g n r ∧ Admits s.m g (.sysr n (.scal d)) ∧ g.team.super = true) ∧
    (∃ (s : State) (g : Issue) (n : Fin 128) (r : Word) (d : Dst), SuperReg s.m g n r ∧ Admits s.m g (.sysr n (.vec d))) ∧
    (∃ (s : State) (g : Issue) (n : Fin 128) (r : Word) (d : SDst), SuperReg s.m g n r ∧ g.team.record = none ∧ n = 27 ∧ Admits s.m g (.sysr n (.scal d))) ∧
    (∃ (s : State) (g : Issue) (n : Fin 128) (r : Word) (d : SysDst), SuperReg s.m g n r ∧ Reaches s.m g (.sysr n d) ∧ g.team.super = false) :=
  ⟨⟨s0, iss s0, _, _, ⟨false, 0⟩, .laneid, admits_of (by decide)⟩, ⟨s0, iss s0, _, _, ⟨true, 0⟩, .ycnt, admits_of (by decide)⟩,
   ⟨s0, iss s0, _, _, ⟨false, 31⟩, .dom 0, admits_of (by decide), by decide⟩, ⟨s0, iss s0, _, _, ⟨false, 63⟩, .tresume, admits_of (by decide)⟩,
   ⟨s0, iss s0, 27, _, ⟨false, 31⟩, .noRecord _ (by decide) (by decide), by decide, rfl, admits_of (by decide)⟩,
   ⟨sUser, iss sUser, _, _, .scal ⟨false, 31⟩, .dom 15, reaches_of (by decide)⟩⟩

/-- Partition 0 holds the grant. -/
def sGrant : State := stateOf { base with grant := 0 }

/-- A register value with APPLY that leaves domain 0 as it is, and one whose domain is not aligned; both in s2. -/
def applyWord : Word := BitVec.ofNat 32 (7 * 2 ^ 7 + 2 ^ 10 + 255 * 2 ^ 21 + 2 ^ 31)
def sApply (w : Word) : State := stateOf ({ base with grant := 0 }.modWarp 0 0 fun x => { x with s := x.s.put 2 w })

/-- Another team stands before an APPLY of its own, which came first. -/
def sQueued : State :=
  stateOf { (sApply applyWord).m with teams := (sApply applyWord).m.teams ++ (sApply applyWord).m.teams, applies := [({ t := 1, w := 0, slice := 0 }, 0x10000)] }
/-- A refused value in s2 at privilege U. -/
def sRefusedUser : State := stateOf ((sApply 0x80000001).m.modTeam 0 fun x => { x with super := false })

theorem witness_DomainRegisterWrites :
    (∃ (s : State) (g : Issue) (k : Fin 16) (n : Fin 128) (b : Src), n.val = 64 + k.val ∧ Admits s.m g (.sysw n b) ∧ s.m.grant = g.team.part ∧ k.val % 2 = 1) ∧
    (∃ (s : State) (g : Issue) (k : Fin 16) (n : Fin 128) (c : Fin 128), n.val = 64 + k.val ∧ Admits s.m g (.syswImm n c) ∧ s.m.grant = g.team.part ∧ k.val % 2 = 0 ∧
      (s.m.imm c).getLsbD 31 = false) ∧
    (∀ ok : Bool, ∃ (s : State) (g : Issue) (k : Fin 16) (n : Fin 128) (b : Src) (v : Word), n.val = 64 + k.val ∧ g.warp.one b = v ∧ Admits s.m g (.sysw n b) ∧
      s.m.grant = g.team.part ∧ k.val % 2 = 0 ∧ v.getLsbD 31 = true ∧ s.m.switching = none ∧ s.m.switched.contains s.m.turn = false ∧ s.m.applyQueue = [] ∧
      applyOk s.m.dies.length s.m.domCur (s.m.domPend.put k (v &&& if k.val % 2 = 1 then 0xFFFFF else 0x1FFFEFFF)) = ok) ∧
    (∃ (s : State) (g : Issue) (k : Fin 16) (n : Fin 128) (b : Src), n.val = 64 + k.val ∧ Reaches s.m g (.sysw n b) ∧ s.m.grant ≠ g.team.part) ∧
    (∃ (s : State) (g : Issue) (k : Fin 16) (n : Fin 128) (c : Fin 128), n.val = 64 + k.val ∧ Reaches s.m g (.syswImm n c) ∧ g.team.super = false) ∧
    (∃ (s : State) (g : Issue) (k : Fin 16) (n : Fin 128) (b : Src) (v : Word) (q : Turn × Nat), n.val = 64 + k.val ∧ g.warp.one b = v ∧ Admits s.m g (.sysw n b) ∧
      s.m.grant = g.team.part ∧ k.val % 2 = 0 ∧ v.getLsbD 31 = true ∧ s.m.switching = none ∧ s.m.switched.contains s.m.turn = false ∧
      s.m.applyQueue.head? = some q ∧ q.1 ≠ s.m.turn) ∧
    (∃ (s : State) (g : Issue) (k : Fin 16) (n : Fin 128) (b : Src) (v : Word), n.val = 64 + k.val ∧ g.warp.one b = v ∧ Reaches s.m g (.sysw n b) ∧ g.team.super = false ∧
      k.val % 2 = 0 ∧ v.getLsbD 31 = true ∧ applyOk s.m.dies.length ((s.m.switching.map Prod.snd).getD s.m.domCur)
        (((s.m.switching.map Prod.snd).getD s.m.domPend).put k (v &&& if k.val % 2 = 1 then 0xFFFFF else 0x1FFFEFFF)) = false ∧
      g.warp.latchMisuse (Instr.sysw n b).uses = false) := by
  refine ⟨⟨sGrant, iss sGrant, 15, 79, .s 7, by decide, admits_of (by decide), by decide, by decide⟩,
    ⟨sGrant, iss sGrant, 0, 64, 63, by decide, admits_of (by decide), by decide, by decide, by decide⟩, ?_,
    ⟨s0, iss s0, 1, 65, .s 0, by decide, reached_of (admits_of (by decide)), by decide⟩, ⟨sUser, iss sUser, 0, 64, 63, by decide, reaches_of (by decide)⟩,
    ⟨sQueued, iss sQueued, 0, 64, .s 2, _, _, by decide, rfl, admits_of (by decide), by decide, by decide, by decide, by decide, by decide, by rfl, by decide⟩,
    ⟨sRefusedUser, iss sRefusedUser, 0, 64, .s 2, _, by decide, rfl, (reaches_of (by decide)).1, (reaches_of (i := .sysw 64 (.s 2)) (by decide)).2, by decide, by decide, by decide +kernel,
      by decide⟩⟩
  intro ok
  cases ok
  · exact ⟨sApply 0x80000001, iss (sApply 0x80000001), 0, 64, .s 2, _, by decide, rfl, admits_of (by decide), by decide, by decide, by decide, by decide, by decide, by decide, by decide +kernel⟩
  · exact ⟨sApply applyWord, iss (sApply applyWord), 0, 64, .s 2, _, by decide, rfl, admits_of (by decide), by decide, by decide, by decide, by decide, by decide, by decide, by decide +kernel⟩

/-- A handler team beside a stopped warp of a second team, whose record it serves. -/
def sHandler (cause : Nat) : State :=
  let r : TrapRec := TrapRec.of cause
  let other := { (iss s0).team with warps := (iss s0).team.warps.map fun x => { x with run := .stopped, trap := some ⟨r, 255, 0x10004, none, false, 0⟩ } }
  stateOf ({ base with teams := base.teams ++ [other] }.modTeam 0 fun x => { x with served := some (.warp 1 0 r 0) })

theorem witness_HandlerResumes :
    (∃ (s : State) (g : Issue) (i : Instr) (v : Word) (t w : Nat) (r : TrapRec) (va : Nat) (x : Warp),
      (∃ k, i = .syswImm 28 k ∧ s.m.imm k = v) ∧ Admits s.m g i ∧ g.team.super = true ∧ g.team.resumed = false ∧
      g.team.served = some (.warp t w r va) ∧ (v = 1 ∨ v = 2) ∧ (t, w) ≠ (g.t, g.w) ∧ s.m.warp? t w = some x ∧ x.trap.isSome) ∧
    (∃ (s : State) (t : Nat) (pzero : Bool) (team : Team) (t' w : Nat) (r : TrapRec) (va : Nat) (x : Warp), s.m.teams[t]? = some team ∧
      team.phase = .running ∧ team.resumed = false ∧ s.m.ctxRuns team.ctx = true ∧ team.served = some (.warp t' w r va) ∧
      (pzero = true → r.cause = 0x26) ∧ s.m.warp? t' w = some x ∧ x.trap.isSome) := by
  refine ⟨⟨sHandler 0x07, iss (sHandler 0x07), .syswImm 28 2, 2, 1, 0, TrapRec.of 0x07, 0, ((sHandler 0x07).m.warp? 1 0).getD (iss s0).warp, ⟨2, rfl, by decide⟩,
      admits_of (by decide), by decide, by decide, by decide, by decide, by decide, rfl, by decide⟩,
    ⟨sHandler 0x26, 0, true, (iss (sHandler 0x26)).team, 1, 0, TrapRec.of 0x26, 0, ((sHandler 0x26).m.warp? 1 0).getD (iss s0).warp, rfl, by decide, by decide,
      by decide, by decide, by decide, rfl, by decide⟩⟩

/-- LIMM 1 and its follower SLI. -/
def sLimm : State := s0.withFetchWord 64 0x000076273F80001D

theorem witness_LimmCompletes : ∃ (s : State) (g : Issue) (p : BitVec 25), Admits s.m g (.limm p) ∧ s.m.followerOk g = true ∧ g.warp.loopEnd (g.pc + 4) = none :=
  ⟨sLimm, iss sLimm, 0x1FC0000, admits_of (by decide), by decide, by decide⟩

/-! #### Memory -/

theorem witness_MemoryInstructionsIssue :
    (∃ (s : State) (g : Issue) (i : Instr) (q : Shot) (asks : _) (done : _) (ls : _) (m' : Mach), MemAccess g i q asks done ∧ Admits s.m g i ∧
      g.warp.counter q.ctr < 255 ∧ s.m.generateAll g q.kind q.size q.sup asks = (.ok ls, m')) ∧
    (∃ (s : State) (g : Issue) (i : Instr) (q : Shot) (asks : _) (done : _) (c : Nat) (a : Ask) (m' : Mach), MemAccess g i q asks done ∧ Admits s.m g i ∧
      g.warp.counter q.ctr < 255 ∧ s.m.generateAll g q.kind q.size q.sup asks = (.error (c, a), m')) := by
  refine ⟨?_, ?_⟩
  · obtain ⟨ls, m', h⟩ := ok_of (x := sAddr.m.generateAll (iss sAddr) .store 8 anyClass _) (by decide : isOk (sAddr.m.generateAll (iss sAddr) .store 8 anyClass
      ((iss sAddr).asks false ((iss sAddr).warp.address (.s 4) (.s 0)) 62 fun l => (iss sAddr).warp.regs 62 l (wide 3) % 2 ^ (8 * 2 ^ 3))) = true)
    exact ⟨sAddr, iss sAddr, .st 62 (.s 4) (.s 0) 3, _, _, _, ls, m', .st _ _ _ _, admits_of (by decide), by decide, h⟩
  · obtain ⟨⟨c, a⟩, m', h⟩ := error_of (x := s0.m.generateAll (iss s0) .load 4 anyClass _) (by decide : isOk (s0.m.generateAll (iss s0) .load 4 anyClass
      ((iss s0).asks false ((iss s0).warp.address (.s 2) (.s 0)) 1 fun _ => 0)) = false)
    exact ⟨s0, iss s0, .ld 1 (.s 2) (.s 0) 2, _, _, _, c, a, m', .ld _ _ _ _, admits_of (by decide), by decide, h⟩

/-- A shape of rank 1 and eight words at the start of the range. -/
def shape1 : Shape :=
  { base := 0x10000, scratch := false, rank := 1, fmt := 2, fault := false, perm := 0, ext := [8, 0, 0, 0, 0, 0, 0], pitch := [4, 0, 0, 0, 0, 0, 0] }
def sShape : State := withT fun x => { x with shapes := x.shapes.put 31 (some shape1) }

theorem witness_TensorAccess : ∃ (s : State) (g : Issue) (i : Instr) (q : Shot) (asks : _) (done : _) (ls : _) (m' : Mach),
    TensorAccess g i q asks done ∧ Admits s.m g i ∧ g.warp.counter q.ctr < 255 ∧ s.m.generateAll g q.kind q.size q.sup asks = (.ok ls, m') := by
  have t : TensorAccess (iss sShape) (.tld 31 0 8 1 2) _ _ _ := .tld 31 0 8 1 2 shape1 (by decide) (by decide)
  obtain ⟨ls, m', h⟩ := ok_of (x := sShape.m.generateAll (iss sShape) .load 4 anyClass _) (by decide : isOk (sShape.m.generateAll (iss sShape) .load 4 anyClass
    (((iss sShape).lanes.filter fun l => shape1.within ((iss sShape).warp.coordsOf 8 0 l) || shape1.fault).map ((iss sShape).tensorAsk shape1 false 0 8 1 2))) = true)
  exact ⟨sShape, iss sShape, _, _, _, _, ls, m', t, admits_of (by decide), by decide, h⟩

theorem witness_TranslationChecks : (∃ (m : Mach) (d c ctx va n : Nat) (r : RangeDesc), (m.lookup d c ctx va).1 = some r ∧ va % n = 0 ∧ va < 2 ^ 48) ∧
    (∃ (m : Mach) (d c ctx va n : Nat), (m.lookup d c ctx va).1 = none ∧ va % n = 0) ∧ ∃ va n : Nat, va % n ≠ 0 :=
  ⟨⟨base, 0, 0, 0, 0x1FFF8, 8, _, rfl, by decide, by decide⟩, ⟨base, 0, 0, 0, 0x20000, 8, by decide, by decide⟩, 0x10001, 8, by decide⟩

/-- Core 1 of die 7 holds the line of 0x1FFF8 in its L1. -/
def mHolds : Mach := base.modCore 7 1 fun x => { x with l1 := { lines := [0x3FF], data := [⟨0x1FFF8, 5⟩] } }

theorem witness_StoresShow :
    (∃ (m : Mach) (d k n : Nat), (n = 1 ∨ n = 2 ∨ n = 4 ∨ n = 8) ∧ k % n = 0 ∧ keyClass k ≠ 4 ∧ d < m.dies.length ∧ (m.core? d 23).isSome) ∧
    (∃ (m : Mach) (d c k n e c' : Nat) (x : Core), (n = 1 ∨ n = 2 ∨ n = 4 ∨ n = 8) ∧ k % n = 0 ∧ keyClass k ≠ 4 ∧ (e, c') ≠ (d, c) ∧ m.core? e c' = some x ∧
      x.l1.holds (lineOf k) = true) ∧
    (∃ (m m' : Mach) (d k n v : Nat), (n = 1 ∨ n = 2 ∨ n = 4 ∨ n = 8) ∧ k % n = 0 ∧ keyClass k ≠ 4 ∧ Mem.wf m.home = true ∧ m.press = [] ∧
      m.dieRead d k n = some (v, m')) := by
  refine ⟨⟨base, 7, 0x1FFFF, 1, by decide, by decide, by decide, by decide, by decide⟩,
    ⟨mHolds, 7, 0, 0x1FFF8, 8, 7, 1, _, by decide, by decide, by decide, by decide, rfl, by decide⟩, ?_⟩
  cases h : base.dieRead 7 0x1FFF8 8 with
  | none => exact absurd h (by decide)
  | some p => exact ⟨base, p.2, 7, 0x1FFF8, 8, p.1, by decide, by decide, by decide, by decide, rfl, h⟩

/-- A store of one byte to the last place of a team's scratch. -/
def scratchStore : Flight :=
  { flight5 with ctr := .ifs, act := .store, size := 1, lanes := [{ lane := 31, va := 64 * 1024 - 1, key := 0, desc := none, reg := 5, data := 255, cmp := 0 }] }

theorem witness_ScratchAccesses : ∃ (m : Mach) (t : Nat) (team : Team) (f : Flight) (a : LaneAcc), a.desc = none ∧ m.teams[t]? = some team ∧ f.act = .store :=
  ⟨base, 0, (iss s0).team, scratchStore, scratchStore.lanes.headD ⟨0, 0, 0, none, 0, 0, 0⟩, rfl, rfl, rfl⟩

/-- 05 R74, R83, R86: numbers at the ends of a format, exact zeros of both signs, and the NaNs of each kind. -/
theorem witness_AtomicValues :
    (∃ (f : FFmt) (x y z : Nat), Spec.format f ∧ Spec.finite f x ∧ Spec.finite f y ∧ Spec.finite f z) ∧ (Spec.finite F32 0x7F7FFFFF ∧ Spec.value F32 0x3F800000 ≠ 0) ∧
    (Spec.finite F32 0x80000000 ∧ Spec.value F32 0x80000000 = 0) ∧
    (∃ (f : FFmt) (x : Nat), Spec.format f ∧ Spec.isNan f x ∧ Spec.signals f x) ∧ (∃ (f : FFmt) (x : Nat), Spec.format f ∧ Spec.isNan f x ∧ ¬ Spec.signals f x) :=
  ⟨⟨BF16, 0x8000, 0x7F7F, 1, .inr (.inr rfl), by unfold Spec.finite; decide, by unfold Spec.finite; decide, by unfold Spec.finite; decide⟩,
   ⟨by unfold Spec.finite; decide, by norm_num [Spec.value, Spec.exponent, Spec.fraction, Spec.negative, F32, FFmt.bias]⟩,
   ⟨by unfold Spec.finite; decide, by norm_num [Spec.value, Spec.exponent, Spec.fraction, Spec.negative, F32]⟩,
   ⟨F16, 0xFDFF, .inr (.inl rfl), by unfold Spec.isNan; decide, by unfold Spec.signals Spec.isNan; decide⟩,
   ⟨F16, 0x7E00, .inr (.inl rfl), by unfold Spec.isNan; decide, by unfold Spec.signals Spec.isNan; decide⟩⟩

/-- A load of one lane of scratch in flight. -/
def sReturn : State := withW fun x => { x with
  ifs := 1, flight := [{ flight5 with ctr := .ifs, lanes := [{ lane := 31, va := 0, key := 0, desc := none, reg := 5, data := 0, cmp := 0 }] }] }
/-- A load of a granule that is ABSENT in flight, its context's events routed by `route`. -/
def sLate (route : BitVec 16) : State :=
  let r : RangeDesc := { (findRange (iss s0).ctx.ranges 0x10000).getD (nimomRange 0 1 0 true) with isPartial := true }
  stateOf ((base.modCtx 0 fun c => { c with route := route }).modWarp 0 0 fun x => { x with
    ifg := 1, flight := [{ flight5 with lanes := [{ lane := 31, va := 0x10000, key := 0x10000, desc := some r, reg := 5, data := 0, cmp := 0 }] }] })
def lateOf : Flight := (iss (sLate 0)).warp.flight.headD flight5

theorem witness_AccessesReturn :
    (∃ (s : State) (t w : Nat) (team : Team) (x : Warp) (f : Flight) (fs : _), s.m.teams[t]? = some team ∧ team.warps[w]? = some x ∧ x.flight = f :: fs ∧
      f.scalar = false ∧ f.size ≤ 4 ∧ (∀ sc, f.act ≠ .lda sc) ∧ (∀ k, f.act ≠ .bind k) ∧ (s.m.performLanes t team x.core f f.lanes).bad = [] ∧
      (s.m.performLanes t team x.core f f.lanes).left = []) ∧
    (∀ n : Fin 2, ∃ (s : State) (t w : Nat) (team : Team) (x : Warp) (c : Context) (f : Flight) (fs : _) (p : _) (bad : _), s.m.teams[t]? = some team ∧
      team.warps[w]? = some x ∧ s.m.ctx? team.ctx = some c ∧ c.halt = none ∧ x.run = .ready ∧ team.served = none ∧ x.flight = f :: fs ∧
      (s.m.performLanes t team x.core f f.lanes).bad = p :: bad ∧ (s.m.performLanes t team x.core f f.lanes).left = [] ∧ c.routeOf (causeGroup p.2.1) = n.val) := by
  refine ⟨⟨sReturn, 0, 0, (iss sReturn).team, (iss sReturn).warp, _, _, rfl, rfl, rfl, rfl, by decide, by intro sc; exact Act.noConfusion, by intro k; exact Act.noConfusion, by decide,
    by decide⟩, ?_⟩
  have key : ∀ r : BitVec 16, (iss (sLate r)).ctx.routeOf (causeGroup 0x40) = r.toNat % 4 →
      ((sLate r).m.performLanes 0 (iss (sLate r)).team 0 lateOf lateOf.lanes).bad.map (fun p => p.2.1) = [0x40] → ∃ p bad,
      ((sLate r).m.performLanes 0 (iss (sLate r)).team 0 lateOf lateOf.lanes).bad = p :: bad ∧ (iss (sLate r)).ctx.routeOf (causeGroup p.2.1) = r.toNat % 4 := by
    intro r h hb
    cases e : ((sLate r).m.performLanes 0 (iss (sLate r)).team 0 lateOf lateOf.lanes).bad with
    | nil => rw [e] at hb; cases hb
    | cons p bad =>
      rw [e] at hb
      have hp : p.2.1 = 0x40 := by simpa using (List.cons.inj hb).1
      exact ⟨p, bad, rfl, by rw [hp]; exact h⟩
  intro n
  match n with
  | 0 =>
    obtain ⟨p, bad, h, h1⟩ := key 0 (by decide) (by decide)
    exact ⟨sLate 0, 0, 0, (iss (sLate 0)).team, (iss (sLate 0)).warp, (iss (sLate 0)).ctx, lateOf, [], p, bad, rfl, rfl, rfl, rfl, rfl, rfl, rfl, h, by decide, h1⟩
  | 1 =>
    obtain ⟨p, bad, h, h1⟩ := key 0x5555 (by decide) (by decide)
    exact ⟨sLate 0x5555, 0, 0, (iss (sLate 0x5555)).team, (iss (sLate 0x5555)).warp, (iss (sLate 0x5555)).ctx, lateOf, [], p, bad, rfl, rfl, rfl, rfl, rfl, rfl, rfl, h, by decide, h1⟩

/-- A valid shape record at the start of the range: rank 1, format 2, extent 8, pitch 4. -/
def sRecord : State :=
  let v := 0x10000 + 2 ^ 49 + 2 * 2 ^ 52 + 8 * 2 ^ 64 + 4 * (2 ^ 144 * 2 ^ 144)
  stateOf { sAddr.m with home := (List.range 64).foldl (fun h i => Mem.put h (0x10000 + i) (BitVec.ofNat 8 (v / 256 ^ i))) sAddr.m.home }

theorem witness_CacheInstructions :
    (∃ (s : State) (g : Issue) (h : Fin 32) (a : Src) (v : Nat) (r : Shape) (m' : Mach), AdmitsLast s.m g (.shpld h a) ∧
      s.m.loadNow g (g.warp.pair a) 64 (g.plainly 64) = (.ok v, m') ∧ Shape.parse v = some r) ∧
    (∃ (s : State) (g : Issue) (h : Fin 32) (a : Src) (v : Nat) (m' : Mach), AdmitsLast s.m g (.shpld h a) ∧
      s.m.loadNow g (g.warp.pair a) 64 (g.plainly 64) = (.ok v, m') ∧ Shape.parse v = none) ∧
    (∃ (s : State) (g : Issue) (h : Fin 32), AdmitsLast s.m g (.shpinv h)) ∧
    (∃ (s : State) (g : Issue) (sc : Scope) (a b : Src), AdmitsLast s.m g (.pref a b) ∧ AdmitsLast s.m g (.rel sc) ∧ AdmitsLast s.m g (.acq sc) ∧
      AdmitsLast s.m g (.fence sc) ∧ g.releases s.m sc ∧ AdmitsLast s.m g (.cwb sc a b) ∧ AdmitsLast s.m g (.cinv sc a b) ∧
      (sc = .sys → ∀ k, k ∈ s.m.hostBytesOf g.team.die (g.ctx.lineMeets (g.warp.pair a) (g.warp.one b).toNat) → s.m.peerHeld k = false ∧ s.m.targetLost k = false)) ∧
    (∃ (s : State) (g : Issue), AdmitsLast s.m g .ilbf) := by
  refine ⟨?_, ?_, ⟨s0, iss s0, 31, last_of (by decide) (by decide)⟩, ⟨sAddr, iss sAddr, .sys, .s 2, .s 0, last_of (by decide) (by decide), last_of (by decide) (by decide),
    last_of (by decide) (by decide), last_of (by decide) (by decide), by unfold Issue.releases; decide, last_of (by decide) (by decide), last_of (by decide) (by decide),
    fun _ k hk => absurd (show k ∈ ([] : List Nat) from hk) List.not_mem_nil⟩,
    ⟨s0, iss s0, last_of (by decide) (by decide)⟩⟩
  · obtain ⟨v, m', h⟩ := now_of (x := sRecord.m.loadNow (iss sRecord) 0x10000 64 ((iss sRecord).plainly 64)) (by decide)
    have hv : (match (sRecord.m.loadNow (iss sRecord) 0x10000 64 ((iss sRecord).plainly 64)).1 with | .ok v => (Shape.parse v).isSome | _ => false) = true := by decide
    rw [h] at hv
    obtain ⟨r, hr⟩ := Option.isSome_iff_exists.mp hv
    exact ⟨sRecord, iss sRecord, 0, .s 2, v, r, m', last_of (by decide) (by decide), h, hr⟩
  · obtain ⟨v, m', h⟩ := now_of (x := sAddr.m.loadNow (iss sAddr) 0x10000 64 ((iss sAddr).plainly 64)) (by decide)
    have hv : (match (sAddr.m.loadNow (iss sAddr) 0x10000 64 ((iss sAddr).plainly 64)).1 with | .ok v => (Shape.parse v).isNone | _ => false) = true := by decide
    rw [h] at hv
    exact ⟨sAddr, iss sAddr, 31, .s 2, v, m', last_of (by decide) (by decide), h, Option.isNone_iff_eq_none.mp hv⟩

/-- A store to the range, by which the die's open epoch is not empty. -/
def sDirty : State := stateOf (sAddr.m.dieStore 0 (some 0) 0x10000 8 1)

/-- A die that holds a byte of the host dirty. -/
def mHost : Mach := base.modDie 0 fun x => { x with hdirty := [⟨2 ^ 61 + 0x1000, 7⟩], hdirtyAt := [2 ^ 61 + 0x1000] }

theorem witness_ReleaseAndAcquire :
    (∃ (m : Mach) (d c : Nat) (x : Die) (k : Core), m.dies[d]? = some x ∧ x.halted = false ∧ x.sectors ≠ [] ∧ (m.acquireDrops d c .sys).core? d c = some k) ∧
    (∃ (m : Mach) (d : Nat) (x : Die), m.dies[d]? = some x ∧ x.sectors = [] ∧ x.lost = []) ∧
    (∃ (m : Mach) (d : Nat) (x : Die), m.dies[d]? = some x ∧ x.halted = false ∧ m.press = [] ∧ x.hdirtyAt ≠ [] ∧ (∀ k, k ∈ x.hdirtyAt → keyClass k = 2 ∨ keyClass k = 3) ∧
      m.flushHeld d .sys = false ∧ m.undeliverable d .sys = []) ∧
    (∃ (s : State) (g : Issue) (i : Instr) (q : Shot) (asks : List Ask) (sc : Scope) (ls ls' : List LaneAcc) (m' m'' : Mach),
      (∃ d a, i = .stl64 d a sc ∧ q = ⟨.ifg, .stl sc, .home, 8, false, .store, anyClass⟩ ∧
        asks = g.asks false (g.warp.widePair a) d fun l => g.warp.regs d l 2) ∧
      AdmitsLast s.m g i ∧ g.warp.counter q.ctr < 255 ∧ s.m.generateAll g q.kind q.size q.sup asks = (.ok ls, m') ∧ g.releases m' sc ∧
      (m'.release g.team.die sc).generateAll g q.kind q.size q.sup asks = (.ok ls', m'')) ∧
    (∃ (s : State) (g : Issue) (i : Instr) (q : Shot) (asks : List Ask) (sc : Scope) (ls ls' : List LaneAcc) (m' m'' : Mach),
      (∃ a b, i = .csig a b ∧ q = ⟨.ifg, .csig, .home, 8, true, .atomic, fun c => decide (c ≤ 3)⟩ ∧
        asks = [{ lane := 0, scratch := false, addr := g.warp.pair a, reg := 0, data := g.warp.pair b, cmp := 0 }] ∧
        sc = counterScope ((ls.map (·.key)).headD 0)) ∧
      AdmitsLast s.m g i ∧ g.warp.counter q.ctr < 255 ∧ s.m.generateAll g q.kind q.size q.sup asks = (.ok ls, m') ∧ g.releases m' sc ∧
      (m'.release g.team.die sc).generateAll g q.kind q.size q.sup asks = (.ok ls', m'')) := by
  refine ⟨⟨sDirty.m, 0, 0, sDirty.m.dies.headD Die.reset, (((sDirty.m.acquireDrops 0 0 .sys).core? 0 0).getD Core.reset), by rfl, by decide, by decide, by rfl⟩, ⟨base, 7, Die.reset, by rfl, rfl, rfl⟩,
    ⟨mHost, 0, mHost.dies.headD Die.reset, by rfl, by decide, rfl, by decide, by decide, by decide, by decide⟩, ?_, ?_⟩
  · have e : ∀ asks, asks = (iss sDirty).asks false ((iss sDirty).warp.widePair (.s 4)) 62 (fun l => (iss sDirty).warp.regs 62 l 2) →
      isOk (sDirty.m.generateAll (iss sDirty) .store 8 anyClass asks) = true ∧
      (iss sDirty).releases (sDirty.m.generateAll (iss sDirty) .store 8 anyClass asks).2 .sys ∧
      isOk (((sDirty.m.generateAll (iss sDirty) .store 8 anyClass asks).2.release 0 .sys).generateAll (iss sDirty) .store 8 anyClass asks) = true := by
      intro asks h; subst h; unfold Issue.releases; decide
    obtain ⟨h1, h2, h3⟩ := e _ rfl
    obtain ⟨ls, m', h⟩ := ok_of h1
    obtain ⟨ls', m'', h'⟩ := ok_of h3
    rw [h] at h2 h'
    exact ⟨sDirty, iss sDirty, _, _, _, .sys, ls, ls', m', m'', ⟨62, .s 4, rfl, rfl, rfl⟩, last_of (by decide) (by decide), by decide, h, h2, h'⟩
  · have e : ∀ asks : List Ask, asks = [{ lane := 0, scratch := false, addr := (iss sDirty).warp.pair (.s 4), reg := 0, data := (iss sDirty).warp.pair (.s 0), cmp := 0 }] →
      isOk (sDirty.m.generateAll (iss sDirty) .atomic 8 (fun c => decide (c ≤ 3)) asks) = true ∧
      (∀ sc, sc = Scope.die ∨ sc = Scope.pkg ∨ sc = Scope.sys ∨ sc = Scope.team → (iss sDirty).releases (sDirty.m.generateAll (iss sDirty) .atomic 8 (fun c => decide (c ≤ 3)) asks).2 sc ∧
        isOk (((sDirty.m.generateAll (iss sDirty) .atomic 8 (fun c => decide (c ≤ 3)) asks).2.release 0 sc).generateAll (iss sDirty) .atomic 8
          (fun c => decide (c ≤ 3)) asks) = true) := by
      intro asks h; subst h; refine ⟨by decide, ?_⟩; rintro sc (rfl | rfl | rfl | rfl) <;> unfold Issue.releases <;> decide
    obtain ⟨h1, h2⟩ := e _ rfl
    obtain ⟨ls, m', h⟩ := ok_of h1
    have h3 := h2 (counterScope ((ls.map (·.key)).headD 0)) (by unfold counterScope; split <;> simp)
    obtain ⟨ls', m'', h'⟩ := ok_of h3.2
    have h4 := h3.1
    rw [h] at h4 h'
    exact ⟨sDirty, iss sDirty, _, _, _, _, ls, ls', m', m'', ⟨.s 4, .s 0, rfl, rfl, rfl, rfl⟩, last_of (by decide) (by decide), by decide, h, h4, h'⟩

/-! #### Counters, barriers and ranges -/

/-- Two accesses counted in IFS. -/
def sCount : State := withW fun x => { x with ifs := 2, s := (x.s.put 0 1).put 1 254 }

theorem witness_InFlightCounters :
    (∃ (s : State) (g : Issue) (p : Path) (a : Src), AdmitsLast s.m g (.waitp p a) ∧ g.warp.pathCount p ≤ (g.warp.one a).toNat) ∧
    (∃ (s : State) (g : Issue) (p : Path) (a : Src), AdmitsLast s.m g (.waitp p a) ∧ (g.warp.one a).toNat < g.warp.pathCount p ∧ (g.warp.one a).toNat < 255) ∧
    (∃ (s : State) (g : Issue) (d : Fin 32), AdmitsLast s.m g (.cntr d)) :=
  ⟨⟨sCount, iss sCount, .ifs, .s 1, last_of (by decide) (by decide), by decide⟩,
   ⟨sCount, iss sCount, .ifs, .s 0, last_of (by decide) (by decide), by decide, by decide⟩, ⟨s0, iss s0, 31, last_of (by decide) (by decide)⟩⟩

/-- Barrier 15 has completed a phase; the warp waits for the end of that phase; s1 holds 15 and s3 the count 2 of a team of two warps. -/
def sWaits : State := withW fun x => { x with barWait := some (15, 0), s := x.s.put 1 15 }
def sPassed : State := stateOf (sWaits.m.modTeam 0 fun t => { t with bars := t.bars.put 15 ⟨1, 0, 0⟩ })
def sTwo : State := stateOf (base.modTeam 0 fun t => { t with teamw := 2, warps := t.warps.map fun x => { x with s := (x.s.put 1 15).put 3 3 } })

theorem witness_NamedBarriers :
    (∃ (s : State) (g : Issue) (a b : Src) (id : Fin 16) (n : Nat), AdmitsLast s.m g (.bara a b) ∧ g.barOperands a b = some (id, n) ∧ g.allHere) ∧
    (∃ (s : State) (g : Issue) (a b : Src) (id : Fin 16) (n : Nat), AdmitsLast s.m g (.bar a b) ∧ g.barOperands a b = some (id, n) ∧
      g.warp.barWait = none ∧ g.allHere ∧ (g.team.bars.at id).phase < (Spec.arrives (g.team.bars.at id) n).phase) ∧
    (∃ (s : State) (g : Issue) (a b : Src) (id : Fin 16) (n : Nat), AdmitsLast s.m g (.bar a b) ∧ g.barOperands a b = some (id, n) ∧
      g.warp.barWait = none ∧ g.allHere ∧ (Spec.arrives (g.team.bars.at id) n).phase = (g.team.bars.at id).phase) ∧
    (∃ (s : State) (g : Issue) (a b : Src) (id : Fin 16) (n : Nat), AdmitsLast s.m g (.bar a b) ∧ g.barOperands a b = some (id, n) ∧
      g.warp.barWait = none ∧ ¬ g.allHere) ∧
    (∃ (s : State) (g : Issue) (p : Nat) (k : Fin 16), s.m.issuer = some g ∧ g.warp.barWait = some (k.val, p) ∧ p < (g.team.bars.at k).phase) ∧
    (∃ (s : State) (g : Issue) (p : Nat) (k : Fin 16), s.m.issuer = some g ∧ g.warp.barWait = some (k.val, p) ∧ (g.team.bars.at k).phase ≤ p) ∧
    (∃ (s : State) (g : Issue) (a : Src) (k : Fin 16), AdmitsLast s.m g (.barw a) ∧ (g.warp.one a).toNat = k.val ∧ k.val < g.team.nbar ∧
      ∀ p, g.warp.bara.at k = some p → p < (g.team.bars.at k).phase) ∧
    (∃ (s : State) (g : Issue) (a b : Src), AdmitsLast s.m g (.bar a b) ∧ g.warp.barWait = none ∧ g.team.teamw < (g.warp.one b).toNat) :=
  ⟨⟨s0, iss s0, .s 0, .s 0, 0, 1, last_of (by decide) (by decide), by decide, by unfold Issue.allHere; decide⟩,
   ⟨s0, iss s0, .s 0, .s 0, 0, 1, last_of (by decide) (by decide), by decide, by decide, by unfold Issue.allHere; decide, by decide⟩,
   ⟨sTwo, iss sTwo, .s 1, .s 0, 15, 2, last_of (by decide) (by decide), by decide, by decide, by unfold Issue.allHere; decide, by decide⟩,
   ⟨sSplit, iss sSplit, .s 0, .s 0, 0, 1, last_of (by decide) (by decide), by decide, by decide, by unfold Issue.allHere; decide⟩,
   ⟨sPassed, iss sPassed, 0, 15, iss_of (by decide), by decide, by decide⟩, ⟨sWaits, iss sWaits, 0, 15, iss_of (by decide), by decide, by decide⟩,
   ⟨sPassed, iss sPassed, .s 1, 15, last_of (by decide) (by decide), by decide, by decide, by decide⟩,
   ⟨sTwo, iss sTwo, .s 1, .s 3, last_of (by decide) (by decide), by decide, by decide⟩⟩

def sCor : State := withT fun t => { t with cor := true }
/-- Slice 7 is elsewhere, or waits at a barrier already. -/
def sCorSplit : State := stateOf (sSplit.m.modTeam 0 fun t => { t with cor := true })
/-- The team has arrived at the DBAR of its die share, or at GBAR; another of its grid has not. -/
def sShared : State := stateOf ((sCor.m.modTeam 0 fun t => { t with shareArrived := [(0, 1)] }).modWarp 0 0 fun x => { x with gridWait := some (some 0, 0) })
def sGrid (n : Nat) : State := stateOf ((sCor.m.modTeam 0 fun t => { t with gridArrived := n }).modWarp 0 0 fun x => { x with gridWait := some (none, 0) })

theorem witness_GridBarriers :
    (∃ (s : State) (g : Issue) (p : Nat), s.m.issuer = some g ∧ g.warp.gridWait = some (some g.team.dshare, p) ∧ s.m.gridDone g.team (some g.team.dshare) p = true) ∧
    (∃ (s : State) (g : Issue) (p : Nat), s.m.issuer = some g ∧ g.warp.gridWait = some (none, p) ∧ s.m.gridDone g.team none p = true) ∧
    (∃ (s : State) (g : Issue) (p : Nat), s.m.issuer = some g ∧ g.warp.gridWait = some (none, p) ∧ s.m.gridDone g.team none p = false) ∧
    (∃ (s : State) (g : Issue), AdmitsLast s.m g .gbar ∧ g.warp.gridWait = none ∧ g.team.cor = false ∧ g.team.plan = none) ∧
    (∃ (s : State) (g : Issue), AdmitsLast s.m g .gbar ∧ AdmitsLast s.m g .dbar ∧ g.warp.gridWait = none ∧ g.team.cor = true ∧ g.allHere ∧ g.releases s.m .pkg ∧
      g.releases s.m .die) ∧
    (∃ (s : State) (g : Issue), AdmitsLast s.m g .gbar ∧ g.warp.gridWait = none ∧ g.team.cor = true ∧ ¬ g.allHere) :=
  ⟨⟨sShared, iss sShared, 0, iss_of (by decide), by decide, by decide⟩, ⟨sGrid 1, iss (sGrid 1), 0, iss_of (by decide), by decide, by decide⟩,
   ⟨sGrid 0, iss (sGrid 0), 0, iss_of (by decide), by decide, by decide⟩, ⟨s0, iss s0, last_of (by decide) (by decide), by decide, by decide, by decide⟩,
   ⟨sCor, iss sCor, last_of (by decide) (by decide), last_of (by decide) (by decide), by decide, by decide, by unfold Issue.allHere; decide, by unfold Issue.releases; decide,
    by unfold Issue.releases; decide⟩,
   ⟨sCorSplit, iss sCorSplit, last_of (by decide) (by decide), by decide, by decide, by unfold Issue.allHere; decide⟩⟩

theorem cwait_reads : ∃ v m', sAddr.m.loadNow (iss sAddr) ((iss sAddr).warp.pair (.s 4)) 8 (fun m k => m.ldaRead (iss sAddr).team.die k 8 (counterScope k)) = (.ok v, m') ∧
    v = 0 ∧ m'.keyOf (iss sAddr).team.ctx ((iss sAddr).warp.pair (.s 4)) = some 0x1FFF8 := by
  obtain ⟨v, m', h⟩ := now_of (x := sAddr.m.loadNow (iss sAddr) ((iss sAddr).warp.pair (.s 4)) 8 (fun m k => m.ldaRead (iss sAddr).team.die k 8 (counterScope k))) (by decide)
  have hv : (match (sAddr.m.loadNow (iss sAddr) ((iss sAddr).warp.pair (.s 4)) 8 (fun m k => m.ldaRead (iss sAddr).team.die k 8 (counterScope k))).1 with
      | .ok v => decide (v = 0) | _ => false) = true := by decide
  have hk : (sAddr.m.loadNow (iss sAddr) ((iss sAddr).warp.pair (.s 4)) 8 (fun m k => m.ldaRead (iss sAddr).team.die k 8 (counterScope k))).2.keyOf (iss sAddr).team.ctx
      ((iss sAddr).warp.pair (.s 4)) = some 0x1FFF8 := by decide
  rw [h] at hv hk
  exact ⟨v, m', h, of_decide_eq_true hv, hk⟩

/-- A warp that stands at CWAIT s6, s4, s0, and the turn at another place. -/
def sWaiter : State := stateOf { sAddr.m.placeCode (encode (.cwait 6 (.s 4) (.s 0))) with turn := { t := 0, w := 0, slice := 1 } }

theorem witness_CounterWaits :
    (∃ (s : State) (g : Issue) (d : Fin 32) (a b : Src) (v k : Nat) (m' : Mach), AdmitsLast s.m g (.cwait d a b) ∧
      s.m.loadNow g (g.warp.pair a) 8 (fun m k => m.ldaRead g.team.die k 8 (counterScope k)) = (.ok v, m') ∧ m'.keyOf g.team.ctx (g.warp.pair a) = some k ∧
      0 ≤ (BitVec.ofNat 64 v - BitVec.ofNat 64 (g.warp.pair b)).toInt) ∧
    (∃ (s : State) (g : Issue) (d : Fin 32) (a b : Src) (v k : Nat) (m' : Mach), AdmitsLast s.m g (.cwait d a b) ∧
      s.m.loadNow g (g.warp.pair a) 8 (fun m k => m.ldaRead g.team.die k 8 (counterScope k)) = (.ok v, m') ∧ m'.keyOf g.team.ctx (g.warp.pair a) = some k ∧
      (BitVec.ofNat 64 v - BitVec.ofNat 64 (g.warp.pair b)).toInt < 0) ∧
    (∃ (s : State) (t w : Nat) (j : Fin 8) (d : Fin 32) (a b : Src) (g : Issue) (v k : Nat) (m0 m' : Mach), s.m.cwaiter t w = some (j, d, a, b) ∧
      s.m.unit = none ∧ s.m.chainElsewhere t w j = false ∧ m0 = { s.m with turn := { t := t, w := w, slice := j.val } } ∧ AdmitsLast m0 g (.cwait d a b) ∧
      m0.loadNow g (g.warp.pair a) 8 (fun m k => m.ldaRead g.team.die k 8 (counterScope k)) = (.ok v, m') ∧ m'.keyOf g.team.ctx (g.warp.pair a) = some k ∧
      0 ≤ (BitVec.ofNat 64 v - BitVec.ofNat 64 (g.warp.pair b)).toInt) := by
  obtain ⟨v, m', h, rfl, hk⟩ := cwait_reads
  refine ⟨⟨sAddr, iss sAddr, 6, .s 4, .s 0, 0, _, m', last_of (by decide) (by decide), h, hk, by decide⟩,
    ⟨sAddr, iss sAddr, 6, .s 4, .s 2, 0, _, m', last_of (by decide) (by decide), h, hk, by decide⟩, ?_⟩
  let r : State := { sWaiter with m := { sWaiter.m with turn := { t := 0, w := 0, slice := 0 } } }
  obtain ⟨v, m', h⟩ := now_of (x := r.m.loadNow (iss r) ((iss r).warp.pair (.s 4)) 8 (fun m k => m.ldaRead (iss r).team.die k 8 (counterScope k))) (by decide)
  have hv : (match (r.m.loadNow (iss r) ((iss r).warp.pair (.s 4)) 8 (fun m k => m.ldaRead (iss r).team.die k 8 (counterScope k))).1 with
      | .ok v => decide (v = 0) | _ => false) = true := by decide
  have hk : (r.m.loadNow (iss r) ((iss r).warp.pair (.s 4)) 8 (fun m k => m.ldaRead (iss r).team.die k 8 (counterScope k))).2.keyOf (iss r).team.ctx
      ((iss r).warp.pair (.s 4)) = some 0x1FFF8 := by decide
  rw [h] at hv hk
  have hv := of_decide_eq_true hv
  subst hv
  exact ⟨sWaiter, 0, 0, 0, 6, .s 4, .s 0, iss r, 0, _, _, m', by decide, by decide, by decide, rfl, last_of (s := r) (by decide) (by decide), h, hk, by decide⟩

/-- Ranges: the code at granule 1, and granules 2 and 3 partial with a residency map at 0x18000, in which granule 3 is RESIDENT; the limit of
agent 0 is one granule. -/
def sPart : State :=
  let code : RangeDesc := (findRange (iss s0).ctx.ranges 0x10000).getD (nimomRange 1 1 1 false)
  stateOf { (base.modCtx 0 fun c => { c with
      qtva := 0x19000, ranges := [code, { code with baseg := 2, lastg := 3, isPartial := true, mapva := 0x18000, maporg := 2 }] }).modWarp 0 0 fun x =>
    { x with s := (((((x.s.put 2 0x20000).put 4 0x30000).put 6 0xC0000001).put 7 1).put 8 0xC0000003).put 12 0x10000 } with
    home := [⟨0x18000, 12⟩, ⟨0x19002, 1⟩] }
/-- USED has reached the limit. -/
def sSpent : State := stateOf { sPart.m with home := sPart.m.home ++ [⟨0x1900A, 1⟩] }

theorem witness_RangeChanges :
    (∃ (s : State) (g : Issue) (i : Instr) (d : Fin 32) (st : Nat) (rs : List RangeDesc), RangeChange g i d st rs ∧ AdmitsLast s.m g i) ∧
    (∃ (s : State) (g : Issue) (d : Fin 32) (a : Src), AdmitsLast s.m g (.rprobe d a)) ∧ (∃ (rs : List RangeDesc) (va : Nat), (splitRanges rs va).1 = 0) :=
  ⟨⟨sPart, iss sPart, _, _, _, _, .rprot 0 (.s 2) (.s 7) (by decide), last_of (by decide) (by decide)⟩,
   ⟨sPart, iss sPart, 24, .s 4, last_of (by decide) (by decide)⟩, ⟨(iss sPart).ctx.ranges, 0x30000, by decide⟩⟩

/-- Two teams, of which the second has a load in flight. -/
def sBeside : State :=
  stateOf { base with teams := base.teams ++ [{ (iss s0).team with warps := (iss s0).team.warps.map fun x => { x with ifg := 1, flight := [flight5] } }] }

/-- A warp that waits to take the late fault of a load through the range. -/
def sLateUse : State :=
  let r := (findRange (iss s0).ctx.ranges 0x10000).getD (nimomRange 0 1 0 true)
  stateOf { base with teams := base.teams ++ [{ (iss s0).team with warps := (iss s0).team.warps.map fun x =>
    { x with run := .stopped, trap := some ⟨TrapRec.of 0x40, 255, 0x10004, some { flight5 with lanes := flight5.lanes.map fun a => { a with desc := some r } }, false, 0⟩ } }] }

theorem witness_RangeInvalidation :
    (∃ (s : State) (g : Issue) (sc : Scope) (a b : Src), AdmitsLast s.m g (.rinval sc a b) ∧
      let hit := fun r : RangeDesc => r.meets (g.warp.pair a / 65536 % 2 ^ 32) (g.warp.one b).toNat
      let m1 := s.m.dropRanges (s.m.coresIn g sc) g.team.ctx hit
      m1.userOf (s.m.coresIn g sc) g.team.ctx hit = none ∧ m1.lateUserOf (s.m.coresIn g sc) g.team.ctx hit = none ∧
      m1.opsUsing (s.m.engineDies g sc) g.team.ctx hit = [] ∧ g.releases m1 sc) ∧
    (∃ (s : State) (g : Issue) (sc : Scope) (a b : Src) (t w : Nat), AdmitsLast s.m g (.rinval sc a b) ∧
      let hit := fun r : RangeDesc => r.meets (g.warp.pair a / 65536 % 2 ^ 32) (g.warp.one b).toNat
      (s.m.dropRanges (s.m.coresIn g sc) g.team.ctx hit).userOf (s.m.coresIn g sc) g.team.ctx hit = some (t, w)) ∧
    (∃ (s : State) (g : Issue) (sc : Scope) (a b : Src), AdmitsLast s.m g (.rinval sc a b) ∧
      let hit := fun r : RangeDesc => r.meets (g.warp.pair a / 65536 % 2 ^ 32) (g.warp.one b).toNat
      let m1 := s.m.dropRanges (s.m.coresIn g sc) g.team.ctx hit
      m1.userOf (s.m.coresIn g sc) g.team.ctx hit = none ∧ (m1.lateUserOf (s.m.coresIn g sc) g.team.ctx hit).isSome = true) :=
  ⟨⟨sPart, iss sPart, .pkg, .s 12, .s 7, last_of (by decide) (by decide), by decide, by decide, by decide, by unfold Issue.releases; decide⟩,
   ⟨sBeside, iss sBeside, .die, .s 0, .c 2, 1, 0, last_of (by decide) (by decide), by decide⟩,
   ⟨sLateUse, iss sLateUse, .die, .s 0, .c 2, last_of (by decide) (by decide), by decide, by decide⟩⟩

theorem witness_ResidencyRequests :
    (∃ (s : State) (g : Issue) (d : Fin 32) (a b : Src) (n st va : Nat), AdmitsLast s.m g (.rres d a b) ∧ (g.warp.one b).toNat = n + st * 2 ^ 30 ∧ 1 ≤ n ∧
      n < 2 ^ 30 ∧ g.warp.pair a = va ∧ findRange g.ctx.ranges va = none) ∧
    (∃ (s : State) (g : Issue) (d : Fin 32) (a b : Src) (n st va : Nat) (r : RangeDesc), AdmitsLast s.m g (.rres d a b) ∧
      (g.warp.one b).toNat = n + st * 2 ^ 30 ∧ 1 ≤ n ∧ n < 2 ^ 30 ∧ g.warp.pair a = va ∧ findRange g.ctx.ranges va = some r ∧ r.isPartial = false) ∧
    (∃ (s : State) (g : Issue) (d : Fin 32) (a b : Src) (n st va : Nat) (r : RangeDesc), AdmitsLast s.m g (.rres d a b) ∧
      (g.warp.one b).toNat = n + st * 2 ^ 30 ∧ 1 ≤ n ∧ n < 2 ^ 30 ∧ g.warp.pair a = va ∧ findRange g.ctx.ranges va = some r ∧ r.isPartial = true ∧
      r.lastg < va / 65536 + n - 1) ∧
    (∀ k : Fin 5, ∃ (s : State) (g : Issue) (d : Fin 32) (a b : Src) (n st va : Nat) (r : RangeDesc), AdmitsLast s.m g (.rres d a b) ∧
      (g.warp.one b).toNat = n + st * 2 ^ 30 ∧ 1 ≤ n ∧ n < 2 ^ 30 ∧ g.warp.pair a = va ∧ findRange g.ctx.ranges va = some r ∧ r.isPartial = true ∧
      va / 65536 + n - 1 ≤ r.lastg ∧ s.m.pressed g.team.ctx r (va / 65536) n = false ∧
      let res := s.m.residents g.team.ctx r ((List.range n).map (va / 65536 + ·))
      match k with
      | 0 => st = 3 ∧ res = n
      | 1 => st = 3 ∧ res ≠ n ∧ (s.m.charge g.team.ctx r.agent (n - res)).isSome
      | 2 => st ≠ 3 ∧ res = 0
      | 3 => st ≠ 3 ∧ res ≠ 0
      | 4 => st = 3 ∧ res ≠ n ∧ s.m.charge g.team.ctx r.agent (n - res) = none) ∧
    (∃ (m : Mach) (ctx agent n : Nat), (m.quota ctx agent).2 + 65536 * n ≤ (m.quota ctx agent).1 ∧ n ≠ 0) ∧
    (∃ (m : Mach) (ctx agent n : Nat), (m.quota ctx agent).1 < (m.quota ctx agent).2 + 65536 * n) := by
  refine ⟨⟨sPart, iss sPart, 0, .s 10, .s 7, 1, 0, 0, last_of (by decide) (by decide), by decide, by decide, by decide, by decide, by decide⟩,
    ⟨sPart, iss sPart, 0, .s 12, .s 7, 1, 0, 0x10000, _, last_of (by decide) (by decide), by decide, by decide, by decide, by decide, rfl, by decide⟩,
    ⟨sPart, iss sPart, 0, .s 2, .s 8, 3, 3, 0x20000, _, last_of (by decide) (by decide), by decide, by decide, by decide, by decide, rfl, by decide, by decide⟩, ?_,
    ⟨sPart.m, 0, 0, 1, by decide, by decide⟩, ⟨sPart.m, 0, 0, 2, by decide⟩⟩
  intro k
  match k with
  | 0 => exact ⟨sPart, iss sPart, 0, .s 4, .s 6, 1, 3, 0x30000, _, last_of (by decide) (by decide), by decide, by decide, by decide, by decide, rfl, by decide, by decide, by decide, by decide⟩
  | 1 => exact ⟨sPart, iss sPart, 0, .s 2, .s 6, 1, 3, 0x20000, _, last_of (by decide) (by decide), by decide, by decide, by decide, by decide, rfl, by decide, by decide, by decide, by decide⟩
  | 2 => exact ⟨sPart, iss sPart, 0, .s 2, .s 7, 1, 0, 0x20000, _, last_of (by decide) (by decide), by decide, by decide, by decide, by decide, rfl, by decide, by decide, by decide, by decide⟩
  | 3 => exact ⟨sPart, iss sPart, 0, .s 4, .s 7, 1, 0, 0x30000, _, last_of (by decide) (by decide), by decide, by decide, by decide, by decide, rfl, by decide, by decide, by decide, by decide⟩
  | 4 => exact ⟨sSpent, iss sSpent, 0, .s 2, .s 6, 1, 3, 0x20000, _, last_of (by decide) (by decide), by decide, by decide, by decide, by decide, rfl, by decide, by decide, by decide, by decide⟩

/-- Request blocks: at 0x10000 one of granule 1 to granule 2, at 0x10020 one to granule 1 itself, at 0x10040 zeros; `n` accepted requests. -/
def sPress (n : Nat) : State :=
  stateOf { base.modWarp 0 0 fun x => { x with s := ((x.s.put 2 0x10000).put 4 0x10020).put 6 0x10040 } with
    home := [⟨0x10002, 1⟩, ⟨0x10008, 1⟩, ⟨0x10012, 2⟩, ⟨0x10022, 1⟩, ⟨0x10028, 1⟩, ⟨0x10032, 1⟩]
    press := List.replicate n ⟨0, 0, 1, 0, 1, 9, 0, [(1, 1)], 512, false, []⟩ }

theorem witness_PressWork :
    (∃ (s : State) (g : Issue) (d : Fin 32) (a : Src), AdmitsLast s.m g (.rpress d a) ∧ s.m.pressBlock g (g.warp.pair a) = none) ∧
    (∀ k : Fin 4, ∃ (s : State) (g : Issue) (d : Fin 32) (a : Src) (v : Nat) (p : PressAsk), AdmitsLast s.m g (.rpress d a) ∧
      s.m.pressBlock g (g.warp.pair a) = some v ∧ PressAsk.parse v = p ∧
      match k with
      | 0 => p.ok = false
      | 1 => p.ok = true ∧ s.m.destinationFree p (blockSum (p.blocks g.ctx.ranges)) = false
      | 2 => p.ok = true ∧ s.m.destinationFree p (blockSum (p.blocks g.ctx.ranges)) = true ∧ 8 ≤ s.m.press.length
      | 3 => p.ok = true ∧ s.m.destinationFree p (blockSum (p.blocks g.ctx.ranges)) = true ∧ s.m.press.length < 8) ∧
    (∃ (s : State) (r : Nat) (p : Press) (old new base : Nat), s.m.press[r]? = some p ∧ blockLine p.blocks p.dest p.moved = some (old, new) ∧
      base = lineOf (physKey p.cls 0 0) ∧ p.cls ≤ 1 ∧ keyClass (128 * (base + old)) ≠ 4 ∧ keyClass (128 * (base + new)) ≠ 4 ∧ s.m.lineMoves p old = true) ∧
    (∃ (s : State) (r : Nat) (p : Press), s.m.press[r]? = some p ∧ p.switched = false ∧ s.m.opsUsing (List.range s.m.dies.length) p.ctx p.cached = [] ∧
      s.m.lateUserOf s.m.allCores p.ctx p.cached = none ∧ s.m.userOf s.m.allCores p.ctx p.cached = none ∧ 512 * blockSum p.blocks ≤ p.moved ∧
      (s.m.pressedRanges p).length ≤ Config.rangeLimit) ∧
    (∃ (s : State) (r : Nat) (p : Press), s.m.press[r]? = some p ∧ p.switched = false ∧ p.moved < 512 * blockSum p.blocks) ∧
    (∃ (s : State) (r : Nat) (p : Press) (t w : Nat), s.m.press[r]? = some p ∧ p.switched = false ∧ 512 * blockSum p.blocks ≤ p.moved ∧
      (s.m.pressedRanges p).length ≤ Config.rangeLimit ∧ s.m.userOf s.m.allCores p.ctx p.cached = some (t, w)) := by
  refine ⟨⟨s0, iss s0, 31, .s 0, last_of (by decide) (by decide), by decide⟩, ?_,
    ⟨stateOf { base with press := [⟨0, 0, 1, 0, 1, 2, 0, [(1, 1)], 511, false, []⟩] }, 0, _, 1023, 1535, _, rfl, by decide, rfl, by decide, by decide, by decide, by decide⟩,
    ⟨sPress 1, 0, _, rfl, by decide, by decide, by decide +kernel, by decide +kernel, by decide, by decide +kernel⟩,
    ⟨stateOf { base with press := [⟨0, 0, 1, 0, 1, 2, 0, [(1, 1)], 511, false, []⟩] }, 0, _, rfl, by decide, by decide⟩,
    ⟨stateOf { sBeside.m with press := (sPress 1).m.press }, 0, _, 1, 0, rfl, by decide, by decide, by decide +kernel, by decide +kernel⟩⟩
  intro k
  match k with
  | 0 => exact ⟨sPress 0, iss (sPress 0), 0, .s 6, 0, _, last_of (by decide) (by decide), by decide, rfl, by decide⟩
  | 1 => exact ⟨sPress 0, iss (sPress 0), 0, .s 4, 0x10000 + 2 ^ 64 + 0x10000 * 2 ^ 128, _, last_of (by decide) (by decide), by decide, rfl, by decide⟩
  | 2 => exact ⟨sPress 8, iss (sPress 8), 0, .s 2, 0x10000 + 2 ^ 64 + 0x20000 * 2 ^ 128, _, last_of (by decide) (by decide), by decide, rfl, by decide⟩
  | 3 => exact ⟨sPress 7, iss (sPress 7), 0, .s 2, 0x10000 + 2 ^ 64 + 0x20000 * 2 ^ 128, _, last_of (by decide) (by decide), by decide, rfl, by decide⟩

/-! #### Matrix units, engines, pipes and launches -/

/-- One active lane, whose format word in v0 names I8 with I8 and I32 accumulators. -/
def sMma : State := withW fun x => { x with exec := 1, v := x.v.put 0 (tab fun _ => 0x144) }
def mmaOp0 : MmaOp := ⟨8, 16, 0, 56, false, false⟩
/-- A matrix unit of core 0 is retained. -/
def sAsleep : State := stateOf (sMma.m.modCore 0 0 fun c => { c with retained := 1 })
def sPending2 : State := withW fun x => { x with mma := [⟨56, [(56, 31, 7)]⟩] }
def sScale : State := stateOf (sAddr.m.modCtx 0 fun c => { c with sdbase := 0x10000, sdcnt := 1 })

theorem scale_asks : ∃ ls m', sScale.m.generateAll (iss sScale) .store 16 anyClass [
  { lane := 0, scratch := false, addr := (iss sScale).ctx.sdbase + 16 * 0, reg := 0, cmp := 0
    data := (iss sScale).warp.pair (.s 0) % 2 ^ 48 + 0 * 2 ^ 64 + (if (0 : Nat) = 0 then 0 else 2 ^ 96) }] = (.ok ls, m') := ok_of (by decide)

theorem witness_MatrixResults :
    (∃ (s : State) (g : Issue) (i : Instr) (o : MmaOp), MatrixOp i o ∧ AdmitsMma s.m g i o ∧ g.quiet (g.mmaRaises s.m o)) ∧
    (∃ (s : State) (g : Issue) (i : Instr) (o : MmaOp), MatrixOp i o ∧ s.m.issuer = some g ∧ g.mmaGate i o = .pass ∧ s.m.retainedUnits g = true) ∧
    (∃ (s : State) (t w : Nat) (x : Warp) (p : MmaPend) (ps : _), s.m.warp? t w = some x ∧ x.mma = p :: ps) ∧
    (∃ (s : State) (g : Issue) (i : Instr) (d : Fin 64) (n : Nat) (f : _), s.m.retainedUnits g = false ∧ RunResult g i d n f ∧ Admits s.m g i ∧ g.quiet (runRaises n f)) ∧
    (∃ (s : State) (g : Issue) (a b : Src), s.m.retainedUnits g = false ∧ Admits s.m g (.msclP a b)) ∧
    (∃ (s : State) (g : Issue) (a b : Src), s.m.retainedUnits g = false ∧ Admits s.m g (.msclB a b) ∧ g.ctx.sdcnt ≤ g.warp.pair b / 2 ^ 32 % 65536) ∧
    (∃ (s : State) (g : Issue) (a b : Src) (t n : Nat) (q : Shot) (ls : _) (m' : Mach), s.m.retainedUnits g = false ∧ Admits s.m g (.msclB a b) ∧
      g.warp.pair b / 2 ^ 32 % 65536 = t ∧ g.warp.pair b % 2 ^ 32 = n ∧ q = ⟨.ifg, .bind t, .die, 16, true, .store, anyClass⟩ ∧ t < g.ctx.sdcnt ∧
      g.warp.counter .ifg < 255 ∧
      s.m.generateAll g q.kind q.size q.sup [
        { lane := 0, scratch := false, addr := g.ctx.sdbase + 16 * t, reg := 0, cmp := 0
          data := g.warp.pair a % 2 ^ 48 + n * 2 ^ 64 + (if n = 0 then 0 else 2 ^ 96) }] = (.ok ls, m')) := by
  have hn : ∀ q, q ∈ (iss sMma).quarters → (iss sMma).needs mmaOp0 q = [] := by decide
  obtain ⟨ls, m', h⟩ := scale_asks
  refine ⟨⟨sMma, iss sMma, _, _, .mma 8 16 0 56 false, ⟨iss_of (by decide), by decide, by decide, by decide, by decide, ?_, ?_, ?_⟩, by unfold Issue.quiet; decide⟩,
    ⟨sAsleep, iss sAsleep, _, _, .mma 8 16 0 56 false, iss_of (by decide), by decide, by decide⟩,
    ⟨sPending2, 0, 0, (iss sPending2).warp, _, _, rfl, rfl⟩, ⟨s0, iss s0, _, _, _, _, by decide, .mzero 56, admits_of (by decide), by unfold Issue.quiet; decide⟩,
    ⟨s0, iss s0, .s 0, .s 2, by decide, admits_of (by decide)⟩, ⟨s0, iss s0, .s 0, .s 2, by decide, admits_of (by decide), by decide⟩,
    ⟨sScale, iss sScale, .s 0, .s 0, 0, 0, _, ls, m', by decide, admits_of (by decide), by decide, by decide, rfl, by decide, by decide, h⟩⟩
  · intro q n hq hm; rw [show (⟨8, 16, 0, 56, false, false⟩ : MmaOp) = mmaOp0 from rfl, hn q hq] at hm; exact absurd hm List.not_mem_nil
  · intro q n hq hm; rw [show (⟨8, 16, 0, 56, false, false⟩ : MmaOp) = mmaOp0 from rfl, hn q hq] at hm; exact absurd hm List.not_mem_nil
  · intro q n hq hm; rw [show (⟨8, 16, 0, 56, false, false⟩ : MmaOp) = mmaOp0 from rfl, hn q hq] at hm; exact absurd hm List.not_mem_nil

/-- The word `n` in v0 of the lanes below `k`, the first of which alone holds `first`. -/
def sWord (first n k : Nat) : State :=
  withW fun x => { x with exec := laneMask fun l => decide (l.val < k), v := x.v.put 0 (tab fun l => if l = 0 then BitVec.ofNat 32 first else BitVec.ofNat 32 n) }
/-- Block formats of tensors 0 and 1, whose entries the core holds and finds not valid. -/
def sEntries : State :=
  stateOf (((sWord 0x99 0 1).m.modCtx 0 fun c => { c with sdcnt := 2 }).modCore 0 0 fun c =>
    { c with sdir := [⟨0, 0, 0, 0, 64, false⟩, ⟨0, 1, 0, 0, 64, false⟩] })

/-- The word, the pair, the number of a tensor and its entry, each in turn the first test that fails. -/
theorem witness_MatrixTraps :
    (∃ (s : State) (g : Issue), s.m.issuer = some g ∧ g.mmaGate (.mma 8 16 0 56 false) mmaOp0 = .pass ∧ s.m.retainedUnits g = false ∧
      ∃ q, q ∈ g.quarters ∧ g.disagrees mmaOp0.vf 0 q = true) ∧
    (∃ (s : State) (g : Issue), s.m.issuer = some g ∧ g.mmaGate (.mma 8 16 0 56 false) mmaOp0 = .pass ∧ s.m.retainedUnits g = false ∧
      (∀ q, q ∈ g.quarters → g.disagrees mmaOp0.vf 0 q = false) ∧ ∃ q, q ∈ g.quarters ∧ (g.wordOf mmaOp0 q).ok false = false) ∧
    (∃ (s : State) (g : Issue), s.m.issuer = some g ∧ g.mmaGate (.mma 8 16 0 56 false) mmaOp0 = .pass ∧ s.m.retainedUnits g = false ∧
      (∀ q, q ∈ g.quarters → g.disagrees mmaOp0.vf 0 q = false ∧ (g.wordOf mmaOp0 q).ok false = true) ∧
      ∃ q n, q ∈ g.quarters ∧ n ∈ g.needs mmaOp0 q ∧ g.ctx.sdcnt ≤ n.1) ∧
    (∃ (s : State) (g : Issue), s.m.issuer = some g ∧ g.mmaGate (.mma 8 16 0 56 false) mmaOp0 = .pass ∧ s.m.retainedUnits g = false ∧
      (∀ q, q ∈ g.quarters → g.disagrees mmaOp0.vf 0 q = false ∧ (g.wordOf mmaOp0 q).ok false = true ∧
        ∀ n, n ∈ g.needs mmaOp0 q → n.1 < g.ctx.sdcnt ∧ ((g.onCore s.m).entry? g.team.ctx n.1).isSome = true) ∧
      ∃ q n e, q ∈ g.quarters ∧ n ∈ g.needs mmaOp0 q ∧ (g.onCore s.m).entry? g.team.ctx n.1 = some e ∧ e.valid = false) :=
  ⟨⟨sWord 0x144 0 2, iss (sWord 0x144 0 2), iss_of (by decide), by decide, by decide, 0, by decide, by decide⟩,
   ⟨sWord 0x40 0 1, iss (sWord 0x40 0 1), iss_of (by decide), by decide, by decide, by decide, 0, by decide, by decide⟩,
   ⟨sWord 0x99 0 1, iss (sWord 0x99 0 1), iss_of (by decide), by decide, by decide, by decide, 0, (0, 0, 0), by decide, by decide, by decide⟩,
   ⟨sEntries, iss sEntries, iss_of (by decide), by decide, by decide, by decide, 0, (0, 0, 0), ⟨0, 0, 0, 0, 64, false⟩, by decide, by decide, by decide, rfl⟩⟩

theorem witness_IntegerProducts : ∃ (t : Tile) (n c : Nat), t.f.acc = 1 ∧ isIntFmt t.f.a = true ∧ isIntFmt t.f.b = true ∧ 0 < t.kb ∧ t.k = n * t.kb ∧ c < 2 ^ 32 :=
  ⟨{ f := FmtWord.of 0x144, kb := 16, k := 16, bitmap := 0, aStr := fun _ => 0xFF80, aIdx := fun _ => 0, aNum := fun _ => 0, bStr := fun _ => 0x7F01
     bNum := fun _ => 0, aExp := fun _ => 0, bExp := fun _ => 0 }, 1, 2 ^ 32 - 1, by decide, by decide, by decide, by decide, by decide, by decide⟩

/-- A copy of one unit of 16 bytes from 0x10000 to 0x10100, whose descriptor lies at 0x10040; ring 15 of two entries holds one of 16 bytes; s2
names the descriptor, s4 holds 15, s5 holds 1. -/
def descImage : Nat := 0xF000 + 0xFFFF * 2 ^ 16 + 0xF001 * 2 ^ 32 + 4 * 2 ^ 56 + 0x10000 * 2 ^ 192 + (0x10100 + 0xFFFFFFFFFFFF * 2 ^ 160) * 2 ^ 256
def ring2 : Ring := ⟨0x10200, false, 4, 1, 1, 0⟩
def sEngine : State :=
  stateOf { (base.modTeam 0 fun t => { t with rings := t.rings.put 15 (some ring2) }).modWarp 0 0 fun x => { x with s := ((x.s.put 2 0x10040).put 4 15).put 5 1 } with
    home := (List.range 64).foldl (fun h i => Mem.put h (0x10040 + i) (BitVec.ofNat 8 (descImage / 256 ^ i))) [] }
def copyOp : EngOp := EngOp.parse (iss sEngine) .copy 0x10040 0x10000 descImage

theorem witness_RingsAndPosts :
    (∃ (s : State) (g : Issue) (i : Instr) (m' : Mach), AdmitsLast s.m g i ∧ RingEffect s.m g i m' ∧ ∃ a b, i = .ersetPush a b) ∧
    (∃ (s : State) (g : Issue) (i : Instr) (m' : Mach), AdmitsLast s.m g i ∧ RingEffect s.m g i m' ∧ ∃ a b, i = .ersetPop a b) ∧
    (∃ (s : State) (g : Issue) (i : Instr) (m' : Mach), AdmitsLast s.m g i ∧ RingEffect s.m g i m' ∧ ∃ a, i = .ersetFree a) ∧
    (∃ (s : State) (g : Issue) (i : Instr) (m' : Mach), AdmitsLast s.m g i ∧ RingEffect s.m g i m' ∧ ∃ a b, i = .ersetWaitf a b) ∧
    (∃ (s : State) (g : Issue) (i : Instr) (m' : Mach), AdmitsLast s.m g i ∧ RingEffect s.m g i m' ∧ ∃ a b, i = .ersetWaite a b) ∧
    (∃ (s : State) (g : Issue) (i : Instr) (kind : EngKind) (a : Src) (v : Nat) (m' : Mach) (o : EngOp), AdmitsLast s.m g i ∧ Posts i kind a ∧
      s.m.loadNow g (g.warp.pair a) 64 (g.plainly 64) = (.ok v, m') ∧ o = EngOp.parse g kind (g.warp.pair a) (m'.trapPc g) v ∧ Accepts m' g kind o v) := by
  refine ⟨⟨sEngine, iss sEngine, _, _, last_of (by decide) (by decide), .push (.s 4) (.s 5) 15 ring2 1 (by decide) (by decide) (by decide) (by decide) (by decide) (by decide)
      (by decide) (by decide), _, _, rfl⟩,
    ⟨sEngine, iss sEngine, _, _, last_of (by decide) (by decide), .pop (.s 4) (.s 5) 15 ring2 1 (by decide) (by decide) (by decide) (by decide) (by decide) (by decide)
      (by decide) (by decide), _, _, rfl⟩,
    ⟨sEngine, iss sEngine, _, _, last_of (by decide) (by decide), .free (.s 4) 15 ring2 (by decide) (by decide) (by decide), _, rfl⟩,
    ⟨sEngine, iss sEngine, _, _, last_of (by decide) (by decide), .waitf (.s 4) (.s 5) 15 ring2 1 (by decide) (by decide) (by decide) (by decide) (by decide) (by decide)
      (by decide), _, _, rfl⟩,
    ⟨sEngine, iss sEngine, _, _, last_of (by decide) (by decide), .waite (.s 4) (.s 5) 15 ring2 1 (by decide) (by decide) (by decide) (by decide) (by decide) (by decide)
      (by decide), _, _, rfl⟩, ?_⟩
  obtain ⟨v, m', h⟩ := now_of (x := sEngine.m.loadNow (iss sEngine) ((iss sEngine).warp.pair (.s 2)) 64 ((iss sEngine).plainly 64)) (by decide)
  have hv : (match (sEngine.m.loadNow (iss sEngine) ((iss sEngine).warp.pair (.s 2)) 64 ((iss sEngine).plainly 64)).1 with
      | .ok v => decide (v = descImage) | _ => false) = true := by decide
  have hm : (sEngine.m.loadNow (iss sEngine) ((iss sEngine).warp.pair (.s 2)) 64 ((iss sEngine).plainly 64)).2.ops = [] := by decide
  rw [h] at hv hm
  have hv := of_decide_eq_true hv
  subst hv
  have hh : ∀ pc, (EngOp.parse (iss sEngine) .copy ((iss sEngine).warp.pair (.s 2)) pc descImage).handles = [0xF000, 0xFFFF, 0xF001] := by intro pc; rfl
  exact ⟨sEngine, iss sEngine, _, .copy, .s 2, descImage, m', _, last_of (by decide) (by decide), .ecopy _, h, rfl, by
    refine ⟨?_, ?_, ?_, ?_, ?_, by decide⟩
    · exact (show ∀ (o : EngOp) pc v, ({ o with pc := pc } : EngOp).wellFormed v = o.wellFormed v from fun _ _ _ => rfl) copyOp _ descImage |>.trans (by decide)
    · intro k hk; rw [hh] at hk; fin_cases hk <;> rfl
    · intro k hk; rw [hh] at hk; fin_cases hk <;> rfl
    · intro k hk; rw [hh] at hk; fin_cases hk <;> rfl
    · have hm : m'.ops = [] := hm
      rw [hm]; exact (by decide : 0 < Config.engineLimit)⟩

def pipe0 : Pipe :=
  { num := 0, ctx := 0, planVA := 0, recVA := 0, fmt := 0, trows := 0, tcols := 0, depth := 4, slotlg := 0, msg := false, high := 4, low := 0, home := 0
    remote := false, peer := 0, slotva := 0x18000, spillva := 0, spilln := 0, prod := 0, cons := 0, rseq := 6, cseq := 5, tseq := 4, spilled := []
    slots := [⟨.free, 0, []⟩, ⟨.committed, 4, []⟩, ⟨.reserved, 5, []⟩, ⟨.taken, 3, []⟩], wmark := false, moved := 0 }
/-- Pipe 0, the mailbox 1, and pipe 2 with neither a free nor a committed slot. s2 and s4 name slots 2 and 3, s6 the buffer 0x10000; s8 to s11 hold
1, 2, 15 and 0x8000. -/
def sPipe : State :=
  stateOf { (base.modTeam 0 fun t => { t with rings := t.rings.put 15 (some ⟨0x10200, false, 4, 1, 1, 0⟩) }).modWarp 0 0 fun x =>
    { x with s := ((((((x.s.put 2 0x18080).put 4 0x180C0).put 6 0x10000).put 8 1).put 9 2).put 10 15).put 11 0x8000 } with
    pipes := [pipe0, { pipe0 with num := 1, msg := true }, { pipe0 with num := 2, slots := [⟨.taken, 3, []⟩] }] }

/-- A pipe instruction `i` with an effect at `sPipe`. -/
def PipeAt (i : Instr) : Prop := AdmitsLast sPipe.m (iss sPipe) i ∧ ∃ m' f, PipeEffect sPipe.m (iss sPipe) i m' f

theorem area_of {m : Mach} {g : Issue} {va n : Nat} {kind : Access} {P : Mach → Bool} (h : (match m.translate g.team.die g.core g.team.ctx va n kind g.team.super with
      | (.ok r, m1) => match m1.lateCheck g.team.ctx r va (decide (g.warp.replayData &&& g.gang ≠ 0)) with
        | (.ok, m2) => P m2
        | _ => false
      | _ => false) = true) : ∃ r m2, AreaOf m g va n kind r .reached m2 ∧ P m2 = true := by
  rcases e : m.translate g.team.die g.core g.team.ctx va n kind g.team.super with ⟨_ | r, m1⟩
  · rw [e] at h; cases h
  · rw [e] at h
    dsimp only at h
    rcases e2 : m1.lateCheck g.team.ctx r va (decide (g.warp.replayData &&& g.gang ≠ 0)) with ⟨_ | _ | _, m2⟩ <;> rw [e2] at h <;> first | cases h; done | skip
    exact ⟨r, m2, .reached r m1 m2 e e2, h⟩

theorem pmsg_effect : ∃ m' f, PipeEffect sPipe.m (iss sPipe) (.pmsg (.s 8) (.s 6)) m' f := by
  obtain ⟨r, m2, h, hp⟩ := area_of (P := fun m2 => decide (m2.flushHeld 0 .die = false ∧ m2.lostAt 0 .die = [] ∧ m2.undeliverable 0 .die = [])) (m := sPipe.m) (g := iss sPipe)
    (va := (iss sPipe).warp.pair (.s 6)) (n := 64) (kind := .load) (by decide +kernel)
  exact ⟨_, _, .pmsg (.s 8) (.s 6) { pipe0 with num := 1, msg := true } (iss sPipe).ctx r .reached 0 _ m2 _ (by rfl) rfl (by rfl) rfl (by decide) (by decide) h (by unfold Issue.releases; exact of_decide_eq_true hp) rfl (by rfl)⟩

theorem precv_effect : ∃ m' f, PipeEffect sPipe.m (iss sPipe) (.precv 31 (.s 8) (.s 6)) m' f := by
  obtain ⟨r, m2, h, hp⟩ := area_of (P := fun m2 => !m2.isHalted (m2.accessDie (iss sPipe) ((iss sPipe).warp.pair (.s 6))) && !m2.poisonAt 0 0 0x18040 64 && (m2.bytesAt 0 0 0x18040 64).isSome) (m := sPipe.m) (g := iss sPipe)
    (va := (iss sPipe).warp.pair (.s 6)) (n := 64) (kind := .store) (by decide +kernel)
  simp only [Bool.and_eq_true, Bool.not_eq_true'] at hp
  obtain ⟨⟨v, m3⟩, e⟩ := Option.isSome_iff_exists.mp hp.2
  exact ⟨_, _, .precv 31 (.s 8) (.s 6) { pipe0 with num := 1, msg := true } r .reached 1 v m2 m3 (by rfl) rfl h (by decide) hp.1.1 (by rfl) hp.1.2 e⟩

/-- The slot that the mailbox takes is poisoned. -/
theorem precvBad_effect : ∃ m' f, PipeEffect { sPipe.m with poisoned := [0x18040 / 32] } (iss sPipe) (.precv 31 (.s 8) (.s 6)) m' f := by
  obtain ⟨r, m2, h, hp⟩ := area_of (P := fun m2 => m2.poisonAt 0 0 0x18040 64 && (m2.bytesAt 0 0 0x18040 64).isSome) (m := { sPipe.m with poisoned := [0x18040 / 32] })
    (g := iss sPipe) (va := (iss sPipe).warp.pair (.s 6)) (n := 64) (kind := .store) (by decide +kernel)
  simp only [Bool.and_eq_true] at hp
  obtain ⟨⟨v, m3⟩, e⟩ := Option.isSome_iff_exists.mp hp.2
  exact ⟨_, _, .precvBad 31 (.s 8) (.s 6) { pipe0 with num := 1, msg := true } r .reached 1 v m2 m3 (by rfl) rfl h (by rfl) (.inr (.inl hp.1)) e⟩

/-- The copy of a message of pipe 1 into its slot 2 in flight. -/
def sMessage : State := stateOf (sPipe.m.modWarp 0 0 fun x => { x with ifg := 1, flight := [(iss sPipe).message sPipe.m (.pmsg (.s 8) (.s 6)) { pipe0 with num := 1, msg := true } 2
  ((findRange (iss sPipe).ctx.ranges 0x10000).getD (nimomRange 0 1 0 true)) 0x10000 .reached] })

theorem witness_messageReturns : ∃ (s : State) (t w : Nat) (team : Team) (x : Warp) (f : Flight) (fs : List Flight) (n j : Nat) (p : Pipe), s.m.teams[t]? = some team ∧
    team.warps[w]? = some x ∧ x.flight = f :: fs ∧ f.act = .pmsg n j ∧ f.ctr = .ifg ∧ (s.m.performLanes t team x.core f f.lanes).bad = [] ∧
    (s.m.performLanes t team x.core f f.lanes).left = [] ∧ (s.m.performLanes t team x.core f f.lanes).m.pipe? n = some p ∧
    (s.m.performLanes t team x.core f f.lanes).m.isHalted p.home = false ∧ j < p.slots.length := by
  obtain ⟨p, h⟩ := Option.isSome_iff_exists.mp (by decide +kernel : ((sMessage.m.performLanes 0 (iss sMessage).team 0 ((iss sMessage).warp.flight.headD flight5)
    ((iss sMessage).warp.flight.headD flight5).lanes).m.pipe? 1 |>.filter fun p => decide (p.home = 0 ∧ 2 < p.slots.length)).isSome = true)
  simp only [Option.filter_eq_some_iff, decide_eq_true_eq] at h
  exact ⟨sMessage, 0, 0, (iss sMessage).team, (iss sMessage).warp, (iss sMessage).warp.flight.headD flight5, [], 1, 2, p, rfl, rfl, rfl, rfl, rfl, by decide +kernel, by decide +kernel,
    h.1, by rw [h.2.1]; decide +kernel, h.2.2⟩

theorem witness_PipeInstructions :
    PipeAt (.prsv 30 (.s 0)) ∧ PipeAt (.ptryR 30 (.s 0)) ∧ PipeAt (.ptryR 30 (.s 9)) ∧ PipeAt (.pacq 30 (.s 0)) ∧ PipeAt (.ptryA 30 (.s 0)) ∧ PipeAt (.ptryA 30 (.s 9)) ∧
    PipeAt (.pcmt (.s 0) (.s 2)) ∧ PipeAt (.prel (.s 0) (.s 4)) ∧ PipeAt (.pstat 31 (.s 10)) ∧ PipeAt (.pstat 31 (.s 11)) ∧ PipeAt (.pmsg (.s 8) (.s 6)) ∧
    PipeAt (.precv 31 (.s 8) (.s 6)) ∧
    (∃ (s : State) (g : Issue) (i : Instr) (d : Fin 32) (a : Src) (p : Pipe), AdmitsLast s.m g i ∧ i = .prsv d a ∧
      s.m.ownPipe g (g.warp.one a).toNat false = some p ∧ p.reserve = none) ∧
    (∃ (s : State) (g : Issue) (i : Instr) (d : Fin 32) (a : Src) (p : Pipe), AdmitsLast s.m g i ∧ i = .pacq d a ∧
      s.m.ownPipe g (g.warp.one a).toNat true = some p ∧ p.takeable = none) ∧
    (∃ (s : State) (g : Issue) (i : Instr) (m' : Mach) (f : Warp → Warp), AdmitsLast s.m g i ∧ PipeEffect s.m g i m' f ∧ s.m.poisoned ≠ []) :=
  ⟨⟨last_of (by decide) (by decide), _, _, .prsv _ _ pipe0 0 _ (by rfl) (by rfl)⟩, ⟨last_of (by decide) (by decide), _, _, .ptryR _ _ pipe0 0 _ (by rfl) (by rfl)⟩,
   ⟨last_of (by decide) (by decide), _, _, .noRoom _ _ _ (by rfl) (by rfl)⟩, ⟨last_of (by decide) (by decide), _, _, .pacq _ _ pipe0 1 (by rfl) (by rfl)⟩,
   ⟨last_of (by decide) (by decide), _, _, .ptryA _ _ pipe0 1 (by rfl) (by rfl)⟩, ⟨last_of (by decide) (by decide), _, _, .noSlot _ _ _ (by rfl) (by rfl)⟩,
   ⟨last_of (by decide) (by decide), _, _, .pcmt _ _ pipe0 2 _ (by rfl) (by rfl) (by unfold Issue.releases; decide) rfl⟩,
   ⟨last_of (by decide) (by decide), _, _, .prel _ _ pipe0 3 (by rfl) (by rfl)⟩,
   ⟨last_of (by decide) (by decide), _, _, .statRing _ _ 15 _ (by decide) (by rfl)⟩, ⟨last_of (by decide) (by decide), _, _, .statPipe _ _ 0 pipe0 (by decide) (by decide) (by rfl)⟩,
   ⟨last_of (by decide) (by decide), pmsg_effect⟩, ⟨last_of (by decide) (by decide), precv_effect⟩,
   ⟨sPipe, iss sPipe, _, 30, .s 9, _, last_of (by decide) (by decide), rfl, by rfl, by rfl⟩,
   ⟨sPipe, iss sPipe, _, 30, .s 9, _, last_of (by decide) (by decide), rfl, by rfl, by rfl⟩,
   precvBad_effect.elim fun m' h => h.elim fun f h => ⟨stateOf { sPipe.m with poisoned := [0x18040 / 32] }, iss sPipe, _, m', f, last_of (s := stateOf { sPipe.m with poisoned := [0x18040 / 32] }) (by decide) (by decide), h, by decide⟩⟩

/-- A trap of `i` at `s`, with every hypothesis of its statement. -/
def LastTrapAt (s : State) (i : Instr) (cause : Nat) : Prop := AdmitsLast s.m (iss s) i ∧ ∃ m', LastTrap s.m (iss s) i (TrapRec.of cause) m'

theorem witness_RingTraps :
    LastTrapAt sPipe (.ersetFree (.s 11)) 0x03 ∧ LastTrapAt sPipe (.ersetBind (.s 6) (.s 11)) 0x03 ∧ LastTrapAt sPipe (.ersetWaitf (.s 10) (.s 0)) 0x03 ∧
    LastTrapAt sPipe (.ersetWaite (.s 10) (.s 10)) 0x03 ∧ LastTrapAt sPipe (.ersetPush (.s 0) (.s 8)) 0x0F ∧ LastTrapAt sPipe (.ersetFree (.s 0)) 0x0F ∧
    LastTrapAt sPipe (.ersetPush (.s 10) (.s 9)) 0x10 ∧ LastTrapAt sPipe (.ersetPop (.s 10) (.s 9)) 0x10 :=
  ⟨⟨last_of (by decide) (by decide), _, .ringName _ _ (.free _) (by decide)⟩, ⟨last_of (by decide) (by decide), _, .bindName _ _ (by decide)⟩,
   ⟨last_of (by decide) (by decide), _, .count _ _ _ (.waitf _ _) (.inl (by decide))⟩,
   ⟨last_of (by decide) (by decide), _, .deep _ _ _ 15 ring2 (.waite _ _) (by decide) (by rfl) (by decide)⟩,
   ⟨last_of (by decide) (by decide), _, .unbound _ _ _ 0 (.push _ _) (by decide) (by rfl) (by decide) (by decide)⟩,
   ⟨last_of (by decide) (by decide), _, .unboundFree _ 0 (by decide) (by rfl)⟩,
   ⟨last_of (by decide) (by decide), _, .full _ _ 15 ring2 (by decide) (by rfl) (by decide) (by decide) (by decide)⟩,
   ⟨last_of (by decide) (by decide), _, .short _ _ 15 ring2 (by decide) (by rfl) (by decide) (by decide) (by decide)⟩⟩

/-- The mailbox of a context of another partition. -/
def sFar : State :=
  stateOf { sPipe.m with pipes := [{ pipe0 with ctx := 1, msg := true }], contexts := sPipe.m.contexts ++ [{ (iss sPipe).ctx with id := 1, part := 1 }] }

theorem witness_PipeTraps :
    LastTrapAt sPipe (.prsv 30 (.s 10)) 0x11 ∧ LastTrapAt sPipe (.precv 30 (.s 0) (.s 6)) 0x11 ∧ LastTrapAt sPipe (.pmsg (.s 10) (.s 6)) 0x11 ∧ LastTrapAt sPipe (.pmsg (.s 0) (.s 6)) 0x11 ∧
    LastTrapAt sFar (.pmsg (.s 0) (.s 6)) 0x11 ∧ LastTrapAt sPipe (.pcmt (.s 0) (.s 6)) 0x12 ∧ LastTrapAt sPipe (.prel (.s 0) (.s 6)) 0x12 ∧ LastTrapAt sPipe (.pstat 30 (.s 0)) 0x0F ∧
    LastTrapAt (stateOf { sPipe.m with pipes := [] }) (.pstat 30 (.s 11)) 0x11 ∧ LastTrapAt sPipe (.pstat 30 (.s 2)) 0x03 :=
  ⟨⟨last_of (by decide) (by decide), _, .noPipe _ _ _ (.prsv _ _) (by rfl)⟩, ⟨last_of (by decide) (by decide), _, .noMailbox _ _ _ pipe0 (by rfl) (by rfl)⟩,
   ⟨last_of (by decide) (by decide), _, .noTarget _ _ (by rfl)⟩, ⟨last_of (by decide) (by decide), _, .notMsg _ _ pipe0 (by rfl) (by rfl)⟩,
   ⟨last_of (by decide) (by decide), _, .otherPartition _ _ { pipe0 with ctx := 1, msg := true } { (iss sPipe).ctx with id := 1, part := 1 } (by rfl) (by rfl) (by decide)⟩,
   ⟨last_of (by decide) (by decide), _, .noReserved _ _ pipe0 (by rfl) (by rfl)⟩, ⟨last_of (by decide) (by decide), _, .noTaken _ _ pipe0 (by rfl) (by rfl)⟩,
   ⟨last_of (by decide) (by decide), _, .statRing _ _ 0 (by decide) (by rfl)⟩, ⟨last_of (by decide) (by decide), _, .statPipe _ _ 0 (by decide) (by decide) (by rfl)⟩,
   ⟨last_of (by decide) (by decide), _, .statName _ _ (by decide) (by decide)⟩⟩

/-- The copy's descriptor with the source endpoint `h`, in a team that has bound no ring and no pipe. -/
def sEnd (h : Nat) : State :=
  stateOf { base.modWarp 0 0 fun x => { x with s := x.s.put 2 0x10040 } with
    home := (List.range 64).foldl (fun m i => Mem.put m (0x10040 + i) (BitVec.ofNat 8 ((descImage - 0xF000 + h) / 256 ^ i))) [] }

theorem loaded_of {s : State} {n : Nat} {P : Nat → Mach → Bool} (h : (match s.m.loadNow (iss s) ((iss s).warp.pair (.s 2)) n ((iss s).plainly n) with
      | (.ok v, m') => P v m'
      | _ => false) = true) : ∃ v m', s.m.loadNow (iss s) ((iss s).warp.pair (.s 2)) n ((iss s).plainly n) = (.ok v, m') ∧ P v m' = true := by
  rcases e : s.m.loadNow (iss s) ((iss s).warp.pair (.s 2)) n ((iss s).plainly n) with ⟨_ | _, m'⟩ <;> rw [e] at h <;> first | exact ⟨_, _, rfl, h⟩ | cases h

/-- The tests of a post at a machine, each as a truth value. -/
def endsAs (s : State) (h : Nat) (v : Nat) (m' : Mach) : Bool × Bool × Bool × Bool × Bool :=
  let o := EngOp.parse (iss s) .copy ((iss s).warp.pair (.s 2)) (m'.trapPc (iss s)) v
  (o.wellFormed v, o.handles.all (m'.endFits (iss s) o), o.handles.all (Mach.ringBound (iss s)), o.handles.contains h, m'.pipeBound (iss s) h)

theorem witness_PostTraps : LastTrapAt (sEnd 0xFFFF) (.ecopy (.s 2)) 0x0E ∧ LastTrapAt (sEnd 15) (.ecopy (.s 2)) 0x0F ∧ LastTrapAt (sEnd 0x8000) (.ecopy (.s 2)) 0x11 ∧
    LastTrapAt (sEnd 15) (.ersetBind (.s 2) (.s 0)) 0x0F := by
  refine ⟨⟨last_of (by decide) (by decide), ?_⟩, ⟨last_of (by decide) (by decide), ?_⟩, ⟨last_of (by decide) (by decide), ?_⟩, ⟨last_of (by decide) (by decide), ?_⟩⟩
  · obtain ⟨v, m', h, hp⟩ := loaded_of (s := sEnd 0xFFFF) (n := 64) (P := fun v m' => !(endsAs (sEnd 0xFFFF) 0 v m').1) (by decide +kernel)
    exact ⟨_, .badPost _ .copy _ v m' _ (.ecopy _) h rfl (.inl (by simpa [endsAs] using hp))⟩
  · obtain ⟨v, m', h, hp⟩ := loaded_of (s := sEnd 15) (n := 64) (P := fun v m' => decide ((endsAs (sEnd 15) 15 v m').1 = true ∧ (endsAs (sEnd 15) 15 v m').2.1 = true ∧
      (endsAs (sEnd 15) 15 v m').2.2.2.1 = true)) (by decide +kernel)
    have hp := of_decide_eq_true hp
    exact ⟨_, .noRing _ .copy _ v m' _ 15 (.ecopy _) h rfl hp.1 (by simpa only [endsAs, List.all_eq_true] using hp.2.1) (by simpa only [endsAs, List.contains_iff_mem] using hp.2.2) (by decide)⟩
  · obtain ⟨v, m', h, hp⟩ := loaded_of (s := sEnd 0x8000) (n := 64) (P := fun v m' => decide ((endsAs (sEnd 0x8000) 0x8000 v m') = (true, true, true, true, false))) (by decide +kernel)
    have hp := of_decide_eq_true hp
    simp only [endsAs, Prod.mk.injEq, List.all_eq_true, List.contains_iff_mem] at hp
    exact ⟨_, .noEnd _ .copy _ v m' _ 0x8000 (.ecopy _) h rfl hp.1 hp.2.1 hp.2.2.1 hp.2.2.2.1 hp.2.2.2.2⟩
  · obtain ⟨v, m', h, hp⟩ := loaded_of (s := sEnd 15) (n := 32) (P := fun v _ => (Ring.parse v).isNone) (by decide +kernel)
    exact ⟨_, .badRing _ _ v m' (by decide) h (Option.isNone_iff_eq_none.mp hp)⟩

theorem witness_SlotProtocol :
    (∃ (p : Pipe) (j : Nat) (q : Pipe), p.reserve = some (j, q)) ∧ (∃ (p : Pipe) (j : Nat), p.takeable = some j) ∧
    (∃ (p : Pipe) (j : Nat) (s : Slot), p.slots[j]? = some s ∧ s.seq ≠ p.cseq ∧ p.find .ready p.cseq = none) :=
  ⟨⟨pipe0, 0, _, rfl⟩, ⟨pipe0, 1, by decide⟩, ⟨pipe0, 3, _, rfl, by decide, by decide⟩⟩

/-- Device queue 1 of context 0 with its descriptor at 0x18000, `n` packets from full; s2 names the image 0x10040 of kind `k`, s4 holds the number 1 and
s5 the number 7 of no queue. -/
def sLaunch (n : Byte) (k : Nat) : State :=
  stateOf { base.modWarp 0 0 fun x => { x with s := ((x.s.put 2 0x10040).put 4 1).put 5 7 } with
    home := (if k = 0 then [] else [⟨0x10040, BitVec.ofNat 8 k⟩]) ++ [⟨0x18001, 0x81⟩, ⟨0x18002, 1⟩, ⟨0x18006, 0x10⟩] ++ (if n = 0 then [] else [⟨0x18008, n⟩])
    parts := [{ id := 0, origin := 0, queues := [Queue.zero 0, { Queue.zero 0 with idx := 1, ctx := some 0, dev := true, desc := 0x18000, ring := 0x18100 }], jobs := [] }] }

/-- A launch at `s` with the status `st`. -/
def LaunchAt (s : State) (i : Instr) (st : Nat) : Prop :=
  ∃ (kind : Nat) (d : Fin 32) (a b : Src) (v : Nat) (m' m1 : Mach), Launches i kind d a b ∧ AdmitsLast s.m (iss s) i ∧
    s.m.loadNow (iss s) ((iss s).warp.pair a) 64 ((iss s).plainly 64) = (.ok v, m') ∧ LaunchStatus m' (iss s) kind ((iss s).warp.one b).toNat v st m1

/-- A team that serves a graph whose condition words lie at 0x10000. -/
def sGraph : State :=
  stateOf { base.modTeam 0 fun t => { t with graph := some 0 } with
    graphs := [{ ctx := 0, va := 0, condva := 0x10000, nodes := [] }]
    graphJobs := [{ live := true, ctx := 0, va := 0, part := 0, job := none, super := false, count := 0, nodes := [], sent := [] }] }

def nowPair : Now × Mach → Nat × Mach
  | (.ok v, m) => (v, m)
  | (_, m) => (0, m)

theorem launch_at (n : Byte) (k : Nat) (i : Instr) (kind : Nat) (b : Src) (st : Nat) (hl : Launches i kind 6 (.s 2) b) (ha : AdmitsLast (sLaunch n k).m (iss (sLaunch n k)) i)
    (hn : isNow ((sLaunch n k).m.loadNow (iss (sLaunch n k)) ((iss (sLaunch n k)).warp.pair (.s 2)) 64 ((iss (sLaunch n k)).plainly 64)) = true)
    (hs : ∃ m1, LaunchStatus (nowPair ((sLaunch n k).m.loadNow (iss (sLaunch n k)) ((iss (sLaunch n k)).warp.pair (.s 2)) 64 ((iss (sLaunch n k)).plainly 64))).2
      (iss (sLaunch n k)) kind ((iss (sLaunch n k)).warp.one b).toNat
      (nowPair ((sLaunch n k).m.loadNow (iss (sLaunch n k)) ((iss (sLaunch n k)).warp.pair (.s 2)) 64 ((iss (sLaunch n k)).plainly 64))).1 st m1) :
    LaunchAt (sLaunch n k) i st := by
  obtain ⟨v, m', h⟩ := now_of hn
  rw [h] at hs
  obtain ⟨m1, h1⟩ := hs
  exact ⟨kind, 6, .s 2, b, v, m', m1, hl, ha, h, h1⟩

theorem witness_LaunchResults :
    LaunchAt (sLaunch 0 0) (.klaunch 6 (.s 2) (.s 5)) 2 ∧ LaunchAt (sLaunch 16 0) (.klaunch 6 (.s 2) (.s 4)) 1 ∧ LaunchAt (sLaunch 0 2) (.klaunch 6 (.s 2) (.s 4)) 3 ∧
    LaunchAt (sLaunch 15 0) (.klaunch 6 (.s 2) (.s 4)) 0 ∧ LaunchAt (sLaunch 0 2) (.glaunch 6 (.s 2) (.s 4)) 0 ∧
    (∃ (s : State) (g : Issue) (a b : Src) (va n : Nat) (q : Shot) (ls : _) (m' : Mach), Admits s.m g (.gcond a b) ∧ s.m.condVA g.team = some va ∧
      (g.warp.one a).toNat = n ∧ n < 256 ∧ g.warp.counter .ifg < 255 ∧ q = ⟨.ifg, .store, .die, 4, true, .store, anyClass⟩ ∧
      s.m.generateAll g q.kind q.size q.sup [{ lane := 0, scratch := false, addr := va + 4 * n, reg := 0, data := (g.warp.one b).toNat, cmp := 0 }] = (.ok ls, m')) := by
  refine ⟨launch_at 0 0 _ _ _ _ (.klaunch _ _ _) (last_of (by decide) (by decide)) (by decide) ?_, launch_at 16 0 _ _ _ _ (.klaunch _ _ _) (last_of (by decide) (by decide)) (by decide) ?_,
    launch_at 0 2 _ _ _ _ (.klaunch _ _ _) (last_of (by decide) (by decide)) (by decide) ?_, launch_at 15 0 _ _ _ _ (.klaunch _ _ _) (last_of (by decide) (by decide)) (by decide) ?_,
    launch_at 0 2 _ _ _ _ (.glaunch _ _ _) (last_of (by decide) (by decide)) (by decide) ?_, ?_⟩
  · exact ⟨_, .noQueue (by decide)⟩
  · exact ⟨_, .full 0x18000 0x18100 16 _ ⟨by rfl, by unfold Issue.releases; decide, rfl, by decide +kernel, by decide +kernel⟩ (by unfold Mach.queueFull; decide +kernel)⟩
  · exact ⟨_, .badKind 0x18000 0x18100 16 _ ⟨by rfl, by unfold Issue.releases; decide, rfl, by decide +kernel, by decide +kernel⟩ (by unfold Mach.queueFull; decide +kernel) (by decide)⟩
  · exact ⟨_, .posted 0x18000 0x18100 16 _ ⟨by rfl, by unfold Issue.releases; decide, rfl, by decide +kernel, by decide +kernel⟩ (by unfold Mach.queueFull; decide +kernel) (by decide)⟩
  · exact ⟨_, .posted 0x18000 0x18100 16 _ ⟨by rfl, by unfold Issue.releases; decide, rfl, by decide +kernel, by decide +kernel⟩ (by unfold Mach.queueFull; decide +kernel) (by decide)⟩
  · obtain ⟨ls, m', h⟩ := ok_of (by decide : isOk (sGraph.m.generateAll (iss sGraph) .store 4 anyClass [{ lane := 0, scratch := false, addr := 0x10000 + 4 * 0, reg := 0, data := ((iss sGraph).warp.one (.s 1)).toNat, cmp := 0 }]) = true)
    exact ⟨sGraph, iss sGraph, .s 0, .s 1, 0x10000, 0, _, ls, m', admits_of (by decide), by decide, by decide, by decide, by decide, rfl, h⟩

theorem witness_TeamsAtStart : ∃ (m : Mach) (k : KDesc) (q : Spot) (team : Team) (x : Warp), team = m.freshTeam k [] q
    { ctx := 0, part := 0, job := 0, plan := none, graph := none, args := 0, argsz := 0, super := false, cor := false, prio := 0, served := none } .placed ∧
    0 < q.gx ∧ 0 < q.gy ∧ team.warps[63]? = some x :=
  ⟨base, { entry := 0x10000, vregs := 64, span := true, teamw := 64, nbar := 16, frames := 64, tlanes := 2048, nshape := 0, shapes := 0 },
   { linear := 7, gx := 2, gy := 2, gz := 2, dies := [0], die := 0, core := 0 }, _, _, rfl, by decide, by decide, rfl⟩

/-! #### Teams, queues, commands and graphs -/

theorem some_of {α : Type} {o : Option α} (h : o.isSome = true) : ∃ a, o = some a := Option.isSome_iff_exists.mp h

/-- An event of an instruction at a machine. -/
def EventAt (r : Mach → Instr → Mach → Prop) (m : Mach) (i : Instr) : Prop := ∃ m', r m i m'

def fired : EngOp := { copyOp with phase := .fired, insAt := [[0x10000]], outsAt := [[0x10100]], descs := (iss sPart).ctx.ranges }
/-- The copy posted, fired, fired with a target that no range holds, fired with a target in an ABSENT granule of `sPart`, and one that waits for no engine. -/
def mOps : Mach :=
  { sPart.m with ops := [copyOp, fired, { fired with outsAt := [[0x50000]] }, { fired with outsAt := [[0x20000]] }] }
/-- A warp with an engine fault to take. -/
def sEngFault : State := stateOf (sRouted.m.modWarp 0 0 fun x => { x with engFault := [TrapRec.of 0x45] })
/-- Such a warp of which an access must return first. -/
def sEngLater : State := stateOf (sEngFault.m.modWarp 0 0 fun x => { x with ifg := 1, flight := [{ flight5 with skid := 1 }] })

theorem witness_EngineOperations :
    EventAt EngineEvent mOps (.engineFire 0) ∧ EventAt EngineEvent mOps (.engineComplete 1) ∧
    EventAt EngineEvent mOps (.engineComplete 2) ∧ EventAt EngineEvent mOps (.engineComplete 3) ∧
    (∃ (m : Mach) (op : Nat) (o : EngOp), m.ops[op]? = some o) ∧
    (∃ (s : State) (t w : Nat) (team : Team) (x : Warp) (c : Context) (r : TrapRec) (rs : List TrapRec), s.m.teams[t]? = some team ∧
      s.m.warp? t w = some x ∧ s.m.ctx? team.ctx = some c ∧ c.halt = none ∧ x.run = .ready ∧ x.engFault = r :: rs ∧ team.served = none ∧
      x.flight = [] ∧ c.routeOf (causeGroup r.cause) = 1) ∧
    (∃ (s : State) (t w : Nat) (team : Team) (x : Warp) (c : Context) (r : TrapRec) (rs : List TrapRec) (q : Flight), s.m.teams[t]? = some team ∧
      s.m.warp? t w = some x ∧ s.m.ctx? team.ctx = some c ∧ c.halt = none ∧ x.run = .ready ∧ x.engFault = r :: rs ∧ team.served = none ∧
      q ∈ x.flight ∧ q.skid ≠ 0) := by
  refine ⟨?_, ?_, ?_, ?_, ⟨mOps, 0, copyOp, rfl⟩,
    ⟨sEngFault, 0, 0, (iss sEngFault).team, (iss sEngFault).warp, (iss sEngFault).ctx, _, _, rfl, rfl, rfl, rfl, rfl, rfl, rfl, rfl, by decide⟩,
    ⟨sEngLater, 0, 0, (iss sEngLater).team, (iss sEngLater).warp, (iss sEngLater).ctx, _, _, { flight5 with skid := 1 }, rfl, rfl, rfl, rfl, rfl, rfl, rfl, List.mem_cons_self, by decide⟩⟩
  · have h : (match Mach.claimAll copyOp false copyOp.sources [] mOps with
      | some (_, m1) => (Mach.claimAll copyOp true copyOp.outs [] m1).isSome
      | none => false) = true := by decide
    cases e : Mach.claimAll copyOp false copyOp.sources [] mOps with
    | none => rw [e] at h; cases h
    | some p =>
      rw [e] at h
      obtain ⟨q, e'⟩ := some_of h
      exact ⟨_, .fires (m := mOps) 0 copyOp p.1 p.2 q.1 q.2 rfl rfl (by decide) (by decide) (fun q hq => absurd hq List.not_mem_nil) e e'⟩
  · have h : (mOps.engWork fired).1.isNone = true := by decide +kernel
    cases e : mOps.engWork fired with
    | mk a m1 =>
      rw [e] at h
      cases a with
      | some _ => cases h
      | none => exact ⟨_, .completes (m := mOps) 1 fired m1 rfl rfl (by decide) (by decide) (by decide) (.inl ⟨mOps, rfl, e⟩)⟩
  · have h : (match (mOps.engWork { fired with outsAt := [[0x50000]] }).1 with | some (.error _) => true | _ => false) = true := by decide +kernel
    cases e : mOps.engWork { fired with outsAt := [[0x50000]] } with
    | mk a m1 =>
      rw [e] at h
      cases a with
      | none => cases h
      | some x => cases x with
        | pause _ => cases h
        | held => cases h
        | error va => exact ⟨_, .errs (m := mOps) 2 _ va m1 rfl rfl (by decide) (by decide) (by decide) (.inl ⟨mOps, rfl, e⟩)⟩
  · have h : (match (mOps.engWork { fired with outsAt := [[0x20000]] }).1 with | some (.pause _) => true | _ => false) = true := by decide +kernel
    cases e : mOps.engWork { fired with outsAt := [[0x20000]] } with
    | mk a m1 =>
      rw [e] at h
      cases a with
      | none => cases h
      | some x => cases x with
        | error _ => cases h
        | held => cases h
        | pause r => exact ⟨_, .pauses (m := mOps) 3 _ r m1 rfl rfl (by decide) (by decide) (by decide) (.inl ⟨mOps, rfl, e⟩)⟩

def kd0 : KDesc := { entry := 0x10000, vregs := 64, span := false, teamw := 1, nbar := 0, frames := 0, tlanes := 32, nshape := 0, shapes := 0 }
/-- A packet of context 0 with KIND `k` and the command `cmd`; a kernel launch has a grid of two teams. -/
def pktOf (k cmd obj argsz : Nat) : Packet :=
  { Packet.parse 0 with
    kind := k, cmd := cmd, obj := obj, argsz := argsz, gx := if k = 0 then 2 else 0, gy := if k = 0 then 1 else 0, gz := if k = 0 then 1 else 0 }
def jobOf (k : Packet) (ph : JobPhase) : Job := { Job.of 1 0 k 0 true false ph none with kd := some kd0 }
/-- `m` with jobs in partition 0, whose queue 1 has its descriptor at 0x18000 and its ring at 0x18100. -/
def withJobs (m : Mach) (js : List Job) : Mach :=
  { m with parts := [{ id := 0, origin := 0, jobs := js
                       queues := [Queue.zero 0, { Queue.zero 0 with idx := 1, ctx := some 0, desc := 0x18000, ring := 0x18100 },
                         { Queue.zero 0 with idx := 2, ctx := some 0, dev := true, desc := 0x18020, ring := 0x18100, prodp := 1 }] }] }
/-- A kernel descriptor at 0x10040, 64 registers and one warp, the descriptors of queues 1 and 2, and at 0x18100 the packet of a kernel launch with a grid of one team. -/
def kernelBytes : Mem :=
  [⟨0x10042, 1⟩, ⟨0x10046, 0x17⟩, ⟨0x18001, 0x81⟩, ⟨0x18002, 1⟩, ⟨0x18021, 0x81⟩, ⟨0x18022, 1⟩, ⟨0x18026, 0x10⟩, ⟨0x18104, 1⟩, ⟨0x18106, 1⟩, ⟨0x18108, 1⟩, ⟨0x1810C, 0x40⟩, ⟨0x1810E, 1⟩]
def mTeams : Mach := { base with home := kernelBytes }

def mPlace (cor : Bool) : Mach := withJobs { mTeams with teams := [] } [jobOf { pktOf 0 0 0x10040 0 with cor := cor } .running]
def mPlaced (ph : TeamPhase) : Mach := withJobs (mTeams.modTeam 0 fun t => { t with phase := ph, warps := t.warps.map fun x => { x with idle := tab fun _ => Config.agedCycles } })
  [jobOf (pktOf 0 0 0x10040 0) .running]
def mTrap : Mach := { mTeams.modCtx 0 fun c => { c with hkdesc := 0x10040, traps := [.warp 0 0 (TrapRec.of 7) 0] } with now := 0 }
/-- Twelve teams fill the cores of die 0 past the time slice of their context, and a packet of context 1 waits for their room. -/
def mFull : Mach :=
  let c := mTeams.contexts.headD spare.ctx
  withJobs { mTeams with
    now := 1300, contexts := [{ c with q := 1 }, { c with id := 1 }]
    teams := (List.range 12).map fun i => { mTeams.teams.headD spare.team with
      span := true, frames := 128, core := 2 * i, job := 7, warps := [Warp.start (2 * i) 0 0 32 0 0, Warp.start (2 * i + 1) 0 0 32 1 0] } }
    [{ jobOf { pktOf 0 0 0x10040 0 with ctx := 1, dies := 1 } .running with kd := some { kd0 with frames := 1 } }]
def mAsked : Mach := mTeams.modWarp 0 0 fun x => { x with preq := true }
/-- The team saved, as a team of a co-resident launch or a handler's (`h`), with more barriers than a configuration allows if `n` is 17. -/
def mSavedTeam (cor h : Bool) (n : Nat) : Mach :=
  withJobs (mTeams.modTeam 0 fun t => { t with phase := .saved, cor := cor, nbar := n, served := if h then some (.warp 0 0 (TrapRec.of 7) 0) else none })
    [jobOf { pktOf 0 0 0x10040 0 with cor := cor } .running]
def savedTeam (m : Mach) : Team := m.teams.headD spare.team
/-- The event that waits, of a context whose handler's descriptor no range holds. -/
def mNoHandler : Mach := { mTrap.modCtx 0 fun c => { c with hkdesc := 0x990000 } with now := 0 }

theorem witness_TeamPlacement : EventAt TeamEvent (mPlace false) (.teamPlacement 0 0 23) ∧ EventAt TeamEvent (mPlaced .placed) (.teamStart 0) :=
  ⟨⟨_, .placed (m := mPlace false) 0 0 23 0 (jobOf (pktOf 0 0 0x10040 0) .running) kd0 [] 0 (by decide) (by decide +kernel) (by decide +kernel) rfl (by decide +kernel) (by decide +kernel)⟩,
   ⟨_, .started (m := mPlaced .placed) 0 _ (jobOf (pktOf 0 0 0x10040 0) .running) rfl (by rfl) rfl (by decide) (by decide +kernel)⟩⟩

theorem witness_TeamRestore :
    EventAt TeamEvent (mSavedTeam false false 0) (.teamRestore 0 0 23) ∧ EventAt TeamEvent (mSavedTeam true false 0) (.teamRestore 0 0 23) ∧
    EventAt TeamEvent (mSavedTeam false true 0) (.teamRestore 0 0 23) ∧ EventAt TeamEvent (mSavedTeam false false 17) (.teamRestore 0 0 23) ∧
    EventAt TeamEvent (mSavedTeam true false 17) (.teamRestore 0 0 23) := by
  refine ⟨⟨_, .restored (m := mSavedTeam false false 0) 0 0 23 (savedTeam (mSavedTeam false false 0)) 0 (jobOf (pktOf 0 0 0x10040 0) .running) rfl rfl rfl (by decide) (by decide +kernel)
      rfl (by decide +kernel) rfl rfl rfl (by decide +kernel)⟩, ?_,
    ⟨_, .restoredStage (m := mSavedTeam false true 0) 0 0 23 (savedTeam (mSavedTeam false true 0)) rfl rfl rfl (by decide) (by decide +kernel) rfl rfl (by decide +kernel)⟩,
    ⟨_, .unsuited (m := mSavedTeam false false 17) 0 0 23 (savedTeam (mSavedTeam false false 17)) rfl rfl rfl (by decide) rfl (by decide +kernel)⟩,
    ⟨_, .unsuitedAll (m := mSavedTeam true false 17) 0 0 23 (savedTeam (mSavedTeam true false 17)) (0, savedTeam (mSavedTeam true false 17)) rfl rfl rfl (by decide) rfl
      (by decide +kernel) (by decide +kernel)⟩⟩
  obtain ⟨m', h⟩ := some_of (by decide +kernel : ((mSavedTeam true false 0).restoreAll ((mSavedTeam true false 0).savedOf 0 0)).isSome = true)
  exact ⟨_, .restoredAll (m := mSavedTeam true false 0) 0 0 23 (savedTeam (mSavedTeam true false 0)) 0 (jobOf { pktOf 0 0 0x10040 0 with cor := true } .running) m' rfl rfl rfl (by decide)
    (by decide +kernel) (by decide +kernel) rfl (by decide +kernel) rfl rfl (by decide +kernel) h⟩

theorem witness_HandlerLaunch : EventAt TeamEvent mTrap (.handlerLaunch 0 1) ∧ EventAt TeamEvent mNoHandler (.handlerLaunch 0 1) := by
  refine ⟨?_, ⟨_, .noHandler 0 1 (mNoHandler.contexts.headD spare.ctx) (.warp 0 0 (TrapRec.of 7) 0) [] (by rfl) rfl rfl (by decide) ?_⟩⟩
  · have h : ((mTrap.kernelAt 0 0x10040).map fun k => decide (k.1 = kd0) && k.2.isEmpty) = some true := by decide +kernel
    cases e : mTrap.kernelAt 0 0x10040 with
    | none => rw [e] at h; cases h
    | some k =>
      rw [e] at h
      have h := Option.some.inj h
      simp only [Bool.and_eq_true, decide_eq_true_eq, List.isEmpty_iff] at h
      have hk : k = (kd0, []) := Prod.ext h.1 h.2
      subst hk
      exact ⟨_, .handler 0 1 (mTrap.contexts.headD spare.ctx) (.warp 0 0 (TrapRec.of 7) 0) [] kd0 [] 0 (by rfl) rfl rfl rfl (by decide) e rfl rfl (by decide) (by decide)⟩
  · exact Option.isNone_iff_eq_none.mp (by decide +kernel : (mNoHandler.kernelAt 0 0x990000).isNone = true)

theorem witness_TeamEvents :
    EventAt TeamEvent mFull (.timeSliceExpiry 0) ∧ EventAt TeamEvent mTeams (.timeSliceExpiry 0) ∧
    EventAt TeamEvent (mPlaced .running) (.aging 0 ⟨0, 0⟩) ∧ EventAt TeamEvent mTeams (.aging 0 ⟨0, 0⟩) ∧
    (∃ (s : State) (t w : Nat) (team : Team) (x : Warp), s.m.teams[t]? = some team ∧ s.m.warp? t w = some x ∧ team.phase = .running ∧
      x.run = .ready ∧ x.preq = true ∧ x.ycnt = 0 ∧ s.m.unit = none ∧ s.m.ctxRuns team.ctx = true ∧ team.served = none) :=
  ⟨⟨_, .expired (m := mFull) 0 (mFull.teams.headD spare.team) rfl rfl rfl rfl (by decide +kernel) (by decide +kernel) rfl⟩,
    ⟨_, .notExpired (m := mTeams) 0 (mTeams.teams.headD spare.team) rfl (by decide +kernel)⟩,
    ⟨_, .aged (m := mPlaced .running) 0 0 0 ((mPlaced .running).teams.headD spare.team) _ rfl rfl rfl rfl rfl (by decide) (by decide)⟩,
    ⟨_, .young (m := mTeams) 0 0 0 _ rfl (by decide)⟩,
    ⟨stateOf mAsked, 0, 0, _, _, rfl, rfl, rfl, rfl, rfl, rfl, rfl, by decide, rfl⟩⟩

def mQueue : Mach :=
  { withJobs mTeams [] with parts := [{ id := 0, origin := 0, jobs := []
                                        queues := [{ Queue.zero 0 with idx := 1, ctx := some 0, desc := 0x18000, ring := 0x18100, prodp := 1 }] }] }
def stage0 : Stage := { kdesc := 0x10040, minc := 1, maxc := 2, dies := 1, prio := 0, teams := 2, args := 0, argsz := 0, cores := [] }
def plan0 : Plan :=
  { ctx := 0, va := 0x18800, period := 1000, dk := 2, policy := 0, evva := 0, evcnt := 0, ckva := 0, stages := [stage0], pipes := [], job := none
    stopping := false, stopped := false, saved := [], due := 0, watch := [] }
def node (k obj : Nat) : Node := { kind := k, npred := 0, cond := 0, bound := 2, succ := [1, 0xFFFF], obj := obj, inc := 1 }
def graph0 : Graph := { ctx := 0, va := 0x18900, condva := 0x10000, nodes := [node 0 0x18100, node 1 0x18800, node 2 0x19000, node 3 0, node 4 0] }
/-- The plan and the graph loaded, with a job of the graph in which every node is ready, or busy with a complete packet. -/
def mGraph (busy : Bool) : Mach :=
  { withJobs mTeams ((List.range 2).map fun n => { jobOf (pktOf n 0 0x18800 0) (.complete 0) with graph := some (0, n) }) with
    plans := [plan0], graphs := [graph0]
    graphJobs := [{ live := true, ctx := 0, va := 0x18900, part := 0, job := some 0, super := false, count := 5, sent := [1]
                    nodes := List.replicate 5 { credits := 0, ready := true, busy := busy, iters := 1 } }] }
def mStart : Mach := { withJobs { mTeams with teams := [] } [jobOf (pktOf 1 0 0x18800 0) .dispatched, jobOf (pktOf 2 0 0x18900 0) .dispatched] with plans := [plan0], graphs := [graph0] }

theorem plan_kernels : ∃ ks, mStart.stageKernels plan0 = some ks ∧ ks.map (·.1) = [kd0] := by
  have h : (mStart.stageKernels plan0).map (fun ks => ks.map (·.1)) = some [kd0] := by decide +kernel
  cases e : mStart.stageKernels plan0 with
  | none => rw [e] at h; cases h
  | some ks => rw [e] at h; exact ⟨ks, rfl, Option.some.inj h⟩

/-- A taken packet without a deadline, and one whose deadline has passed, with MISS `n`. -/
def mFirst : Mach := withJobs mTeams [jobOf (pktOf 0 0 0x10040 0) .taken]
def mMissed (n : Nat) : Mach := withJobs { mTeams with now := 13000 } [{ jobOf { pktOf 0 0 0x10040 0 with miss := n } .taken with deadline := 1 }]
def allTaken (m : Mach) : Mach := (m.queueIds 0).foldl (fun m q => m.takeNext 0 q fun _ => true) m

theorem chosen_of {m : Mach} {P : Job → Bool} (h : ((m.part? 0).bind fun x => ((m.chosen 0 x).bind fun i => x.jobs[i]?).map P) = some true) :
    ∃ x i j, m.part? 0 = some x ∧ m.chosen 0 x = some i ∧ x.jobs[i]? = some j ∧ P j = true := by
  cases e : m.part? 0 with
  | none => rw [e] at h; cases h
  | some x =>
    rw [e, Option.bind_some] at h
    cases e' : m.chosen 0 x with
    | none => rw [e'] at h; cases h
    | some i =>
      rw [e', Option.bind_some] at h
      cases e'' : x.jobs[i]? with
      | none => rw [e''] at h; cases h
      | some j => rw [e''] at h; exact ⟨x, i, j, rfl, e', e'', Option.some.inj h⟩

/-- Queue `n` as its descriptor describes it, and its PRODP. -/
theorem bell_of {m : Mach} {n : Nat} {dev : Bool} (h : ((m.queueAt 0 n).bind fun r => (r.2.queueRead 0 r.1.ctx (r.1.desc + 8) 8).map fun _ => r.1.dev) = some dev) :
    ∃ y m1 prod m2, m.queueAt 0 n = some (y, m1) ∧ y.dev = dev ∧ m1.queueRead 0 y.ctx (y.desc + 8) 8 = some (prod, m2) := by
  cases e : m.queueAt 0 n with
  | none => rw [e] at h; cases h
  | some r =>
    rw [e, Option.bind_some] at h
    cases e' : r.2.queueRead 0 r.1.ctx (r.1.desc + 8) 8 with
    | none => rw [e'] at h; cases h
    | some q => rw [e'] at h; exact ⟨r.1, r.2, q.1, q.2, rfl, Option.some.inj h, e'⟩

theorem witness_Doorbells :
    EventAt QueueEvent (withJobs mTeams []) (.doorbell 0 1) ∧ EventAt QueueEvent (withJobs mTeams []) (.deviceQueueRead 0 2) ∧
    EventAt QueueEvent mQueue (.kernelLaunch 0 1) ∧ EventAt QueueEvent (withJobs mTeams []) (.kernelLaunch 0 1) := by
  obtain ⟨y, m1, v, m2, h1, h2, h3⟩ := bell_of (m := withJobs mTeams []) (n := 1) (dev := false) (by decide +kernel)
  obtain ⟨y', n1, v', n2, k1, k2, k3⟩ := bell_of (m := withJobs mTeams []) (n := 2) (dev := true) (by decide +kernel)
  refine ⟨⟨_, .doorbell 0 1 y m1 v m2 h1 h2 h3⟩, ⟨_, .deviceRead 0 2 y' n1 v' n2 k1 k2 k3⟩, ?_, ?_⟩
  · have h : (match mQueue.queueAt 0 1 with
      | some (y, m0) => decide (y.consp < y.prodp) && !y.held &&
        (match (m0.takeAcquire 0).loadIn y.ctx (y.ring + 64 * (y.consp % 2 ^ (y.lgsize + 4))) 64 with
          | some (v, m1) => decide ((Packet.parse v).kind = 0) && (m1.takePhase 0 y (Packet.parse v) false).isSome
          | none => false)
      | none => false) = true := by decide +kernel
    cases e : mQueue.queueAt 0 1 with
    | none => rw [e] at h; cases h
    | some r =>
      obtain ⟨y, m0⟩ := r
      rw [e] at h
      simp only [Bool.and_eq_true, decide_eq_true_eq, Bool.not_eq_true'] at h
      obtain ⟨⟨ha, hb⟩, hc⟩ := h
      cases e' : (m0.takeAcquire 0).loadIn y.ctx (y.ring + 64 * (y.consp % 2 ^ (y.lgsize + 4))) 64 with
      | none => rw [e'] at hc; cases hc
      | some r =>
        rw [e'] at hc
        simp only [Bool.and_eq_true, decide_eq_true_eq] at hc
        obtain ⟨ph, hp⟩ := some_of hc.2
        exact ⟨_, .taken 0 1 { id := 0, origin := 0, jobs := [], queues := [{ Queue.zero 0 with idx := 1, ctx := some 0, desc := 0x18000, ring := 0x18100, prodp := 1 }] } y m0 r.1 r.2 _ ph rfl e ha hb (fun j hj => absurd hj List.not_mem_nil) e' rfl hc.1 hp⟩
  · have h : ((withJobs mTeams []).queueAt 0 1).map (fun r => decide (r.1.prodp ≤ r.1.consp)) = some true := by decide +kernel
    cases e : (withJobs mTeams []).queueAt 0 1 with
    | none => rw [e] at h; cases h
    | some r => rw [e] at h; exact ⟨_, .empty 0 1 r.1 r.2 e (of_decide_eq_true (Option.some.inj h))⟩

theorem witness_Dispatch : EventAt QueueEvent mFirst (.dispatch 0) ∧ EventAt QueueEvent (mMissed 1) (.dispatch 0) ∧ EventAt QueueEvent (mMissed 0) (.dispatch 0) := by
  refine ⟨?_, ?_, ?_⟩
  · obtain ⟨x, i, j, h1, h2, h3, h4⟩ := chosen_of (m := allTaken mFirst) (P := fun j => decide (j.deadline = 0)) (by decide +kernel)
    exact ⟨_, .dispatched 0 _ x i j rfl h1 h2 h3 (.inl (of_decide_eq_true h4))⟩
  · obtain ⟨x, i, j, h1, h2, h3, h4⟩ := chosen_of (m := allTaken (mMissed 1))
      (P := fun j => decide (j.deadline ≠ 0 ∧ j.deadline < (allTaken (mMissed 1)).time 0 ∧ j.pkt.miss = 1)) (by decide +kernel)
    exact ⟨_, .dropped 0 _ x i j rfl h1 h2 h3 (of_decide_eq_true h4).1 (of_decide_eq_true h4).2.1 (of_decide_eq_true h4).2.2⟩
  · obtain ⟨x, i, j, h1, h2, h3, h4⟩ := chosen_of (m := allTaken (mMissed 0))
      (P := fun j => decide (j.deadline ≠ 0 ∧ j.deadline < (allTaken (mMissed 0)).time 0 ∧ j.pkt.miss = 0)) (by decide +kernel)
    exact ⟨_, .late 0 _ x i j rfl h1 h2 h3 (of_decide_eq_true h4).1 (of_decide_eq_true h4).2.1 (of_decide_eq_true h4).2.2⟩

theorem witness_QueueEvents :
    EventAt QueueEvent mStart (.graphLaunch 0 1) ∧ EventAt QueueEvent { mStart with graphs := [] } (.graphLaunch 0 1) ∧
    (∃ (s : State) (p i st : Nat) (j : Job), s.m.job? p i = some j ∧ s.m.jobStatus p i j = some st ∧ s.m.workHeld p = false ∧ s.m.workLost p = false) ∧
    (∃ (s : State) (p i : Nat) (j : Job) (x : Plan) (ks : _) (cores : _), s.m.job? p i = some j ∧ j.pkt.kind = 1 ∧ j.phase = .dispatched ∧
      s.m.planAt j.pkt.ctx j.pkt.obj = some x ∧ x.job = none ∧ s.m.stageKernels x = some ks ∧ (∀ k, k ∈ ks → k.1.nbar ≤ s.m.limit p 16 8) ∧
      s.m.groupsOk p x (ks.map (·.1)) cores = true ∧ s.m.planYields p j cores.flatten = false) := by
  refine ⟨⟨_, .graph 0 1 (jobOf (pktOf 2 0 0x18900 0) .dispatched) graph0 _ (by rfl) (by decide) rfl (by rfl) rfl⟩,
    ⟨_, .noGraph 0 1 (jobOf (pktOf 2 0 0x18900 0) .dispatched) (by rfl) (by decide) rfl (by rfl)⟩,
    ⟨stateOf (withJobs mTeams [jobOf (pktOf 3 1 0 0) (.done 7)]), 0, 0, 7, jobOf (pktOf 3 1 0 0) (.done 7), by rfl, by rfl, by decide +kernel, by decide +kernel⟩, ?_⟩
  obtain ⟨ks, h, hk⟩ := plan_kernels
  refine ⟨stateOf mStart, 0, 0, jobOf (pktOf 1 0 0x18800 0) .dispatched, plan0, ks, [[(0, 23)]], by rfl, by rfl, by rfl, by rfl, by rfl, h, ?_, by rw [hk]; decide +kernel,
    by decide +kernel⟩
  intro k hm
  have : k.1 ∈ ks.map (·.1) := List.mem_map_of_mem hm
  rw [hk, List.mem_singleton] at this
  rw [this]; decide

/-- Node `n` of the graph's job ready, as `mGraph` has it. -/
theorem node_of {m : Mach} {n : Nat} {P : GraphJob × Graph × Node × NodeRun → Bool} (h : (m.nodeAt 0 n).map P = some true) :
    ∃ g y x r, m.nodeAt 0 n = some (g, y, x, r) ∧ P (g, y, x, r) = true := by
  cases e : m.nodeAt 0 n with
  | none => rw [e] at h; cases h
  | some q => rw [e] at h; exact ⟨q.1, q.2.1, q.2.2.1, q.2.2.2, rfl, Option.some.inj h⟩

theorem witness_NodesBegin :
    EventAt NodeEvent { mGraph false with plans := [{ plan0 with job := some 0 }] } (.balancerPeriod 0 0x18800) ∧
    EventAt NodeEvent { mGraph false with plans := [{ plan0 with job := some 0, due := 2 ^ 40 }] } (.balancerPeriod 0 0x18800) ∧
    EventAt NodeEvent (mGraph false) (.kernelNode 0 0) ∧ EventAt NodeEvent (mGraph false) (.planNode 0 1) ∧ EventAt NodeEvent (mGraph false) (.graphEnqueueArrive 0 1) := by
  refine ⟨⟨_, .due 0 0x18800 { plan0 with job := some 0 } _ (by rfl) (by rfl) rfl rfl rfl (by decide)⟩,
    ⟨_, .notDue 0 0x18800 { plan0 with job := some 0, due := 2 ^ 40 } _ (by rfl) (by rfl) rfl rfl rfl (by decide)⟩, ?_,
    ⟨_, .planBegins 0 1 _ graph0 (node 1 0x18800) _ (by rfl) rfl rfl rfl⟩, ⟨_, .arrives 0 1 _ graph0 (node 1 0x18800) _ (by rfl) (by decide)⟩⟩
  obtain ⟨r, h⟩ := some_of (by decide : ((mGraph false).fwLoad 0 0x18100 64).isSome = true)
  exact ⟨_, .kernelBegins 0 0 _ graph0 (node 0 0x18100) _ r.1 r.2 _ (by rfl) rfl rfl rfl h rfl⟩

/-- A graph's job whose lead die has lost a dirty sector. -/
def mLostNode : Mach := (mGraph false).modDie 0 fun x => { x with lost := [0x800] }

theorem witness_NodesEnd :
    EventAt NodeEvent (mGraph true) (.kernelNode 0 0) ∧ EventAt NodeEvent (mGraph true) (.planNode 0 1) ∧ EventAt NodeEvent (mGraph false) (.signalNode 0 2) ∧
    EventAt NodeEvent mLostNode (.signalNode 0 2) := by
  refine ⟨⟨_, .kernelEnds (m := mGraph true) 0 0 _ graph0 (node 0 0x18100) _ _ _ 0 (by rfl) rfl rfl (by rfl) rfl (by decide +kernel)⟩,
    ⟨_, .planEnds (m := mGraph true) 0 1 _ graph0 (node 1 0x18800) _ _ _ 0 (by rfl) rfl rfl (by rfl) rfl (by decide +kernel)⟩,
    ⟨_, .signals (m := mGraph false) 0 2 _ graph0 (node 2 0x19000) _ (by rfl) rfl rfl (by decide +kernel) (by decide +kernel)⟩,
    ⟨_, .lost (m := mLostNode) 0 2 _ graph0 (node 2 0x19000) _ 0x800 [] (by rfl) rfl rfl (by decide +kernel) (by decide +kernel)⟩⟩

/-- The machine of `mGraph` with its condition word at 0x10000 set. -/
def mCond : Mach := { mGraph false with home := ⟨0x10000, 1⟩ :: kernelBytes }

theorem witness_NodeEvents : EventAt NodeEvent (mGraph false) (.conditionalNode 0 3) ∧ EventAt NodeEvent (mGraph false) (.whileNode 0 4) ∧ EventAt NodeEvent mCond (.whileNode 0 4) := by
  refine ⟨⟨_, .branches (m := mGraph false) 0 3 _ graph0 (node 3 0) _ _ _ (by rfl) rfl rfl (by decide +kernel) rfl⟩, ?_, ?_⟩
  · obtain ⟨g, y, x, r, h, hp⟩ := node_of (m := mGraph false) (n := 4)
      (P := fun q => decide (q.2.2.1.kind = 4) && q.2.2.2.ready && decide ((mGraph false).lostAt ((mGraph false).lead q.1.ctx) .pkg = []) && decide (((mGraph false).condWord q.1 q.2.1 q.2.2.1).1 = 0))
      (by decide +kernel)
    simp only [Bool.and_eq_true, decide_eq_true_eq] at hp
    exact ⟨_, .leaves 0 4 g y x r _ _ h hp.1.1.1 hp.1.1.2 hp.1.2 rfl (.inl hp.2)⟩
  · obtain ⟨g, y, x, r, h, hp⟩ := node_of (m := mCond) (n := 4)
      (P := fun q => decide (q.2.2.1.kind = 4) && q.2.2.2.ready && decide (mCond.lostAt (mCond.lead q.1.ctx) .pkg = []) && decide ((mCond.condWord q.1 q.2.1 q.2.2.1).1 ≠ 0) &&
        decide (q.2.2.2.iters < q.2.2.1.bound))
      (by decide +kernel)
    simp only [Bool.and_eq_true, decide_eq_true_eq] at hp
    exact ⟨_, .iterates 0 4 g y x r _ _ h hp.1.1.1.1 hp.1.1.1.2 hp.1.1.2 rfl hp.1.2 hp.2⟩

theorem pair_of {α β : Type} {o : Option (α × β)} (d : α × β) (h : o.isSome = true) : o = some ((o.getD d).1, (o.getD d).2) := by
  cases o with
  | none => cases h
  | some p => rfl
theorem triple_of {α β γ : Type} {o : Option (α × β × γ)} (d : α × β × γ) (h : o.isSome = true) : o = some ((o.getD d).1, (o.getD d).2.1, (o.getD d).2.2) := by
  cases o with
  | none => cases h
  | some p => rfl
theorem quad_of {α β γ δ : Type} {o : Option (α × β × γ × δ)} (d : α × β × γ × δ) (h : o.isSome = true) :
    o = some ((o.getD d).1, (o.getD d).2.1, (o.getD d).2.2.1, (o.getD d).2.2.2) := by
  cases o with
  | none => cases h
  | some p => rfl
theorem get_of {α : Type} {o : Option α} (d : α) (h : o.isSome = true) : o = some (o.getD d) := by
  cases o with
  | none => cases h
  | some p => rfl

/-- `n` bytes of `v` at `a`. -/
def putAll (h : Mem) (a n v : Nat) : Mem := (List.range n).foldl (fun h i => Mem.put h (a + i) (BitVec.ofNat 8 (v / 256 ^ i))) h
/-- A command whose block lies at 0x10080 and whose results go to 0x10200. -/
def cmdOf (code argsz : Nat) (ph : JobPhase) : Job := jobOf { pktOf 3 code 0x10080 argsz with args := 0x10200 } ph
/-- The command with the block `v` of `n` bytes; its context has its quota table at 0x19000, whose first limit is one granule, and Nimom's
structures elsewhere. -/
def mCmd (j : Job) (n v : Nat) : Mach :=
  withJobs { mTeams.modCtx 0 (fun c => { c with qtva := 0x19000, sysva := 0x4000000 }) with home := putAll (putAll kernelBytes 0x10080 n v) 0x19000 8 0x10000 } [j]

/-- The effect of a command with the status `st` at a machine. -/
def CommandAt (m : Mach) (i : Instr) (code st : Nat) : Prop :=
  ∃ j m', m.job? 0 0 = some j ∧ j.isCommand code = true ∧ CommandEffect m 0 0 j i code st m'

def mQueueCreate : Mach :=
  let m := mCmd (cmdOf 1 0 .dispatched) 16 (3 + 0x18040 * 2 ^ 64)
  { m with home := putAll m.home 0x18040 8 (0x18400 + 2 ^ 52) }

theorem witness_queueCreate : CommandAt mQueueCreate (.queueCreate 0 0) 1 0 :=
  ⟨cmdOf 1 0 .dispatched, _, by rfl, by decide, .queueCreate _ _ _ _ _ _ _ (pair_of (0, base) (by decide +kernel)) rfl rfl (by decide +kernel) (by decide +kernel)
    (by decide +kernel) (by decide +kernel) (pair_of (0, base) (by decide +kernel)) (by decide +kernel) (by decide +kernel) (by decide +kernel) (by decide +kernel)
    (by decide +kernel) (by decide +kernel) rfl⟩

def mCreate : Mach := mCmd (cmdOf 2 32 .dispatched) 64 0

theorem witness_contextCreate : CommandAt mCreate (.contextCreate 0 0 511 0x400000 0x1000000) 2 0 :=
  ⟨cmdOf 2 32 .dispatched, _, by rfl, by decide, .contextCreate 511 0x400000 0x1000000 _ _ _ _ _ (pair_of (0, base) (by decide +kernel))
    (get_of ⟨0, 0, 0, 0, 0, 0, 0⟩ (by decide +kernel)) rfl (by decide +kernel) (by decide +kernel) (by decide +kernel) (by decide +kernel) (by decide +kernel) (by decide) (by decide +kernel)
    (by decide +kernel) (by decide) (by decide +kernel) rfl⟩

/-- A descriptor of granule 5, read and write, backed by granule 5. -/
def mMap : Mach := mCmd (cmdOf 4 0 .dispatched) 32 (5 + 5 * 2 ^ 32 + 3 * 2 ^ 105 + 2 ^ 123)
def mMapPart : Mach := mCmd (cmdOf 4 0 .dispatched) 32 (5 + 5 * 2 ^ 32 + 3 * 2 ^ 105 + 2 ^ 121 + 2 ^ 123 + 0x18080 * 2 ^ 128 + 5 * 2 ^ 192)

theorem witness_rangeMap : CommandAt mMap (.rangeMap 0 0) 4 0 ∧ CommandAt mMapPart (.rangeMap 0 0) 4 0 :=
  ⟨⟨cmdOf 4 0 .dispatched, _, by rfl, by decide, .rangeMap _ _ _ (mMap.contexts.headD spare.ctx) _ (pair_of (0, base) (by decide +kernel)) (get_of (nimomRange 0 1 0 true) (by decide +kernel))
    (by rfl) (by decide +kernel) (by decide +kernel) (by decide +kernel) (by decide +kernel) (get_of base (by decide +kernel))⟩,
   ⟨cmdOf 4 0 .dispatched, _, by rfl, by decide, .rangeMapPartial (m := mMapPart) _ _ _ (mMapPart.contexts.headD spare.ctx) (pair_of (0, base) (by decide +kernel))
    (get_of (nimomRange 0 1 0 true) (by decide +kernel)) (by rfl) (by decide +kernel) (by decide +kernel) (by decide +kernel) (by decide +kernel) (by decide +kernel)⟩⟩

def mUnmap : Mach := mCmd (cmdOf 5 0 .dispatched) 16 (0x10000 + 2 ^ 64)

theorem witness_rangeUnmap : CommandAt mUnmap (.rangeUnmap 0 0) 5 0 :=
  ⟨cmdOf 5 0 .dispatched, _, by rfl, by decide, .rangeUnmap (m := mUnmap) _ _ (mUnmap.contexts.headD spare.ctx) _ _ _ _ _ _ (pair_of (0, base) (by decide +kernel)) (by rfl)
    (by decide +kernel) (by decide +kernel) (by decide +kernel) rfl rfl (by decide +kernel) rfl (by decide +kernel) rfl (by decide +kernel) (by decide +kernel) (by decide +kernel)
    (by decide +kernel) rfl rfl⟩

def mQuota : Mach := mCmd (cmdOf 6 0 .dispatched) 16 (7 * 2 ^ 64)
theorem witness_quotaSet : CommandAt mQuota (.quotaSet 0 0) 6 0 :=
  ⟨cmdOf 6 0 .dispatched, _, by rfl, by decide, .quotaSet _ _ (mQuota.contexts.headD spare.ctx) _ (pair_of (0, base) (by decide +kernel)) (by rfl) (by decide +kernel)
    (get_of 0 (by decide +kernel))⟩

/-- A plan of one stage and no pipe, and a graph of one signal node, at 0x18800. -/
def mPlanLoad : Mach :=
  let m := mCmd (cmdOf 7 0 .dispatched) 16 0x18800
  { m with home := putAll (putAll m.home 0x18800 24 (1 + 10000 * 2 ^ 16 + 2 ^ 48)) 0x18840 24 (0x10040 + 2 ^ 48 + 2 * 2 ^ 56 + 2 ^ 80) }
def mGraphLoad : Mach :=
  let m := mCmd (cmdOf 10 0 .dispatched) 16 0x18800
  { m with home := putAll (putAll m.home 0x18800 24 (1 + 0x10000 * 2 ^ 64)) 0x18840 24 (2 + (2 ^ 64 - 1) * 2 ^ 64 + 0x19000 * 2 ^ 128) }

theorem witness_planLoad : CommandAt mPlanLoad (.planLoad 0 0 []) 7 0 ∧ CommandAt mGraphLoad (.graphLoad 0 0) 10 0 :=
  ⟨⟨cmdOf 7 0 .dispatched, _, by rfl, by decide, .planLoad [] _ _ _ _ _ _ (pair_of (0, base) (by decide +kernel)) (by decide +kernel) (by decide +kernel)
      (quad_of (plan0, [], [], 0) (by decide +kernel)) (by decide +kernel) (by decide +kernel) (by decide +kernel) (by decide +kernel) List.nodup_nil
      (fun n hn => absurd hn List.not_mem_nil)⟩,
    ⟨cmdOf 10 0 .dispatched, _, by rfl, by decide, .graphLoad _ _ _ _ _ _ _ (pair_of (0, base) (by decide +kernel)) (by decide +kernel) (by decide +kernel)
      (pair_of (0, base) (by decide +kernel)) rfl (by decide +kernel) (by decide +kernel) (by decide +kernel) (by decide +kernel)
      (get_of [] (by decide +kernel)) (get_of [] (by decide +kernel))⟩⟩

def mSignal : Mach := mCmd (cmdOf 11 0 .dispatched) 16 (0x19000 + 2 ^ 64)
def mAttest : Mach := mCmd (cmdOf 16 512 .dispatched) 32 7

theorem witness_signal : CommandAt mSignal (.signal 0 0) 11 0 ∧ CommandAt mAttest (.attest 0 0) 16 0 :=
  ⟨⟨cmdOf 11 0 .dispatched, _, by rfl, by decide, .signal (m := mSignal) _ _ _ _ (quad_of (0, none, 0, base) (by decide +kernel)) (by decide +kernel) (by decide +kernel)⟩,
   ⟨cmdOf 16 512 .dispatched, _, by rfl, by decide, .attest _ _ (pair_of (0, base) (by decide +kernel)) (by decide +kernel)⟩⟩

def mStopping : Mach := { mCmd { cmdOf 8 0 .running with block := 0x18800 } 16 0x18800 with plans := [{ plan0 with job := some 7, stopping := true }] }
def mIdle : Mach := { mCmd (cmdOf 8 0 .dispatched) 16 0x18800 with plans := [plan0] }

theorem witness_planStop : CommandAt mStopping (.planStop 0 0) 8 0 ∧ CommandAt mIdle (.planStop 0 0) 8 5 :=
  ⟨⟨{ cmdOf 8 0 .running with block := 0x18800 }, _, by rfl, by decide, .stopped { plan0 with job := some 7, stopping := true } rfl (by rfl) rfl (by decide +kernel)⟩,
   ⟨cmdOf 8 0 .dispatched, _, by rfl, by decide, .notRunning _ _ plan0 rfl (pair_of (0, base) (by decide +kernel)) (by decide +kernel) rfl⟩⟩

def mSaved (code : Nat) : Mach :=
  let m := (mCmd (cmdOf 13 8 .running) 64 code).modTeam 0 fun t => { t with phase := .saved }
  { m with pmap := [0, 1, 1, 1, 1, 1, 1, 1], parts := m.parts ++ [{ id := 1, origin := 0, queues := [Queue.zero 0], jobs := [] }] }
def mResumed : Mach := mCmd (cmdOf 13 8 .running) 64 3
def anyAsk : PreemptAsk := ⟨false, false, false, 0, 0, 0, 0, 0⟩

theorem witness_preempt : CommandAt (mSaved 1) (.preempt 0 0) 13 0 ∧ CommandAt mResumed (.preemptResume 0 0) 13 0 ∧ CommandAt (mSaved 0x105) (.preemptMove 0 0) 13 0 :=
  ⟨⟨cmdOf 13 8 .running, _, by rfl, by decide, .preempted _ _ _ _ rfl (pair_of (0, base) (by decide +kernel)) (get_of anyAsk (by decide +kernel)) (by decide +kernel) (by decide +kernel)
    (by decide +kernel) (by decide +kernel) rfl⟩,
   ⟨cmdOf 13 8 .running, _, by rfl, by decide, .resumed _ _ _ rfl (pair_of (0, base) (by decide +kernel)) (get_of anyAsk (by decide +kernel)) (by decide +kernel) (by decide +kernel)
    (by decide +kernel)⟩,
   ⟨cmdOf 13 8 .running, _, by rfl, by decide, .moved (m := mSaved 0x105) _ _ _ _ rfl (pair_of (0, base) (by decide +kernel)) (get_of anyAsk (by decide +kernel)) (by decide +kernel) (by decide +kernel)
    (by decide +kernel) (by decide +kernel) (by decide +kernel) (by decide +kernel) (by decide +kernel) (by decide +kernel) rfl⟩⟩

theorem witness_Commands : CommandAt mQueueCreate (.queueCreate 0 0) 1 0 ∧
    ∃ (s : State) (p k : Nat) (j : Job) (i : Instr) (code n al : Nat), s.m.job? p k = some j ∧ j.isCommand code = true ∧ BlockOf p k i code n al ∧ s.m.block j n al = none :=
  ⟨witness_queueCreate, stateOf (mCmd { cmdOf 17 0 .dispatched with pkt := { (cmdOf 17 0 .dispatched).pkt with obj := 0x10088 } } 80 0), 0, 0, _, _, 17, 80, 64, by rfl, by decide,
    .domainSet, by decide⟩

/-- A command that goes on after its dispatch, at a machine. -/
def GoesAt (m : Mach) (i : Instr) (code : Nat) : Prop :=
  ∃ j m', m.job? 0 0 = some j ∧ j.isCommand code = true ∧ CommandEvent State.reset.fuse m 0 0 j i code m'

def mWait : Mach := mCmd (cmdOf 12 8 .dispatched) 16 (0x19008 + 2 ^ 64)
def mWaitsFor (n : Nat) : Mach := mCmd { cmdOf 12 8 .running with block := 0x19008, result := n } 16 0
def mWaits : Mach := mWaitsFor 0
def mStop : Mach := { mCmd (cmdOf 8 0 .dispatched) 16 0x18800 with plans := [{ plan0 with job := some 7 }] }
def mRestart : Mach := { mCmd (cmdOf 9 0 .dispatched) 16 0x18800 with plans := [{ plan0 with stopped := true }], teams := [] }
def mLinks : Mach := mCmd (cmdOf 14 1024 .dispatched) 16 (100 * 2 ^ 64)
def mDieReset (d : Nat) : Mach := mCmd (cmdOf 15 0 .dispatched) 16 d
def domImage : Nat := 0xF * 2 ^ 72 + ((7 * 2 ^ 7 + 2 ^ 10 + 255 * 2 ^ 21) + ((List.range 8).map fun k => 0xFF * 2 ^ (64 * k + 32)).sum) * 2 ^ 128
/-- A DOMAIN_SET that leaves all as it is, or that asks for the compact configuration of the partition in use. -/
def mDomain (cfg : Nat) : Mach := mCmd (cmdOf 17 0 .dispatched) 80 (domImage + cfg * 2 ^ 64)

theorem witness_waits : GoesAt mWait (.wait 0 0) 12 ∧ GoesAt mWaits (.waitRelease 0 0) 12 ∧ GoesAt (mWaitsFor 1) (.waitRelease 0 0) 12 :=
  ⟨⟨cmdOf 12 8 .dispatched, _, by rfl, by decide, .wait (m := mWait) _ _ _ _ rfl (quad_of (0, none, 0, base) (by decide +kernel)) (by decide +kernel)⟩,
   ⟨{ cmdOf 12 8 .running with block := 0x19008 }, _, by rfl, by decide, .released (m := mWaits) 0x19008 _ _ _ rfl (by decide +kernel) (pair_of (0, base) (by decide +kernel)) rfl
     (by decide +kernel) (by decide +kernel) (by decide +kernel)⟩,
   ⟨{ cmdOf 12 8 .running with block := 0x19008, result := 1 }, _, by rfl, by decide, .notYet (m := mWaitsFor 1) 0x19008 _ _ rfl (by decide +kernel) (pair_of (0, base) (by decide +kernel))
     (by decide +kernel)⟩⟩

theorem witness_plans : GoesAt mStop (.planStop 0 0) 8 ∧ GoesAt mRestart (.planRestart 0 0 [[(0, 23)]]) 9 :=
  ⟨⟨cmdOf 8 0 .dispatched, _, by rfl, by decide, .stopBegins _ _ { plan0 with job := some 7 } rfl (pair_of (0, base) (by decide +kernel)) (by decide +kernel) rfl rfl⟩,
   ⟨cmdOf 9 0 .dispatched, _, by rfl, by decide, .restarts [[(0, 23)]] _ _ { plan0 with stopped := true } _ _ rfl (pair_of (0, base) (by decide +kernel)) (by decide +kernel) rfl rfl
    (by decide +kernel) (get_of [] (by decide +kernel)) (by decide +kernel) rfl⟩⟩

theorem witness_links : GoesAt mLinks (.linkReconf 0 0) 14 ∧ GoesAt (mDieReset 7) (.dieReset 0 0) 15 ∧ GoesAt (mDieReset 0) (.dieReset 0 0) 15 :=
  ⟨⟨cmdOf 14 1024 .dispatched, _, by rfl, by decide, .reconfigures _ _ _ rfl (pair_of (0, base) (by decide +kernel)) (by decide +kernel) (by decide +kernel) rfl (by decide +kernel)
    (fun k _ _ q hq => absurd hq List.not_mem_nil) (fun k _ => by revert k; decide +kernel)⟩,
   ⟨cmdOf 15 0 .dispatched, _, by rfl, by decide, .dieReset (m := mDieReset 7) _ _ _ _ (pair_of (0, base) (by decide +kernel)) (by decide +kernel) rfl (by decide +kernel) (by decide +kernel) (by decide +kernel) rfl⟩,
   ⟨cmdOf 15 0 .dispatched, _, by rfl, by decide, .dieInUse _ _ (pair_of (0, base) (by decide +kernel)) (by decide +kernel) (by decide +kernel) (by decide +kernel)⟩⟩

def anyDom : DomAsk := ⟨[], 0, 0, tab fun _ => 0⟩

theorem witness_domains : GoesAt (mDomain 0) (.domainSet 0 0) 17 ∧ GoesAt (mDomain 1) (.domainSet 0 0) 17 :=
  ⟨⟨cmdOf 17 0 .dispatched, _, by rfl, by decide, .domainSet (m := mDomain 0) _ _ _ _ (pair_of (0, base) (by decide +kernel)) (get_of anyDom (by decide +kernel)) (by decide +kernel)
    (by decide +kernel) (by decide +kernel) rfl (by decide +kernel)⟩,
   ⟨cmdOf 17 0 .dispatched, _, by rfl, by decide, .domainBusy _ _ _ (pair_of (0, base) (by decide +kernel)) (get_of anyDom (by decide +kernel)) (by decide +kernel)⟩⟩

theorem witness_LongCommands : GoesAt mWait (.wait 0 0) 12 ∧
    ∃ (s : State) (p k : Nat) (j : Job), s.m.job? p k = some j ∧ j.isCommand 3 = true ∧ j.pkt.obj = 0 ∧ s.m.workHeld p = false ∧ s.m.workLost p = false :=
  ⟨witness_waits.1, stateOf (withJobs mTeams [jobOf (pktOf 3 3 0 0) .dispatched]), 0, 0, _, by rfl, by decide, by decide, by decide +kernel, by decide +kernel⟩

/-! #### The package, what acts from outside, and the machine as a whole -/

def PackageAt (m : Mach) (i : Instr) : Prop := ∃ m', PackageEvent State.reset.fuse m i m'

def reset : Mach := State.reset.m
/-- Group 0 of UALink and group 6 of Ethernet up, with rings of entries of 16 bytes in host memory: one free and one held. -/
def mPorts : Mach :=
  { reset with
    ports := (reset.ports.put 0 { Port.reset with state := 2 }).put 6 { Port.reset with state := 2, rxring := 0x100, txring := 0x200 }
    home := putAll (putAll [] (storeKey (physKey 2 0 0x100)) 16 (0x1000 + 16 * 2 ^ 49 + 2 ^ 54)) (storeKey (physKey 2 0 0x200)) 16 (0x2000 + 4 * 2 ^ 49 + 2 ^ 54 + 2 ^ 64) }
def mDark : Mach := { reset with ports := reset.ports.put 31 { Port.reset with state := 3, job := some (0, 0), toEth := some true } }

theorem witness_Apply :
    PackageAt reset (.apply 0 applyWord) ∧ PackageAt reset (.apply 0 0x80000000) ∧ PackageAt reset (.apply 0 0) ∧
    PackageAt { reset with switching := some (reset.turn, reset.domCur) } (.apply 0 applyWord) :=
  ⟨⟨_, .begins (m := reset) 0 applyWord _ (by decide) rfl rfl (by decide +kernel)⟩, ⟨_, .refused (m := reset) 0 0x80000000 (by decide) rfl (by decide +kernel)⟩,
    ⟨_, .noApply 0 0 (by decide)⟩, ⟨_, .ends (m := { reset with switching := some (reset.turn, reset.domCur) }) 0 applyWord _ _ (by decide) rfl⟩⟩

theorem witness_PackageEvents :
    PackageAt { reset with refused := [⟨0, 0x1000, [1, 2]⟩] } .requestResend ∧ PackageAt reset (.registerWrite 0x4038 7) ∧ PackageAt mDark (.drainMarkerAck 31) ∧
    PackageAt mDark (.portRelock 31 1 2 true) ∧ PackageAt reset (.portLock 0 1023 3) ∧
    PackageAt { reset with ports := reset.ports.put 0 { Port.reset with state := 1 } } (.portLock 0 1023 3) ∧ PackageAt mPorts (.lambdaRenew 0 5) ∧ PackageAt reset (.flitReplay 0) ∧
    PackageAt (reset.modDie 0 fun x => { x with halted := true }) .hostLeasePass ∧ PackageAt reset .hostLeasePass := by
  refine ⟨⟨_, .resent _ _ rfl (by decide)⟩, ⟨_, .registerWrite 7 7⟩, ⟨_, .dark 31 (by decide)⟩, ⟨_, .relocked 31 1 2 _ 0 0 true rfl rfl rfl rfl⟩, ⟨_, .locking 0 _ _ (by decide) (by decide)⟩,
    ⟨_, .locked 0 _ _ (by decide) (by decide) (by decide)⟩, ⟨_, .renewed 0 _ (by decide) (by decide)⟩, ⟨_, .replayed 0⟩, ⟨_, .leasePasses _ _ 1 rfl rfl rfl rfl ?_⟩, ⟨_, .leaseStays _ rfl rfl⟩⟩
  intro k z hk hz
  obtain rfl : k = 0 := by omega
  rw [← Option.some.inj hz]

def OutsideAt (m : Mach) (i : Instr) : Prop := ∃ m', OutsideEvent m i m'

/-- The host's and a peer's writes, among them one that enables one byte of two. -/
theorem witness_OutsideWrites :
    OutsideAt mPorts (.hostWrite (8 * 2 ^ 36 - 2) [1, 2]) ∧ OutsideAt mPorts (.peerWrite 0 [some 1, some 2]) ∧ OutsideAt mPorts (.peerWrite 0 [some 1, none]) ∧
    OutsideAt mPorts (.hostAtomicop 8 true .add 1 0) ∧ OutsideAt mPorts (.peerAtomic 8 false .add 1 0) :=
  ⟨⟨_, .hostWrite (m := mPorts) _ _ _ (get_of 0 (by decide +kernel)) (by decide +kernel) (by decide +kernel) rfl⟩,
   ⟨_, .peerWrite (m := mPorts) 0 [1, 2] _ (get_of 0 (by decide +kernel)) (by decide +kernel) (by decide +kernel) (by decide +kernel) (by decide +kernel) rfl⟩,
   ⟨_, .peerPart (m := mPorts) 0 [some 1, none] _ (get_of 0 (by decide +kernel)) (by decide +kernel) (by decide +kernel)⟩,
   ⟨_, .hostAtomic (m := mPorts) _ _ _ _ _ _ _ _ _ rfl (get_of 0 (by decide +kernel)) (by decide +kernel) (by decide) (by decide +kernel) rfl rfl rfl rfl⟩,
   ⟨_, .peerAtomic (m := mPorts) _ _ _ _ _ _ _ _ _ rfl (get_of 0 (by decide +kernel)) (by decide +kernel) (by decide +kernel) (by decide) (by decide +kernel) rfl rfl rfl rfl⟩⟩

theorem witness_OutsideEvents :
    OutsideAt mPorts (.hostRead (.memory 0) 256) ∧ OutsideAt mPorts (.peerRead 0 256) ∧
    OutsideAt mPorts (.ethernetRx 6 [1, 2] (crc32 [1, 2])) ∧ OutsideAt mPorts (.ethernetRx 6 [1, 2] (crc32 [1, 2] + 1)) ∧
    OutsideAt mPorts (.ethernetTx 6) ∧ OutsideAt { reset with pipes := [{ pipe0 with remote := true }] } (.remotePipeRequest 0 false 0 []) ∧
    OutsideAt { reset with pipes := [{ pipe0 with remote := true }] } (.remotePipeRequest 0 true 2 [7]) ∧
    (∃ (s : State) (a : HostAddr) (n : Nat) (bs : List Byte), HostReads s.fuse s.m a n bs) :=
  ⟨⟨_, .hostRead (m := mPorts) _ _ _ (get_of 0 (by decide +kernel)) rfl rfl⟩,
   ⟨_, .peerRead (m := mPorts) _ _ _ (get_of 0 (by decide +kernel)) (by decide +kernel) (by decide +kernel) rfl rfl⟩,
   ⟨_, .received (m := mPorts) 6 _ _ _ _ (pair_of (⟨0, false, 0, 0, 0, 0⟩, 0) (by decide +kernel)) (by decide) (by decide +kernel) rfl⟩,
   ⟨_, .lostFrame 6 _ _ (by omega)⟩,
   ⟨_, .sent (m := mPorts) 6 _ _ _ _ _ _ (pair_of (⟨0, false, 0, 0, 0, 0⟩, 0) (by decide +kernel)) (by decide +kernel) rfl rfl rfl rfl⟩,
   ⟨_, .reserved 0 0 [] _ 0 _ (by rfl) rfl rfl⟩, ⟨_, .committed 0 2 [7] _ (by rfl) rfl (by decide)⟩,
   ⟨State.reset, _, _, _, .link 31⟩⟩

/-- What the host reads in BAR 0 and over the sideband, and the island's temperature after a measurement. -/
theorem witness_HostReads : ∃ (f : Fuse) (m : Mach), (∃ a n bs, a = .halted 7 ∧ HostReads f m a n bs) ∧ (∃ a n bs, a = .dieMemory 7 0x1000 ∧ HostReads f m a n bs) ∧
    (∃ a n bs, a = .temperature 3 ∧ HostReads f m a n bs) ∧ ∃ a n bs, a = .errors 7 .sram ∧ HostReads f m a n bs :=
  ⟨State.reset.fuse, { reset.modDie 7 fun x => { x with halted := true } with temps := [(3, 90)] }, ⟨_, 1, _, rfl, .halted 7 { Die.reset with halted := true } 1 (by rfl)⟩,
   ⟨_, 4, _, rfl, .haltedMemory 7 0x1000 { Die.reset with halted := true } 4 (by rfl) rfl⟩, ⟨_, 2, _, rfl, .temperature 3 2 90 (by decide) (by decide)⟩,
   ⟨_, 8, _, rfl, .srams 7 { Die.reset with halted := true } 8 (by rfl)⟩⟩

def MachineAt (m : Mach) (i : Instr) : Prop := ∃ m', MachineEvent m i m'
def IslandAt (m : Mach) (i : Instr) : Prop := ∃ m', IslandEvent State.reset.fuse m i m'

/-- A context that a stop has halted, and a die whose open epoch holds a store. -/
def mHalted : Mach := (sDirty.m.modCtx 0 fun c => { c with halt := some .debugger })

theorem witness_MachineEvents :
    MachineAt { sDirty.m with now := Config.epochCycles } (.epochTimeout 0) ∧ MachineAt sDirty.m (.epochTimeout 0) ∧
    MachineAt (base.modDie 0 fun x => { x with sectors := List.replicate Config.dirtyLimit 0 }) (.dirtyTableFull 0) ∧
    MachineAt base (.scaleLineFill 0 0 0 0) ∧ MachineAt base (.matrixUnitRestore 0 0 3) ∧ MachineAt base (.matrixUnitRetention 0 0 3) ∧
    MachineAt base (.debuggerHalt 0) ∧ MachineAt base (.contextStop 0 0x50) ∧
    MachineAt base (.debuggerResume 0) ∧ MachineAt base (.debuggerAttach 0 true) ∧ MachineAt mHalted (.stopReport 0) ∧ MachineAt base (.eccCorrected 7 .link) ∧
    MachineAt base (.registerPoison 0 0 63 31) ∧ MachineAt sDirty.m (.sectorLoss 0 0x800) ∧
    (∃ (s : State) (n : Nat) (c : Context), s.m.ctx? n = some c ∧ c.halt = none ∧ c.haltDue = true) ∧
    (∀ i ∈ [Instr.contextStop 0 0x52, .uncorrectableStateError 0], ∃ (s : State) (n cause : Nat) (h : Halt) (c : Context),
      StopEvent n i cause h ∧ s.m.ctx? n = some c ∧ c.halt = none) ∧
    (∃ (s : State) (d temp : Nat), d < s.m.dies.length ∧ 115 ≤ temp) := by
  refine ⟨⟨_, .timeout 0 (sDirty.m.dies.headD Die.reset) 0 (by rfl) (by decide) (by decide)⟩, ⟨_, .early 0 (sDirty.m.dies.headD Die.reset) 0 (by rfl) (by decide) (by decide)⟩, ?_,
    ⟨_, .lineFill 0 0 0 0 _ _ rfl rfl⟩, ⟨_, .unitRestored 0 0 3⟩, ⟨_, .unitRetained 0 0 3 (by decide)⟩, ⟨_, .halts 0⟩, ⟨_, .haltsContext 0⟩, ⟨_, .resumes 0 (by decide)⟩, ⟨_, .attaches 0 true⟩,
    ⟨_, .reports 0 (mHalted.contexts.headD spare.ctx) (by rfl) (by decide) (by decide) (by decide) (by decide +kernel) (by decide +kernel) (by decide +kernel)⟩, ⟨_, .corrected 7 .link⟩,
    ⟨_, .poisoned 0 0 63 31 (iss s0).warp (by rfl) (by decide)⟩, ⟨_, .lost 0 0x800 (sDirty.m.dies.headD Die.reset) (by rfl) (by decide)⟩,
    ⟨stateOf (base.modCtx 0 fun c => { c with haltDue := true }), 0, _, by rfl, by rfl, by rfl⟩, ?_, ⟨s0, 7, 115, by decide, by decide⟩⟩
  · exact ⟨_, .full 0 { Die.reset with sectors := List.replicate Config.dirtyLimit 0 } (by rfl) (by rw [List.length_replicate])⟩
  · intro i hi
    fin_cases hi
    · exact ⟨s0, 0, _, _, (iss s0).ctx, .contextError, by rfl, by rfl⟩
    · exact ⟨s0, 0, _, _, (iss s0).ctx, .state, by rfl, by rfl⟩

theorem witness_Islands :
    IslandAt base (.thermalThrottle ⟨0, 900000⟩ 105) ∧ IslandAt base (.thermalThrottle ⟨0, 900000⟩ 104) ∧ IslandAt base (.powerLimit ⟨191, 900000⟩) ∧
    (∃ m', IslandEvent { State.reset.fuse with dmask := 1 } base (.thermalThrottle ⟨191, 900000⟩ 105) m') ∧
    ∃ m', IslandEvent { State.reset.fuse with dmask := 1 } base (.powerLimit ⟨191, 900000⟩) m' :=
  ⟨⟨_, .throttled 0 105 _ (by decide) (by decide)⟩, ⟨_, .cool 0 104 _ (by decide) (by decide)⟩, ⟨_, .power 191 _ (by decide)⟩, ⟨_, .offThrottle 191 105 _ (by decide)⟩,
   ⟨_, .offPower 191 _ (by decide)⟩⟩

theorem witness_FuseKept : ∃ s t : State, step s = .next t ∧ Mem.wf s.m.home = true := ⟨State.reset, State.reset, by rfl, by decide⟩

/-- NOP at the PC, and that it is fetched. -/
def sNop : State := s0.withFetchWord 32 (Instr.word .nop)

theorem witness_StepRunsTheDecodedInstruction : ∃ (s t : State) (g : Issue) (bs : List Byte) (i : Instr) (m0 m1 : Mach), s.m.poweredDown = false ∧
    (s.m.unit = none → s.m.inputs = []) ∧ m0 = (if s.m.unit.isSome then s.m else s.m.choose) ∧ m0.issuer = some g ∧ m0.beforeIssue g = none ∧
    m0.fetch g.team.die g.core g.warp.cluster g.team.ctx g.pc g.team.super (decide (g.warp.replayFetch &&& g.gang ≠ 0)) = (.bytes bs, m1) ∧
    decode bs = .ok i ∧ exec i { s with m := m1 } = .next t := by
  have h : (match sNop.m.choose.issuer with
    | some g => (sNop.m.choose.beforeIssue g).isNone &&
      (match sNop.m.choose.fetch g.team.die g.core g.warp.cluster g.team.ctx g.pc g.team.super (decide (g.warp.replayFetch &&& g.gang ≠ 0)) with
        | (.bytes bs, m1) => (match decode bs with | .ok i => decide (i = .nop) | .error _ => false) && m1.issuer.isSome
        | _ => false)
    | none => false) = true := by decide +kernel
  cases e : sNop.m.choose.issuer with
  | none => rw [e] at h; cases h
  | some g =>
    rw [e] at h
    simp only [Bool.and_eq_true] at h
    cases e' : sNop.m.choose.fetch g.team.die g.core g.warp.cluster g.team.ctx g.pc g.team.super (decide (g.warp.replayFetch &&& g.gang ≠ 0)) with
    | mk f m1 =>
      rw [e'] at h
      cases f with
      | held => cases h.2
      | fault a b c => cases h.2
      | bytes bs =>
        have h1 := h.2
        simp only [Bool.and_eq_true] at h1
        cases d : decode bs with
        | error c => rw [d] at h1; cases h1.1
        | ok i =>
          rw [d] at h1
          obtain rfl : i = .nop := of_decide_eq_true h1.1
          obtain ⟨g', hg⟩ := Option.isSome_iff_exists.mp h1.2
          obtain ⟨m2, h2⟩ := issue_next (s := { sNop with m := m1 }) .nop (fun m g => m.retire g .nop (g.warp.begin Instr.nop.uses)) hg
          exact ⟨sNop, _, g, bs, .nop, sNop.m.choose, m1, rfl, fun _ => rfl, rfl, e, Option.isNone_iff_eq_none.mp h.1, e', d, h2⟩

theorem witness_DecodeReadsEncode : ∃ i : Instr, wellFormed i = true ∧ i.encoded = true ∧ ∀ c w, i ≠ .illegalInstruction c w :=
  ⟨.limm 0x1FFFFFF, by decide, by decide, fun _ _ => Instr.noConfusion⟩

end Sys2Proof.Tests
end

/-! PROOFS. The state in which a team and its warps start (spec 03 R36, R37). -/

namespace Sys2Proof.Machine

/-! ### What a warp holds at its start -/

section
variable {core slot entry tlanes w y : Nat}

@[simp] theorem Warp.start_v_at (n : Fin 64) (l : Fin 32) : ((Warp.start core slot entry tlanes w y).v.at n).at l = 0 := by
  simp only [Warp.start, tab_at]

@[simp] theorem Warp.start_s_at (n : Fin 32) : (Warp.start core slot entry tlanes w y).s.at n = 0 := by
  simp only [Warp.start, tab_at]

@[simp] theorem Warp.start_b_at (n : Fin 4) : (Warp.start core slot entry tlanes w y).b.at n = none := by
  simp only [Warp.start, tab_at]

/-- No loop level is active (09 R169). -/
theorem Warp.start_loops (n : Fin 3) : (Warp.start core slot entry tlanes w y).lc.at n = 0 ∧
    (Warp.start core slot entry tlanes w y).ls.at n = 0 ∧ (Warp.start core slot entry tlanes w y).le.at n = 0 := by
  simp only [Warp.start, tab_at, and_self]

/-- Entry `e` of every renaming table names v(48 + e). -/
@[simp] theorem Warp.start_ren_at (p : Fin 4) (e : Fin 16) :
    (((Warp.start core slot entry tlanes w y).ren.at p).at e).val = 48 + e.val := by
  simp only [Warp.start, tab_at]

@[simp] theorem Warp.start_k_at (p n : Fin 4) : ((Warp.start core slot entry tlanes w y).k.at p).at n = 0 := by
  simp only [Warp.start, tab_at]

/-- EXEC holds the lanes inside the team (03 R51). -/
theorem Warp.start_exec_bit (l : Fin 32) :
    (Warp.start core slot entry tlanes w y).exec.getLsbD l.val = insideLane tlanes w l.val := by
  simp only [Warp.start, laneMask_bit]

/-- Every slice stands at the entry, in the gang of slice 0. -/
@[simp] theorem Warp.start_slices_at (j : Fin 8) :
    (Warp.start core slot entry tlanes w y).slices.at j = { pc := entry, stack := [], gang := 0, wait := .none } := by
  simp only [Warp.start, tab_at]

end

/-! ### What a team holds at its start -/

/-- Warp `w` of a fresh team is the start state of warp `w`, with the Y of the team's context. -/
theorem Mach.freshTeam_warp {m : Mach} {k : KDesc} {shapes : List Shape} {q : Spot} {g : Given} {ph : TeamPhase} {w : Nat} {x : Warp}
    (h : (m.freshTeam k shapes q g ph).warps[w]? = some x) :
    ∃ core slot, x = Warp.start core slot k.entry k.tlanes w (((m.ctx? g.ctx).map Context.y).getD 0) := by
  simp only [Mach.freshTeam, List.getElem?_map, Option.map_eq_some_iff] at h
  obtain ⟨w', hw, rfl⟩ := h
  obtain ⟨-, rfl⟩ := List.getElem?_eq_some_iff.mp hw
  exact ⟨_, _, by rw [List.getElem_range]⟩

theorem Mach.freshTeam_warps_length (m : Mach) (k : KDesc) (shapes : List Shape) (q : Spot) (g : Given) (ph : TeamPhase) :
    (m.freshTeam k shapes q g ph).warps.length = k.teamw := by
  simp only [Mach.freshTeam, List.length_map, List.length_range]

@[simp] theorem Mach.freshTeam_shapes_at (m : Mach) (k : KDesc) (shapes : List Shape) (q : Spot) (g : Given) (ph : TeamPhase) (h : Fin 32) :
    (m.freshTeam k shapes q g ph).shapes.at h = shapes[h.val]? := by
  simp only [Mach.freshTeam, tab_at]

@[simp] theorem Mach.freshTeam_rings_at (m : Mach) (k : KDesc) (shapes : List Shape) (q : Spot) (g : Given) (ph : TeamPhase) (h : Fin 16) :
    (m.freshTeam k shapes q g ph).rings.at h = none := by
  simp only [Mach.freshTeam, tab_at]

/-- 03 R36: the place of a fresh team lies inside its grid, and its linear number is x + gx·(y + gy·z). -/
theorem Mach.freshTeam_place (m : Mach) (k : KDesc) (shapes : List Shape) (q : Spot) (g : Given) (ph : TeamPhase)
    (hx : 0 < q.gx) (hy : 0 < q.gy) :
    (m.freshTeam k shapes q g ph).x < q.gx ∧ (m.freshTeam k shapes q g ph).y < q.gy ∧
      (m.freshTeam k shapes q g ph).x + q.gx * ((m.freshTeam k shapes q g ph).y + q.gy * (m.freshTeam k shapes q g ph).z) = q.linear := by
  refine ⟨Nat.mod_lt _ hx, Nat.mod_lt _ hy, ?_⟩
  calc q.linear % q.gx + q.gx * (q.linear / q.gx % q.gy + q.gy * (q.linear / (q.gx * q.gy)))
      _ = q.linear % q.gx + q.gx * (q.linear / q.gx) := by rw [← Nat.div_div_eq_div_mul, Nat.mod_add_div]
      _ = q.linear := Nat.mod_add_div _ _

/-- Settles O46: the place comes from dividing the linear number twice, and each warp of the team is `Warp.start`, read field by field. -/
theorem teamsAtStart : Obligations.TeamsAtStart := by
  unfold Obligations.TeamsAtStart
  rintro m k shapes q g ph _ rfl
  refine ⟨m.freshTeam_place k shapes q g ph, m.freshTeam_warps_length k shapes q g ph, rfl, rfl,
    m.freshTeam_shapes_at k shapes q g ph, m.freshTeam_rings_at k shapes q g ph, ?_⟩
  intro w x hx
  obtain ⟨core, slot, rfl⟩ := Mach.freshTeam_warp hx
  refine ⟨Warp.start_v_at, Warp.start_s_at, rfl, Warp.start_b_at, Warp.start_loops, Warp.start_ren_at, Warp.start_k_at, ?_⟩
  -- The fields without entries, YCNT to the run state, stand in `Warp.start` as they are.
  refine ⟨rfl, rfl, rfl, rfl, rfl, rfl, rfl, rfl, rfl, ?_⟩
  exact ⟨Warp.start_exec_bit, Warp.start_slices_at⟩

end Sys2Proof.Machine

/-! PROOFS. The scalar divisions (spec 09 R159). -/

namespace Sys2Proof.Machine

/-- Each of the four divisions is `scalDiv` with the operation that the table of R159 gives. -/
theorem Division.exec_eq {s : State} {i : Instr} {d : SDst} {a b : Src} {op : Word → Word → Word} (hd : Division i d a b op) :
    exec i s = scalDiv i d a b op s := by
  cases hd with
  | sdiv => rw [exec_sdiv, execSdiv, ← funext₂ spec_div]
  | sdivU => rw [exec_sdivU, execSdivU, ← funext₂ spec_divU]
  | srem => rw [exec_srem, execSrem, ← funext₂ spec_rem]
  | sremU => rw [exec_sremU, execSremU, ← funext₂ spec_remU]

section
variable {s : State} {g : Issue} {i : Instr} {d : SDst} {a b : Src} {op : Word → Word → Word}

theorem scalDiv_writes_of_ne_zero (he : exec i s = scalDiv i d a b op s) (h : Admits s.m g i) (hb : g.warp.one b ≠ 0) :
    ∃ x, WritesScalar s g i d (op (g.warp.one a) (g.warp.one b)) x :=
  WritesScalar.of_retire (by rw [he, scalDiv, issue_admits _ h, if_neg hb])

theorem scalDiv_traps_of_eq_zero (he : exec i s = scalDiv i d a b op s) (h : Admits s.m g i) (hb : g.warp.one b = 0) :
    exec i s = .next { s with m := s.m.trap g i (TrapRec.of 0x20) } := by
  rw [he, scalDiv, issue_admits _ h, if_pos hb]

end

/-- Settles O6: each division is `scalDiv`, whose test of the divisor either retires with the result or traps. -/
theorem divisionResults : Obligations.DivisionResults := by
  unfold Obligations.DivisionResults
  intro s g i d a b op hd h
  exact ⟨scalDiv_writes_of_ne_zero hd.exec_eq h, scalDiv_traps_of_eq_zero hd.exec_eq h⟩

end Sys2Proof.Machine

/-! PROOFS. The lane-by-lane integer, 16-bit and move instructions (spec 10 R188 to R193, R200, R203; 07 R102). -/

namespace Sys2Proof.Machine

/-! ### The shapes of a lane-by-lane meaning, with a result that the spec's tables give -/

section
variable {i : Instr} {d : Dst} {a b : Src} {k : Fin 128} {r : Mach → Issue → Fin 32 → Word} {s : State}

theorem int2_eq_lanesOp {op : Word → Word → Word} (h : ∀ m g l, r m g l = op (g.warp.src a l) (g.warp.src b l)) :
    int2 i d a b op s = lanesOp i d r s := by
  obtain rfl : r = fun _ g l => op (g.warp.src a l) (g.warp.src b l) := funext fun m => funext₂ (h m)
  rfl

theorem intI_eq_lanesOp {op : Word → Word → Word} (h : ∀ m g l, r m g l = op (g.warp.src a l) (m.imm k)) :
    intI i d a k op s = lanesOp i d r s := by
  obtain rfl : r = fun m g l => op (g.warp.src a l) (m.imm k) := funext fun m => funext₂ (h m)
  rfl

theorem int1_eq_lanesOp {op : Word → Word} (h : ∀ m g l, r m g l = op (g.warp.src a l)) :
    int1 i d a op s = lanesOp i d r s := by
  obtain rfl : r = fun _ g l => op (g.warp.src a l) := funext fun m => funext₂ (h m)
  rfl

end

/-- The five-bit immediate of VADDI (07 R102). -/
theorem spec_sext5 (i : Fin 32) : Spec.sext5 i = BitVec.ofInt 32 (sextNat i.val 5) := by
  have h : i.val % 2 ^ 5 = i.val := Nat.mod_eq_of_lt i.isLt
  rw [Spec.sext5, Spec.word, sextNat, h]
  rfl

/-! ### Each table of results is that of the machine's operations -/

section
variable {s : State} {i : Instr}

theorem LaneResult.exec_eq {d : Dst} {r : Mach → Issue → Fin 32 → Word} (h : LaneResult i d r) : exec i s = lanesOp i d r s := by
  cases h with
  | vadd => exact (exec_vadd ..).trans (int2_eq_lanesOp fun _ _ _ => spec_add ..)
  | vaddImm => exact (exec_vaddImm ..).trans (intI_eq_lanesOp fun _ _ _ => spec_add ..)
  | vsub => exact (exec_vsub ..).trans (int2_eq_lanesOp fun _ _ _ => spec_sub ..)
  | vmul => exact (exec_vmul ..).trans (int2_eq_lanesOp fun _ _ _ => spec_mul ..)
  | vmulImm => exact (exec_vmulImm ..).trans (intI_eq_lanesOp fun _ _ _ => spec_mul ..)
  | vmulh => exact (exec_vmulh ..).trans (int2_eq_lanesOp fun _ _ _ => spec_mulh ..)
  | vmulhU => exact (exec_vmulhU ..).trans (int2_eq_lanesOp fun _ _ _ => spec_mulhU ..)
  | vand => exact (exec_vand ..).trans (int2_eq_lanesOp fun _ _ _ => rfl)
  | vandImm => exact (exec_vandImm ..).trans (intI_eq_lanesOp fun _ _ _ => rfl)
  | vor => exact (exec_vor ..).trans (int2_eq_lanesOp fun _ _ _ => rfl)
  | vorImm => exact (exec_vorImm ..).trans (intI_eq_lanesOp fun _ _ _ => rfl)
  | vxor => exact (exec_vxor ..).trans (int2_eq_lanesOp fun _ _ _ => rfl)
  | vxorImm => exact (exec_vxorImm ..).trans (intI_eq_lanesOp fun _ _ _ => rfl)
  | vshl => exact (exec_vshl ..).trans (int2_eq_lanesOp fun _ _ _ => spec_shl ..)
  | vshlImm => exact (exec_vshlImm ..).trans (intI_eq_lanesOp fun _ _ _ => spec_shl ..)
  | vsrl => exact (exec_vsrl ..).trans (int2_eq_lanesOp fun _ _ _ => spec_srl ..)
  | vsrlImm => exact (exec_vsrlImm ..).trans (intI_eq_lanesOp fun _ _ _ => spec_srl ..)
  | vsra => exact (exec_vsra ..).trans (int2_eq_lanesOp fun _ _ _ => spec_sra ..)
  | vsraImm => exact (exec_vsraImm ..).trans (intI_eq_lanesOp fun _ _ _ => spec_sra ..)
  | vmin => exact (exec_vmin ..).trans (int2_eq_lanesOp fun _ _ _ => spec_min ..)
  | vminImm => exact (exec_vminImm ..).trans (intI_eq_lanesOp fun _ _ _ => spec_min ..)
  | vminU => exact (exec_vminU ..).trans (int2_eq_lanesOp fun _ _ _ => spec_minU ..)
  | vminUImm => exact (exec_vminUImm ..).trans (intI_eq_lanesOp fun _ _ _ => spec_minU ..)
  | vmax => exact (exec_vmax ..).trans (int2_eq_lanesOp fun _ _ _ => spec_max ..)
  | vmaxImm => exact (exec_vmaxImm ..).trans (intI_eq_lanesOp fun _ _ _ => spec_max ..)
  | vmaxU => exact (exec_vmaxU ..).trans (int2_eq_lanesOp fun _ _ _ => spec_maxU ..)
  | vmaxUImm => exact (exec_vmaxUImm ..).trans (intI_eq_lanesOp fun _ _ _ => spec_maxU ..)

theorem LaneResult'.exec_eq {d : Dst} {r : Mach → Issue → Fin 32 → Word} (h : LaneResult' i d r) : exec i s = lanesOp i d r s := by
  cases h with
  | vmad => simp only [exec_vmad, execVmad, spec_add, spec_mul]
  | vabs => exact (exec_vabs ..).trans (int1_eq_lanesOp fun _ _ _ => spec_abs ..)
  | vclz => exact (exec_vclz ..).trans (int1_eq_lanesOp fun _ _ _ => spec_clz ..)
  | vpopc => exact (exec_vpopc ..).trans (int1_eq_lanesOp fun _ _ _ => spec_popc ..)
  | vbrev => exact (exec_vbrev ..).trans (int1_eq_lanesOp fun _ _ _ => spec_brev ..)
  | vsat => exact (exec_vsat ..).trans (int2_eq_lanesOp fun _ _ _ => spec_vsat ..)
  | vsatImm => exact (exec_vsatImm ..).trans (intI_eq_lanesOp fun _ _ _ => spec_vsat ..)
  | vsel => rw [exec_vsel, execVsel]

theorem ShortResult.exec_eq {d : Fin 64} {r : Issue → Fin 32 → Word} (h : ShortResult i d r) :
    exec i s = lanesOp i ⟨false, d⟩ (fun _ => r) s := by
  cases h with
  | vadd => exact (exec_vaddShort ..).trans (int2_eq_lanesOp fun _ _ _ => spec_add ..)
  | vsub => exact (exec_vsubShort ..).trans (int2_eq_lanesOp fun _ _ _ => spec_sub ..)
  | vand => exact (exec_vandShort ..).trans (int2_eq_lanesOp fun _ _ _ => rfl)
  | vor => exact (exec_vorShort ..).trans (int2_eq_lanesOp fun _ _ _ => rfl)
  | vxor => exact (exec_vxorShort ..).trans (int2_eq_lanesOp fun _ _ _ => rfl)
  | vshl => exact (exec_vshlShort ..).trans (int2_eq_lanesOp fun _ _ _ => spec_shl ..)
  | vsrl => exact (exec_vsrlShort ..).trans (int2_eq_lanesOp fun _ _ _ => spec_srl ..)
  | vsra => exact (exec_vsraShort ..).trans (int2_eq_lanesOp fun _ _ _ => spec_sra ..)
  | vmin => exact (exec_vminShort ..).trans (int2_eq_lanesOp fun _ _ _ => spec_min ..)
  | vmax => exact (exec_vmaxShort ..).trans (int2_eq_lanesOp fun _ _ _ => spec_max ..)
  | vmov => exact (exec_vmovShort ..).trans (int1_eq_lanesOp fun _ _ _ => rfl)
  | vneg => exact (exec_vneg ..).trans (int1_eq_lanesOp fun _ _ _ => spec_sub ..)
  | vaddi d n => exact (exec_vaddi ..).trans (int1_eq_lanesOp fun _ _ _ => by rw [spec_add, spec_sext5])

theorem MoveResult.exec_eq {d : Dst} {r : Mach → Issue → Fin 32 → Word} (h : MoveResult i d r) : exec i s = lanesOp i d r s := by
  cases h with
  | vmov => exact (exec_vmov ..).trans (int1_eq_lanesOp fun _ _ _ => rfl)
  | vmovk => rw [exec_vmovk, execVmovk]
  | vpackI16 => exact (exec_vpackI16 ..).trans (int2_eq_lanesOp fun _ _ _ => rfl)

end

/-- Settles O1: each instruction of the four tables is `lanesOp` with the result that its table gives, and `lanesOp`, admitted, writes
its lanes. -/
theorem vectorResults : Obligations.VectorResults := by
  unfold Obligations.VectorResults
  exact ⟨fun _ _ _ _ _ hr h => lanesOp_admits hr.exec_eq h, fun _ _ _ _ _ hr h => lanesOp_admits hr.exec_eq h,
    fun _ _ _ _ _ hr h => lanesOp_admits hr.exec_eq h, fun _ _ _ _ _ hr h => lanesOp_admits hr.exec_eq h⟩

end Sys2Proof.Machine

/-! PROOFS. The compares (spec 10 R192, R197; 09 R161). -/

namespace Sys2Proof.Machine

theorem Compare.exec_eq {s : State} {i : Instr} {c : Mach → Issue → Fin 32 → Bool} (h : Compare i c) : exec i s = cmpOp i c s := by
  cases h with
  | vcmp => simp only [exec_vcmp, execVcmp, spec_cond]
  | vcmpImm => simp only [exec_vcmpImm, execVcmpImm, spec_cond]
  | scmp => simp only [exec_scmp, execScmp, spec_cond]
  | scmpImm => simp only [exec_scmpImm, execScmpImm, spec_cond]

/-- A VFCMP that raises no enabled exception in an active lane (05 R89). -/
theorem vfcmp_quiet {s : State} {g : Issue} {c : FCond} {a b : Src} (h : Admits s.m g (.vfcmp c a b))
    (hq : g.quiet fun l => (FCond.holds c F32 (g.warp.srcF32 a l).toNat (g.warp.srcF32 b l).toNat).2) :
    ∃ x, WritesCm s g (.vfcmp c a b) (fun l => (FCond.holds c F32 (g.warp.srcF32 a l).toNat (g.warp.srcF32 b l).toNat).1) x :=
  WritesCm.of_retire (by rw [exec_vfcmp, execVfcmp, issue_admits _ h, unlessFloat_quiet hq])

/-- Settles O4: an integer compare is `cmpOp` with the condition of 07 R113; a quiet VFCMP retires as one. -/
theorem compareResults : Obligations.CompareResults := by
  unfold Obligations.CompareResults
  exact ⟨fun s g i c hc h => cmpOp_admits hc.exec_eq h, fun s g c a b h hq => vfcmp_quiet h hq⟩

end Sys2Proof.Machine

/-! PROOFS. Shuffles, broadcasts, votes and VMOVS (spec 10 R203, R205 to R207). -/

namespace Sys2Proof.Machine

/-- The answer of an instruction of the gang `g` that retires with the gang's warp as `x`. -/
def Issue.retires (g : Issue) (s : State) (i : Instr) (x : Warp) : Host.Outcome State Fault Refusal :=
  .next { s with m := s.m.retire g i x }

/-! ### The poison test of a cross-lane instruction (10 R187) -/

theorem Issue.unpoisoned.mono {g : Issue} {a : Src} {on on' : Fin 32 → Bool} (h : g.unpoisoned a on)
    (hon : ∀ j, on' j = true → on j = true) : g.unpoisoned a on' :=
  fun n l ha hl => h n l ha (hon l hl)

theorem Issue.crossPoison_eq_none {g : Issue} {a : Src} {on : Fin 32 → Bool} (h : g.unpoisoned a on) : g.crossPoison a on = none := by
  cases a with
  | v n =>
    simp only [Issue.crossPoison, List.findSome?_eq_none_iff, ite_eq_right_iff, Bool.and_eq_true, List.contains_iff_mem]
    rintro j - ⟨⟨hon, hact⟩, hp⟩
    exact absurd hp (h n j rfl hon hact)
  | _ => rfl

/-- A cross-lane instruction that is admitted and reads no poison runs. -/
theorem issueCross_admits {s : State} {g : Issue} {i : Instr} {a : Src} {on : Mach → Issue → Fin 32 → Bool} (run : Mach → Issue → Mach)
    (h : Admits s.m g i) (hp : g.unpoisoned a (on s.m g)) : issueCross i a on s run = .next { s with m := run s.m g } := by
  rw [issueCross, issue_admits _ h, Issue.crossPoison_eq_none hp]

/-! ### Shuffles and broadcasts -/

/-- The machine's source lane is that of 10 R206, as a lane. -/
theorem shuffleFrom_eq (u : Fin 4) (n : Nat) (l : Fin 32) (y : Word) : shuffleFrom u n l y = (Spec.from_ u n l y).map laneAt := by
  have hp : l.val % n ≤ l.val := Nat.mod_le ..
  match u with
  | 0 => rfl
  | 1 =>
    by_cases hy : y.toNat ≤ l.val % n
    · have e : l.val - l.val % n + (l.val % n - y.toNat) = l.val - y.toNat := by omega
      simp only [shuffleFrom, Spec.from_, if_neg (Nat.not_lt.mpr hy), if_pos hy, e, Option.map_some]
    · simp only [shuffleFrom, Spec.from_, if_pos (Nat.not_le.mp hy), if_neg hy, Option.map_none]
  | 2 =>
    by_cases hy : l.val % n + y.toNat < n
    · simp only [shuffleFrom, Spec.from_, if_neg (Nat.not_le.mpr hy), if_pos hy, Nat.sub_add_cancel hp, Option.map_some]
    · simp only [shuffleFrom, Spec.from_, if_pos (Nat.not_lt.mp hy), if_neg hy, Option.map_none]
  | 3 => rfl

theorem Shuffle.exec_eq {s : State} {i : Instr} {d : Dst} {a : Src} {q : Mach → Issue → Fin 32 → Option Nat} (h : Shuffle i d a q) :
    exec i s = shuffle i d a (fun m g l => (q m g l).map laneAt) s := by
  cases h with
  | vshfl => simp only [exec_vshfl, execVshfl, shuffleFrom_eq]
  | vshflImm => simp only [exec_vshflImm, execVshflImm, shuffleFrom_eq]
  | vbcast => simp only [exec_vbcast, execVbcast, shuffleFrom_eq]
  | vbcastImm => simp only [exec_vbcastImm, execVbcastImm, shuffleFrom_eq]

theorem shuffle_admits {s : State} {g : Issue} {i : Instr} {d : Dst} {a : Src} {q : Mach → Issue → Fin 32 → Option Nat}
    (he : exec i s = shuffle i d a (fun m g l => (q m g l).map laneAt) s) (h : Admits s.m g i) (hp : g.unpoisoned a fun _ => true) :
    ∃ x, WritesShuffle s g i d (fun l => g.shuffled a l (q s.m g l)) (fun l => g.shuffledCm (q s.m g l)) x := by
  apply WritesShuffle.of_retire
  rw [he, shuffle, issueCross_admits _ h (hp.mono fun _ _ => rfl)]
  refine congrArg₂ (fun r c => g.retires s i { (g.warp.begin i.uses).writeVec g.active d r with cm := g.withCm c })
    (funext fun l => ?_) (funext fun l => ?_)
  · cases q s.m g l <;> rfl
  · cases q s.m g l <;> rfl

/-! ### Votes and VMOVS -/

theorem ofNat_toNat_eq_ite (b : Bool) : BitVec.ofNat 32 b.toNat = if b then (1 : Word) else 0 := by cases b <;> rfl

/-- The machine's predicate bit of a lane is that of 10 R205. -/
theorem Issue.votes_eq (g : Issue) (a b : Src) :
    g.votes a b = fun j => (g.warp.one b).getLsbD j.val && g.active j && decide (g.warp.src a j ≠ 0) := by
  funext j
  simp only [Issue.votes, bne, beq_eq_decide, decide_not]

theorem vvote_admits {s : State} {g : Issue} {d : Dst} {a b : Src} {u : Fin 4} (h : Admits s.m g (.vvote d a b u))
    (hp : g.unpoisoned a fun j => (g.warp.one b).getLsbD j.val) : ∃ x, WritesLanes s g (.vvote d a b u) d (g.vote a b u) x := by
  apply WritesLanes.of_retire
  rw [exec_vvote, execVvote, issueCross_admits _ h hp]
  refine congrArg (fun r => g.retires s (.vvote d a b u) ((g.warp.begin (Instr.vvote d a b u).uses).writeVec g.active d r))
    (funext fun l => ?_)
  simp only [Issue.votes_eq, ofNat_toNat_eq_ite]
  match u with
  | 0 => rfl
  | 1 => rfl
  | 2 => rfl
  | 3 => rfl

theorem vmovs_admits {s : State} {g : Issue} {d : SDst} {a b : Src} (h : Admits s.m g (.vmovs d a b))
    (hp : g.unpoisoned a fun j => decide (j = laneAt (g.warp.one b).toNat)) :
    ∃ x, WritesScalar s g (.vmovs d a b) d
      (if g.single a ∨ g.active (laneAt (g.warp.one b).toNat) then g.warp.src a (laneAt (g.warp.one b).toNat) else 0) x := by
  have hon : g.unpoisoned a fun j => laneAt (g.warp.one b).toNat == j := hp.mono fun j hj => decide_eq_true (beq_iff_eq.mp hj).symm
  apply WritesScalar.of_retire
  rw [exec_vmovs, execVmovs, issueCross_admits _ h hon]
  refine congrArg (fun r => g.retires s (.vmovs d a b) ((g.warp.begin (Instr.vmovs d a b).uses).writeScal d r)) ?_
  simp only [← Bool.or_eq_true]
  cases a <;> rfl

/-- Settles O8: without poison in the lanes read the instruction runs, with the source lane of 10 R206 or the vote of 10 R205. -/
theorem crossLaneResults : Obligations.CrossLaneResults := by
  unfold Obligations.CrossLaneResults
  exact ⟨fun s g i d a q hq h hp => shuffle_admits hq.exec_eq h hp,
    fun s g a b => ⟨fun d u h hp => vvote_admits h hp, fun d h hp => vmovs_admits h hp⟩⟩

end Sys2Proof.Machine

/-! PROOFS. The instructions whose only effect is one on the own state of the warp (spec 10 R210 to R213; 09 R175, R181; 03 R62). -/

namespace Sys2Proof.Machine

/-! ### What such an effect leaves alone -/

/-- A change of the warp that touches no latch, no loop register and no slice, and whose effect does not depend on the latches. -/
structure KeepsCourse (f : Warp → Warp) : Prop where
  latches : ∀ x, (f x).b = x.b
  counters : ∀ x, (f x).lc = x.lc
  starts : ∀ x, (f x).ls = x.ls
  ends : ∀ x, (f x).le = x.le
  slices : ∀ x, (f x).slices = x.slices
  still : ∀ x, (f x.noLatch).still = (f x).still

theorem KeepsCourse.begin_still {f : Warp → Warp} (h : KeepsCourse f) (x : Warp) (u : Uses) : (f (x.begin u)).still = (f x).still := by
  unfold Warp.begin
  split
  · rfl
  · exact h.still x

theorem WarpEffect.keepsCourse {m : Mach} {g : Issue} {i : Instr} {f : Warp → Warp} (h : WarpEffect m g i f) : KeepsCourse f := by
  cases h <;> exact ⟨fun _ => rfl, fun _ => rfl, fun _ => rfl, fun _ => rfl, fun _ => rfl, fun _ => rfl⟩

/-! ### Each instruction, admitted and with operands that it takes, retires with its effect -/

section
variable {s : State} {g : Issue} {i : Instr}

theorem setPart_admits {y : Mach → Issue → Word} (h : Admits s.m g i) (hy : (y s.m g).toNat ≤ 4) :
    setPart i y s = g.retires s i { g.warp.begin i.uses with part := (y s.m g).setWidth 16 } := by
  rw [setPart, issue_admits _ h, if_neg (Nat.not_lt.mpr hy)]
  rfl

/-- The path constant `4 p + e` is constant `e` of path `p`. -/
theorem setConst_admits {p e : Fin 4} {y : Mach → Issue → Word} (h : Admits s.m g i) (hm : g.warp.meld = none) :
    setConst i ⟨4 * p.val + e.val, by omega⟩ y s =
      g.retires s i { g.warp.begin i.uses with k := g.warp.k.put p ((g.warp.k.at p).put e (y s.m g)) } := by
  have hp : (⟨(4 * p.val + e.val) / 4, by omega⟩ : Fin 4) = p := Fin.ext (by simp only; omega)
  have he : (⟨(4 * p.val + e.val) % 4, by omega⟩ : Fin 4) = e := Fin.ext (by simp only; omega)
  rw [setConst, issueOperand_admits _ _ _ h (by simp only [hm, Option.isSome_none])]
  simp only [hp, he]
  rfl

/-- A SYSW of a register that asks for no grant and takes the value passes the tests at issue where the instruction is admitted. -/
theorem sysWrite_passes {n : Fin 128} {v : Word} (h : Admits s.m g i) (hn : n.val < 28) (hd : i.uses.denied = false)
    (hv : sysReserved n.val v = false) :
    s.m.badSysw g n v = false ∧ g.gate i { i.uses with denied := s.m.noGrant g n.val } = .pass := by
  have hg : s.m.noGrant g n.val = i.uses.denied := by simp [Mach.noGrant, hd, show ¬ 64 ≤ n.val by omega]
  refine ⟨?_, by rw [hg]; exact h.gate⟩
  rw [Mach.badSysw, if_neg (by omega), if_pos (by omega), hv]

theorem sysWrite_part {imm : Bool} {y : Mach → Issue → Word} (h : Admits s.m g i) (hd : i.uses.denied = false)
    (hy : (y s.m g).toNat ≤ 4) :
    sysWrite i 16 imm y s = g.retires s i { g.warp.begin i.uses with part := (y s.m g).setWidth 16 } := by
  obtain ⟨hbad, hgate⟩ := sysWrite_passes (n := 16) (v := y s.m g) h (by decide) hd (decide_eq_false (by omega))
  simp only [sysWrite, withIssuer, onMach, h.issues, Mach.issueChecked_pass _ _ _ hgate, hbad]
  rfl

theorem sysWrite_ften {imm : Bool} {y : Mach → Issue → Word} (h : Admits s.m g i) (hd : i.uses.denied = false)
    (hy : (y s.m g).toNat < 32) :
    sysWrite i 17 imm y s = g.retires s i { g.warp.begin i.uses with ften := y s.m g } := by
  obtain ⟨hbad, hgate⟩ := sysWrite_passes (n := 17) (v := y s.m g) h (by decide) hd (decide_eq_false (by omega))
  simp only [sysWrite, withIssuer, onMach, h.issues, Mach.issueChecked_pass _ _ _ hgate, hbad]
  rfl

/-- Two records of a region with the same saved EXEC, count and path of every lane are one. -/
theorem Meld.eq_of_path {r q : Meld} (hs : r.saved = q.saved) (hc : r.count = q.count)
    (hp : ∀ l, (r.path.at l).map (·.val) = (q.path.at l).map (·.val)) : r = q := by
  have e : r.path = q.path := Vector.ext fun l hl => Option.map_injective Fin.val_injective (hp ⟨l, hl⟩)
  cases r
  cases q
  simp only at hs hc e
  rw [hs, hc, e]

/-- The path of a lane: one bit of `m0`, and one of `m1` in a region of four paths (10 R211). -/
theorem meld_pathNumber (four : Bool) (m0 m1 : Word) (l : Nat) :
    2 * ((if four then m1 else 0).getLsbD l).toNat + (m0.getLsbD l).toNat =
      (if m0.getLsbD l then 1 else 0) + if four && m1.getLsbD l then 2 else 0 := by
  cases four with
  | false => cases m0.getLsbD l <;> simp
  | true =>
    simp only [if_true, Bool.true_and]
    cases m0.getLsbD l <;> cases m1.getLsbD l <;> rfl

theorem execMeld_admits {four : Bool} {a b : Src} {r : Meld} (h : Admits s.m g (.meld four a b)) (hg : g.ganged = true)
    (hs : r.saved = g.warp.exec) (hc : r.count = 0)
    (hp : ∀ l : Fin 32, (r.path.at l).map (·.val) = if g.warp.exec.getLsbD l.val
      then some ((if (g.warp.one a).getLsbD l.val then 1 else 0) + if four && (g.warp.one b).getLsbD l.val then 2 else 0) else none) :
    execMeld four a b s = g.retires s (.meld four a b) { g.warp.begin (Instr.meld four a b).uses with meld := some r } := by
  rw [execMeld, issue_admits _ h, hg]
  refine congrArg (fun r => g.retires s (.meld four a b) { g.warp.begin (Instr.meld four a b).uses with meld := some r })
    (Meld.eq_of_path hs.symm hc.symm ?_)
  intro l
  rw [hp, tab_at]
  by_cases hx : g.warp.exec.getLsbD l.val
  · simp only [if_pos hx, Option.map_some, meld_pathNumber]
  · simp only [if_neg hx, Option.map_none]

theorem execMtw_admits {d : Fin 64} {k : Fin 128} {p : Fin 4} {e : Fin 16} (h : Admits s.m g (.mtw d k)) (hm : g.warp.meld = none)
    (hk : (s.m.imm k).toNat = 16 * p.val + e.val) :
    execMtw d k s = g.retires s (.mtw d k)
      { g.warp.begin (Instr.mtw d k).uses with ren := g.warp.ren.put p ((g.warp.ren.at p).put e d) } := by
  have hp : (⟨(s.m.imm k).toNat / 16 % 4, by omega⟩ : Fin 4) = p := Fin.ext (by simp only; omega)
  have he : (⟨(s.m.imm k).toNat % 16, by omega⟩ : Fin 16) = e := Fin.ext (by simp only; omega)
  have hlt : ¬ 64 ≤ (s.m.imm k).toNat := by omega
  rw [execMtw, issue_admits _ h]
  simp only [hm, hp, he, hlt, Option.isSome_none, decide_false, Bool.or_self, Bool.false_eq_true, if_false]
  rfl

end

theorem WarpEffect.exec_eq {s : State} {g : Issue} {i : Instr} {f : Warp → Warp} (h : WarpEffect s.m g i f) (ha : Admits s.m g i) :
    exec i s = g.retires s i (f (g.warp.begin i.uses)) := by
  cases h with
  | setpart b hy => exact (exec_setpart ..).trans (setPart_admits ha hy)
  | setpartImm k hy => exact (exec_setpartImm ..).trans (setPart_admits ha hy)
  | meld four a b r hg hs hc hp => exact (exec_meld ..).trans (execMeld_admits ha hg hs hc hp)
  | melde r hr => simp only [exec_melde, execMelde, issue_admits _ ha, hr]; rfl
  | mtw d k p e hm hk => rw [exec_mtw, execMtw_admits ha hm hk]; simp only [Warp.begin_ren]
  | kset p e b hm => rw [exec_kset, execKset, setConst_admits ha hm]; simp only [Warp.begin_k]
  | ksetImm p e k hm => rw [exec_ksetImm, execKsetImm, setConst_admits ha hm]; simp only [Warp.begin_k]
  | part b hy => exact (exec_sysw ..).trans (sysWrite_part ha rfl hy)
  | partImm k hy => exact (exec_syswImm ..).trans (sysWrite_part ha rfl hy)
  | ften b hy => exact (exec_sysw ..).trans (sysWrite_ften ha rfl hy)
  | ftenImm k hy => exact (exec_syswImm ..).trans (sysWrite_ften ha rfl hy)
  | nop => rw [exec_nop, execNop, issue_admits _ ha]; rfl
  | yield hq => simp only [exec_yield, execYield, issue_admits _ ha, hq]; rfl

/-- Settles O9: each of these instructions retires with its effect, and no effect touches latches, loops or slices. -/
theorem warpEffects : Obligations.WarpEffects := by
  unfold Obligations.WarpEffects
  intro s g i f hf h
  have hk := hf.keepsCourse
  exact Changes.of_retire hk.latches hk.counters hk.starts hk.ends hk.slices (hk.begin_still ..) (hf.exec_eq h)

end Sys2Proof.Machine

/-! PROOFS. The in-flight counters (spec 14 R276). -/

namespace Sys2Proof.Machine

/-- An instruction that retires with a change of the kind of `KeepsCourse`, its effect having taken the machine to `m'`. -/
theorem KeepsCourse.acts {s : State} {g : Issue} {i : Instr} {m' : Mach} {f : Warp → Warp} (h : KeepsCourse f)
    (he : exec i s = .next { s with m := m'.retire g i (f (g.warp.begin i.uses)) }) : ∃ x, Acts s g i m' f x :=
  Acts.of_retire h.latches h.counters h.starts h.ends h.slices (h.begin_still ..) he

/-- A change of the scalar registers alone. -/
theorem KeepsCourse.scalars (h : Tab 32 Word → Tab 32 Word) : KeepsCourse fun x => { x with s := h x.s } :=
  ⟨fun _ => rfl, fun _ => rfl, fun _ => rfl, fun _ => rfl, fun _ => rfl, fun _ => rfl⟩

theorem KeepsCourse.unchanged : KeepsCourse id := .scalars id

theorem KeepsCourse.setS (d : Fin 32) (v : Word) : KeepsCourse fun x => x.setS d v := .scalars (·.put d v)

section
variable {s : State} {g : Issue}

theorem waitp_completes {p : Path} {a : Src} (h : AdmitsLast s.m g (.waitp p a))
    (hc : g.warp.pathCount p ≤ (g.warp.one a).toNat ∨ 255 ≤ (g.warp.one a).toNat) : ∃ x, Acts s g (.waitp p a) s.m id x :=
  KeepsCourse.unchanged.acts (by rw [exec_waitp, execWaitp, issueLast_admits _ h, if_pos hc]; rfl)

theorem waitp_waits {p : Path} {a : Src} (h : AdmitsLast s.m g (.waitp p a))
    (hc : ¬ (g.warp.pathCount p ≤ (g.warp.one a).toNat ∨ 255 ≤ (g.warp.one a).toNat)) : exec (.waitp p a) s = .next s := by
  rw [exec_waitp, execWaitp, issueLast_admits _ h, if_neg hc]

theorem cntr_completes {d : Fin 32} (h : AdmitsLast s.m g (.cntr d)) : ∃ x, Acts s g (.cntr d) s.m (fun y =>
    y.setS d (BitVec.ofNat 32 (g.warp.ifs + g.warp.ifg * 2 ^ 8 + g.warp.ift * 2 ^ 16 + g.warp.ife * 2 ^ 24))) x :=
  (KeepsCourse.setS d _).acts (by rw [exec_cntr, execCntr, issueLast_admits _ h])

end

/-- Settles O31: WAITP retires or stays by its one test, and CNTR retires with its one write. -/
theorem inFlightCounters : Obligations.InFlightCounters := by
  unfold Obligations.InFlightCounters
  exact fun s g => ⟨fun p a h => ⟨waitp_completes h, fun hlt h255 => waitp_waits h (by omega)⟩, fun d h => cntr_completes h⟩

end Sys2Proof.Machine

/-! PROOFS. The instructions that change or read the ranges of a context (spec 14 R284, R286; 13 R243, R255). -/

namespace Sys2Proof.Machine

/-! ### The range that holds an address, after a range is replaced in place -/

theorem findRange_append (a b : List RangeDesc) (x : Nat) : findRange (a ++ b) x = (findRange a x).or (findRange b x) :=
  List.find?_append

theorem findRange_singleton_map {β : Type} (F : RangeDesc → β) (r : RangeDesc) (x : Nat) :
    (findRange [r] x).map F = if r.baseg ≤ x / 2 ^ 16 ∧ x / 2 ^ 16 ≤ r.lastg then some (F r) else none := by
  simp only [findRange, List.find?_singleton, Bool.and_eq_true, decide_eq_true_eq, apply_ite (Option.map F), Option.map_some, Option.map_none]

theorem findRange_holds {rs : List RangeDesc} {r : RangeDesc} {x : Nat} (h : findRange rs x = some r) :
    r.baseg ≤ x / 2 ^ 16 ∧ x / 2 ^ 16 ≤ r.lastg := by
  have := List.find?_some h
  simpa only [Bool.and_eq_true, decide_eq_true_eq] using this

/-- What a lookup shows of a range stays where the ranges put in its place show the same: the replacement is made in place, so no other
range of the list comes to be found first. -/
theorem findRange_replaceRange_map {β : Type} (F : RangeDesc → β) {old : RangeDesc} {new : List RangeDesc} {x : Nat}
    (h : (findRange new x).map F = (findRange [old] x).map F) (rs : List RangeDesc) :
    (findRange (replaceRange rs old new) x).map F = (findRange rs x).map F := by
  induction rs with
  | nil => rfl
  | cons r rs ih =>
    have head : (findRange (if r = old then new else [r]) x).map F = (findRange [r] x).map F := by
      split
      · next e => rw [h, e]
      · rfl
    calc (findRange (replaceRange (r :: rs) old new) x).map F
        _ = (findRange ((if r = old then new else [r]) ++ replaceRange rs old new) x).map F := by rw [replaceRange, List.flatMap_cons, replaceRange]
        _ = (findRange ([r] ++ rs) x).map F := by rw [findRange_append, findRange_append, Option.map_or, Option.map_or, head, ih]

/-! ### RSPLIT, RMERGE and RPROT: the ranges after them -/

/-- An RSPLIT that succeeds puts two ranges, cut at the granule of its address, in the place of the one that holds it. -/
theorem splitRanges_succeeds {rs : List RangeDesc} {va : Nat} (h : (splitRanges rs va).1 = 0) :
    ∃ r, r.baseg < va / 2 ^ 16 ∧ va / 2 ^ 16 ≤ r.lastg ∧
      (splitRanges rs va).2 = replaceRange rs r [{ r with lastg := va / 2 ^ 16 - 1 }, { r with baseg := va / 2 ^ 16 }] := by
  unfold splitRanges at h ⊢
  cases hf : findRange rs va with
  | none => simp [hf] at h
  | some r =>
    obtain ⟨hb, hl⟩ := findRange_holds hf
    simp only [hf] at h ⊢
    split at h
    · cases h
    · next hne =>
      split at h
      · cases h
      · next hroom =>
        rw [if_neg hne, if_neg hroom]
        exact ⟨r, by omega, hl, rfl⟩

/-- The two parts of a range cut inside it hold the addresses that it held. -/
theorem findRange_cut_map {β : Type} (F : RangeDesc → β) {r : RangeDesc} {n x : Nat} (hF : ∀ b l, F { r with baseg := b, lastg := l } = F r)
    (hb : r.baseg < n) (hl : n ≤ r.lastg) :
    (findRange [{ r with lastg := n - 1 }, { r with baseg := n }] x).map F = (findRange [r] x).map F := by
  have hlow : F { r with lastg := n - 1 } = F r := hF r.baseg (n - 1)
  have hhigh : F { r with baseg := n } = F r := hF n r.lastg
  rw [← List.singleton_append, findRange_append, Option.map_or]
  simp only [findRange_singleton_map, hlow, hhigh]
  by_cases hx : x / 2 ^ 16 < n
  · rw [if_neg (c := n ≤ x / 2 ^ 16 ∧ _) (by omega), Option.or_none]
    exact if_congr (by omega) rfl rfl
  · rw [if_neg (c := r.baseg ≤ x / 2 ^ 16 ∧ x / 2 ^ 16 ≤ n - 1) (by omega), Option.none_or]
    exact if_congr (by omega) rfl rfl

/-- No address changes what its range shows, if that depends neither on where the range begins nor on where it ends. -/
theorem splitRanges_keeps {β : Type} (F : RangeDesc → β) (hF : ∀ r b l, F { r with baseg := b, lastg := l } = F r)
    {rs : List RangeDesc} {va : Nat} (x : Nat) (h : (splitRanges rs va).1 = 0) :
    (findRange (splitRanges rs va).2 x).map F = (findRange rs x).map F := by
  obtain ⟨r, hb, hl, e⟩ := splitRanges_succeeds h
  rw [e]
  exact findRange_replaceRange_map F (findRange_cut_map F (hF r) hb hl) rs

theorem splitRanges_refused {rs : List RangeDesc} {va : Nat} (h : (splitRanges rs va).1 ≠ 0) : (splitRanges rs va).2 = rs := by
  unfold splitRanges at h ⊢
  split
  · rfl
  · next r hf =>
    simp only [hf] at h
    split
    · rfl
    · next hne =>
      split
      · rfl
      · next hroom => simp [hne, hroom] at h

theorem mergeRanges_refused {rs : List RangeDesc} {va : Nat} (h : (mergeRanges rs va).1 ≠ 0) : (mergeRanges rs va).2 = rs := by
  unfold mergeRanges at h ⊢
  split
  · rfl
  · next r hf =>
    simp only [hf] at h
    split
    · rfl
    · next n hn =>
      simp only [hn] at h
      split
      · next heq => simp [heq] at h
      · rfl

theorem protRanges_refused {rs : List RangeDesc} {va y : Nat} (h : (protRanges rs va y).1 ≠ 0) : (protRanges rs va y).2 = rs := by
  unfold protRanges at h ⊢
  split
  · rfl
  · next r hf => simp [hf] at h

/-- 14 R284: a change of ranges that is refused, its status not 0, leaves them as they are. -/
theorem RangeChange.refused {g : Issue} {i : Instr} {d : Fin 32} {st : Nat} {rs : List RangeDesc} (hc : RangeChange g i d st rs)
    (h : st ≠ 0) : rs = g.ctx.ranges := by
  cases hc with
  | rsplit => exact splitRanges_refused h
  | rmerge => exact mergeRanges_refused h
  | rprot => exact protRanges_refused h

/-- Admitted, each of the three retires with the ranges and the status that its table gives. -/
theorem RangeChange.exec_eq {s : State} {g : Issue} {i : Instr} {d : Fin 32} {st : Nat} {rs : List RangeDesc}
    (hc : RangeChange g i d st rs) (h : AdmitsLast s.m g i) :
    exec i s = .next { s with m := (s.m.withRanges g rs).retire g i ((g.warp.begin i.uses).setS d (BitVec.ofNat 32 st)) } := by
  cases hc with
  | rsplit => rw [exec_rsplit, execRsplit, issueLast_admits _ h]; rfl
  | rmerge => rw [exec_rmerge, execRmerge, issueLast_admits _ h]; rfl
  | rprot a b hb =>
    rw [exec_rprot, execRprot, issueOperand_admits _ _ _ h.toAdmits (decide_eq_false (by omega)), if_pos (by simp only [h.alone, List.isEmpty_nil])]
    rfl

/-! ### RPROBE: eight words in eight scalar registers -/

/-- The first `n` words of a number, written to the scalar registers from `d`. -/
def putWords (t : Tab 32 Word) (d : Fin 32) (v : Nat) : Nat → Tab 32 Word
  | 0 => t
  | n + 1 => (putWords t d v n).put ⟨(d.val + n) % 32, by omega⟩ (BitVec.ofNat 32 (v / 2 ^ (32 * n)))

/-- The writes of `Warp.setOct`, gathered in the one field that they change. -/
theorem Warp.setOct_eq (x : Warp) (d : Fin 32) (v : Nat) : x.setOct d v = { x with s := putWords x.s d v 8 } := by
  have writes (n : Nat) : (List.range n).foldl (fun x k => x.setS ⟨(d.val + k) % 32, by omega⟩ (BitVec.ofNat 32 (v / 2 ^ (32 * k)))) x =
      { x with s := putWords x.s d v n } := by
    induction n with
    | zero => rfl
    | succ n ih => rw [List.range_succ, List.foldl_append, ih]; rfl
  exact writes 8

theorem putWords_at_named (t : Tab 32 Word) (d : Fin 32) (v : Nat) {n k : Nat} (hn : n ≤ 32) (hk : k < n) :
    (putWords t d v n).at ⟨(d.val + k) % 32, by omega⟩ = BitVec.ofNat 32 (v / 2 ^ (32 * k)) := by
  induction n with
  | zero => omega
  | succ n ih =>
    rw [putWords, Tab.put_at]
    by_cases e : k = n
    · rw [e, if_pos rfl]
    · rw [if_neg (by simp only [Fin.mk.injEq]; omega), ih (by omega) (by omega)]

theorem putWords_at_other (t : Tab 32 Word) (d : Fin 32) (v : Nat) {n : Nat} {j : Fin 32} (hj : ∀ k < n, j.val ≠ (d.val + k) % 32) :
    (putWords t d v n).at j = t.at j := by
  induction n with
  | zero => rfl
  | succ n ih =>
    rw [putWords, Tab.put_at, if_neg fun e => hj n (by omega) (congrArg Fin.val e), ih fun k hk => hj k (by omega)]

theorem KeepsCourse.setOct (d : Fin 32) (v : Nat) : KeepsCourse fun x => x.setOct d v := by
  simp only [Warp.setOct_eq]
  exact .scalars (putWords · d v 8)

/-- `v` stays a variable: with the image of the descriptor in its place, the kernel unfolds that number and all its powers of 2. -/
theorem rprobe_completes {s : State} {g : Issue} {d : Fin 32} {a : Src} {v : Nat} (h : AdmitsLast s.m g (.rprobe d a))
    (hv : ((findRange g.ctx.ranges (g.warp.pair a)).map RangeDesc.image).getD 0 = v) :
    ∃ x, Acts s g (.rprobe d a) s.m (fun y => y.setOct d v) x := by
  refine (KeepsCourse.setOct d v).acts ?_
  rw [exec_rprobe, execRprobe, issueLast_admits _ h]
  cases hf : findRange g.ctx.ranges (g.warp.pair a) with
  | none =>
    rw [hf, Option.map_none, Option.getD_none] at hv
    simp only [hv]
  | some r =>
    rw [hf, Option.map_some, Option.getD_some] at hv
    simp only [hv]

/-- The scalar registers after an instruction are those of its effect on the warp. -/
theorem Acts.s_eq {s : State} {g : Issue} {i : Instr} {m' : Mach} {f : Warp → Warp} {x : Warp} (h : Acts s g i m' f x) : x.s = (f g.warp).s :=
  (congrArg Warp.s h.frame : x.still.s = (f g.warp).still.s)

/-- Settles O35: the three changes retire with what their tables give, RPROBE with its eight writes, and a split range is replaced in place by
two that together hold its addresses. -/
theorem rangeChanges : Obligations.RangeChanges := by
  unfold Obligations.RangeChanges
  refine ⟨fun s g i d st rs hc h => ⟨(KeepsCourse.setS d _).acts (hc.exec_eq h), hc.refused⟩, ?_,
    fun rs va x h => splitRanges_keeps _ (fun _ _ _ => rfl) x h⟩
  intro s g d a v h hv
  obtain ⟨x, hx⟩ := rprobe_completes h hv
  refine ⟨x, hx, fun k => ?_, fun n hn => ?_⟩
  · rw [hx.s_eq, Warp.setOct_eq]
    exact putWords_at_named _ _ _ (by decide) k.isLt
  · rw [hx.s_eq, Warp.setOct_eq]
    exact putWords_at_other _ _ _ fun k hk => hn ⟨k, hk⟩

end Sys2Proof.Machine

/-! PROOFS. The scalar instructions, the mask instructions and their results (spec 09 R158, R160, R162, R176, R177; 10 R213). -/

namespace Sys2Proof.Machine

/-! ### Each table of scalar results is that of the machine's operations -/

section
variable {i : Instr} {d : SDst} {a b : Src} {k : Fin 128} {r : Mach → Issue → Word} {s : State}

theorem scal2_eq_scalarOp {op : Word → Word → Word} (h : ∀ m g, r m g = op (g.warp.one a) (g.warp.one b)) :
    scal2 i d a b op s = scalarOp i d r s := by
  obtain rfl : r = fun _ g => op (g.warp.one a) (g.warp.one b) := funext₂ h
  rfl

theorem scalI_eq_scalarOp {op : Word → Word → Word} (h : ∀ m g, r m g = op (g.warp.one a) (m.imm k)) :
    scalI i d a k op s = scalarOp i d r s := by
  obtain rfl : r = fun m g => op (g.warp.one a) (m.imm k) := funext₂ h
  rfl

/-- The lanes that SSEL asks for (09 R162). -/
theorem Issue.anyCm_iff (g : Issue) : g.anyCm = true ↔ ∃ l, g.active l = true ∧ g.warp.cm.getLsbD l.val = true := by
  simp only [Issue.anyCm, List.any_eq_true, g.mem_lanes]

theorem ScalarResult.exec_eq (h : ScalarResult i d r) : exec i s = scalarOp i d r s := by
  cases h with
  | sadd => exact (exec_sadd ..).trans (scal2_eq_scalarOp fun _ _ => spec_add ..)
  | saddImm => exact (exec_saddImm ..).trans (scalI_eq_scalarOp fun _ _ => spec_add ..)
  | ssub => exact (exec_ssub ..).trans (scal2_eq_scalarOp fun _ _ => spec_sub ..)
  | smul => exact (exec_smul ..).trans (scal2_eq_scalarOp fun _ _ => spec_mul ..)
  | smulImm => exact (exec_smulImm ..).trans (scalI_eq_scalarOp fun _ _ => spec_mul ..)
  | smulh => exact (exec_smulh ..).trans (scal2_eq_scalarOp fun _ _ => spec_mulh ..)
  | smulhU => exact (exec_smulhU ..).trans (scal2_eq_scalarOp fun _ _ => spec_mulhU ..)
  | sand => exact (exec_sand ..).trans (scal2_eq_scalarOp fun _ _ => rfl)
  | sandImm => exact (exec_sandImm ..).trans (scalI_eq_scalarOp fun _ _ => rfl)
  | sor => exact (exec_sor ..).trans (scal2_eq_scalarOp fun _ _ => rfl)
  | sorImm => exact (exec_sorImm ..).trans (scalI_eq_scalarOp fun _ _ => rfl)
  | sxor => exact (exec_sxor ..).trans (scal2_eq_scalarOp fun _ _ => rfl)
  | sxorImm => exact (exec_sxorImm ..).trans (scalI_eq_scalarOp fun _ _ => rfl)
  | sshl => exact (exec_sshl ..).trans (scal2_eq_scalarOp fun _ _ => spec_shl ..)
  | sshlImm => exact (exec_sshlImm ..).trans (scalI_eq_scalarOp fun _ _ => spec_shl ..)
  | ssrl => exact (exec_ssrl ..).trans (scal2_eq_scalarOp fun _ _ => spec_srl ..)
  | ssrlImm => exact (exec_ssrlImm ..).trans (scalI_eq_scalarOp fun _ _ => spec_srl ..)
  | ssra => exact (exec_ssra ..).trans (scal2_eq_scalarOp fun _ _ => spec_sra ..)
  | ssraImm => exact (exec_ssraImm ..).trans (scalI_eq_scalarOp fun _ _ => spec_sra ..)
  | smin => exact (exec_smin ..).trans (scal2_eq_scalarOp fun _ _ => spec_min ..)
  | sminU => exact (exec_sminU ..).trans (scal2_eq_scalarOp fun _ _ => spec_minU ..)
  | smax => exact (exec_smax ..).trans (scal2_eq_scalarOp fun _ _ => spec_max ..)
  | smaxU => exact (exec_smaxU ..).trans (scal2_eq_scalarOp fun _ _ => spec_maxU ..)
  | smov => rw [exec_smov, execSmov]
  | sli => rw [exec_sli, execSli]
  | ssel => simp only [exec_ssel, execSsel, Issue.anyCm_iff]

end

/-! ### Scalar pairs -/

/-- A pair takes the low 64 bits of a number. -/
theorem Warp.setPair_mod (x : Warp) (d : Fin 32) (v : Nat) : x.setPair d (v % 2 ^ 64) = x.setPair d v := by
  have hlo : BitVec.ofNat 32 (v % 2 ^ 64) = BitVec.ofNat 32 v := BitVec.eq_of_toNat_eq (by simp only [BitVec.toNat_ofNat]; omega)
  have hhi : BitVec.ofNat 32 (v % 2 ^ 64 / 2 ^ 32) = BitVec.ofNat 32 (v / 2 ^ 32) :=
    BitVec.eq_of_toNat_eq (by simp only [BitVec.toNat_ofNat]; omega)
  rw [Warp.setPair, Warp.setPair, hlo, hhi]

/-- Adding a sign-extended word to a number, mod 2^64. -/
theorem add_signExtend_mod (n : Nat) (w : Word) : (n + (w.signExtend 64).toNat) % 2 ^ 64 = (((n : Int) + w.toInt) % 2 ^ 64).toNat := by
  have h : ((w.signExtend 64).toNat : Int) = w.toInt % 2 ^ 64 := by
    rw [BitVec.signExtend, BitVec.toNat_ofInt, Int.toNat_of_nonneg (Int.emod_nonneg _ (by decide))]
    rfl
  omega

theorem PairResult.admits {s : State} {g : Issue} {i : Instr} {d : Fin 32} {r : Mach → Issue → Nat} (hr : PairResult i d r)
    (h : Admits s.m g i) : ∃ x, WritesPair s g i d (r s.m g) x := by
  apply WritesPair.of_retire
  cases hr with
  | saddD => rw [exec_saddD, execSaddD, issue_admits _ h, Warp.setPair_mod]
  | saddDImm => rw [exec_saddDImm, execSaddDImm, issue_admits _ h, ← Warp.setPair_mod, add_signExtend_mod]

/-! ### Masks read into a scalar register -/

theorem topBits_brev (v : Word) : topBits (brev v) = (List.finRange 32).map fun l => v.getLsbD l.val := by
  refine List.ext_getElem (by simp [topBits]) fun n hn _ => ?_
  have hn : n < 32 := by simpa [topBits] using hn
  simp only [topBits, brev, List.getElem_map, List.getElem_range, List.getElem_finRange, Fin.cast_mk]
  rw [laneMask_bit _ ⟨31 - n, by omega⟩, show 31 - (31 - n) = n by omega]

/-- The place of the first entry that satisfies `p` is the number of entries before it. -/
theorem length_takeWhile_not {α : Type} (p : α → Bool) (l : List α) : (l.takeWhile fun x => !p x).length = l.findIdx p := by
  rw [List.takeWhile_eq_take_findIdx_not, List.length_take]
  simp only [Bool.not_not]
  exact Nat.min_eq_left List.findIdx_le_length

theorem find?_finRange_getD (n : Nat) (p : Fin n → Bool) :
    (((List.finRange n).find? p).map Fin.val).getD n = (List.finRange n).findIdx p := by
  rw [List.find?_eq_getElem?_findIdx]
  have h : (List.finRange n).findIdx p ≤ n := by simpa using List.findIdx_le_length (p := p) (xs := List.finRange n)
  rcases Nat.lt_or_eq_of_le h with hlt | heq
  · rw [List.getElem?_eq_getElem (by simpa using hlt)]
    simp
  · rw [heq, List.getElem?_eq_none (by simp)]
    rfl

/-- The lowest set bit of a mask is the number of zeros above the highest one of its reversal (09 R177). -/
theorem clz_brev (v : Word) :
    clz (brev v) = Spec.word ((((List.finRange 32).find? fun l => v.getLsbD l.val).map fun l => (l.val : Int)).getD 32) := by
  have h : ((((List.finRange 32).find? fun l => v.getLsbD l.val).map fun l => (l.val : Int)).getD 32) =
      (((((List.finRange 32).find? fun l => v.getLsbD l.val).map Fin.val).getD 32 : Nat) : Int) := by
    cases (List.finRange 32).find? fun l => v.getLsbD l.val <;> rfl
  rw [h, find?_finRange_getD, clz, topBits_brev, List.takeWhile_map, List.length_map]
  simp only [Function.comp_def, length_takeWhile_not]
  simp only [Spec.word, BitVec.ofInt_natCast]

theorem MaskRead.exec_eq {s : State} {i : Instr} {d : SDst} {r : Issue → Word} (h : MaskRead i d r) :
    exec i s = scalarOp i d (fun _ g => r g) s := by
  cases h with
  | msave => rw [exec_msave, execMsave]
  | mpop => simp only [exec_mpop, execMpop, spec_popc]
  | mfirst => simp only [exec_mfirst, execMfirst, clz_brev]

theorem mtr_admits {s : State} {g : Issue} {d : SDst} {a : Src} {p : Fin 4} {e : Fin 16} (h : Admits s.m g (.mtr d a))
    (ha : (g.warp.one a).toNat % 64 = 16 * p.val + e.val) :
    ∃ x, WritesScalar s g (.mtr d a) d (Spec.word ((g.warp.ren.at p).at e).val) x := by
  have hp : (⟨(g.warp.one a).toNat / 16 % 4, by omega⟩ : Fin 4) = p := Fin.ext (by simp only; omega)
  have he : (⟨(g.warp.one a).toNat % 16, by omega⟩ : Fin 16) = e := Fin.ext (by simp only; omega)
  apply WritesScalar.of_retire
  rw [exec_mtr, execMtr, issue_admits _ h]
  simp only [hp, he, Spec.word, BitVec.ofInt_natCast]

/-- Settles O5: each scalar instruction and each read of a mask is `scalarOp` with the result of its table; the sums of 64 bits are those of the
pair mod 2^64, and MTR reads the entry whose number its operand gives. -/
theorem scalarResults : Obligations.ScalarResults := by
  unfold Obligations.ScalarResults
  exact ⟨fun _ _ _ _ _ hr h => scalarOp_admits hr.exec_eq h, fun _ _ _ _ _ hr h => hr.admits h,
    fun _ _ _ _ _ hr h => scalarOp_admits hr.exec_eq h, fun _ _ _ _ _ _ h ha => mtr_admits h ha⟩

/-! ### Mask instructions that write a mask -/

theorem MaskResult.admits {s : State} {g : Issue} {i : Instr} {k : MaskName} {on c : Issue → Fin 32 → Bool} (hr : MaskResult i k on c)
    (h : Admits s.m g i) : ∃ x, WritesMask s g i k (on g) (c g) x := by
  cases hr with
  | mrest => exact maskOp_admits (exec_mrest ..) h
  | mand => exact maskOp_admits (exec_mand ..) h
  | mor => exact maskOp_admits (exec_mor ..) h
  | mandn => exact maskOp_admits (exec_mandn ..) h
  | mxor => exact maskOp_admits (exec_mxor ..) h
  | mset => exact WritesMask.of_retire (by rw [exec_mset, execMset, issue_admits _ h])

/-- Settles O7: the mask instructions are `maskOp` with the operation of their table, MSET writes the bits of its source. -/
theorem maskWrites : Obligations.MaskWrites := by
  unfold Obligations.MaskWrites
  exact fun _ _ _ _ _ _ hr h => hr.admits h

end Sys2Proof.Machine

/-! PROOFS. Float, conversion, reduction and block-float instructions (spec 10 R194 to R202, R208, R209; 05 R89). -/

namespace Sys2Proof.Machine

/-! ### Each float instruction is `floatOp` with the result of its table -/

section
variable {s : State} {i : Instr} {d : Dst} {r : Mach → Issue → Fin 32 → Nat × Exc}

theorem FloatResult.exec_eq (h : FloatResult i d r) : exec i s = floatOp i d r s := by
  cases h <;> rfl

theorem SpecialFunction.exec_eq (h : SpecialFunction i d r) : exec i s = floatOp i d r s := by
  cases h <;> rfl

theorem Conversion.exec_eq (h : Conversion i d r) : exec i s = floatOp i d r s := by
  cases h <;> rfl

theorem Reduction.exec_eq (h : Reduction i d r) : exec i s = floatOp i d r s := by
  cases h <;> rfl

theorem RaisesFloat.exec_eq (h : RaisesFloat i d r) : exec i s = floatOp i d r s := by
  rcases h with h | h | h | h
  · exact h.exec_eq
  · exact h.exec_eq
  · exact h.exec_eq
  · exact h.exec_eq

end

/-! ### The record of an enabled exception -/

/-- The number of an exception set, bit by bit. -/
theorem Exc.bits_testBit (e : Exc) (b : Nat) : e.bits.testBit b =
    match b with | 0 => e.iv | 1 => e.dz | 2 => e.of | 3 => e.uf | 4 => e.ix | _ => false := by
  obtain ⟨iv, dz, of, uf, ix⟩ := e
  match b with
  | 0 => cases iv <;> cases dz <;> cases of <;> cases uf <;> cases ix <;> rfl
  | 1 => cases iv <;> cases dz <;> cases of <;> cases uf <;> cases ix <;> rfl
  | 2 => cases iv <;> cases dz <;> cases of <;> cases uf <;> cases ix <;> rfl
  | 3 => cases iv <;> cases dz <;> cases of <;> cases uf <;> cases ix <;> rfl
  | 4 => cases iv <;> cases dz <;> cases of <;> cases uf <;> cases ix <;> rfl
  | n + 5 =>
    have hlt : Exc.bits ⟨iv, dz, of, uf, ix⟩ < 2 ^ 5 := by cases iv <;> cases dz <;> cases of <;> cases uf <;> cases ix <;> decide
    exact Nat.testBit_lt_two_pow (hlt.trans_le (Nat.pow_le_pow_right (by decide) (by omega)))

theorem Exc.or_bits_testBit (a b : Exc) (n : Nat) : (a.or b).bits.testBit n = (a.bits.testBit n || b.bits.testBit n) := by
  simp only [Exc.bits_testBit, Exc.or]
  split <;> rfl

/-- What the active lanes raise together is what each of them raises. -/
theorem Issue.excs_bits_testBit (g : Issue) (f : Fin 32 → Exc) (n : Nat) :
    (g.excs f).bits.testBit n = g.lanes.any fun l => (f l).bits.testBit n := by
  have h (l : List (Fin 32)) (a : Exc) :
      (l.foldl (fun e k => e.or (f k)) a).bits.testBit n = (a.bits.testBit n || l.any fun k => (f k).bits.testBit n) := by
    induction l generalizing a with
    | nil => simp
    | cons k t ih => simp only [List.foldl_cons, ih, Exc.or_bits_testBit, List.any_cons, Bool.or_assoc]
  rw [Issue.excs, h, show Exc.none.bits = 0 from rfl, Nat.zero_testBit, Bool.false_or]

/-- The lowest active lane that satisfies `p`. -/
theorem Issue.find?_lanes {g : Issue} {p : Fin 32 → Bool} {k : Fin 32} (ha : g.active k = true) (hp : p k = true)
    (hmin : ∀ l, g.active l = true → p l = true → k ≤ l) : g.lanes.find? p = some k := by
  have hs : g.lanes.Pairwise (· < ·) := List.Pairwise.filter _ (List.pairwise_lt_finRange 32)
  have hk : k ∈ g.lanes := (g.mem_lanes k).mpr ha
  obtain ⟨j, hj⟩ := Option.isSome_iff_exists.mp (List.find?_isSome.mpr ⟨k, hk, hp⟩)
  obtain ⟨hjp, before, after, hl, hnot⟩ := List.find?_eq_some_iff_append.mp hj
  have hkj : k ≤ j := hmin j ((g.mem_lanes j).mp (List.mem_of_find?_eq_some hj)) hjp
  -- `k` satisfies `p`, so it does not stand before `j`; the lanes ascend, so it does not stand after it.
  rw [hl] at hk hs
  rcases List.mem_append.mp hk with hb | hb
  · exact absurd hp (by simpa using hnot k hb)
  rcases List.mem_cons.mp hb with rfl | hb
  · exact hj
  · exact absurd ((List.pairwise_cons.mp (List.pairwise_append.mp hs).2.1).1 k hb) (not_lt.mpr hkj)

theorem unlessFloat_traps {m : Mach} {g : Issue} {i : Instr} {f : Fin 32 → Exc} {k : Fin 32} {m' : Mach} (ha : g.active k = true)
    (ht : (f k).traps g.warp.ften = true) (hmin : ∀ l, g.active l = true → (f l).traps g.warp.ften = true → k ≤ l) :
    m.unlessFloat g i f m' = m.trap g i { TrapRec.of 0x21 with fex := (g.excs f).bits, lane := k.val } := by
  have h : (g.excs f).traps g.warp.ften = true := by
    rw [Issue.excs_traps, List.any_eq_true]
    exact ⟨k, (g.mem_lanes k).mpr ha, ht⟩
  rw [Mach.unlessFloat, if_pos h, Issue.floatTrap, Issue.find?_lanes (p := fun l => (f l).traps g.warp.ften) ha ht hmin]
  rfl

/-- Settles O2: every instruction of the four tables is `floatOp`, which retires with its results if no enabled exception is raised, and
else traps with the record of all that were. -/
theorem floatResults : Obligations.FloatResults := by
  unfold Obligations.FloatResults
  refine ⟨fun s g i d r hr h hq => floatOp_quiet hr.exec_eq h hq, fun s g i d r k hr h ha ht hmin => ?_⟩
  refine ⟨(g.excs fun l => (r s.m g l).2).bits, ?_, fun b => ?_⟩
  · rw [hr.exec_eq, floatOp, issue_admits _ h, unlessFloat_traps ha ht hmin]
  · simp only [Issue.excs_bits_testBit, List.any_eq_true, g.mem_lanes]

/-! ### Block floats -/

theorem vqnt_quiet {s : State} {g : Issue} {d : Dst} {a : Src} {k : Fin 128} {w : Nat} (hw : (s.m.imm k).toNat = w) (h2 : 2 ≤ w) (h8 : w ≤ 8)
    (h : Admits s.m g (.vqnt d a k)) (hq : (bfpQuantise w (g.block a)).2.2.traps g.warp.ften = false) :
    ∃ x, WritesLanes s g (.vqnt d a k) d (fun l =>
      BitVec.ofInt 32 ((bfpQuantise w (g.block a)).1 * 2 ^ 24 + (bfpQuantise w (g.block a)).2.1.getD l.val 0 % 256)) x := by
  subst hw
  apply WritesLanes.of_retire
  rw [exec_vqnt, execVqnt, issueOperand_admits _ _ _ h (decide_eq_false (by omega))]
  exact congrArg (fun m => Host.Outcome.next { s with m := m }) (unlessFloat_quiet fun _ _ => hq)

theorem vdqnt_admits {s : State} {g : Issue} {d : Dst} {a : Src} {k : Fin 128} {w : Nat} (hw : (s.m.imm k).toNat = w) (h2 : 2 ≤ w) (h8 : w ≤ 8)
    (h : Admits s.m g (.vdqnt d a k)) :
    ∃ x, WritesLanes s g (.vdqnt d a k) d (fun l =>
      BitVec.ofNat 32 (F32.pattern (bfpVal w ((g.warp.src a l).toNat / 2 ^ 24) (sextNat (g.warp.src a l).toNat w)))) x := by
  subst hw
  apply WritesLanes.of_retire
  rw [exec_vdqnt, execVdqnt, issueOperand_admits _ _ _ h (decide_eq_false (by omega))]

/-- Settles O3: with a width from 2 to 8 neither traps for its operand, and the mantissas and values are those of the block. -/
theorem blockFloatResults : Obligations.BlockFloatResults := by
  unfold Obligations.BlockFloatResults
  exact fun s g d a k w hw h2 h8 => ⟨fun h hq => vqnt_quiet hw h2 h8 h hq, fun h => vdqnt_admits hw h2 h8 h⟩

end Sys2Proof.Machine

/-! PROOFS. Transfers of the whole gang and hardware loops (spec 09 R163 to R171). -/

namespace Sys2Proof.Machine

/-- The machine's target of a branch is that of 09 R163. -/
theorem relTarget_eq (pc : Nat) (o : BitVec 16) : relTarget pc o = Spec.target pc o := rfl

section
variable {s : State} {g : Issue}

theorem jumpTo_even {m : Mach} {i : Instr} {x : Warp} {pc : Nat} (h : pc % 2 = 0) : m.jumpTo g i x (pc % 2 ^ 48) = m.retireTo g i x pc := by
  have hodd : ¬ pc % 2 ^ 48 % 2 = 1 := by omega
  have hpc : ∀ y : Warp, y.setPc g.gang (pc % 2 ^ 48) = y.setPc g.gang pc := by
    intro y
    simp only [Warp.setPc, Nat.mod_mod]
  rw [Mach.jumpTo, if_neg hodd, Mach.retireTo, Mach.retireTo, hpc]

theorem bra_jumps {o : BitVec 16} (hm : g.warp.meld = none ∨ 0 < o.toInt) (h : Admits s.m g (.bra o)) :
    ∃ x, Jumps s g (.bra o) (Spec.target g.pc o) id x := by
  have hno : (g.warp.meld.isSome && decide (o.toInt ≤ 0)) = false := by
    rcases hm with hm | hm
    · rw [hm, Option.isSome_none, Bool.false_and]
    · rw [decide_eq_false (by omega), Bool.and_false]
  refine Jumps.of_retireTo rfl (by simp) (by simp) (Warp.begin_still ..) ?_
  rw [exec_bra, execBra, issue_admits _ h, hno]
  rfl

theorem jmp_jumps {x : Fin 32} (hx : g.warp.pair (.s x) % 2 = 0) (h : Admits s.m g (.jmp x)) :
    ∃ y, Jumps s g (.jmp x) (g.warp.pair (.s x)) id y :=
  Jumps.of_retireTo rfl (by simp) (by simp) (Warp.begin_still ..) (by rw [exec_jmp, execJmp, issue_admits _ h, jumpTo_even hx]; rfl)

theorem ret_jumps {x : Fin 32} (hx : g.warp.pair (.s x) % 2 = 0) (h : Admits s.m g (.ret x)) :
    ∃ y, Jumps s g (.ret x) (g.warp.pair (.s x)) id y :=
  Jumps.of_retireTo rfl (by simp) (by simp) (Warp.begin_still ..) (by rw [exec_ret, execRet, issue_admits _ h, jumpTo_even hx]; rfl)

theorem call_jumps {o : BitVec 16} {x : Fin 32} (h : Admits s.m g (.call o x)) :
    ∃ y, Jumps s g (.call o x) (Spec.target g.pc o) (fun y => y.setPair x ((g.pc + 4) % 2 ^ 48)) y :=
  Jumps.of_retireTo rfl (by simp [Warp.setPair]) (by simp [Warp.setPair]) rfl (by rw [exec_call, execCall, issue_admits _ h, relTarget_eq])

/-- A LOOP sets the registers of its level, whatever its count (09 R169). -/
def Warp.loopRegs (g : Issue) (o : BitVec 16) (l : Fin 3) (n : Word) (y : Warp) : Warp :=
  { y with ls := y.ls.put l ((g.pc + 4) % 2 ^ 48), le := y.le.put l (Spec.target g.pc o), lc := y.lc.put l n }

theorem skip_jumps {o : BitVec 16} {x : Fin 32} {l : Fin 3} (hx : g.warp.s.at x = 0) (h : Admits s.m g (.loop o x l)) :
    ∃ y, Jumps s g (.loop o x l) (Spec.target g.pc o) (Warp.loopRegs g o l 0) y := by
  refine Jumps.of_retireTo rfl (by simp [Warp.loopRegs]) (by simp [Warp.loopRegs]) rfl ?_
  rw [exec_loop, execLoop, issue_admits _ h]
  simp only [hx, relTarget_eq, if_true]
  rfl

theorem lbrk_jumps {x : Fin 32} {l : Fin 3} (hl : x.val = l.val) (hc : g.warp.lc.at l ≠ 0) (h : Admits s.m g (.lbrk x)) :
    ∃ y, Jumps s g (.lbrk x) (g.warp.le.at l) (fun y =>
      { y with lc := tab fun k => if y.ls.at l ≤ y.ls.at k ∧ y.ls.at k < y.le.at l then 0 else y.lc.at k }) y := by
  have he : (⟨x.val % 3, by omega⟩ : Fin 3) = l := Fin.ext (by simp only; omega)
  have hlc : ∀ k : Fin 3, (if g.warp.lc.at k ≠ 0 ∧ g.warp.ls.at l ≤ g.warp.ls.at k ∧ g.warp.ls.at k < g.warp.le.at l then 0 else g.warp.lc.at k) =
      if g.warp.ls.at l ≤ g.warp.ls.at k ∧ g.warp.ls.at k < g.warp.le.at l then 0 else g.warp.lc.at k := by
    intro k
    by_cases h0 : g.warp.lc.at k = 0
    · simp only [h0, ite_self]
    · simp only [ne_eq, h0, not_false_eq_true, true_and]
  refine Jumps.of_retireTo rfl (by simp) (by simp) rfl ?_
  rw [exec_lbrk, execLbrk, issue_admits _ h]
  simp only [he, if_neg hc, hlc, Warp.begin_ls, Warp.begin_le, Warp.begin_lc]

theorem Transfer.admits {i : Instr} {pc : Nat} {f : Warp → Warp} (ht : Transfer g i pc f) (h : Admits s.m g i) : ∃ x, Jumps s g i pc f x := by
  cases ht with
  | bra o hm => exact bra_jumps hm h
  | jmp x hx => exact jmp_jumps hx h
  | ret x hx => exact ret_jumps hx h
  | call o x => exact call_jumps h
  | skip o x l hx => exact skip_jumps hx h
  | lbrk x l hl hc => exact lbrk_jumps hl hc h

theorem loop_enters {o : BitVec 16} {x : Fin 32} {l : Fin 3} (hx : g.warp.s.at x ≠ 0) (h : Admits s.m g (.loop o x l)) :
    ∃ y, EntersLoop s g o x l y := by
  let i := Instr.loop o x l
  let y := Warp.loopRegs g o l (g.warp.s.at x) (g.warp.begin i.uses)
  refine ⟨(y.settle i.uses (s.m.trapPc g) g.gang).goOn g.gang (g.pc + i.size), ⟨?_, ?_, ?_, ?_⟩⟩
  · rw [exec_loop, execLoop, issue_admits _ h]
    simp only [if_neg hx]
    rfl
  · exact GoesOn.of_settle (g := { g with warp := g.loopSet o x l }) i _ (by simp [y, Warp.loopRegs, Issue.loopSet])
      (by simp [y, Warp.loopRegs, Issue.loopSet]) (by simp [y, Warp.loopRegs, Issue.loopSet]) (by simp [y, Warp.loopRegs, Issue.loopSet])
  · refine (goOn_b (g := { g with warp := g.loopSet o x l }) i _ (by simp [y, Warp.loopRegs, Issue.loopSet])
      (by simp [y, Warp.loopRegs, Issue.loopSet])).trans ?_
    rw [show i.uses.ending = true from rfl, Bool.or_true, if_pos rfl]
  · rw [Warp.goOn_still, Warp.settle_still]
    rfl

end

/-- Settles O10: each transfer retires at its target, a LOOP of a count that is not 0 retires with its level set. -/
theorem transfers : Obligations.Transfers := by
  unfold Obligations.Transfers
  exact ⟨fun s g i pc f ht h => ht.admits h, fun s g o x l hx h => loop_enters hx h⟩

end Sys2Proof.Machine

/-! PROOFS. Instructions after which each slice of the gang has an outcome of its own (spec 03 R48 to R50; 09 R165, R166). -/

namespace Sys2Proof.Machine

/-! ### Only the outcomes of the gang's slices matter -/

section
variable {g : Issue} {o p : Fin 8 → Outcome}

theorem Issue.mem_slices (g : Issue) (j : Fin 8) : j ∈ g.slices ↔ g.inGang j := by
  simp only [Issue.slices, List.mem_filter, List.mem_finRange, true_and]

theorem Issue.newGang_congr (h : ∀ j, g.inGang j → o j = p j) {j : Fin 8} (hj : g.inGang j) : g.newGang o j = g.newGang p j := by
  have hf : (g.slices.find? fun k => decide ((o k).pc = (o j).pc) && decide ((o k).moves = (o j).moves)) =
      g.slices.find? fun k => decide ((p k).pc = (p j).pc) && decide ((p k).moves = (p j).moves) :=
    List.find?_congr fun k hk => by rw [h k ((g.mem_slices k).mp hk), h j hj]
  rw [Issue.newGang, Issue.newGang, hf]

theorem Issue.gangCount_congr (h : ∀ j, g.inGang j → o j = p j) : g.gangCount o = g.gangCount p := by
  have hm : (fun j : Fin 8 => if g.gang.getLsbD j.val then g.newGang o j else (g.warp.slices.at j).gang) =
      fun j => if g.gang.getLsbD j.val then g.newGang p j else (g.warp.slices.at j).gang :=
    funext fun j => ite_congr rfl (Issue.newGang_congr h) fun _ => rfl
  rw [Issue.gangCount, Issue.gangCount, hm]

theorem Issue.mergeExec_congr (h : ∀ j, g.inGang j → o j = p j) : g.mergeExec o = g.mergeExec p :=
  congrArg laneMask (funext fun l => ite_congr rfl (fun hl => by rw [h (sliceOf l) hl]) fun _ => rfl)

/-- The gang of a slice is that of another exactly if their outcomes agree: it is the lowest slice with that outcome. -/
theorem Issue.newGang_eq_iff (o : Fin 8 → Outcome) {j k : Fin 8} (hj : g.inGang j) (hk : g.inGang k) :
    g.newGang o j = g.newGang o k ↔ (o j).pc = (o k).pc ∧ (o j).moves = (o k).moves := by
  have found : ∀ l, g.inGang l → ∃ a, g.newGang o l = a.val ∧ (o a).pc = (o l).pc ∧ (o a).moves = (o l).moves := by
    intro l hl
    have hs : (g.slices.find? fun k => decide ((o k).pc = (o l).pc) && decide ((o k).moves = (o l).moves)).isSome :=
      List.find?_isSome.mpr ⟨l, (g.mem_slices l).mpr hl, by simp⟩
    obtain ⟨a, ha⟩ := Option.isSome_iff_exists.mp hs
    have hp := List.find?_some ha
    simp only [Bool.and_eq_true, decide_eq_true_eq] at hp
    exact ⟨a, by rw [Issue.newGang, ha]; rfl, hp⟩
  constructor
  · intro h
    obtain ⟨a, ha, hap, ham⟩ := found j hj
    obtain ⟨b, hb, hbp, hbm⟩ := found k hk
    obtain rfl : a = b := Fin.ext (by omega)
    exact ⟨hap.symm.trans hbp, ham.symm.trans hbm⟩
  · rintro ⟨hp, hm⟩
    obtain ⟨a, ha, -, -⟩ := found j hj
    have hf : (g.slices.find? fun l => decide ((o l).pc = (o j).pc) && decide ((o l).moves = (o j).moves)) =
      g.slices.find? fun l => decide ((o l).pc = (o k).pc) && decide ((o l).moves = (o k).moves) := by rw [hp, hm]
    have hs : (g.slices.find? fun l => decide ((o l).pc = (o k).pc) && decide ((o l).moves = (o k).moves)).isSome :=
      List.find?_isSome.mpr ⟨k, (g.mem_slices k).mpr hk, by simp⟩
    obtain ⟨b, hb⟩ := Option.isSome_iff_exists.mp hs
    rw [Issue.newGang, Issue.newGang, hf, hb]
    rfl

end

/-! ### What a parting leaves -/

/-- The loop end of a parting (09 R170): taken once, if some slice of the gang goes on. -/
def Issue.partEnd (g : Issue) (o : Fin 8 → Outcome) (y : Warp) : Nat × Warp :=
  match g.slices.find? fun j => !(o j).moves with
  | some j => y.afterEnd (o j).pc
  | none => (0, y)

/-- The warp of a parting after its loop end. -/
def Issue.partWarp (g : Issue) (o : Fin 8 → Outcome) (z : Nat × Warp) : Warp :=
  { z.2 with
    exec := g.mergeExec o
    slices := tab fun j =>
      if g.gang.getLsbD j.val then
        { z.2.slices.at j with pc := (if (o j).moves then (o j).pc else z.1) % 2 ^ 48, stack := (o j).stack, gang := g.newGang o j }
      else z.2.slices.at j }

theorem Mach.part_eq (m : Mach) (g : Issue) (i : Instr) (x : Warp) (o : Fin 8 → Outcome) :
    m.part g i x o = { m.setWarp g (g.partWarp o (g.partEnd o (x.settle i.uses (m.trapPc g) g.gang))) with unit := none } := rfl

theorem Mach.part_congr {m : Mach} {g : Issue} {i : Instr} {x : Warp} {o p : Fin 8 → Outcome} (h : ∀ j, g.inGang j → o j = p j) :
    m.part g i x o = m.part g i x p := by
  have hend (y : Warp) : g.partEnd o y = g.partEnd p y := by
    have hf : (g.slices.find? fun j => !(o j).moves) = g.slices.find? fun j => !(p j).moves :=
      List.find?_congr fun j hj => by rw [h j ((g.mem_slices j).mp hj)]
    rw [Issue.partEnd, Issue.partEnd, hf]
    split
    · next j hj => rw [h j ((g.mem_slices j).mp (List.mem_of_find?_eq_some hj))]
    · rfl
  have hwarp (z : Nat × Warp) : g.partWarp o z = g.partWarp p z := by
    rw [Issue.partWarp, Issue.partWarp, Issue.mergeExec_congr h]
    refine congrArg (fun sl => ({ z.2 with exec := g.mergeExec p, slices := tab sl } : Warp)) (funext fun j => ?_)
    refine ite_congr rfl (fun hj => ?_) fun _ => rfl
    rw [Issue.newGang_congr h hj, h j hj]
  rw [Mach.part_eq, Mach.part_eq, hend, hwarp]

theorem Mach.branch_congr {m : Mach} {g : Issue} {i : Instr} {o p : Fin 8 → Outcome} (h : ∀ j, g.inGang j → o j = p j) :
    m.branch g i o = m.branch g i p := by
  have hany : (g.slices.any fun j => decide (m.stackDepth g < (o j).stack.length)) =
      g.slices.any fun j => decide (m.stackDepth g < (p j).stack.length) :=
    Bool.eq_iff_iff.mpr (by
      simp only [List.any_eq_true]
      exact exists_congr fun j => and_congr_right fun hj => by rw [h j ((g.mem_slices j).mp hj)])
  rw [Mach.branch, Mach.branch, Issue.gangCount_congr h, hany, Mach.part_congr h]

/-- The slices that do not transfer control go to the instruction's next address. -/
def Issue.fallsTo (g : Issue) (i : Instr) (o : Fin 8 → Outcome) : Prop := ∀ j, g.inGang j → (o j).moves = false → (o j).pc = g.after i

section
variable {g : Issue} {i : Instr} {o : Fin 8 → Outcome} {y : Warp}

/-- Either some slice goes on and the end of a loop body applies, or nothing changes. -/
theorem Issue.partEnd_cases (hf : g.fallsTo i o) :
    ((∃ j, g.inGang j ∧ (o j).moves = false) ∧ g.partEnd o y = y.afterEnd (g.after i)) ∨
    ((∀ j, g.inGang j → (o j).moves = true) ∧ g.partEnd o y = (0, y)) := by
  unfold Issue.partEnd
  cases h : g.slices.find? fun j => !(o j).moves with
  | some j =>
    have hm : (o j).moves = false := by simpa using List.find?_some h
    have hj : g.inGang j := (g.mem_slices j).mp (List.mem_of_find?_eq_some h)
    exact .inl ⟨⟨j, hj, hm⟩, by simp only [hf j hj hm]⟩
  | none =>
    rw [List.find?_eq_none] at h
    exact .inr ⟨fun j hj => by simpa using h j ((g.mem_slices j).mpr hj), rfl⟩

theorem Issue.partEnd_slices : (g.partEnd o y).2.slices = y.slices := by
  unfold Issue.partEnd
  split
  · exact Warp.afterEnd_slices ..
  · rfl

theorem Issue.partEnd_still : (g.partEnd o y).2.still = y.still := by
  unfold Issue.partEnd
  split
  · exact Warp.afterEnd_still ..
  · rfl

theorem Issue.partEnd_b (hy : y.b = emptyLatches) : (g.partEnd o y).2.b = emptyLatches := by
  unfold Issue.partEnd
  split
  · rw [Warp.afterEnd_b, hy]
    split
    · exact ite_self _
    · rfl
  · exact hy

end

/-- The PC after a loop end, and the counters, are those of 09 R170. -/
theorem Warp.afterEnd_nextPc {g : Issue} {i : Instr} {y : Warp} (hlc : y.lc = g.warp.lc) (hls : y.ls = g.warp.ls) (hle : y.le = g.warp.le) :
    (y.afterEnd (g.after i)).1 = g.nextPc i := by
  rw [Warp.afterEnd_pc, Warp.loopEnd_congr hlc hle, hlc, hls]
  rfl

theorem Warp.afterEnd_nextLc {g : Issue} {i : Instr} {y : Warp} (hlc : y.lc = g.warp.lc) (hle : y.le = g.warp.le) :
    (y.afterEnd (g.after i)).2.lc = g.nextLc i := by
  rw [Warp.afterEnd_lc, Warp.loopEnd_congr hlc hle, hlc]
  rfl

/-- A frame of a warp survives a change of EXEC and of the slices. -/
theorem Warp.still_with_slices {x y : Warp} (h : x.still = y.still) (e : BitVec 32) (sl : Tab 8 Slice) :
    ({ x with exec := e, slices := sl } : Warp).still = ({ y with exec := e, slices := sl } : Warp).still :=
  congrArg (fun w : Warp => { w with exec := e, slices := tab fun j => { sl.at j with pc := 0 } }) h

theorem Issue.partWarp_lc (g : Issue) (o : Fin 8 → Outcome) (z : Nat × Warp) : (g.partWarp o z).lc = z.2.lc := by simp only [Issue.partWarp]

theorem Issue.partWarp_b (g : Issue) (o : Fin 8 → Outcome) (z : Nat × Warp) : (g.partWarp o z).b = z.2.b := by simp only [Issue.partWarp]

theorem Issue.partWarp_still {g : Issue} {o : Fin 8 → Outcome} {z : Nat × Warp} {y : Warp} (h : z.2.still = y.still) :
    (g.partWarp o z).still = ({ y with exec := (g.partWarp o z).exec, slices := (g.partWarp o z).slices } : Warp).still := by
  have hw : g.partWarp o z = { z.2 with exec := (g.partWarp o z).exec, slices := (g.partWarp o z).slices } := by simp only [Issue.partWarp]
  generalize (g.partWarp o z).exec = e, (g.partWarp o z).slices = sl at hw ⊢
  rw [hw, Warp.still_with_slices h]

/-- What a parting of the settled warp `y` answers. -/
theorem Parts.of_settled {s : State} {g : Issue} {i : Instr} {o : Fin 8 → Outcome} {y : Warp} (hf : g.fallsTo i o)
    (he : exec i s = .next (s.withWarp g (g.partWarp o (g.partEnd o y)))) (hslices : y.slices = g.warp.slices) (hlc : y.lc = g.warp.lc)
    (hls : y.ls = g.warp.ls) (hle : y.le = g.warp.le) (hb : y.b = emptyLatches)
    (hstill : y.still = g.warp.still) : Parts s g i o (g.partWarp o (g.partEnd o y)) where
  answers := he
  pcs j := by
    simp only [Issue.partWarp, tab_at, Issue.partEnd_slices, hslices]
    by_cases hj : g.gang.getLsbD j.val
    · simp only [hj, if_true]
      by_cases hm : (o j).moves
      · simp only [hm, if_true]
      · rcases Issue.partEnd_cases (y := y) hf with ⟨-, h⟩ | ⟨h, -⟩
        · rw [h, Warp.afterEnd_nextPc hlc hls hle]
          simp [hm]
        · exact absurd (h j hj) hm
    · simp only [hj]
      rfl
  entries j := by
    simp only [Issue.partWarp, tab_at, Issue.partEnd_slices, hslices]
    split <;> rfl
  execs l := by simp only [Issue.partWarp, Issue.mergeExec, laneMask_bit]
  gangs j k hj hk := by
    have hj' : g.gang.getLsbD j.val = true := hj
    have hk' : g.gang.getLsbD k.val = true := hk
    simp only [Issue.partWarp, tab_at, hj', hk', if_true]
    exact Issue.newGang_eq_iff o hj hk
  others j hj := by
    have hj' : ¬ g.gang.getLsbD j.val = true := hj
    simp only [Issue.partWarp, tab_at, Issue.partEnd_slices, hslices, if_neg hj']
  loops := by
    rcases Issue.partEnd_cases (y := y) hf with ⟨h, he⟩ | ⟨h, he⟩
    · rw [if_pos h, Issue.partWarp_lc, he]
      exact Warp.afterEnd_nextLc hlc hle
    · rw [if_neg fun ⟨j, hj, hm⟩ => Bool.noConfusion ((h j hj).symm.trans hm), Issue.partWarp_lc, he]
      exact hlc
  latches := by rw [Issue.partWarp_b, Issue.partEnd_b hb]
  frame := Issue.partWarp_still (Issue.partEnd_still.trans hstill)

theorem Parts.of_part {s : State} {g : Issue} {i : Instr} {o : Fin 8 → Outcome} (hend : i.uses.ending = true) (hf : g.fallsTo i o)
    (he : exec i s = .next { s with m := s.m.part g i (g.warp.begin i.uses) o }) : ∃ x, Parts s g i o x := by
  have hb : ((g.warp.begin i.uses).settle i.uses (s.m.trapPc g) g.gang).b = emptyLatches := by rw [Warp.settle_b, hend]; rfl
  have hstill : ((g.warp.begin i.uses).settle i.uses (s.m.trapPc g) g.gang).still = g.warp.still := by
    rw [Warp.settle_still, Warp.begin_still]
  rw [Mach.part_eq] at he
  exact ⟨_, Parts.of_settled hf he (by simp) (by simp) (by simp) (by simp) hb hstill⟩

/-! ### A branch or switch -/

section
variable {s : State} {g : Issue} {i : Instr} {o p : Fin 8 → Outcome}

theorem branch_parts (hend : i.uses.ending = true) (he : exec i s = .next { s with m := s.m.branch g i o }) (hf : g.fallsTo i o)
    (hfits : g.fits s.m o) : ∃ x, Parts s g i o x := by
  obtain ⟨hg, hs⟩ := hfits
  refine Parts.of_part hend hf ?_
  have hany : ¬ (g.slices.any fun j => decide (s.m.stackDepth g < (o j).stack.length)) = true := by
    simp only [List.any_eq_true, decide_eq_true_eq, not_exists, not_and]
    exact fun j hj => Nat.not_lt.mpr (hs j ((g.mem_slices j).mp hj))
  rw [he, Mach.branch, if_neg (Nat.not_lt.mpr hg), if_neg hany]

theorem branch_traps_gangs {m : Mach} (h : m.gangLimit g < g.gangCount o) : m.branch g i o = m.trap g i (TrapRec.of 0x24) := if_pos h

theorem branch_traps_stack {m : Mach} (hg : g.gangCount o ≤ m.gangLimit g) (hs : ∃ j, g.inGang j ∧ m.stackDepth g < (o j).stack.length) :
    m.branch g i o = m.trap g i (TrapRec.of 0x23) := by
  obtain ⟨j, hj, hlt⟩ := hs
  rw [Mach.branch, if_neg (Nat.not_lt.mpr hg), if_pos (List.any_eq_true.mpr ⟨j, (g.mem_slices j).mpr hj, decide_eq_true hlt⟩)]

/-- The three ends of a branch whose slices have the outcomes `o`. -/
theorem branch_ends (hend : i.uses.ending = true) (he : exec i s = .next { s with m := s.m.branch g i p })
    (ho : ∀ j, g.inGang j → o j = p j) (hf : g.fallsTo i o) :
    (g.fits s.m o → ∃ x, Parts s g i o x) ∧
    (s.m.gangLimit g < g.gangCount o → exec i s = .next { s with m := s.m.trap g i (TrapRec.of 0x24) }) ∧
    (g.gangCount o ≤ s.m.gangLimit g → (∃ j, g.inGang j ∧ s.m.stackDepth g < (o j).stack.length) →
      exec i s = .next { s with m := s.m.trap g i (TrapRec.of 0x23) }) := by
  rw [← Mach.branch_congr ho] at he
  refine ⟨branch_parts hend he hf, fun h => ?_, fun hg hs => ?_⟩
  · rw [he, branch_traps_gangs h]
  · rw [he, branch_traps_stack hg hs]

/-! ### BRC and BRC.N -/

/-- The lanes that take a conditional branch are among the active ones, so that those that stay are none exactly if all take it. -/
theorem takers_all (a c : BitVec 4) : a &&& ~~~(a &&& c) = 0 ↔ a &&& c = a := by
  revert a c
  decide

theorem lowestBit_and {a t : BitVec 4} {p : Fin 4} (hp : a.getLsbD p.val = true) (hmin : ∀ k : Fin 4, k < p → a.getLsbD k.val = false) :
    lowestBit a &&& t = 0 ↔ t.getLsbD p.val = false := by
  revert a t p
  decide

/-- A set of lanes that is not empty has a lowest one. -/
theorem exists_lowest {a : BitVec 4} (h : a ≠ 0) : ∃ p : Fin 4, a.getLsbD p.val = true ∧ ∀ k : Fin 4, k < p → a.getLsbD k.val = false := by
  revert a
  decide

theorem BrcOutcome.eq_brcSlice {off : BitVec 16} {want : Bool} {j : Fin 8} {q : Outcome} (h : BrcOutcome g off want j q) :
    q = g.brcSlice off 4 want j := by
  obtain ⟨hnone, hall, hsome⟩ := h
  have ht : g.takers want j = g.sliceActive j &&&
      (if want then BitVec.ofNat 4 (g.warp.cm.toNat / 2 ^ (4 * j.val)) else ~~~BitVec.ofNat 4 (g.warp.cm.toNat / 2 ^ (4 * j.val))) := rfl
  have ha : g.execOf j = g.sliceActive j := rfl
  rw [ha] at hall hsome
  unfold Issue.brcSlice
  simp only [← ht]
  by_cases h0 : g.takers want j = 0
  · rw [if_pos h0, hnone h0]
    rfl
  have hiff : g.sliceActive j &&& ~~~g.takers want j = 0 ↔ g.takers want j = g.sliceActive j := by
    rw [ht]
    exact takers_all ..
  rw [if_neg h0]
  by_cases h1 : g.takers want j = g.sliceActive j
  · rw [if_pos (hiff.mpr h1), hall h0 h1]
    rfl
  rw [if_neg (mt hiff.mp h1)]
  have hne : g.sliceActive j ≠ 0 := fun e => h0 (by rw [ht, e]; exact BitVec.zero_and)
  obtain ⟨p, hp, hmin⟩ := exists_lowest hne
  rw [hsome h0 h1 p hp hmin]
  by_cases hb : (g.takers want j).getLsbD p.val
  · rw [if_pos hb, if_neg (by rw [lowestBit_and hp hmin, hb]; decide)]
    rfl
  · rw [if_neg hb, if_pos ((lowestBit_and hp hmin).mpr (by simpa using hb))]
    rfl

theorem BrcOutcome.falls {off : BitVec 16} {want : Bool} {j : Fin 8} {q : Outcome} (h : BrcOutcome g off want j q)
    (hm : q.moves = false) : q.pc = g.pc + 4 := by
  obtain ⟨hnone, hall, hsome⟩ := h
  by_cases h0 : g.takers want j = 0
  · rw [hnone h0]
  by_cases h1 : g.takers want j = g.execOf j
  · rw [hall h0 h1] at hm
    cases hm
  have hne : g.execOf j ≠ 0 := fun e => h0 (by rw [Issue.takers, e]; exact BitVec.zero_and)
  obtain ⟨p, hp, hmin⟩ := exists_lowest hne
  rw [hsome h0 h1 p hp hmin] at hm ⊢
  split at hm
  · cases hm
  · next hb => rw [if_neg hb]

/-- BRC and BRC.N, by the value of CM that they branch on. -/
theorem brc_eq_branch {off : BitVec 16} {want : Bool} (hi : i = if want then .brc off else .brcN off) (h : Admits s.m g i) :
    exec i s = .next { s with m := s.m.branch g i (g.brcSlice off 4 want) } := by
  subst hi
  cases want with
  | true => exact (exec_brc ..).trans (issue_admits _ h)
  | false => exact (exec_brcN ..).trans (issue_admits _ h)

/-- Settles O11: each slice has the outcome of `brcSlice`, and a branch parts the gang where there is room and else traps. -/
theorem conditionalBranches : Obligations.ConditionalBranches := by
  unfold Obligations.ConditionalBranches
  intro s g i off want o hi h ho
  have hend : i.uses.ending = true := by subst hi; cases want <;> rfl
  have hsize : i.size = 4 := by subst hi; cases want <;> rfl
  refine branch_ends hend (brc_eq_branch hi h) (fun j hj => (ho j hj).eq_brcSlice) fun j hj hm => ?_
  rw [(ho j hj).falls hm, Issue.after, hsize]

end

end Sys2Proof.Machine

/-! PROOFS. SWITCH (spec 09 R166). -/

namespace Sys2Proof.Machine

/-! ### The outcomes of a list of lanes, each once -/

section
variable {α β : Type} [DecidableEq α] [DecidableEq β]

/-- The members of a list that are the first of it with their value. -/
def firstsOf (f : α → β) (ls : List α) : List α := ls.filter fun l => decide ((ls.find? fun k => decide (f k = f l)) = some l)

/-- Leaving out the members of one value leaves the firsts of the others. -/
theorem firstsOf_filter (f : α → β) (b : β) (as : List α) :
    firstsOf f (as.filter fun l => decide (f l ≠ b)) =
      as.filter fun l => decide (f l ≠ b ∧ (as.find? fun k => decide (f k = f l)) = some l) := by
  rw [firstsOf, List.filter_filter]
  refine List.filter_congr fun l _ => ?_
  by_cases hb : f l = b
  · simp [hb]
  · have : (as.find? fun k => !decide (f k = b) && decide (f k = f l)) = as.find? fun k => decide (f k = f l) :=
      List.find?_congr fun k _ => by
        by_cases hk : f k = f l
        · simp [hk, hb]
        · simp [hk]
    rw [List.find?_filter]
    simp [hb, this]

theorem firstsOf_cons (f : α → β) {a : α} {as : List α} (h : (a :: as).Nodup) :
    firstsOf f (a :: as) = a :: firstsOf f (as.filter fun l => decide (f l ≠ f a)) := by
  have hne : a ∉ as := (List.nodup_cons.mp h).1
  rw [firstsOf_filter, firstsOf, List.filter_cons, if_pos (by simp)]
  refine congrArg (a :: ·) (List.filter_congr fun l hl => ?_)
  have hla : a ≠ l := fun e => hne (e ▸ hl)
  by_cases hf : f a = f l
  · simp [hf, hla]
  · simp [hf, Ne.symm hf]

theorem eraseDups_map [BEq β] [LawfulBEq β] (f : α → β) : ∀ (ls : List α), ls.Nodup → (ls.map f).eraseDups = (firstsOf f ls).map f
  | [], _ => rfl
  | a :: as, h => by
    have hshort : (as.filter fun l => decide (f l ≠ f a)).length < (a :: as).length :=
      Nat.lt_succ_of_le (List.length_filter_le ..)
    have hf : ((as.map f).filter fun b => !b == f a) = (as.filter fun l => decide (f l ≠ f a)).map f := by
      rw [List.filter_map]
      exact congrArg (List.map f) (List.filter_congr fun l _ => by by_cases e : f l = f a <;> simp [e])
    rw [List.map_cons, List.eraseDups_cons, hf, eraseDups_map f _ ((List.nodup_cons.mp h).2.filter _), firstsOf_cons f h,
      List.map_cons]
  termination_by ls => ls.length
  decreasing_by exact hshort

end

/-! ### The lanes of a slice -/

theorem lanesOf_eq (j : Fin 8) :
    lanesOf j = [⟨4 * j.val + 0, by omega⟩, ⟨4 * j.val + 1, by omega⟩, ⟨4 * j.val + 2, by omega⟩, ⟨4 * j.val + 3, by omega⟩] := by
  revert j
  decide

theorem lanesOf_nodup (j : Fin 8) : (lanesOf j).Nodup := (List.nodup_finRange 32).filter _

theorem bits4_lanesOf (j : Fin 8) (p : Fin 32 → Bool) : bits4 ((lanesOf j).filter p) = Spec.laneBits j p := by
  have hmod (k : Nat) (hk : k < 4) : (4 * j.val + k) % 4 = k := by omega
  rw [lanesOf_eq, Spec.laneBits, bits4]
  simp only [List.filter_cons, List.filter_nil]
  cases p ⟨4 * j.val + 0, by omega⟩ <;> cases p ⟨4 * j.val + 1, by omega⟩ <;> cases p ⟨4 * j.val + 2, by omega⟩ <;>
    cases p ⟨4 * j.val + 3, by omega⟩ <;> simp [hmod]

theorem Spec.laneBits_congr {j : Fin 8} {p q : Fin 32 → Bool} (h : ∀ l : Fin 32, l.val / 4 = j.val → p l = q l) :
    Spec.laneBits j p = Spec.laneBits j q := by
  have hk (k : Fin 4) : p ⟨4 * j.val + k.val, by omega⟩ = q ⟨4 * j.val + k.val, by omega⟩ := h _ (by simp only; omega)
  simp only [Spec.laneBits, hk]

theorem lanesOf_active (g : Issue) (j : Fin 8) :
    ((List.finRange 32).filter fun l => decide (l.val / 4 = j.val) && g.active l) = (lanesOf j).filter g.active := by
  rw [lanesOf, List.filter_filter]
  exact List.filter_congr fun l _ => by rw [Bool.and_comm]; simp [sliceOf, Fin.ext_iff]

/-! ### The outcome of a slice -/

theorem caseOf_eq (pc size : Nat) (cs : List SwCase) (x : Word) : Spec.caseOf pc size cs x = switchOutcome pc size cs x := by
  have hp : (fun c : SwCase => decide (x.toNat = c.v.val)) = fun c => decide (c.v.val = x.toNat) :=
    funext fun _ => decide_eq_decide.mpr eq_comm
  rw [Spec.caseOf, hp]
  rfl

section
variable {s : State} {g : Issue} {d : Fin 64} {cs : List SwCase} {j : Fin 8} {q : Outcome}

/-- The lanes of slice `j` with an outcome, as the model and as the spec collect them. -/
theorem bits4_active (g : Issue) (j : Fin 8) (p : Fin 32 → Bool) :
    bits4 (((lanesOf j).filter g.active).filter p) =
      Spec.laneBits j fun l => (decide (l.val / 4 = j.val) && g.active l) && p l := by
  rw [List.filter_filter, bits4_lanesOf]
  exact Spec.laneBits_congr fun l hl => by simp [hl, Bool.and_comm]

theorem bits4_active_all (g : Issue) (j : Fin 8) :
    bits4 ((lanesOf j).filter g.active) = Spec.laneBits j fun l => decide (l.val / 4 = j.val) && g.active l := by
  rw [bits4_lanesOf]
  exact Spec.laneBits_congr fun l hl => by simp [hl]

/-- Where each lane of a SWITCH goes. -/
def Issue.goes (g : Issue) (d : Fin 64) (cs : List SwCase) (l : Fin 32) : Nat × Bool :=
  switchOutcome g.pc (Instr.switch d cs).size cs (g.warp.src (.v d) l)

/-- The active lanes of slice `j` that go where `o` says, four bits. -/
def Issue.goers (g : Issue) (d : Fin 64) (cs : List SwCase) (j : Fin 8) (o : Nat × Bool) : BitVec 4 :=
  Spec.laneBits j fun l => (decide (l.val / 4 = j.val) && g.active l) && decide (g.goes d cs l = o)

/-- What a slice pushes for its lanes that go where `o` says. -/
def Issue.pushed (g : Issue) (d : Fin 64) (cs : List SwCase) (j : Fin 8) (o : Nat × Bool) : DivEntry :=
  ⟨.pending, o.1 % 2 ^ 48, g.goers d cs j o, Spec.laneBits j fun l => decide (l.val / 4 = j.val) && g.active l⟩

theorem switchSlice_idle (h : (lanesOf j).filter g.active = []) :
    g.switchSlice d cs (Instr.switch d cs).size j = g.keep j (g.pc + (Instr.switch d cs).size) false := by
  unfold Issue.switchSlice
  simp only [h]

/-- A slice goes with its lowest active lane, and pushes each other outcome once, in the order of its lanes. -/
theorem switchSlice_active {l0 : Fin 32} {ls : List (Fin 32)} (h : (lanesOf j).filter g.active = l0 :: ls) :
    g.switchSlice d cs (Instr.switch d cs).size j =
      { pc := (g.goes d cs l0).1, moves := (g.goes d cs l0).2, exec := g.goers d cs j (g.goes d cs l0)
        stack := ((firstsOf (g.goes d cs) (ls.filter fun l => decide (g.goes d cs l ≠ g.goes d cs l0))).map (g.goes d cs)).map (g.pushed d cs j) ++
          (g.warp.slices.at j).stack } := by
  have hgoers (o : Nat × Bool) : bits4 ((l0 :: ls).filter fun l => decide (g.goes d cs l = o)) = g.goers d cs j o :=
    h ▸ bits4_active g j _
  have hexec : (if (((l0 :: ls).map (g.goes d cs)).filter (· ≠ g.goes d cs l0)).isEmpty then bits4 (l0 :: ls)
      else bits4 ((l0 :: ls).filter fun k => decide (g.goes d cs k = g.goes d cs l0))) = g.goers d cs j (g.goes d cs l0) := by
    rw [← hgoers]
    split
    · next he =>
      rw [List.isEmpty_iff, List.filter_eq_nil_iff] at he
      rw [List.filter_eq_self.mpr fun l hl => by simpa using he _ (List.mem_map_of_mem hl)]
    · rfl
  have hfirsts : (l0 :: ls).filter (fun l => decide (g.goes d cs l ≠ g.goes d cs l0 ∧
      ((l0 :: ls).find? fun k => decide (g.goes d cs k = g.goes d cs l)) = some l)) =
      firstsOf (g.goes d cs) (ls.filter fun l => decide (g.goes d cs l ≠ g.goes d cs l0)) := by
    rw [← firstsOf_filter, List.filter_cons_of_neg (by simp)]
  have hpushed (l : Fin 32) : (⟨.pending, (g.goes d cs l).1 % 2 ^ 48, bits4 ((l0 :: ls).filter fun k => decide (g.goes d cs k = g.goes d cs l)),
      bits4 (l0 :: ls)⟩ : DivEntry) = g.pushed d cs j (g.goes d cs l) := by
    rw [hgoers, Issue.pushed, ← bits4_active_all, h]
  unfold Issue.switchSlice
  simp only [h]
  refine (Outcome.mk.injEq ..).mpr ⟨rfl, rfl, hexec, congrArg (· ++ _) ?_⟩
  rw [List.map_map]
  exact (congrArg (List.map _) hfirsts).trans (List.map_congr_left fun l _ => hpushed l)

/-- The outcome that the spec gives a slice is the one that the model computes. -/
theorem SwitchOutcome.eq_switchSlice (h : SwitchOutcome g d cs j q) : q = g.switchSlice d cs (Instr.switch d cs).size j := by
  have hout (l : Fin 32) : Spec.caseOf g.pc (Instr.switch d cs).size cs (g.warp.src (.v d) l) = g.goes d cs l := caseOf_eq ..
  unfold SwitchOutcome at h
  simp only [hout] at h
  rw [lanesOf_active, eraseDups_map _ _ ((lanesOf_nodup j).filter _)] at h
  cases hls : (lanesOf j).filter g.active with
  | nil =>
    rw [hls] at h
    rw [switchSlice_idle hls]
    exact h
  | cons l0 ls =>
    rw [hls, firstsOf_cons _ (hls ▸ (lanesOf_nodup j).filter _)] at h
    rw [switchSlice_active hls]
    exact h

theorem switchOutcome_falls {pc size : Nat} {x : Word} (h : (switchOutcome pc size cs x).2 = false) :
    (switchOutcome pc size cs x).1 = pc + size := by
  unfold switchOutcome at h ⊢
  split at h
  · cases h
  · rfl

theorem switchSlice_falls (h : (g.switchSlice d cs (Instr.switch d cs).size j).moves = false) :
    (g.switchSlice d cs (Instr.switch d cs).size j).pc = g.after (.switch d cs) := by
  cases hls : (lanesOf j).filter g.active with
  | nil =>
    rw [switchSlice_idle hls]
    rfl
  | cons l0 ls =>
    rw [switchSlice_active hls] at h ⊢
    exact switchOutcome_falls h

/-- Settles O12: each slice has the outcome of `switchSlice`, and a branch parts the gang where there is room and else traps. -/
theorem switches : Obligations.Switches := by
  unfold Obligations.Switches
  intro s g d cs o h ho
  refine branch_ends rfl ((exec_switch ..).trans (issue_admits _ h)) (fun j hj => (ho j hj).eq_switchSlice) fun j hj hm => ?_
  rw [(ho j hj).eq_switchSlice] at hm ⊢
  exact switchSlice_falls hm

end

end Sys2Proof.Machine

/-! PROOFS. REGANG (spec 03 R50 to R52, 09 R172). -/

namespace Sys2Proof.Machine

/-! ### The issuing gang -/

section
variable {m : Mach} {g : Issue} (h : m.issuer = some g)
include h

/-- The gang of its lead: the live slices of the lead's gang number that wait nowhere. -/
theorem issuer_gang : ∃ lead : Fin 8, g.inGang lead ∧ g.pc = (g.warp.slices.at lead).pc ∧
    ∀ j, g.inGang j ↔ g.live.getLsbD j.val = true ∧ (g.warp.slices.at j).gang = (g.warp.slices.at lead).gang ∧
      (g.warp.slices.at j).wait = .none := by
  unfold Mach.issuer at h
  split at h
  · cases h
  next team _ =>
  split at h
  case h_2 => cases h
  next warp ctx _ _ =>
  split at h
  case isFalse => cases h
  next hlt =>
  dsimp only at h
  split at h
  case isFalse => cases h
  next hc =>
  cases h
  have hgang (j : Fin 8) : (gangOf team m.turn.w warp ⟨m.turn.slice, hlt⟩).getLsbD j.val = true ↔
      liveSlice team.tlanes m.turn.w j.val = true ∧ (warp.slices.at j).gang = (warp.slices.at ⟨m.turn.slice, hlt⟩).gang ∧
        (warp.slices.at j).wait = .none := by
    rw [gangOf, sliceMask_bit]
    simp only [Bool.and_eq_true, decide_eq_true_eq, and_assoc]
  refine ⟨⟨m.turn.slice, hlt⟩, ?_, rfl, fun j => ?_⟩
  · rw [Issue.inGang, hgang]
    simp only [Bool.and_eq_true, decide_eq_true_eq] at hc
    obtain ⟨⟨-, hlive⟩, hwait⟩ := hc
    exact ⟨hlive, rfl, hwait⟩
  · rw [Issue.inGang, hgang, Issue.live, sliceMask_bit]

theorem gang_exists : ∃ j, g.inGang j := by
  obtain ⟨lead, hl, -⟩ := issuer_gang h
  exact ⟨lead, hl⟩

theorem gang_live {j : Fin 8} (hj : g.inGang j) : g.live.getLsbD j.val = true := by
  obtain ⟨_, -, -, hgang⟩ := issuer_gang h
  exact ((hgang j).mp hj).1

theorem gang_waitsNot {j : Fin 8} (hj : g.inGang j) : (g.warp.slices.at j).wait = .none := by
  obtain ⟨_, -, -, hgang⟩ := issuer_gang h
  exact ((hgang j).mp hj).2.2

end

/-! ### The warp after its slices have taken their stacks -/

theorem Issue.partWarp_slice (g : Issue) (o : Fin 8 → Outcome) (z : Nat × Warp) (j : Fin 8) :
    (g.partWarp o z).slices.at j =
      if g.gang.getLsbD j.val then
        { z.2.slices.at j with pc := (if (o j).moves then (o j).pc else z.1) % 2 ^ 48, stack := (o j).stack, gang := g.newGang o j }
      else z.2.slices.at j := by
  simp only [Issue.partWarp, tab_at]

/-- The warp that a REGANG settles. -/
def Issue.settled (g : Issue) (m : Mach) (i : Instr) : Warp := (g.warp.begin i.uses).settle i.uses (m.trapPc g) g.gang

theorem Issue.regangOut_pc (g : Issue) (j : Fin 8) : (g.regangOut j).pc = (g.regang j).1.getD g.pc := rfl

theorem Issue.regangOut_moves (g : Issue) (j : Fin 8) : (g.regangOut j).moves = (g.regang j).1.isSome := rfl

/-- REGANG parts its gang as a branch does, but takes no loop end: slices that rejoin stay at the instruction. -/
theorem regangWarp_eq (g : Issue) (m : Mach) (i : Instr) : g.regangWarp m i = g.partWarp g.regangOut (g.pc, g.settled m i) := by
  have hpc (j : Fin 8) : (g.regangOut j).pc = if (g.regangOut j).moves then (g.regangOut j).pc else g.pc := by
    rw [Issue.regangOut_pc, Issue.regangOut_moves]
    cases (g.regang j).1 <;> rfl
  unfold Issue.regangWarp Issue.partWarp
  simp only [← hpc]
  rfl

/-- What a warp keeps of its slices' stacks and of everything else once REGANG has taken the stacks, wherever slices wait. -/
structure TakesStacks (g : Issue) (z : Warp) : Prop where
  pcs : ∀ j, (z.slices.at j).pc = if g.gang.getLsbD j.val then ((g.regang j).1.getD g.pc) % 2 ^ 48 else (g.warp.slices.at j).pc
  entries : ∀ j, (z.slices.at j).stack = if g.gang.getLsbD j.val then (g.regang j).2.2 else (g.warp.slices.at j).stack
  gangs : ∀ j, ¬ g.inGang j → (z.slices.at j).gang = (g.warp.slices.at j).gang
  execs : ∀ l : Fin 32, z.exec.getLsbD l.val =
    if g.gang.getLsbD (l.val / 4) then (g.regang (sliceOf l)).2.1.getLsbD (l.val % 4) else g.warp.exec.getLsbD l.val
  lc : z.lc = g.warp.lc
  ls : z.ls = g.warp.ls
  le : z.le = g.warp.le
  b : z.b = emptyLatches
  frame : z.still = ({ g.warp with exec := z.exec, slices := z.slices } : Warp).still

section
variable {s : State} {g : Issue} {i : Instr} {z : Warp} {on : Fin 8 → Bool}

theorem TakesStacks.regangWarp (g : Issue) (m : Mach) (hend : i.uses.ending = true) : TakesStacks g (g.regangWarp m i) := by
  have hb : (g.settled m i).b = emptyLatches := by rw [Issue.settled, Warp.settle_b, hend]; rfl
  have hstill : (g.settled m i).still = g.warp.still := by rw [Issue.settled, Warp.settle_still, Warp.begin_still]
  have hslices : (g.settled m i).slices = g.warp.slices := by simp [Issue.settled]
  rw [regangWarp_eq]
  refine
    { pcs := fun j => ?pcs, entries := fun j => ?entries, gangs := fun j hj => ?gangs, execs := fun l => ?execs, lc := ?lc, ls := ?ls
      le := ?le, b := ?b, frame := Issue.partWarp_still hstill }
  case pcs =>
    rw [Issue.partWarp_slice, hslices]
    split
    · rw [Issue.regangOut_pc, Issue.regangOut_moves]
      cases (g.regang j).1 <;> rfl
    · rfl
  case entries =>
    rw [Issue.partWarp_slice, hslices]
    split <;> rfl
  case gangs => rw [Issue.partWarp_slice, if_neg hj, hslices]
  case execs =>
    simp only [Issue.partWarp, Issue.mergeExec, laneMask_bit]
    rfl
  case lc => simp [Issue.partWarp, Issue.settled]
  case ls => simp [Issue.partWarp, Issue.settled]
  case le => simp [Issue.partWarp, Issue.settled]
  case b => rw [Issue.partWarp_b, hb]

theorem regangWarp_wait (g : Issue) (m : Mach) (i : Instr) (j : Fin 8) :
    ((g.regangWarp m i).slices.at j).wait = (g.warp.slices.at j).wait := by
  rw [regangWarp_eq, Issue.partWarp_slice, Issue.settled, Warp.settle_slices, Warp.begin_slices]
  split <;> rfl

/-- Some slices wait at the REGANG. -/
def Warp.waitAt (z : Warp) (on : Fin 8 → Bool) : Warp :=
  { z with slices := tab fun j => if on j then { z.slices.at j with wait := .regang } else z.slices.at j }

theorem Warp.waitAt_slice (z : Warp) (on : Fin 8 → Bool) (j : Fin 8) :
    (z.waitAt on).slices.at j = if on j then { z.slices.at j with wait := .regang } else z.slices.at j := by
  rw [Warp.waitAt, tab_at]

theorem Warp.waitAt_none (z : Warp) : z.waitAt (fun _ => false) = z := by
  have hs : (tab fun j => z.slices.at j) = z.slices := Vector.ext fun j hj => by simp [tab, Tab.at]
  simp only [Warp.waitAt, Bool.false_eq_true, if_false, hs]

theorem TakesStacks.waitAt (h : TakesStacks g z) (on : Fin 8 → Bool) : TakesStacks g (z.waitAt on) := by
  obtain ⟨pcs, entries, gangs, execs, lc, ls, le, b, frame⟩ := h
  refine
    { pcs := fun j => ?pcs, entries := fun j => ?entries, gangs := fun j hj => ?gangs, execs := execs, lc := lc, ls := ls
      le := le, b := b, frame := Warp.still_with_slices frame z.exec (z.waitAt on).slices }
  case pcs =>
    rw [← pcs, Warp.waitAt_slice]
    split <;> rfl
  case entries =>
    rw [← entries, Warp.waitAt_slice]
    split <;> rfl
  case gangs =>
    rw [← gangs j hj, Warp.waitAt_slice]
    split <;> rfl

/-! ### Slices that become one gang -/

theorem Warp.leadWithout_eq_iff (z : Warp) {j k : Fin 8} (hj : on j = false) (hk : on k = false) :
    z.leadWithout on j = z.leadWithout on k ↔ (z.slices.at j).gang = (z.slices.at k).gang := by
  have found (l : Fin 8) (hl : on l = false) : ∃ a : Fin 8, z.leadWithout on l = a.val ∧ (z.slices.at a).gang = (z.slices.at l).gang := by
    have hs : ((List.finRange 8).find? fun k => !on k && decide ((z.slices.at k).gang = (z.slices.at l).gang)).isSome :=
      List.find?_isSome.mpr ⟨l, List.mem_finRange l, by simp [hl]⟩
    obtain ⟨a, ha⟩ := Option.isSome_iff_exists.mp hs
    have hp := List.find?_some ha
    simp only [Bool.and_eq_true, decide_eq_true_eq] at hp
    exact ⟨a, by rw [Warp.leadWithout, ha]; rfl, hp.2⟩
  obtain ⟨a, ha, hag⟩ := found j hj
  obtain ⟨b, hb, hbg⟩ := found k hk
  constructor
  · intro h
    obtain rfl : a = b := Fin.ext (by omega)
    exact hag.symm.trans hbg
  · intro h
    have hs : ((List.finRange 8).find? fun l => !on l && decide ((z.slices.at l).gang = (z.slices.at k).gang)).isSome :=
      List.find?_isSome.mpr ⟨k, List.mem_finRange k, by simp [hk]⟩
    obtain ⟨c, hc⟩ := Option.isSome_iff_exists.mp hs
    rw [Warp.leadWithout, Warp.leadWithout, h, hc]
    rfl

theorem Warp.gather_slice (z : Warp) (on : Fin 8 → Bool) (q : Nat) (j : Fin 8) :
    (z.gather on q).slices.at j =
      if on j then { z.slices.at j with pc := (z.afterEnd q).1 % 2 ^ 48, gang := (((List.finRange 8).find? on).map (·.val)).getD 0, wait := .none }
      else { z.slices.at j with gang := z.leadWithout on j } := by
  simp only [Warp.gather, tab_at, Warp.afterEnd_slices]

theorem Warp.gather_still (z : Warp) (on : Fin 8 → Bool) (q : Nat) :
    (z.gather on q).still = ({ z with slices := (z.gather on q).slices } : Warp).still := by
  have hw : z.gather on q = { (z.afterEnd q).2 with slices := (z.gather on q).slices } := by simp only [Warp.gather]
  have hexec : (z.afterEnd q).2.exec = z.exec := Warp.afterEnd_exec ..
  generalize (z.gather on q).slices = sl at hw ⊢
  rw [hw]
  exact (congrArg (fun e => ({ (z.afterEnd q).2 with exec := e, slices := sl } : Warp).still) hexec).trans
    (Warp.still_with_slices (Warp.afterEnd_still z q) z.exec sl)

theorem Warp.gather_exec (z : Warp) (on : Fin 8 → Bool) (q : Nat) : (z.gather on q).exec = z.exec := by
  simp only [Warp.gather, Warp.afterEnd_exec]

theorem Warp.gather_lc (z : Warp) (on : Fin 8 → Bool) (q : Nat) : (z.gather on q).lc = (z.afterEnd q).2.lc := by simp only [Warp.gather]

theorem Warp.gather_b (z : Warp) (on : Fin 8 → Bool) (q : Nat) : (z.gather on q).b = (z.afterEnd q).2.b := by simp only [Warp.gather]

theorem Warp.afterEnd_noLatches {y : Warp} (hy : y.b = emptyLatches) (q : Nat) : (y.afterEnd q).2.b = emptyLatches := by
  rw [Warp.afterEnd_b, hy]
  split
  · exact ite_self _
  · rfl

/-- Gathering the slices `on` of a warp that has taken its stacks merges them. -/
theorem Merges.of_gather (hsize : i.size = 4) (h : TakesStacks g z) (hon : ∀ j, on j = false → (z.slices.at j).wait = (g.warp.slices.at j).wait)
    (he : exec i s = .next (s.withWarp g (z.gather on (g.pc + 4)))) : Merges s g i on (z.gather on (g.pc + 4)) := by
  have hafter : g.pc + 4 = g.after i := by rw [Issue.after, hsize]
  refine
    { answers := he, pcs := fun j => ?pcs, loops := ?loops, one := fun j k hj hk => ?one, apart := fun j k hj hk hgj hgk => ?apart
      waits := fun j => ?waits, entries := fun j => ?entries, execs := fun l => ?execs, latches := ?latches, frame := ?frame }
  case pcs =>
    rw [Warp.gather_slice, hafter, Warp.afterEnd_nextPc h.lc h.ls h.le]
    split
    · rfl
    · exact h.pcs j
  case loops => rw [Warp.gather_lc, hafter, Warp.afterEnd_nextLc h.lc h.le]
  case one => rw [Warp.gather_slice, Warp.gather_slice, if_pos hj, if_pos hk]
  case apart =>
    rw [Warp.gather_slice, Warp.gather_slice, if_neg (by simp [hj]), if_neg (by simp [hk]), ← h.gangs j hgj, ← h.gangs k hgk]
    exact z.leadWithout_eq_iff hj hk
  case waits =>
    rw [Warp.gather_slice]
    split
    · rfl
    · next hj => exact hon j (by simpa using hj)
  case entries =>
    rw [← h.entries, Warp.gather_slice]
    split <;> rfl
  case execs => rw [Warp.gather_exec, h.execs]
  case latches => rw [Warp.gather_b, Warp.afterEnd_noLatches h.b]
  case frame =>
    rw [Warp.gather_still, Warp.gather_exec]
    exact Warp.still_with_slices h.frame z.exec _

/-- A merge of exactly the issuing gang, which is every live slice, is a rejoin. -/
theorem Rejoins.of_merges {x : Warp} (hon : ∀ j, on j = g.gang.getLsbD j.val) (h : Merges s g i on x) : Rejoins s g i x := by
  refine
    { answers := h.answers, goes := ⟨fun j => ?pcs, h.loops⟩, one := fun j k hj hk => h.one j k ((hon j).trans hj) ((hon k).trans hk)
      free := fun j hj => ?free, entries := fun j hj => ?entries, execs := h.execs, latches := h.latches, frame := h.frame }
  case pcs =>
    rw [h.pcs, hon]
    split <;> rfl
  case free => rw [h.waits, if_pos ((hon j).trans hj)]
  case entries => rw [h.entries, if_pos hj]

/-! ### REGANG.W -/

/-- The slices of the gang that take part in the rejoin. -/
def Issue.rejoins (g : Issue) (j : Fin 8) : Bool := g.gang.getLsbD j.val && (g.regang j).1.isNone

/-- Every live slice of a warp waits at the REGANG. -/
def Issue.allWait (g : Issue) (z : Warp) : Bool :=
  (List.finRange 8).all fun j =>
    !g.live.getLsbD j.val || (decide ((z.slices.at j).wait = .regang) && decide ((z.slices.at j).pc = g.pc % 2 ^ 48))

/-- The warp after REGANG.W, before the waiting slices are gathered. -/
def Issue.regangWaits (g : Issue) (m : Mach) : Warp := (g.regangWarp m .regangW).waitAt g.rejoins

theorem regangW_answers (h : Admits s.m g .regangW) :
    exec .regangW s = .next (s.withWarp g
      (if g.allWait (g.regangWaits s.m) then (g.regangWaits s.m).gather (fun j => g.live.getLsbD j.val) (g.pc + 4) else g.regangWaits s.m)) :=
  (exec_regangW ..).trans (issue_admits _ h)

theorem Issue.allWait_iff {z : Warp} : g.allWait z = true ↔
    ∀ j : Fin 8, g.live.getLsbD j.val = true → (z.slices.at j).wait = .regang ∧ (z.slices.at j).pc = g.pc % 2 ^ 48 := by
  simp only [Issue.allWait, List.all_eq_true, List.mem_finRange, true_imp_iff, Bool.or_eq_true, Bool.not_eq_true', Bool.and_eq_true,
    decide_eq_true_eq]
  exact forall_congr' fun j => by cases g.live.getLsbD j.val <;> simp

theorem regangWaits_takes (g : Issue) (m : Mach) : TakesStacks g (g.regangWaits m) := (TakesStacks.regangWarp g m rfl).waitAt _

theorem regangWaits_wait (g : Issue) (m : Mach) (j : Fin 8) :
    ((g.regangWaits m).slices.at j).wait = if g.rejoins j then .regang else (g.warp.slices.at j).wait := by
  rw [Issue.regangWaits, Warp.waitAt_slice]
  split
  · rfl
  · exact regangWarp_wait ..

/-- A slice of the gang waits at the instruction once it has no pending entry. -/
theorem regangWaits_gang {m : Mach} {j : Fin 8} (hj : g.inGang j) (hn : (g.regang j).1 = none) :
    ((g.regangWaits m).slices.at j).wait = .regang ∧ ((g.regangWaits m).slices.at j).pc = g.pc % 2 ^ 48 := by
  rw [regangWaits_wait, (regangWaits_takes g m).pcs, if_pos hj, Issue.rejoins, hj, hn]
  exact ⟨rfl, rfl⟩

theorem regangWaits_other {m : Mach} {j : Fin 8} (hj : ¬ g.inGang j) : (g.regangWaits m).slices.at j = g.warp.slices.at j := by
  have hr : g.rejoins j = false := by rw [Issue.rejoins, Bool.eq_false_of_not_eq_true hj, Bool.false_and]
  rw [Issue.regangWaits, Warp.waitAt_slice, hr, regangWarp_eq, Issue.partWarp_slice, if_neg hj, Issue.settled, Warp.settle_slices,
    Warp.begin_slices]
  rfl

theorem regangW_merges (h : Admits s.m g .regangW) (hnone : ∀ j, g.inGang j → (g.regang j).1 = none)
    (hall : ∀ k : Fin 8, g.live.getLsbD k.val = true → ¬ g.inGang k →
      (g.warp.slices.at k).wait = .regang ∧ (g.warp.slices.at k).pc = g.pc % 2 ^ 48) :
    ∃ x, Merges s g .regangW (fun j => g.live.getLsbD j.val) x := by
  have hwait : g.allWait (g.regangWaits s.m) = true := Issue.allWait_iff.mpr fun j hj => by
    by_cases hg : g.inGang j
    · exact regangWaits_gang hg (hnone j hg)
    · rw [regangWaits_other hg]
      exact hall j hj hg
  have he := regangW_answers h
  rw [if_pos hwait] at he
  refine ⟨_, Merges.of_gather rfl (regangWaits_takes g s.m) (fun j hj => ?_) he⟩
  have hg : ¬ g.inGang j := fun hg => by rw [gang_live h.issues hg] at hj; cases hj
  rw [regangWaits_other hg]

/-! ### REGANG.N -/

/-- Some slice of the gang has no pending entry. -/
def Issue.rejoinsAny (g : Issue) : Bool := g.slices.any fun j => (g.regang j).1.isNone

theorem regangN_answers (h : Admits s.m g .regangN) :
    exec .regangN s = .next (s.withWarp g
      (if g.rejoinsAny then (g.regangWarp s.m .regangN).gather g.merged (g.pc + 4) else g.regangWarp s.m .regangN)) := by
  have hmerged : (fun j : Fin 8 =>
      if g.gang.getLsbD j.val then (g.regang j).1.isNone
      else g.live.getLsbD j.val && decide (((g.regangWarp s.m .regangN).slices.at j).pc = g.pc % 2 ^ 48) &&
        ((g.regangWarp s.m .regangN).slices.at j).stack.isEmpty &&
        decide (((g.regangWarp s.m .regangN).slices.at j).wait = .none)) = g.merged := by
    funext j
    unfold Issue.merged
    split
    · rfl
    · next hj =>
      have ht := TakesStacks.regangWarp g s.m (i := .regangN) rfl
      rw [ht.pcs, ht.entries, regangWarp_wait, if_neg hj, if_neg hj]
  rw [← hmerged]
  exact (exec_regangN ..).trans (issue_admits _ h)

theorem Issue.rejoinsAny_iff : g.rejoinsAny = true ↔ ∃ j, g.inGang j ∧ (g.regang j).1 = none := by
  simp only [Issue.rejoinsAny, List.any_eq_true, g.mem_slices, Option.isNone_iff_eq_none]

theorem regangN_merges (h : Admits s.m g .regangN) (hnone : ∃ j, g.inGang j ∧ (g.regang j).1 = none) :
    ∃ x, Merges s g .regangN g.merged x := by
  have he := regangN_answers h
  rw [if_pos (Issue.rejoinsAny_iff.mpr hnone)] at he
  exact ⟨_, Merges.of_gather rfl (TakesStacks.regangWarp g s.m rfl) (fun j _ => regangWarp_wait ..) he⟩

/-! ### Pending sides -/

/-- A parting in which every slice moves does not depend on where the others would go. -/
theorem partWarp_allMove {o : Fin 8 → Outcome} (h : ∀ j, g.inGang j → (o j).moves = true) (y : Warp) (p q : Nat) :
    g.partWarp o (p, y) = g.partWarp o (q, y) := by
  rw [Issue.partWarp, Issue.partWarp]
  refine congrArg (fun sl => ({ y with exec := g.mergeExec o, slices := tab sl } : Warp)) (funext fun j => ?_)
  exact ite_congr rfl (fun hj => by rw [h j hj]; rfl) fun _ => rfl

theorem Parts.of_regang (hend : i.uses.ending = true) (hmove : ∀ j, g.inGang j → (g.regang j).1.isSome = true)
    (he : exec i s = .next (s.withWarp g (g.regangWarp s.m i))) : ∃ x, Parts s g i g.regangOut x := by
  have hmoves (j : Fin 8) (hj : g.inGang j) : (g.regangOut j).moves = true := hmove j hj
  have hend' : g.partEnd g.regangOut (g.settled s.m i) = (0, g.settled s.m i) := by
    rcases Issue.partEnd_cases (i := i) (y := g.settled s.m i) fun j hj hm => Bool.noConfusion ((hmoves j hj).symm.trans hm) with ⟨⟨j, hj, hm⟩, -⟩ | ⟨-, h⟩
    · exact Bool.noConfusion ((hmoves j hj).symm.trans hm)
    · exact h
  refine Parts.of_part hend (fun j hj hm => Bool.noConfusion ((hmoves j hj).symm.trans hm)) ?_
  rw [he, regangWarp_eq, partWarp_allMove hmoves _ g.pc 0, ← hend']
  rfl

theorem regang_parts (hi : i = .regangW ∨ i = .regangN) (h : Admits s.m g i) (hmove : ∀ j, g.inGang j → (g.regang j).1.isSome) :
    ∃ x, Parts s g i g.regangOut x := by
  have hnone (j : Fin 8) (hj : g.inGang j) : (g.regang j).1.isNone = false := by
    have := hmove j hj
    cases hr : (g.regang j).1 <;> simp_all
  rcases hi with rfl | rfl
  · have hr : g.rejoins = fun _ => false := funext fun j => by
      by_cases hj : g.inGang j
      · rw [Issue.rejoins, hnone j hj, Bool.and_false]
      · rw [Issue.rejoins, Bool.eq_false_of_not_eq_true hj, Bool.false_and]
    have hwait : ¬ g.allWait (g.regangWaits s.m) = true := fun hw => by
      obtain ⟨j, hj⟩ := gang_exists h.issues
      have := (Issue.allWait_iff.mp hw j (gang_live h.issues hj)).1
      rw [regangWaits_wait, hr, gang_waitsNot h.issues hj] at this
      cases this
    have he := regangW_answers h
    rw [if_neg hwait] at he
    refine Parts.of_regang rfl hmove (he.trans ?_)
    rw [Issue.regangWaits, hr, Warp.waitAt_none]
  · have hany : ¬ g.rejoinsAny = true := fun ha => by
      obtain ⟨j, hj, hn⟩ := Issue.rejoinsAny_iff.mp ha
      have := hnone j hj
      rw [hn] at this
      cases this
    have he := regangN_answers h
    rw [if_neg hany] at he
    exact Parts.of_regang rfl hmove he

/-- Where every live slice issues, the rejoin is a merge of the gang. -/
theorem regang_rejoins (hi : i = .regangW ∨ i = .regangN) (h : Admits s.m g i) (hganged : g.ganged = true)
    (hnone : ∀ j, g.inGang j → (g.regang j).1 = none) : ∃ x, Rejoins s g i x := by
  have hlive : g.gang = g.live := of_decide_eq_true hganged
  rcases hi with rfl | rfl
  · obtain ⟨x, hx⟩ := regangW_merges h hnone fun k hk hg => absurd ((congrArg (·.getLsbD k.val) hlive).trans hk) hg
    exact ⟨x, Rejoins.of_merges (fun j => by rw [hlive]) hx⟩
  · obtain ⟨lead, hl⟩ := gang_exists h.issues
    obtain ⟨x, hx⟩ := regangN_merges h ⟨lead, hl, hnone lead hl⟩
    refine ⟨x, Rejoins.of_merges (fun j => ?_) hx⟩
    unfold Issue.merged
    by_cases hj : g.inGang j
    · rw [if_pos hj, hnone j hj, hj]
      rfl
    · rw [if_neg hj, ← hlive, Bool.eq_false_of_not_eq_true hj]
      rfl

theorem regangW_stays (h : Admits s.m g .regangW) {k : Fin 8}
    (hk : g.live.getLsbD k.val = true) (hg : ¬ g.inGang k)
    (haway : (g.warp.slices.at k).wait ≠ .regang ∨ (g.warp.slices.at k).pc ≠ g.pc % 2 ^ 48) :
    exec .regangW s = .next (s.withWarp g (g.regangWaits s.m)) := by
  have hwait : ¬ g.allWait (g.regangWaits s.m) = true := fun hw => by
    have hk := Issue.allWait_iff.mp hw k hk
    rw [regangWaits_other hg] at hk
    exact haway.elim (· hk.1) (· hk.2)
  have he := regangW_answers h
  rwa [if_neg hwait] at he

/-- Settles O13: REGANG takes the slices' stacks as a parting does, and gathers those that rejoin. -/
theorem rejoining : Obligations.Rejoining := by
  unfold Obligations.Rejoining
  refine ⟨fun s g i hi h => ⟨regang_parts hi h, regang_rejoins hi h⟩, fun s g k h hnone hk hg haway => ?stays, fun s g h => regangW_merges h,
    fun s g h => regangN_merges h, fun a pc mask outer t => ⟨rfl, rfl, rfl⟩⟩
  refine ⟨_, regangW_stays h hk hg haway, ?v, ?s, fun j => ?slices⟩
  case v => simp [Issue.regangWaits, Warp.waitAt, Issue.regangWarp]
  case s => simp [Issue.regangWaits, Warp.waitAt, Issue.regangWarp]
  case slices =>
    split
    · next hj => exact regangWaits_gang hj (hnone j hj)
    · next hj => exact regangWaits_other hj

end

end Sys2Proof.Machine

/-! PROOFS. EXIT and YIELD (spec 03 R58, R62; 09 R173). -/

namespace Sys2Proof.Machine

/-! ### What a stop leaves of a team that is not placed -/

@[simp] theorem writeStops_base (d ctx base : Nat) (rs : List TrapRec) (i : Nat) (m : Mach) : (m.writeStops d ctx base rs i).base = m.base := by
  induction rs generalizing m i with
  | nil => rfl
  | cons r t ih => rw [Mach.writeStops, ih, fwStoreAt_base]

@[simp] theorem stopArea_base (m : Mach) (d ctx va : Nat) (own : Bool) (rs : List TrapRec) : (m.stopArea d ctx va own rs).base = m.base := by
  rw [Mach.stopArea, fwStoreAt_base, writeStops_base]

theorem stopAreas_teams (m : Mach) (p ctx va : Nat) (cut : List Nat) (own : Bool) (rs : List TrapRec) :
    (m.stopAreas p ctx va cut own rs).teams = m.teams := by
  have hcut (m : Mach) (ds : List Nat) : (ds.foldl (fun m d => m.stopArea d ctx va false (rs.filter fun r => r.die = d)) m).teams = m.teams :=
    teams_of_base (foldl_base _ (fun m d => stopArea_base ..) ds m)
  unfold Mach.stopAreas
  split
  · exact hcut ..
  · exact (teams_of_base (stopArea_base ..)).trans (hcut ..)

theorem numbered_get (m : Mach) (t : Nat) : m.numbered[t]? = (m.teams[t]?).map fun x => (t, x) := by
  simp only [Mach.numbered, List.zip, List.getElem?_zipWith]
  by_cases h : t < m.teams.length
  · simp [h]
  · simp [h]

/-- A stop touches no team that is not placed. -/
theorem stopBy_unplaced {m : Mach} {t : Nat} {x : Team} (h : m.teams[t]? = some x) (hx : x.isPlaced = false) (id cause : Nat)
    (own : Option TrapRec) (who : Option Served) (cut : List Nat) (halt : Halt) : (m.stopBy id cause own who cut halt).teams[t]? = some x := by
  unfold Mach.stopBy
  split
  · exact h
  dsimp only
  split
  · exact h
  rw [stopAreas_teams]
  have hmap : ∀ f : Nat × Team → Team, f (t, x) = x → (m.numbered.map f)[t]? = some x := fun f hf => by
    rw [List.getElem?_map, numbered_get, h]
    exact congrArg some hf
  split <;> exact hmap _ (by simp [hx])

/-! ### The end of a team -/

theorem warp_modTeam {m : Mach} {t : Nat} {f : Team → Team} (hf : ∀ x, (f x).warps = x.warps) (w : Nat) :
    (m.modTeam t f).warp? t w = m.warp? t w := by
  unfold Mach.warp?
  simp only [Mach.modTeam, List.getElem?_modify_eq]
  cases m.teams[t]? with
  | none => rfl
  | some x => exact congrArg (·[w]?) (hf x)

/-- The end of a team changes none of its warps. -/
theorem teamEnd_warp (m : Mach) (t w : Nat) : (m.teamEnd t).warp? t w = m.warp? t w := by
  unfold Mach.teamEnd
  split
  · rfl
  next x hx =>
  split
  · rfl
  split
  · dsimp only
    let f : Team → Team := fun y => { y with phase := .exited, scratch := [], shapes := tab fun _ => none, rings := tab fun _ => none }
    have hm : (m.modTeam t f).teams[t]? = some (f x) := by simp [Mach.modTeam, hx]
    have hw : (m.modTeam t f).warp? t w = m.warp? t w := warp_modTeam (f := f) (fun _ => rfl) w
    split
    · refine Eq.trans ?_ hw
      have hs := stopBy_unplaced hm rfl x.ctx 0x53 none none [] .stopped
      simp only [Mach.warp?, Mach.stopContext]
      rw [hs, hm]
    · exact hw
  split
  · apply warp_modTeam
    exact fun _ => rfl
  · rfl

/-- A team whose warps have all exited ends, if it is no handler and no engine operation uses its rings or frames. -/
theorem teamEnd_exited {m : Mach} {t : Nat} {x : Team} (h : m.teams[t]? = some x) (hw : ∀ y ∈ x.warps, y.run = .exited)
    (hserved : x.served = none) (hbusy : m.teamBusy t = false) : ((m.teamEnd t).teams[t]?).map (·.phase) = some .exited := by
  have hall : (x.warps.all fun y => decide (y.run = .exited)) = true := List.all_eq_true.mpr fun y hy => decide_eq_true (hw y hy)
  simp [Mach.teamEnd, h, hall, hbusy, hserved, Mach.modTeam]

/-! ### EXIT -/

section
variable {s : State} {g : Issue}

/-- The warp that EXIT leaves. -/
def Issue.exited (g : Issue) : Warp := { (g.warp.begin Instr.exit.uses).drainMma with run := .exited, chain := none }

theorem exit_answers (h : Admits s.m g .exit) (hconv : g.converged = true) (hidle : g.warp.ifs + g.warp.ifg + g.warp.ift = 0)
    (hflight : g.warp.flight = []) :
    exec .exit s = .next { s with m := ({ s.m.setWarp g g.exited with unit := none } : Mach).teamEnd g.t } := by
  refine ((exec_exit ..).trans (issue_admits _ h)).trans ?_
  rw [if_neg (by simp [hconv]), if_pos ⟨hidle, hflight⟩]
  rfl

/-- The team of an issuing warp with the warp replaced. -/
theorem team_setWarp {m : Mach} (h : m.issuer = some g) (x : Warp) : (m.setWarp g x).teams[g.t]? = some (g.team.modWarp g.w fun _ => x) := by
  obtain ⟨ht, -⟩ := issuer_some h
  simp [Mach.setWarp, Mach.modWarp, Mach.modTeam, ht]

theorem exit_endsTeam (h : Admits s.m g .exit) (hserved : g.team.served = none) (hbusy : s.m.teamBusy g.t = false)
    (hothers : ∀ w x, w ≠ g.w → g.team.warps[w]? = some x → x.run = .exited) :
    ((({ s.m.setWarp g g.exited with unit := none } : Mach).teamEnd g.t).teams[g.t]?).map (·.phase) = some .exited := by
  refine teamEnd_exited (x := g.team.modWarp g.w fun _ => g.exited) (team_setWarp h.issues _) (fun y hy => ?_) hserved hbusy
  obtain ⟨w, hw⟩ := List.getElem?_of_mem hy
  rw [Team.modWarp, List.getElem?_modify] at hw
  by_cases hne : g.w = w
  · subst hne
    obtain ⟨-, hg, -⟩ := issuer_some h.issues
    rw [hg] at hw
    obtain rfl : g.exited = y := by simpa using hw
    rfl
  · exact hothers w y (Ne.symm hne) (by simpa [hne] using hw)

/-! ### YIELD -/

/-- A warp saved. -/
def Warp.saved (x : Warp) : Warp :=
  { x.drainMma.noLatch with
    run := .saved, chain := none, aged := 0
    slices := tab fun j => if (x.slices.at j).wait = .yield then { x.slices.at j with wait := .none } else x.slices.at j }

theorem Warp.saved_pc (x : Warp) (j : Fin 8) : ((x.saved).slices.at j).pc = (x.slices.at j).pc := by
  simp only [Warp.saved, tab_at]
  split <;> rfl

theorem Warp.saved_s (x : Warp) : x.saved.s = x.s := by
  have : x.saved.s = x.drainMma.s := by simp [Warp.saved, Warp.noLatch]
  rw [this, drainMma_s]

/-- A warp of a team that is no handler is saved. -/
theorem saveWarp_warp {m : Mach} {t w : Nat} {x : Team} {y : Warp} (ht : m.teams[t]? = some x) (hw : m.warp? t w = some y)
    (hserved : x.served = none) : (m.saveWarp t w).warp? t w = some y.saved := by
  have hwarp := (teamEnd_warp (m.modWarp t w Warp.saved) t w).trans (warp_modWarp_self hw _)
  have hm : m.saveWarp t w = (m.modWarp t w Warp.saved).teamEnd t := by
    simp only [Mach.saveWarp, ht, hserved, Option.isSome_none, Bool.false_and]
    rfl
  rw [hm, hwarp]

/-- The warp that an instruction without effect leaves. -/
def Issue.wentOn (g : Issue) (m : Mach) (i : Instr) : Warp :=
  ((g.warp.begin i.uses).settle i.uses (m.trapPc g) g.gang).goOn g.gang (g.pc + i.size)

theorem yield_answers (h : Admits s.m g .yield) (hpreq : g.warp.preq = true) (hganged : g.ganged = true) :
    exec .yield s = .next { s with m := ({ s.m.setWarp g (g.wentOn s.m .yield) with unit := none } : Mach).saveWarp g.t g.w } := by
  refine ((exec_yield ..).trans (issue_admits _ h)).trans ?_
  rw [hpreq, hganged]
  rfl

theorem wentOn_goes (g : Issue) (m : Mach) (i : Instr) : GoesOn g i (g.wentOn m i) := by
  apply GoesOn.of_settle <;> simp

theorem wentOn_s (g : Issue) (m : Mach) (i : Instr) : (g.wentOn m i).s = g.warp.s := by simp [Issue.wentOn]

/-- Settles O14: EXIT ends the warp and its team's end changes no warp; YIELD saves the warp that has gone on. -/
theorem exitsAndYields : Obligations.ExitsAndYields := by
  unfold Obligations.ExitsAndYields
  constructor
  · intro s g h hconv hidle hflight
    refine ⟨_, exit_answers h hconv hidle hflight, ?_, exit_endsTeam h⟩
    rw [teamEnd_warp]
    exact congrArg (Option.map (·.run)) (warp_modWarp_self (warp_issuer h.issues) _)
  · intro s g h hpreq hganged hserved
    have hwarp := saveWarp_warp (m := { s.m.setWarp g (g.wentOn s.m .yield) with unit := none }) (team_setWarp h.issues _)
      (warp_modWarp_self (warp_issuer h.issues) _) hserved
    refine ⟨_, _, yield_answers h hpreq hganged, hwarp, rfl, ?_, fun j hj => ?_⟩
    · rw [Warp.saved_s, wentOn_s]
    · rw [Warp.saved_pc, (wentOn_goes g s.m .yield).pcs, if_pos hj]

end

end Sys2Proof.Machine

/-! PROOFS. The precise traps of admitted instructions and of privilege (spec 07 R120, R121; 09, 10, 14, 19). -/

namespace Sys2Proof.Machine

/-! ### Reserved operands and the privilege test -/

section
variable {s : State} {g : Issue} {i : Instr}

theorem issueOperand_bad (imm : Bool) (bad : Mach → Issue → Bool) (run : Mach → Issue → Mach) (h : Admits s.m g i) (hb : bad s.m g = true) :
    issueOperand i s imm bad run = .next { s with m := s.m.trap g i (TrapRec.of 0x03) } := by
  simp only [issueOperand, withIssuer, onMach, h.issues, Mach.issueChecked_pass _ _ _ h.gate, hb, if_true]
  rfl

/-- The tests at issue end at the lack of privilege or of the grant. -/
theorem gate_denied {denied : Bool} (h : Reaches s.m g i) (hd : (i.uses.super && !g.team.super || denied) = true) :
    g.gate i { i.uses with denied := denied } = .trap (TrapRec.of 0x05) := by
  have hregion : g.breaksMeld i { i.uses with denied := denied } = false := h.region
  have hpairs : g.lanes.any (g.oddName { i.uses with denied := denied }) = false := h.pairs
  have hv : g.aboveV { i.uses with denied := denied } = false := h.belowV
  rw [Issue.gate, if_neg (ne_true_of_eq_false hregion), if_neg (ne_true_of_eq_false hpairs), if_neg (ne_true_of_eq_false hv), if_pos hd]
  rfl

/-- The tests at issue end at privilege, whatever grant is asked for. -/
theorem gate_privilege (h : Reaches s.m g i) (hs : i.uses.super = true) (hp : g.team.super = false) (denied : Bool) :
    g.gate i { i.uses with denied := denied } = .trap (TrapRec.of 0x05) :=
  gate_denied h (by simp [hs, hp])

theorem issue_privilege (run : Mach → Issue → Mach) (h : Reaches s.m g i) (hs : i.uses.super = true) (hp : g.team.super = false) :
    issue i s run = .next { s with m := s.m.trap g i (TrapRec.of 0x05) } := by
  have hg : g.gate i i.uses = _ := gate_privilege h hs hp i.uses.denied
  simp [issue, issueWith, withIssuer, onMach, h.issues, hg]

theorem issueOperand_privilege (imm : Bool) (bad : Mach → Issue → Bool) (run : Mach → Issue → Mach) (h : Reaches s.m g i)
    (hs : i.uses.super = true) (hp : g.team.super = false) (hb : bad s.m g = false) :
    issueOperand i s imm bad run = .next { s with m := s.m.trap g i (TrapRec.of 0x05) } := by
  have hg : g.gate i i.uses = _ := gate_privilege h hs hp i.uses.denied
  simp only [issueOperand, withIssuer, onMach, h.issues, hb, Mach.issueChecked_trap _ _ hg]

/-! ### SYSW -/

/-- SYSW tests privilege before its value, unless the value is an APPLY that fails its checks. -/
theorem sysWrite_privilege {n : Fin 128} (imm : Bool) (y : Mach → Issue → Word) (h : Reaches s.m g i) (hs : i.uses.super = true)
    (hp : g.team.super = false) (hb : s.m.badSysw g n (y s.m g) = false) :
    sysWrite i n imm y s = .next { s with m := s.m.trap g i (TrapRec.of 0x05) } := by
  have hg := gate_privilege h hs hp (s.m.noGrant g n.val)
  simp only [sysWrite, withIssuer, onMach, h.issues, hb, Mach.issueChecked_trap _ _ hg]

/-- A value that a register of privilege S takes, seen from privilege U. -/
theorem badSysw_super {n : Fin 128} {v : Word} (hn : sysSuper n.val = true) (hp : g.team.super = false)
    (hf : 64 ≤ n.val → s.m.failsApply ⟨(n.val - 64) % 16, by omega⟩ v = false) : s.m.badSysw g n v = false := by
  unfold Mach.badSysw
  split
  · rw [hp, Bool.false_and]
  · split
    · have hr : n.val = 24 ∨ n.val = 25 ∨ n.val = 26 ∨ n.val = 27 := by
        simp only [sysSuper, Bool.or_eq_true, decide_eq_true_eq] at hn
        omega
      rcases hr with e | e | e | e <;> rw [e] <;> rfl
    · rw [hf (by omega), Bool.and_false]

/-- SYSW of a register that needs no grant, admitted, up to the test of its value. -/
theorem sysWrite_ungranted {n : Fin 128} (imm : Bool) (y : Mach → Issue → Word) (h : Admits s.m g i) (hn : n.val < 64)
    (hd : i.uses.denied = false) (hb : s.m.badSysw g n (y s.m g) = true) :
    sysWrite i n imm y s = .next { s with m := s.m.trap g i (TrapRec.of 0x03) } := by
  have hg : s.m.noGrant g n.val = i.uses.denied := by simp [Mach.noGrant, hd, show ¬ 64 ≤ n.val by omega]
  have hgate : g.gate i { i.uses with denied := s.m.noGrant g n.val } = .pass := by rw [hg]; exact h.gate
  simp only [sysWrite, withIssuer, onMach, h.issues, Mach.issueChecked_pass _ _ _ hgate, hb, if_true]
  rfl

theorem badSysw_tresume {v : Word} (hp : g.team.super = true) (hv : 8 ≤ v.toNat ∨ v.toNat % 4 = 0) : s.m.badSysw g 28 v = true := by
  rw [Mach.badSysw, if_pos (by decide), hp]
  simpa [sysReserved] using hv

/-- A warp that serves no record, or has served it, cannot write TRESUME. -/
theorem writeTresume_refused {v : Word} (h : g.team.served = none ∨ g.team.resumed = true) :
    s.m.writeTresume g i v = s.m.trap g i (TrapRec.of 0x03) := by
  have hill : s.m.illegal g i .reservedOperand = s.m.trap g i (TrapRec.of 0x03) := rfl
  unfold Mach.writeTresume
  rcases h with h | h
  · simp only [Team.record, h, Option.map_none, hill]
  · cases g.team.record with
    | none => exact hill
    | some r => simp only [h, Bool.true_or, if_true, hill]

theorem sysw_tresume_refused {b : Src} (h : Admits s.m g (.sysw 28 b)) (hs : g.team.served = none ∨ g.team.resumed = true) :
    exec (.sysw 28 b) s = .next { s with m := s.m.trap g (.sysw 28 b) (TrapRec.of 0x03) } := by
  have hgate : g.gate (.sysw 28 b) { (Instr.sysw 28 b).uses with denied := s.m.noGrant g (28 : Fin 128).val } = .pass := h.gate
  rw [exec_sysw, execSysw]
  simp only [sysWrite, withIssuer, onMach, h.issues, Mach.issueChecked_pass _ _ _ hgate]
  have hrefused := writeTresume_refused (s := s) (i := .sysw 28 b) (v := g.warp.one b) hs
  split
  · rfl
  · exact congrArg (fun m => Host.Outcome.next { s with m := m }) hrefused

/-! ### Operand values at which an admitted instruction traps -/

theorem jumpTo_odd {m : Mach} {x : Warp} {v : Nat} (h : v % 2 = 1) : m.jumpTo g i x (v % 2 ^ 48) = m.trap g i (TrapRec.of 0x09) := by
  rw [Mach.jumpTo, if_pos (by omega)]
  rfl

theorem lbrk_inactive {x : Fin 32} {l : Fin 3} (h : Admits s.m g (.lbrk x)) (hx : x.val = l.val) (hl : g.warp.lc.at l = 0) :
    exec (.lbrk x) s = .next { s with m := s.m.trap g (.lbrk x) (TrapRec.of 0x03) } := by
  have e : (⟨x.val % 3, by omega⟩ : Fin 3) = l := Fin.ext (by simp only [hx]; omega)
  rw [exec_lbrk, execLbrk, issue_admits _ h]
  simp only [e, hl, if_true]
  rfl

theorem gcond_refused {a b : Src} (h : Admits s.m g (.gcond a b)) (hc : s.m.condVA g.team = none ∨ 256 ≤ (g.warp.one a).toNat) :
    exec (.gcond a b) s = .next { s with m := s.m.trap g (.gcond a b) (TrapRec.of 0x13) } := by
  rw [exec_gcond, execGcond, issue_admits _ h]
  cases hv : s.m.condVA g.team with
  | none => simp only; rfl
  | some va =>
    rw [hv] at hc
    simp only [if_pos (hc.resolve_left (Option.some_ne_none va))]
    rfl

theorem trapCase_traps {r : TrapRec} (hc : TrapCase s.m g i r) (h : Admits s.m g i) : exec i s = .next { s with m := s.m.trap g i r } := by
  cases hc with
  | braBack o hm ho =>
    rw [exec_bra, execBra, issue_admits _ h, if_pos (by simp [hm, ho])]
    rfl
  | jmpOdd x hx => rw [exec_jmp, execJmp, issue_admits _ h, jumpTo_odd hx]
  | retOdd x hx => rw [exec_ret, execRet, issue_admits _ h, jumpTo_odd hx]
  | lbrk x l hx hl => exact lbrk_inactive h hx hl
  | exit hconv =>
    rw [exec_exit, execExit, issue_admits _ h, if_pos (by simp [hconv])]
  | setpart b hb =>
    rw [exec_setpart, execSetpart, setPart, issue_admits _ h, if_pos hb]
    rfl
  | setpartImm k hk =>
    rw [exec_setpartImm, execSetpartImm, setPart, issue_admits _ h, if_pos hk]
    rfl
  | meld four a b hg =>
    rw [exec_meld, execMeld, issue_admits _ h, if_pos (by simp [hg])]
    rfl
  | melde hm =>
    rw [exec_melde, execMelde, issue_admits _ h]
    simp only [hm]
    rfl
  | mtw d k hk =>
    rw [exec_mtw, execMtw, issue_admits _ h, if_pos (by simpa using hk)]
    rfl
  | kset k b hm => rw [exec_kset, execKset, setConst, issueOperand_bad _ _ _ h hm]
  | ksetImm k c hm => rw [exec_ksetImm, execKsetImm, setConst, issueOperand_bad _ _ _ h hm]
  | vqnt d a k hk => exact (exec_vqnt ..).trans (issueOperand_bad _ _ _ h (decide_eq_true hk))
  | vdqnt d a k hk => exact (exec_vdqnt ..).trans (issueOperand_bad _ _ _ h (decide_eq_true hk))
  | div _ d a b op hd h0 => exact scalDiv_traps_of_eq_zero hd.exec_eq h h0
  | part b hb => exact (exec_sysw ..).trans (sysWrite_ungranted _ _ h (by decide) rfl (decide_eq_true hb))
  | partImm k hk => exact (exec_syswImm ..).trans (sysWrite_ungranted _ _ h (by decide) rfl (decide_eq_true hk))
  | ften b hb => exact (exec_sysw ..).trans (sysWrite_ungranted _ _ h (by decide) rfl (decide_eq_true hb))
  | ftenImm k hk => exact (exec_syswImm ..).trans (sysWrite_ungranted _ _ h (by decide) rfl (decide_eq_true hk))
  | tresume b hb =>
    have hsuper : g.team.super = true := by simpa [Instr.uses, sysSuper] using h.privilege
    exact (exec_sysw ..).trans (sysWrite_ungranted _ _ h (by decide) rfl (badSysw_tresume hsuper hb))
  | tresumeImm k hk =>
    have hsuper : g.team.super = true := by simpa [Instr.uses, sysSuper] using h.privilege
    exact (exec_syswImm ..).trans (sysWrite_ungranted _ _ h (by decide) rfl (badSysw_tresume hsuper hk))
  | noHandler b hs => exact sysw_tresume_refused h hs
  | rprot d a b hb => exact (exec_rprot ..).trans (issueOperand_bad _ _ _ h (decide_eq_true hb))
  | rres d a b hb => exact (exec_rres ..).trans (issueOperand_bad _ _ _ h (decide_eq_true hb))
  | gcond a b hc => exact gcond_refused h hc

/-! ### Instructions of privilege S -/

theorem privileged_traps (hp : Privileged s.m g i) (h : Reaches s.m g i) (hu : g.team.super = false) :
    exec i s = .next { s with m := s.m.trap g i (TrapRec.of 0x05) } := by
  cases hp with
  | sysr n d hn => exact (exec_sysr ..).trans (issue_privilege _ h hn hu)
  | sysw n b hn hf => exact (exec_sysw ..).trans (sysWrite_privilege _ _ h hn hu (badSysw_super hn hu hf))
  | syswImm n k hn hf => exact (exec_syswImm ..).trans (sysWrite_privilege _ _ h hn hu (badSysw_super hn hu hf))
  | rsplit d a => rw [exec_rsplit, execRsplit, issueLast, issue_privilege _ h rfl hu]
  | rmerge d a => rw [exec_rmerge, execRmerge, issueLast, issue_privilege _ h rfl hu]
  | rpress d a => rw [exec_rpress, execRpress, issueLast, issue_privilege _ h rfl hu]
  | rinval sc a b => rw [exec_rinval, execRinval, issueLast, issue_privilege _ h rfl hu]
  | rprot d a b hb => exact (exec_rprot ..).trans (issueOperand_privilege _ _ _ h rfl hu (decide_eq_false (by omega)))
  | rres d a b hb => exact (exec_rres ..).trans (issueOperand_privilege _ _ _ h rfl hu (decide_eq_false hb))

/-! ### The operations of ERSET -/

theorem RingCount.exec_eq {a b : Src} (hc : RingCount i a b) : ∃ k, ∀ s, exec i s = ringCount i a b s k := by
  cases hc with
  | push a b => exact ⟨_, fun s => by rw [exec_ersetPush, execErsetPush]⟩
  | pop a b => exact ⟨_, fun s => by rw [exec_ersetPop, execErsetPop]⟩
  | waitf a b => exact ⟨_, fun s => by rw [exec_ersetWaitf, execErsetWaitf]⟩
  | waite a b => exact ⟨_, fun s => by rw [exec_ersetWaite, execErsetWaite]⟩

theorem RingName.cases {a : Src} (hn : RingName i a) : i = .ersetFree a ∨ ∃ b, RingCount i a b := by
  cases hn with
  | free => exact .inl rfl
  | push a b => exact .inr ⟨b, .push a b⟩
  | pop a b => exact .inr ⟨b, .pop a b⟩
  | waitf a b => exact .inr ⟨b, .waitf a b⟩
  | waite a b => exact .inr ⟨b, .waite a b⟩

section
variable {a b : Src} {h : Fin 16}

theorem ringOp_named (k : Mach → Issue → Fin 16 → Ring → Mach) (ha : AdmitsLast s.m g i) (hn : (g.warp.one a).toNat = h.val) :
    ringOp i a s k = .next { s with m := match g.team.rings.at h with
      | some r => k s.m g h r
      | none => s.m.illegal g i .ring } := by
  simp only [ringOp, issueLast_admits _ ha, hn, h.isLt, dif_pos] <;> rfl

theorem ringOp_unnamed (k : Mach → Issue → Fin 16 → Ring → Mach) (ha : AdmitsLast s.m g i) (hn : 16 ≤ (g.warp.one a).toNat) :
    ringOp i a s k = .next { s with m := s.m.trap g i (TrapRec.of 0x03) } := by
  simp only [ringOp, issueLast_admits _ ha, dif_neg (Nat.not_lt.mpr hn)]
  rfl

theorem ringCount_unnamed (k : Mach → Issue → Fin 16 → Ring → Nat → Mach) (ha : AdmitsLast s.m g i) (hn : 16 ≤ (g.warp.one a).toNat) :
    ringCount i a b s k = .next { s with m := s.m.trap g i (TrapRec.of 0x03) } := by
  simp only [ringCount, issueLast_admits _ ha, dif_neg (Nat.not_lt.mpr hn)]
  rfl

theorem ringCount_outside (k : Mach → Issue → Fin 16 → Ring → Nat → Mach) (ha : AdmitsLast s.m g i)
    (hc : (g.warp.one b).toNat = 0 ∨ 4096 < (g.warp.one b).toNat) :
    ringCount i a b s k = .next { s with m := s.m.trap g i (TrapRec.of 0x03) } := by
  simp only [ringCount, issueLast_admits _ ha, if_pos hc]
  split <;> rfl

theorem ringCount_named (k : Mach → Issue → Fin 16 → Ring → Nat → Mach) (ha : AdmitsLast s.m g i) (hn : (g.warp.one a).toNat = h.val)
    (h1 : 1 ≤ (g.warp.one b).toNat) (h2 : (g.warp.one b).toNat ≤ 4096) :
    ringCount i a b s k = .next { s with m := match g.team.rings.at h with
      | some r => if r.depth < (g.warp.one b).toNat then s.m.badOperand g i else k s.m g h r (g.warp.one b).toNat
      | none => s.m.illegal g i .ring } := by
  have hc : ¬ ((g.warp.one b).toNat = 0 ∨ 4096 < (g.warp.one b).toNat) := by omega
  simp only [ringCount, issueLast_admits _ ha, hn, h.isLt, dif_pos, if_neg hc] <;> rfl

theorem ringCount_deep {r : Ring} (k : Mach → Issue → Fin 16 → Ring → Nat → Mach) (ha : AdmitsLast s.m g i)
    (hn : (g.warp.one a).toNat = h.val) (hr : g.team.rings.at h = some r) (hd : r.depth < (g.warp.one b).toNat) :
    ringCount i a b s k = .next { s with m := s.m.trap g i (TrapRec.of 0x03) } := by
  by_cases hc : (g.warp.one b).toNat = 0 ∨ 4096 < (g.warp.one b).toNat
  · exact ringCount_outside k ha hc
  · rw [ringCount_named k ha hn (by omega) (by omega), hr]
    simp only [if_pos hd]
    rfl

end

/-! ### The pipe instructions -/

theorem reserveOp_noPipe {d : Fin 32} {a : Src} (fail : Mach → Issue → Mach) (ha : AdmitsLast s.m g i)
    (hp : s.m.ownPipe g (g.warp.one a).toNat false = none) : reserveOp i d a fail s = .next { s with m := s.m.trap g i (TrapRec.of 0x11) } := by
  simp only [reserveOp, issueLast_admits _ ha, hp]
  rfl

theorem takeOp_noPipe {d : Fin 32} {a : Src} (fail : Mach → Issue → Mach) (ha : AdmitsLast s.m g i)
    (hp : s.m.ownPipe g (g.warp.one a).toNat true = none) : takeOp i d a fail s = .next { s with m := s.m.trap g i (TrapRec.of 0x11) } := by
  simp only [takeOp, issueLast_admits _ ha, hp]
  rfl

theorem noPipe_traps {a : Src} {msg : Bool} (hn : PipeName i a msg) (ha : AdmitsLast s.m g i)
    (hp : s.m.ownPipe g (g.warp.one a).toNat msg = none) : exec i s = .next { s with m := s.m.trap g i (TrapRec.of 0x11) } := by
  cases hn with
  | prsv d a => exact (exec_prsv ..).trans (reserveOp_noPipe _ ha hp)
  | ptryR d a => exact (exec_ptryR ..).trans (reserveOp_noPipe _ ha hp)
  | pacq d a => exact (exec_pacq ..).trans (takeOp_noPipe _ ha hp)
  | ptryA d a => exact (exec_ptryA ..).trans (takeOp_noPipe _ ha hp)
  | pcmt a b =>
    simp only [exec_pcmt, execPcmt, issueLast_admits _ ha, hp]
    rfl
  | prel a b =>
    simp only [exec_prel, execPrel, issueLast_admits _ ha, hp]
    rfl
  | precv d a b =>
    simp only [exec_precv, execPrecv, issueLast_admits _ ha, hp]
    rfl

/-- A mailbox of another partition, as PMSG sees it. -/
theorem pmsg_refused {a b : Src} {p : Pipe} (ha : AdmitsLast s.m g (.pmsg a b)) (hp : s.m.pipe? (g.warp.one a).toNat = some p)
    (hr : p.msg = false ∨ ∃ c, s.m.ctx? p.ctx = some c ∧ c.part ≠ g.ctx.part) :
    exec (.pmsg a b) s = .next { s with m := s.m.trap g (.pmsg a b) (TrapRec.of 0x11) } := by
  simp only [exec_pmsg, execPmsg, issueLast_admits _ ha, hp]
  rcases hr with hm | ⟨c, hc, hne⟩
  · simp only [hm, Bool.not_false, Bool.true_or, if_true]
    rfl
  · simp only [hc, hne, decide_false, Bool.not_false, Bool.or_true, if_true]
    rfl

theorem pstat_name {d : Fin 32} {a : Src} (ha : AdmitsLast s.m g (.pstat d a)) (h1 : 16 ≤ (g.warp.one a).toNat)
    (h2 : (g.warp.one a).toNat < 0x8000 ∨ 0x9000 ≤ (g.warp.one a).toNat) :
    exec (.pstat d a) s = .next { s with m := s.m.trap g (.pstat d a) (TrapRec.of 0x03) } := by
  have hn : ¬ (0x8000 ≤ (g.warp.one a).toNat ∧ (g.warp.one a).toNat < 0x9000) := by omega
  simp only [exec_pstat, execPstat, issueLast_admits _ ha, dif_neg (Nat.not_lt.mpr h1), if_neg hn]
  rfl

theorem pstat_noPipe {d : Fin 32} {a : Src} {n : Nat} (ha : AdmitsLast s.m g (.pstat d a)) (hn : (g.warp.one a).toNat = 0x8000 + n)
    (h : n < 4096) (hp : s.m.ownPipe g n true = none) :
    exec (.pstat d a) s = .next { s with m := s.m.trap g (.pstat d a) (TrapRec.of 0x11) } := by
  have hr : ¬ 0x8000 + n < 16 := by omega
  have hi : 0x8000 ≤ 0x8000 + n ∧ 0x8000 + n < 0x9000 := by omega
  simp only [exec_pstat, execPstat, issueLast_admits _ ha, hn, dif_neg hr, if_pos hi, Nat.add_sub_cancel_left, hp]
  rfl

/-! ### The posts -/

theorem Posts.exec_eq {kind : EngKind} {a : Src} (hp : Posts i kind a) (s : State) : exec i s = postOp i kind a s := by
  cases hp with
  | ecopy => exact exec_ecopy ..
  | egath => exact exec_egath ..
  | escat => exact exec_escat ..
  | ered => exact exec_ered ..
  | ebcast => exact exec_ebcast ..

theorem withLoad_ok {m m' : Mach} {va n v : Nat} {how : Mach → Nat → Option (Nat × Mach)} (k : Mach → Nat → Mach)
    (h : m.loadNow g va n how = (.ok v, m')) : m.withLoad g i va n how k = k m' v := by
  simp only [Mach.withLoad, h]

theorem not_all_of_mem {l : List Nat} {p : Nat → Bool} {h : Nat} (hm : h ∈ l) (hp : p h = false) : (!l.all p) = true := by
  rw [Bool.not_eq_true', List.all_eq_false]
  exact ⟨h, hm, by simp [hp]⟩

theorem not_not_all {l : List Nat} {p : Nat → Bool} (hp : ∀ h, h ∈ l → p h = true) : ¬ (!l.all p) = true := by
  rw [Bool.not_eq_true', List.all_eq_false]
  rintro ⟨h, hm, hn⟩
  exact hn (hp h hm)

/-- The traps of a post whose descriptor has been read. -/
theorem post_traps {kind : EngKind} {a : Src} {v : Nat} {m' : Mach} {o : EngOp} (hp : Posts i kind a) (ha : AdmitsLast s.m g i)
    (hv : s.m.loadNow g (g.warp.pair a) 64 (g.plainly 64) = (.ok v, m')) (ho : o = EngOp.parse g kind (g.warp.pair a) (m'.trapPc g) v) :
    (o.wellFormed v = false ∨ (∃ h, h ∈ o.handles ∧ m'.endFits g o h = false) →
      exec i s = .next { s with m := m'.trap g i (TrapRec.of 0x0E) }) ∧
    (o.wellFormed v = true → (∀ h, h ∈ o.handles → m'.endFits g o h = true) →
      ((∃ h, h ∈ o.handles ∧ Mach.ringBound g h = false) → exec i s = .next { s with m := m'.trap g i (TrapRec.of 0x0F) }) ∧
      ((∀ h, h ∈ o.handles → Mach.ringBound g h = true) → (∃ h, h ∈ o.handles ∧ m'.pipeBound g h = false) →
        exec i s = .next { s with m := m'.trap g i (TrapRec.of 0x11) })) := by
  subst ho
  rw [hp.exec_eq, postOp, issueLast_admits _ ha, withLoad_ok _ hv]
  simp only
  refine ⟨fun hbad => ?_, fun hwf hfit => ⟨fun ⟨h, hm, hb⟩ => ?_, fun hring ⟨h, hm, hb⟩ => ?_⟩⟩
  · rw [if_pos]
    · rfl
    · rw [Bool.or_eq_true]
      exact hbad.imp (by simp [·]) fun ⟨h, hm, hf⟩ => not_all_of_mem hm hf
  · rw [if_neg (by simpa [hwf] using hfit), if_pos (not_all_of_mem hm hb)]
    rfl
  · rw [if_neg (by simpa [hwf] using hfit), if_neg (not_not_all hring), if_pos (not_all_of_mem hm hb)]
    rfl

theorem lastTrap_traps {r : TrapRec} {m' : Mach} (hc : LastTrap s.m g i r m') (ha : AdmitsLast s.m g i) :
    exec i s = .next { s with m := m'.trap g i r } := by
  cases hc with
  | ringName _ a hn h16 =>
    rcases hn.cases with rfl | ⟨b, hb⟩
    · rw [exec_ersetFree, execErsetFree, ringOp_unnamed _ ha h16]
    · obtain ⟨k, hk⟩ := hb.exec_eq
      exact (hk s).trans (ringCount_unnamed k ha h16)
  | bindName a b h16 =>
    simp only [exec_ersetBind, execErsetBind, issueLast_admits _ ha, dif_neg (Nat.not_lt.mpr h16)]
    rfl
  | count _ a b hb hn =>
    obtain ⟨k, hk⟩ := hb.exec_eq
    exact (hk s).trans (ringCount_outside k ha hn)
  | deep _ a b h r hb hn hr hd =>
    obtain ⟨k, hk⟩ := hb.exec_eq
    exact (hk s).trans (ringCount_deep k ha hn hr hd)
  | unbound _ a b h hb hn hr h1 h2 =>
    obtain ⟨k, hk⟩ := hb.exec_eq
    rw [hk, ringCount_named k ha hn h1 h2, hr]
    rfl
  | unboundFree a h hn hr =>
    rw [exec_ersetFree, execErsetFree, ringOp_named _ ha hn, hr]
    rfl
  | badRing a b v m' h16 hv hp =>
    simp only [exec_ersetBind, execErsetBind, issueLast_admits _ ha, dif_pos h16, withLoad_ok _ hv, hp]
    rfl
  | full a b h r hn hr hd h2 hroom =>
    rw [exec_ersetPush, execErsetPush, ringCount_named _ ha hn (by omega) h2, hr]
    simp only [if_neg (Nat.not_lt.mpr hd), if_pos hroom]
    rfl
  | short a b h r hn hr hd h2 hheld =>
    rw [exec_ersetPop, execErsetPop, ringCount_named _ ha hn (by omega) h2, hr]
    simp only [if_neg (Nat.not_lt.mpr hd), if_pos hheld]
    rfl
  | noPipe _ a msg hn hp => exact noPipe_traps hn ha hp
  | noMailbox d a b p hp hm =>
    simp only [exec_precv, execPrecv, issueLast_admits _ ha, hp, hm, Bool.not_false, if_true]
    rfl
  | noTarget a b hp =>
    simp only [exec_pmsg, execPmsg, issueLast_admits _ ha, hp]
    rfl
  | notMsg a b p hp hm => exact pmsg_refused ha hp (.inl hm)
  | otherPartition a b p c hp hc hne => exact pmsg_refused ha hp (.inr ⟨c, hc, hne⟩)
  | noReserved a b p hp hs =>
    simp only [exec_pcmt, execPcmt, issueLast_admits _ ha, hp, hs]
    rfl
  | noTaken a b p hp hs =>
    simp only [exec_prel, execPrel, issueLast_admits _ ha, hp, hs]
    rfl
  | statRing d a h hn hr =>
    simp only [exec_pstat, execPstat, issueLast_admits _ ha, hn, h.isLt, dif_pos]
    rw [hr]
    rfl
  | statPipe d a n hn h hp => exact pstat_noPipe ha hn h hp
  | statName d a h1 h2 => exact pstat_name ha h1 h2
  | badPost _ kind a v m' o hp hv ho hbad => exact (post_traps hp ha hv ho).1 hbad
  | noRing _ kind a v m' o h hp hv ho hwf hfit hm hb => exact ((post_traps hp ha hv ho).2 hwf hfit).1 ⟨h, hm, hb⟩
  | noEnd _ kind a v m' o h hp hv ho hwf hfit hring hm hb => exact ((post_traps hp ha hv ho).2 hwf hfit).2 hring ⟨h, hm, hb⟩

/-- Settles O15, by the cases of the three tables. -/
theorem preciseTraps : Obligations.PreciseTraps := by
  unfold Obligations.PreciseTraps
  exact ⟨fun s g i r hc h => trapCase_traps hc h, fun s g i r m' hc ha => lastTrap_traps hc ha, fun s g i hp h hu => privileged_traps hp h hu⟩

end

end Sys2Proof.Machine

/-! PROOFS. Entry into a trap, the instructions that trap once they have retired, and what a stop leaves of its context (spec 21 R361, R364 to
R369; 09 R178, R179). -/

namespace Sys2Proof.Machine

/-! ### A stop halts its context -/

/-- A change of a context that keeps its number and its halt. -/
theorem ctx_modCtx_halt {f : Context → Context} (hid : ∀ c, (f c).id = c.id) (hh : ∀ c, (f c).halt = c.halt) (m : Mach) (k id : Nat) :
    ((m.modCtx k f).ctx? id).map (·.halt) = (m.ctx? id).map (·.halt) := by
  have e : ((fun c => c.id == id) ∘ fun c => if c.id = k then f c else c) = fun c : Context => c.id == id := by
    funext c
    simp only [Function.comp]
    split <;> simp [hid]
  simp only [Mach.ctx?, Mach.modCtx, List.find?_map, e]
  cases m.contexts.find? fun c => c.id == id with
  | none => rfl
  | some c =>
    simp only [Option.map_some]
    split
    · rw [hh]
    · rfl

theorem ctx_of_base {m m' : Mach} (h : m'.base = m.base) (id : Nat) : m'.ctx? id = m.ctx? id := by
  simp only [Mach.ctx?, contexts_of_base h]

theorem stopAreas_halt (m : Mach) (p ctx va : Nat) (cut : List Nat) (own : Bool) (rs : List TrapRec) (id : Nat) :
    ((m.stopAreas p ctx va cut own rs).ctx? id).map (·.halt) = (m.ctx? id).map (·.halt) := by
  have hcut (m : Mach) (ds : List Nat) :
      (ds.foldl (fun m d => m.stopArea d ctx va false (rs.filter fun r => r.die = d)) m).ctx? id = m.ctx? id :=
    ctx_of_base (foldl_base _ (fun m d => stopArea_base ..) ds m) id
  unfold Mach.stopAreas
  split
  · dsimp only
    rw [ctx_modCtx_halt, hcut] <;> exact fun _ => rfl
  · rw [ctx_of_base (stopArea_base ..), ctx_modCtx_halt, hcut] <;> exact fun _ => rfl

theorem stopBy_halts {m : Mach} {id : Nat} {c : Context} (h : m.ctx? id = some c) (cause : Nat) (own : Option TrapRec) (who : Option Served)
    (cut : List Nat) {halt : Halt} (hh : c.halt = some .stopped → halt = .stopped) :
    ((m.stopBy id cause own who cut halt).ctx? id).map (·.halt) = some (some halt) := by
  unfold Mach.stopBy
  simp only [h]
  split
  · next hc =>
    rw [h]
    rcases hc with hc | hc
    · rw [hh hc]
      exact congrArg some hc
    · exact congrArg some hc
  · rw [stopAreas_halt]
    have hm := fun ts : List Team => congrArg (Option.map (·.halt))
      (ctx_modCtx (m := { m with teams := ts }) h (fun c => { c with halt := some halt, haltDue := false, reported := false }) fun _ => rfl)
    split <;> exact hm _

/-! ### What runs again counts anew, and nothing else -/

theorem Warp.rewind_still (x : Warp) (n : Nat) : (x.rewind n).still = x.still := by
  unfold Warp.rewind Warp.still
  simp only [List.map_map, Option.map_map]
  rfl

/-- Writing back accumulators commutes with leaving out what a step always changes. -/
theorem Warp.drainMma_still (x : Warp) : x.drainMma.still = x.still.drainMma := by
  have hset (y : Warp) (r : Fin 64) (l : Fin 32) (v : Word) : y.still.setReg r l v = (y.setReg r l v).still := by
    simp only [Warp.still, Warp.setReg]
  have hone (y : Warp) (p : MmaPend) :
      p.writes.foldl (fun x q => x.setReg q.1 q.2.1 q.2.2) y.still = (p.writes.foldl (fun x q => x.setReg q.1 q.2.1 q.2.2) y).still :=
    List.foldl_hom Warp.still fun y q => hset y q.1 q.2.1 q.2.2
  have hall : x.mma.foldl (fun x p => p.writes.foldl (fun x q => x.setReg q.1 q.2.1 q.2.2) x) x.still =
      (x.mma.foldl (fun x p => p.writes.foldl (fun x q => x.setReg q.1 q.2.1 q.2.2) x) x).still :=
    List.foldl_hom Warp.still fun y p => hone y p
  have hmma : x.still.mma = x.mma := rfl
  rw [Warp.drainMma, Warp.drainMma, hmma, hall]
  rfl

/-- A trap seen from a warp that agrees but for its counts. -/
theorem Taken.of_still {m m' : Mach} {g : Issue} {y z : Warp} {r : TrapRec} {pc : Nat} (hs : y.still = z.still) (hslices : y.slices = z.slices)
    (hlc : y.lc = z.lc) (h : Taken m g y r pc m') : Taken m g z r pc m' := by
  obtain ⟨⟨x, p, hw, hrun, htrap, hp, hg, hb, hpcs, hl, hf⟩, queued, others, unit⟩ := h
  have hr : y.run = z.run := (congrArg Warp.run hs : y.still.run = z.still.run)
  have ht : y.trap = z.trap := (congrArg Warp.trap hs : y.still.trap = z.still.trap)
  refine ⟨⟨x, p, hw, hrun, htrap, hp, hg, hb, fun j => ?_, hlc ▸ hl, ?_⟩, queued, others, unit⟩
  · rw [hpcs, hslices]
  · rw [← hr, ← ht, hf, Warp.drainMma_still, Warp.drainMma_still, hs]

section
variable {m : Mach} {g : Issue} {i : Instr} {r : TrapRec}

/-- An encoded instruction resumes where 07 R119 says. -/
theorem rpcOf_eq (hi : ∀ c w, i ≠ .illegalInstruction c w) : m.rpcOf g i = g.resumeAt m i := by
  have hl : latched i = i.uses.readsLatch := by
    unfold latched
    split
    · next c w => exact absurd rfl (hi c w)
    · rfl
  rw [Mach.rpcOf, hl]
  rfl

/-- The issuing warp with a change made, and its team. -/
theorem team_modWarp (h : m.issuer = some g) (f : Warp → Warp) : (m.modWarp g.t g.w f).teams[g.t]? = some (g.team.modWarp g.w f) := by
  obtain ⟨ht, -⟩ := issuer_some h
  simp [Mach.modWarp, Mach.modTeam, ht]

/-- An event of the issuing warp, changed by `f` first, that goes to a handler. -/
theorem taken_of_handled (h : m.issuer = some g) (hr : g.routed r.cause) {m1 : Mach} {f : Warp → Warp} {y : Warp} {pc next : Nat}
    {redo rres : Bool} (hm : m1.teams = (m.modWarp g.t g.w f).teams) (hc : m1.contexts = m.contexts) (hf : f g.warp = y)
    (hpend : y.pendBits = g.warp.pendBits) (hcore : y.core = g.warp.core) :
    Taken m g y r pc (m1.takeEvent g.t g.w g.gang pc next none redo rres r) := by
  obtain ⟨-, -, hctx, -⟩ := issuer_some h
  obtain ⟨hserved, hroute⟩ := hr
  have hctx1 : m1.ctx? g.team.ctx = some g.ctx := by rw [Mach.ctx?, hc]; exact hctx
  have hwarp : m1.warp? g.t g.w = some y := by
    rw [warp_of_teams hm, warp_modWarp_self (warp_issuer h), hf]
  have hteam : m1.teams[g.t]? = some (g.team.modWarp g.w f) := by rw [hm, team_modWarp h]
  obtain ⟨p, va, hp, hg, -, -, -, hw, hq, ho, hu⟩ := takeEvent_handled (t := g.t) (w := g.w) g.gang pc next none redo rres r hteam hwarp hserved
    hctx1 hroute
  have hdue : m1.haltDue g.team.ctx = m.haltDue g.team.ctx := by rw [Mach.haltDue, Mach.haltDue, hctx1, hctx]
  have hp' : p.rcd = g.fullRecord m r := by
    rw [hp, hpend, hcore]
    exact congrArg (fun b => ({ r with pend := g.warp.pendBits b } : TrapRec).at g.team g.w g.core) hdue
  refine Taken.of_stopped hw hp' hg hq (fun t w hne => ?_) hu
  rw [ho t w hne, warp_of_teams hm, warp_modWarp_other hne]

theorem trap_handled (h : m.issuer = some g) (hi : ∀ c w, i ≠ .illegalInstruction c w) (hr : g.routed r.cause) :
    Taken m g g.warp { r with pc := m.trapPc g, rpc := g.resumeAt m i, iword := i.word } (g.resumeAt m i) (m.trap g i r) := by
  rw [Mach.trap, rpcOf_eq hi]
  have hrewound := taken_of_handled (r := { r with pc := m.trapPc g, rpc := g.resumeAt m i, iword := i.word }) h hr
    (m1 := m.modWarp g.t g.w (Warp.rewind · (m.undone g i))) (f := (Warp.rewind · (m.undone g i))) (y := g.warp.rewind (m.undone g i))
    (pc := g.resumeAt m i) (next := g.pc + i.size) (redo := false) (rres := false) rfl rfl rfl rfl rfl
  exact Taken.of_still (Warp.rewind_still ..) rfl rfl hrewound

/-- An event of a warp that is no handler is routed. -/
theorem takeEvent_routes {t w : Nat} {team : Team} {x : Warp} (gang : BitVec 8) (pc next : Nat) (late : Option Flight)
    (redo rres : Bool) (ht : m.teams[t]? = some team) (hw : m.warp? t w = some x) (hs : team.served = none) :
    ∃ (m1 : Mach) (r' : TrapRec) (sv : Nat → Served), m1.contexts = m.contexts ∧ r'.cause = r.cause ∧
      m.takeEvent t w gang pc next late redo rres r = m1.route team.ctx r' sv rres := by
  let p : Pending :=
    { rcd := ({ r with pend := x.pendBits (m.haltDue team.ctx) } : TrapRec).at team w x.core, gang := gang, next := next, late := late, redo := redo
      recVA := match m.ctx? team.ctx with | some c => m.trapEntry c | none => 0 }
  refine ⟨{ (m.modWarp t w fun _ => x.stoppedBy gang pc p) with unit := none }, p.rcd, .warp t w p.rcd, rfl, rfl, ?_⟩
  simp only [Mach.takeEvent, ht, hw, hs, Option.isSome_none]
  rfl

/-- An event of a warp that is no handler, of a group whose route is 0, stops the context. -/
theorem takeEvent_stops {t w : Nat} {team : Team} {x : Warp} {c : Context} (gang : BitVec 8) (pc next : Nat) (late : Option Flight)
    (redo rres : Bool) (ht : m.teams[t]? = some team) (hw : m.warp? t w = some x) (hs : team.served = none)
    (hc : m.ctx? team.ctx = some c) (hr : c.routeOf (causeGroup r.cause) = 0) :
    ((m.takeEvent t w gang pc next late redo rres r).ctx? team.ctx).map (·.halt) = some (some .stopped) := by
  obtain ⟨m1, r', sv, hctx, hcause, hm⟩ := takeEvent_routes (r := r) gang pc next late redo rres ht hw hs
  have h1 : m1.ctx? team.ctx = some c := by rw [Mach.ctx?, hctx]; exact hc
  rw [hm]
  simp only [Mach.route, h1, hcause, hr]
  exact stopBy_halts h1 _ _ _ _ fun _ => rfl

theorem trap_stops (h : m.issuer = some g) (hs : g.team.served = none) (hr : g.ctx.routeOf (causeGroup r.cause) = 0) :
    ((m.trap g i r).ctx? g.team.ctx).map (·.halt) = some (some .stopped) := by
  obtain ⟨-, -, hctx, -⟩ := issuer_some h
  exact takeEvent_stops (team := g.team.modWarp g.w (Warp.rewind · (m.undone g i))) _ _ _ _ _ _ (team_modWarp h _)
    (warp_modWarp_self (warp_issuer h) _) hs hctx hr

/-- Settles O16: a trap rewinds the counts of the warp and takes the event, which its route sends to a handler or stops. -/
theorem trapEntry : Obligations.TrapEntry := by
  unfold Obligations.TrapEntry
  exact ⟨fun m g i r h _ hi hr => trap_handled h hi hr, fun m g i r h hs hr => trap_stops h hs hr⟩

end

end Sys2Proof.Machine

/-! PROOFS. TRAP and BKPT (spec 09 R178, R179). -/

namespace Sys2Proof.Machine

section
variable {s : State} {m m' : Mach} {g : Issue} {i : Instr} {r : TrapRec} {y : Warp} {pc : Nat}

theorem Taken.of_mod (h : Taken m g y r (pc % 2 ^ 48) m') : Taken m g y r pc m' := by
  obtain ⟨⟨x, p, hw, hrun, htrap, hp, hg, hb, hpcs, hl, hf⟩, queued, others, unit⟩ := h
  exact ⟨⟨x, p, hw, hrun, htrap, hp, hg, hb, fun j => by rw [hpcs, Nat.mod_mod], hl, hf⟩, queued, others, unit⟩

theorem wentOn_still (g : Issue) (m : Mach) (i : Instr) : (g.wentOn m i).still = g.warp.still := by
  rw [Issue.wentOn, Warp.goOn_still, Warp.settle_still, Warp.begin_still]

theorem wentOn_pendBits (g : Issue) (m : Mach) (i : Instr) : (g.wentOn m i).pendBits = g.warp.pendBits := by
  have hasked : (g.wentOn m i).asked = g.warp.asked := by simp [Issue.wentOn]
  have hslice : (g.wentOn m i).slice = g.warp.slice := by simp [Issue.wentOn]
  funext halt
  rw [Warp.pendBits, Warp.pendBits, hasked, hslice]

theorem wentOn_core (g : Issue) (m : Mach) (i : Instr) : (g.wentOn m i).core = g.warp.core := by simp [Issue.wentOn]

/-- The machine after an instruction without effect. -/
def Issue.retired (g : Issue) (m : Mach) (i : Instr) : Mach := m.retire g i (g.warp.begin i.uses)

theorem retired_warp (h : m.issuer = some g) (i : Instr) : (g.retired m i).warp? g.t g.w = some (g.wentOn m i) :=
  warp_modWarp_self (warp_issuer h) _

/-- Where the gang stands once the instruction has retired. -/
theorem retired_pcNow (h : m.issuer = some g) (i : Instr) : (g.retired m i).pcNow g = g.nextPc i % 2 ^ 48 := by
  obtain ⟨lead, hl⟩ := gang_exists h
  cases hs : g.slices with
  | nil =>
    have := (g.mem_slices lead).mpr hl
    rw [hs] at this
    cases this
  | cons j t =>
    have hj : g.inGang j := (g.mem_slices j).mp (hs ▸ List.mem_cons_self ..)
    simp only [Mach.pcNow, retired_warp h, hs, (wentOn_goes g m i).pcs, if_pos hj]

/-- The machine after an instruction that retires and then takes an event. -/
def Issue.takesAfter (g : Issue) (m : Mach) (i : Instr) (r : TrapRec) : Mach :=
  (g.retired m i).takeEvent g.t g.w g.gang (g.nextPc i % 2 ^ 48) (g.nextPc i % 2 ^ 48) none false false r

theorem takesAfter_taken (h : m.issuer = some g) (hr : g.routed r.cause) :
    Taken m g (g.wentOn m i) r (g.nextPc i) (g.takesAfter m i r) :=
  Taken.of_mod (taken_of_handled h hr (m1 := g.retired m i) (f := fun _ => g.wentOn m i) rfl rfl rfl (wentOn_pendBits ..) (wentOn_core ..))

theorem trap_answers {a : Src} (h : Admits s.m g (.trap a)) :
    exec (.trap a) s = .next { s with m := g.takesAfter s.m (.trap a) { TrapRec.of 0x27 with
      pc := s.m.trapPc g, rpc := g.nextPc (.trap a) % 2 ^ 48, iword := (Instr.trap a).word, tcode := (g.warp.one a).toNat % 65536 } } := by
  rw [exec_trap, execTrap, issue_admits _ h, Issue.takesAfter, ← retired_pcNow h.issues]
  rfl

/-- The event that a BKPT takes. -/
def Issue.breakpoint (g : Issue) (m : Mach) : TrapRec :=
  { TrapRec.of 0x28 with pc := m.trapPc g, rpc := g.nextPc .bkpt % 2 ^ 48, iword := Instr.bkpt.word }

theorem bkpt_answers (h : Admits s.m g .bkpt) (hd : g.ctx.debugger = false) :
    exec .bkpt s = .next { s with m := g.takesAfter s.m .bkpt (g.breakpoint s.m) } := by
  rw [exec_bkpt, execBkpt, issue_admits _ h, Issue.takesAfter, Issue.breakpoint, ← retired_pcNow h.issues]
  simp only [hd]
  rfl

/-- With a debugger attached BKPT halts the context. -/
theorem bkpt_halts (h : Admits s.m g .bkpt) (hd : g.ctx.debugger = true) :
    ∃ m, exec .bkpt s = .next { s with m := m } ∧ (m.ctx? g.team.ctx).map (·.halt) = some (some .debugger) := by
  obtain ⟨-, -, hctx, -, -, hhalt⟩ := issuer_some h.issues
  have hctx1 : (g.retired s.m .bkpt).ctx? g.team.ctx = some g.ctx := hctx
  have hstop := fun own who => stopBy_halts hctx1 0x50 own who [] (halt := .debugger) fun hc => by rw [hhalt] at hc; cases hc
  rw [exec_bkpt, execBkpt, issue_admits _ h]
  simp only [hd, if_true]
  exact ⟨_, rfl, hstop _ _⟩

/-- Settles O18: the event is taken from the warp that has gone on. -/
theorem systemTraps : Obligations.SystemTraps := by
  unfold Obligations.SystemTraps
  intro s g
  refine ⟨fun a h hr => ?_, fun h hr hd => ?_, bkpt_halts⟩
  · exact ⟨_, _, trap_answers h, wentOn_goes .., wentOn_still .., takesAfter_taken h.issues hr⟩
  · exact ⟨_, _, bkpt_answers h hd, wentOn_goes .., wentOn_still .., takesAfter_taken h.issues hr⟩

end

end Sys2Proof.Machine

/-! PROOFS. Instructions that are turned away (spec 07 R115, R121; 12 R220). -/

namespace Sys2Proof.Machine

section
variable {s : State} {g : Issue} {i : Instr}

/-- The instructions of the register families meet the tests at issue and nothing else before their effect. -/
theorem registerFamilies_issue (hi : (∃ d r, LaneResult i d r) ∨ (∃ d r, LaneResult' i d r) ∨ (∃ d r, ScalarResult i d r) ∨ (∃ c, Compare i c)) :
    ∃ run, exec i s = issue i s run := by
  rcases hi with ⟨d, r, h⟩ | ⟨d, r, h⟩ | ⟨d, r, h⟩ | ⟨c, h⟩
  · exact ⟨_, h.exec_eq⟩
  · exact ⟨_, h.exec_eq⟩
  · exact ⟨_, h.exec_eq⟩
  · exact ⟨_, h.exec_eq⟩

theorem issue_gate_trap {r : TrapRec} (run : Mach → Issue → Mach) (h : s.m.issuer = some g) (hg : g.gate i i.uses = .trap r) :
    issue i s run = .next { s with m := s.m.trap g i r } := by
  simp only [issue, issueWith, withIssuer, onMach, h, hg]

theorem issue_gate_wait (run : Mach → Issue → Mach) (h : s.m.issuer = some g) (hg : g.gate i i.uses = .wait) :
    issue i s run = .next { s with m := s.m.stall g } := by
  simp only [issue, issueWith, withIssuer, onMach, h, hg]

/-! ### What the tests at issue say, in their order -/

section
variable {u : Uses}

theorem gate_meld (h : g.breaksMeld i u = true) : g.gate i u = .trap (TrapRec.of 0x07) := if_pos h

variable (hregion : g.breaksMeld i u = false) (hpairs : g.lanes.any (g.oddName u) = false)
include hregion hpairs

theorem gate_aboveV (h : g.aboveV u = true) : ∃ l, g.gate i u = .trap { TrapRec.of 0x04 with lane := l } := by
  rw [Issue.gate, if_neg (ne_true_of_eq_false hregion), if_neg (ne_true_of_eq_false hpairs), if_pos h]
  exact ⟨_, rfl⟩

variable (hv : g.aboveV u = false) (hp : ((u.super && !g.team.super) || u.denied) = false)
include hv hp

theorem gate_privileged : g.gate i u =
    if g.warp.latchMisuse u then .trap (TrapRec.of 0x06)
    else if g.hazard u || g.held u then .wait
    else match g.poisoned u with
      | some p => .trap (TrapRec.poison p)
      | none => .pass := by
  rw [Issue.gate, if_neg (ne_true_of_eq_false hregion), if_neg (ne_true_of_eq_false hpairs), if_neg (ne_true_of_eq_false hv),
    if_neg (ne_true_of_eq_false hp)]
  rfl

end

theorem illegal_word (h : s.m.issuer = some g) (c : Illegal) (w : Nat) :
    exec (.illegalInstruction c w) s = .next { s with m := s.m.trap g (.illegalInstruction c w) (TrapRec.of (illegalCode c)) } := by
  rw [exec_illegalInstruction, execIllegalInstruction]
  simp only [withIssuer, onMach, h]
  rfl

/-- Settles O17, by the tests at issue in their order. -/
theorem turnedAway : Obligations.TurnedAway := by
  unfold Obligations.TurnedAway
  refine ⟨fun s g c w h => illegal_word h c w, fun s g i hi h => ?_⟩
  obtain ⟨run, hrun⟩ := registerFamilies_issue (s := s) hi
  rw [hrun]
  refine ⟨fun hm => issue_gate_trap run h (gate_meld hm), fun hregion hpairs => ⟨fun hv => ?_, fun hv hp => ?_⟩⟩
  · obtain ⟨l, hl⟩ := gate_aboveV hregion hpairs hv
    exact ⟨l, issue_gate_trap run h hl⟩
  have hgate := gate_privileged hregion hpairs hv hp
  refine ⟨fun hl => ?_, fun hl => ⟨fun hw => ?_, fun hz hh p hpoison => ?_⟩⟩
  · rw [if_pos hl] at hgate
    exact issue_gate_trap run h hgate
  · rw [if_neg (ne_true_of_eq_false hl), if_pos (by simpa using hw)] at hgate
    exact issue_gate_wait run h hgate
  · rw [if_neg (ne_true_of_eq_false hl), if_neg (by simp [hz, hh]), hpoison] at hgate
    exact issue_gate_trap run h hgate

end

end Sys2Proof.Machine

/-! PROOFS. Special registers (spec 09 R180, R182; 21 R367; 23 R387). -/

namespace Sys2Proof.Machine

section
variable {s : State} {g : Issue} {n : Fin 128}

theorem SpecialReg.value {f : Fuse} {r : Fin 32 → Word} (h : SpecialReg f g n r) (m : Mach) : sysValue f m g n.val = r := by
  cases h with
  | preq =>
    funext l
    simp only [sysValue]
    cases g.warp.preq <;> rfl
  | part => exact funext fun l => BitVec.ofNat_toNat 32 g.warp.part
  | _ => rfl

theorem SuperReg.value {m : Mach} {r : Word} (h : SuperReg m g n r) (f : Fuse) (l : Fin 32) : sysValue f m g n.val l = r := by
  cases h with
  | stopcode r va hr | stopskid r va hr | trecl r va hr | trech r va hr =>
    simp only [sysValue, hr]
    rfl
  | noRecord n hr hn => rcases hn with e | e | e | e <;> simp only [e, sysValue, hr] <;> rfl
  | tresume => rfl
  | dom k =>
    fin_cases k <;> rfl

theorem SuperReg.super {m : Mach} {r : Word} (h : SuperReg m g n r) : sysSuper n.val = true := by
  cases h with
  | noRecord n hr hn => rcases hn with e | e | e | e <;> rw [e] <;> rfl
  | dom k => simp only [sysSuper, Bool.or_eq_true, decide_eq_true_eq]; omega
  | _ => rfl

theorem sysr_vec {d : Dst} (h : Admits s.m g (.sysr n (.vec d))) :
    ∃ x, WritesLanes s g (.sysr n (.vec d)) d (sysValue s.fuse s.m g n.val) x :=
  WritesLanes.of_retire ((exec_sysr ..).trans (issue_admits _ h))

theorem sysr_scal {d : SDst} (h : Admits s.m g (.sysr n (.scal d))) :
    ∃ x, WritesScalar s g (.sysr n (.scal d)) d (sysValue s.fuse s.m g n.val 0) x :=
  WritesScalar.of_retire ((exec_sysr ..).trans (issue_admits _ h))

/-- Settles O19: SYSR writes `sysValue`, which is the value of each register, after the test of privilege. -/
theorem specialRegisters : Obligations.SpecialRegisters := by
  unfold Obligations.SpecialRegisters
  refine ⟨fun s g n r hr => ⟨fun d h => ?_, fun d _ h => ?_⟩, fun s g n r hr => ⟨fun d h => ?_, fun d h => ?_, fun d h hu => ?_⟩⟩
  · exact hr.value s.m ▸ sysr_vec h
  · exact hr.value s.m ▸ sysr_scal h
  · have hv : sysValue s.fuse s.m g n.val = fun _ => r := funext (hr.value s.fuse)
    exact hv ▸ sysr_vec h
  · exact hr.value s.fuse 0 ▸ sysr_scal h
  · exact (exec_sysr ..).trans (issue_privilege _ h hr.super hu)

end

end Sys2Proof.Machine

/-! PROOFS. SYSW of the cache-domain registers (spec 23 R387, R389; 24 R399). -/

namespace Sys2Proof.Machine

/-- A SYSW of register `n` with the value `v`, immediate or from a source. -/
def WritesSysreg (s : State) (g : Issue) (n : Fin 128) (i : Instr) (v : Word) : Prop :=
  (∃ b, i = .sysw n b ∧ g.warp.one b = v) ∨ (∃ c, i = .syswImm n c ∧ s.m.imm c = v)

/-- The bits of a cache-domain register that a write keeps (23 R387). -/
theorem domValue_eq (k : Fin 16) (v : Word) : domValue k v = v &&& if k.val % 2 = 1 then 0xFFFFF else 0x1FFFEFFF := by
  unfold domValue
  split
  · apply BitVec.eq_of_toNat_eq
    rw [BitVec.toNat_and, BitVec.toNat_ofNat]
    exact (Nat.mod_eq_of_lt (by omega)).trans (Nat.and_two_pow_sub_one_eq_mod v.toNat 20).symm
  · apply BitVec.eq_of_toNat_eq
    rw [BitVec.toNat_and, BitVec.toNat_ofNat, Nat.mod_eq_of_lt (by omega)]
    have hmask : (0x1FFFEFFF : Word).toNat = 2 ^ 13 * (2 ^ 16 - 1) + (2 ^ 12 - 1) := rfl
    rw [Nat.add_comm, Nat.mul_comm, hmask]
    refine Nat.eq_of_testBit_eq fun j => ?_
    rw [Nat.testBit_and, Nat.testBit_two_pow_mul_add _ (by omega), Nat.testBit_two_pow_mul_add _ (by omega)]
    split
    · rw [Nat.testBit_mod_two_pow, Nat.testBit_two_pow_sub_one, Bool.and_comm]
    · rw [Nat.testBit_mod_two_pow, Nat.testBit_two_pow_sub_one, Nat.testBit_div_two_pow, Bool.and_comm]
      congr 2
      omega

theorem topBit_iff (v : Word) : v.getLsbD 31 = true ↔ 2 ^ 31 ≤ v.toNat := by
  rw [← BitVec.msb_eq_getLsbD_last (x := v), BitVec.msb_eq_decide, decide_eq_true_iff]

section
variable {s : State} {g : Issue} {k : Fin 16} {n : Fin 128} {i : Instr} {v : Word}

/-- The part of SYSW after the test of its value, of a cache-domain register. -/
def Mach.domainWrite (m : Mach) (g : Issue) (i : Instr) (k : Fin 16) (v : Word) : Mach :=
  match m.writeDomain g.pc k v with
  | .refuse => m.badOperand g i
  | .done m' => m'.retire g i (g.warp.begin i.uses)
  | .waits m' => m'

theorem sysWrite_domain (hn : n.val = 64 + k.val) (imm : Bool) {y : Mach → Issue → Word} (h : s.m.issuer = some g) :
    sysWrite i n imm y s = .next { s with
      m := s.m.issueChecked g i { i.uses with denied := s.m.noGrant g n.val } imm (s.m.badSysw g n (y s.m g)) fun m =>
        m.domainWrite g i k (y m g) } := by
  have hk : (⟨(n.val - 64) % 16, by omega⟩ : Fin 16) = k := Fin.ext (by simp only [hn]; omega)
  simp only [sysWrite, withIssuer, onMach, h]
  refine congrArg (fun run => Host.Outcome.next { s with
    m := s.m.issueChecked g i { i.uses with denied := s.m.noGrant g n.val } imm (s.m.badSysw g n (y s.m g)) run }) (funext fun m => ?_)
  split
  · omega
  · omega
  · omega
  · rw [Mach.domainWrite, ← hk] <;> rfl

theorem issueChecked_congr {m : Mach} {u : Uses} {imm bad : Bool} {f f' : Mach → Mach} (hf : f m = f' m) :
    m.issueChecked g i u imm bad f = m.issueChecked g i u imm bad f' := by
  simp only [Mach.issueChecked, hf]

/-- SYSW, from a source or an immediate. -/
theorem WritesSysreg.exec_eq (hn : n.val = 64 + k.val) (hi : WritesSysreg s g n i v) (h : s.m.issuer = some g) :
    ∃ (imm : Bool), exec i s = .next { s with
      m := s.m.issueChecked g i { i.uses with denied := s.m.noGrant g n.val } imm (s.m.badSysw g n v) fun m => m.domainWrite g i k v } := by
  rcases hi with ⟨b, rfl, hv⟩ | ⟨c, rfl, hv⟩
  · refine ⟨false, (exec_sysw ..).trans ((sysWrite_domain hn _ h).trans ?_)⟩
    rw [issueChecked_congr (f' := fun m => m.domainWrite g (.sysw n b) k v) (congrArg (s.m.domainWrite g (.sysw n b) k) hv), hv]
  · refine ⟨true, (exec_syswImm ..).trans ((sysWrite_domain hn _ h).trans ?_)⟩
    rw [issueChecked_congr (f' := fun m => m.domainWrite g (.syswImm n c) k v) (congrArg (s.m.domainWrite g (.syswImm n c) k) hv), hv]

theorem WritesSysreg.uses (hn : n.val = 64 + k.val) (hi : WritesSysreg s g n i v) : i.uses.super = true ∧ i.uses.denied = false := by
  have hs : sysSuper n.val = true := by
    simp only [sysSuper, Bool.or_eq_true, decide_eq_true_eq]
    omega
  rcases hi with ⟨b, rfl, -⟩ | ⟨c, rfl, -⟩ <;> exact ⟨hs, rfl⟩

/-- At privilege S and with the grant the write is made. -/
theorem sysw_granted (hn : n.val = 64 + k.val) (hi : WritesSysreg s g n i v) (h : Admits s.m g i) (hg : s.m.grant = g.team.part) :
    exec i s = .next { s with m := s.m.domainWrite g i k v } := by
  obtain ⟨imm, he⟩ := hi.exec_eq hn h.issues
  obtain ⟨hs, hd⟩ := hi.uses hn
  have hsuper : g.team.super = true := by simpa [hs, hd] using h.privilege
  have hgrant : s.m.noGrant g n.val = i.uses.denied := by simp [Mach.noGrant, hg, hd]
  have hgate : g.gate i { i.uses with denied := s.m.noGrant g n.val } = .pass := by rw [hgrant]; exact h.gate
  have hbad : s.m.badSysw g n v = false := by
    rw [Mach.badSysw, if_neg (by omega), if_neg (by omega), hgrant, hd, hsuper]
    rfl
  rw [he, hbad, Mach.issueChecked_pass _ _ _ hgate]
  rfl

/-! ### What the write comes to -/

theorem writeDomain_pending {m : Mach} {pc : Nat} (h : ¬ (k.val % 2 = 0 ∧ v.getLsbD 31 = true)) :
    m.writeDomain pc k v = .done { m with domPend := m.domPend.put k (domValue k v) } := by
  rw [topBit_iff] at h
  exact if_pos (by omega)

section
variable {m : Mach} (happly : k.val % 2 = 0 ∧ v.getLsbD 31 = true) (hsw : m.switching = none) (hns : m.switched.contains m.turn = false)
include happly hsw hns

/-- The gangs that wait for a switch once the gang at `pc` has asked for one. -/
def Mach.queueWith (m : Mach) (pc : Nat) : List (Turn × Nat) :=
  if m.applyQueue.any fun q => decide (q.1 = m.turn) then m.applyQueue
  else (m.applyQueue.filter fun q => decide (q.1 ≠ m.turn)) ++ [(m.turn, pc)]

theorem writeDomain_apply (pc : Nat) : m.writeDomain pc k v =
    if ((m.queueWith pc).head?.map Prod.fst) ≠ some m.turn then .waits { m with applies := m.queueWith pc }
    else if applyOk m.dies.length m.domCur (m.domPend.put k (domValue k v)) then
      .waits { m with switching := some (m.turn, m.domPend.put k (domValue k v)), applies := m.applyQueue.filter fun q => decide (q.1 ≠ m.turn) }
    else .refuse := by
  have h1 : ¬ (k.val % 2 = 1 ∨ v.toNat < 2 ^ 31) := by rw [topBit_iff] at happly; omega
  rw [Mach.writeDomain, if_neg h1, if_neg (ne_true_of_eq_false hns)]
  simp only [hsw]
  rfl

end

theorem queueWith_first {m : Mach} {pc : Nat} (h : ∀ q, m.applyQueue.head? = some q → q.1 = m.turn) :
    (m.queueWith pc).head?.map Prod.fst = some m.turn := by
  unfold Mach.queueWith
  cases hq : m.applyQueue with
  | nil => rfl
  | cons q t =>
    have hq1 : q.1 = m.turn := h q (by rw [hq]; rfl)
    simp [hq1]

theorem queueWith_later {m : Mach} {pc : Nat} (h : ¬ ∀ q, m.applyQueue.head? = some q → q.1 = m.turn) :
    (m.queueWith pc).head?.map Prod.fst ≠ some m.turn := by
  push Not at h
  obtain ⟨q, hq, hne⟩ := h
  unfold Mach.queueWith
  cases ht : m.applyQueue with
  | nil => rw [ht] at hq; cases hq
  | cons p t =>
    obtain rfl : p = q := by rw [ht] at hq; exact Option.some.inj hq
    split <;> simp [hne]

theorem queueWith_keeps {m : Mach} {pc : Nat} {q : Turn × Nat} (h : q ∈ m.applyQueue) : q ∈ m.queueWith pc := by
  unfold Mach.queueWith
  split
  · exact h
  · next hany =>
    have hne : q.1 ≠ m.turn := fun e => hany (List.any_eq_true.mpr ⟨q, h, decide_eq_true e⟩)
    exact List.mem_append_left _ (List.mem_filter.mpr ⟨h, decide_eq_true hne⟩)

/-- The gang waits at its own instruction: a place kept for its turn is one at its PC. -/
theorem queueWith_self {m : Mach} (h : m.issuer = some g) : (m.turn, g.pc) ∈ m.queueWith g.pc := by
  unfold Mach.queueWith
  split
  · next hany =>
    obtain ⟨q, hq, he⟩ := List.any_eq_true.mp hany
    have ht : q.1 = m.turn := of_decide_eq_true he
    have hpc : (({ m with turn := q.1 } : Mach).issuer.map Issue.pc) = some q.2 := of_decide_eq_true (List.mem_filter.mp hq).2
    rw [ht] at hpc
    have hg : ({ m with turn := m.turn } : Mach).issuer = some g := h
    rw [hg] at hpc
    have : q = (m.turn, g.pc) := Prod.ext ht (Option.some.inj hpc).symm
    rwa [← this]
  · exact List.mem_append_right _ (List.mem_singleton_self _)

/-! ### Without privilege or grant -/

theorem failsApply_iff {m : Mach} : m.failsApply k v = true ↔ (k.val % 2 = 0 ∧ v.getLsbD 31 = true) ∧
    applyOk m.dies.length ((m.switching.map Prod.snd).getD m.domCur)
      (((m.switching.map Prod.snd).getD m.domPend).put k (domValue k v)) = false := by
  rw [topBit_iff]
  unfold Mach.failsApply
  cases m.switching <;> simp [and_assoc]

theorem sysw_denied (hn : n.val = 64 + k.val) (hi : WritesSysreg s g n i v) (h : Reaches s.m g i)
    (hd : g.team.super = false ∨ (s.m.grant ≠ g.team.part ∧ s.m.switched.contains s.m.turn = false)) :
    (s.m.failsApply k v = true → g.warp.latchMisuse i.uses = false → exec i s = .next { s with m := s.m.trap g i (TrapRec.of 0x03) }) ∧
    (s.m.failsApply k v = false → exec i s = .next { s with m := s.m.trap g i (TrapRec.of 0x05) }) := by
  obtain ⟨imm, he⟩ := hi.exec_eq hn h.issues
  have hdenied : (!g.team.super || s.m.noGrant g n.val) = true := by
    rcases hd with hu | ⟨hg, ht⟩
    · rw [hu]; rfl
    · rw [Mach.noGrant, ht]
      simp [hn, hg]
  have hk : (⟨(n.val - 64) % 16, by omega⟩ : Fin 16) = k := Fin.ext (by simp only [hn]; omega)
  have hbad : s.m.badSysw g n v = s.m.failsApply k v := by
    rw [Mach.badSysw, if_neg (by omega), if_neg (by omega), hdenied, Bool.true_and, hk]
  have hgate := gate_denied (denied := s.m.noGrant g n.val) h (by rwa [(hi.uses hn).1, Bool.true_and])
  rw [he, hbad]
  refine ⟨fun hf hl => ?_, fun hf => ?_⟩
  · simp only [Mach.issueChecked, hgate, hf, hl]
    cases imm <;> rfl
  · rw [hf, Mach.issueChecked_trap _ _ hgate]

/-- Settles O20: the write of `writeDomain` after the tests at issue, of which those of privilege and of the grant look at the value first. -/
theorem domainRegisterWrites : Obligations.DomainRegisterWrites := by
  unfold Obligations.DomainRegisterWrites
  intro s g k n i v hn hi
  change WritesSysreg s g n i v at hi
  rw [← domValue_eq]
  intro new apply first
  refine ⟨fun h hg hna => ?pending, fun h hg ha hsw hns => ?apply, fun h hd => ?denied⟩
  case pending =>
    rw [sysw_granted hn hi h hg, Mach.domainWrite, writeDomain_pending hna]
    exact ⟨g.wentOn s.m i, rfl, wentOn_goes .., wentOn_still ..⟩
  case apply =>
    rw [sysw_granted hn hi h hg, Mach.domainWrite, writeDomain_apply ha hsw hns]
    refine ⟨fun hf hok => ?_, fun hf hok => ?_, fun hf => ?_⟩
    · rw [if_neg (not_not.mpr (queueWith_first hf)), if_pos hok]
    · rw [if_neg (not_not.mpr (queueWith_first hf)), if_neg (ne_true_of_eq_false hok)]
      rfl
    · rw [if_pos (queueWith_later hf)]
      exact ⟨_, rfl, queueWith_self h.issues, fun q => queueWith_keeps⟩
  case denied =>
    obtain ⟨hbad, hgood⟩ := sysw_denied hn hi h hd
    exact ⟨fun hr => hbad (failsApply_iff.mpr hr), fun hr => hgood (Bool.eq_false_of_not_eq_true (mt failsApply_iff.mp hr))⟩

end

end Sys2Proof.Machine

/-! PROOFS. A handler resumes the warp that it serves, or stops its context (spec 21 R367, R368). -/

namespace Sys2Proof.Machine

/-! ### The warp that is resumed -/

theorem deliver_keep {β : Type} (p : Warp → β) (hreg : ∀ x r l v, p (x.setReg r l v) = p x) (hs : ∀ x n v, p (x.setS n v) = p x)
    (hpair : ∀ x n v, p (x.setPair n v) = p x) (x : Warp) (f : Flight) : p (x.deliver f) = p x := by
  unfold Warp.deliver
  split
  · rfl
  · refine foldl_keep _ _ _ (fun x d => ?_) x
    dsimp only
    split <;> split <;> simp only [hreg, hs, hpair]

theorem deliver_run (x : Warp) (f : Flight) : (x.deliver f).run = x.run :=
  deliver_keep (·.run) (fun _ _ _ _ => by simp) (fun _ _ _ => by simp) (fun _ _ _ => by simp) x f

theorem deliver_trap (x : Warp) (f : Flight) : (x.deliver f).trap = x.trap :=
  deliver_keep (·.trap) (fun _ _ _ _ => by simp) (fun _ _ _ => by simp) (fun _ _ _ => by simp) x f

theorem lower_run (x : Warp) (c : Ctr) : (x.lower c).run = x.run := by cases c <;> rfl

theorem lower_trap (x : Warp) (c : Ctr) : (x.lower c).trap = x.trap := by cases c <;> rfl

/-- A warp that is ready and holds no record. -/
def Warp.goes (x : Warp) : Prop := x.run = .ready ∧ x.trap = none

theorem resume_goes {x : Warp} (h : x.trap.isSome) (skip pzero : Bool) : (x.resume skip pzero).goes := by
  obtain ⟨p, hp⟩ := Option.isSome_iff_exists.mp h
  have hz (y : Warp) (hy : y.goes) : (if pzero then y.zeroPoison p.rcd.reg else y).goes := by
    split
    · simpa only [Warp.goes, Warp.zeroPoison] using hy
    · exact hy
  have hpc (y : Warp) (hy : y.goes) : (y.setPc p.gang p.next).goes := by simpa only [Warp.goes, Warp.setPc_run, Warp.setPc_trap] using hy
  unfold Warp.resume
  simp only [hp]
  have hready : (if pzero then ({ x with run := .ready, trap := none, ycnt := if x.preq then 0 else x.ycnt } : Warp).zeroPoison p.rcd.reg
      else { x with run := .ready, trap := none, ycnt := if x.preq then 0 else x.ycnt }).goes := hz _ ⟨rfl, rfl⟩
  generalize (if pzero then ({ x with run := .ready, trap := none, ycnt := if x.preq then 0 else x.ycnt } : Warp).zeroPoison p.rcd.reg
      else { x with run := .ready, trap := none, ycnt := if x.preq then 0 else x.ycnt }) = z at hready ⊢
  obtain ⟨hrun, htrap⟩ := hready
  split
  · exact ⟨hrun, htrap⟩
  · next f _ _ =>
    refine ⟨?_, ?_⟩
    · rw [lower_run, deliver_run, hrun]
    · rw [lower_trap, deliver_trap, htrap]
  · split
    · exact ⟨hrun, htrap⟩
    · split <;> exact ⟨hrun, htrap⟩
  · split
    · exact hpc z ⟨hrun, htrap⟩
    · split
      · exact ⟨hrun, htrap⟩
      · split
        · exact ⟨hrun, htrap⟩
        · exact hpc z ⟨hrun, htrap⟩

/-! ### The effect of TRESUME -/

theorem warp_modTeam_any {m : Mach} {t : Nat} {f : Team → Team} (hf : ∀ x, (f x).warps = x.warps) (t' w : Nat) :
    (m.modTeam t f).warp? t' w = m.warp? t' w := by
  by_cases h : t = t'
  · subst h
    exact warp_modTeam hf w
  · unfold Mach.warp?
    simp [Mach.modTeam, h]

section
variable {m : Mach} {t act : Nat} {x : Team} {tt w : Nat} {r : TrapRec} {va : Nat} {y : Warp} {pzero : Bool}

/-- A team that has written TRESUME. -/
def Team.resumes (x : Team) : Team := { x with resumed := true }

theorem tresume_eq (ht : m.teams[t]? = some x) (hs : x.served = some (.warp tt w r va)) (ha : act = 1 ∨ act = 2) :
    m.tresume t act pzero = (m.modTeam t Team.resumes).modWarp tt w fun y => y.resume (act = 2) pzero := by
  rcases ha with rfl | rfl <;> simp only [Mach.tresume, ht, hs] <;> rfl

theorem resumed_modWarp (m : Mach) (t tt w : Nat) (f : Warp → Warp) :
    ((m.modWarp tt w f).teams[t]?).map (·.resumed) = (m.teams[t]?).map (·.resumed) := by
  simp only [Mach.modWarp, Mach.modTeam, List.getElem?_modify]
  cases m.teams[t]? with
  | none => simp
  | some x => by_cases h : tt = t <;> simp [h, Team.modWarp]

/-- Actions 1 and 2 of TRESUME (21 R368). -/
theorem tresume_resumes (ht : m.teams[t]? = some x) (hs : x.served = some (.warp tt w r va)) (ha : act = 1 ∨ act = 2)
    (hw : m.warp? tt w = some y) (hy : y.trap.isSome) :
    ((m.tresume t act pzero).teams[t]?).map (·.resumed) = some true ∧ ((m.tresume t act pzero).warp? tt w).map (·.run) = some .ready ∧
      ((m.tresume t act pzero).warp? tt w).map (·.trap) = some none := by
  have hwarp : ((m.modTeam t Team.resumes).modWarp tt w fun y => y.resume (act = 2) pzero).warp? tt w = some (y.resume (act = 2) pzero) :=
    warp_modWarp_self ((warp_modTeam_any (f := Team.resumes) (fun _ => rfl) tt w).trans hw) _
  obtain ⟨hrun, htrap⟩ := resume_goes hy (act = 2) pzero
  rw [tresume_eq ht hs ha, hwarp, resumed_modWarp]
  refine ⟨?_, congrArg some hrun, congrArg some htrap⟩
  simp [Mach.modTeam, ht, Team.resumes]

end

/-! ### SYSW of TRESUME -/

section
variable {s : State} {g : Issue} {i : Instr}

theorem sysWrite_tresume {imm : Bool} {y : Mach → Issue → Word} (h : Admits s.m g i) (hd : i.uses.denied = false)
    (hb : s.m.badSysw g 28 (y s.m g) = false) : sysWrite i 28 imm y s = .next { s with m := s.m.writeTresume g i (y s.m g) } := by
  have hg : s.m.noGrant g (28 : Fin 128).val = i.uses.denied := hd.symm
  have hgate : g.gate i { i.uses with denied := s.m.noGrant g (28 : Fin 128).val } = .pass := by rw [hg]; exact h.gate
  simp only [sysWrite, withIssuer, onMach, h.issues, Mach.issueChecked_pass _ _ _ hgate, hb]
  rfl

/-- A value of TRESUME that resumes the warp, without PZERO. -/
theorem tresume_value {v : Word} (hv : v = 1 ∨ v = 2) :
    sysReserved 28 v = false ∧ v.getLsbD 2 = false ∧ v.toNat < 8 ∧ (v.toNat % 4 = 1 ∨ v.toNat % 4 = 2) := by
  rcases hv with rfl | rfl <;> decide

theorem writeTresume_resumes {v : Word} {t w : Nat} {r : TrapRec} {va : Nat} (hr : g.team.resumed = false)
    (hs : g.team.served = some (.warp t w r va)) (hv : v = 1 ∨ v = 2) :
    s.m.writeTresume g i v = (g.retired s.m i).tresume g.t (v.toNat % 4) false := by
  obtain ⟨-, hpz, hlt, hact⟩ := tresume_value hv
  have h0 : ¬ v.toNat % 4 = 0 := by omega
  have h8 : ¬ 8 ≤ v.toNat := by omega
  have hrec : g.team.record = some (r, va) := by simp [Team.record, hs]
  simp only [Mach.writeTresume, hrec, hr, hpz, h0, h8, decide_false, Bool.false_and, Bool.or_false, Bool.false_eq_true, if_false]
  rfl

theorem tresume_answers {v : Word} {t w : Nat} {r : TrapRec} {va : Nat}
    (hi : (∃ b, i = .sysw 28 b ∧ g.warp.one b = v) ∨ (∃ k, i = .syswImm 28 k ∧ s.m.imm k = v)) (h : Admits s.m g i)
    (hr : g.team.resumed = false) (hs : g.team.served = some (.warp t w r va)) (hv : v = 1 ∨ v = 2) :
    exec i s = .next { s with m := (g.retired s.m i).tresume g.t (v.toNat % 4) false } := by
  have hbad : s.m.badSysw g 28 v = false := by
    rw [Mach.badSysw, if_pos (by decide), (tresume_value hv).1, Bool.and_false]
  rw [← writeTresume_resumes (i := i) hr hs hv]
  rcases hi with ⟨b, rfl, rfl⟩ | ⟨k, rfl, rfl⟩
  · exact (exec_sysw ..).trans (sysWrite_tresume h rfl hbad)
  · exact (exec_syswImm ..).trans (sysWrite_tresume h rfl hbad)

/-! ### The events of a running handler -/

theorem handlerResume_eq {m : Mach} {t : Nat} {pzero : Bool} {team : Team} {t' w : Nat} {r : TrapRec} {va : Nat} (ht : m.teams[t]? = some team)
    (hphase : team.phase = .running) (hr : team.resumed = false) (hc : m.ctxRuns team.ctx = true) (hs : team.served = some (.warp t' w r va))
    (hz : pzero = true → r.cause = 0x26) (act : Nat) : m.handlerResume t act pzero = m.tresume t act pzero := by
  have hrec : team.record = some (r, va) := by simp [Team.record, hs]
  have hnz : ¬ (pzero = true ∧ r.cause ≠ 0x26) := fun ⟨h1, h2⟩ => h2 (hz h1)
  simp [Mach.handlerResume, ht, hphase, hr, hc, hrec, hnz]

/-- Action 3 stops the context. -/
theorem tresume_stops {m : Mach} {t : Nat} {pzero : Bool} {team : Team} (ht : m.teams[t]? = some team) (hs : team.served.isSome)
    (hc : m.ctxRuns team.ctx = true) : ((m.tresume t 3 pzero).ctx? team.ctx).map (·.halt) = some (some .stopped) := by
  obtain ⟨sv, hsv⟩ := Option.isSome_iff_exists.mp hs
  obtain ⟨c, hctx⟩ : ∃ c, m.ctx? team.ctx = some c := by
    unfold Mach.ctxRuns at hc
    split at hc
    · next c hctx => exact ⟨c, hctx⟩
    · cases hc
  simp only [Mach.tresume, ht, hsv]
  exact stopBy_halts (m := m.modTeam t Team.resumes) hctx _ _ _ _ fun _ => rfl

theorem retired_team (h : s.m.issuer = some g) (i : Instr) :
    (g.retired s.m i).teams[g.t]? = some (g.team.modWarp g.w fun _ => g.wentOn s.m i) := team_setWarp h _

/-- Settles O21: SYSW and the events of a handler come to `tresume`. -/
theorem handlerResumes : Obligations.HandlerResumes := by
  unfold Obligations.HandlerResumes
  refine ⟨fun s g i v t w r va x hi h _ hr hs hv hne hw hx => ?_, fun s t pzero team t' w r va x ht hphase hr hc hs hz => ⟨fun i hi hw hx => ?_, ?_⟩⟩
  · have hwarp : (g.retired s.m i).warp? t w = some x := (warp_modWarp_other hne _).trans hw
    obtain ⟨h1, h2, h3⟩ := tresume_resumes (pzero := false) (retired_team h.issues i) hs (tresume_value hv).2.2.2 hwarp hx
    exact ⟨_, tresume_answers hi h hr hs hv, h1, h2, h3⟩
  · have hact (act : Nat) (ha : act = 1 ∨ act = 2) := handlerResume_eq ht hphase hr hc hs hz act ▸ tresume_resumes (pzero := pzero) ht hs ha hw hx
    rcases hi with rfl | rfl
    · obtain ⟨h1, h2, h3⟩ := hact 1 (.inl rfl)
      exact ⟨_, exec_tresumeResume .., h2, h3, h1⟩
    · obtain ⟨h1, h2, h3⟩ := hact 2 (.inr rfl)
      exact ⟨_, exec_tresumeResumeWithout .., h2, h3, h1⟩
  · refine ⟨s.m.handlerResume t 3 pzero, exec_tresumeStop .., ?_⟩
    rw [handlerResume_eq ht hphase hr hc hs hz]
    exact tresume_stops ht (by rw [hs]; rfl) hc

end

end Sys2Proof.Machine

/-! PROOFS. LIMM (spec 07 R111, 09 R184). -/

namespace Sys2Proof.Machine

/-- The 25 bits of LIMM above the seven of the follower. -/
theorem limm_append (p : BitVec 25) (k : Fin 128) : BitVec.ofNat 32 (p.toNat * 128 + k.val) = p ++ BitVec.ofNat 7 k.val := by
  apply BitVec.eq_of_toNat_eq
  have hk : k.val < 2 ^ 7 := k.isLt
  have hp : p.toNat < 2 ^ 25 := p.isLt
  rw [BitVec.toNat_append, BitVec.toNat_ofNat, BitVec.toNat_ofNat, Nat.mod_eq_of_lt hk, Nat.mod_eq_of_lt (by omega),
    ← Nat.shiftLeft_add_eq_or_of_lt hk, Nat.shiftLeft_eq]

theorem imm_inUnit {m : Mach} {p : BitVec 25} {pc : Nat} (h : m.unit = some { p := p.toNat, pc := pc }) (k : Fin 128) :
    m.imm k = p ++ BitVec.ofNat 7 k.val := by
  rw [Mach.imm, h]
  exact limm_append p k

theorem limm_answers {s : State} {g : Issue} {p : BitVec 25} (h : Admits s.m g (.limm p)) (hf : s.m.followerOk g = true)
    (hl : g.warp.loopEnd (g.pc + 4) = none) :
    exec (.limm p) s = .next { s with m := { g.retired s.m (.limm p) with unit := some { p := p.toNat, pc := g.pc } } } := by
  rw [exec_limm, execLimm, issue_admits _ h, if_neg (by simp [hf, hl])]
  rfl

/-- Settles O22: LIMM goes on without effect but for the unit that it opens. -/
theorem limmCompletes : Obligations.LimmCompletes := by
  unfold Obligations.LimmCompletes
  intro s g p h hf hl
  exact ⟨g.wentOn s.m (.limm p), limm_answers h hf hl, wentOn_goes .., wentOn_still .., fun k => imm_inUnit rfl k⟩

end Sys2Proof.Machine

/-! PROOFS. The checks of a translation (spec 13 R244, R245), the reset state, the step of a gang, and words of the spec. -/

namespace Sys2Proof.Machine

/-! ### Translation -/

section
variable {m : Mach} {d c ctx va n : Nat} {a : Access} {super : Bool}

theorem translate_misaligned (h : va % n ≠ 0) : (m.translate d c ctx va n a super).1 = .error 0x32 := by
  rw [Mach.translate, if_pos h]

theorem translate_unmapped (h : va % n = 0) (hn : 2 ^ 48 ≤ va ∨ (m.lookup d c ctx va).1 = none) :
    (m.translate d c ctx va n a super).1 = .error 0x30 := by
  rw [Mach.translate, if_neg (not_not.mpr h)]
  split
  · rfl
  · next hlt =>
    have hnone := hn.resolve_left hlt
    split
    · rfl
    · next hl => rw [hl] at hnone; cases hnone

theorem translate_mapped {r : RangeDesc} (h : va % n = 0) (hlt : va < 2 ^ 48) (hr : (m.lookup d c ctx va).1 = some r) :
    (m.translate d c ctx va n a super).1 =
      if r.lastg < (va + n - 1) / 65536 then .error 0x30 else if r.permits a super then .ok r else .error 0x34 := by
  rw [Mach.translate, if_neg (not_not.mpr h), if_neg (Nat.not_le.mpr hlt)]
  split
  · next hl => rw [hl] at hr; cases hr
  · next q m' hl =>
    obtain rfl : q = r := by rw [hl] at hr; exact Option.some.inj hr
    have h64 : (2 : Nat) ^ 16 = 65536 := rfl
    rw [h64]
    cases q.permits a super <;> simp only [Bool.not_true, Bool.not_false, Bool.false_eq_true, if_true, if_false] <;> split <;> rfl

end

/-- Settles O24, by the tests of `translate` in their order. -/
theorem translationChecks : Obligations.TranslationChecks := by
  unfold Obligations.TranslationChecks
  rintro m d c ctx va n a super _ rfl
  exact ⟨translate_misaligned, translate_unmapped, fun r hr h hlt => translate_mapped h hlt hr⟩

/-! ### Reset -/

/-- Settles O55, by evaluation of the reset state. -/
theorem afterReset : Obligations.AfterReset := by
  unfold Obligations.AfterReset
  refine ⟨rfl, rfl, rfl, ?_, rfl, rfl, rfl, ?_, ?_, rfl, rfl⟩
  · decide
  · intro x hx
    obtain rfl : x = Die.reset := List.eq_of_mem_replicate hx
    exact ⟨rfl, rfl, rfl⟩
  · exact fun k => congrArg Port.state (tab_at _ k)

/-! ### A step of the gang that is chosen -/

theorem issueStep_decoded {s t : State} {g : Issue} {bs : List Byte} {i : Instr} {m1 : Mach}
    (hf : s.m.fetch g.team.die g.core g.warp.cluster g.team.ctx g.pc g.team.super (decide (g.warp.replayFetch &&& g.gang ≠ 0)) = (.bytes bs, m1))
    (hd : decode bs = .ok i ∨ ∃ c, decode bs = .error c ∧ i = .illegalInstruction c (wordOf bs)) (he : exec i { s with m := m1 } = .next t) :
    issueStep s g = .next t := by
  rw [issueStep, hf, fetched]
  rcases hd with hd | ⟨c, hd, rfl⟩ <;> simp only [hd, he]

theorem issueTurn_issues {s t : State} {g : Issue} (hg : s.m.issuer = some g) (hb : s.m.beforeIssue g = none) (hi : issueStep s g = .next t) :
    issueTurn s = .next { t with m := t.m.afterIssue g s.m.unit.isSome } := by
  simp only [issueTurn, hg, hb, hi]

/-- What issues in a step that takes no input. -/
theorem step_issues {s : State} (hp : s.m.poweredDown = false) (hin : s.m.unit = none → s.m.inputs = []) :
    step s = issueTurn { s with m := if s.m.unit.isSome then s.m else s.m.choose } := by
  rw [step, if_neg (ne_true_of_eq_false hp)]
  cases hu : s.m.unit with
  | some u => rfl
  | none => simp only [hin hu, Option.isSome_none, Bool.false_eq_true, if_false]

/-- Settles O58: the step is the turn of the gang that is chosen. -/
theorem stepRunsTheDecodedInstruction : Obligations.StepRunsTheDecodedInstruction := by
  unfold Obligations.StepRunsTheDecodedInstruction
  rintro s t g bs i m0 m1 hp hin rfl hg hb hf hd he
  rw [step_issues hp hin]
  exact issueTurn_issues hg hb (issueStep_decoded hf hd he)

/-! ### Words of the spec -/

/-- Settles O59, by evaluation of the table on each word. -/
theorem wordsDecode : Obligations.WordsDecode := by
  unfold Obligations.WordsDecode
  exact ⟨by decide, by decide, by decide, by decide, by decide, by decide, by decide, by decide, by decide, by decide, by decide, by decide⟩

end Sys2Proof.Machine

/-! PROOFS. The decoder reads back what the encoder writes: codes, fields and forms (spec 07 R100 to R121). -/

namespace Sys2Proof

/-! ### Codes -/

theorem Src.code_lt (a : Src) : a.code < 128 := by
  cases a <;> simp only [Src.code] <;> omega

@[simp] theorem Src.ofCode_code (a : Src) : Src.ofCode a.code = some a := by
  cases a with
  | v n => exact dif_pos n.isLt
  | s n => revert n; decide
  | b n => revert n; decide
  | k n => revert n; decide
  | c n => revert n; decide

@[simp] theorem Rm.ofCode_code (m : Rm) : Rm.ofCode m.code = some m := by cases m <;> rfl
@[simp] theorem ICond.ofCode_code (c : ICond) : ICond.ofCode c.code = some c := by cases c <;> rfl
@[simp] theorem FCond.ofCode_code (c : FCond) : FCond.ofCode c.code = some c := by cases c <;> rfl
@[simp] theorem Scope.ofCode_code (c : Scope) : Scope.ofCode c.code = some c := by cases c <;> rfl
@[simp] theorem Path.ofCode_code (p : Path) : Path.ofCode p.code = some p := by cases p <;> rfl
@[simp] theorem MaskName.ofCode_code (k : MaskName) : MaskName.ofCode k.code = some k := by cases k <;> rfl

theorem Rm.code_lt (m : Rm) : m.code < 4 := by cases m <;> decide
theorem ICond.code_lt (c : ICond) : c.code < 64 := by cases c <;> decide
theorem FCond.code_lt (c : FCond) : c.code < 64 := by cases c <;> decide
theorem Scope.code_lt (c : Scope) : c.code < 64 := by cases c <;> decide
theorem Path.code_lt (p : Path) : p.code < 64 := by cases p <;> decide
theorem MaskName.code_lt (k : MaskName) : k.code < 128 := by cases k <;> decide

@[simp] theorem fin?_val {n : Nat} (x : Fin n) : fin? n x.val = some x := dif_pos x.isLt

@[simp] theorem need_some {α : Type} (x : α) (k : α → Except Illegal Instr) : need (some x) k = k x := rfl

@[simp] theorem toNat_eq_one_iff (w : Bool) : (w.toNat = 1) = (w = true) := by cases w <;> simp

/-- The bit of a destination without a register (07 R114). -/
theorem dst_reads {b a f : Nat} {d : Dst} (h : d.ok = true) (k : Dst → Except Illegal Instr) :
    dst ⟨b, a, d.n.val, d.w.toNat, f⟩ k = k d := by
  obtain ⟨w, n⟩ := d
  have hn : ¬ (w.toNat = 1 ∧ n.val ≠ 0) := by
    rintro ⟨hw, hn⟩
    cases w
    · cases hw
    · exact hn (congrArg Fin.val (of_decide_eq_true h))
  simp only [dst, if_neg hn, fin?_val, need_some]
  cases w <;> rfl

theorem sdst_reads {b a f : Nat} {d : SDst} (h : d.ok = true) (k : SDst → Except Illegal Instr) :
    sdst ⟨b, a, d.n.val, d.w.toNat, f⟩ k = k d := by
  obtain ⟨w, n⟩ := d
  have hn : ¬ (w.toNat = 1 ∧ n.val ≠ 0) := by
    rintro ⟨hw, hn⟩
    cases w
    · cases hw
    · exact hn (congrArg Fin.val (of_decide_eq_true h))
  simp only [sdst, if_neg hn, fin?_val, need_some]
  cases w <;> rfl

@[simp] theorem zeros_nil (k : Except Illegal Instr) : zeros [] k = k := rfl

@[simp] theorem zeros_zero (l : List Nat) (k : Except Illegal Instr) : zeros (0 :: l) k = zeros l k := rfl

/-! ### The generic form -/

/-- Field values that fit the generic form (07 R104). -/
structure Fits (w d a b : Nat) : Prop where
  b : b < 128
  a : a < 128
  d : d < 64
  w : w < 2

section
variable {cls f w d a b : Nat}

theorem Fields.of_gen (hc : cls < 16) (hf : f < 64) (h : Fits w d a b) : Fields.of (gen cls f w d a b) = ⟨b, a, d, w, f⟩ := by
  obtain ⟨hb, ha, hd, hw⟩ := h
  simp only [Fields.of, gen, Fields.mk.injEq]
  omega

theorem gen_class (hc : cls < 16) (f w d a b : Nat) : gen cls f w d a b / 2 % 16 = cls := by
  simp only [gen]
  omega

theorem gen_lt (hc : cls < 16) (hf : f < 64) (h : Fits w d a b) : gen cls f w d a b < 2 ^ 32 := by
  obtain ⟨hb, ha, hd, hw⟩ := h
  simp only [gen]
  omega

theorem gen_odd (cls f w d a b : Nat) : gen cls f w d a b % 2 = 1 := by
  simp only [gen]
  omega

theorem gen_funct (hc : cls < 16) (hf : f < 64) (h : Fits w d a b) : gen cls f w d a b / 2 ^ 5 % 64 = f :=
  congrArg Fields.f (Fields.of_gen hc hf h)

end

/-- The table of a class (07 R105). -/
def classTable (cls : Nat) (x : Fields) : Except Illegal Instr :=
  match cls with
  | 0 => decode0 x
  | 1 => decode1 x
  | 2 => decode2 x
  | 3 => decode3 x
  | 4 => decode4 x
  | 5 => decode5 x
  | 6 => decode6 x
  | 7 => decode7 x
  | 8 => decode8 x
  | 9 => decode9 x
  | 10 => decode10 x
  | 11 => decode11 x
  | 12 => decode12 x
  | 13 => decode13 x
  | _ => .error .unassigned

/-- The opcode points of the generic form: neither LIMM, nor the matrix form, nor SWITCH. -/
def generic (cls f : Nat) : Bool :=
  decide (cls < 14) && decide (f < 64) && !(cls == 10 && decide (f % 4 < 2)) && !(cls == 6 && f == 3)

theorem decode32_class {w cls : Nat} (h : w / 2 % 16 = cls) (hc : cls < 14) (h10 : cls = 10 → ¬ w / 2 ^ 5 % 4 < 2) :
    decode32 w = classTable cls (Fields.of w) := by
  rw [decode32, h]
  rcases Nat.lt_trichotomy cls 10 with hlt | rfl | hgt
  · interval_cases cls <;> rfl
  · exact if_neg (h10 rfl)
  · interval_cases cls <;> rfl

theorem decode32_gen {cls f w d a b : Nat} (hp : generic cls f = true) (h : Fits w d a b) :
    decode32 (gen cls f w d a b) = classTable cls ⟨b, a, d, w, f⟩ := by
  simp only [generic, Bool.and_eq_true, decide_eq_true_eq] at hp
  obtain ⟨⟨⟨hc, hf⟩, h10⟩, -⟩ := hp
  have hlt : cls < 16 := by omega
  have hfunct := gen_funct hlt hf h
  rw [← Fields.of_gen hlt hf h]
  refine decode32_class (gen_class hlt ..) hc ?_
  rintro rfl
  have h4 : ¬ f % 4 < 2 := by simpa using h10
  omega

end Sys2Proof

/-! PROOFS. Words as bytes, and what each form of the decoder reads from the fields that the encoder writes (spec 07 R104 to R110). -/

namespace Sys2Proof

/-! ### Bytes -/

theorem half_two (w : Nat) (bs : List Byte) : half (BitVec.ofNat 8 w :: BitVec.ofNat 8 (w / 256) :: bs) = w % 65536 := by
  simp only [half, BitVec.toNat_ofNat]
  omega

/-- The low halfword at the head of four bytes. -/
theorem half_bytesOf (w : Nat) (bs : List Byte) : half (bytesOf 4 w ++ bs) = w % 65536 := half_two ..

/-- The high halfword follows it. -/
theorem half_bytesOf_drop (w : Nat) (bs : List Byte) : half ((bytesOf 4 w ++ bs).drop 2) = w / 65536 % 65536 := by
  have h : w / 256 / 256 = w / 65536 := Nat.div_div_eq_div_mul ..
  exact (half_two (w / 256 / 256) bs).trans (by rw [h])

/-- A 32-bit word is read whole. -/
theorem decode_word {w : Nat} (bs : List Byte) (hlt : w < 2 ^ 32) (hodd : w % 2 = 1) :
    decode (bytesOf 4 w ++ bs) = if isSwitch w then checked (decodeSwitch w bs) else checked (decode32 w) := by
  have hw : w % 65536 + 65536 * (w / 65536 % 65536) = w := by omega
  have hodd' : ¬ w % 65536 % 2 = 0 := by omega
  have hdrop : (bytesOf 4 w ++ bs).drop 4 = bs := rfl
  simp only [decode, half_bytesOf, half_bytesOf_drop, hw, hdrop, if_neg hodd']

theorem decode_short {w : Nat} (hlt : w < 2 ^ 16) (heven : w % 2 = 0) : decode (bytesOf 2 w) = checked (decode16 w) := by
  have h : half (bytesOf 2 w) = w := (half_two w []).trans (Nat.mod_eq_of_lt hlt)
  simp only [decode, h, heven, if_true]

theorem checked_ok {i : Instr} (h : wellFormed i = true) : checked (.ok i) = .ok i := if_pos h

/-- An instruction of the generic form is read back if its table reads its fields. -/
theorem reads {i : Instr} {cls f w d a b : Nat} (henc : encode i = bytesOf 4 (gen cls f w d a b)) (hp : generic cls f = true)
    (h : Fits w d a b) (hdec : classTable cls ⟨b, a, d, w, f⟩ = .ok i) (hwf : wellFormed i = true) : decode (encode i) = .ok i := by
  have hp' := hp
  simp only [generic, Bool.and_eq_true, decide_eq_true_eq] at hp
  obtain ⟨⟨⟨hc, hf⟩, -⟩, h6⟩ := hp
  have hlt : cls < 16 := by omega
  have hsw : isSwitch (gen cls f w d a b) = false := by
    rw [isSwitch, gen_class hlt, gen_funct hlt hf h]
    exact Bool.not_eq_true' _ ▸ h6
  have hd := decode_word [] (gen_lt hlt hf h) (gen_odd cls f w d a b)
  rw [List.append_nil, hsw] at hd
  rw [henc, hd, if_neg (by decide), decode32_gen hp' h, hdec, checked_ok hwf]

/-! ### The forms -/

section
variable (cls f : Nat)

theorem reads_V2 {c : Dst → Src → Src → Instr} {d : Dst} {a b : Src} (hd : d.ok = true) 
    (henc : encode (c d a b) = bytesOf 4 (gen cls f d.w.toNat d.n.val a.code b.code))
    (hp : generic cls f = true) (hdec : classTable cls ⟨b.code, a.code, d.n.val, d.w.toNat, f⟩ = dV2 c ⟨b.code, a.code, d.n.val, d.w.toNat, f⟩) (hwf : wellFormed (c d a b) = true) :
    decode (encode (c d a b)) = .ok (c d a b) :=
  reads henc hp ⟨b.code_lt, a.code_lt, d.n.isLt, d.w.toNat_lt⟩ (hdec.trans (by simp [dV2, dst_reads hd])) hwf

theorem reads_VI {c : Dst → Src → Fin 128 → Instr} {d : Dst} {a : Src} {i : Fin 128} (hd : d.ok = true) 
    (henc : encode (c d a i) = bytesOf 4 (gen cls f d.w.toNat d.n.val a.code i.val))
    (hp : generic cls f = true) (hdec : classTable cls ⟨i.val, a.code, d.n.val, d.w.toNat, f⟩ = dVI c ⟨i.val, a.code, d.n.val, d.w.toNat, f⟩) (hwf : wellFormed (c d a i) = true) :
    decode (encode (c d a i)) = .ok (c d a i) :=
  reads henc hp ⟨i.isLt, a.code_lt, d.n.isLt, d.w.toNat_lt⟩ (hdec.trans (by simp [dVI, dst_reads hd])) hwf

theorem reads_V1 {c : Dst → Src → Instr} {d : Dst} {a : Src} (hd : d.ok = true) 
    (henc : encode (c d a) = bytesOf 4 (gen cls f d.w.toNat d.n.val a.code 0))
    (hp : generic cls f = true) (hdec : classTable cls ⟨0, a.code, d.n.val, d.w.toNat, f⟩ = dV1 c ⟨0, a.code, d.n.val, d.w.toNat, f⟩) (hwf : wellFormed (c d a) = true) :
    decode (encode (c d a)) = .ok (c d a) :=
  reads henc hp ⟨by decide, a.code_lt, d.n.isLt, d.w.toNat_lt⟩ (hdec.trans (by simp [dV1, dst_reads hd])) hwf

theorem reads_K {c : Dst → Fin 128 → Instr} {d : Dst} {i : Fin 128} (hd : d.ok = true) 
    (henc : encode (c d i) = bytesOf 4 (gen cls f d.w.toNat d.n.val 0 i.val))
    (hp : generic cls f = true) (hdec : classTable cls ⟨i.val, 0, d.n.val, d.w.toNat, f⟩ = dK c ⟨i.val, 0, d.n.val, d.w.toNat, f⟩) (hwf : wellFormed (c d i) = true) :
    decode (encode (c d i)) = .ok (c d i) :=
  reads henc hp ⟨i.isLt, by decide, d.n.isLt, d.w.toNat_lt⟩ (hdec.trans (by simp [dK, dst_reads hd])) hwf

theorem reads_C {c : ICond → Src → Src → Instr} {k : ICond} {a b : Src} 
    (henc : encode (c k a b) = bytesOf 4 (gen cls f 0 k.code a.code b.code))
    (hp : generic cls f = true) (hdec : classTable cls ⟨b.code, a.code, k.code, 0, f⟩ = dC c ⟨b.code, a.code, k.code, 0, f⟩) (hwf : wellFormed (c k a b) = true) :
    decode (encode (c k a b)) = .ok (c k a b) :=
  reads henc hp ⟨b.code_lt, a.code_lt, k.code_lt, by decide⟩ (hdec.trans (by simp [dC])) hwf

theorem reads_CI {c : ICond → Src → Fin 128 → Instr} {k : ICond} {a : Src} {i : Fin 128} 
    (henc : encode (c k a i) = bytesOf 4 (gen cls f 0 k.code a.code i.val))
    (hp : generic cls f = true) (hdec : classTable cls ⟨i.val, a.code, k.code, 0, f⟩ = dCI c ⟨i.val, a.code, k.code, 0, f⟩) (hwf : wellFormed (c k a i) = true) :
    decode (encode (c k a i)) = .ok (c k a i) :=
  reads henc hp ⟨i.isLt, a.code_lt, k.code_lt, by decide⟩ (hdec.trans (by simp [dCI])) hwf

theorem reads_FC {c : FCond → Src → Src → Instr} {k : FCond} {a b : Src} 
    (henc : encode (c k a b) = bytesOf 4 (gen cls f 0 k.code a.code b.code))
    (hp : generic cls f = true) (hdec : classTable cls ⟨b.code, a.code, k.code, 0, f⟩ = dFC c ⟨b.code, a.code, k.code, 0, f⟩) (hwf : wellFormed (c k a b) = true) :
    decode (encode (c k a b)) = .ok (c k a b) :=
  reads henc hp ⟨b.code_lt, a.code_lt, k.code_lt, by decide⟩ (hdec.trans (by simp [dFC])) hwf

theorem reads_S2 {c : SDst → Src → Src → Instr} {d : SDst} {a b : Src} (hd : d.ok = true) 
    (henc : encode (c d a b) = bytesOf 4 (gen cls f d.w.toNat d.n.val a.code b.code))
    (hp : generic cls f = true) (hdec : classTable cls ⟨b.code, a.code, d.n.val, d.w.toNat, f⟩ = dS2 c ⟨b.code, a.code, d.n.val, d.w.toNat, f⟩) (hwf : wellFormed (c d a b) = true) :
    decode (encode (c d a b)) = .ok (c d a b) :=
  reads henc hp ⟨b.code_lt, a.code_lt, Nat.lt_of_lt_of_le d.n.isLt (by decide), d.w.toNat_lt⟩ (hdec.trans (by simp [dS2, sdst_reads hd])) hwf

theorem reads_SI {c : SDst → Src → Fin 128 → Instr} {d : SDst} {a : Src} {i : Fin 128} (hd : d.ok = true) 
    (henc : encode (c d a i) = bytesOf 4 (gen cls f d.w.toNat d.n.val a.code i.val))
    (hp : generic cls f = true) (hdec : classTable cls ⟨i.val, a.code, d.n.val, d.w.toNat, f⟩ = dSI c ⟨i.val, a.code, d.n.val, d.w.toNat, f⟩) (hwf : wellFormed (c d a i) = true) :
    decode (encode (c d a i)) = .ok (c d a i) :=
  reads henc hp ⟨i.isLt, a.code_lt, Nat.lt_of_lt_of_le d.n.isLt (by decide), d.w.toNat_lt⟩ (hdec.trans (by simp [dSI, sdst_reads hd])) hwf

theorem reads_S1 {c : SDst → Src → Instr} {d : SDst} {a : Src} (hd : d.ok = true) 
    (henc : encode (c d a) = bytesOf 4 (gen cls f d.w.toNat d.n.val a.code 0))
    (hp : generic cls f = true) (hdec : classTable cls ⟨0, a.code, d.n.val, d.w.toNat, f⟩ = dS1 c ⟨0, a.code, d.n.val, d.w.toNat, f⟩) (hwf : wellFormed (c d a) = true) :
    decode (encode (c d a)) = .ok (c d a) :=
  reads henc hp ⟨by decide, a.code_lt, Nat.lt_of_lt_of_le d.n.isLt (by decide), d.w.toNat_lt⟩ (hdec.trans (by simp [dS1, sdst_reads hd])) hwf

theorem reads_SK {c : SDst → Fin 128 → Instr} {d : SDst} {i : Fin 128} (hd : d.ok = true) 
    (henc : encode (c d i) = bytesOf 4 (gen cls f d.w.toNat d.n.val 0 i.val))
    (hp : generic cls f = true) (hdec : classTable cls ⟨i.val, 0, d.n.val, d.w.toNat, f⟩ = dSK c ⟨i.val, 0, d.n.val, d.w.toNat, f⟩) (hwf : wellFormed (c d i) = true) :
    decode (encode (c d i)) = .ok (c d i) :=
  reads henc hp ⟨i.isLt, by decide, Nat.lt_of_lt_of_le d.n.isLt (by decide), d.w.toNat_lt⟩ (hdec.trans (by simp [dSK, sdst_reads hd])) hwf

theorem reads_R2 {c : Fin 32 → Src → Src → Instr} {d : Fin 32} {a b : Src} 
    (henc : encode (c d a b) = bytesOf 4 (gen cls f 0 d.val a.code b.code))
    (hp : generic cls f = true) (hdec : classTable cls ⟨b.code, a.code, d.val, 0, f⟩ = dR2 c ⟨b.code, a.code, d.val, 0, f⟩) (hwf : wellFormed (c d a b) = true) :
    decode (encode (c d a b)) = .ok (c d a b) :=
  reads henc hp ⟨b.code_lt, a.code_lt, Nat.lt_of_lt_of_le d.isLt (by decide), by decide⟩ (hdec.trans (by simp [dR2])) hwf

theorem reads_RI {c : Fin 32 → Src → Fin 128 → Instr} {d : Fin 32} {a : Src} {i : Fin 128} 
    (henc : encode (c d a i) = bytesOf 4 (gen cls f 0 d.val a.code i.val))
    (hp : generic cls f = true) (hdec : classTable cls ⟨i.val, a.code, d.val, 0, f⟩ = dRI c ⟨i.val, a.code, d.val, 0, f⟩) (hwf : wellFormed (c d a i) = true) :
    decode (encode (c d a i)) = .ok (c d a i) :=
  reads henc hp ⟨i.isLt, a.code_lt, Nat.lt_of_lt_of_le d.isLt (by decide), by decide⟩ (hdec.trans (by simp [dRI])) hwf

theorem reads_R1 {c : Fin 32 → Src → Instr} {d : Fin 32} {a : Src} 
    (henc : encode (c d a) = bytesOf 4 (gen cls f 0 d.val a.code 0))
    (hp : generic cls f = true) (hdec : classTable cls ⟨0, a.code, d.val, 0, f⟩ = dR1 c ⟨0, a.code, d.val, 0, f⟩) (hwf : wellFormed (c d a) = true) :
    decode (encode (c d a)) = .ok (c d a) :=
  reads henc hp ⟨by decide, a.code_lt, Nat.lt_of_lt_of_le d.isLt (by decide), by decide⟩ (hdec.trans (by simp [dR1])) hwf

theorem reads_R0 {c : Fin 32 → Instr} {d : Fin 32} 
    (henc : encode (c d) = bytesOf 4 (gen cls f 0 d.val 0 0))
    (hp : generic cls f = true) (hdec : classTable cls ⟨0, 0, d.val, 0, f⟩ = dR0 c ⟨0, 0, d.val, 0, f⟩) (hwf : wellFormed (c d) = true) :
    decode (encode (c d)) = .ok (c d) :=
  reads henc hp ⟨by decide, by decide, Nat.lt_of_lt_of_le d.isLt (by decide), by decide⟩ (hdec.trans (by simp [dR0])) hwf

theorem reads_Mk {c : SDst → MaskName → Instr} {d : SDst} {k : MaskName} (hd : d.ok = true) 
    (henc : encode (c d k) = bytesOf 4 (gen cls f d.w.toNat d.n.val 0 k.code))
    (hp : generic cls f = true) (hdec : classTable cls ⟨k.code, 0, d.n.val, d.w.toNat, f⟩ = dMk c ⟨k.code, 0, d.n.val, d.w.toNat, f⟩) (hwf : wellFormed (c d k) = true) :
    decode (encode (c d k)) = .ok (c d k) :=
  reads henc hp ⟨k.code_lt, by decide, Nat.lt_of_lt_of_le d.n.isLt (by decide), d.w.toNat_lt⟩ (hdec.trans (by simp [dMk, sdst_reads hd])) hwf

theorem reads_Ma {c : MaskName → Src → Instr} {k : MaskName} {a : Src} 
    (henc : encode (c k a) = bytesOf 4 (gen cls f 0 0 a.code k.code))
    (hp : generic cls f = true) (hdec : classTable cls ⟨k.code, a.code, 0, 0, f⟩ = dMa c ⟨k.code, a.code, 0, 0, f⟩) (hwf : wellFormed (c k a) = true) :
    decode (encode (c k a)) = .ok (c k a) :=
  reads henc hp ⟨k.code_lt, a.code_lt, by decide, by decide⟩ (hdec.trans (by simp [dMa])) hwf

theorem reads_None {c : Instr} 
    (henc : encode c = bytesOf 4 (gen cls f 0 0 0 0))
    (hp : generic cls f = true) (hdec : classTable cls ⟨0, 0, 0, 0, f⟩ = dNone c ⟨0, 0, 0, 0, f⟩) (hwf : wellFormed c = true) :
    decode (encode c) = .ok c :=
  reads henc hp ⟨by decide, by decide, by decide, by decide⟩ (hdec.trans (by simp [dNone])) hwf

theorem reads_AB {c : Src → Src → Instr} {a b : Src} 
    (henc : encode (c a b) = bytesOf 4 (gen cls f 0 0 a.code b.code))
    (hp : generic cls f = true) (hdec : classTable cls ⟨b.code, a.code, 0, 0, f⟩ = dAB c ⟨b.code, a.code, 0, 0, f⟩) (hwf : wellFormed (c a b) = true) :
    decode (encode (c a b)) = .ok (c a b) :=
  reads henc hp ⟨b.code_lt, a.code_lt, by decide, by decide⟩ (hdec.trans (by simp [dAB])) hwf

theorem reads_HA {c : Fin 32 → Src → Instr} {d : Fin 32} {a : Src} 
    (henc : encode (c d a) = bytesOf 4 (gen cls f 0 d.val a.code 0))
    (hp : generic cls f = true) (hdec : classTable cls ⟨0, a.code, d.val, 0, f⟩ = dHA c ⟨0, a.code, d.val, 0, f⟩) (hwf : wellFormed (c d a) = true) :
    decode (encode (c d a)) = .ok (c d a) :=
  reads henc hp ⟨by decide, a.code_lt, Nat.lt_of_lt_of_le d.isLt (by decide), by decide⟩ (hdec.trans (by simp [dHA])) hwf

theorem reads_H {c : Fin 32 → Instr} {d : Fin 32} 
    (henc : encode (c d) = bytesOf 4 (gen cls f 0 d.val 0 0))
    (hp : generic cls f = true) (hdec : classTable cls ⟨0, 0, d.val, 0, f⟩ = dH c ⟨0, 0, d.val, 0, f⟩) (hwf : wellFormed (c d) = true) :
    decode (encode (c d)) = .ok (c d) :=
  reads henc hp ⟨by decide, by decide, Nat.lt_of_lt_of_le d.isLt (by decide), by decide⟩ (hdec.trans (by simp [dH])) hwf

theorem reads_Sc {c : Scope → Instr} {k : Scope} 
    (henc : encode (c k) = bytesOf 4 (gen cls f 0 k.code 0 0))
    (hp : generic cls f = true) (hdec : classTable cls ⟨0, 0, k.code, 0, f⟩ = dSc c ⟨0, 0, k.code, 0, f⟩) (hwf : wellFormed (c k) = true) :
    decode (encode (c k)) = .ok (c k) :=
  reads henc hp ⟨by decide, by decide, k.code_lt, by decide⟩ (hdec.trans (by simp [dSc])) hwf

theorem reads_VSc {c : Fin 64 → Src → Scope → Instr} {d : Fin 64} {a : Src} {k : Scope} 
    (henc : encode (c d a k) = bytesOf 4 (gen cls f 0 d.val a.code k.code))
    (hp : generic cls f = true) (hdec : classTable cls ⟨k.code, a.code, d.val, 0, f⟩ = dVSc c ⟨k.code, a.code, d.val, 0, f⟩) (hwf : wellFormed (c d a k) = true) :
    decode (encode (c d a k)) = .ok (c d a k) :=
  reads henc hp ⟨Nat.lt_of_lt_of_le k.code_lt (by decide), a.code_lt, d.isLt, by decide⟩ (hdec.trans (by simp [dVSc])) hwf

theorem reads_Pa {c : Path → Src → Instr} {k : Path} {a : Src} 
    (henc : encode (c k a) = bytesOf 4 (gen cls f 0 k.code a.code 0))
    (hp : generic cls f = true) (hdec : classTable cls ⟨0, a.code, k.code, 0, f⟩ = dPa c ⟨0, a.code, k.code, 0, f⟩) (hwf : wellFormed (c k a) = true) :
    decode (encode (c k a)) = .ok (c k a) :=
  reads henc hp ⟨by decide, a.code_lt, k.code_lt, by decide⟩ (hdec.trans (by simp [dPa])) hwf

theorem reads_A {c : Src → Instr} {a : Src} 
    (henc : encode (c a) = bytesOf 4 (gen cls f 0 0 a.code 0))
    (hp : generic cls f = true) (hdec : classTable cls ⟨0, a.code, 0, 0, f⟩ = dA c ⟨0, a.code, 0, 0, f⟩) (hwf : wellFormed (c a) = true) :
    decode (encode (c a)) = .ok (c a) :=
  reads henc hp ⟨by decide, a.code_lt, by decide, by decide⟩ (hdec.trans (by simp [dA])) hwf

theorem reads_Vr {c : Fin 64 → Instr} {d : Fin 64} 
    (henc : encode (c d) = bytesOf 4 (gen cls f 0 d.val 0 0))
    (hp : generic cls f = true) (hdec : classTable cls ⟨0, 0, d.val, 0, f⟩ = dVr c ⟨0, 0, d.val, 0, f⟩) (hwf : wellFormed (c d) = true) :
    decode (encode (c d)) = .ok (c d) :=
  reads henc hp ⟨by decide, by decide, d.isLt, by decide⟩ (hdec.trans (by simp [dVr])) hwf

theorem reads_VrM {c : Fin 64 → Src → Rm → Instr} {d : Fin 64} {a : Src} {k : Rm} 
    (henc : encode (c d a k) = bytesOf 4 (gen cls f 0 d.val a.code k.code))
    (hp : generic cls f = true) (hdec : classTable cls ⟨k.code, a.code, d.val, 0, f⟩ = dVrM c ⟨k.code, a.code, d.val, 0, f⟩) (hwf : wellFormed (c d a k) = true) :
    decode (encode (c d a k)) = .ok (c d a k) :=
  reads henc hp ⟨Nat.lt_of_lt_of_le k.code_lt (by decide), a.code_lt, d.isLt, by decide⟩ (hdec.trans (by simp [dVrM])) hwf

theorem reads_ScAB {c : Scope → Src → Src → Instr} {k : Scope} {a b : Src} 
    (henc : encode (c k a b) = bytesOf 4 (gen cls f 0 k.code a.code b.code))
    (hp : generic cls f = true) (hdec : classTable cls ⟨b.code, a.code, k.code, 0, f⟩ = dScAB c ⟨b.code, a.code, k.code, 0, f⟩) (hwf : wellFormed (c k a b) = true) :
    decode (encode (c k a b)) = .ok (c k a b) :=
  reads henc hp ⟨b.code_lt, a.code_lt, k.code_lt, by decide⟩ (hdec.trans (by simp [dScAB])) hwf

theorem reads_B {c : Src → Instr} {b : Src} 
    (henc : encode (c b) = bytesOf 4 (gen cls f 0 0 0 b.code))
    (hp : generic cls f = true) (hdec : classTable cls ⟨b.code, 0, 0, 0, f⟩ = dB c ⟨b.code, 0, 0, 0, f⟩) (hwf : wellFormed (c b) = true) :
    decode (encode (c b)) = .ok (c b) :=
  reads henc hp ⟨b.code_lt, by decide, by decide, by decide⟩ (hdec.trans (by simp [dB])) hwf

theorem reads_I {c : Fin 128 → Instr} {i : Fin 128} 
    (henc : encode (c i) = bytesOf 4 (gen cls f 0 0 0 i.val))
    (hp : generic cls f = true) (hdec : classTable cls ⟨i.val, 0, 0, 0, f⟩ = dI c ⟨i.val, 0, 0, 0, f⟩) (hwf : wellFormed (c i) = true) :
    decode (encode (c i)) = .ok (c i) :=
  reads henc hp ⟨i.isLt, by decide, by decide, by decide⟩ (hdec.trans (by simp [dI])) hwf

theorem reads_VrI {c : Fin 64 → Fin 128 → Instr} {d : Fin 64} {i : Fin 128} 
    (henc : encode (c d i) = bytesOf 4 (gen cls f 0 d.val 0 i.val))
    (hp : generic cls f = true) (hdec : classTable cls ⟨i.val, 0, d.val, 0, f⟩ = dVrI c ⟨i.val, 0, d.val, 0, f⟩) (hwf : wellFormed (c d i) = true) :
    decode (encode (c d i)) = .ok (c d i) :=
  reads henc hp ⟨i.isLt, by decide, d.isLt, by decide⟩ (hdec.trans (by simp [dVrI])) hwf

theorem reads_Kb {c : Fin 16 → Src → Instr} {d : Fin 16} {b : Src} 
    (henc : encode (c d b) = bytesOf 4 (gen cls f 0 d.val 0 b.code))
    (hp : generic cls f = true) (hdec : classTable cls ⟨b.code, 0, d.val, 0, f⟩ = dKb c ⟨b.code, 0, d.val, 0, f⟩) (hwf : wellFormed (c d b) = true) :
    decode (encode (c d b)) = .ok (c d b) :=
  reads henc hp ⟨b.code_lt, by decide, Nat.lt_of_lt_of_le d.isLt (by decide), by decide⟩ (hdec.trans (by simp [dKb])) hwf

theorem reads_Ki {c : Fin 16 → Fin 128 → Instr} {d : Fin 16} {i : Fin 128} 
    (henc : encode (c d i) = bytesOf 4 (gen cls f 0 d.val 0 i.val))
    (hp : generic cls f = true) (hdec : classTable cls ⟨i.val, 0, d.val, 0, f⟩ = dKi c ⟨i.val, 0, d.val, 0, f⟩) (hwf : wellFormed (c d i) = true) :
    decode (encode (c d i)) = .ok (c d i) :=
  reads henc hp ⟨i.isLt, by decide, Nat.lt_of_lt_of_le d.isLt (by decide), by decide⟩ (hdec.trans (by simp [dKi])) hwf

theorem reads_Sysw {c : Fin 128 → Src → Instr} {n : Fin 128} {b : Src} 
    (henc : encode (c n b) = bytesOf 4 (gen cls f 0 0 n.val b.code))
    (hp : generic cls f = true) (hdec : classTable cls ⟨b.code, n.val, 0, 0, f⟩ = dSysw c ⟨b.code, n.val, 0, 0, f⟩) (hwf : wellFormed (c n b) = true) :
    decode (encode (c n b)) = .ok (c n b) :=
  reads henc hp ⟨b.code_lt, n.isLt, by decide, by decide⟩ (hdec.trans (by simp [dSysw])) hwf

theorem reads_SyswI {c : Fin 128 → Fin 128 → Instr} {n i : Fin 128} 
    (henc : encode (c n i) = bytesOf 4 (gen cls f 0 0 n.val i.val))
    (hp : generic cls f = true) (hdec : classTable cls ⟨i.val, n.val, 0, 0, f⟩ = dSyswI c ⟨i.val, n.val, 0, 0, f⟩) (hwf : wellFormed (c n i) = true) :
    decode (encode (c n i)) = .ok (c n i) :=
  reads henc hp ⟨i.isLt, n.isLt, by decide, by decide⟩ (hdec.trans (by simp [dSyswI])) hwf

theorem reads_M {c : Fin 64 → Src → Src → Instr} {d : Fin 64} {a b : Src} 
    (henc : encode (c d a b) = bytesOf 4 (gen cls f 0 d.val a.code b.code))
    (hp : generic cls f = true) (hdec : classTable cls ⟨b.code, a.code, d.val, 0, f⟩ = dM c ⟨b.code, a.code, d.val, 0, f⟩) (hwf : wellFormed (c d a b) = true) :
    decode (encode (c d a b)) = .ok (c d a b) :=
  reads henc hp ⟨b.code_lt, a.code_lt, d.isLt, by decide⟩ (hdec.trans (by simp [dM])) hwf

theorem reads_At {c : Fin 64 → Src → Src → Bool → Instr} {d : Fin 64} {a b : Src} {x : Bool} 
    (henc : encode (c d a b x) = bytesOf 4 (gen cls f x.toNat d.val a.code b.code))
    (hp : generic cls f = true) (hdec : classTable cls ⟨b.code, a.code, d.val, x.toNat, f⟩ = dAt c ⟨b.code, a.code, d.val, x.toNat, f⟩) (hwf : wellFormed (c d a b x) = true) :
    decode (encode (c d a b x)) = .ok (c d a b x) :=
  reads henc hp ⟨b.code_lt, a.code_lt, d.isLt, x.toNat_lt⟩ (hdec.trans (by simp [dAt])) hwf

end

end Sys2Proof

/-! PROOFS. The forms of their own: FMA, branch, tensor memory, matrix, ERSET, SYSR, LIMM, the 16-bit forms and SWITCH
(spec 07 R101 to R111). -/

namespace Sys2Proof

theorem left_of_and {a b : Bool} (h : (a && b) = true) : a = true := (Bool.and_eq_true .. ▸ h).1

theorem right_of_and {a b : Bool} (h : (a && b) = true) : b = true := (Bool.and_eq_true .. ▸ h).2

/-! ### The FMA form (07 R106) -/

/-- funct6 of the FMA form: NA, NP, RM and TYPE. -/
def fmaFunct (na np : Bool) (m : Rm) (ty : Nat) : Nat := na.toNat * 32 + np.toNat * 16 + m.code * 4 + ty

theorem fmaWord_eq_gen (d : Dst) (a b : Src) (na np : Bool) (m : Rm) (ty : Nat) :
    b.code * 2 ^ 25 + a.code * 2 ^ 18 + d.n.val * 2 ^ 12 + d.w.toNat * 2 ^ 11 + na.toNat * 2 ^ 10 + np.toNat * 2 ^ 9 + m.code * 2 ^ 7 +
      ty * 2 ^ 5 + 5 = gen 2 (fmaFunct na np m ty) d.w.toNat d.n.val a.code b.code := by
  simp only [gen, fmaFunct]
  omega

theorem fma_reads (c : Dst → Src → Src → Bool → Bool → Rm → Instr) {d : Dst} (hd : d.ok = true) (a b : Src) (na np : Bool) (m : Rm)
    {ty : Nat} (hty : ty < 4) :
    decode2.k c ⟨b.code, a.code, d.n.val, d.w.toNat, fmaFunct na np m ty⟩ = .ok (c d a b na np m) := by
  have hna := na.toNat_lt
  have hnp := np.toNat_lt
  have hrm : fmaFunct na np m ty / 4 % 4 = m.code := by have := m.code_lt; simp only [fmaFunct]; omega
  have h32 : fmaFunct na np m ty / 32 = na.toNat := by have := m.code_lt; simp only [fmaFunct]; omega
  have h16 : fmaFunct na np m ty / 16 % 2 = np.toNat := by have := m.code_lt; simp only [fmaFunct]; omega
  simp [decode2.k, dst_reads hd, hrm, h32, h16]

theorem reads_fma {c : Dst → Src → Src → Bool → Bool → Rm → Instr} {d : Dst} {a b : Src} {na np : Bool} {m : Rm} {ty : Nat}
    (hd : d.ok = true) (hty : ty < 3)
    (henc : encode (c d a b na np m) = bytesOf 4 (b.code * 2 ^ 25 + a.code * 2 ^ 18 + d.n.val * 2 ^ 12 + d.w.toNat * 2 ^ 11 +
      na.toNat * 2 ^ 10 + np.toNat * 2 ^ 9 + m.code * 2 ^ 7 + ty * 2 ^ 5 + 5))
    (hdec : ∀ x, decode2.need' x ty = decode2.k c x) (hwf : wellFormed (c d a b na np m) = true) :
    decode (encode (c d a b na np m)) = .ok (c d a b na np m) := by
  have hna := na.toNat_lt
  have hnp := np.toNat_lt
  have hm := m.code_lt
  have hty' : fmaFunct na np m ty % 4 = ty := by simp only [fmaFunct]; omega
  have hf : fmaFunct na np m ty < 64 := by simp only [fmaFunct]; omega
  refine reads (henc.trans (congrArg _ (fmaWord_eq_gen ..))) ?_ ⟨b.code_lt, a.code_lt, d.n.isLt, d.w.toNat_lt⟩ ?_ hwf
  · simp [generic, hf]
  · simp only [classTable, decode2, hty', hdec]
    exact fma_reads c hd a b na np m (by omega)

/-! ### The branch form (07 R108) -/

section
variable {f x o : Nat}

theorem branch_eq_gen (f x o : Nat) : branch f x o = gen 6 f (x % 2) (o % 4 * 16 + x / 2) (o / 4 % 128) (o / 512) := by
  simp only [branch, gen]
  omega

theorem branch_fits (hx : x < 32) (ho : o < 2 ^ 16) : Fits (x % 2) (o % 4 * 16 + x / 2) (o / 4 % 128) (o / 512) :=
  ⟨by omega, by omega, by omega, by omega⟩

theorem branch_o (hx : x < 32) (f o : Nat) :
    Fields.o ⟨o / 512, o / 4 % 128, o % 4 * 16 + x / 2, x % 2, f⟩ = o := by
  simp only [Fields.o]
  omega

theorem branch_x (hx : x < 32) (f o : Nat) : Fields.x ⟨o / 512, o / 4 % 128, o % 4 * 16 + x / 2, x % 2, f⟩ = x := by
  simp only [Fields.x]
  omega

/-- An instruction of the branch form is read back if its table reads X and OFF. -/
theorem reads_branch {i : Instr} (hx : x < 32) (ho : o < 2 ^ 16) (henc : encode i = bytesOf 4 (branch f x o))
    (hp : generic 6 f = true) (hdec : ∀ b a d w, Fields.o ⟨b, a, d, w, f⟩ = o → Fields.x ⟨b, a, d, w, f⟩ = x → classTable 6 ⟨b, a, d, w, f⟩ = .ok i)
    (hwf : wellFormed i = true) : decode (encode i) = .ok i :=
  reads (henc.trans (congrArg _ (branch_eq_gen ..))) hp (branch_fits hx ho) (hdec _ _ _ _ (branch_o hx f o) (branch_x hx f o)) hwf

theorem dO_reads (c : BitVec 16 → Instr) (o : BitVec 16) {y : Fields} (ho : y.o = o.toNat) (hx : y.x = 0) : dO c y = .ok (c o) := by
  simp [dO, ho, hx]

theorem dX_reads (c : Fin 32 → Instr) (r : Fin 32) {y : Fields} (ho : y.o = 0) (hx : y.x = r.val) : dX c y = .ok (c r) := by
  simp [dX, ho, hx]

theorem dOX_reads (c : BitVec 16 → Fin 32 → Instr) (o : BitVec 16) (r : Fin 32) {y : Fields} (ho : y.o = o.toNat) (hx : y.x = r.val) :
    dOX c y = .ok (c o r) := by
  simp [dOX, ho, hx]

end

section
variable (f : Nat)

theorem reads_O {c : BitVec 16 → Instr} {o : BitVec 16} (henc : encode (c o) = bytesOf 4 (branch f 0 o.toNat)) (hp : generic 6 f = true)
    (hdec : ∀ b a d w, classTable 6 ⟨b, a, d, w, f⟩ = dO c ⟨b, a, d, w, f⟩) (hwf : wellFormed (c o) = true) : decode (encode (c o)) = .ok (c o) :=
  reads_branch (by decide) o.isLt henc hp
    (fun b a d w ho hx => (hdec b a d w).trans (dO_reads c o ho hx)) hwf

theorem reads_X {c : Fin 32 → Instr} {r : Fin 32} (henc : encode (c r) = bytesOf 4 (branch f r.val 0)) (hp : generic 6 f = true)
    (hdec : ∀ b a d w, classTable 6 ⟨b, a, d, w, f⟩ = dX c ⟨b, a, d, w, f⟩) (hwf : wellFormed (c r) = true) : decode (encode (c r)) = .ok (c r) :=
  reads_branch r.isLt (by decide) henc hp
    (fun b a d w ho hx => (hdec b a d w).trans (dX_reads c r ho hx)) hwf

theorem reads_OX {c : BitVec 16 → Fin 32 → Instr} {o : BitVec 16} {r : Fin 32}
    (henc : encode (c o r) = bytesOf 4 (branch f r.val o.toNat)) (hp : generic 6 f = true)
    (hdec : ∀ b a d w, classTable 6 ⟨b, a, d, w, f⟩ = dOX c ⟨b, a, d, w, f⟩) (hwf : wellFormed (c o r) = true) :
    decode (encode (c o r)) = .ok (c o r) :=
  reads_branch r.isLt o.isLt henc hp
    (fun b a d w ho hx => (hdec b a d w).trans (dOX_reads c o r ho hx)) hwf

end

theorem reads_Br {i : Instr} (f : Nat) (henc : encode i = bytesOf 4 (gen 6 f 0 0 0 0)) (hp : generic 6 f = true)
    (hdec : classTable 6 ⟨0, 0, 0, 0, f⟩ = .ok i) (hwf : wellFormed i = true) : decode (encode i) = .ok i :=
  reads henc hp ⟨by decide, by decide, by decide, by decide⟩ hdec hwf

/-! ### MELD, ERSET and SYSR -/

theorem reads_meld (four : Bool) (a b : Src) (h : wellFormed (.meld four a b) = true) :
    decode (encode (.meld four a b)) = .ok (.meld four a b) := by
  have hfit : Fits 0 four.toNat a.code b.code := ⟨b.code_lt, a.code_lt, by have := four.toNat_lt; omega, by decide⟩
  refine reads (cls := 7) (f := 16) rfl rfl hfit ?_ h
  cases four with
  | true => simp [classTable, decode7, dMeld, fin?]
  | false =>
    obtain rfl : b = .v 0 := of_decide_eq_true (right_of_and h)
    simp [classTable, decode7, dMeld, fin?, show (Src.v 0).code = 0 from rfl, show Src.ofCode 0 = some (.v 0) from rfl]

/-- An ERSET of two operands, by the code of its operation. -/
theorem reads_erset (k : Nat) {c : Src → Src → Instr} {a b : Src} (henc : encode (c a b) = bytesOf 4 (gen 11 0 0 k a.code b.code)) (hk : k < 64)
    (hdec : dErset ⟨b.code, a.code, k, 0, 0⟩ = dM (fun _ a b => c a b) ⟨b.code, a.code, 0, 0, 0⟩) (hwf : wellFormed (c a b) = true) :
    decode (encode (c a b)) = .ok (c a b) :=
  reads henc rfl ⟨b.code_lt, a.code_lt, hk, by decide⟩
    ((show classTable 11 ⟨b.code, a.code, k, 0, 0⟩ = dErset ⟨b.code, a.code, k, 0, 0⟩ from rfl).trans (hdec.trans (by simp [dM, fin?]))) hwf

theorem reads_ersetFree (a : Src) (h : wellFormed (.ersetFree a) = true) : decode (encode (.ersetFree a)) = .ok (.ersetFree a) :=
  reads (cls := 11) (f := 0) (w := 0) (d := 1) (b := 0) rfl rfl ⟨by decide, a.code_lt, by decide, by decide⟩
    (by simp [classTable, decode11, dErset, dM, fin?, show Src.ofCode 0 = some (.v 0) from rfl]) h

theorem reads_sysr (n : Fin 128) (d : SysDst) (h : wellFormed (.sysr n d) = true) : decode (encode (.sysr n d)) = .ok (.sysr n d) := by
  have hd := right_of_and h
  cases d with
  | vec d =>
    refine reads (cls := 13) (f := 2) (b := 0) rfl rfl ⟨by decide, n.isLt, d.n.isLt, d.w.toNat_lt⟩ ?_ h
    simp [classTable, decode13, dSysr, SysDst.w, SysDst.n, dst_reads hd]
  | scal d =>
    refine reads (cls := 13) (f := 2) (d := d.n.val) (b := 1) rfl rfl ⟨by decide, n.isLt, by omega, d.w.toNat_lt⟩ ?_ h
    simp [classTable, decode13, dSysr, SysDst.w, sdst_reads (left_of_and hd)]

/-! ### The tensor memory form (07 R107) -/

theorem tensorWord_eq_gen (h : Fin 32) (rk : Fin 7) (cb d : Fin 64) (f : Nat) :
    h.val * 2 ^ 27 + rk.val * 2 ^ 24 + cb.val * 2 ^ 18 + d.val * 2 ^ 12 + f * 2 ^ 5 + 8 * 2 + 1 =
      gen 8 f 0 d.val ((h.val * 512 + rk.val * 64 + cb.val) % 128) ((h.val * 512 + rk.val * 64 + cb.val) / 128) := by
  simp only [gen]
  omega

theorem reads_T (f : Nat) {c : Fin 32 → Fin 7 → Fin 64 → Fin 64 → Instr} {h : Fin 32} {rk : Fin 7} {cb d : Fin 64}
    (henc : encode (c h rk cb d) =
      bytesOf 4 (h.val * 2 ^ 27 + rk.val * 2 ^ 24 + cb.val * 2 ^ 18 + d.val * 2 ^ 12 + f * 2 ^ 5 + 8 * 2 + 1))
    (hp : generic 8 f = true) (hdec : ∀ b a d w, classTable 8 ⟨b, a, d, w, f⟩ = dT c ⟨b, a, d, w, f⟩)
    (hwf : wellFormed (c h rk cb d) = true) : decode (encode (c h rk cb d)) = .ok (c h rk cb d) := by
  have hr : (h.val * 512 + rk.val * 64 + cb.val) / 128 * 128 + (h.val * 512 + rk.val * 64 + cb.val) % 128 = h.val * 512 + rk.val * 64 + cb.val := by
    omega
  have hh : (h.val * 512 + rk.val * 64 + cb.val) / 512 = h.val := by omega
  have hrk : (h.val * 512 + rk.val * 64 + cb.val) / 64 % 8 = rk.val := by omega
  have hcb : (h.val * 512 + rk.val * 64 + cb.val) % 64 = cb.val := by omega
  refine reads (henc.trans (congrArg _ (tensorWord_eq_gen ..))) hp ⟨by omega, by omega, d.isLt, by decide⟩ ((hdec ..).trans ?_) hwf
  simp only [dT, hr, hh, hrk, hcb, fin?_val, need_some, zeros_zero, zeros_nil]

/-! ### The matrix form and LIMM (07 R110, R111) -/

/-- A 32-bit word that is no SWITCH is read by the table of its class. -/
theorem reads_word {i : Instr} {w : Nat} (henc : encode i = bytesOf 4 w) (hlt : w < 2 ^ 32) (hodd : w % 2 = 1)
    (hsw : w / 2 % 16 ≠ 6) (hdec : decode32 w = .ok i) (hwf : wellFormed i = true) : decode (encode i) = .ok i := by
  have hs : isSwitch w = false := by simp [isSwitch, hsw]
  have hd := decode_word [] hlt hodd
  rw [List.append_nil, hs] at hd
  rw [henc, hd, if_neg (by decide), hdec, checked_ok hwf]

/-- The word of a MMA or, with `sp`, of a MMAS. -/
def matrixWord (vb va vf vc : Fin 64) (q0 : Bool) (sp : Nat) : Nat :=
  vb.val * 2 ^ 26 + va.val * 2 ^ 20 + vf.val * 2 ^ 14 + vc.val * 2 ^ 8 + q0.toNat * 2 ^ 7 + sp * 2 ^ 5 + 21

theorem decode32_matrixWord (vb va vf vc : Fin 64) (q0 : Bool) {sp : Nat} (hsp : sp < 2) :
    decode32 (matrixWord vb va vf vc q0 sp) = .ok (if sp = 0 then .mma vb va vf vc q0 else .mmas vb va vf vc q0) := by
  have hq := q0.toNat_lt
  have hcls : matrixWord vb va vf vc q0 sp / 2 % 16 = 10 := by simp only [matrixWord]; omega
  have hkind : matrixWord vb va vf vc q0 sp / 2 ^ 5 % 4 = sp := by simp only [matrixWord]; omega
  have hvb : matrixWord vb va vf vc q0 sp / 2 ^ 26 % 64 = vb.val := by simp only [matrixWord]; omega
  have hva : matrixWord vb va vf vc q0 sp / 2 ^ 20 % 64 = va.val := by simp only [matrixWord]; omega
  have hvf : matrixWord vb va vf vc q0 sp / 2 ^ 14 % 64 = vf.val := by simp only [matrixWord]; omega
  have hvc : matrixWord vb va vf vc q0 sp / 2 ^ 8 % 64 = vc.val := by simp only [matrixWord]; omega
  have hq0 : matrixWord vb va vf vc q0 sp / 2 ^ 7 % 2 = q0.toNat := by simp only [matrixWord]; omega
  rw [decode32, hcls]
  simp only [decodeMatrix, hkind, if_pos hsp, hvb, hva, hvf, hvc, hq0, fin?_val, need_some, toNat_eq_one_iff, Bool.decide_eq_true]

theorem reads_matrix {i : Instr} {vb va vf vc : Fin 64} {q0 : Bool} {sp : Nat} (hsp : sp < 2)
    (henc : encode i = bytesOf 4 (matrixWord vb va vf vc q0 sp))
    (hi : (if sp = 0 then Instr.mma vb va vf vc q0 else .mmas vb va vf vc q0) = i) (hwf : wellFormed i = true) :
    decode (encode i) = .ok i := by
  have hq := q0.toNat_lt
  refine reads_word henc ?_ ?_ ?_ ((decode32_matrixWord vb va vf vc q0 hsp).trans (congrArg _ hi)) hwf <;> simp only [matrixWord] <;> omega

theorem reads_limm (p : BitVec 25) : decode (encode (.limm p)) = .ok (.limm p) := by
  have hp := p.isLt
  have hcls : (p.toNat * 2 ^ 7 + 29) / 2 % 16 = 14 := by omega
  have hz : (p.toNat * 2 ^ 7 + 29) / 2 ^ 5 % 4 = 0 := by omega
  have hv : (p.toNat * 2 ^ 7 + 29) / 2 ^ 7 = p.toNat := by omega
  refine reads_word (w := p.toNat * 2 ^ 7 + 29) rfl (by omega) (by omega) (by omega) ?_ rfl
  rw [decode32, hcls]
  simp only [decodeLimm, hz, hv, zeros_zero, zeros_nil, BitVec.ofNat_toNat, BitVec.setWidth_eq]

/-! ### The 16-bit forms (07 R101 to R103) -/

/-- A halfword that is not 0 is read back. -/
theorem reads_short {i : Instr} {d : Fin 64} {s : Fin 32} {op : Nat} (hop : op < 16) (h0 : ¬ (op = 0 ∧ d.val = 0 ∧ s.val = 0))
    (henc : encode i = bytesOf 2 (s.val * 2 ^ 11 + d.val * 2 ^ 5 + op * 2)) (hi : short op d s = i) (hwf : wellFormed i = true) :
    decode (encode i) = .ok i := by
  have hne : ¬ (s.val * 2 ^ 11 + d.val * 2 ^ 5 + op * 2) % 2 ^ 16 = 0 := by omega
  have hd : (s.val * 2 ^ 11 + d.val * 2 ^ 5 + op * 2) / 2 ^ 5 % 64 = d.val := by omega
  have hs : (s.val * 2 ^ 11 + d.val * 2 ^ 5 + op * 2) / 2 ^ 11 % 32 = s.val := by omega
  have ho : (s.val * 2 ^ 11 + d.val * 2 ^ 5 + op * 2) / 2 % 16 = op := by omega
  have hdec : decode16 (s.val * 2 ^ 11 + d.val * 2 ^ 5 + op * 2) = .ok i := by
    simp only [decode16, if_neg hne, hd, hs, ho, fin?_val, need_some, hi]
  rw [henc, decode_short (by omega) (by omega), hdec, checked_ok hwf]

/-! ### SWITCH (07 R109) -/

theorem SwCase.toHalf_lt (c : SwCase) : c.toHalf < 65536 := by
  have := c.off.isLt
  simp only [SwCase.toHalf]
  omega

theorem SwCase.ofHalf_toHalf (c : SwCase) : SwCase.ofHalf c.toHalf = c := by
  have hv : (c.off.toNat * 64 + c.v.val) % 64 = c.v.val := by omega
  have ho : (c.off.toNat * 64 + c.v.val) / 64 = c.off.toNat := by omega
  simp only [SwCase.ofHalf, SwCase.toHalf, hv, ho, Fin.eta, BitVec.ofNat_toNat, BitVec.setWidth_eq]

/-- The case words without their padding. -/
def caseWords (cs : List SwCase) : List Byte := (cs.map fun c => bytesOf 2 c.toHalf).flatten

theorem caseWords_cons (c : SwCase) (cs : List SwCase) (bs : List Byte) :
    caseWords (c :: cs) ++ bs = BitVec.ofNat 8 c.toHalf :: BitVec.ofNat 8 (c.toHalf / 256) :: (caseWords cs ++ bs) := rfl

theorem cases_caseWords (cs : List SwCase) (bs : List Byte) : cases cs.length (caseWords cs ++ bs) = cs := by
  induction cs with
  | nil => rfl
  | cons c cs ih =>
    rw [caseWords_cons, List.length_cons, cases, half_two, Nat.mod_eq_of_lt c.toHalf_lt, c.ofHalf_toHalf]
    exact congrArg _ ih

theorem drop_caseWords (cs : List SwCase) (bs : List Byte) : (caseWords cs ++ bs).drop (2 * cs.length) = bs := by
  induction cs with
  | nil => rfl
  | cons c cs ih => exact ih

theorem reads_switch (d : Fin 64) (cs : List SwCase) (h : wellFormed (.switch d cs) = true) :
    decode (encode (.switch d cs)) = .ok (.switch d cs) := by
  obtain ⟨h1, h8⟩ : 1 ≤ cs.length ∧ cs.length ≤ 8 := by simpa [wellFormed] using h
  have hfit : Fits 0 d.val ((cs.length - 1) % 8) 0 := ⟨by decide, by omega, d.isLt, by decide⟩
  have hn : (cs.length - 1) % 8 % 8 + 1 = cs.length := by omega
  have ha : (cs.length - 1) % 8 / 8 = 0 := by omega
  have hsw : isSwitch (gen 6 3 0 d.val ((cs.length - 1) % 8) 0) = true := by
    simp only [isSwitch, gen_class (cls := 6) (by decide), gen_funct (cls := 6) (f := 3) (by decide) (by decide) hfit]
    rfl
  have hpad : (if cs.length % 2 = 1 then half ((caseBytes cs).drop (2 * cs.length)) else 0) = 0 := by
    split
    · next hodd =>
      rw [show caseBytes cs = caseWords cs ++ [0, 0] from congrArg _ (if_pos hodd), drop_caseWords]
      rfl
    · rfl
  have hdec : decodeSwitch (gen 6 3 0 d.val ((cs.length - 1) % 8) 0) (caseBytes cs) = .ok (.switch d cs) := by
    simp only [decodeSwitch, Fields.of_gen (cls := 6) (f := 3) (by decide) (by decide) hfit, hn, ha, hpad, zeros_zero, zeros_nil, fin?_val,
      need_some]
    exact congrArg (fun x => Except.ok (Instr.switch d x)) (cases_caseWords cs _)
  have henc : encode (.switch d cs) = bytesOf 4 (gen 6 3 0 d.val ((cs.length - 1) % 8) 0) ++ caseBytes cs := rfl
  rw [henc, decode_word _ (gen_lt (by decide) (by decide) hfit) (gen_odd ..), if_pos hsw, hdec, checked_ok h]

end Sys2Proof

/-! PROOFS. Decoding the encoding of a well-formed instruction gives it back (spec 07 R100 to R137). -/

namespace Sys2Proof.Machine

/-- Settles O60: each instruction by the form of its encoding. -/
theorem decodeReadsEncode : Obligations.DecodeReadsEncode := by
  intro i h he hne
  cases i with
  | vadd d a b => exact reads_V2 0 0 h rfl rfl rfl h
  | vaddImm d a i => exact reads_VI 0 32 h rfl rfl rfl h
  | vsub d a b => exact reads_V2 0 1 h rfl rfl rfl h
  | vmul d a b => exact reads_V2 0 2 h rfl rfl rfl h
  | vmulImm d a i => exact reads_VI 0 34 h rfl rfl rfl h
  | vmulh d a b => exact reads_V2 0 3 h rfl rfl rfl h
  | vmulhU d a b => exact reads_V2 0 4 h rfl rfl rfl h
  | vmad d a b => exact reads_V2 0 5 h rfl rfl rfl h
  | vand d a b => exact reads_V2 0 6 h rfl rfl rfl h
  | vandImm d a i => exact reads_VI 0 38 h rfl rfl rfl h
  | vor d a b => exact reads_V2 0 7 h rfl rfl rfl h
  | vorImm d a i => exact reads_VI 0 39 h rfl rfl rfl h
  | vxor d a b => exact reads_V2 0 8 h rfl rfl rfl h
  | vxorImm d a i => exact reads_VI 0 40 h rfl rfl rfl h
  | vshl d a b => exact reads_V2 0 9 h rfl rfl rfl h
  | vshlImm d a i => exact reads_VI 0 41 h rfl rfl rfl h
  | vsrl d a b => exact reads_V2 0 10 h rfl rfl rfl h
  | vsrlImm d a i => exact reads_VI 0 42 h rfl rfl rfl h
  | vsra d a b => exact reads_V2 0 11 h rfl rfl rfl h
  | vsraImm d a i => exact reads_VI 0 43 h rfl rfl rfl h
  | vmin d a b => exact reads_V2 0 12 h rfl rfl rfl h
  | vminImm d a i => exact reads_VI 0 44 h rfl rfl rfl h
  | vminU d a b => exact reads_V2 0 13 h rfl rfl rfl h
  | vminUImm d a i => exact reads_VI 0 45 h rfl rfl rfl h
  | vmax d a b => exact reads_V2 0 14 h rfl rfl rfl h
  | vmaxImm d a i => exact reads_VI 0 46 h rfl rfl rfl h
  | vmaxU d a b => exact reads_V2 0 15 h rfl rfl rfl h
  | vmaxUImm d a i => exact reads_VI 0 47 h rfl rfl rfl h
  | vabs d a => exact reads_V1 0 16 h rfl rfl rfl h
  | vclz d a => exact reads_V1 0 17 h rfl rfl rfl h
  | vpopc d a => exact reads_V1 0 18 h rfl rfl rfl h
  | vbrev d a => exact reads_V1 0 19 h rfl rfl rfl h
  | vsel d a b => exact reads_V2 0 20 h rfl rfl rfl h
  | vsat d a b => exact reads_V2 0 21 h rfl rfl rfl h
  | vsatImm d a i => exact reads_VI 0 53 h rfl rfl rfl h
  | vcmp c a b => exact reads_C 0 22 rfl rfl rfl h
  | vcmpImm c a i => exact reads_CI 0 54 rfl rfl rfl h
  | vfadd d a b m => exact reads_V2 1 (0 + m.code) (c := fun d a b => .vfadd d a b m) h rfl (by cases m <;> rfl) (by cases m <;> rfl) h
  | vfsub d a b m => exact reads_V2 1 (4 + m.code) (c := fun d a b => .vfsub d a b m) h rfl (by cases m <;> rfl) (by cases m <;> rfl) h
  | vfmul d a b m => exact reads_V2 1 (8 + m.code) (c := fun d a b => .vfmul d a b m) h rfl (by cases m <;> rfl) (by cases m <;> rfl) h
  | vfmin d a b => exact reads_V2 1 12 h rfl rfl rfl h
  | vfmax d a b => exact reads_V2 1 13 h rfl rfl rfl h
  | vfabs d a => exact reads_V1 1 14 h rfl rfl rfl h
  | vfneg d a => exact reads_V1 1 15 h rfl rfl rfl h
  | vfrcp d a => exact reads_V1 1 16 h rfl rfl rfl h
  | vfrsq d a => exact reads_V1 1 17 h rfl rfl rfl h
  | vfexp2 d a => exact reads_V1 1 18 h rfl rfl rfl h
  | vflog2 d a => exact reads_V1 1 19 h rfl rfl rfl h
  | vfsin d a => exact reads_V1 1 20 h rfl rfl rfl h
  | vfcos d a => exact reads_V1 1 21 h rfl rfl rfl h
  | vftanh d a => exact reads_V1 1 22 h rfl rfl rfl h
  | vfcmp c a b => exact reads_FC 1 23 rfl rfl rfl h
  | vfmaF32 d a b na np m => exact reads_fma (ty := 0) h (by decide) rfl (fun _ => rfl) h
  | vfmaH2 d a b na np m => exact reads_fma (ty := 1) h (by decide) rfl (fun _ => rfl) h
  | vfmaB2 d a b na np m => exact reads_fma (ty := 2) h (by decide) rfl (fun _ => rfl) h
  | vcvtF32I32 d a m => exact reads_V1 3 (0 + m.code) (c := fun d a => .vcvtF32I32 d a m) h rfl (by cases m <;> rfl) (by cases m <;> rfl) h
  | vcvtI32F32 d a m => exact reads_V1 3 (4 + m.code) (c := fun d a => .vcvtI32F32 d a m) h rfl (by cases m <;> rfl) (by cases m <;> rfl) h
  | vcvtF16F32 d a m => exact reads_V1 3 (8 + m.code) (c := fun d a => .vcvtF16F32 d a m) h rfl (by cases m <;> rfl) (by cases m <;> rfl) h
  | vcvtBf16F32 d a m => exact reads_V1 3 (12 + m.code) (c := fun d a => .vcvtBf16F32 d a m) h rfl (by cases m <;> rfl) (by cases m <;> rfl) h
  | vcvtF32F16 d a => exact reads_V1 3 16 h rfl rfl rfl h
  | vcvtF32Bf16 d a => exact reads_V1 3 17 h rfl rfl rfl h
  | vpackH2 d a b m => exact reads_V2 3 (20 + m.code) (c := fun d a b => .vpackH2 d a b m) h rfl (by cases m <;> rfl) (by cases m <;> rfl) h
  | vpackB2 d a b m => exact reads_V2 3 (24 + m.code) (c := fun d a b => .vpackB2 d a b m) h rfl (by cases m <;> rfl) (by cases m <;> rfl) h
  | vpackI16 d a b => exact reads_V2 3 28 h rfl rfl rfl h
  | vunpk d a b u => exact reads_V2 3 (32 + u.val) (c := fun d a b => .vunpk d a b u) h rfl (by fin_cases u <;> rfl) (by fin_cases u <;> rfl) h
  | vqnt d a i => exact reads_VI 3 40 h rfl rfl rfl h
  | vdqnt d a i => exact reads_VI 3 41 h rfl rfl rfl h
  | vmov d a => exact reads_V1 3 48 h rfl rfl rfl h
  | vmovk d i => exact reads_K 3 49 h rfl rfl rfl h
  | vmovs d a b => exact reads_S2 3 50 (left_of_and h) rfl rfl rfl h
  | vvote d a b u => exact reads_V2 4 (0 + u.val) (c := fun d a b => .vvote d a b u) (left_of_and h) rfl (by fin_cases u <;> rfl) (by fin_cases u <;> rfl) h
  | vshfl d a b u => exact reads_V2 4 (4 + u.val) (c := fun d a b => .vshfl d a b u) h rfl (by fin_cases u <;> rfl) (by fin_cases u <;> rfl) h
  | vshflImm d a i u => exact reads_VI 4 (36 + u.val) (c := fun d a i => .vshflImm d a i u) h rfl (by fin_cases u <;> rfl) (by fin_cases u <;> rfl) h
  | vbcast d a b => exact reads_V2 4 8 (left_of_and h) rfl rfl rfl h
  | vbcastImm d a i => exact reads_VI 4 40 h rfl rfl rfl h
  | setpart b => exact reads_B 4 12 rfl rfl rfl h
  | setpartImm i => exact reads_I 4 44 rfl rfl rfl h
  | vred d a o => exact reads_V1 4 (16 + o.code) (c := fun d a => .vred d a o) h rfl (by cases o <;> rfl) (by cases o <;> rfl) h
  | vscan d a o => exact reads_V1 4 (48 + o.code) (c := fun d a => .vscan d a o) h rfl (by cases o <;> rfl) (by cases o <;> rfl) h
  | sadd d a b => exact reads_S2 5 0 (left_of_and (left_of_and h)) rfl rfl rfl h
  | saddImm d a i => exact reads_SI 5 32 (left_of_and h) rfl rfl rfl h
  | ssub d a b => exact reads_S2 5 1 (left_of_and (left_of_and h)) rfl rfl rfl h
  | smul d a b => exact reads_S2 5 2 (left_of_and (left_of_and h)) rfl rfl rfl h
  | smulImm d a i => exact reads_SI 5 34 (left_of_and h) rfl rfl rfl h
  | smulh d a b => exact reads_S2 5 3 (left_of_and (left_of_and h)) rfl rfl rfl h
  | smulhU d a b => exact reads_S2 5 4 (left_of_and (left_of_and h)) rfl rfl rfl h
  | sdiv d a b => exact reads_S2 5 5 (left_of_and (left_of_and h)) rfl rfl rfl h
  | sdivU d a b => exact reads_S2 5 6 (left_of_and (left_of_and h)) rfl rfl rfl h
  | srem d a b => exact reads_S2 5 7 (left_of_and (left_of_and h)) rfl rfl rfl h
  | sremU d a b => exact reads_S2 5 8 (left_of_and (left_of_and h)) rfl rfl rfl h
  | sand d a b => exact reads_S2 5 9 (left_of_and (left_of_and h)) rfl rfl rfl h
  | sandImm d a i => exact reads_SI 5 41 (left_of_and h) rfl rfl rfl h
  | sor d a b => exact reads_S2 5 10 (left_of_and (left_of_and h)) rfl rfl rfl h
  | sorImm d a i => exact reads_SI 5 42 (left_of_and h) rfl rfl rfl h
  | sxor d a b => exact reads_S2 5 11 (left_of_and (left_of_and h)) rfl rfl rfl h
  | sxorImm d a i => exact reads_SI 5 43 (left_of_and h) rfl rfl rfl h
  | sshl d a b => exact reads_S2 5 12 (left_of_and (left_of_and h)) rfl rfl rfl h
  | sshlImm d a i => exact reads_SI 5 44 (left_of_and h) rfl rfl rfl h
  | ssrl d a b => exact reads_S2 5 13 (left_of_and (left_of_and h)) rfl rfl rfl h
  | ssrlImm d a i => exact reads_SI 5 45 (left_of_and h) rfl rfl rfl h
  | ssra d a b => exact reads_S2 5 14 (left_of_and (left_of_and h)) rfl rfl rfl h
  | ssraImm d a i => exact reads_SI 5 46 (left_of_and h) rfl rfl rfl h
  | smin d a b => exact reads_S2 5 15 (left_of_and (left_of_and h)) rfl rfl rfl h
  | sminU d a b => exact reads_S2 5 16 (left_of_and (left_of_and h)) rfl rfl rfl h
  | smax d a b => exact reads_S2 5 17 (left_of_and (left_of_and h)) rfl rfl rfl h
  | smaxU d a b => exact reads_S2 5 18 (left_of_and (left_of_and h)) rfl rfl rfl h
  | ssel d a b => exact reads_S2 5 19 (left_of_and (left_of_and h)) rfl rfl rfl h
  | smov d a => exact reads_S1 5 20 (left_of_and h) rfl rfl rfl h
  | saddD d a b => exact reads_R2 5 21 rfl rfl rfl h
  | saddDImm d a i => exact reads_RI 5 53 rfl rfl rfl h
  | scmp c a b => exact reads_C 5 22 rfl rfl rfl h
  | scmpImm c a i => exact reads_CI 5 54 rfl rfl rfl h
  | sli d i => exact reads_SK 5 52 h rfl rfl rfl h
  | bra o => exact reads_O 0 rfl rfl (fun _ _ _ _ => rfl) h
  | brc o => exact reads_O 1 rfl rfl (fun _ _ _ _ => rfl) h
  | brcN o => exact reads_O 2 rfl rfl (fun _ _ _ _ => rfl) h
  | switch d cs => exact reads_switch d cs h
  | jmp x => exact reads_X 4 rfl rfl (fun _ _ _ _ => rfl) h
  | call o x => exact reads_OX 5 rfl rfl (fun _ _ _ _ => rfl) h
  | ret x => exact reads_X 6 rfl rfl (fun _ _ _ _ => rfl) h
  | loop o x l => exact reads_OX (8 + l.val) (c := fun o x => .loop o x l) rfl (by fin_cases l <;> rfl) (fun _ _ _ _ => by fin_cases l <;> rfl) h
  | lbrk x => exact reads_X 11 rfl rfl (fun _ _ _ _ => rfl) h
  | regangW => exact reads_Br 12 rfl rfl rfl h
  | regangN => exact reads_Br 13 rfl rfl rfl h
  | exit => exact reads_Br 16 rfl rfl rfl h
  | nop => exact reads_Br 17 rfl rfl rfl h
  | yield => exact reads_Br 18 rfl rfl rfl h
  | msave d mk => exact reads_Mk 7 0 h rfl rfl rfl h
  | mrest mk a => exact reads_Ma 7 1 rfl rfl rfl h
  | mand mk a => exact reads_Ma 7 2 rfl rfl rfl h
  | mor mk a => exact reads_Ma 7 3 rfl rfl rfl h
  | mandn mk a => exact reads_Ma 7 4 rfl rfl rfl h
  | mxor mk a => exact reads_Ma 7 5 rfl rfl rfl h
  | mset mk a => exact reads_Ma 7 6 rfl rfl rfl h
  | mpop d mk => exact reads_Mk 7 7 h rfl rfl rfl h
  | mfirst d mk => exact reads_Mk 7 8 h rfl rfl rfl h
  | meld four a b => exact reads_meld four a b h
  | melde => exact reads_None 7 17 rfl rfl rfl h
  | mtw d i => exact reads_VrI 7 18 rfl rfl rfl h
  | mtr d a => exact reads_S1 7 19 (left_of_and h) rfl rfl rfl h
  | kset k b => exact reads_Kb 7 20 rfl rfl rfl h
  | ksetImm k i => exact reads_Ki 7 52 rfl rfl rfl h
  | ld d a b z => exact reads_M 8 (0 + 16 * z.val) (c := fun d a b => .ld d a b z) rfl (by fin_cases z <;> rfl) (by fin_cases z <;> rfl) h
  | ldSigned d a b z => exact reads_M 8 (11 + 16 * z.val) (c := fun d a b => .ldSigned d a b z) rfl (by fin_cases z <;> rfl) (by fin_cases z <;> rfl) h
  | st d a b z => exact reads_M 8 (1 + 16 * z.val) (c := fun d a b => .st d a b z) rfl (by fin_cases z <;> rfl) (by fin_cases z <;> rfl) h
  | lds d a b z => exact reads_R2 8 (34 + 16 * z.toNat) (c := fun d a b => .lds d a b z) rfl (by cases z <;> rfl) (by cases z <;> rfl) h
  | sts d a b z => exact reads_R2 8 (35 + 16 * z.toNat) (c := fun d a b => .sts d a b z) rfl (by cases z <;> rfl) (by cases z <;> rfl) h
  | spld d a b z => exact reads_M 8 (4 + 16 * z.val) (c := fun d a b => .spld d a b z) rfl (by fin_cases z <;> rfl) (by fin_cases z <;> rfl) h
  | spldSigned d a b z => exact reads_M 8 (12 + 16 * z.val) (c := fun d a b => .spldSigned d a b z) rfl (by fin_cases z <;> rfl) (by fin_cases z <;> rfl) h
  | spst d a b z => exact reads_M 8 (5 + 16 * z.val) (c := fun d a b => .spst d a b z) rfl (by fin_cases z <;> rfl) (by fin_cases z <;> rfl) h
  | tld h rk cb d z => exact reads_T (6 + 16 * z.val) (c := fun h rk cb d => .tld h rk cb d z) rfl (by fin_cases z <;> rfl) (fun _ _ _ _ => by fin_cases z <;> rfl) h
  | tst h rk cb d z => exact reads_T (7 + 16 * z.val) (c := fun h rk cb d => .tst h rk cb d z) rfl (by fin_cases z <;> rfl) (fun _ _ _ _ => by fin_cases z <;> rfl) h
  | pref a b => exact reads_AB 8 8 rfl rfl rfl h
  | shpld h a => exact reads_HA 8 9 rfl rfl rfl h
  | shpinv h => exact reads_H 8 10 rfl rfl rfl h
  | atomDie d a b x o => exact reads_At 9 (0 + o.code) (c := fun d a b x => .atomDie d a b x o) rfl (by cases o <;> rfl) (by cases o <;> rfl) h
  | atomPkg d a b x o => exact reads_At 9 (16 + o.code) (c := fun d a b x => .atomPkg d a b x o) rfl (by cases o <;> rfl) (by cases o <;> rfl) h
  | atomSys d a b x o => exact reads_At 9 (32 + o.code) (c := fun d a b x => .atomSys d a b x o) rfl (by cases o <;> rfl) (by cases o <;> rfl) h
  | atoms d a b x o => exact reads_At 9 (48 + o.code) (c := fun d a b x => .atoms d a b x o) rfl (by cases o <;> rfl) (by cases o <;> rfl) h
  | fence sc => exact reads_Sc 9 11 rfl rfl rfl h
  | rel sc => exact reads_Sc 9 12 rfl rfl rfl h
  | acq sc => exact reads_Sc 9 13 rfl rfl rfl h
  | lda32 d a sc => exact reads_VSc 9 14 rfl rfl rfl h
  | lda64 d a sc => exact reads_VSc 9 15 rfl rfl rfl h
  | stl32 d a sc => exact reads_VSc 9 27 rfl rfl rfl h
  | stl64 d a sc => exact reads_VSc 9 28 rfl rfl rfl h
  | waitp p a => exact reads_Pa 9 29 rfl rfl rfl h
  | cntr d => exact reads_R0 9 30 rfl rfl rfl h
  | bar a b => exact reads_AB 9 31 rfl rfl rfl h
  | bara a b => exact reads_AB 9 43 rfl rfl rfl h
  | barw a => exact reads_A 9 44 rfl rfl rfl h
  | dbar => exact reads_None 9 45 rfl rfl rfl h
  | gbar => exact reads_None 9 46 rfl rfl rfl h
  | cwait d a b => exact reads_R2 9 47 rfl rfl rfl h
  | csig a b => exact reads_AB 9 59 rfl rfl rfl h
  | mma vb va vf vc q0 => exact reads_matrix (sp := 0) (by decide) rfl rfl h
  | mmas vb va vf vc q0 => exact reads_matrix (sp := 1) (by decide) rfl rfl h
  | mzero d => exact reads_Vr 10 2 rfl rfl rfl h
  | mcvtH2 d a m => exact reads_VrM 10 6 rfl rfl rfl h
  | mcvtB2 d a m => exact reads_VrM 10 10 rfl rfl rfl h
  | mcvtF32 d a m => exact reads_VrM 10 14 rfl rfl rfl h
  | mcvtI32 d a m => exact reads_VrM 10 18 rfl rfl rfl h
  | msclB a b => exact reads_AB 10 22 rfl rfl rfl h
  | msclP a b => exact reads_AB 10 26 rfl rfl rfl h
  | ersetBind a b => exact reads_erset 0 rfl (by decide) rfl h
  | ersetFree a => exact reads_ersetFree a h
  | ersetPush a b => exact reads_erset 2 rfl (by decide) rfl h
  | ersetPop a b => exact reads_erset 3 rfl (by decide) rfl h
  | ersetWaitf a b => exact reads_erset 4 rfl (by decide) rfl h
  | ersetWaite a b => exact reads_erset 5 rfl (by decide) rfl h
  | ecopy a => exact reads_A 11 1 rfl rfl rfl h
  | egath a => exact reads_A 11 2 rfl rfl rfl h
  | escat a => exact reads_A 11 3 rfl rfl rfl h
  | ered a => exact reads_A 11 4 rfl rfl rfl h
  | ebcast a => exact reads_A 11 5 rfl rfl rfl h
  | prsv d a => exact reads_R1 11 8 rfl rfl rfl h
  | pcmt a b => exact reads_AB 11 9 rfl rfl rfl h
  | pacq d a => exact reads_R1 11 10 rfl rfl rfl h
  | prel a b => exact reads_AB 11 11 rfl rfl rfl h
  | ptryR d a => exact reads_R1 11 12 rfl rfl rfl h
  | ptryA d a => exact reads_R1 11 13 rfl rfl rfl h
  | pstat d a => exact reads_R1 11 14 rfl rfl rfl h
  | pmsg a b => exact reads_AB 11 16 rfl rfl rfl h
  | precv d a b => exact reads_R2 11 17 rfl rfl rfl h
  | klaunch d a b => exact reads_R2 11 24 rfl rfl rfl h
  | glaunch d a b => exact reads_R2 11 25 rfl rfl rfl h
  | gcond a b => exact reads_AB 11 26 rfl rfl rfl h
  | rsplit d a => exact reads_R1 12 0 rfl rfl rfl h
  | rmerge d a => exact reads_R1 12 1 rfl rfl rfl h
  | rprot d a b => exact reads_R2 12 2 rfl rfl rfl h
  | rinval sc a b => exact reads_ScAB 12 3 rfl rfl rfl h
  | rprobe d a => exact reads_R1 12 4 rfl rfl rfl h
  | rres d a b => exact reads_R2 12 5 rfl rfl rfl h
  | rpress d a => exact reads_R1 12 6 rfl rfl rfl h
  | cwb sc a b => exact reads_ScAB 12 8 rfl rfl rfl h
  | cinv sc a b => exact reads_ScAB 12 9 rfl rfl rfl h
  | trap a => exact reads_A 13 0 rfl rfl rfl h
  | bkpt => exact reads_None 13 1 rfl rfl rfl h
  | sysr n d => exact reads_sysr n d h
  | sysw n b => exact reads_Sysw 13 3 rfl rfl rfl h
  | syswImm n i => exact reads_SyswI 13 35 rfl rfl rfl h
  | ilbf => exact reads_None 13 4 rfl rfl rfl h
  | limm p => exact reads_limm p
  | vaddShort d s => exact reads_short (op := 0) (by decide) (fun hz => of_decide_eq_true h hz.2) rfl rfl h
  | vsubShort d s => exact reads_short (op := 1) (by decide) (fun hz => absurd hz.1 (by decide)) rfl rfl h
  | vandShort d s => exact reads_short (op := 2) (by decide) (fun hz => absurd hz.1 (by decide)) rfl rfl h
  | vorShort d s => exact reads_short (op := 3) (by decide) (fun hz => absurd hz.1 (by decide)) rfl rfl h
  | vxorShort d s => exact reads_short (op := 4) (by decide) (fun hz => absurd hz.1 (by decide)) rfl rfl h
  | vshlShort d s => exact reads_short (op := 5) (by decide) (fun hz => absurd hz.1 (by decide)) rfl rfl h
  | vsrlShort d s => exact reads_short (op := 6) (by decide) (fun hz => absurd hz.1 (by decide)) rfl rfl h
  | vsraShort d s => exact reads_short (op := 7) (by decide) (fun hz => absurd hz.1 (by decide)) rfl rfl h
  | vminShort d s => exact reads_short (op := 8) (by decide) (fun hz => absurd hz.1 (by decide)) rfl rfl h
  | vmaxShort d s => exact reads_short (op := 9) (by decide) (fun hz => absurd hz.1 (by decide)) rfl rfl h
  | vfaddShort d s => exact reads_short (op := 10) (by decide) (fun hz => absurd hz.1 (by decide)) rfl rfl h
  | vfsubShort d s => exact reads_short (op := 11) (by decide) (fun hz => absurd hz.1 (by decide)) rfl rfl h
  | vfmulShort d s => exact reads_short (op := 12) (by decide) (fun hz => absurd hz.1 (by decide)) rfl rfl h
  | vmovShort d s => exact reads_short (op := 13) (by decide) (fun hz => absurd hz.1 (by decide)) rfl rfl h
  | vaddi d i => exact reads_short (op := 14) (by decide) (fun hz => absurd hz.1 (by decide)) rfl rfl h
  | vneg d s => exact reads_short (op := 15) (by decide) (fun hz => absurd hz.1 (by decide)) rfl rfl h
  | illegalInstruction c w => exact absurd rfl (hne c w)
  | _ => exact absurd (show false = true from he) Bool.false_ne_true

end Sys2Proof.Machine

/-! PROOFS. A row of the environment that stops: the halfword 0 as a 16-bit form (spec 07 R103, R121). -/

namespace Sys2Proof.Machine

/-- VADD of registers 0 and 0 as a 16-bit form: its word is 0, so it does not count as an encoded instruction, and the environment may
name it as a row. -/
def zeroShort : Instr := .vaddShort 0 0

theorem zeroShort_fromOutside : Instr.fromOutside zeroShort = true := by decide

/-- With no gang that issues it has no meaning. -/
theorem exec_zeroShort {s : State} (h : s.m.issuer = none) : exec zeroShort s = .fault .noIssuer := by
  rw [zeroShort, exec_vaddShort, execVaddShort, int2, lanesOp]
  exact issue_noIssuer _ _ h

/-- The machine after reset, with that row as its input. -/
def State.resetZeroShort : State := { State.reset with m := { State.reset.m with inputs := [.row zeroShort] } }

/-- Outside a unit of LIMM the first waiting input is taken. -/
theorem step_input {s : State} {x : Input} {xs : List Input} (hp : s.m.poweredDown = false) (hu : s.m.unit = none)
    (hx : s.m.inputs = x :: xs) : step s = takeInput { s with m := { s.m with inputs := xs, tried := [] } } x := by
  simp [step, hp, hu, hx]

theorem step_resetZeroShort : step State.resetZeroShort = .fault .noIssuer := by
  rw [step_input (x := .row zeroShort) (xs := []) rfl rfl rfl, takeInput, if_pos zeroShort_fromOutside]
  exact exec_zeroShort rfl

/-- Refutes O57: the 16-bit form whose halfword is 0 may be a row of the environment, and stops the model where no gang can issue. -/
theorem not_everyStepAnswers : ¬ Obligations.EveryStepAnswers := by
  intro h
  obtain ⟨t, ht⟩ := h State.resetZeroShort
  rw [step_resetZeroShort] at ht
  cases ht

end Sys2Proof.Machine

/-! PROOFS. Period ends and the nodes of graphs (spec 18 R323, R329, R330). -/

namespace Sys2Proof.Machine

/-- With no lost sector a release of the walker goes on. -/
theorem walkerRelease_whole {m : Mach} (j : Nat) {g : GraphJob} (k : Mach → Mach) (h : m.lostAt (m.lead g.ctx) .pkg = []) :
    m.walkerRelease j g k = k m := by
  simp [Mach.walkerRelease, h]

/-- With a lost sector it ends the walker's work in error. -/
theorem walkerRelease_lost {m : Mach} (j : Nat) {g : GraphJob} (k : Mach → Mach) {c : Nat} {cs : List Nat}
    (h : m.lostAt (m.lead g.ctx) .pkg = c :: cs) :
    m.walkerRelease j g k = ((m.announce g.ctx .pkg).modGraphJob j fun g => { g with live := false }).stopContext g.ctx 0x53
      (some { TrapRec.of 0x45 with edesc := g.va, va := m.vaOf g.ctx (32 * c), ctx := g.ctx, die := m.lead g.ctx }) .stopped := by
  simp [Mach.walkerRelease, h]

section
variable {s : State} {j n kind : Nat} {g : GraphJob} {y : Graph} {x : Node} {r : NodeRun} (hn : s.m.nodeAt j n = some (g, y, x, r))
  (hk : x.kind = kind)
include hn hk

theorem workNode_begins (start : Mach → GraphJob → Node → Mach) (hb : r.busy = false) (hr : r.ready = true) :
    workNode kind j n s start = .next { s with m := (start s.m g x).modGraphJob j fun g =>
      { g with nodes := g.nodes.modify n fun r => { r with busy := true } } } := by
  simp [workNode, always_next, hn, hk, hb, hr]

theorem workNode_ends (start : Mach → GraphJob → Node → Mach) {k : Nat} {q : Job} {st : Nat} (hb : r.busy = true)
    (hj : s.m.nodeJob g.part j n = some (k, q)) (hq : q.phase = .complete st) :
    workNode kind j n s start = .next { s with m := s.m.walkerRelease j g fun m => m.nodeDone j n x g.ctx 0 x.next } := by
  simp [workNode, always_next, hn, hk, hb, hj, hq]

theorem quickNode_ready (f : Mach → GraphJob → Graph → Node → NodeRun → Mach) (hr : r.ready = true) :
    quickNode kind j n s f = .next { s with m := f s.m g y x r } := by
  simp [quickNode, always_next, hn, hk, hr]

end

/-- Settles O51, event by event. -/
theorem nodeEvents : Obligations.NodeEvents := by
  intro s i m' h
  cases h with
  | notDue ctx va x c hx hc hh hj hs ht => simp [execBalancerPeriod, always_next, hx, hc, hh, hs, Nat.not_le.mpr ht]
  | due ctx va x c hx hc hh hj hs ht =>
    have hj' : x.job ≠ none := Option.isSome_iff_ne_none.mp hj
    simp [execBalancerPeriod, always_next, hx, hc, hh, hj', hs, Nat.not_lt.mpr ht]
  | kernelBegins j n g y x r v m1 k hn hk hb hr hv he =>
    rw [exec_kernelNode, execKernelNode, workNode_begins hn hk _ hb hr]
    simp only [hv, he]
  | planBegins j n g y x r hn hk hb hr => rw [exec_planNode, execPlanNode, workNode_begins hn hk _ hb hr]
  | kernelEnds j n g y x r k q st hn hk hb hj hq hl =>
    rw [exec_kernelNode, execKernelNode, workNode_ends hn hk _ hb hj hq, walkerRelease_whole _ _ hl]
  | planEnds j n g y x r k q st hn hk hb hj hq hl =>
    rw [exec_planNode, execPlanNode, workNode_ends hn hk _ hb hj hq, walkerRelease_whole _ _ hl]
  | signals j n g y x r hn hk hr hf hl =>
    rw [exec_signalNode, execSignalNode, quickNode_ready hn hk _ hr, walkerRelease_whole _ _ hl]
    exact congrArg _ (congrArg _ (if_neg (Bool.eq_false_iff.mp hf)))
  | lost j n g y x r k ks hn hk hr hf hl =>
    rw [exec_signalNode, execSignalNode, quickNode_ready hn hk _ hr, walkerRelease_lost _ _ hl]
    exact congrArg _ (congrArg _ (if_neg (Bool.eq_false_iff.mp hf)))
  | branches j n g y x r w m1 hn hk hr hl hw =>
    rw [exec_conditionalNode, execConditionalNode, quickNode_ready hn hk _ hr, walkerRelease_whole _ _ hl]
    simp only [hw]
  | iterates j n g y x r w m1 hn hk hr hl hw hne hi =>
    rw [exec_whileNode, execWhileNode, quickNode_ready hn hk _ hr, walkerRelease_whole _ _ hl]
    simp only [hw, ne_eq, hne, not_false_eq_true, hi, and_self, if_true]
  | leaves j n g y x r w m1 hn hk hr hl hw he =>
    have hno : ¬ (w ≠ 0 ∧ r.iters < x.bound) := by omega
    rw [exec_whileNode, execWhileNode, quickNode_ready hn hk _ hr, walkerRelease_whole _ _ hl]
    simp only [hw, if_neg hno]
  | arrives j n g y x r hn hs => simp [execGraphEnqueueArrive, always_next, hn, hs]

end Sys2Proof.Machine

/-! PROOFS. Accesses from outside the package, and what the host reads in BAR 0 and over the sideband (spec 12 R229 to R231, 23 R386,
R390 to R397). -/

namespace Sys2Proof.Machine

/-! ### Requests that no switch refuses -/

theorem mem_addNew {l : List Nat} {x y : Nat} : x ∈ addNew l y ↔ x = y ∨ x ∈ l := by
  unfold addNew
  split
  · next h => exact ⟨.inr, fun hx => hx.elim (fun he => he ▸ List.contains_iff_mem.mp h) id⟩
  · exact List.mem_cons

theorem mem_foldl_addNew (f : Nat → Nat) {xs l : List Nat} {x : Nat} (h : x ∈ xs.foldl (fun l i => addNew l (f i)) l) :
    x ∈ l ∨ ∃ i, i ∈ xs ∧ f i = x := by
  induction xs generalizing l with
  | nil => exact .inl h
  | cons a as ih =>
    obtain hl | ⟨i, hi, he⟩ := ih h
    · obtain rfl | hl := mem_addNew.mp hl
      · exact .inr ⟨a, .head _, rfl⟩
      · exact .inl hl
    · exact .inr ⟨i, .tail _ hi, he⟩

theorem mem_linesOf {k n l : Nat} (h : l ∈ linesOf k n) : ∃ i, i < n ∧ lineOf (k + i) = l := by
  obtain h | ⟨i, hi, he⟩ := mem_foldl_addNew (fun i => lineOf (k + i)) h
  · cases h
  · exact ⟨i, List.mem_range.mp hi, he⟩

/-- A switch refuses a line whole. -/
theorem refuses_line (m : Mach) (k : Nat) : m.refuses (128 * lineOf k) = m.refuses k := by
  have h : lineOf (128 * lineOf k) = lineOf k := by simp only [lineOf]; omega
  simp only [Mach.refuses, h]

section
variable {m : Mach} {k n : Nat}

theorem not_mustWait (hr : m.refused = []) (h : ∀ i, i < n → m.refuses (k + i) = false) : m.mustWait k n = false := by
  simp only [Mach.mustWait, hr, List.any_nil, Bool.or_false, List.any_eq_false, Bool.not_eq_true]
  intro l hl
  obtain ⟨i, hi, rfl⟩ := mem_linesOf hl
  rw [refuses_line]
  exact h i hi

theorem fromOutside_now {bs : List Byte} (hk : keyClass k ≠ 2) (hr : m.refused = []) (h : ∀ i, i < bs.length → m.refuses (k + i) = false) :
    m.fromOutside k bs = m.outsideWrite k bs.length (bytesValue bs) := by
  simp only [Mach.fromOutside, if_neg hk, not_mustWait hr h, Bool.false_eq_true, if_false]

theorem not_refuses (h : m.switching = none) (k : Nat) : m.refuses k = false := by simp [Mach.refuses, h]

theorem resendAll_self (hs : m.switching = none) (hr : m.refused = []) : m.resendAll = m := by
  rw [Mach.resendAll, if_neg (by simp [hs]), hr, List.foldl_nil, ← hr]

/-- With no switch under way and nothing refused a request has its turn at once. -/
theorem outsideTurn_self (hs : m.switching = none) (hr : m.refused = []) : m.outsideTurn k n = m := by
  have hw : m.mustWait k n = false := not_mustWait hr fun i _ => not_refuses hs _
  simp only [Mach.outsideTurn, hw, Bool.false_eq_true, if_false, resendAll_self hs hr]

theorem readOutside_now (hs : m.switching = none) (hr : m.refused = []) :
    m.readOutside k n = { m with hostReads := m.hostReads ++ [bytesOf n (m.homeRead k n)] } := by
  simp only [Mach.readOutside, outsideTurn_self hs hr]

theorem atomicOutside_now {o : AtomOp} {y c v : Nat} (hs : m.switching = none) (hr : m.refused = []) (hk : keyClass k ≠ 2)
    (hv : v = m.homeRead k n) :
    m.atomicOutside k n o y c =
      { m.outsideWrite k n (AtomOp.apply o (8 * n) v (y % 2 ^ (8 * n)) (c % 2 ^ (8 * n))) with
        hostReads := (m.outsideWrite k n (AtomOp.apply o (8 * n) v (y % 2 ^ (8 * n)) (c % 2 ^ (8 * n)))).hostReads ++ [bytesOf n v] } := by
  simp only [Mach.atomicOutside, outsideTurn_self hs hr, if_neg hk, hv]

end

/-- A write that enables every byte is one run. -/
theorem enabledRuns_all (i : Nat) (b : Byte) (bs : List Byte) : enabledRuns i ((b :: bs).map some) = [(i, b :: bs)] := by
  induction bs generalizing i b with
  | nil => rfl
  | cons c cs ih =>
    rw [List.map_cons, enabledRuns, ih]
    exact if_pos rfl

theorem peerSize_ne_nil {pa : Nat} {bs : List Byte} (h : peerSize pa bs.length = true) : bs ≠ [] := by
  rintro rfl
  cases h

/-! ### BAR 0 and the sideband -/

theorem bytesOf_eq_map (n v : Nat) : bytesOf n v = (List.range n).map fun i => BitVec.ofNat 8 (v / 2 ^ (8 * i)) := by
  induction n generalizing v with
  | zero => rfl
  | succ n ih =>
    have hshift : ∀ i, v / 256 / 2 ^ (8 * i) = v / 2 ^ (8 * (i + 1)) := fun i => by
      rw [Nat.div_div_eq_div_mul, Nat.mul_add, Nat.pow_add, Nat.mul_comm (2 ^ (8 * i))]
    rw [bytesOf, ih, List.range_succ_eq_map, List.map_cons, List.map_map]
    simp only [Nat.mul_zero, Nat.pow_zero, Nat.div_one, hshift]
    rfl

/-- A register of BAR 0: (offset, bytes, value). -/
theorem mem_bar0 {f : Fuse} {m : Mach} {r : Nat × Nat × Nat} : r ∈ m.bar0 f ↔ r = (0, 4, f.pkgcfg.toNat) ∨
    (∃ p : Fin 8, r = (0x2000 + 8 * p.val, 8, m.time p.val)) ∨ (∃ k : Fin 32, r = (0x3000 + 32 * k.val, 32, m.linkRecord k)) ∨
    ∃ p : Fin 8, r = (0x4000 + 8 * p.val, 8, m.q0addr.at p) := by
  simp [Mach.bar0, Fin.exists_iff, eq_comm]

/-- No two registers hold one byte. -/
theorem bar0_disjoint {f : Fuse} {m : Mach} {o : Nat} {r q : Nat × Nat × Nat} (hr : r ∈ m.bar0 f) (hq : q ∈ m.bar0 f)
    (hro : r.1 ≤ o ∧ o < r.1 + r.2.1) (hqo : q.1 ≤ o ∧ o < q.1 + q.2.1) : q = r := by
  rcases mem_bar0.mp hr with rfl | ⟨p, rfl⟩ | ⟨k, rfl⟩ | ⟨p, rfl⟩
  · rcases mem_bar0.mp hq with rfl | ⟨p', rfl⟩ | ⟨k', rfl⟩ | ⟨p', rfl⟩
    · rfl
    all_goals dsimp only at hro hqo; omega
  · rcases mem_bar0.mp hq with rfl | ⟨p', rfl⟩ | ⟨k', rfl⟩ | ⟨p', rfl⟩
    rotate_left
    · obtain rfl : p = p' := by dsimp only at hro hqo; omega
      rfl
    all_goals dsimp only at hro hqo; omega
  · rcases mem_bar0.mp hq with rfl | ⟨p', rfl⟩ | ⟨k', rfl⟩ | ⟨p', rfl⟩
    rotate_left 2
    · obtain rfl : k = k' := by dsimp only at hro hqo; omega
      rfl
    all_goals dsimp only at hro hqo; omega
  · rcases mem_bar0.mp hq with rfl | ⟨p', rfl⟩ | ⟨k', rfl⟩ | ⟨p', rfl⟩
    rotate_left 3
    · obtain rfl : p = p' := by dsimp only at hro hqo; omega
      rfl
    all_goals dsimp only at hro hqo; omega

/-- A byte of a register. -/
theorem bar0Byte_of_mem {f : Fuse} {m : Mach} {o n v i : Nat} (h : (o, n, v) ∈ m.bar0 f) (hi : i < n) :
    m.bar0Byte f (o + i) = some (BitVec.ofNat 8 (v / 2 ^ (8 * i))) := by
  have hin : o ≤ o + i ∧ o + i < o + n := ⟨by omega, by omega⟩
  have hfind : (m.bar0 f).find? (fun r => decide (r.1 ≤ o + i) && decide (o + i < r.1 + r.2.1)) = some (o, n, v) := by
    cases hf : (m.bar0 f).find? fun r => decide (r.1 ≤ o + i) && decide (o + i < r.1 + r.2.1) with
    | none => exact absurd (List.find?_eq_none.mp hf _ h) (by simpa using hin)
    | some q =>
      have hq := List.find?_some hf
      rw [Bool.and_eq_true, decide_eq_true_eq, decide_eq_true_eq] at hq
      rw [bar0_disjoint h (List.mem_of_find?_eq_some hf) hin hq]
  rw [Mach.bar0Byte, hfind, Option.map_some, Nat.add_sub_cancel_left]

/-- A register read whole. -/
theorem management_register {f : Fuse} {m : Mach} {o n v : Nat} (h : (o, n, v) ∈ m.bar0 f) :
    m.management f (.register o) n = some (bytesOf n v) := by
  rw [Mach.management, bytesOf_eq_map]
  have hmap : ∀ l : List Nat, (∀ i, i ∈ l → i < n) →
      (l.mapM fun i => m.bar0Byte f (o + i)) = some (l.map fun i => BitVec.ofNat 8 (v / 2 ^ (8 * i))) := by
    intro l
    induction l with
    | nil => intro _; rfl
    | cons a l ih =>
      intro hl
      rw [List.mapM_cons, bar0Byte_of_mem h (hl a (.head _)), ih fun i hi => hl i (.tail _ hi)]
      rfl
  exact hmap _ fun i hi => List.mem_range.mp hi

/-- The host reads what has no address in memory. -/
theorem hostRead_management {s : State} {a : HostAddr} {n : Nat} {bs : List Byte} (ha : ∀ pa, a ≠ .memory pa)
    (h : s.m.management s.fuse a n = some bs) :
    exec (.hostRead a n) s = .next { s with m := { s.m with hostReads := s.m.hostReads ++ [bs] } } := by
  rw [exec_hostRead, execHostRead, always_next]
  cases a with
  | memory pa => exact absurd rfl (ha pa)
  | _ => simp only [h, Mach.answer]

theorem hostReads_management {f : Fuse} {m : Mach} {a : HostAddr} {n : Nat} {bs : List Byte} (h : HostReads f m a n bs) :
    m.management f a n = some bs := by
  cases h with
  | config => exact management_register (mem_bar0.mpr (.inl rfl))
  | time p => exact management_register (mem_bar0.mpr (.inr (.inl ⟨p, rfl⟩)))
  | link k => exact management_register (mem_bar0.mpr (.inr (.inr (.inl ⟨k, rfl⟩))))
  | queue0 p => exact management_register (mem_bar0.mpr (.inr (.inr (.inr ⟨p, rfl⟩))))
  | registers d x n hd => simp [Mach.management, hd]
  | srams d x n hd => simp [Mach.management, hd]
  | links d x n hd => simp [Mach.management, hd]
  | temperature i n v ho ht => simp [Mach.management, ho, measuredOr, ht]
  | refusal n => rfl
  | halted d x n hd => simp [Mach.management, hd]
  | haltedMemory d k x n hd hh => simp [Mach.management, hd, hh]

theorem not_memory_of_hostReads {f : Fuse} {m : Mach} {a : HostAddr} {n : Nat} {bs : List Byte} (h : HostReads f m a n bs) (pa : Nat) :
    a ≠ .memory pa := by
  rintro rfl
  cases h

/-! ### The events -/

theorem outsideEvent_exec {s : State} {i : Instr} {m' : Mach} (h : OutsideEvent s.m i m') : exec i s = .next { s with m := m' } := by
  cases h with
  | hostWrite pa bs k hk hc hr hn => simp only [exec_hostWrite, execHostWrite, always_next, hk, fromOutside_now hc hn hr]
  | peerWrite pa bs k hk hp hz hc hr hn =>
    cases bs with
    | nil => cases hz
    | cons b bs =>
      have hlen : ((b :: bs).map some).length = (b :: bs).length := List.length_map _
      simp only [exec_peerWrite, execPeerWrite, always_next, hlen, hk, hp, hz, Bool.and_self, if_true, enabledRuns_all, List.foldl_cons,
        List.foldl_nil, Nat.add_zero, fromOutside_now hc hn hr]
  | peerPart pa bs k hk hp hz => simp only [exec_peerWrite, execPeerWrite, always_next, hk, hp, hz, Bool.and_self, if_true]
  | hostRead pa n k hk hs hr => simp only [exec_hostRead, execHostRead, always_next, hk, readOutside_now hs hr]
  | peerRead pa n k hk hp hz hs hr => simp only [exec_peerRead, execPeerRead, always_next, hk, hp, hz, Bool.and_self, if_true, readOutside_now hs hr]
  | hostAtomic pa x o y c n k v m2 hn hk hd ho hc hs hr hv h2 =>
    simp only [exec_hostAtomicop, execHostAtomicop, always_next, ← hn, hk, hd, ho, and_self, if_true, atomicOutside_now hs hr hc hv, h2]
  | peerAtomic pa x o y c n k v m2 hn hk hp hd ho hc hs hr hv h2 =>
    simp only [exec_peerAtomic, execPeerAtomic, always_next, ← hn, hk, hp, hd, ho, decide_true, Bool.and_self, if_true,
      atomicOutside_now hs hr hc hv, h2]
  | received port bs r va sp hring hlen hroom hsp =>
    have hno : ¬ (crc32 bs ≠ crc32 bs ∨ frameLimit < bs.length ∨ r.room = 0) := by
      rintro (h | h | h)
      · exact h rfl
      · exact absurd h (Nat.not_lt.mpr hlen)
      · exact hroom h
    simp only [exec_ethernetRx, execEthernetRx, always_next, hring, if_neg hno, hsp]
  | lostFrame port bs fcs hf =>
    rw [exec_ethernetRx, execEthernetRx, always_next]
    split
    · rw [if_pos (.inl hf)]
    · rfl
  | sent port r va sp n m1 bs hring hheld hsp hn h1 hbs =>
    simp only [exec_ethernetTx, execEthernetTx, always_next, hring, if_neg hheld, hsp, hn, h1, hbs]
  | reserved pipe slot bs p j q hp hrm hres => simp [execRemotePipeRequest, always_next, hp, hrm, hres]
  | committed pipe slot bs p hp hrm hst => simp [execRemotePipeRequest, always_next, hp, hrm, hst]

/-- Settles O53: the events one by one, and what the host reads by the register that holds its offset. -/
theorem outsideEvents : Obligations.OutsideEvents :=
  ⟨fun _ _ _ h => outsideEvent_exec h, fun _ _ _ _ h => hostRead_management (not_memory_of_hostReads h) (hostReads_management h)⟩

end Sys2Proof.Machine

/-! PROOFS. A failed UALink port is no broken link of the package (spec 21 R376). -/

namespace Sys2Proof.Machine

/-- LINK_FAIL of a UALink port leaves the list of broken links as it is: the port goes down, and may lock again. -/
theorem linkFail_ualink_brokenLinks {s : State} {m : Mach} (k : Fin 32) (h : exec (.linkFail (.ualink k)) s = .next { s with m := m }) :
    m.brokenLinks = s.m.brokenLinks := by
  rw [exec_linkFail, execLinkFail, always_next] at h
  simp only [Host.Outcome.next.injEq, State.mk.injEq, true_and] at h
  subst h
  split <;> rfl

/-- Refutes O52: after reset UALink port 0 fails, and no link is broken after it. -/
theorem not_packageEvents : ¬ Obligations.PackageEvents := by
  intro h
  obtain ⟨-, hfail, -⟩ := h State.reset
  obtain ⟨m, hm, hl, -⟩ := hfail (.ualink 0)
  rw [linkFail_ualink_brokenLinks 0 hm] at hl
  cases hl

end Sys2Proof.Machine

/-! PROOFS. The remaining events: epochs, matrix units, islands, errors, the debugger and stops (spec 12 R225, 05 R95, 01 R24, R27, 21 R369
to R378, 23 R397, 25 R402). -/

namespace Sys2Proof.Machine

/-! ### Stops of several contexts -/

theorem ctx_modCtx_ne {m : Mach} {id n : Nat} (f : Context → Context) (hid : ∀ c, (f c).id = c.id) (hn : n ≠ id) :
    (m.modCtx id f).ctx? n = m.ctx? n := by
  simp only [Mach.ctx?, Mach.modCtx]
  induction m.contexts with
  | nil => rfl
  | cons c cs ih =>
    rw [List.map_cons, List.find?_cons, List.find?_cons, ih]
    by_cases hc : c.id = id
    · have hcn : (c.id == n) = false := by simpa [hc] using Ne.symm hn
      rw [if_pos hc, hid, hcn]
    · rw [if_neg hc]

/-- A stop leaves the halt of every other context. -/
theorem stopBy_halt_ne {m : Mach} {id n : Nat} (hn : n ≠ id) (cause : Nat) (own : Option TrapRec) (who : Option Served) (cut : List Nat)
    (halt : Halt) : ((m.stopBy id cause own who cut halt).ctx? n).map (·.halt) = (m.ctx? n).map (·.halt) := by
  unfold Mach.stopBy
  split
  · rfl
  split
  · rfl
  · rw [stopAreas_halt]
    have hm := fun ts : List Team => congrArg (Option.map (·.halt))
      (ctx_modCtx_ne (m := { m with teams := ts }) (fun c => { c with halt := some halt, haltDue := false, reported := false })
        (fun _ => rfl) hn)
    split <;> exact hm _

/-- The contexts of some numbers stopped one after another. -/
def Mach.stopAll (m : Mach) (ids : List Nat) (cause : Nat) (halt : Halt) : Mach :=
  ids.foldl (fun m id => m.stopContext id cause none halt) m

section
variable {n : Nat} {halt : Halt} {h0 : Option Halt}

theorem stopContext_halts {m : Mach} (h : (m.ctx? n).map (·.halt) = some h0) (hh : h0 = some .stopped → halt = .stopped) (cause : Nat) :
    ((m.stopContext n cause none halt).ctx? n).map (·.halt) = some (some halt) := by
  obtain ⟨c, hc, rfl⟩ := Option.map_eq_some_iff.mp h
  exact stopBy_halts hc cause none none [] hh

theorem stopAll_halted {ids : List Nat} {m : Mach} (h : (m.ctx? n).map (·.halt) = some (some halt)) (cause : Nat) :
    ((m.stopAll ids cause halt).ctx? n).map (·.halt) = some (some halt) := by
  induction ids generalizing m with
  | nil => exact h
  | cons id ids ih =>
    refine ih (m := m.stopContext id cause none halt) ?_
    by_cases hid : n = id
    · subst hid
      exact stopContext_halts h (fun he => Option.some.inj he) cause
    · exact (stopBy_halt_ne hid cause none none [] halt).trans h

theorem stopAll_halts {ids : List Nat} {m : Mach} (h : (m.ctx? n).map (·.halt) = some h0) (hh : h0 = some .stopped → halt = .stopped)
    (cause : Nat) (hn : n ∈ ids) : ((m.stopAll ids cause halt).ctx? n).map (·.halt) = some (some halt) := by
  induction ids generalizing m with
  | nil => cases hn
  | cons id ids ih =>
    by_cases hid : n = id
    · subst hid
      exact stopAll_halted (stopContext_halts h hh cause) cause
    · exact ih (m := m.stopContext id cause none halt) ((stopBy_halt_ne hid cause none none [] halt).trans h)
        (List.mem_of_ne_of_mem hid hn)

/-- A stop makes no context. -/
theorem stopAll_ctx_none {ids : List Nat} {m : Mach} (h : m.ctx? n = none) (cause : Nat) : (m.stopAll ids cause halt).ctx? n = none := by
  induction ids generalizing m with
  | nil => exact h
  | cons id ids ih =>
    refine ih (m := m.stopContext id cause none halt) ?_
    by_cases hid : n = id
    · subst hid
      simp only [Mach.stopContext, Mach.stopBy, h]
    · have hm := stopBy_halt_ne (m := m) hid cause none none [] halt
      rw [h] at hm
      exact Option.map_eq_none_iff.mp hm

end

theorem mem_ids_of_ctx {m : Mach} {n : Nat} {c : Context} (h : m.ctx? n = some c) : n ∈ m.contexts.map Context.id := by
  have hid : c.id = n := by simpa using List.find?_some h
  exact hid ▸ List.mem_map_of_mem (List.mem_of_find?_eq_some h)

theorem doHalts_eq (m : Mach) : m.doHalts = m.stopAll ((m.contexts.filter Context.haltDue).map Context.id) 0x50 .debugger := by
  rw [Mach.stopAll, List.foldl_map]
  rfl

theorem doHalts_self {m : Mach} (h : ∀ c, c ∈ m.contexts → c.haltDue = false) : m.doHalts = m := by
  have hf : m.contexts.filter Context.haltDue = [] := List.filter_eq_nil_iff.mpr fun c hc => by simp [h c hc]
  rw [doHalts_eq, hf]
  rfl

theorem doHalts_halts {m : Mach} {n : Nat} {c : Context} (h : m.ctx? n = some c) (hh : c.halt = none) (hd : c.haltDue = true) :
    (m.doHalts.ctx? n).map (·.halt) = some (some .debugger) := by
  have hid : c.id = n := by simpa using List.find?_some h
  have hmem : n ∈ (m.contexts.filter Context.haltDue).map Context.id :=
    hid ▸ List.mem_map_of_mem (List.mem_filter.mpr ⟨List.mem_of_find?_eq_some h, hd⟩)
  rw [doHalts_eq]
  exact stopAll_halts (h0 := none) (by rw [h, Option.map_some, hh]) nofun _ hmem

theorem stopAll_contexts (m : Mach) {n : Nat} {c : Context} (cause : Nat)
    (h : (m.stopAll (m.contexts.map Context.id) cause .stopped).ctx? n = some c) : c.halt.isSome := by
  cases hc : m.ctx? n with
  | none =>
    rw [stopAll_ctx_none hc] at h
    cases h
  | some c0 =>
    have hs := stopAll_halts (halt := .stopped) (h0 := c0.halt) (by rw [hc, Option.map_some]) (fun _ => rfl) cause (mem_ids_of_ctx hc)
    rw [h, Option.map_some] at hs
    rw [Option.some.inj hs]
    rfl

/-! ### Changes at one place -/

theorem modify_congr {α : Type} {l : List α} {i : Nat} {x : α} {f g : α → α} (h : l[i]? = some x) (hf : f x = g x) :
    l.modify i f = l.modify i g := by
  apply List.ext_getElem?
  intro k
  rw [List.getElem?_modify, List.getElem?_modify]
  by_cases hk : i = k
  · subst hk
    simp [h, hf]
  · simp [hk]

theorem modDie_congr {m : Mach} {d : Nat} {x : Die} {f g : Die → Die} (h : m.dies[d]? = some x) (hf : f x = g x) :
    m.modDie d f = m.modDie d g := by
  simp only [Mach.modDie, modify_congr h hf]

theorem modWarp_congr {m : Mach} {t w : Nat} {x : Warp} {f g : Warp → Warp} (h : m.warp? t w = some x) (hf : f x = g x) :
    m.modWarp t w f = m.modWarp t w g := by
  unfold Mach.warp? at h
  split at h
  · next team ht =>
    have he : team.modWarp w f = team.modWarp w g := by simp only [Team.modWarp, modify_congr h hf]
    simp only [Mach.modWarp, Mach.modTeam, modify_congr (f := (Team.modWarp · w f)) (g := (Team.modWarp · w g)) ht he]
  · cases h

/-! ### The events -/

theorem machineEvent_exec {s : State} {i : Instr} {m' : Mach} (h : MachineEvent s.m i m') : exec i s = .next { s with m := m' } := by
  cases h with
  | timeout d x t hd hx ht => simp [execEpochTimeout, always_next, hd, hx, ht]
  | early d x t hd hx ht => simp [execEpochTimeout, always_next, hd, hx, Nat.not_le.mpr ht]
  | full d x hd hx => simp [execDirtyTableFull, always_next, hd, hx]
  | lineFill t w tid line x y ht hw => simp only [exec_scaleLineFill, execScaleLineFill, always_next, ht, hw]
  | unitRestored d c u => rfl
  | unitRetained d c u hidle =>
    have hno : (s.m.teams.any fun t => t.die == d && t.warps.any fun x => x.core == c && !x.mma.isEmpty) = false := by
      simp only [List.any_eq_false, Bool.and_eq_true, beq_iff_eq, List.any_eq_true, Bool.not_eq_true', not_and, not_exists]
      intro t ht hd x hx hc
      rw [hidle t ht hd x hx hc]
      exact Bool.noConfusion
    simp only [exec_matrixUnitRetention, execMatrixUnitRetention, always_next, hno, Bool.false_eq_true, if_false, unitBit]
  | halts ctx => rfl
  | haltsContext ctx => rfl
  | resumes ctx hdue => simp only [exec_debuggerResume, execDebuggerResume, always_next, doHalts_self hdue]
  | attaches ctx on => rfl
  | reports ctx c hc hh hr hd hf hl hs =>
    have hgo : ¬ (c.halt.isNone = true ∨ c.reported = true ∨ s.m.haltedDie c.stopDie = true ∨ s.m.flushHeld c.stopDie .sys = true) := by
      simp [hr, hd, hf, Option.isSome_iff_ne_none.mp hh]
    have hwhole : ¬ ((!(s.m.lostAt c.stopDie .sys).isEmpty) = true ∨ s.m.stopsLost c = true) := by simp [hl, hs]
    simp only [exec_stopReport, execStopReport, always_next, Mach.reportStop, hc, if_neg hgo, if_neg hwhole]
  | corrected d c => cases c <;> rfl
  | poisoned t w n l x hw hp =>
    have hno : x.poison.contains (n, l) = false := by simpa using hp
    simp only [exec_registerPoison, execRegisterPoison, always_next]
    rw [modWarp_congr hw]
    simp only [hno, Bool.false_eq_true, if_false]
  | lost d k x hd hk =>
    have hyes : x.sectors.contains k = true := List.contains_iff_mem.mpr hk
    simp only [exec_sectorLoss, execSectorLoss, always_next]
    rw [modDie_congr hd]
    simp only [hyes, if_true]

theorem islandEvent_exec {s : State} {i : Instr} {m' : Mach} (h : IslandEvent s.fuse s.m i m') : exec i s = .next { s with m := m' } := by
  cases h with
  | throttled n temp freq ho ht =>
    simp only [exec_thermalThrottle, execThermalThrottle, always_next, ho, Bool.false_eq_true, if_false, ht, if_true, Mach.measured, Mach.setFrequency]
  | cool n temp freq ho ht =>
    simp only [exec_thermalThrottle, execThermalThrottle, always_next, ho, Bool.false_eq_true, if_false, Nat.not_le.mpr ht, Mach.measured,
      Mach.setFrequency, List.nil_append]
  | power n freq ho => simp only [exec_powerLimit, execPowerLimit, always_next, ho, Bool.false_eq_true, if_false, Mach.setFrequency]
  | offThrottle n temp freq ho => simp only [exec_thermalThrottle, execThermalThrottle, always_next, ho, if_true]
  | offPower n freq ho => simp only [exec_powerLimit, execPowerLimit, always_next, ho, if_true]

theorem stopEvent_exec {s : State} {i : Instr} {n cause : Nat} {halt : Halt} (h : StopEvent n i cause halt) :
    halt = .stopped ∧ exec i s = .next { s with m := s.m.stopContext n cause none halt } := by
  cases h <;> exact ⟨rfl, rfl⟩

/-- From 115 degrees on the package powers down with every context halted. -/
theorem thermalShutdown_exec {s : State} {d temp : Nat} (hd : d < s.m.dies.length) (ht : 115 ≤ temp) :
    ∃ m, exec (.thermalShutdown d temp) s = .next { s with m := m } ∧ m.poweredDown = true ∧ ∀ n c, m.ctx? n = some c → c.halt.isSome := by
  have hexec : exec (.thermalShutdown d temp) s = .next { s with m :=
      { ({ s.m with dieTemps := (d, temp) :: s.m.dieTemps.filter fun e => e.1 ≠ d } : Mach).stopAll (s.m.contexts.map Context.id) 0x52 .stopped with
        poweredDown := true } } := by
    simp only [exec_thermalShutdown, execThermalShutdown, always_next, if_neg (Nat.not_le.mpr hd), if_neg (Nat.not_lt.mpr ht), Mach.stopAll]
  exact ⟨_, hexec, rfl, fun n c h => stopAll_contexts { s.m with dieTemps := _ } 0x52 h⟩

/-- Settles O54, event by event; the halts by induction over the contexts that stop. -/
theorem machineEvents : Obligations.MachineEvents := by
  intro s
  refine ⟨fun _ _ h => machineEvent_exec h, fun _ _ h => islandEvent_exec h, fun n c hc hh hd => doHalts_halts hc hh hd, ?_,
    fun d temp hd ht => thermalShutdown_exec hd ht⟩
  intro i n cause halt c h hc hh
  obtain ⟨rfl, hexec⟩ := stopEvent_exec (s := s) h
  exact ⟨_, hexec, stopBy_halts hc cause none none [] fun _ => rfl⟩

end Sys2Proof.Machine

/-! PROOFS. The events of teams (spec 03 R44, R45, R62, R67, R69; 18 R314 to R317; 21 R366). -/

namespace Sys2Proof.Machine

theorem team_of_warp {m : Mach} {t w : Nat} {x : Warp} (h : m.warp? t w = some x) : ∃ team, m.teams[t]? = some team ∧ team.warps[w]? = some x := by
  unfold Mach.warp? at h
  split at h
  · next team ht => exact ⟨team, ht, h⟩
  · cases h

/-- No saved team of a co-resident launch stays suspended for the configuration. -/
theorem all_suit {m : Mach} {team : Team} (h : team.cor = true → ∀ q, q ∈ m.savedOf team.part team.job → m.configOk team.part q.2 = true) :
    ¬ (team.cor = true ∧ ((m.savedOf team.part team.job).any fun q => !m.configOk team.part q.2) = true) := by
  rintro ⟨hc, ha⟩
  obtain ⟨q, hq, hf⟩ := List.any_eq_true.mp ha
  rw [h hc q hq] at hf
  cases hf

theorem mayExpire_alone {m : Mach} {team : Team} (hp : team.phase = .running) (hn : team.plan = none) (hv : team.served = none)
    (ho : m.sliceOver team = true) (hc : team.cor = false) : m.mayExpire team = true := by
  simp [Mach.mayExpire, hp, hn, hv, ho, hc]

theorem not_mayExpire {m : Mach} {team : Team} (h : m.sliceOver team = false) : m.mayExpire team = false := by
  simp [Mach.mayExpire, h]

theorem teamEvent_exec {s : State} {i : Instr} {m' : Mach} (h : TeamEvent s.m i m') : exec i s = .next { s with m := m' } := by
  cases h with
  | placed p die core i j k shapes n hd hn hs hk hsh hl =>
    simp [execTeamPlacement, always_next, hd, hn, hs, hk, hsh, hl, Mach.placeTeam]
  | started t team j ht hj hp hr hm => simp [execTeamStart, always_next, ht, hj, hp, hr, hm]
  | restored t die core team i j ht hp hs hr hk hpl hn hi hc hjc hre =>
    subst hi
    have hpl' : ¬ (team.plan.isSome || team.served.isSome) = true := by rw [hpl]; exact Bool.false_ne_true
    simp only [exec_teamRestore, execTeamRestore, always_next, ht, hp, hs, hr, hc, hk, hn, hjc, hre, if_neg hpl', ne_eq, not_true_eq_false,
      Bool.false_eq_true, Bool.not_true, or_self, false_and, if_false, if_true]
  | restoredAll t die core team i j m' ht hp hs hr hk hall hpl hn hi hjc hh hre =>
    subst hi
    have hpl' : ¬ (team.plan.isSome || team.served.isSome) = true := by rw [hpl]; exact Bool.false_ne_true
    simp only [exec_teamRestore, execTeamRestore, always_next, ht, hp, hs, hr, hk, hn, hjc, hh, hre, if_neg hpl', if_neg (all_suit fun _ => hall),
      ne_eq, not_true_eq_false, Bool.false_eq_true, Bool.not_true, or_self, if_false, if_true, Option.getD_some]
  | restoredStage t die core team ht hp hs hr hk hc hpl hre =>
    simp only [exec_teamRestore, execTeamRestore, always_next, ht, hp, hs, hr, hc, hk, hre, hpl, ne_eq, not_true_eq_false,
      Bool.false_eq_true, Bool.not_true, or_self, false_and, if_false, if_true]
  | unsuited t die core team ht hp hs hr hc hk =>
    simp only [exec_teamRestore, execTeamRestore, always_next, ht, hp, hs, hr, hc, hk, ne_eq, not_true_eq_false, Bool.false_eq_true,
      Bool.not_true, or_self, false_and, if_false, Bool.not_false, if_true]
  | unsuitedAll t die core team q ht hp hs hr hc hq hk =>
    have hany : ((s.m.savedOf team.part team.job).any fun q => !s.m.configOk team.part q.2) = true :=
      List.any_eq_true.mpr ⟨q, hq, by rw [hk]; rfl⟩
    simp only [exec_teamRestore, execTeamRestore, always_next, ht, hp, hs, hr, hc, hany, ne_eq, not_true_eq_false, Bool.false_eq_true,
      Bool.not_true, or_self, if_false, and_self, if_true]
  | handler ctx core c ev rest k shapes d hc ht hd hh hn hk hw hsp hb hroom =>
    subst hd
    have hgo : ¬ (c.halt.isSome = true ∨ Config.handlerLimit ≤ s.m.handlers ctx) := by simpa [hh] using hn
    have hsuits : ¬ (k.teamw ≠ 1 ∨ k.span = true ∨ s.m.limit c.part 16 8 < k.nbar) := by simpa [hw, hsp] using hb
    simp only [exec_handlerLaunch, execHandlerLaunch, always_next, hc, ht, hk, if_neg hgo, if_neg hsuits, hroom, Bool.not_true,
      Bool.false_eq_true, if_false]
  | noHandler ctx core c ev rest hc ht hh hn hk =>
    have hgo : ¬ (c.halt.isSome = true ∨ Config.handlerLimit ≤ s.m.handlers ctx) := by simpa [hh] using hn
    simp only [exec_handlerLaunch, execHandlerLaunch, always_next, hc, ht, hk, if_neg hgo]
  | expired t team ht hp hn hv ho hw hc =>
    simp [execTimeSliceExpiry, always_next, ht, mayExpire_alone hp hn hv ho hc, hw, hc]
  | notExpired t team ht ho => simp [execTimeSliceExpiry, always_next, ht, not_mayExpire ho]
  | aged t w j team x ht hw hp hr hd hc hi => simp [execAging, always_next, ht, hw, hp, hr, hd, hc, hi]
  | young t w j x hw hi =>
    obtain ⟨team, ht, -⟩ := team_of_warp hw
    simp [execAging, always_next, ht, hw, Nat.not_le.mpr hi]

/-- A warp at the end of its allowance is saved with its registers. -/
theorem forcedSave_exec {s : State} {t w : Nat} {team : Team} {x : Warp} (ht : s.m.teams[t]? = some team) (hw : s.m.warp? t w = some x)
    (hp : team.phase = .running) (hr : x.run = .ready) (hq : x.preq = true) (hy : x.ycnt = 0) (hf : x.faultDue = false)
    (hd : s.m.haltDue team.ctx = false) (hu : s.m.unit = none) (hc : s.m.ctxRuns team.ctx = true) :
    exec (.forcedSave t w) s = .next { s with m := (s.m.modWarp t w fun _ => s.m.atBoundary team x).saveWarp t w } := by
  simp [execForcedSave, always_next, Mach.forcedSave, ht, hw, hp, hr, hq, hy, hf, hd, hu, hc]

@[simp] theorem drainMma_exec (x : Warp) : x.drainMma.exec = x.exec := by
  refine drainMma_keep (fun x => x.exec) ?_ ?_ x <;> (intros; simp only [Warp.setReg])

@[simp] theorem Warp.rewind_s (x : Warp) (n : Nat) : (x.rewind n).s = x.s := rfl

@[simp] theorem Warp.rewind_exec (x : Warp) (n : Nat) : (x.rewind n).exec = x.exec := rfl

theorem atBoundary_s (m : Mach) (team : Team) (x : Warp) : (m.atBoundary team x).s = x.s := by
  simp only [Mach.atBoundary, Warp.noLatch, drainMma_s]
  split
  · split <;> simp
  · rfl

theorem atBoundary_exec (m : Mach) (team : Team) (x : Warp) : (m.atBoundary team x).exec = x.exec := by
  simp only [Mach.atBoundary, Warp.noLatch, drainMma_exec]
  split
  · split <;> simp
  · rfl

theorem Warp.saved_exec (x : Warp) : x.saved.exec = x.exec := by
  have : x.saved.exec = x.drainMma.exec := by simp [Warp.saved, Warp.noLatch]
  rw [this, drainMma_exec]

/-- Settles O47, event by event. -/
theorem teamEvents : Obligations.TeamEvents := by
  refine ⟨fun _ _ _ h => teamEvent_exec h, ?_⟩
  intro s t w team x ht hw hp hr hq hy hf hd hu hc hv
  have hteam : (s.m.modWarp t w fun _ => s.m.atBoundary team x).teams[t]? = some (team.modWarp w fun _ => s.m.atBoundary team x) := by
    simp [Mach.modWarp, Mach.modTeam, ht]
  have hsaved := saveWarp_warp hteam (warp_modWarp_self hw fun _ => s.m.atBoundary team x) hv
  refine ⟨_, _, forcedSave_exec ht hw hp hr hq hy hf hd hu hc, hsaved, rfl, ?_, ?_⟩
  · rw [Warp.saved_s, atBoundary_s]
  · rw [Warp.saved_exec, atBoundary_exec]

end Sys2Proof.Machine

/-! PROOFS. The events of queues (spec 18 R309 to R313, R323, R329). -/

namespace Sys2Proof.Machine

/-! ### Jobs and plans by their numbers -/

theorem foldl_same {α β : Type} (P : Mach → β) (f : Mach → α → Mach) (h : ∀ m a, P (f m a) = P m) (l : List α) (m : Mach) :
    P (l.foldl f m) = P m := by
  induction l generalizing m with
  | nil => rfl
  | cons a t ih => rw [List.foldl_cons, ih, h]

theorem parts_of_base {m m' : Mach} (h : m'.base = m.base) : m'.parts = m.parts :=
  (congrArg Mach.parts h : m'.base.parts = m.base.parts)

theorem job_of_parts {m m' : Mach} (h : m'.parts = m.parts) (p i : Nat) : m'.job? p i = m.job? p i := by
  simp only [Mach.job?, Mach.part?, h]

theorem job_of_base {m m' : Mach} (h : m'.base = m.base) (p i : Nat) : m'.job? p i = m.job? p i := job_of_parts (parts_of_base h) p i

/-- A change of a partition that keeps its number. -/
theorem part_modPart {m : Mach} {p : Nat} {f : Partition → Partition} (hid : ∀ x, (f x).id = x.id) :
    (m.modPart p f).part? p = (m.part? p).map f := by
  have hp : ((fun x : Partition => x.id == p) ∘ fun x => if x.id = p then f x else x) = fun x => x.id == p := by
    funext x
    simp only [Function.comp]
    split <;> simp [hid]
  simp only [Mach.part?, Mach.modPart, List.find?_map, hp]
  cases hx : m.parts.find? fun x => x.id == p with
  | none => rfl
  | some x => simp [show x.id = p by simpa using List.find?_some hx]

theorem job_modJob {m : Mach} {p i : Nat} {j : Job} (h : m.job? p i = some j) (f : Job → Job) : (m.modJob p i f).job? p i = some (f j) := by
  simp only [Mach.job?] at h ⊢
  rw [Mach.modJob, part_modPart (f := fun x => { x with jobs := x.jobs.modify i f }) fun _ => rfl]
  cases hx : m.part? p with
  | none => rw [hx] at h; cases h
  | some x =>
    rw [hx] at h
    have hj : x.jobs[i]? = some j := h
    simp [hj]

theorem planAt_ids {m : Mach} {ctx va : Nat} {x : Plan} (h : m.planAt ctx va = some x) : x.ctx = ctx ∧ x.va = va := by
  simpa using List.find?_some h

theorem planAt_modPlan {m : Mach} {ctx va : Nat} {x : Plan} (h : m.planAt ctx va = some x) {f : Plan → Plan}
    (hid : ∀ x, (f x).ctx = x.ctx ∧ (f x).va = x.va) : (m.modPlan ctx va f).planAt ctx va = some (f x) := by
  have hp : ((fun x : Plan => x.ctx == ctx && x.va == va) ∘ fun x => if x.ctx = ctx ∧ x.va = va then f x else x) =
      fun x => x.ctx == ctx && x.va == va := by
    funext x
    simp only [Function.comp]
    split <;> simp [hid]
  have hx : m.plans.find? (fun x => x.ctx == ctx && x.va == va) = some x := h
  simp only [Mach.planAt, Mach.modPlan, List.find?_map, hp, hx, Option.map_some, if_pos (planAt_ids h)]

/-! ### What an announcement leaves -/

theorem gatherWork_base (m : Mach) (p : Nat) (sc : Scope) : (m.gatherWork p sc).base = m.base := by
  rw [Mach.gatherWork, applyLatest_base]
  exact foldl_base _ (fun _ _ => release_base ..) _ _

theorem storeIn_base (m : Mach) (sp : Option Nat) (va n v : Nat) : (m.storeIn sp va n v).base = m.base := by
  cases sp with
  | none => exact homeWrite_base ..
  | some ctx => exact fwStore_base ..

theorem homeAtomic_base {m m' : Mach} {d c k n v : Nat} {f : Nat → Nat} (h : m.homeAtomic d c k n f = some (v, m')) : m'.base = m.base := by
  have hfirst : (if isPackage k then m.earlyDrain d (sectorsOf (lineOf k)) else m.replaceLine d (lineOf k)).base = m.base := by
    split
    · exact earlyDrain_base ..
    · exact replaceLine_base ..
  simp only [Mach.homeAtomic] at h
  generalize (if isPackage k then m.earlyDrain d (sectorsOf (lineOf k)) else m.replaceLine d (lineOf k)) = m1 at h hfirst
  cases hr : m.refuses k with
  | true =>
    rw [hr] at h
    cases h
  | false =>
    rw [hr, if_neg Bool.false_ne_true] at h
    obtain ⟨r, hl, he⟩ := Option.map_eq_some_iff.mp h
    obtain ⟨-, rfl⟩ := Prod.mk.inj he
    exact (homeStore_base ..).trans ((homeLoad_base hl).trans hfirst)

theorem agentAtomic_base (m : Mach) (d k n : Nat) (f : Nat → Nat) : (m.agentAtomic d k n f).2.base = m.base := by
  unfold Mach.agentAtomic
  cases hr : m.homeAtomic d Config.coresPerDie k n f with
  | some r => exact homeAtomic_base hr
  | none =>
    cases hu : (m.unblock k).homeAtomic d Config.coresPerDie k n f with
    | some r => exact (homeAtomic_base hu).trans (unblock_base ..)
    | none => rfl

theorem countIn_base (m : Mach) (p : Nat) (sp : Option Nat) (va inc : Nat) : (m.countIn p sp va inc).base = m.base := by
  cases sp with
  | none => exact (agentAtomic_base ..).trans (release_base ..)
  | some ctx =>
    simp only [Mach.countIn, Mach.addCounter, Mach.addCounterAt]
    split
    · exact (agentAtomic_base ..).trans (release_base ..)
    · rfl

theorem announceJob_base (m : Mach) (p : Nat) (j : Job) (st : Nat) : (m.announceJob p j st).base = m.base := by
  have h0 := gatherWork_base m p .sys
  have h1 : (if j.pkt.sva = 0 then m.gatherWork p .sys else (m.gatherWork p .sys).storeIn j.space j.pkt.sva 4 st).base = m.base := by
    split
    · exact h0
    · exact (storeIn_base ..).trans h0
  simp only [Mach.announceJob]
  split
  · exact h1
  · exact (countIn_base ..).trans h1

theorem writeImages_base (m : Mach) (ctx va : Nat) : (m.writeImages ctx va).base = m.base := by
  refine foldl_base _ (fun m p => ?_) _ _
  split
  · exact fwStore_base ..
  · rfl

/-! ### The events -/

section
variable {s : State} {p n prod : Nat} {y : Queue} {m1 m2 : Mach}

theorem readProd_read {m : Mach} (hq : m.queueAt p n = some (y, m1)) (hr : m1.queueRead p y.ctx (y.desc + 8) 8 = some (prod, m2)) :
    m.readProd p n y.dev = m2.modQueue p n fun z => { z with prodp := prod } := by
  simp [Mach.readProd, hq, hr]

/-- The first posted packet of a queue is taken. -/
theorem takeNext_takes {m m0 : Mach} {x : Partition} {v : Nat} {ph : JobPhase} (hx : m.part? p = some x) (hq : m.queueAt p n = some (y, m0))
    (hc : y.consp < y.prodp) (hh : y.held = false) (hb : ∀ j, j ∈ x.jobs → j.queue = n → j.phase ≠ .taken)
    (hl : (m0.takeAcquire p).loadIn y.ctx (y.ring + 64 * (y.consp % 2 ^ (y.lgsize + 4))) 64 = some (v, m1))
    (hk : (Packet.parse v).kind = 0) (hp : m1.takePhase p y (Packet.parse v) false = some ph) :
    m.takeNext p n (fun k => decide (k.kind = 0)) =
      (((m1.modPart p fun x => { x with jobs := x.jobs ++ [Job.of n y.consp (Packet.parse v) ((Packet.parse v).due (m1.time p))
        (y.admin && !(Packet.parse v).kl) false ph none] }).modQueue p n fun z => { z with consp := (y.consp + 1) % 2 ^ 64 }).storeIn
        y.ctx (y.desc + 16) 8 ((y.consp + 1) % 2 ^ 64)) := by
  have hbusy : (x.jobs.any fun j => decide (j.queue = n) && decide (j.phase = .taken)) = false := by
    simp only [List.any_eq_false, Bool.and_eq_true, decide_eq_true_eq, not_and]
    exact hb
  simp [Mach.takeNext, hq, hx, hbusy, hl, hk, hp, Nat.not_le.mpr hc, hh]

end

theorem arbitrate_chosen {m : Mach} {p i : Nat} {x : Partition} {j : Job} (n : Nat) (hx : m.part? p = some x) (hc : m.chosen p x = some i)
    (hj : x.jobs[i]? = some j) : Mach.arbitrate (n + 1) m p =
      if j.deadline ≠ 0 ∧ j.deadline < m.time p then
        if j.pkt.miss = 1 then m.modJob p i fun j => { j with phase := .done 1 }
        else if j.pkt.miss = 2 then Mach.arbitrate n ((m.countMiss p j.queue).modJob p i fun j => { j with deadline := 0 }) p
        else (m.countMiss p j.queue).goJob p i
      else m.goJob p i := by
  simp only [Mach.arbitrate, hx, hc, hj, Option.bind_some, Option.map_some]
  split
  · split
    · next h => rw [if_pos h]
    · next h => rw [if_neg (by omega), if_pos h]
    · next h1 h2 => rw [if_neg h1, if_neg h2]
  · rfl

theorem queueEvent_exec {s : State} {i : Instr} {m' : Mach} (h : QueueEvent s.m i m') : exec i s = .next { s with m := m' } := by
  cases h with
  | doorbell p q y m1 prod m2 hq hd hr => rw [exec_doorbell, execDoorbell, always_next, ← hd, readProd_read hq hr]
  | deviceRead p q y m1 prod m2 hq hd hr => rw [exec_deviceQueueRead, execDeviceQueueRead, always_next, ← hd, readProd_read hq hr]
  | taken p q x y m0 v m1 k ph hx hq hc hh hb hl he hk hp =>
    subst he
    rw [exec_kernelLaunch, execKernelLaunch, always_next, takeNext_takes hx hq hc hh hb hl hk hp]
  | empty p q y m0 hq hc => simp [execKernelLaunch, always_next, Mach.takeNext, hq, hc]
  | dispatched p m1 x i j h1 hx hc hj hd =>
    have hin : ¬ (j.deadline ≠ 0 ∧ j.deadline < m1.time p) := by omega
    rw [exec_dispatch, execDispatch, always_next, ← h1, arbitrate_chosen _ hx hc hj, if_neg hin]
  | late p m1 x i j h1 hx hc hj hd ht hm =>
    rw [exec_dispatch, execDispatch, always_next, ← h1, arbitrate_chosen _ hx hc hj, if_pos ⟨hd, ht⟩, hm]
    rfl
  | dropped p m1 x i j h1 hx hc hj hd ht hm =>
    rw [exec_dispatch, execDispatch, always_next, ← h1, arbitrate_chosen _ hx hc hj, if_pos ⟨hd, ht⟩, if_pos hm]
  | graph p i j y runs hj hk hp hy hr => simp [execGraphLaunch, always_next, hj, hk, hp, hy, hr]
  | noGraph p i j hj hk hp hy => simp [execGraphLaunch, always_next, hj, hk, hp, hy]

/-! ### Packets that complete, plans that start -/

theorem packetComplete_exec {s : State} {p i st : Nat} {j : Job} (hj : s.m.job? p i = some j) (hs : s.m.jobStatus p i j = some st)
    (hh : s.m.workHeld p = false) (hl : s.m.workLost p = false) :
    ∃ m, exec (.packetComplete p i) s = .next { s with m := m } ∧ (m.job? p i).map (·.phase) = some (.complete st) := by
  refine ⟨_, (exec_packetComplete ..).trans (always_next ..), ?_⟩
  have hdone (m0 : Mach) (h0 : m0.base = s.m.base) :
      ((m0.announceJob p j st).modJob p i fun j => { j with phase := .complete st }).job? p i = some { j with phase := .complete st } :=
    job_modJob ((job_of_base ((announceJob_base ..).trans h0) p i).trans hj) _
  simp only [hj, hs, hh, hl, Bool.false_eq_true, if_false]
  cases hv : j.planVA with
  | none => exact congrArg (Option.map (·.phase)) (hdone s.m rfl)
  | some va =>
    refine congrArg (Option.map (·.phase)) (hdone (if st = 0 then s.m.writeImages j.pkt.ctx va else s.m) ?_)
    split
    · exact writeImages_base ..
    · rfl

theorem placeStage_parts (m : Mach) (p i : Nat) (j : Job) (va idx : Nat) (st : Stage) (k : KDesc) (shapes : List Shape) :
    (m.placeStage p i j va idx st k shapes).parts = m.parts := by
  refine foldl_same Mach.parts _ ?_ _ _
  intros
  rfl

theorem placeStage_plans (m : Mach) (p i : Nat) (j : Job) (va idx : Nat) (st : Stage) (k : KDesc) (shapes : List Shape) :
    (m.placeStage p i j va idx st k shapes).plans = m.plans := by
  refine foldl_same Mach.plans _ ?_ _ _
  intros
  rfl

/-- A plan that is run belongs to the job that runs it. -/
theorem runPlan_job {m : Mach} {ctx va : Nat} {x : Plan} (h : m.planAt ctx va = some x) (p i : Nat) (gs : List (List (Nat × Nat))) :
    ((m.runPlan p i ctx va gs).planAt ctx va).map (·.job) = some (some i) := by
  rw [Mach.runPlan, planAt_modPlan h]
  · rfl
  · exact fun _ => ⟨rfl, rfl⟩

theorem planStart_exec {s : State} {p i : Nat} {j : Job} {x : Plan} {ks : List (KDesc × List Shape)} {cores : List (List (Nat × Nat))}
    (hj : s.m.job? p i = some j) (hk : j.pkt.kind = 1) (hp : j.phase = .dispatched) (hx : s.m.planAt j.pkt.ctx j.pkt.obj = some x)
    (hn : x.job = none) (hks : s.m.stageKernels x = some ks) (hb : ∀ k, k ∈ ks → k.1.nbar ≤ s.m.limit p 16 8)
    (hg : s.m.groupsOk p x (ks.map (·.1)) cores = true) (hy : s.m.planYields p j cores.flatten = false) :
    ∃ m, exec (.planStart p i cores) s = .next { s with m := m } ∧ (m.job? p i).map (·.phase) = some .running ∧
      (m.planAt j.pkt.ctx j.pkt.obj).map (·.job) = some (some i) := by
  obtain ⟨hctx, hva⟩ := planAt_ids hx
  have hbar : (ks.any fun k => decide (s.m.limit p 16 8 < k.1.nbar)) = false := by
    simpa only [List.any_eq_false, decide_eq_true_eq, Nat.not_lt] using hb
  refine ⟨_, (exec_planStart ..).trans (always_next ..), ?_⟩
  simp only [hj, hk, hp, hx, hn, hks, hbar, hg, hy, ne_eq, not_true_eq_false, or_self, if_false, Option.isSome_none, Bool.false_eq_true,
    Bool.not_true]
  generalize hm1 : (s.m.planTeams x.ctx x.va).foldl (fun m q => m.modTeam q.1 fun t => { t with phase := .exited }) s.m = m1
  generalize hm2 : m1.runPlan p i x.ctx x.va cores = m2
  generalize hm3 : (((List.range (((m2.planAt x.ctx x.va).map Plan.stages).getD []).length).zip
    (((m2.planAt x.ctx x.va).map Plan.stages).getD [])).zip ks).foldl (fun m q => m.placeStage p i j x.va q.1.1 q.1.2 q.2.1 q.2.2) m2 = m3
  have hparts : m3.parts = s.m.parts := by
    calc m3.parts = m2.parts := by
          rw [← hm3]
          exact foldl_same Mach.parts _ (fun _ _ => placeStage_parts ..) _ _
      _ = m1.parts := by rw [← hm2]; rfl
      _ = s.m.parts := by
          rw [← hm1]
          refine foldl_same Mach.parts _ ?_ _ _
          intros
          rfl
  have hplans3 : m3.plans = m2.plans := by
    rw [← hm3]
    exact foldl_same Mach.plans _ (fun _ _ => placeStage_plans ..) _ _
  have hplans1 : m1.plans = s.m.plans := by
    rw [← hm1]
    refine foldl_same Mach.plans _ ?_ _ _
    intros
    rfl
  have hrun : (m2.planAt x.ctx x.va).map (·.job) = some (some i) := by
    have hx1 : m1.planAt x.ctx x.va = some x := by rw [hctx, hva, ← hx, Mach.planAt, Mach.planAt, hplans1]
    rw [← hm2, runPlan_job hx1]
  have hjob : (m3.modJob p i fun j => { j with phase := .running }).job? p i = some { j with phase := .running } :=
    job_modJob ((job_of_parts hparts p i).trans hj) _
  refine ⟨congrArg (Option.map (·.phase)) hjob, ?_⟩
  have hplan : ((m3.modJob p i fun j => { j with phase := .running }).refreshMarks).planAt x.ctx x.va = m2.planAt x.ctx x.va := by
    simp only [Mach.planAt]
    exact congrArg (List.find? _) hplans3
  rw [← hctx, ← hva, hplan]
  exact hrun

/-- Settles O48, event by event. -/
theorem queueEvents : Obligations.QueueEvents :=
  ⟨fun _ _ _ h => queueEvent_exec h, fun _ _ _ _ _ hj hs hh hl => packetComplete_exec hj hs hh hl,
    fun _ _ _ _ _ _ _ hj hk hp hx hn hks hb hg hy => planStart_exec hj hk hp hx hn hks hb hg hy⟩

end Sys2Proof.Machine

/-! PROOFS. The commands: their blocks, their effects, and the commands of several steps (spec 18 R327, R332 to R340; 13 R251;
23 R382, R385, R393, R396). -/

namespace Sys2Proof.Machine

/-! ### A command that a job holds -/

/-- A command whose job is dispatched or running is its function of the job. -/
theorem commandOp_job {s : State} {p k code : Nat} {j : Job} (hj : s.m.job? p k = some j) (hc : j.isCommand code = true)
    (f : Mach → Job → Mach) : commandOp code p k s f = .next { s with m := f s.m j } := by
  simp only [commandOp, always_next, hj, hc, if_true]

section
variable {s : State} {p k : Nat} {j : Job}

/-! ### Blocks that cannot be read -/

/-- A PREEMPT of any kind whose block cannot be read ends in MALFORMED. -/
theorem preemptOp_unread (hj : s.m.job? p k = some j) (hc : j.isCommand 13 = true) (hb : s.m.block j 64 64 = none)
    (f : Mach → Job → PreemptAsk → Mach) : preemptOp p k s f = .next { s with m := s.m.finishJob p k 3 } := by
  rw [preemptOp, commandOp_job hj hc, hb]
  rfl

/-- A command whose block cannot be read ends in MALFORMED. -/
theorem exec_blockUnread {i : Instr} {code n al : Nat} (hj : s.m.job? p k = some j) (hc : j.isCommand code = true)
    (hi : BlockOf p k i code n al) (hb : s.m.block j n al = none) : exec i s = .next { s with m := s.m.finishJob p k 3 } := by
  have hr : (n, al) = (16, 64) → s.m.namedRecord j = none := fun h => by
    obtain ⟨rfl, rfl⟩ := Prod.mk.inj h
    rw [Mach.namedRecord, hb, Option.bind_none]
  cases hi with
  | queueCreate => rw [exec_queueCreate, execQueueCreate, commandOp_job hj hc, hb]
  | contextCreate id sysva pa => rw [exec_contextCreate, execContextCreate, commandOp_job hj hc, hb]
  | rangeMap => rw [exec_rangeMap, execRangeMap, commandOp_job hj hc, hb, Option.bind_none]
  | rangeUnmap => rw [exec_rangeUnmap, execRangeUnmap, commandOp_job hj hc, hb]
  | quotaSet => rw [exec_quotaSet, execQuotaSet, commandOp_job hj hc, hb]
  | planLoad nums => rw [exec_planLoad, execPlanLoad, commandOp_job hj hc, hr rfl]
  | graphLoad => rw [exec_graphLoad, execGraphLoad, commandOp_job hj hc, hr rfl]
  | signal => rw [exec_signal, execSignal, commandOp_job hj hc, Mach.counterBlock, hb, Option.bind_none]
  | preempt => rw [exec_preempt, execPreempt, preemptOp_unread hj hc hb]
  | preemptResume => rw [exec_preemptResume, execPreemptResume, preemptOp_unread hj hc hb]
  | preemptMove => rw [exec_preemptMove, execPreemptMove, preemptOp_unread hj hc hb]
  | dieReset => rw [exec_dieReset, execDieReset, commandOp_job hj hc, hb]
  | attest => rw [exec_attest, execAttest, commandOp_job hj hc, hb]
  | domainSet => rw [exec_domainSet, execDomainSet, commandOp_job hj hc, hb, Option.bind_none]

/-! ### PREEMPT -/

/-- A PREEMPT whose block reads and whose result has room is the function of its kind. -/
theorem preemptOp_reads {v : Nat} {r : Mach} {a : PreemptAsk} (hj : s.m.job? p k = some j) (hc : j.isCommand 13 = true)
    (hb : s.m.block j 64 64 = some (v, r)) (ha : PreemptAsk.parse v = some a) (ho : s.m.resultOk j 8 = true)
    (f : Mach → Job → PreemptAsk → Mach) : preemptOp p k s f = .next { s with m := f s.m j a } := by
  rw [preemptOp, commandOp_job hj hc]
  simp only [hb, Option.bind_some, ha, ho, Bool.not_true, Bool.false_eq_true, if_false]

/-- A running PREEMPT goes on once every team that it named is saved. -/
theorem preemptSave_saved {m : Mach} (hr : j.phase = .running) (hs : ∀ x ∈ m.stillNamed j, x.2.phase = .saved) (a : PreemptAsk)
    (f : Mach → Nat → Nat → Mach) :
    m.preemptSave p k j a f = f m ((m.stillNamed j).length - j.result % 2 ^ 32) (j.result / 2 ^ 32) := by
  have hall : (m.stillNamed j).all (fun x => decide (x.2.phase = .saved)) = true := by simpa using hs
  have hfil : (m.stillNamed j).filter (fun x => decide (x.2.phase = .saved)) = m.stillNamed j :=
    List.filter_eq_self.mpr fun x hx => decide_eq_true (hs x hx)
  have hd : ¬ j.phase = .dispatched := by simp [hr]
  simp only [Mach.preemptSave, if_neg hd, hall, if_true, hfil]

/-- A PREEMPT with RESUME ends once no team that it named is saved. -/
theorem exec_preemptResume_done {v : Nat} {r : Mach} {a : PreemptAsk} (hj : s.m.job? p k = some j) (hc : j.isCommand 13 = true)
    (hr : j.phase = .running) (hb : s.m.block j 64 64 = some (v, r)) (ha : PreemptAsk.parse v = some a) (ho : s.m.resultOk j 8 = true)
    (hres : a.resume = true) (hs : ∀ x ∈ s.m.stillNamed j, x.2.phase ≠ .saved) :
    exec (.preemptResume p k) s = .next { s with m := s.m.finishWith p k j 8 j.result } := by
  have hnil : (s.m.stillNamed j).filter (fun x => decide (x.2.phase = .saved)) = [] :=
    List.filter_eq_nil_iff.mpr fun x hx => by simpa using hs x hx
  rw [exec_preemptResume, execPreemptResume, preemptOp_reads hj hc hb ha ho]
  simp only [hres, hr, hnil, Bool.not_true, Bool.false_eq_true, if_false, reduceCtorEq, List.isEmpty_nil, if_true]

/-- A PREEMPT without RESUME and MOVE ends once the teams that it named are saved. -/
theorem exec_preempt_done {v : Nat} {r : Mach} {a : PreemptAsk} (hj : s.m.job? p k = some j) (hc : j.isCommand 13 = true)
    (hr : j.phase = .running) (hb : s.m.block j 64 64 = some (v, r)) (ha : PreemptAsk.parse v = some a) (ho : s.m.resultOk j 8 = true)
    (hres : a.resume = false) (hmv : a.move = false) (hs : ∀ x ∈ s.m.stillNamed j, x.2.phase = .saved) :
    exec (.preempt p k) s = .next { s with
      m := s.m.finishWith p k j 8 (((s.m.stillNamed j).length - j.result % 2 ^ 32) % 2 ^ 32 + j.result / 2 ^ 32 % 2 ^ 32 * 2 ^ 32) } := by
  rw [exec_preempt, execPreempt, preemptOp_reads hj hc hb ha ho]
  have hgo : ¬ (a.resume = true ∨ a.move = true) := by simp [hres, hmv]
  have hd : ¬ j.phase = .dispatched := by simp [hr]
  simp only [if_neg hgo, if_neg hd, preemptSave_saved hr hs]

/-- A PREEMPT with MOVE moves its context once the teams that it named are saved and all its conditions hold. -/
theorem exec_preemptMove_done {v : Nat} {r : Mach} {a : PreemptAsk} (hj : s.m.job? p k = some j) (hc : j.isCommand 13 = true)
    (hr : j.phase = .running) (hb : s.m.block j 64 64 = some (v, r)) (ha : PreemptAsk.parse v = some a) (ho : s.m.resultOk j 8 = true)
    (hmv : a.move = true) (ht : a.target < s.m.dies.length) (hbar : s.m.preemptBar p j.pkt.ctx a = none)
    (hmay : s.m.mayMove p j.pkt.ctx k a.target = true) (hfit : s.m.sharesFit p j.pkt.ctx a.target = true)
    (hs : ∀ x ∈ s.m.stillNamed j, x.2.phase = .saved)
    (hall : ∀ t ∈ s.m.teams, t.ctx = j.pkt.ctx → t.phase = .exited ∨ t.phase = .saved) :
    exec (.preemptMove p k) s = .next { s with
      m := (s.m.moveContext p j.pkt.ctx k a.target).finishWith p k j 8
        (((s.m.stillNamed j).length - j.result % 2 ^ 32) % 2 ^ 32 + j.result / 2 ^ 32 % 2 ^ 32 * 2 ^ 32) } := by
  have hopen : s.m.teams.any (fun t => t.ctx == j.pkt.ctx && decide (t.phase ≠ .exited) && decide (t.phase ≠ .saved)) = false := by
    refine List.any_eq_false.mpr fun t hm => ?_
    simp only [Bool.and_eq_true, beq_iff_eq, decide_eq_true_eq]
    rintro ⟨⟨hctx, hne⟩, hns⟩
    exact hns ((hall t hm hctx).resolve_left hne)
  have hd : ¬ j.phase = .dispatched := by simp [hr]
  rw [exec_preemptMove, execPreemptMove, preemptOp_reads hj hc hb ha ho]
  simp only [hmv, hd, hbar, hmay, hfit, Nat.not_le.mpr ht, preemptSave_saved hr hs, hopen, false_and, Bool.not_true, Bool.false_eq_true,
    if_false, Option.isSome_none, or_self]

end

end Sys2Proof.Machine

/-! PROOFS. The commands that end with a status (spec 18 R332 to R340, 13 R251, 23 R396). -/

namespace Sys2Proof.Machine

section
variable {s : State} {p k : Nat} {j : Job}

/-! ### Commands that succeed -/

/-- A command that leaves an effect ends with its status. -/
theorem exec_commandEffect {i : Instr} {code st : Nat} {m' : Mach} (hj : s.m.job? p k = some j) (hc : j.isCommand code = true)
    (he : CommandEffect s.m p k j i code st m') : exec i s = .next { s with m := m'.finishJob p k st } := by
  cases he with
  | queueCreate v w m1 m2 idx desc q hb hidx hdesc h0 hr1 hr2 hal hw hnew hring hlg hr3 hr4 hp hq =>
    subst hidx hdesc hq
    rw [exec_queueCreate, execQueueCreate, commandOp_job hj hc]
    have hgo : ¬ (field v 0 10 = 0 ∨ field v 10 54 ≠ 0 ∨ field v 112 16 ≠ 0 ∨ field v 64 48 % 32 ≠ 0) := by simp [h0, hr1, hr2, hal]
    have hgo2 : ¬ (field w 0 48 % 64 ≠ 0 ∨ 12 < field w 48 4 ∨ field w 55 9 ≠ 0 ∨ field w 224 32 ≠ 0 ∨
        !m2.ringPlaced j.pkt.ctx (field w 0 48) (w.testBit 52)) := by simp [hring, hlg, hr3, hr4, hp]
    simp only [hb, if_neg hgo, hw, List.contains_iff_mem, if_neg hnew, if_neg hgo2]
  | indexInUse v w m1 m2 hb h0 hr1 hr2 hal hw hold =>
    rw [exec_queueCreate, execQueueCreate, commandOp_job hj hc]
    have hgo : ¬ (field v 0 10 = 0 ∨ field v 10 54 ≠ 0 ∨ field v 112 16 ≠ 0 ∨ field v 64 48 % 32 ≠ 0) := by simp [h0, hr1, hr2, hal]
    simp only [hb, if_neg hgo, hw, List.contains_iff_mem, if_pos hold]
  | contextCreate id sysva pa v a m1 base c hb ha hbase ho hh hfit hroom hlim hid hfree hal hpa hback hcd =>
    rw [exec_contextCreate, execContextCreate, commandOp_job hj hc]
    have hgo1 : ¬ ((!m1.resultOk j 32) = true ∨ (!m1.handlerSuits j a p) = true ∨
        (a.sysva ≠ 0 ∧ 2 ^ 32 < a.sysva / 65536 + Config.nimomGranules)) := by
      rintro (h | h | ⟨hne, hlt⟩)
      · simp [ho] at h
      · simp [hh] at h
      · rw [hbase, if_neg hne] at hfit
        exact absurd hlt (Nat.not_lt.mpr hfit)
    have hgo2 : ¬ (Config.contextLimit ≤ (s.m.contexts.filter fun c => c.part = p).length ∨ 512 ≤ s.m.contexts.length) := by
      simpa using And.intro hroom hlim
    have hgo3 : ¬ (512 ≤ id ∨ (s.m.ctx? id).isSome = true ∨ base % 65536 ≠ 0 ∨ 2 ^ 32 < base / 65536 + Config.nimomGranules ∨
        pa % 65536 ≠ 0 ∨ (!s.m.backingFree (pa / 65536) Config.nimomGranules) = true) := by
      simpa [hid, hfree, hal, hpa, hback] using hfit
    simp only [hb, ha, if_neg hgo1, if_neg hgo2, ← hbase, if_neg hgo3, hcd]
    rfl
  | rangeMap v r m1 c m2 hb hr hctx hin hdis hlim hpart hch =>
    rw [exec_rangeMap, execRangeMap, commandOp_job hj hc]
    have hgo : ¬ ((!s.m.inSpace r) = true ∨ (!s.m.mapTranslates c.id r) = true ∨ c.ranges.any (fun x => x.meets r.baseg r.size) = true) := by
      simpa [hin, Mach.mapTranslates, hpart] using hdis
    simp only [hb, Option.bind_some, hr, Option.map_some, hctx, if_neg hgo, if_neg (Nat.not_le.mpr hlim), hpart, Bool.false_eq_true, if_false,
      hch]
  | rangeMapPartial v r m1 c hb hr hctx hin hmap hdis hlim hpart =>
    rw [exec_rangeMap, execRangeMap, commandOp_job hj hc]
    have hgo : ¬ ((!s.m.inSpace r) = true ∨ (!s.m.mapTranslates c.id r) = true ∨ c.ranges.any (fun x => x.meets r.baseg r.size) = true) := by
      simpa [hin, hmap] using hdis
    simp only [hb, Option.bind_some, hr, Option.map_some, hctx, if_neg hgo, if_neg (Nat.not_le.mpr hlim), hpart, if_true]
  | overQuota v r m1 c hb hr hctx hin hdis hlim hpart hch =>
    rw [exec_rangeMap, execRangeMap, commandOp_job hj hc]
    have hgo : ¬ ((!s.m.inSpace r) = true ∨ (!s.m.mapTranslates c.id r) = true ∨ c.ranges.any (fun x => x.meets r.baseg r.size) = true) := by
      simpa [hin, Mach.mapTranslates, hpart] using hdis
    simp only [hb, Option.bind_some, hr, Option.map_some, hctx, if_neg hgo, if_neg (Nat.not_le.mpr hlim), hpart, Bool.false_eq_true, if_false,
      hch]
  | rangeUnmap v m1 c g n hit cores m2 m3 hb hctx hr1 hr2 hr3 hg hn hn0 hhit hsome hcores hlim huser hlate hops h2 h3 =>
    rw [exec_rangeUnmap, execRangeUnmap, commandOp_job hj hc]
    subst hg hn hhit hcores h2 h3
    have hgo : ¬ (field v 0 16 ≠ 0 ∨ field v 48 16 ≠ 0 ∨ field v 96 32 ≠ 0 ∨ field v 64 32 = 0) := by simp [hr1, hr2, hr3, hn0]
    simp only [hb, hctx, if_neg hgo, List.isEmpty_iff, if_neg hsome, if_neg (Nat.not_lt.mpr hlim), huser, hlate, hops, Option.isSome_none,
      Bool.false_eq_true, List.isEmpty_nil, Bool.not_true, or_self, if_false]
  | quotaSet v m1 c key hb hctx hr hk =>
    rw [exec_quotaSet, execQuotaSet, commandOp_job hj hc]
    simp only [hb, hctx, hr, ne_eq, not_true_eq_false, if_false, hk]
  | planLoad nums va m1 x ks ps np hn hp hg hread ho hfit hlim hlen hnd hnew =>
    rw [exec_planLoad, execPlanLoad, commandOp_job hj hc]
    have hgo1 : ¬ ((!m1.planFits p (x.stages.zip ks)) = true ∨ Config.pipeLimit < s.m.pipes.length + np) := by
      simpa [hfit] using hlim
    have hgo2 : ¬ (nums.length ≠ np ∨ (!decide nums.Nodup) = true ∨
        nums.any (fun n => decide (Config.pipeLimit ≤ n) || (s.m.pipe? n).isSome) = true) := by
      simpa [hlen, hnd] using hnew
    simp only [hn, hp, hg, hread, ho, Option.isSome_none, Bool.false_eq_true, or_self, if_false, Bool.not_true, if_neg hgo1, if_neg hgo2]
    rfl
  | graphLoad va m1 v m2 n vs ns hn hp hg hv hnv h0 hlim hr1 hr2 hvs hns =>
    rw [exec_graphLoad, execGraphLoad, commandOp_job hj hc]
    subst hnv
    have hgo : ¬ (field v 0 13 = 0 ∨ 4096 < field v 0 13 ∨ field v 13 51 ≠ 0 ∨ field v 112 400 ≠ 0) := by
      simpa [h0, hr1, hr2] using hlim
    simp only [hn, hp, hg, hv, Option.isSome_none, Bool.false_eq_true, or_self, if_false, if_neg hgo, hvs, Option.bind_some, hns]
  | signal cnt key v m1 hb hheld hlost =>
    rw [exec_signal, execSignal, commandOp_job hj hc]
    simp only [hb, hheld, hlost, Bool.false_eq_true, if_false, List.isEmpty_nil, Bool.not_true]
  | attest v m1 hb ho =>
    rw [exec_attest, execAttest, commandOp_job hj hc]
    simp only [hb, ho, if_true, Mach.finishWith]
  | stopped x hr hx hs hsv =>
    rw [exec_planStop, execPlanStop, commandOp_job hj hc]
    simp only [hr, reduceCtorEq, if_false, hx, hs, hsv, Bool.not_true, Bool.false_eq_true, if_true]
  | notRunning va m1 x hr hn hx hjob =>
    rw [exec_planStop, execPlanStop, commandOp_job hj hc]
    simp only [hr, if_true, hn, hx, hjob, Option.isNone_none]
  | resumed v r a hr hb ha ho hres hs => exact exec_preemptResume_done hj hc hr hb ha ho hres hs
  | preempted v r a n hr hb ha ho hres hmv hs hn =>
    subst hn
    exact exec_preempt_done hj hc hr hb ha ho hres hmv hs
  | moved v r a n hr hb ha ho hmv ht hbar hmay hfit hs hall hn =>
    subst hn
    exact exec_preemptMove_done hj hc hr hb ha ho hmv ht hbar hmay hfit hs hall

end

/-- Settles O49, command by command: a job that holds the command runs its function, whose tests the effect's conditions decide. -/
theorem commands : Obligations.Commands := by
  unfold Obligations.Commands
  exact fun _ _ _ _ _ _ hj hc => ⟨fun _ _ he => exec_commandEffect hj hc he, fun _ _ hi hb => exec_blockUnread hj hc hi hb⟩

end Sys2Proof.Machine

/-! PROOFS. The commands of several steps, and CONTEXT_DESTROY (spec 18 R327, R333, R338, R339; 23 R382, R385, R393). -/

namespace Sys2Proof.Machine

section
variable {s : State} {p k : Nat} {j : Job}

/-! ### Commands that go on -/

/-- What a running WAIT reads of its counter: the value, and the machine that has acquired it. -/
theorem exec_waitRelease_read {key v : Nat} {m0 : Mach} (hj : s.m.job? p k = some j) (hc : j.isCommand 12 = true) (hr : j.phase = .running)
    (hk : s.m.fwKey j.pkt.ctx j.block .load = some (some key))
    (hread : (s.m.unblock key).ldaRead (s.m.lead j.pkt.ctx) key 8 (counterScope key) = some (v, m0)) :
    exec (.waitRelease p k) s = .next { s with
      m := if (!counterMet v j.result) = true ∨
          (m0.acquireDrops (s.m.lead j.pkt.ctx) 0 (counterScope key)).flushHeld (s.m.lead j.pkt.ctx) .sys = true then s.m
        else if (!((m0.acquireDrops (s.m.lead j.pkt.ctx) 0 (counterScope key)).lostAt (s.m.lead j.pkt.ctx) .sys).isEmpty) = true then
          s.m.announce j.pkt.ctx .sys
        else (((m0.acquireDrops (s.m.lead j.pkt.ctx) 0 (counterScope key)).finishWith p k j 8 v).announce j.pkt.ctx .sys).unhold p j.queue } := by
  rw [exec_waitRelease, execWaitRelease, commandOp_job hj hc]
  simp only [hr, ne_eq, not_true_eq_false, if_false, hk, Option.bind_some, hread, Option.map_some]

/-- A command of several steps has the effect of its step. -/
theorem exec_commandEvent {i : Instr} {code : Nat} {m' : Mach} (hj : s.m.job? p k = some j) (hc : j.isCommand code = true)
    (he : CommandEvent s.fuse s.m p k j i code m') : exec i s = .next { s with m := m' } := by
  cases he with
  | wait cnt key v m1 hd hb ho =>
    rw [exec_wait, execWait, commandOp_job hj hc]
    simp only [hd, ne_eq, not_true_eq_false, if_false, hb, ho, Bool.not_true, Bool.false_eq_true]
  | released key v m0 m1 hr hk hread hm1 hmet hheld hlost =>
    subst hm1
    rw [exec_waitRelease_read hj hc hr hk hread]
    simp only [hmet, hheld, hlost, Bool.not_true, Bool.false_eq_true, or_self, if_false, List.isEmpty_nil, Mach.finishWith]
  | notYet key v m0 hr hk hread hmet =>
    rw [exec_waitRelease_read hj hc hr hk hread]
    simp only [hmet, Bool.not_false, true_or, if_true]
  | stopBegins va m1 x hd hn hx hjob hs =>
    rw [exec_planStop, execPlanStop, commandOp_job hj hc]
    have hjob' : x.job.isNone = false := by simpa using hjob
    simp only [hd, if_true, hn, hx, hjob', hs, Bool.false_eq_true, if_false]
  | restarts cores va m1 x ks m2 hd hn hx hjob hs hfit hks hgr hm2 =>
    subst hm2
    rw [exec_planRestart, execPlanRestart, commandOp_job hj hc]
    have hgo : ((s.m.planTeams x.ctx va).any fun q => !s.m.configOk p q.2) = false := List.any_eq_false.mpr fun q hq => by simp [hfit q hq]
    simp only [hd, ne_eq, not_true_eq_false, if_false, hn, hx, hjob, Option.isSome_none, hs, Bool.not_true, Bool.false_eq_true, or_self, hgo,
      hks, hgr]
  | reconfigures v m1 ks hd hb hok ho hks hne hpipes hfree =>
    subst hks
    rw [exec_linkReconf, execLinkReconf, commandOp_job hj hc]
    have hbusy : (((List.finRange 32).filter fun n => s.m.groupChanges v n.val).any fun n => !s.m.isEthernet n.val &&
        decide ((s.m.ports.at n).state ≠ 0) && (s.m.pipes.any fun q => q.remote && q.peer == (s.m.ports.at n).peer)) = false := by
      refine List.any_eq_false.mpr fun n hn => ?_
      simp only [Bool.and_eq_true, Bool.not_eq_true', List.any_eq_true, beq_iff_eq]
      rintro ⟨⟨heth, -⟩, q, hq, hrem, hpeer⟩
      exact hpipes n hn heth q hq hrem hpeer
    have hjobs : (((List.finRange 32).filter fun n => s.m.groupChanges v n.val).any fun n => (s.m.ports.at n).job.isSome) = false :=
      List.any_eq_false.mpr fun n hn => by simp [hfree n hn]
    simp only [hd, ne_eq, not_true_eq_false, if_false, hb, hok, ho, Bool.not_true, Bool.false_eq_true, or_self, hbusy, hjobs,
      List.isEmpty_iff, if_neg hne]
  | dieReset v m1 d m2 hb hr hd hlim hbar hheld hm2 =>
    subst hd hm2
    rw [exec_dieReset, execDieReset, commandOp_job hj hc]
    simp only [hb, hr, ne_eq, not_true_eq_false, Nat.not_le.mpr hlim, or_self, if_false, hbar, Bool.false_eq_true, hheld]
  | dieInUse v m1 hb hr hlim hbar =>
    rw [exec_dieReset, execDieReset, commandOp_job hj hc]
    simp only [hb, hr, ne_eq, not_true_eq_false, Nat.not_le.mpr hlim, or_self, if_false, hbar, if_true]
  | domainSet v m1 a m2 hb ha hbusy hheld hlost hm2 hsw =>
    subst hm2
    rw [exec_domainSet, execDomainSet, commandOp_job hj hc]
    have hend : ((m1.announceJob p j 0).modJob p k fun j => { j with phase := .complete 0 }).endSwitch =
        (m1.announceJob p j 0).modJob p k fun j => { j with phase := .complete 0 } := by rw [Mach.endSwitch, hsw]
    simp only [hb, Option.bind_some, ha, Option.map_some, hbusy, hheld, hlost, Bool.false_eq_true, if_false, hend]
  | domainBusy v m1 a hb ha hbusy =>
    rw [exec_domainSet, execDomainSet, commandOp_job hj hc]
    simp only [hb, Option.bind_some, ha, Option.map_some, hbusy, if_true]

end

/-! ### What a freed context leaves -/

section
variable (m : Mach) (ctx : Nat)

theorem ctx_freeContext : (m.freeContext ctx).ctx? ctx = none := by
  rw [Mach.ctx?, Mach.freeContext, List.find?_eq_none]
  intro c hc
  simpa using (List.mem_filter.mp hc).2

theorem plans_freeContext : ∀ x ∈ (m.freeContext ctx).plans, x.ctx ≠ ctx := fun _ hx => by simpa using (List.mem_filter.mp hx).2

theorem pipes_freeContext : ∀ x ∈ (m.freeContext ctx).pipes, x.ctx ≠ ctx := fun _ hx => by simpa using (List.mem_filter.mp hx).2

theorem graphs_freeContext : ∀ x ∈ (m.freeContext ctx).graphs, x.ctx ≠ ctx := fun _ hx => by simpa using (List.mem_filter.mp hx).2

theorem queues_freeContext : ∀ x ∈ (m.freeContext ctx).parts, ∀ q ∈ x.queues, q.ctx ≠ some ctx := by
  intro x hx q hq
  obtain ⟨y, -, rfl⟩ := List.mem_map.mp hx
  simpa using (List.mem_filter.mp hq).2

end

/-- CONTEXT_DESTROY ends with its context freed. -/
theorem exec_contextDestroy_frees {s : State} {p k : Nat} {j : Job} (hj : s.m.job? p k = some j) (hc : j.isCommand 3 = true)
    (h0 : j.pkt.obj = 0) (hheld : s.m.workHeld p = false) (hlost : s.m.workLost p = false) :
    ∃ m : Mach, exec (.contextDestroy p k) s = .next { s with m := m.freeContext j.pkt.ctx } := by
  rw [exec_contextDestroy, execContextDestroy, commandOp_job hj hc]
  simp only [h0, ne_eq, not_true_eq_false, if_false, hheld, hlost, Bool.false_eq_true]
  exact ⟨_, rfl⟩

/-- Settles O50: the steps of the long commands one by one, and what CONTEXT_DESTROY leaves, since it frees its context last. -/
theorem longCommands : Obligations.LongCommands := by
  unfold Obligations.LongCommands
  refine ⟨fun _ _ _ _ _ _ _ hj hc he => exec_commandEvent hj hc he, fun s p k j hj hc h0 hheld hlost => ?_⟩
  obtain ⟨m, hm⟩ := exec_contextDestroy_frees hj hc h0 hheld hlost
  exact ⟨_, hm, ctx_freeContext m _, plans_freeContext m _, pipes_freeContext m _, graphs_freeContext m _, queues_freeContext m _⟩

end Sys2Proof.Machine

/-! PROOFS. The slot protocol of pipes (spec 18 R319). -/

namespace Sys2Proof.Machine

section
variable {p : Pipe} {j k : Nat}

/-! ### Slots -/

theorem Pipe.setSlot_other (x : Slot) (h : k ≠ j) : (p.setSlot j x).slots[k]? = p.slots[k]? := List.getElem?_set_ne (Ne.symm h)

theorem Pipe.mark_slots (p : Pipe) : p.mark.slots = p.slots := by
  unfold Pipe.mark
  split <;> rfl

theorem Pipe.mark_cseq (p : Pipe) : p.mark.cseq = p.cseq := by
  unfold Pipe.mark
  split <;> rfl

theorem Pipe.mark_tseq (p : Pipe) : p.mark.tseq = p.tseq := by
  unfold Pipe.mark
  split <;> rfl

/-- The slot found has the state and the number. -/
theorem Pipe.slot_of_find {st : SlotState} {n : Word} (h : p.find st n = some j) : ∃ x, p.slots[j]? = some x ∧ x.st = st ∧ x.seq = n := by
  obtain ⟨hj, hx, -⟩ := List.findIdx?_eq_some_iff_getElem.mp h
  exact ⟨_, List.getElem?_eq_getElem hj, of_decide_eq_true hx⟩

/-- Nothing is promoted while the next number to commit is not ready. -/
theorem Pipe.promote_stuck (h : p.find .ready p.cseq = none) (n : Nat) : Pipe.promote n p = p := by
  cases n with
  | zero => rfl
  | succ n => rw [Pipe.promote, h]

/-- A slot whose number is not sought stays unfound. -/
theorem Pipe.find_setSlot_none {st : SlotState} {n : Word} {x : Slot} (h : p.find st n = none) (hx : x.seq ≠ n) (j : Nat) :
    (p.setSlot j x).find st n = none := by
  refine List.findIdx?_eq_none_iff.mpr fun y hy => ?_
  rcases List.mem_or_eq_of_mem_set hy with hold | rfl
  · exact List.findIdx?_eq_none_iff.mp h y hold
  · exact decide_eq_false fun hc => hx hc.2

/-! ### Reservations, takes and commits -/

/-- A reservation gets the lowest free slot. -/
theorem Pipe.reserve_lowest {q : Pipe} (h : p.reserve = some (j, q)) :
    j < p.slots.length ∧ p.stateOf j = some .free ∧ (∀ k, k < j → p.stateOf k ≠ some .free) ∧
      q = { p.setSlot j { st := .reserved, seq := p.rseq, seen := [] } with rseq := p.rseq + 1 } := by
  obtain ⟨i, hi, he⟩ := Option.map_eq_some_iff.mp h
  obtain ⟨rfl, rfl⟩ := Prod.mk.inj he
  obtain ⟨hlt, hst, hmin⟩ := List.findIdx?_eq_some_iff_getElem.mp hi
  refine ⟨hlt, ?_, fun k hk => ?_, rfl⟩
  · rw [Pipe.stateOf, List.getElem?_eq_getElem hlt, Option.map_some, of_decide_eq_true hst]
  · rw [Pipe.stateOf, List.getElem?_eq_getElem (hk.trans hlt), Option.map_some]
    exact fun hc => hmin k hk (decide_eq_true (Option.some.inj hc))

/-- A commit behind an older reserved slot leaves its slot ready and counts nothing. -/
theorem Pipe.commit_waits {x : Slot} (hx : p.slots[j]? = some x) (hseq : x.seq ≠ p.cseq) (hf : p.find .ready p.cseq = none)
    (seen : List Nat) : p.commit j seen = (p.setSlot j { x with st := .ready, seen := seen }).mark := by
  have hstuck : (p.setSlot j { x with st := .ready, seen := seen }).find .ready p.cseq = none :=
    Pipe.find_setSlot_none (x := { x with st := .ready, seen := seen }) hf hseq j
  simp only [Pipe.commit, hx, Pipe.promote_stuck hstuck]

end

/-- Settles O44: the slots before and after each of the three steps. -/
theorem slotProtocol : Obligations.SlotProtocol := by
  unfold Obligations.SlotProtocol
  refine fun p j => ⟨fun q hq => ?_, fun ht => ?_, fun x seen hx hseq hf => ?_⟩
  · obtain ⟨hlt, hfree, hmin, rfl⟩ := Pipe.reserve_lowest hq
    exact ⟨hfree, hmin, by simp [Pipe.setSlot, hlt], rfl, rfl, rfl, fun k hk => Pipe.setSlot_other _ hk⟩
  · obtain ⟨x, hx, hst, hseq⟩ := Pipe.slot_of_find ht
    have hlt : j < p.slots.length := (List.getElem?_eq_some_iff.mp hx).1
    refine ⟨by simp [hx, hst, hseq], ?_, Pipe.mark_tseq _, Pipe.mark_cseq _, fun k hk => ?_⟩
    · rw [Pipe.take, Pipe.mark_slots]
      simp [Pipe.setSlot, hlt]
    · rw [Pipe.take, Pipe.mark_slots]
      exact Pipe.setSlot_other _ hk
  · have hlt : j < p.slots.length := (List.getElem?_eq_some_iff.mp hx).1
    rw [Pipe.commit_waits hx hseq hf, Pipe.mark_cseq, Pipe.mark_slots]
    exact ⟨rfl, by simp [Pipe.setSlot, hlt]⟩

end Sys2Proof.Machine

/-! PROOFS. Integer sums of the matrix units (spec 05 R90, R91; 16 R297). -/

namespace Sys2Proof.Machine

/-! ### Integer values -/

/-- A value with exponent 0: an integer. -/
def FVal.Whole (x : FVal) : Prop := ∃ s m, x = .num s m 0

theorem FVal.whole_ofInt (v : Int) : (FVal.ofInt v).Whole := ⟨_, _, rfl⟩

theorem FVal.units_ofInt (v : Int) : (FVal.ofInt v).units 0 = v := by
  simp only [FVal.ofInt, FVal.units, sub_self, Int.toNat_zero, pow_zero, mul_one]
  by_cases h : v < 0
  · simp only [h, decide_true, if_true]
    omega
  · simp only [h, decide_false, Bool.false_eq_true, if_false]
    omega

theorem FVal.whole_integral {x : FVal} (h : x.Whole) : x.integral.Whole := by
  unfold FVal.integral
  split
  · exact ⟨_, _, rfl⟩
  · exact h

theorem FVal.units_integral {x : FVal} (h : x.Whole) : x.integral.units 0 = x.units 0 := by
  obtain ⟨s, m, rfl⟩ := h
  unfold FVal.integral
  split
  · rename_i hz
    have hm : m = 0 := by simpa [FVal.isZero] using hz
    simp [FVal.units, hm]
  · rfl

theorem FVal.whole_times {x y : FVal} (hx : x.Whole) (hy : y.Whole) : (x.times y).Whole := by
  obtain ⟨s, m, rfl⟩ := hx
  obtain ⟨t, n, rfl⟩ := hy
  exact ⟨_, _, rfl⟩

theorem FVal.units_times {x y : FVal} (hx : x.Whole) (hy : y.Whole) : (x.times y).units 0 = x.units 0 * y.units 0 := by
  obtain ⟨s, m, rfl⟩ := hx
  obtain ⟨t, n, rfl⟩ := hy
  cases s <;> cases t <;> simp [FVal.times, FVal.units]

/-! ### Sums of integers -/

section
variable {l : List FVal} (h : ∀ x ∈ l, FVal.Whole x)

include h

theorem lowest_of_whole : lowest l = 0 := by
  induction l with
  | nil => rfl
  | cons x xs ih =>
    obtain ⟨s, m, rfl⟩ := h x List.mem_cons_self
    exact ih fun y hy => h y (List.mem_cons_of_mem _ hy)

/-- The sum of integers is exact, with exponent 0. -/
theorem total_of_whole : total l = .exact (l.map fun x => x.units 0).sum 0 := by
  have hnan : l.any FVal.isNan = false := List.any_eq_false.mpr fun x hx => by
    obtain ⟨s, m, rfl⟩ := h x hx
    simp [FVal.isNan]
  have hinf : ∀ s, (l.any fun x => decide (x = .inf s)) = false := fun s => List.any_eq_false.mpr fun x hx => by
    obtain ⟨s, m, rfl⟩ := h x hx
    simp
  simp only [total, hnan, hinf, Bool.and_false, Bool.false_eq_true, if_false, lowest_of_whole h]
  rw [List.sum_eq_foldl, List.foldl_map]

/-- An integer accumulator takes the sum of integers mod 2^32. -/
theorem updateI32_of_whole (v : Int) :
    updateI32 (BitVec.ofInt 32 v).toNat l = (BitVec.ofInt 32 (v + (l.map fun x => x.units 0).sum)).toNat := by
  rw [updateI32, total_of_whole h]
  simp only [Int.toNat_zero, pow_zero, mul_one]
  rw [BitVec.ofInt_add, BitVec.ofInt_add, BitVec.ofInt_natCast, BitVec.ofNat_toNat, BitVec.setWidth_eq]

end

/-! ### Elements and products -/

theorem sextNat_eq_toInt (x w : Nat) : sextNat x w = (BitVec.ofNat w x).toInt := by
  rw [sextNat, BitVec.toInt_eq_toNat_cond, BitVec.toNat_ofNat]
  cases w with
  | zero => simp [Nat.mod_one]
  | succ w =>
    have hp : 2 ^ (w + 1) = 2 * 2 ^ w := Nat.pow_succ'
    have hlt : x % 2 ^ (w + 1) < 2 ^ w ↔ 2 * (x % 2 ^ (w + 1)) < 2 ^ (w + 1) := by omega
    simp [hlt]

/-- An element of an integer format is its integer. -/
theorem elemVal_of_int {c : Nat} (h : isIntFmt c = true) (e bits : Nat) : elemVal c e bits = FVal.ofInt (Spec.element c bits) := by
  simp only [isIntFmt, Bool.and_eq_true, decide_eq_true_eq] at h
  obtain ⟨h3, h8⟩ := h
  interval_cases c
  · rw [elemVal, sextNat_eq_toInt, Spec.element]
  · rw [elemVal, sextNat_eq_toInt, Spec.element]
  · rw [elemVal, sextNat_eq_toInt, Spec.element]
  · rfl
  · rfl
  · rfl

/-- The product of the elements `k` of row lane `i` and column lane `j`. -/
def Tile.product (t : Tile) (i j : Fin 32) (k : Nat) : Int :=
  Spec.element t.f.a (elemBits t.f.a (t.aStr i) k) * Spec.element t.f.b (elemBits t.f.b (t.bStr j) k)

section
variable {t : Tile} (ha : isIntFmt t.f.a = true) (hb : isIntFmt t.f.b = true)

include ha hb

/-- The products of a K-block of integers are the products of its elements. -/
theorem products_of_int (b : Nat) (i j : Fin 32) :
    (t.products false b i (some j)).1 = (List.range t.kb).map fun k =>
      ((FVal.ofInt (Spec.element t.f.a (elemBits t.f.a (t.aStr i) (b * t.kb + k)))).times
        (FVal.ofInt (Spec.element t.f.b (elemBits t.f.b (t.bStr j) (b * t.kb + k))))).integral := by
  simp only [Tile.products, ha, hb, Bool.and_self, if_true, products, Tile.pairs, Bool.false_eq_true, if_false, List.map_map,
    Option.map_some, elemVal_of_int ha, elemVal_of_int hb, Function.comp_def]

/-- A K-block of integers adds the products of its elements to the accumulator. -/
theorem updateI32_block (b : Nat) (i j : Fin 32) (v : Int) :
    updateI32 (BitVec.ofInt 32 v).toNat (t.products false b i (some j)).1 =
      (BitVec.ofInt 32 (v + ((List.range t.kb).map fun k => t.product i j (b * t.kb + k)).sum)).toNat := by
  have hw : ∀ u v : Int, ((FVal.ofInt u).times (FVal.ofInt v)).Whole := fun u v => FVal.whole_times (FVal.whole_ofInt u) (FVal.whole_ofInt v)
  have hu : ∀ u v : Int, ((FVal.ofInt u).times (FVal.ofInt v)).integral.units 0 = u * v := fun u v => by
    rw [FVal.units_integral (hw u v), FVal.units_times (FVal.whole_ofInt u) (FVal.whole_ofInt v), FVal.units_ofInt, FVal.units_ofInt]
  rw [products_of_int ha hb, updateI32_of_whole, List.map_map]
  · simp only [Function.comp_def, hu, Tile.product]
  · intro x hx
    obtain ⟨k, -, rfl⟩ := List.mem_map.mp hx
    exact FVal.whole_integral (hw _ _)

/-- After `n` K-blocks the accumulator has the products of their elements. -/
theorem sum_blocks (i j : Fin 32) {c : Nat} (hc : c < 2 ^ 32) (n : Nat) :
    (List.range n).foldl (fun (acc : Nat × Exc) b => (updateI32 acc.1 (t.products false b i (some j)).1, acc.2)) (c, Exc.none) =
      ((BitVec.ofInt 32 ((c : Int) + ((List.range (n * t.kb)).map (t.product i j)).sum)).toNat, Exc.none) := by
  induction n with
  | zero => simpa using (Nat.mod_eq_of_lt hc).symm
  | succ n ih =>
    rw [List.range_succ, List.foldl_append, ih, List.foldl_cons, List.foldl_nil]
    rw [updateI32_block ha hb, Nat.succ_mul, List.range_add, List.map_append, List.sum_append, List.map_map, add_assoc]
    rfl

end

/-- Settles O40, by induction on the K-blocks: each adds the exact sum of its products. -/
theorem integerProducts : Obligations.IntegerProducts := by
  unfold Obligations.IntegerProducts
  intro t i j n c hacc ha hb hkb hk hc
  have hn : t.k / t.kb = n := by rw [hk, Nat.mul_div_cancel _ hkb]
  have hsum : t.sum false i (some j) c =
      ((BitVec.ofInt 32 ((c : Int) + ((List.range t.k).map (t.product i j)).sum)).toNat, Exc.none) := by
    rw [hk, ← sum_blocks ha hb i j hc n, Tile.sum, hn]
    simp only [blockLive, Bool.not_false, Bool.true_or, Bool.not_true, Bool.false_eq_true, if_false, hacc, if_true]
  rw [hsum]
  exact ⟨rfl, rfl⟩

end Sys2Proof.Machine

/-! PROOFS. The operations of ERSET and the posts that are accepted (spec 19 R345, R347). -/

namespace Sys2Proof.Machine

section
variable {s : State} {g : Issue} {i : Instr}

/-! ### The operations on rings -/

section
variable {a b : Src} {h : Fin 16} {r : Ring}

/-- A count inside the depth of its bound ring is what the operation goes on with. -/
theorem ringCount_fits {n : Nat} (k : Mach → Issue → Fin 16 → Ring → Nat → Mach) (ha : AdmitsLast s.m g i)
    (hn : (g.warp.one a).toNat = h.val) (hr : g.team.rings.at h = some r) (hc : (g.warp.one b).toNat = n) (h1 : 1 ≤ n) (h2 : n ≤ 4096)
    (hd : n ≤ r.depth) : ringCount i a b s k = .next { s with m := k s.m g h r n } := by
  subst hc
  rw [ringCount_named k ha hn h1 h2, hr]
  simp only [if_neg (Nat.not_lt.mpr hd)]

/-- No operation of the team that is posted still names the ring. -/
theorem opsOf_any_false {p : EngOp → Bool} {m : Mach} {t : Nat} (h : ∀ o ∈ m.opsOf t, p o = false) : (m.opsOf t).any p = false :=
  List.any_eq_false.mpr fun o ho => by simp [h o ho]

end

theorem RingEffect.acts {m' : Mach} (he : RingEffect s.m g i m') (ha : AdmitsLast s.m g i) : ∃ x, Acts s g i m' id x := by
  apply KeepsCourse.unchanged.acts
  cases he with
  | bind a b h v r m1 hn hv hp =>
    have hlt : (g.warp.one b).toNat < 16 := hn ▸ h.isLt
    have hh : (⟨(g.warp.one b).toNat, hlt⟩ : Fin 16) = h := Fin.ext hn
    simp only [exec_ersetBind, execErsetBind, issueLast_admits _ ha, dif_pos hlt, withLoad_ok _ hv, hp, hh, id_eq]
  | free a h r hn hr hops =>
    have hfree : (s.m.opsOf g.t).any (fun o => o.inRings.contains h.val || o.outRings.contains h.val) = false :=
      opsOf_any_false fun o ho => by simpa using hops o ho
    rw [exec_ersetFree, execErsetFree, ringOp_named _ ha hn, hr]
    simp only [hfree, Bool.false_eq_true, if_false, id_eq]
  | push a b h r n hn hr hc h1 h2 hd hroom hops =>
    have halone : (s.m.opsOf g.t).any (fun o => o.outRings.contains h.val) = false := opsOf_any_false fun o ho => by simpa using hops o ho
    rw [exec_ersetPush, execErsetPush, ringCount_fits _ ha hn hr hc h1 h2 hd]
    simp only [if_neg (Nat.not_lt.mpr hroom), halone, Bool.false_eq_true, if_false, id_eq]
  | pop a b h r n hn hr hc h1 h2 hd hheld hops =>
    have halone : (s.m.opsOf g.t).any (fun o => o.inRings.contains h.val) = false := opsOf_any_false fun o ho => by simpa using hops o ho
    rw [exec_ersetPop, execErsetPop, ringCount_fits _ ha hn hr hc h1 h2 hd]
    simp only [if_neg (Nat.not_lt.mpr hheld), halone, Bool.false_eq_true, if_false, id_eq]
  | pushFree a b h r n o hn hr hc h1 h2 hd hroom ho hin =>
    have hbeside : (s.m.opsOf g.t).any (fun o => o.outRings.contains h.val) = true := List.any_eq_true.mpr ⟨o, ho, by simpa using hin⟩
    rw [exec_ersetPush, execErsetPush, ringCount_fits _ ha hn hr hc h1 h2 hd]
    simp only [if_neg (Nat.not_lt.mpr hroom), hbeside, if_true, id_eq]
  | popFree a b h r n o hn hr hc h1 h2 hd hheld ho hin =>
    have hbeside : (s.m.opsOf g.t).any (fun o => o.inRings.contains h.val) = true := List.any_eq_true.mpr ⟨o, ho, by simpa using hin⟩
    rw [exec_ersetPop, execErsetPop, ringCount_fits _ ha hn hr hc h1 h2 hd]
    simp only [if_neg (Nat.not_lt.mpr hheld), hbeside, if_true, id_eq]
  | waitf a b h r n hn hr hc h1 h2 hd hheld =>
    rw [exec_ersetWaitf, execErsetWaitf, ringCount_fits _ ha hn hr hc h1 h2 hd]
    simp only [hheld, if_true, id_eq]
  | waite a b h r n hn hr hc h1 h2 hd hroom =>
    rw [exec_ersetWaite, execErsetWaite, ringCount_fits _ ha hn hr hc h1 h2 hd]
    simp only [hroom, if_true, id_eq]

/-! ### Posts -/

/-- A post counts in IFE and changes nothing else of its warp. -/
theorem KeepsCourse.raiseIfe : KeepsCourse fun x => { x with ife := x.ife + 1 } :=
  ⟨fun _ => rfl, fun _ => rfl, fun _ => rfl, fun _ => rfl, fun _ => rfl, fun _ => rfl⟩

/-- A post whose descriptor is accepted joins the operations. -/
theorem post_accepted {kind : EngKind} {a : Src} {v : Nat} {m' : Mach} {o : EngOp} (hp : Posts i kind a) (ha : AdmitsLast s.m g i)
    (hv : s.m.loadNow g (g.warp.pair a) 64 (g.plainly 64) = (.ok v, m')) (ho : o = EngOp.parse g kind (g.warp.pair a) (m'.trapPc g) v)
    (hacc : Accepts m' g kind o v) :
    ∃ x, Acts s g i { m' with ops := m'.ops ++ [{ o with posted := g.warp.nonmem }] } (fun y => { y with ife := y.ife + 1 }) x := by
  apply KeepsCourse.raiseIfe.acts
  subst ho
  rw [hp.exec_eq, postOp, issueLast_admits _ ha, withLoad_ok _ hv]
  simp only
  rw [if_neg (by simpa [hacc.formed] using hacc.fits), if_neg (not_not_all hacc.rings), if_neg (not_not_all hacc.pipes),
    if_neg (Nat.not_le.mpr hacc.room), if_neg (Nat.not_le.mpr hacc.counter), Warp.begin_ife]

end

/-- Settles O41: each operation of ERSET by its tests, and a post by those of its descriptor. -/
theorem ringsAndPosts : Obligations.RingsAndPosts := by
  unfold Obligations.RingsAndPosts
  exact fun s g i ha => ⟨fun m' he => he.acts ha, fun kind a v m' o hp hv ho hacc => post_accepted hp ha hv ho hacc⟩

end Sys2Proof.Machine

/-! PROOFS. Memory instructions: their addresses generated, and their issue (spec 12 R220; 13 R245; 14 R259 to R275; 21 R361). -/

namespace Sys2Proof.Machine

/-! ### What the generation of addresses leaves -/

/-- A die without what translations cache in it. -/
def Die.bare (x : Die) : Die := { x with dcache := [], cores := [] }

/-- A machine without what translations cache in its dies. -/
def Mach.uncached (m : Mach) : Mach := { m with dies := m.dies.map Die.bare }

theorem modDie_uncached {m : Mach} {d : Nat} {f : Die → Die} (h : ∀ x, (f x).bare = x.bare) : (m.modDie d f).uncached = m.uncached := by
  have hmap : (m.dies.modify d f).map Die.bare = m.dies.map Die.bare := by
    refine List.ext_getElem? fun k => ?_
    rw [List.getElem?_map, List.getElem?_map, List.getElem?_modify, Option.map_eq_map, Option.map_map]
    refine congrArg (fun F => Option.map F m.dies[k]?) (funext fun x => ?_)
    by_cases hk : d = k
    · simp only [Function.comp_apply, if_pos hk, h]
    · simp only [Function.comp_apply, if_neg hk]
  simp only [Mach.uncached, Mach.modDie, hmap]

theorem lookup_uncached (m : Mach) (d c ctx va : Nat) : (m.lookup d c ctx va).2.uncached = m.uncached := by
  unfold Mach.lookup
  dsimp only
  split
  · rfl
  · split
    · dsimp only [Mach.modCore, Mach.cacheRange]
      rw [modDie_uncached, modDie_uncached]
      · exact fun _ => rfl
      · exact fun _ => rfl
    · rfl

theorem translate_uncached (m : Mach) (d c ctx va n : Nat) (a : Access) (super : Bool) :
    (m.translate d c ctx va n a super).2.uncached = m.uncached := by
  have hl := lookup_uncached m d c ctx va
  unfold Mach.translate
  split
  · rfl
  · split
    · rfl
    · split
      · rename_i h; rw [h] at hl; exact hl
      · rename_i h; rw [h] at hl
        split
        · exact hl
        · split <;> exact hl

theorem generate_uncached (m : Mach) (g : Issue) (kind : Access) (size : Nat) (sup : Nat → Bool) (a : Ask) :
    (m.generate g kind size sup a).2.uncached = m.uncached := by
  have ht := translate_uncached m g.team.die g.core g.team.ctx a.addr size kind g.team.super
  unfold Mach.generate
  split
  · rfl
  · split
    · rfl
    · split
      · split <;> rfl
      · split
        · rename_i h; rw [h] at ht; exact ht
        · rename_i h; rw [h] at ht
          split <;> exact ht

theorem generateAll_uncached (g : Issue) (kind : Access) (size : Nat) (sup : Nat → Bool) (as : List Ask) (m : Mach) :
    (m.generateAll g kind size sup as).2.uncached = m.uncached := by
  induction as generalizing m with
  | nil => rfl
  | cons a as ih =>
    have h1 := generate_uncached m g kind size sup a
    unfold Mach.generateAll
    split
    · rename_i h; rw [h] at h1; exact h1
    · rename_i m1 h
      rw [h] at h1
      have h2 := (ih m1).trans h1
      split
      · rename_i h3; rw [h3] at h2; exact h2
      · rename_i h3; rw [h3] at h2; exact h2

section
variable {m m' : Mach} (h : m'.uncached = m.uncached)

include h

theorem rest_of_uncached : m'.rest = m.rest := (congrArg Mach.rest h : m'.uncached.rest = m.uncached.rest)

theorem home_of_uncached : m'.home = m.home := (congrArg Mach.home h : m'.uncached.home = m.uncached.home)

theorem unit_of_uncached : m'.unit = m.unit := (congrArg Mach.unit h : m'.uncached.unit = m.uncached.unit)

theorem dies_of_uncached : m'.dies.map Die.bare = m.dies.map Die.bare :=
  (congrArg Mach.dies h : m'.uncached.dies = m.uncached.dies)

/-- What a die shows does not depend on what translations cache. -/
theorem shows_of_uncached (d k : Nat) : m'.shows d k = m.shows d k := by
  have hd : (m'.dies[d]?).map Die.bare = (m.dies[d]?).map Die.bare := by
    rw [← List.getElem?_map, ← List.getElem?_map, dies_of_uncached h]
  have hb : ∀ {x y : Die}, x.bare = y.bare → ∀ u : Mem,
      x.byte (if x.l2.holds (lineOf k) then x.l2.data else u) k = y.byte (if y.l2.holds (lineOf k) then y.l2.data else u) k := by
    intro x y hxy u
    exact (congrArg (fun z : Die => z.byte (if z.l2.holds (lineOf k) then z.l2.data else u) k) hxy :
      x.bare.byte (if x.bare.l2.holds (lineOf k) then x.bare.l2.data else u) k = _)
  unfold Mach.shows
  rw [home_of_uncached h]
  generalize m'.dies[d]? = o', m.dies[d]? = o at hd
  cases o' with
  | none =>
    cases o with
    | none => rfl
    | some _ => exact nomatch hd
  | some x =>
    cases o with
    | none => exact nomatch hd
    | some y => exact hb (Option.some.inj hd) _

end

/-! ### An access issued -/

/-- What a memory instruction is to its gang: it ends its chain, and no earlier access is moved past it. -/
def AccessesMemory (i : Instr) : Prop := i.uses.ending = true ∧ i.uses.mem = true

@[simp] theorem Warp.raise_counter (x : Warp) (c : Ctr) : (x.raise c).counter c = x.counter c + 1 := by cases c <;> rfl

section
variable {s : State} {g : Issue} {i : Instr} {q : Shot} {asks : List Ask} {done : List (Nat × Nat × Nat)}

/-- A memory instruction retires with its access the youngest in flight. -/
theorem Launched.of_retire {m' : Mach} {f : Flight} (hi : AccessesMemory i) (hu : m'.unit = s.m.unit)
    (he : exec i s = .next { s with m := m'.retire g i { g.warp.raise q.ctr with flight := g.warp.flight ++ [f] } })
    (hf : f.ctr = q.ctr ∧ f.act = q.act ∧ f.place = q.place ∧ f.size = q.size ∧ f.scalar = q.scalar ∧ f.done = done ∧ f.skid = 0 ∧
      f.replay = false ∧ f.gang = g.gang ∧ f.pc = m'.trapPc g ∧ f.next = g.after i ∧ f.iword = i.word) :
    ∃ x, Launched s g i q f.lanes done m' x := by
  obtain ⟨hend, hmem⟩ := hi
  obtain ⟨hctr, hact, hplace, hsize, hscalar, hdone, hskid, hreplay, hgang, hpc, hnext, hiword⟩ := hf
  have hpc' : f.pc = s.m.trapPc g := by rw [hpc, Mach.trapPc, Mach.trapPc, hu]
  have hraise : ∀ {β : Type} (p : Warp → β), (∀ x c, p (Warp.raise x c) = p x) → p (g.warp.raise q.ctr) = p g.warp := fun p hp => hp _ _
  have hflight : ((({ g.warp.raise q.ctr with flight := g.warp.flight ++ [f] } : Warp).settle i.uses (m'.trapPc g) g.gang).goOn g.gang
      (g.pc + i.size)).flight = g.warp.flight ++ [f] := by
    rw [Warp.goOn_flight, Warp.settle, Warp.countMeld_flight, Warp.skidOn, if_pos hmem, Warp.chainOn, if_pos hend]
    rfl
  refine ⟨_, he, ?_, ?_, ?_, ⟨f, hflight, hctr, hact, hplace, hsize, hscalar, rfl, hdone, hskid, hreplay, hgang, hpc', hnext, hiword⟩, ?_⟩
  · apply GoesOn.of_settle
    · exact hraise Warp.lc fun _ c => by cases c <;> rfl
    · exact hraise Warp.ls fun _ c => by cases c <;> rfl
    · exact hraise Warp.le fun _ c => by cases c <;> rfl
    · exact hraise Warp.slices fun _ c => by cases c <;> rfl
  · rw [goOn_b, hend, Bool.or_true, if_pos rfl]
    · exact hraise Warp.lc fun _ c => by cases c <;> rfl
    · exact hraise Warp.le fun _ c => by cases c <;> rfl
  · have hcount : ∀ y : Warp, ((y.settle i.uses (m'.trapPc g) g.gang).goOn g.gang (g.pc + i.size)).counter q.ctr = y.counter q.ctr := by
      intro y
      cases q.ctr <;> simp [Warp.counter]
    rw [hcount, ← Warp.raise_counter]
    cases q.ctr <;> rfl
  · rw [hflight, Warp.goOn_still, Warp.settle_still]

/-- A memory instruction whose addresses are generated issues. -/
theorem Launched.of_shoot {m0 m' : Mach} {ls : List LaneAcc} (hi : AccessesMemory i) (hu : m0.unit = s.m.unit)
    (he : exec i s = .next { s with m := m0.shoot g i q asks done }) (hc : g.warp.counter q.ctr < 255)
    (hg : m0.generateAll g q.kind q.size q.sup asks = (.ok ls, m')) : ∃ x, Launched s g i q ls done m' x := by
  have hunc := generateAll_uncached g q.kind q.size q.sup asks m0
  rw [hg] at hunc
  refine Launched.of_retire (f :=
    { ctr := q.ctr, act := q.act, place := q.place, size := q.size, scalar := q.scalar, lanes := ls, done := done, gang := g.gang
      pc := m'.trapPc g, head := m'.rpcOf g i, next := g.pc + i.size, iword := i.word, skid := 0, replay := false, snap := g.warp.snap }) hi ((unit_of_uncached hunc).trans hu) ?_ ⟨rfl, rfl, rfl, rfl, rfl, rfl, rfl, rfl, rfl, rfl, rfl, rfl⟩
  rw [he, Mach.shoot, if_neg (Nat.not_le.mpr hc), hg]
  have hfl : (g.warp.raise q.ctr).flight = g.warp.flight := by cases q.ctr <;> rfl
  simp only [hfl]

/-- A memory instruction of which an address faults takes the trap of the first. -/
theorem shoot_faults {m m' : Mach} {c : Nat} {a : Ask} (hc : g.warp.counter q.ctr < 255)
    (hg : m.generateAll g q.kind q.size q.sup asks = (.error (c, a), m')) :
    m.shoot g i q asks done = m'.trap g i { TrapRec.of c with lane := a.lane, va := a.addr } := by
  rw [Mach.shoot, if_neg (Nat.not_le.mpr hc), hg]
  rfl

/-! ### The memory instructions -/

theorem MemAccess.accesses (h : MemAccess g i q asks done) : AccessesMemory i := by
  cases h <;> exact ⟨rfl, rfl⟩

theorem TensorAccess.accesses (h : TensorAccess g i q asks done) : AccessesMemory i := by
  cases h <;> exact ⟨rfl, rfl⟩

/-- A plain or ordered access, admitted, is the issue of its requests. -/
theorem MemAccess.exec_eq (h : MemAccess g i q asks done) (ha : Admits s.m g i) :
    exec i s = .next { s with m := s.m.shoot g i q asks done } := by
  cases h with
  | ld => rw [exec_ld, execLd, loadOp, issue_admits _ ha]; rfl
  | ldSigned => rw [exec_ldSigned, execLdSigned, loadOp, issue_admits _ ha]; rfl
  | st => rw [exec_st, execSt, storeOp, issue_admits _ ha]; rfl
  | spld => rw [exec_spld, execSpld, loadOp, issue_admits _ ha]; rfl
  | spldSigned => rw [exec_spldSigned, execSpldSigned, loadOp, issue_admits _ ha]; rfl
  | spst => rw [exec_spst, execSpst, storeOp, issue_admits _ ha]; rfl
  | lds => rw [exec_lds, execLds, scalarAccess, issue_admits _ ha]; rfl
  | sts => rw [exec_sts, execSts, scalarAccess, issue_admits _ ha]; rfl
  | atomDie d a b x o => rw [exec_atomDie, execAtomDie, atomOp, issue_admits _ ha]; rfl
  | atoms d a b x o => rw [exec_atoms, execAtoms, atomOp, issue_admits _ ha]; rfl
  | atomPkg d a b x o hf => rw [exec_atomPkg, execAtomPkg, atomOp, issue_admits _ ha, hf]; rfl
  | atomSys d a b x o hf => rw [exec_atomSys, execAtomSys, atomOp, issue_admits _ ha, hf]; rfl
  | lda32 => rw [exec_lda32, execLda32, ldaOp, issue_admits _ ha]
  | lda64 => rw [exec_lda64, execLda64, ldaOp, issue_admits _ ha]

/-- The lanes that a tensor access clips are those that it does not ask for. -/
theorem tensorClip_eq (r : Shape) (c : Fin 32 → List Int) (l : Fin 32) :
    (!r.within (c l) && !r.fault) = !(r.within (c l) || r.fault) := by rw [Bool.not_or]

theorem TensorAccess.exec_eq (h : TensorAccess g i q asks done) (ha : Admits s.m g i) :
    exec i s = .next { s with m := s.m.shoot g i q asks done } := by
  cases h with
  | tld h rk cb d z r hr hrank =>
    rw [exec_tld, execTld, tensorOp, issue_admits _ ha, hr]
    simp only [hrank, ne_eq, not_true_eq_false, if_false, tensorClip_eq, Bool.not_not]
    rfl
  | tst h rk cb d z r hr hrank =>
    rw [exec_tst, execTst, tensorOp, issue_admits _ ha, hr]
    simp only [hrank, ne_eq, not_true_eq_false, if_false, tensorClip_eq, Bool.not_not]
    rfl

end

/-- Settles O23: each memory instruction is the issue of its requests, which generates their addresses one by one. -/
theorem memoryInstructionsIssue : Obligations.MemoryInstructionsIssue := by
  unfold Obligations.MemoryInstructionsIssue
  refine ⟨fun s g i q asks done ls m' hm ha hc hg => ?_, fun s g i q asks done c a m' hm ha hc hg => ?_⟩
  · have hunc := generateAll_uncached g q.kind q.size q.sup asks s.m
    rw [hg] at hunc
    exact ⟨Launched.of_shoot (hm.elim MemAccess.accesses TensorAccess.accesses) rfl (hm.elim (·.exec_eq ha) (·.exec_eq ha)) hc hg,
      rest_of_uncached hunc, home_of_uncached hunc, shows_of_uncached hunc⟩
  · rw [hm.elim (·.exec_eq ha) (·.exec_eq ha), shoot_faults hc hg]

end Sys2Proof.Machine

/-! PROOFS. Launches and the condition words of graphs (spec 19 R357, R358). -/

namespace Sys2Proof.Machine

section
variable {s : State} {g : Issue} {i : Instr}

/-- A release that meets nothing held, lost or undeliverable goes on. -/
theorem withRelease_ok {m : Mach} {sc : Scope} (i : Instr) (k : Mach → Mach) (h : g.releases m sc) :
    m.withRelease g i sc k = k (m.release g.team.die sc) := by
  obtain ⟨hheld, hlost, hout⟩ := h
  simp only [Mach.withRelease, hheld, hlost, hout, Bool.false_eq_true, if_false]

/-! ### KLAUNCH and GLAUNCH -/

theorem Launches.exec_eq {kind : Nat} {d : Fin 32} {a b : Src} (h : Launches i kind d a b) (s : State) :
    exec i s = launchOp i kind d a b s := by
  cases h with
  | klaunch => exact exec_klaunch ..
  | glaunch => exact exec_glaunch ..

/-- A launch ends with its status, on the machine of that status. -/
theorem launch_ends {kind v st : Nat} {d : Fin 32} {a b : Src} {m' m1 : Mach} (hl : Launches i kind d a b) (ha : AdmitsLast s.m g i)
    (hv : s.m.loadNow g (g.warp.pair a) 64 (g.plainly 64) = (.ok v, m')) (hst : LaunchStatus m' g kind (g.warp.one b).toNat v st m1) :
    exec i s = .next { s with m := m1.retire g i ((g.warp.begin i.uses).setS d (BitVec.ofNat 32 st)) } := by
  rw [hl.exec_eq, launchOp, issueLast_admits _ ha, withLoad_ok _ hv]
  cases hst with
  | noQueue hq => simp only [hq]
  | full dk rk size m1 hb hfull =>
    obtain ⟨hq, hrel, rfl, hentry, hdesc⟩ := hb
    unfold Mach.queueFull at hfull
    simp only [hq, withRelease_ok _ _ hrel, hentry, hdesc, Bool.or_self, Bool.false_eq_true, if_false, hfull, if_true]
  | badKind dk rk size m1 hb hroom hkind =>
    obtain ⟨hq, hrel, rfl, hentry, hdesc⟩ := hb
    unfold Mach.queueFull at hroom
    simp only [hq, withRelease_ok _ _ hrel, hentry, hdesc, Bool.or_self, Bool.false_eq_true, if_false, if_neg hroom, ne_eq, if_pos hkind]
  | posted dk rk size m1 hb hroom hkind =>
    obtain ⟨hq, hrel, rfl, hentry, hdesc⟩ := hb
    unfold Mach.queueFull at hroom
    simp only [hq, withRelease_ok _ _ hrel, hentry, hdesc, Bool.or_self, Bool.false_eq_true, if_false, if_neg hroom, ne_eq, hkind,
      not_true_eq_false, Mach.postPacket]

/-! ### GCOND -/

theorem gcond_issues {a b : Src} {va n : Nat} {q : Shot} {ls : List LaneAcc} {m' : Mach} (ha : Admits s.m g (.gcond a b))
    (hva : s.m.condVA g.team = some va) (hn : (g.warp.one a).toNat = n) (h256 : n < 256) (hc : g.warp.counter .ifg < 255)
    (hq : q = ⟨.ifg, .store, .die, 4, true, .store, anyClass⟩)
    (hg : s.m.generateAll g q.kind q.size q.sup
      [{ lane := 0, scratch := false, addr := va + 4 * n, reg := 0, data := (g.warp.one b).toNat, cmp := 0 }] = (.ok ls, m')) :
    ∃ x, Launched s g (.gcond a b) q ls [] m' x := by
  subst hq
  refine Launched.of_shoot ⟨rfl, rfl⟩ rfl ?_ hc hg
  rw [exec_gcond, execGcond, issue_admits _ ha]
  simp only [hva, hn, if_neg (Nat.not_le.mpr h256)]

end

/-- Settles O45: a launch by its statuses in their order, and GCOND as the issue of one store. -/
theorem launchResults : Obligations.LaunchResults := by
  unfold Obligations.LaunchResults
  exact fun s g => ⟨fun i kind d a b v st m' m1 hl ha hv hst => (KeepsCourse.setS d _).acts (launch_ends hl ha hv hst),
    fun a b va n q ls m' ha hva hn h256 hc hq hg => gcond_issues ha hva hn h256 hc hq hg⟩

end Sys2Proof.Machine

/-! PROOFS. The waits at completion counters (spec 12 R237; 13 R248; 14 R281). -/

namespace Sys2Proof.Machine

/-- The wait condition is the sign of the 64-bit difference. -/
theorem counterMet_iff (v t : Nat) : counterMet v t = true ↔ 0 ≤ (BitVec.ofNat 64 v - BitVec.ofNat 64 t).toInt := by
  have hnat : (BitVec.ofNat 64 v - BitVec.ofNat 64 t).toNat = (v + (2 ^ 64 - t % 2 ^ 64)) % 2 ^ 64 := by
    rw [BitVec.toNat_sub, BitVec.toNat_ofNat, BitVec.toNat_ofNat]
    omega
  rw [counterMet, decide_eq_true_iff, ← hnat, BitVec.toInt_eq_toNat_cond]
  split <;> omega

/-- A pair of scalar registers written. -/
theorem KeepsCourse.setPair (d : Fin 32) (v : Nat) : KeepsCourse fun x => x.setPair d v := by
  simp only [Warp.setPair, Warp.setS]
  exact .scalars fun t => (t.put _ _).put _ _

section
variable {s : State} {g : Issue} {d : Fin 32} {a b : Src} {v k : Nat} {m' : Mach}

/-- A CWAIT whose counter has reached its threshold completes with it. -/
theorem cwait_completes (ha : AdmitsLast s.m g (.cwait d a b))
    (hv : s.m.loadNow g (g.warp.pair a) 8 (fun m k => m.ldaRead g.team.die k 8 (counterScope k)) = (.ok v, m'))
    (hk : m'.keyOf g.team.ctx (g.warp.pair a) = some k) (h0 : 0 ≤ (BitVec.ofNat 64 v - BitVec.ofNat 64 (g.warp.pair b)).toInt) :
    ∃ x, Acts s g (.cwait d a b) (m'.acquireDrops g.team.die g.core (counterScope k)) (fun y => y.setPair d v) x := by
  apply (KeepsCourse.setPair d v).acts
  rw [exec_cwait, execCwait, issueLast_admits _ ha, withLoad_ok _ hv]
  simp only [(counterMet_iff _ _).mpr h0, if_true, hk]

/-- A CWAIT whose counter has not reached its threshold stays. -/
theorem cwait_stays (ha : AdmitsLast s.m g (.cwait d a b))
    (hv : s.m.loadNow g (g.warp.pair a) 8 (fun m k => m.ldaRead g.team.die k 8 (counterScope k)) = (.ok v, m'))
    (h0 : (BitVec.ofNat 64 v - BitVec.ofNat 64 (g.warp.pair b)).toInt < 0) :
    exec (.cwait d a b) s = .next { s with m := m'.modWarp g.t g.w (Warp.replayed · g.gang) } := by
  have hnot : ¬ counterMet v (g.warp.pair b) = true := fun h => Int.not_lt.mpr ((counterMet_iff _ _).mp h) h0
  rw [exec_cwait, execCwait, issueLast_admits _ ha, withLoad_ok _ hv]
  simp only [if_neg hnot]

end

/-- WAITER_RELEASE is the CWAIT at which the warp stands, with the turn put back. -/
theorem waiterRelease_eq {s : State} {t w : Nat} {j : Fin 8} {d : Fin 32} {a b : Src} {g : Issue} {m0 m1 : Mach}
    (hw : s.m.cwaiter t w = some (j, d, a, b)) (hu : s.m.unit = none) (hc : s.m.chainElsewhere t w j = false)
    (h0 : m0 = { s.m with turn := { t := t, w := w, slice := j.val } }) (hg : m0.issuer = some g)
    (he : exec (.cwait d a b) { s with m := m0 } = .next { s with m := m1 }) :
    exec (.waiterRelease t w) s = .next { s with m := { m1.noteIssue g with turn := s.m.turn } } := by
  rw [exec_cwait] at he
  rw [exec_waiterRelease, execWaiterRelease, hw]
  dsimp only
  rw [← h0]
  simp only [hg, hu, hc, Option.isSome_none, Bool.false_eq_true, or_self, if_false, he]

/-- Settles O34: CWAIT by the sign of its difference, and WAITER_RELEASE as a CWAIT of the warp that waits. -/
theorem counterWaits : Obligations.CounterWaits := by
  unfold Obligations.CounterWaits
  refine ⟨fun s g d a b v k m' ha hv hk => ⟨cwait_completes ha hv hk, cwait_stays ha hv⟩,
    fun s t w j d a b g v k m0 m' hw hu hc h0 ha hv hk hmet => ?_⟩
  obtain ⟨x, hx⟩ := cwait_completes (s := { s with m := m0 }) ha hv hk hmet
  exact ⟨x, waiterRelease_eq hw hu hc h0 ha.issues hx.answers, hx.goes, hx.frame⟩

end Sys2Proof.Machine

/-! PROOFS. The invalidation of ranges (spec 13 R253, R254; 14 R285). -/

namespace Sys2Proof.Machine

/-- The test of RINVAL for a late access or an operation. -/
theorem ite_eq_left_of_waits {α β γ : Type} {late : Option α} {ops : List β} (h : late.isSome = true ∨ ops ≠ []) (x y : γ) :
    (if late.isSome = true ∨ (!ops.isEmpty) = true then x else y) = x :=
  if_pos (h.imp_right fun hne => by simpa using hne)

/-- Settles O36: RINVAL by the accesses that still use a descriptor that it drops: one in flight goes on, a late one or an operation is
waited for, and with none it releases and retires. -/
theorem rangeInvalidation : Obligations.RangeInvalidation := by
  unfold Obligations.RangeInvalidation
  intro s g sc a b ha
  dsimp only
  rw [exec_rinval, execRinval, issueLast_admits _ ha]
  refine ⟨fun hu hl ho hrel => KeepsCourse.unchanged.acts ?_, fun t w hu => ?_, fun hu hwait => ?_⟩
  · rw [exec_rinval, execRinval, issueLast_admits _ ha]
    simp only [hu, hl, ho, Option.isSome_none, List.isEmpty_nil, Bool.not_true, Bool.false_eq_true, or_self, if_false,
      withRelease_ok _ _ hrel, id_eq]
  · simp only [hu]
  · simp only [hu, ite_eq_left_of_waits hwait]

end Sys2Proof.Machine

/-! PROOFS. The named barriers and the barriers of grids (spec 14 R277 to R280). -/

namespace Sys2Proof.Machine

/-! ### Slices that go on -/

section
variable (x : Warp) (on : Fin 8 → Bool) (pc : Nat)

theorem Warp.passSlices_slice (j : Fin 8) : (x.passSlices on pc).slices.at j =
    if on j then { x.slices.at j with pc := (x.afterEnd (pc + 4)).1 % 2 ^ 48, wait := .none } else x.slices.at j := by
  simp only [Warp.passSlices, tab_at, Warp.afterEnd_slices]

@[simp] theorem Warp.passSlices_lc : (x.passSlices on pc).lc = (x.afterEnd (pc + 4)).2.lc := rfl

/-- A part of a warp that the end of a loop body leaves alone is left alone by slices that go on. -/
theorem Warp.passSlices_keep {β : Type} (p : Warp → β) (hs : ∀ (y : Warp) t, p { y with slices := t } = p y)
    (he : ∀ (y : Warp) q, p (y.afterEnd q).2 = p y) : p (x.passSlices on pc) = p x := (hs _ _).trans (he _ _)

end

section
variable {g : Issue} {i : Instr} {y : Warp}

/-- A part of a warp that the end of a loop body leaves alone is left alone by a barrier passed. -/
theorem passBarrier_keep {β : Type} (p : Warp → β) (hs : ∀ (y : Warp) t, p { y with slices := t } = p y)
    (he : ∀ (y : Warp) q, p (y.afterEnd q).2 = p y) : p (g.passBarrier y) = p y := by
  unfold Issue.passBarrier
  rw [foldl_keep _ _ p, Warp.passSlices_keep _ _ _ p hs he]
  intro x k
  dsimp only
  split
  · rfl
  · exact Warp.passSlices_keep _ _ _ p hs he

theorem passBarrier_barWait : (g.passBarrier y).barWait = y.barWait :=
  passBarrier_keep Warp.barWait (fun _ _ => rfl) fun y q => Warp.afterEnd_barWait y q

theorem passBarrier_gridWait : (g.passBarrier y).gridWait = y.gridWait :=
  passBarrier_keep Warp.gridWait (fun _ _ => rfl) fun y q => Warp.afterEnd_gridWait y q

theorem passBarrier_bara : (g.passBarrier y).bara = y.bara :=
  passBarrier_keep Warp.bara (fun _ _ => rfl) fun y q => Warp.afterEnd_bara y q

/-- The slices of the issuing gang go on as the first of them does. -/
theorem passBarrier_gang {j : Fin 8} (hj : g.inGang j) :
    (g.passBarrier y).slices.at j = (y.passSlices (fun j => g.gang.getLsbD j.val) g.pc).slices.at j := by
  unfold Issue.passBarrier
  refine foldl_keep _ _ (fun x => x.slices.at j) (fun x k => ?_) _
  dsimp only
  split
  · rfl
  · rw [Warp.passSlices_slice, if_neg (by simp [show g.gang.getLsbD j.val = true from hj])]

/-- With every live slice in the gang no other slice goes on. -/
theorem passBarrier_ganged (hg : g.ganged = true) : g.passBarrier y = y.passSlices (fun j => g.gang.getLsbD j.val) g.pc := by
  have hlive : g.live = g.gang := (of_decide_eq_true hg).symm
  unfold Issue.passBarrier
  refine foldl_keep _ _ (fun x => x) (fun x k => ?_) _
  dsimp only
  split
  · rfl
  · rename_i j0 hfind
    have := List.find?_some hfind
    simp [hlive] at this

/-- A warp that has left its loops and slices alone. -/
structure OnCourse (g : Issue) (y : Warp) : Prop where
  slices : y.slices = g.warp.slices
  counters : y.lc = g.warp.lc
  starts : y.ls = g.warp.ls
  ends : y.le = g.warp.le

theorem barSettled_onCourse (m : Mach) : OnCourse g (m.barSettled g i) := by
  constructor <;> simp only [Mach.barSettled, Warp.settle_slices, Warp.settle_lc, Warp.settle_ls, Warp.settle_le, Warp.begin_slices,
    Warp.begin_lc, Warp.begin_ls, Warp.begin_le]

theorem OnCourse.afterEnd_pc (h : OnCourse g y) (hi : i.size = 4) : (y.afterEnd (g.pc + 4)).1 = g.nextPc i := by
  rw [← hi]
  exact Warp.afterEnd_nextPc h.counters h.starts h.ends

theorem OnCourse.afterEnd_lc (h : OnCourse g y) (hi : i.size = 4) : (y.afterEnd (g.pc + 4)).2.lc = g.nextLc i := by
  rw [← hi]
  exact Warp.afterEnd_nextLc h.counters h.ends

/-- The issuing gang passes the barrier. -/
theorem OnCourse.passes (h : OnCourse g y) (hi : i.size = 4) : PassesBarrier g i (g.passBarrier y) where
  pcs j hj := by
    rw [passBarrier_gang hj, Warp.passSlices_slice, if_pos hj, h.afterEnd_pc hi]
  alone hg := by
    rw [passBarrier_ganged hg]
    refine ⟨fun j => ?_, ?_⟩
    · rw [Warp.passSlices_slice, h.afterEnd_pc hi, h.slices]
      split <;> rfl
    · rw [Warp.passSlices_lc, h.afterEnd_lc hi]

/-- The issuing gang waits at the barrier. -/
theorem waitAtBarrier_stays (m : Mach) : StaysAtBarrier g (g.waitAtBarrier (m.barSettled g i)) where
  waits j hj := by
    simp only [Issue.waitAtBarrier, tab_at, if_pos (show g.gang.getLsbD j.val = true from hj), (barSettled_onCourse m).slices]
  others j hj := by
    simp only [Issue.waitAtBarrier, tab_at, if_neg (show ¬ g.gang.getLsbD j.val = true from hj), (barSettled_onCourse m).slices]
  arrived := by
    simp only [Issue.waitAtBarrier, Mach.barSettled, Warp.settle_barWait, Warp.settle_gridWait, Warp.settle_bara, Warp.begin_barWait,
      Warp.begin_gridWait, Warp.begin_bara, and_self]

theorem lastSlice_iff : g.lastSlice = true ↔ g.allHere := by
  simp only [Issue.lastSlice, List.all_eq_true, List.mem_finRange, Bool.or_eq_true, Bool.not_eq_true', decide_eq_true_eq, Issue.allHere,
    Issue.inGang, forall_const]
  refine forall_congr' fun j => ?_
  cases g.live.getLsbD j.val <;> simp

end

/-! ### Instructions that a warp may have begun -/

section
variable {s : State} {g : Issue} {i : Instr} {bad : Mach → Issue → Bool} {waiting : Mach → Issue → Option Mach} {run : Mach → Issue → Mach}

theorem issueOnce_waiting {m' : Mach} (hg : s.m.issuer = some g) (hw : waiting s.m g = some m') :
    issueOnce i s bad waiting run = .next { s with m := m' } := by
  simp only [issueOnce, withIssuer, onMach, hg, hw]

theorem issueOnce_bad (ha : Admits s.m g i) (hw : waiting s.m g = none) (hb : bad s.m g = true) :
    issueOnce i s bad waiting run = .next { s with m := s.m.trap g i (TrapRec.of 0x03) } := by
  simp only [issueOnce, withIssuer, onMach, ha.issues, hw, Mach.issueChecked_pass _ _ _ ha.gate, hb, if_true]
  rfl

theorem issueOnce_admits (ha : AdmitsLast s.m g i) (hw : waiting s.m g = none) (hb : bad s.m g = false) :
    issueOnce i s bad waiting run = .next { s with m := run s.m g } := by
  simp only [issueOnce, withIssuer, onMach, ha.issues, hw, Mach.issueChecked_pass _ _ _ ha.gate, hb, Bool.false_eq_true, if_false,
    ha.alone, List.isEmpty_nil, if_true]

end

/-! ### Named barriers -/

theorem arrive_eq (b : Barrier) (n : Nat) : b.arrive n = Spec.arrives b n := by
  simp only [Barrier.arrive, Spec.arrives]
  generalize (if b.arrived = 0 then n else b.need) = need
  by_cases h : b.arrived + 1 < need
  · rw [if_neg (Nat.not_le.mpr h), if_pos h]
  · rw [if_pos (Nat.not_lt.mp h), if_neg h]

section
variable {s : State} {g : Issue} {a b : Src} {bid : Fin 16} {n : Nat}

/-- Operands inside their limits are not bad ones. -/
theorem badBarrier_false (h : g.barOperands a b = some (bid, n)) : g.badBarrier a b = false := by
  unfold Issue.barOperands at h
  dsimp only at h
  split at h
  · split at h
    · rename_i h16 hok
      have h1 : ¬ 16 ≤ (g.warp.one a).toNat := Nat.not_le.mpr h16
      have h2 : ¬ g.team.nbar ≤ (g.warp.one a).toNat := Nat.not_le.mpr hok.1
      have h3 : ¬ g.team.teamw < (g.warp.one b).toNat := Nat.not_lt.mpr hok.2
      simp [Issue.badBarrier, h1, h2, h3]
    · cases h
  · cases h

theorem barOperands_none (h : g.team.nbar ≤ (g.warp.one a).toNat ∨ 16 ≤ (g.warp.one a).toNat ∨ g.team.teamw < (g.warp.one b).toNat) :
    g.barOperands a b = none := by
  unfold Issue.barOperands
  dsimp only
  split
  · rw [if_neg (by omega)]
  · rfl

/-- The machine in which the warp has arrived at a barrier. -/
def Mach.withBar (m : Mach) (g : Issue) (bid : Fin 16) (bar : Barrier) : Mach :=
  m.withTeam g fun t => { t with bars := t.bars.put bid bar }

/-- What a BAR or BARA with good operands makes of the machine. -/
theorem barOp_admits {i : Instr} {waits : Bool} (ha : AdmitsLast s.m g i) (ho : g.barOperands a b = some (bid, n))
    (hw : waits = true → g.warp.barWait = none) :
    barOp i waits a b s = .next { s with
      m := if !g.lastSlice then s.m.setWarp g (g.waitAtBarrier (s.m.barSettled g i))
        else if !waits then (s.m.withBar g bid (Spec.arrives (g.team.bars.at bid) n)).setWarp g
          (g.passBarrier { s.m.barSettled g i with bara := g.warp.bara.put bid (some (g.team.bars.at bid).phase) })
        else if (g.team.bars.at bid).phase < (Spec.arrives (g.team.bars.at bid) n).phase then
          ((s.m.withBar g bid (Spec.arrives (g.team.bars.at bid) n)).acquireDrops g.team.die g.core .team).setWarp g
            (g.passBarrier (s.m.barSettled g i))
        else (s.m.withBar g bid (Spec.arrives (g.team.bars.at bid) n)).setWarp g
          { s.m.barSettled g i with barWait := some (bid.val, (g.team.bars.at bid).phase) } } := by
  have hnone : (if waits then Mach.barWaits else fun _ _ => none) s.m g = none := by
    cases waits with
    | false => rfl
    | true => simp only [if_true, Mach.barWaits, hw rfl, Option.map_none]
  rw [barOp, issueOnce_admits ha hnone (badBarrier_false ho)]
  simp only [ho, arrive_eq]
  rfl

/-- A warp that has arrived at a named barrier goes on by its phase. -/
theorem bar_waits {p : Nat} {k : Fin 16} (hg : s.m.issuer = some g) (hw : g.warp.barWait = some (k.val, p)) :
    exec (.bar a b) s = .next { s with
      m := if p < (g.team.bars.at k).phase then
          (s.m.acquireDrops g.team.die g.core .team).setWarp g (g.passBarrier { g.warp with barWait := none })
        else s.m } := by
  have hk : (⟨k.val % 16, by omega⟩ : Fin 16) = k := Fin.ext (Nat.mod_eq_of_lt k.isLt)
  rw [exec_bar, execBar, barOp]
  refine issueOnce_waiting hg ?_
  simp only [if_true, Mach.barWaits, hw, Option.map_some, hk]

/-- A BARW whose phase is complete goes on. -/
theorem barw_completes {k : Fin 16} (ha : AdmitsLast s.m g (.barw a)) (hn : (g.warp.one a).toNat = k.val) (hk : k.val < g.team.nbar)
    (hp : ∀ p, g.warp.bara.at k = some p → p < (g.team.bars.at k).phase) :
    ∃ x, Acts s g (.barw a) (s.m.acquireDrops g.team.die g.core .team) id x := by
  apply KeepsCourse.unchanged.acts
  rw [exec_barw, execBarw, issueLast_admits _ ha]
  simp only [hn, k.isLt, dif_pos, if_neg (Nat.not_le.mpr hk)]
  cases hb : g.warp.bara.at k with
  | none => simp only [if_true, id_eq]
  | some p => simp only [hp p hb, decide_true, if_true, id_eq]

/-- A BAR whose operands lie outside their limits traps. -/
theorem bar_traps (ha : AdmitsLast s.m g (.bar a b)) (hw : g.warp.barWait = none)
    (hb : g.team.nbar ≤ (g.warp.one a).toNat ∨ 16 ≤ (g.warp.one a).toNat ∨ g.team.teamw < (g.warp.one b).toNat) :
    exec (.bar a b) s = .next { s with m := s.m.trap g (.bar a b) (TrapRec.of 0x03) } := by
  have hnone : (if true then Mach.barWaits else fun _ _ => none) s.m g = none := by
    simp only [if_true, Mach.barWaits, hw, Option.map_none]
  rw [exec_bar, execBar, barOp]
  by_cases hbad : g.badBarrier a b = true
  · exact issueOnce_bad ha.toAdmits hnone hbad
  · rw [issueOnce_admits ha hnone (by simpa using hbad)]
    simp only [barOperands_none hb]
    rfl

end

/-- Settles O32: BAR and BARA by the slices and the arrivals at hand, a wait by its phase. -/
theorem namedBarriers : Obligations.NamedBarriers := by
  unfold Obligations.NamedBarriers
  refine ⟨fun s g i waits a b id n hi ha ho hw => ?_, fun s g a b => ⟨fun p k hg hw => ⟨fun hlt => ?_, fun hle => ?_⟩,
    fun k ha hn hk hp => barw_completes ha hn hk hp, fun ha hw hb => bar_traps ha hw hb⟩⟩
  · have hexec : exec i s = barOp i waits a b s := by
      subst hi
      cases waits with
      | false => exact exec_bara ..
      | true => exact exec_bar ..
    have hsize : i.size = 4 := by
      subst hi
      cases waits <;> rfl
    rw [hexec, barOp_admits ha ho hw]
    have hcourse : OnCourse g (s.m.barSettled g i) := barSettled_onCourse s.m
    refine ⟨fun hall => ⟨fun hf => ?_, fun ht hlt => ?_, fun ht heq => ?_⟩, fun hnot => ?_⟩
    · refine ⟨_, by simp only [lastSlice_iff.mpr hall, hf, Bool.not_true, Bool.not_false, Bool.false_eq_true, if_false, if_true]; rfl, ?_, ?_⟩
      · exact OnCourse.passes ⟨hcourse.slices, hcourse.counters, hcourse.starts, hcourse.ends⟩ hsize
      · rw [passBarrier_bara]
    · refine ⟨_, by simp only [lastSlice_iff.mpr hall, ht, hlt, Bool.not_true, Bool.false_eq_true, if_false, if_true]; rfl,
        hcourse.passes hsize, ?_⟩
      rw [passBarrier_barWait, Mach.barSettled, Warp.settle_barWait, Warp.begin_barWait, hw ht]
    · refine ⟨{ s.m.barSettled g i with barWait := some (id.val, (g.team.bars.at id).phase) },
        by simp only [lastSlice_iff.mpr hall, ht, heq, Nat.lt_irrefl, Bool.not_true, Bool.false_eq_true, if_false]; rfl, rfl,
        hcourse.slices⟩
    · have hlast : g.lastSlice = false := by simpa [← lastSlice_iff] using hnot
      exact ⟨g.waitAtBarrier (s.m.barSettled g i), by simp only [hlast, Bool.not_false, if_true], waitAtBarrier_stays s.m⟩
  · rw [bar_waits hg hw, if_pos hlt]
    exact ⟨g.passBarrier { g.warp with barWait := none }, rfl, OnCourse.passes ⟨rfl, rfl, rfl, rfl⟩ rfl, by rw [passBarrier_barWait]⟩
  · rw [bar_waits hg hw, if_neg (Nat.not_lt.mpr hle)]

/-! ### Barriers of grids -/

section
variable {s : State} {g : Issue} {i : Instr} {grid : Bool}

/-- A warp that has arrived at a barrier of its grid goes on by its phase. -/
theorem gridBar_waits {share : Option Nat} {p : Nat} (hg : s.m.issuer = some g) (hw : g.warp.gridWait = some (share, p)) :
    gridBar i grid s = .next { s with
      m := if s.m.gridDone g.team share p then
          ((s.m.acquireDrops g.team.die g.core (if grid then .pkg else .die)).joinGrid g.team share).setWarp g
            (g.passBarrier { g.warp with gridWait := none })
        else s.m } := by
  rw [gridBar]
  refine issueOnce_waiting hg ?_
  simp only [Mach.gridWaits, hw, Option.map_some]

theorem gridBar_admits (ha : AdmitsLast s.m g i) (hw : g.warp.gridWait = none) (sc : Scope) (hsc : sc = if grid then .pkg else .die)
    (share : Option Nat) (hsh : share = if grid then none else some g.team.dshare) :
    gridBar i grid s = .next { s with
      m := if !g.team.cor && g.team.plan.isNone then s.m.illegal g i .coresidency
        else if !g.lastSlice then s.m.setWarp g (g.waitAtBarrier (s.m.barSettled g i))
        else s.m.withRelease g i sc fun m =>
          (m.setWarp g { m.barSettled g i with gridWait := some (share, g.team.arrivals share) }).modTeam g.t
            (Team.gridArrive · share (g.team.arrivals share) (m.seenBy g.team.die)) } := by
  have hnone : s.m.gridWaits g (if grid then .pkg else .die) = none := by simp only [Mach.gridWaits, hw, Option.map_none]
  subst hsc hsh
  rw [gridBar, issueOnce_admits ha hnone rfl]

/-- The arrivals of a grid leave the warps of a team as they are. -/
theorem Team.gridArrive_warps (x : Team) (share : Option Nat) (p : Nat) (seen : List Nat) : (x.gridArrive share p seen).warps = x.warps := by
  unfold Team.gridArrive
  split
  · cases share <;> rfl
  · rfl

theorem warp_gridArrive (m : Mach) (t w n : Nat) (share : Option Nat) (p : Nat) (seen : List Nat) :
    (m.modTeam n (Team.gridArrive · share p seen)).warp? t w = m.warp? t w := by
  unfold Mach.warp?
  simp only [Mach.modTeam, List.getElem?_modify]
  by_cases h : n = t
  · subst h
    cases m.teams[n]? with
    | none => rfl
    | some x => simp [Team.gridArrive_warps]
  · cases m.teams[t]? <;> simp [h]

/-- The last slice of a warp at a barrier of its grid releases and arrives. -/
theorem gridBar_arrives (ha : AdmitsLast s.m g i) (hw : g.warp.gridWait = none) (sc : Scope) (hsc : sc = if grid then .pkg else .die)
    (share : Option Nat) (hsh : share = if grid then none else some g.team.dshare) (hco : g.team.cor = true ∨ g.team.plan.isSome = true)
    (hall : g.allHere) (hrel : g.releases s.m sc) :
    ∃ x m, gridBar i grid s = .next { s with m := m } ∧ m.warp? g.t g.w = some x ∧ x.gridWait = some (share, g.team.arrivals share) ∧
      x.slices = g.warp.slices := by
  have hgo : (!g.team.cor && g.team.plan.isNone) = false := by
    rcases hco with h | h
    · simp [h]
    · rw [← Option.not_isSome, h, Bool.not_true, Bool.and_false]
  have hwarp : (s.m.release g.team.die sc).warp? g.t g.w = some g.warp :=
    (warp_of_teams (teams_of_base (release_base ..)) _ _).trans (warp_issuer ha.issues)
  rw [gridBar_admits ha hw sc hsc share hsh, hgo, if_neg (by decide), lastSlice_iff.mpr hall, if_neg (by decide), withRelease_ok _ _ hrel]
  exact ⟨_, _, rfl, (warp_gridArrive ..).trans (warp_modWarp_self hwarp _), rfl, (barSettled_onCourse _).slices⟩

theorem gridBar_stays (ha : AdmitsLast s.m g i) (hw : g.warp.gridWait = none) (hco : g.team.cor = true ∨ g.team.plan.isSome = true)
    (hnot : ¬ g.allHere) : ∃ x, gridBar i grid s = .next { s with m := s.m.setWarp g x } ∧ StaysAtBarrier g x := by
  have hgo : (!g.team.cor && g.team.plan.isNone) = false := by
    rcases hco with h | h
    · simp [h]
    · rw [← Option.not_isSome, h, Bool.not_true, Bool.and_false]
  have hlast : g.lastSlice = false := by simpa [← lastSlice_iff] using hnot
  rw [gridBar_admits ha hw _ rfl _ rfl, hgo, if_neg (by decide), hlast, Bool.not_false, if_pos rfl]
  exact ⟨_, rfl, waitAtBarrier_stays s.m⟩

theorem gridBar_traps (ha : AdmitsLast s.m g i) (hw : g.warp.gridWait = none) (hc : g.team.cor = false) (hp : g.team.plan = none) :
    gridBar i grid s = .next { s with m := s.m.trap g i (TrapRec.of 0x0D) } := by
  rw [gridBar_admits ha hw _ rfl _ rfl, hc, hp]
  rfl

end

/-- Settles O33: DBAR and GBAR wait by their phase, and arrive by the slices at hand. -/
theorem gridBarriers : Obligations.GridBarriers := by
  unfold Obligations.GridBarriers
  refine fun s g => ⟨fun p hg hw => ?_, fun p hg hw => ?_, fun i sc share hi ha hw => ?_⟩
  · rw [exec_dbar, execDbar, gridBar_waits hg hw]
    refine ⟨fun hd => ⟨g.passBarrier { g.warp with gridWait := none }, by rw [if_pos hd]; rfl, OnCourse.passes ⟨rfl, rfl, rfl, rfl⟩ rfl, by rw [passBarrier_gridWait]⟩, fun hd => ?_⟩
    rw [hd]
    rfl
  · rw [exec_gbar, execGbar, gridBar_waits hg hw]
    refine ⟨fun hd => ⟨g.passBarrier { g.warp with gridWait := none }, by rw [if_pos hd]; rfl, OnCourse.passes ⟨rfl, rfl, rfl, rfl⟩ rfl, by rw [passBarrier_gridWait]⟩, fun hd => ?_⟩
    rw [hd]
    rfl
  · obtain ⟨grid, hexec, hsc, hsh⟩ : ∃ grid : Bool, exec i s = gridBar i grid s ∧ sc = (if grid then .pkg else .die) ∧
        share = if grid then none else some g.team.dshare := by
      rcases hi with ⟨rfl, rfl, rfl⟩ | ⟨rfl, rfl, rfl⟩
      · exact ⟨false, exec_dbar .., rfl, rfl⟩
      · exact ⟨true, exec_gbar .., rfl, rfl⟩
    rw [hexec]
    exact ⟨gridBar_traps ha hw, fun hco => ⟨gridBar_arrives ha hw sc hsc share hsh hco, gridBar_stays ha hw hco⟩⟩

end Sys2Proof.Machine

/-! PROOFS. Shape registers, fences and caches (spec 09 R183; 14 R265, R267, R270, R274, R290). -/

namespace Sys2Proof.Machine

section
variable {s : State} {g : Issue} {i : Instr} {h : Fin 32} {a b : Src} {sc : Scope}

/-! ### Shape registers -/

theorem shpld_completes {v : Nat} {r : Shape} {m' : Mach} (ha : AdmitsLast s.m g (.shpld h a))
    (hv : s.m.loadNow g (g.warp.pair a) 64 (g.plainly 64) = (.ok v, m')) (hr : Shape.parse v = some r) :
    ∃ x, Acts s g (.shpld h a) (m'.withTeam g fun t => { t with shapes := t.shapes.put h (some r) }) id x := by
  apply KeepsCourse.unchanged.acts
  rw [exec_shpld, execShpld, issueLast_admits _ ha, withLoad_ok _ hv, hr]
  rfl

theorem shpld_traps {v : Nat} {m' : Mach} (ha : AdmitsLast s.m g (.shpld h a))
    (hv : s.m.loadNow g (g.warp.pair a) 64 (g.plainly 64) = (.ok v, m')) (hr : Shape.parse v = none) :
    exec (.shpld h a) s = .next { s with m := m'.trap g (.shpld h a) (TrapRec.of 0x0A) } := by
  rw [exec_shpld, execShpld, issueLast_admits _ ha, withLoad_ok _ hv, hr]
  rfl

theorem shpinv_completes (ha : AdmitsLast s.m g (.shpinv h)) :
    ∃ x, Acts s g (.shpinv h) (s.m.withTeam g fun t => { t with shapes := t.shapes.put h none }) id x := by
  apply KeepsCourse.unchanged.acts
  rw [exec_shpinv, execShpinv, issueLast_admits _ ha]
  rfl

/-! ### Prefetches, fences, releases and acquires -/

theorem pref_completes (ha : AdmitsLast s.m g (.pref a b)) :
    ∃ x, Acts s g (.pref a b) (g.lanes.foldl (fun m l => m.prefetch g (g.warp.address a b l)) s.m) id x := by
  apply KeepsCourse.unchanged.acts
  rw [exec_pref, execPref, issueLast_admits _ ha]
  rfl

theorem rel_completes (ha : AdmitsLast s.m g (.rel sc)) (hr : g.releases s.m sc) :
    ∃ x, Acts s g (.rel sc) (s.m.release g.team.die sc) id x := by
  apply KeepsCourse.unchanged.acts
  rw [exec_rel, execRel, issueLast_admits _ ha, withRelease_ok _ _ hr]
  rfl

theorem acq_completes (ha : AdmitsLast s.m g (.acq sc)) : ∃ x, Acts s g (.acq sc) (s.m.acquireDrops g.team.die g.core sc) id x := by
  apply KeepsCourse.unchanged.acts
  rw [exec_acq, execAcq, issueLast_admits _ ha]
  rfl

theorem fence_completes (ha : AdmitsLast s.m g (.fence sc)) (hr : g.releases s.m sc) :
    ∃ x, Acts s g (.fence sc) ((s.m.release g.team.die sc).acquireDrops g.team.die g.core sc) id x := by
  apply KeepsCourse.unchanged.acts
  rw [exec_fence, execFence, issueLast_admits _ ha, withRelease_ok _ _ hr]
  rfl

/-! ### CWB and CINV -/

/-- A cache operation whose host and peer bytes can be taken goes on with its lines written back. -/
theorem cacheOp_reached {m : Mach} {hit : Nat → Bool} (i : Instr) (k : Mach → Mach)
    (hh : sc = .sys → ∀ k, k ∈ m.hostBytesOf g.team.die hit → m.peerHeld k = false ∧ m.targetLost k = false) :
    m.cacheOp g i sc hit k = k (m.writeBackLines g.team.die sc hit) := by
  have hb : ∀ k ∈ (if sc = .sys then m.hostBytesOf g.team.die hit else []), m.peerHeld k = false ∧ m.targetLost k = false := by
    by_cases hs : sc = .sys
    · rw [if_pos hs]
      exact hh hs
    · simp [hs]
  have hheld : (if sc = .sys then m.hostBytesOf g.team.die hit else []).any m.peerHeld = false :=
    List.any_eq_false.mpr fun k hk => by simp [(hb k hk).1]
  have hlost : (if sc = .sys then m.hostBytesOf g.team.die hit else []).filter m.targetLost = [] :=
    List.filter_eq_nil_iff.mpr fun k hk => by simp [(hb k hk).2]
  simp only [Mach.cacheOp, hheld, hlost, Bool.false_eq_true, if_false]

theorem cwb_completes (ha : AdmitsLast s.m g (.cwb sc a b)) {hit : Nat → Bool} (he : hit = g.ctx.lineMeets (g.warp.pair a) (g.warp.one b).toNat)
    (hh : sc = .sys → ∀ k, k ∈ s.m.hostBytesOf g.team.die hit → s.m.peerHeld k = false ∧ s.m.targetLost k = false) :
    ∃ x, Acts s g (.cwb sc a b) (s.m.writeBackLines g.team.die sc hit) id x := by
  subst he
  apply KeepsCourse.unchanged.acts
  rw [exec_cwb, execCwb, issueLast_admits _ ha]
  exact congrArg (fun m => Host.Outcome.next { s with m := m }) (cacheOp_reached _ _ hh)

theorem cinv_completes (ha : AdmitsLast s.m g (.cinv sc a b)) {hit : Nat → Bool} (he : hit = g.ctx.lineMeets (g.warp.pair a) (g.warp.one b).toNat)
    (hh : sc = .sys → ∀ k, k ∈ s.m.hostBytesOf g.team.die hit → s.m.peerHeld k = false ∧ s.m.targetLost k = false) :
    ∃ x, Acts s g (.cinv sc a b) ((s.m.writeBackLines g.team.die sc hit).dropLines g.team.die g.core sc hit) id x := by
  subst he
  apply KeepsCourse.unchanged.acts
  rw [exec_cinv, execCinv, issueLast_admits _ ha]
  exact congrArg (fun m => Host.Outcome.next { s with m := m }) (cacheOp_reached _ _ hh)

/-! ### ILBF -/

theorem ilbf_acts (ha : AdmitsLast s.m g .ilbf) : ∃ x, Acts s g .ilbf (s.m.noInstrLines g.team.die g.core g.warp.cluster) id x := by
  apply KeepsCourse.unchanged.acts
  rw [exec_ilbf, execIlbf, issueLast_admits _ ha]
  rfl

/-- ILBF ends the chain, so that no latch is left. -/
theorem ilbf_latches (g : Issue) : g.latchesKept .ilbf = emptyLatches := by
  have hend : (Instr.ilbf).uses.ending = true := rfl
  simp only [Issue.latchesKept, hend, Bool.or_true, Bool.true_or, if_true]

end

/-- Settles O29, instruction by instruction. -/
theorem cacheInstructions : Obligations.CacheInstructions := by
  unfold Obligations.CacheInstructions
  refine ⟨fun s g h => ⟨fun a v r m' ha hv hr => shpld_completes ha hv hr, fun a v m' ha hv hr => shpld_traps ha hv hr,
      fun ha => shpinv_completes ha⟩,
    fun s g sc a b => ⟨fun ha => pref_completes ha, fun ha hr => rel_completes ha hr, fun ha => acq_completes ha,
      fun ha hr => fence_completes ha hr, fun hh => ⟨fun ha => cwb_completes ha rfl hh, fun ha => cinv_completes ha rfl hh⟩⟩,
    fun s g ha => ?_⟩
  obtain ⟨x, hx⟩ := ilbf_acts ha
  exact ⟨x, hx.answers, hx.goes, hx.frame, hx.latches.trans (ilbf_latches g)⟩

end Sys2Proof.Machine

/-! PROOFS. A scratch access reads and writes its own bytes of the scratch of its team (spec 12 R218). -/

namespace Sys2Proof.Machine

section
variable {m : Mach} {t : Nat} {team : Team} {core : Nat} {f : Flight} {a : LaneAcc}

theorem performLane_scratch (ha : a.desc = none) :
    m.performLane t team core f a = (.done (m.performScratch t f a).1, (m.performScratch t f a).2) := by
  simp only [Mach.performLane, ha]

theorem performScratch_load {sg : Bool} (ht : m.teams[t]? = some team) (hf : f.act = .load sg) :
    m.performScratch t f a = (widen sg f.size (Mem.read team.scratch a.va f.size), m) := by
  simp only [Mach.performScratch, hf, ht]

theorem performScratch_store (hf : f.act = .store) :
    m.performScratch t f a = (0, m.modTeam t fun x => { x with scratch := Mem.write x.scratch a.va f.size a.data }) := by
  simp only [Mach.performScratch, hf]

theorem teams_modTeam_self (ht : m.teams[t]? = some team) (h : Team → Team) : (m.modTeam t h).teams[t]? = some (h team) := by
  simp [Mach.modTeam, ht]

end

/-- Settles O26: a scratch access has no descriptor, so it is performed on the bytes of its team's scratch alone. -/
theorem scratchAccesses : Obligations.ScratchAccesses := by
  intro m t team core f a ha ht
  refine ⟨fun sg hf => by rw [performLane_scratch ha, performScratch_load ht hf], fun hf => ?_⟩
  rw [performLane_scratch ha, performScratch_store hf]
  refine ⟨rfl, fun k => ?_⟩
  rw [teams_modTeam_self ht, Option.map_some, Mem.get_write]

end Sys2Proof.Machine

/-! PROOFS. What the performance of an access leaves: everything but memories and the scratch of teams (spec 21 R362, 12 R220). -/

namespace Sys2Proof.Machine

/-! ### What the performance of an access leaves alone -/

def Team.unscratched (x : Team) : Team := { x with scratch := [] }

/-- The machine without its memories, scratch included, and without the state of a domain switch. -/
def Mach.unscratched (m : Mach) : Mach := { m.base with teams := m.teams.map Team.unscratched }

theorem unscratched_of_base {m m' : Mach} (h : m'.base = m.base) : m'.unscratched = m.unscratched := by
  simp only [Mach.unscratched, h, teams_of_base h]

theorem modTeam_unscratched {f : Team → Team} (hf : ∀ x, (f x).unscratched = x.unscratched) (m : Mach) (t : Nat) :
    (m.modTeam t f).unscratched = m.unscratched := by
  have ht : (m.teams.modify t f).map Team.unscratched = m.teams.map Team.unscratched := by
    refine List.ext_getElem? fun j => ?_
    simp only [List.getElem?_map, List.getElem?_modify]
    cases m.teams[j]? with
    | none => rfl
    | some x => by_cases h : t = j <;> simp [h, hf]
  exact congrArg (fun ts => { m.base with teams := ts }) ht

theorem performScratch_unscratched (m : Mach) (t : Nat) (f : Flight) (a : LaneAcc) : (m.performScratch t f a).2.unscratched = m.unscratched := by
  unfold Mach.performScratch
  dsimp only
  split
  · rfl
  · exact modTeam_unscratched (fun _ => by simp only [Team.unscratched]) _ _
  · exact modTeam_unscratched (fun _ => by simp only [Team.unscratched]) _ _
  · rfl

theorem dieAtomic_base {m m' : Mach} {d c k n v : Nat} {f : Nat → Nat} (h : m.dieAtomic d c k n f = some (v, m')) : m'.base = m.base := by
  obtain ⟨⟨v1, m1⟩, hr, he⟩ := Option.map_eq_some_iff.mp h
  cases he
  exact (dieStore_base ..).trans (dieRead_base hr)

theorem ldaRead_base {m m' : Mach} {d k n v : Nat} {sc : Scope} (h : m.ldaRead d k n sc = some (v, m')) : m'.base = m.base := by
  have hwide (hw : Mach.ldaRead.wide m d k n = some (v, m')) : m'.base = m.base := by
    unfold Mach.ldaRead.wide at hw
    split at hw
    · cases hw
    · split at hw
      · split at hw
        · cases hw; rfl
        · obtain ⟨⟨v1, m1⟩, hr, he⟩ := Option.map_eq_some_iff.mp hw
          cases he
          exact homeLoad_base hr
      · exact homeLoad_base hw
  cases sc with
  | pkg => exact hwide h
  | sys => exact hwide h
  | lane => exact dieRead_base h
  | warp => exact dieRead_base h
  | team => exact dieRead_base h
  | die => exact dieRead_base h

theorem performAt_base {m m' : Mach} {d c v : Nat} {f : Flight} {a : LaneAcc} (h : m.performAt d c f a = some (v, m')) : m'.base = m.base := by
  unfold Mach.performAt at h
  dsimp only at h
  split at h
  · obtain ⟨⟨v1, m1⟩, hr, he⟩ := Option.map_eq_some_iff.mp h
    cases he
    split at hr
    · exact coreLoad_base hr
    · exact dieRead_base hr
  · cases h; exact dieStore_base ..
  · split at h
    · exact dieAtomic_base h
    · exact homeAtomic_base h
  · exact ldaRead_base h
  · split at h
    · cases h
    · split at h
      · cases h; exact homeStore_base ..
      · cases h; exact homeStore_base ..
      · cases h; exact dieStore_base ..
  · obtain ⟨⟨v1, m1⟩, hr, he⟩ := Option.map_eq_some_iff.mp h
    cases he
    exact homeAtomic_base hr
  · cases h; exact dieStore_base ..
  · cases h; rfl

/-- A fold of reads, each of which keeps everything but memories. -/
theorem foldl_reads_base {α : Type} (f : Nat × Mach → α → Option (Nat × Mach)) (hf : ∀ r a r', f r a = some r' → r'.2.base = r.2.base)
    (l : List α) (r r' : Nat × Mach) (h : l.foldl (fun o a => o.bind fun r => f r a) (some r) = some r') : r'.2.base = r.2.base := by
  induction l generalizing r with
  | nil => cases h; rfl
  | cons a as ih =>
    rw [List.foldl_cons, Option.bind_some] at h
    cases hr : f r a with
    | none =>
      rw [hr] at h
      have hnone : ∀ l : List α, l.foldl (fun o a => o.bind fun r => f r a) none = none := fun l => by
        induction l with
        | nil => rfl
        | cons b bs ihb => rw [List.foldl_cons, Option.bind_none, ihb]
      rw [hnone] at h
      cases h
    | some r1 =>
      rw [hr] at h
      exact (ih r1 h).trans (hf r a r1 hr)

theorem copySource_base (m : Mach) (team : Team) (f : Flight) (a : LaneAcc) : (m.copySource team f a).2.base = m.base := by
  unfold Mach.copySource
  dsimp only
  split
  · rfl
  · split
    · rfl
    · split
      · rfl
      · split
        · next v m' h =>
          exact foldl_reads_base (fun (r : Nat × Mach) (p : Nat × Nat) => (r.2.dieRead ((m.slotHome team.ctx a.va).getD team.die) (a.key + p.1) p.2).map
            fun q => (r.1 + q.1 * 2 ^ (8 * p.1), q.2)) (fun r p r' hr => by
              obtain ⟨⟨v1, m1⟩, hq, he⟩ := Option.map_eq_some_iff.mp hr
              cases he
              exact dieRead_base hq) _ (0, m) (v, m') h
        · rfl

theorem performLane_unscratched (m : Mach) (t : Nat) (team : Team) (core : Nat) (f : Flight) (a : LaneAcc) :
    (m.performLane t team core f a).2.unscratched = m.unscratched := by
  unfold Mach.performLane
  split
  · exact performScratch_unscratched ..
  · next r _ =>
    split
    · split
      · exact unscratched_of_base (copySource_base ..)
      · next hf => exact absurd rfl hf
    · rw [if_neg Bool.false_ne_true]
      have hl := lateCheck_base m team.ctx r a.va f.replay
      split
      · next h => rw [h] at hl; exact unscratched_of_base hl
      · next h => rw [h] at hl; exact unscratched_of_base hl
      · next m1 h =>
        rw [h] at hl
        dsimp only
        split
        · exact unscratched_of_base hl
        · split
          · exact unscratched_of_base hl
          · split
            · exact unscratched_of_base hl
            · split
              · next hp => exact unscratched_of_base ((performAt_base hp).trans hl)
              · exact unscratched_of_base hl

theorem performLanes_unscratched (m : Mach) (t : Nat) (team : Team) (core : Nat) (f : Flight) (as : List LaneAcc) :
    (m.performLanes t team core f as).m.unscratched = m.unscratched := by
  induction as generalizing m with
  | nil => rfl
  | cons a as ih =>
    have hl := performLane_unscratched m t team core f a
    unfold Mach.performLanes
    split
    · next h => rw [h] at hl; exact hl
    · next h => rw [h] at hl; exact (ih _).trans hl
    · next h => rw [h] at hl; exact (ih _).trans hl

/-! ### What machines that agree but for memories and scratch share -/

section
variable {m m' : Mach} (h : m'.unscratched = m.unscratched)
include h

theorem contexts_of_unscratched : m'.contexts = m.contexts := (congrArg Mach.contexts h : m'.unscratched.contexts = m.unscratched.contexts)

theorem pipes_of_unscratched : m'.pipes = m.pipes := (congrArg Mach.pipes h : m'.unscratched.pipes = m.unscratched.pipes)

theorem ctx_of_unscratched (id : Nat) : m'.ctx? id = m.ctx? id := by simp only [Mach.ctx?, contexts_of_unscratched h]

theorem pipe_of_unscratched (n : Nat) : m'.pipe? n = m.pipe? n := by simp only [Mach.pipe?, pipes_of_unscratched h]

theorem team_of_unscratched {t : Nat} {x : Team} (ht : m.teams[t]? = some x) : ∃ x', m'.teams[t]? = some x' ∧ x'.unscratched = x.unscratched := by
  have hts : m'.teams.map Team.unscratched = m.teams.map Team.unscratched := congrArg Mach.teams h
  have ht' := congrArg (·[t]?) hts
  simp only [List.getElem?_map, ht, Option.map_some] at ht'
  exact Option.map_eq_some_iff.mp ht'

theorem warp_of_unscratched (t w : Nat) : m'.warp? t w = m.warp? t w := by
  have hts : m'.teams.map Team.unscratched = m.teams.map Team.unscratched := congrArg Mach.teams h
  have ht' := congrArg (fun ts : List Team => (ts[t]?).bind fun x => x.warps[w]?) hts
  simp only [List.getElem?_map, Option.bind_map] at ht'
  unfold Mach.warp?
  cases h1 : m'.teams[t]? with
  | none =>
    cases h2 : m.teams[t]? with
    | none => rfl
    | some y => simpa [h1, h2, Team.unscratched] using ht'
  | some x => cases h2 : m.teams[t]? <;> simpa [h1, h2, Team.unscratched] using ht'

end

end Sys2Proof.Machine

/-! PROOFS. The oldest access of a warp retires, or its late fault stops the warp or the context (spec 21 R362, R363, R365; 12 R220). -/

namespace Sys2Proof.Machine

/-! ### Vector registers that a retired access writes -/

theorem setReg_at (x : Warp) (r n : Fin 64) (l k : Fin 32) (v : Word) :
    ((x.setReg r l v).v.at n).at k = if r = n ∧ l = k then v else (x.v.at n).at k := by
  unfold Warp.setReg
  rw [Tab.put_at]
  by_cases hr : n = r
  · subst hr
    rw [if_pos rfl, Tab.put_at]
    by_cases hl : k = l
    · simp [hl]
    · rw [if_neg hl, if_neg fun h => hl h.2.symm]
  · rw [if_neg hr, if_neg fun h => hr h.1.symm]

/-- A result of at most 32 bits in its register. -/
def Warp.place (x : Warp) (d : Nat × Nat × Nat) : Warp :=
  x.setReg ⟨d.2.1 % 64, by omega⟩ ⟨d.1 % 32, by omega⟩ (BitVec.ofNat 32 d.2.2)

theorem deliver_eq_place {f : Flight} (x : Warp) (hw : f.act.writes = true) (hs : f.scalar = false) (hn : f.size ≤ 4) :
    x.deliver f = f.done.foldl Warp.place x := by
  have h8 : f.size ≠ 8 := by omega
  simp only [Warp.deliver, hw, hs, h8, Bool.not_true, Bool.false_eq_true, if_false]
  rfl

theorem deliver_none {f : Flight} (x : Warp) (hw : f.act.writes = false) : x.deliver f = x := by
  simp [Warp.deliver, hw]

theorem place_frame (x : Warp) (ds : List (Nat × Nat × Nat)) :
    ds.foldl Warp.place x = { x with v := (ds.foldl Warp.place x).v, poison := (ds.foldl Warp.place x).poison } := by
  induction ds generalizing x with
  | nil => rfl
  | cons d ds ih =>
    rw [List.foldl_cons, ih]
    simp only [Warp.place, Warp.setReg]

/-- Whether a result is lane `l` of register `n`. -/
def lands (n : Fin 64) (l : Fin 32) (e : Nat × Nat × Nat) : Bool := decide (e.1 % 32 = l.val) && decide (e.2.1 % 64 = n.val)

theorem lands_iff (n : Fin 64) (l : Fin 32) (e : Nat × Nat × Nat) : lands n l e = true ↔ e.1 % 32 = l.val ∧ e.2.1 % 64 = n.val := by
  simp [lands]

theorem placed_here {n : Fin 64} {l : Fin 32} {e : Nat × Nat × Nat} :
    ((⟨e.2.1 % 64, by omega⟩ : Fin 64) = n ∧ (⟨e.1 % 32, by omega⟩ : Fin 32) = l) ↔ lands n l e = true := by
  rw [lands_iff, Fin.ext_iff, Fin.ext_iff]
  exact and_comm

theorem placed_at (x : Warp) (ds : List (Nat × Nat × Nat)) (n : Fin 64) (l : Fin 32) :
    ((ds.foldl Warp.place x).v.at n).at l = ((ds.reverse.find? (lands n l)).map fun e => BitVec.ofNat 32 e.2.2).getD ((x.v.at n).at l) := by
  induction ds using List.reverseRecOn with
  | nil => rfl
  | append_singleton ds d ih =>
    rw [List.foldl_append, List.reverse_append, List.foldl_cons, List.foldl_nil, Warp.place, setReg_at, List.reverse_singleton,
      List.singleton_append, List.find?_cons]
    cases hd : lands n l d with
    | true => rw [if_pos (placed_here.mpr hd)]; rfl
    | false => rw [if_neg fun h => by rw [placed_here.mp h] at hd; cases hd]; exact ih

theorem placed_poison (x : Warp) (ds : List (Nat × Nat × Nat)) (n : Fin 64) (l : Fin 32) :
    (n, l) ∈ (ds.foldl Warp.place x).poison ↔ (n, l) ∈ x.poison ∧ ¬ ∃ e, e ∈ ds ∧ e.1 % 32 = l.val ∧ e.2.1 % 64 = n.val := by
  induction ds generalizing x with
  | nil => simp
  | cons d ds ih =>
    rw [List.foldl_cons, ih]
    have hd : (n, l) ∈ (x.place d).poison ↔ (n, l) ∈ x.poison ∧ ¬ (d.1 % 32 = l.val ∧ d.2.1 % 64 = n.val) := by
      rw [← lands_iff, ← placed_here]
      simp only [Warp.place, Warp.setReg, List.mem_filter, decide_eq_true_eq, ne_eq, Prod.mk.injEq]
      rw [eq_comm (a := n), eq_comm (a := l)]
    rw [hd, and_assoc, ← not_or]
    simp only [List.mem_cons, exists_eq_or_imp]

/-! ### The oldest access performed in every lane -/

section
variable {m : Mach} {t w : Nat} {team : Team} {x y : Warp} {f : Flight} {fs : List Flight}

/-- The oldest access once all of its lanes have been performed. -/
def Flight.ended (f : Flight) (p : Progress) : Flight := { f with lanes := p.bad.map (·.1) ++ p.left, done := f.done ++ p.done }

theorem settleOldest_completed (ht : m.teams[t]? = some team) (hw : team.warps[w]? = some x) (hf : x.flight = f :: fs)
    (hbad : (m.performLanes t team x.core f f.lanes).bad = []) (hleft : (m.performLanes t team x.core f f.lanes).left = []) :
    m.settleOldest t w = (.completed, (m.performLanes t team x.core f f.lanes).m.complete t w team x.core
      (f.ended (m.performLanes t team x.core f f.lanes))) := by
  have hx : m.warp? t w = some x := by simp only [Mach.warp?, ht, hw]
  simp only [Mach.settleOldest, ht, hx, hf, hbad, hleft, List.isEmpty_nil, if_true, Flight.ended]

theorem exec_accessReturn_completed (s : State) (ht : s.m.teams[t]? = some team) (hw : team.warps[w]? = some x) (hf : x.flight = f :: fs)
    (hbad : (s.m.performLanes t team x.core f f.lanes).bad = []) (hleft : (s.m.performLanes t team x.core f f.lanes).left = []) :
    exec (.accessReturn t w) s = .next { s with m := (s.m.settleOldest t w).2 } := by
  rw [exec_accessReturn, execAccessReturn, always_next, settleOldest_completed ht hw hf hbad hleft]

/-! ### What a delivered message leaves of warps -/

theorem refreshMarks_warp (m : Mach) (t w : Nat) : m.refreshMarks.warp? t w = m.warp? t w := by
  simp only [Mach.warp?, Mach.refreshMarks, List.getElem?_map]
  cases m.teams[t]? with
  | none => rfl
  | some x =>
    simp only [Option.map_some]
    split <;> rfl

theorem setPipe_warp (m : Mach) (p : Pipe) (t w : Nat) : (m.setPipe p).warp? t w = m.warp? t w := refreshMarks_warp ..

theorem commitSlot_warp (m : Mach) (n j : Nat) (seen : List Nat) (t w : Nat) : (m.commitSlot n j seen).warp? t w = m.warp? t w := by
  unfold Mach.commitSlot
  split
  · exact setPipe_warp ..
  · rfl

theorem putBytes_base (m : Mach) (d ctx va n v : Nat) : (m.putBytes d ctx va n v).base = m.base := by
  refine foldl_base _ (fun m p => ?_) _ _
  split
  · exact dieStore_base ..
  · rfl

theorem poisonBytes_base (m : Mach) (d ctx va n : Nat) : (m.poisonBytes d ctx va n).base = m.base := by
  refine foldl_base _ (fun m p => ?_) _ _
  split
  · exact earlyDrain_base ..
  · rfl

theorem copyFault_warp (h : m.warp? t w = some x) (pc va skid : Nat) :
    ∃ e, (m.copyFault t w pc va skid).warp? t w = some { x with engFault := e } := by
  unfold Mach.copyFault
  split
  · exact ⟨_, warp_modWarp_self h _⟩
  · exact ⟨x.engFault, h⟩

theorem deliverMessage_warp (h : m.warp? t w = some x) (n j v : Nat) (f : Flight) :
    ∃ e, (m.deliverMessage t w n j f v).warp? t w = some { x with engFault := e } := by
  unfold Mach.deliverMessage
  split
  · exact ⟨x.engFault, h⟩
  · next p _ =>
    dsimp only
    split
    · exact copyFault_warp h ..
    · have hput (v : Nat) : (m.putBytes p.home p.ctx (p.slotAddr j) p.slotSize v).warp? t w = some x :=
        (warp_of_teams (teams_of_base (putBytes_base ..)) t w).trans h
      have hpoison (v : Nat) : ((m.putBytes p.home p.ctx (p.slotAddr j) p.slotSize v).poisonBytes p.home p.ctx (p.slotAddr j) p.slotSize).warp? t w =
          some x := (warp_of_teams (teams_of_base (poisonBytes_base ..)) t w).trans (hput v)
      split
      · exact copyFault_warp ((commitSlot_warp ..).trans (hpoison _)) ..
      · exact ⟨x.engFault, (commitSlot_warp ..).trans (hput _)⟩

/-- The warp of which the oldest access has retired. -/
def Warp.retired1 (x : Warp) (f : Flight) : Warp := (({ x with flight := x.flight.drop 1 } : Warp).deliver f).lower f.ctr

theorem complete_warp (h : m.warp? t w = some x) (core : Nat) (hlda : ∀ sc, f.act ≠ .lda sc) (hbind : ∀ k, f.act ≠ .bind k) :
    ∃ e, (m.complete t w team core f).warp? t w = some { x.retired1 f with engFault := e } ∧
      ((∀ n j, f.act ≠ .pmsg n j) → e = (x.retired1 f).engFault) := by
  have h1 : (m.modWarp t w fun x => (({ x with flight := x.flight.drop 1 }).deliver f).lower f.ctr).warp? t w = some (x.retired1 f) :=
    warp_modWarp_self h _
  unfold Mach.complete
  dsimp only
  split
  · next sc hf => exact absurd hf (hlda sc)
  · next k hf => exact absurd hf (hbind k)
  · next n j hf =>
    obtain ⟨e, he⟩ := deliverMessage_warp h1 n j ((f.done.head?.map fun q => q.2.2).getD 0) f
    exact ⟨e, he, fun hn => absurd hf (hn n j)⟩
  · exact ⟨(x.retired1 f).engFault, h1, fun _ => rfl⟩

/-! ### The retired warp -/

theorem lower_keep {β : Type} (p : Warp → β) (hs : ∀ (x : Warp) n, p { x with ifs := n } = p x) (hg : ∀ (x : Warp) n, p { x with ifg := n } = p x)
    (ht : ∀ (x : Warp) n, p { x with ift := n } = p x) (x : Warp) (c : Ctr) : p (x.lower c) = p x := by
  cases c with
  | ifs => exact hs ..
  | ifg => exact hg ..
  | ift => exact ht ..

theorem lower_counter (x : Warp) (c : Ctr) : (x.lower c).counter c = x.counter c - 1 := by cases c <;> rfl

theorem lower_with (x : Warp) (c : Ctr) (fl : List Flight) (v : Tab 64 (Tab 32 Word)) (p : List (Fin 64 × Fin 32)) :
    ({ x with flight := fl, v := v, poison := p } : Warp).lower c = { x.lower c with flight := fl, v := v, poison := p } := by
  cases c <;> simp only [Warp.lower]

/-- The warp of which the oldest access has retired: nothing but its flight, a counter and the registers that are written. -/
theorem retired1_eq (hf : x.flight = f :: fs) (hs : f.scalar = false) (hn : f.size ≤ 4) {f' : Flight} (hact : f'.act = f.act)
    (hscalar : f'.scalar = f.scalar) (hsize : f'.size = f.size) (hctr : f'.ctr = f.ctr) :
    x.retired1 f' = { x.lower f.ctr with
      flight := fs
      v := if f.act.writes then (f'.done.foldl Warp.place x).v else x.v
      poison := if f.act.writes then (f'.done.foldl Warp.place x).poison else x.poison } := by
  have hdrop : x.flight.drop 1 = fs := by rw [hf]; rfl
  have hw : f'.act.writes = f.act.writes := by rw [hact]
  unfold Warp.retired1
  rw [hdrop, hctr]
  cases hwr : f.act.writes with
  | false =>
    rw [deliver_none _ (hw.trans hwr)]
    simp only [Bool.false_eq_true, if_false]
    exact (lower_with x f.ctr fs x.v x.poison).trans rfl
  | true =>
    rw [deliver_eq_place _ (hw.trans hwr) (hscalar.trans hs) (hsize ▸ hn)]
    have hplace : f'.done.foldl Warp.place { x with flight := fs } = { f'.done.foldl Warp.place x with flight := fs } :=
      List.foldl_hom (fun x : Warp => { x with flight := fs }) fun x d => by simp only [Warp.place, Warp.setReg]
    rw [hplace, place_frame x, if_pos rfl, if_pos rfl]
    exact lower_with x f.ctr fs _ _

end

end Sys2Proof.Machine

/-! PROOFS. The late fault of the oldest access, and the accesses that retire (spec 21 R362, R363, R365). -/

namespace Sys2Proof.Machine

/-! ### What stays of a warp that a late fault stops -/

/-- The registers that stay, and nothing in flight. -/
structure Warp.Halts (x y : Warp) : Prop where
  s : y.s = x.s
  exec : y.exec = x.exec
  cm : y.cm = x.cm
  k : y.k = x.k
  ren : y.ren = x.ren
  mma : x.mma = [] → y.mma = []
  v : x.mma = [] → y.v = x.v
  poison : x.mma = [] → y.poison = x.poison

theorem Warp.Halts.refl (x : Warp) : x.Halts x := ⟨rfl, rfl, rfl, rfl, rfl, fun h => h, fun _ => rfl, fun _ => rfl⟩

theorem Warp.Halts.trans {x y z : Warp} (h1 : x.Halts y) (h2 : y.Halts z) : x.Halts z :=
  ⟨h2.s.trans h1.s, h2.exec.trans h1.exec, h2.cm.trans h1.cm, h2.k.trans h1.k, h2.ren.trans h1.ren, fun h => h2.mma (h1.mma h),
    fun h => (h2.v (h1.mma h)).trans (h1.v h), fun h => (h2.poison (h1.mma h)).trans (h1.poison h)⟩

theorem lower_halts (x : Warp) (c : Ctr) : x.Halts (x.lower c) := by
  cases c <;> exact ⟨rfl, rfl, rfl, rfl, rfl, fun h => h, fun _ => rfl, fun _ => rfl⟩

theorem lowers_halts (x : Warp) (fs : List Flight) : x.Halts (fs.foldl (fun y f => y.lower f.ctr) x) := by
  induction fs generalizing x with
  | nil => exact .refl x
  | cons f fs ih => exact (lower_halts x f.ctr).trans (ih _)

theorem cancelAfter_halts (x : Warp) (n : Nat) : x.Halts (x.cancelAfter n) := by
  unfold Warp.cancelAfter
  split
  · next f fs _ =>
    obtain ⟨hs, he, hc, hk, hr, hm, hv, hp⟩ := lowers_halts x (f :: fs)
    exact ⟨hs, he, hc, hk, hr, hm, hv, hp⟩
  · exact .refl x

theorem cancelLater_halts (x : Warp) : x.Halts x.cancelLater := by
  obtain ⟨hs, he, hc, hk, hr, hm, hv, hp⟩ := cancelAfter_halts x 1
  exact ⟨hs, he, hc, hk, hr, hm, hv, hp⟩

theorem drainMma_halts (x : Warp) : x.Halts x.drainMma where
  s := drainMma_s x
  exec := drainMma_keep (·.exec) (fun _ _ _ _ => by simp) (fun _ => rfl) x
  cm := drainMma_keep (·.cm) (fun _ _ _ _ => by simp) (fun _ => rfl) x
  k := drainMma_keep (·.k) (fun _ _ _ _ => by simp) (fun _ => rfl) x
  ren := drainMma_keep (·.ren) (fun _ _ _ _ => by simp) (fun _ => rfl) x
  mma _ := rfl
  v h := by rw [Warp.drainMma, h]; rfl
  poison h := by rw [Warp.drainMma, h]; rfl

theorem drainMma_flight (x : Warp) : x.drainMma.flight = x.flight :=
  drainMma_keep (·.flight) (fun _ _ _ _ => by simp) (fun _ => rfl) x

theorem boundary_halts (x : Warp) : x.Halts { x.drainMma.noLatch with chain := none } := by
  obtain ⟨hs, he, hc, hk, hr, hm, hv, hp⟩ := drainMma_halts x
  exact ⟨hs, he, hc, hk, hr, hm, hv, hp⟩

theorem atBoundary_halts (m : Mach) (team : Team) (x : Warp) : x.Halts (m.atBoundary team x) := by
  unfold Mach.atBoundary
  refine .trans ?_ (boundary_halts _)
  split
  · split
    · exact ⟨rfl, rfl, rfl, rfl, rfl, fun h => h, fun _ => rfl, fun _ => rfl⟩
    · exact .refl x
  · exact .refl x

theorem atBoundary_flight (m : Mach) (team : Team) {x : Warp} (h : x.flight = []) : (m.atBoundary team x).flight = [] := by
  unfold Mach.atBoundary
  dsimp only [Warp.noLatch]
  rw [drainMma_flight]
  split
  · split
    · simp [Warp.rewind, Warp.setPc, h]
    · exact h
  · exact h

theorem stoppedBy_halts (x : Warp) (gang : BitVec 8) (pc : Nat) (p : Pending) : x.Halts (x.stoppedBy gang pc p) := by
  obtain ⟨hs, he, hc, hk, hr, hm, hv, hp⟩ := drainMma_halts x
  exact ⟨hs, he, hc, hk, hr, hm, hv, hp⟩

theorem stoppedBy_flight {x : Warp} (h : x.flight = []) (gang : BitVec 8) (pc : Nat) (p : Pending) : (x.stoppedBy gang pc p).flight = [] :=
  (drainMma_flight x).trans h

theorem lower_flight (x : Warp) (c : Ctr) : (x.lower c).flight = x.flight := by cases c <;> rfl

/-! ### The late fault -/

section
variable {m : Mach} {t w : Nat} {team : Team} {x : Warp} {c : Context} {f : Flight} {a : LaneAcc} {cause gs : Nat}

/-- The warp at the stop point of a late fault, its oldest access retired at a quota breach. -/
def Mach.lateWarp (m : Mach) (team : Team) (x : Warp) (f : Flight) (cause : Nat) : Warp :=
  if cause = 0x35 then (m.atBoundary team x.cancelLater).lower f.ctr else m.atBoundary team x.cancelLater

theorem lateWarp_halts (m : Mach) (team : Team) (x : Warp) (f : Flight) (cause : Nat) : x.Halts (m.lateWarp team x f cause) := by
  have h := (cancelLater_halts x).trans (atBoundary_halts m team x.cancelLater)
  unfold Mach.lateWarp
  split
  · exact h.trans (lower_halts ..)
  · exact h

theorem lateWarp_flight (m : Mach) (team : Team) (x : Warp) (f : Flight) (cause : Nat) : (m.lateWarp team x f cause).flight = [] := by
  have h : (m.atBoundary team x.cancelLater).flight = [] := atBoundary_flight m team rfl
  unfold Mach.lateWarp
  split
  · exact (lower_flight ..).trans h
  · exact h

/-- What a late fault takes. -/
theorem takeLate_takes (hx : m.warp? t w = some x) (team : Team) (f : Flight) (a : LaneAcc) (cause gs : Nat) :
    ∃ (gang : BitVec 8) (pc : Nat) (late : Option Flight) (r : TrapRec),
      m.takeLate t w team f a cause gs =
        (m.modWarp t w fun _ => m.lateWarp team x f cause).takeEvent t w gang pc f.next late false false r ∧
      r.cause = cause ∧ r.lane = a.lane ∧ r.va = a.va ∧ r.pc = f.pc ∧ r.iword = f.iword := by
  unfold Mach.takeLate
  simp only [hx]
  exact ⟨_, _, _, _, rfl, rfl, rfl, rfl, rfl, rfl⟩

theorem teams_modWarp {x' : Team} (ht : m.teams[t]? = some x') (w : Nat) (f : Warp → Warp) :
    (m.modWarp t w f).teams[t]? = some (x'.modWarp w f) := teams_modTeam_self ht _

variable {team' : Team} (ht : m.teams[t]? = some team') (hx : m.warp? t w = some x) (hc : m.ctx? team'.ctx = some c) (hs : team'.served = none)
include ht hx hc hs

theorem takeLate_handled (hr : c.routeOf (causeGroup cause) = 1) :
    ∃ y p va, (m.takeLate t w team f a cause gs).warp? t w = some y ∧ y.run = .stopped ∧ y.trap = some p ∧
      p.rcd.cause = cause ∧ p.rcd.lane = a.lane ∧ p.rcd.va = a.va ∧ p.rcd.pc = f.pc ∧ p.rcd.iword = f.iword ∧ y.flight = [] ∧ x.Halts y ∧
      ((m.takeLate t w team f a cause gs).ctx? team'.ctx).map (·.traps) = some (c.traps ++ [.warp t w p.rcd va]) := by
  obtain ⟨gang, pc, late, r, he, rfl, hlane, hva, hpc, hiword⟩ := takeLate_takes hx team f a cause gs
  obtain ⟨p, va, hp, -, -, -, -, hw, hq, -, -⟩ := takeEvent_handled gang pc f.next late false false r (teams_modWarp ht w _)
    (warp_modWarp_self hx _) hs hc hr
  rw [he]
  exact ⟨_, p, va, hw, rfl, rfl, hp ▸ rfl, hp ▸ hlane, hp ▸ hva, hp ▸ hpc, hp ▸ hiword, stoppedBy_flight (lateWarp_flight ..) ..,
    (lateWarp_halts ..).trans (stoppedBy_halts ..), hq⟩

theorem takeLate_stops (hr : c.routeOf (causeGroup cause) = 0) :
    ((m.takeLate t w team f a cause gs).ctx? team'.ctx).map (·.halt) = some (some .stopped) := by
  obtain ⟨gang, pc, late, r, he, rfl, -⟩ := takeLate_takes hx team f a cause gs
  rw [he]
  exact takeEvent_stops (team := team'.modWarp w fun _ => m.lateWarp team x f r.cause) gang pc f.next late false false (teams_modWarp ht w _)
    (warp_modWarp_self hx _) hs hc hr

end

section
variable {m : Mach} {t w : Nat} {team : Team} {x : Warp} {f : Flight} {fs : List Flight} {a : LaneAcc} {cause gs : Nat}
  {bad : List (LaneAcc × Nat × Nat)} {c : Context}

theorem settleOldest_faulted (ht : m.teams[t]? = some team) (hw : team.warps[w]? = some x) (hc : m.ctx? team.ctx = some c)
    (hh : c.halt = none) (hrun : x.run = .ready) (hf : x.flight = f :: fs)
    (hbad : (m.performLanes t team x.core f f.lanes).bad = (a, cause, gs) :: bad)
    (hleft : (m.performLanes t team x.core f f.lanes).left = []) :
    m.settleOldest t w = (.faulted, (m.performLanes t team x.core f f.lanes).m.takeLate t w team
      (f.ended (m.performLanes t team x.core f f.lanes)) a cause gs) := by
  have hx : m.warp? t w = some x := by simp only [Mach.warp?, ht, hw]
  simp only [Mach.settleOldest, ht, hx, hf, hbad, hleft, hrun, hc, hh, Flight.ended, List.isEmpty_nil, Option.isNone_none, decide_true,
    Bool.and_self, if_true]

end

/-- Settles O28: an access retires when all of its lanes have been performed, which leaves every warp; if a lane faults, the event is taken
at the stop point. -/
theorem accessesReturn : Obligations.AccessesReturn := by
  refine ⟨?_, ?_⟩
  · intro s t w team x f fs ht hw hf hscalar hsize hlda hbind hbad hleft
    dsimp only
    have hsettled := settleOldest_completed ht hw hf hbad hleft
    have hexec := exec_accessReturn_completed s ht hw hf hbad hleft
    have hx : s.m.warp? t w = some x := by simp only [Mach.warp?, ht, hw]
    have hx1 := (warp_of_unscratched (performLanes_unscratched s.m t team x.core f f.lanes) t w).trans hx
    generalize hp : s.m.performLanes t team x.core f f.lanes = p at *
    obtain ⟨e, hy, he⟩ := complete_warp hx1 x.core (f := f.ended p) hlda hbind
    rw [retired1_eq hf hscalar hsize (f' := f.ended p) rfl rfl rfl rfl] at hy he
    rw [hsettled] at hexec
    refine ⟨_, _, hexec, hy, rfl, ?_, fun n l => ?_, fun n l => ?_, fun hn => ?_, rfl⟩
    · rw [← lower_counter]
      cases f.ctr <;> rfl
    · dsimp only
      have hat := placed_at x (f.ended p).done n l
      cases f.act.writes with
      | true =>
        rw [if_pos rfl, hat]
        split <;> (next hfind => rw [show (f.ended p).done.reverse.find? (lands n l) = _ from hfind]; rfl)
      | false =>
        rw [if_neg Bool.false_ne_true]
        split <;> rfl
    · dsimp only
      cases hwr : f.act.writes with
      | true =>
        simp only [if_true, true_and]
        exact placed_poison x (f.ended p).done n l
      | false => simp
    · exact (he hn).trans (by cases f.ctr <;> rfl)
  · intro s t w team x c f fs a cause gs bad ht hw hc hh hrun hs hf hbad hleft
    have hx : s.m.warp? t w = some x := by simp only [Mach.warp?, ht, hw]
    have hsettled := settleOldest_faulted ht hw hc hh hrun hf hbad hleft
    have hexec : exec (.lateFault t w) s = .next { s with m := (s.m.settleOldest t w).2 } := by
      rw [exec_lateFault, execLateFault, always_next, hsettled]
    rw [hsettled] at hexec
    have hkeep := performLanes_unscratched s.m t team x.core f f.lanes
    have hx' := (warp_of_unscratched hkeep t w).trans hx
    obtain ⟨team', ht', hteam⟩ := team_of_unscratched hkeep ht
    have hctx : team'.ctx = team.ctx := (congrArg Team.ctx hteam : team'.unscratched.ctx = team.unscratched.ctx)
    have hserved : team'.served = none := (congrArg Team.served hteam : team'.unscratched.served = team.unscratched.served).trans hs
    have hc' : (s.m.performLanes t team x.core f f.lanes).m.ctx? team'.ctx = some c := by
      rw [hctx, ctx_of_unscratched hkeep]
      exact hc
    refine ⟨fun hr => ?_, fun hr => ?_⟩
    · obtain ⟨y, p, va, hy, hyrun, htrap, hcause, hlane, hva, hpc, hiword, hflight, hkept, htraps⟩ := takeLate_handled (team := team)
        (f := f.ended (s.m.performLanes t team x.core f f.lanes)) (a := a) (cause := cause) (gs := gs) ht' hx' hc' hserved hr
      rw [hctx] at htraps
      exact ⟨_, y, p, va, hexec, hy, hyrun, htrap, hcause, hlane, hva, hpc, hiword, hflight, hkept.s, hkept.exec, hkept.cm, hkept.k, hkept.ren,
        fun h => ⟨hkept.v h, hkept.poison h⟩, htraps⟩
    · have hstop := takeLate_stops (team := team) (f := f.ended (s.m.performLanes t team x.core f f.lanes)) (a := a) (cause := cause) (gs := gs)
        ht' hx' hc' hserved hr
      rw [hctx] at hstop
      exact ⟨_, hexec, hstop⟩

end Sys2Proof.Machine

/-! PROOFS. Residency requests and the quota step (spec 13 R247, R251; 14 R287). -/

namespace Sys2Proof.Machine

section
variable {s : State} {g : Issue} {d : Fin 32} {a b : Src} {n st va : Nat} {r : RangeDesc}

/-- What a request does once its operands are read: its granules, its status. -/
structure RresAsk (s : State) (g : Issue) (d : Fin 32) (a b : Src) (n st : Nat) : Prop where
  admits : AdmitsLast s.m g (.rres d a b)
  word : (g.warp.one b).toNat = n + st * 2 ^ 30
  least : 1 ≤ n
  fits : n < 2 ^ 30

/-- The granules from an address. -/
def granulesFrom (va n : Nat) : List Nat := (List.range n).map (va / 65536 + ·)

/-- The machine in which the granules of a request have their new state. -/
def Mach.setGranules (m : Mach) (ctx : Nat) (r : RangeDesc) (gs : List Nat) (st : Nat) : Mach :=
  gs.foldl (fun m k => m.setResidency ctx r k st) m

section
variable (h : RresAsk s g d a b n st)
include h

theorem RresAsk.count : (g.warp.one b).toNat % 2 ^ 30 = n := by
  rw [h.word, Nat.add_mul_mod_self_right, Nat.mod_eq_of_lt h.fits]

theorem RresAsk.state : (g.warp.one b).toNat / 2 ^ 30 = st := by
  rw [h.word, Nat.add_mul_div_right _ _ (Nat.two_pow_pos 30), Nat.div_eq_of_lt h.fits, Nat.zero_add]

theorem RresAsk.operand : decide ((g.warp.one b).toNat % 2 ^ 30 = 0) = false := by
  have := h.least
  rw [h.count]
  exact decide_eq_false (by omega)

variable (hva : g.warp.pair a = va)
include hva

theorem RresAsk.noRange (hr : findRange g.ctx.ranges va = none) :
    ∃ x, Acts s g (.rres d a b) s.m (fun y => y.setS d (BitVec.ofNat 32 1)) x := (KeepsCourse.setS d _).acts <| by
  rw [exec_rres, execRres, issueOperand_admits _ _ _ h.admits.toAdmits h.operand]
  simp only [h.admits.alone, hva, hr, List.isEmpty_nil, Bool.not_true, Bool.false_eq_true, if_false]

variable (hr : findRange g.ctx.ranges va = some r)
include hr

theorem RresAsk.notPartial (hp : r.isPartial = false) :
    ∃ x, Acts s g (.rres d a b) s.m (fun y => y.setS d (BitVec.ofNat 32 5)) x := (KeepsCourse.setS d _).acts <| by
  rw [exec_rres, execRres, issueOperand_admits _ _ _ h.admits.toAdmits h.operand]
  simp only [h.admits.alone, hva, hr, hp, List.isEmpty_nil, Bool.not_true, Bool.not_false, Bool.false_eq_true, if_false, if_true]

variable (hp : r.isPartial = true)
include hp

theorem RresAsk.pastEnd (hend : r.lastg < va / 65536 + n - 1) :
    ∃ x, Acts s g (.rres d a b) s.m (fun y => y.setS d (BitVec.ofNat 32 6)) x := (KeepsCourse.setS d _).acts <| by
  rw [exec_rres, execRres, issueOperand_admits _ _ _ h.admits.toAdmits h.operand]
  simp only [h.admits.alone, hva, hr, hp, h.count, hend, List.isEmpty_nil, Bool.not_true, Bool.false_eq_true, if_false, if_true]

variable (hend : va / 65536 + n - 1 ≤ r.lastg) (hpress : s.m.pressed g.team.ctx r (va / 65536) n = false)
include hend hpress

theorem RresAsk.alreadyResident (h3 : st = 3) (hres : s.m.residents g.team.ctx r (granulesFrom va n) = n) :
    ∃ x, Acts s g (.rres d a b) s.m (fun y => y.setS d (BitVec.ofNat 32 0)) x := (KeepsCourse.setS d _).acts <| by
  rw [exec_rres, execRres, issueOperand_admits _ _ _ h.admits.toAdmits h.operand]
  simp only [granulesFrom] at hres
  simp only [h.admits.alone, hva, hr, hp, h.count, h.state, Nat.not_lt.mpr hend, hpress, h3, hres, List.isEmpty_nil, Bool.not_true,
    Bool.false_eq_true, if_false, if_true]

theorem RresAsk.charged (h3 : st = 3) (hres : s.m.residents g.team.ctx r (granulesFrom va n) ≠ n) {m1 : Mach}
    (hc : s.m.charge g.team.ctx r.agent (n - s.m.residents g.team.ctx r (granulesFrom va n)) = some m1) :
    ∃ x, Acts s g (.rres d a b) (m1.setGranules g.team.ctx r (granulesFrom va n) 3) (fun y => y.setS d (BitVec.ofNat 32 0)) x := (KeepsCourse.setS d _).acts <| by
  rw [exec_rres, execRres, issueOperand_admits _ _ _ h.admits.toAdmits h.operand]
  simp only [granulesFrom] at hres hc
  simp only [h.admits.alone, hva, hr, hp, h.count, h.state, Nat.not_lt.mpr hend, hpress, h3, if_neg hres, hc, List.isEmpty_nil, Bool.not_true,
    Bool.false_eq_true, if_false, if_true]
  rfl

theorem RresAsk.breach (h3 : st = 3) (hres : s.m.residents g.team.ctx r (granulesFrom va n) ≠ n)
    (hc : s.m.charge g.team.ctx r.agent (n - s.m.residents g.team.ctx r (granulesFrom va n)) = none) :
    exec (.rres d a b) s = .next { s with
      m := s.m.takeEvent g.t g.w g.gang (g.resumeAt s.m (.rres d a b)) (g.after (.rres d a b)) none false true
        { TrapRec.of 0x37 with
          pc := s.m.trapPc g, rpc := g.resumeAt s.m (.rres d a b), iword := (Instr.rres d a b).word, va := va, agent := r.agent
          limit := (s.m.quota g.team.ctx r.agent).1, used := (s.m.quota g.team.ctx r.agent).2 } } := by
  have hrpc : s.m.rpcOf g (.rres d a b) = g.resumeAt s.m (.rres d a b) := rpcOf_eq fun _ _ e => nomatch e
  rw [exec_rres, execRres, issueOperand_admits _ _ _ h.admits.toAdmits h.operand]
  simp only [granulesFrom] at hres hc
  simp only [h.admits.alone, hva, hr, hp, h.count, h.state, Nat.not_lt.mpr hend, hpress, h3, if_neg hres, hc, hrpc, Issue.after, List.isEmpty_nil,
    Bool.not_true, Bool.false_eq_true, if_false, if_true]

theorem RresAsk.noneLeaves (h3 : st ≠ 3) (hres : s.m.residents g.team.ctx r (granulesFrom va n) = 0) :
    ∃ x, Acts s g (.rres d a b) (s.m.setGranules g.team.ctx r (granulesFrom va n) st) (fun y => y.setS d (BitVec.ofNat 32 0)) x := (KeepsCourse.setS d _).acts <| by
  rw [exec_rres, execRres, issueOperand_admits _ _ _ h.admits.toAdmits h.operand]
  simp only [granulesFrom] at hres
  simp only [h.admits.alone, hva, hr, hp, h.count, h.state, Nat.not_lt.mpr hend, hpress, if_neg h3, hres, List.isEmpty_nil, Bool.not_true,
    Bool.false_eq_true, if_false, if_true]
  rfl

theorem RresAsk.credited (h3 : st ≠ 3) (hres : s.m.residents g.team.ctx r (granulesFrom va n) ≠ 0) :
    ∃ x, Acts s g (.rres d a b)
      ((s.m.credit g.team.ctx r.agent (s.m.residents g.team.ctx r (granulesFrom va n))).setGranules g.team.ctx r (granulesFrom va n) st)
      (fun y => y.setS d (BitVec.ofNat 32 0)) x := (KeepsCourse.setS d _).acts <| by
  rw [exec_rres, execRres, issueOperand_admits _ _ _ h.admits.toAdmits h.operand]
  simp only [granulesFrom] at hres
  simp only [h.admits.alone, hva, hr, hp, h.count, h.state, Nat.not_lt.mpr hend, hpress, if_neg h3, if_neg hres, List.isEmpty_nil, Bool.not_true,
    Bool.false_eq_true, if_false]
  rfl

end

end

theorem charge_fits {m : Mach} {ctx agent n : Nat} (h : (m.quota ctx agent).2 + 65536 * n ≤ (m.quota ctx agent).1) :
    m.charge ctx agent n = some (m.setUsed ctx agent ((m.quota ctx agent).2 + 65536 * n)) := if_pos h

theorem charge_refused {m : Mach} {ctx agent n : Nat} (h : (m.quota ctx agent).1 < (m.quota ctx agent).2 + 65536 * n) :
    m.charge ctx agent n = none := if_neg (Nat.not_le.mpr h)

/-- Settles O37: RRES by the tests of 14 R287 in their order, each of which has one outcome. -/
theorem residencyRequests : Obligations.ResidencyRequests := by
  refine ⟨fun s g d a b n st va ha hw h1 hn hva => ?_, fun m ctx agent n hle => ⟨charge_fits hle, charge_refused⟩⟩
  have h : RresAsk s g d a b n st := ⟨ha, hw, h1, hn⟩
  dsimp only
  exact ⟨h.noRange hva, fun r hr => ⟨h.notPartial hva hr, h.pastEnd hva hr, fun hp hend hpress =>
    ⟨h.alreadyResident hva hr hp hend hpress, fun m1 h3 hres hc => h.charged hva hr hp hend hpress h3 hres hc,
      fun m1 h3 hres hc hm => hm ▸ h.breach hva hr hp hend hpress h3 hres hc, h.noneLeaves hva hr hp hend hpress,
      h.credited hva hr hp hend hpress⟩⟩⟩

end Sys2Proof.Machine

/-! PROOFS. Requests of the press and the move of their lines (spec 13 R256; 14 R288, R289). -/

namespace Sys2Proof.Machine

/-! ### RPRESS -/

section
variable {s : State} {g : Issue} {d : Fin 32} {a : Src} {v : Nat}

/-- The machine with a request accepted. -/
def Mach.pressing (m : Mach) (x : Press) : Mach := { m with press := m.press ++ [x] }

variable (ha : AdmitsLast s.m g (.rpress d a))
include ha

theorem rpress_unreadable (hb : s.m.pressBlock g (g.warp.pair a) = none) : ∃ x, Acts s g (.rpress d a) s.m (fun y => y.setS d 1) x :=
  (KeepsCourse.setS d _).acts <| by
    rw [exec_rpress, execRpress, issueLast_admits _ ha]
    simp only [hb, Option.map_none]
    rfl

variable (hb : s.m.pressBlock g (g.warp.pair a) = some v)
include hb

theorem rpress_invalid (hok : (PressAsk.parse v).ok = false) : ∃ x, Acts s g (.rpress d a) s.m (fun y => y.setS d 1) x :=
  (KeepsCourse.setS d _).acts <| by
    rw [exec_rpress, execRpress, issueLast_admits _ ha]
    simp only [hb, Option.map_some, hok, Bool.not_false, if_true]
    rfl

variable (hok : (PressAsk.parse v).ok = true)
include hok

theorem rpress_taken (hd : s.m.destinationFree (PressAsk.parse v) (blockSum ((PressAsk.parse v).blocks g.ctx.ranges)) = false) :
    ∃ x, Acts s g (.rpress d a) s.m (fun y => y.setS d 2) x :=
  (KeepsCourse.setS d _).acts <| by
    rw [exec_rpress, execRpress, issueLast_admits _ ha]
    simp only [hb, Option.map_some, hok, hd, Bool.not_true, Bool.not_false, Bool.false_eq_true, if_true, if_false]
    rfl

variable (hd : s.m.destinationFree (PressAsk.parse v) (blockSum ((PressAsk.parse v).blocks g.ctx.ranges)) = true)
include hd

theorem rpress_full (hf : 8 ≤ s.m.press.length) : ∃ x, Acts s g (.rpress d a) s.m (fun y => y.setS d 3) x :=
  (KeepsCourse.setS d _).acts <| by
    rw [exec_rpress, execRpress, issueLast_admits _ ha]
    simp only [hb, Option.map_some, hok, hd, show Config.pressLimit ≤ s.m.press.length from hf, Bool.not_true, Bool.false_eq_true, if_true,
      if_false]
    rfl

theorem rpress_accepted (hf : s.m.press.length < 8) :
    ∃ x, Acts s g (.rpress d a)
      (s.m.pressing ⟨g.team.ctx, g.team.die, (PressAsk.parse v).frm, (PressAsk.parse v).cls, (PressAsk.parse v).ngr, (PressAsk.parse v).dest,
        (PressAsk.parse v).cnt, (PressAsk.parse v).blocks g.ctx.ranges, 0, false, []⟩) (fun y => y.setS d 0) x :=
  (KeepsCourse.setS d _).acts <| by
    rw [exec_rpress, execRpress, issueLast_admits _ ha]
    simp only [hb, Option.map_some, hok, hd, show ¬ Config.pressLimit ≤ s.m.press.length from Nat.not_le.mpr hf, Bool.not_true,
      Bool.false_eq_true, if_false]
    rfl

end

/-! ### The move of a line -/

theorem keyClass_lt_of_ne {k : Nat} (h : keyClass k ≠ 4) : storeKey k = k := if_neg h

theorem Mem.read_byte (m : Mem) (a n i : Nat) (h : i < n) : BitVec.ofNat 8 (Mem.read m a n / 256 ^ i) = Mem.get m (a + i) := by
  induction n generalizing a i with
  | zero => omega
  | succ n ih =>
    have hlt : (Mem.get m a).toNat < 256 := (Mem.get m a).isLt
    cases i with
    | zero =>
      refine BitVec.eq_of_toNat_eq ?_
      simp only [Mem.read, Nat.pow_zero, Nat.div_one, BitVec.toNat_ofNat, Nat.add_zero]
      omega
    | succ i =>
      rw [Mem.read, Nat.pow_succ', ← Nat.div_div_eq_div_mul, show ((Mem.get m a).toNat + 256 * Mem.read m (a + 1) n) / 256 = Mem.read m (a + 1) n by omega,
        ih (a + 1) i (by omega), show a + 1 + i = a + (i + 1) by omega]

theorem storeKey_line (k : Nat) (h : k % 128 = 0) : storeKey k % 128 = 0 := by
  unfold storeKey
  split
  · next h4 =>
    have : 2 ^ 70 ≤ k := by
      unfold keyClass at h4
      by_contra hlt
      split at h4
      · cases h4
      · split at h4
        · cases h4
        · split at h4
          · cases h4
          · split at h4
            · cases h4
            · omega
    omega
  · exact h

theorem physKey_line (cls : Nat) : physKey cls 0 0 % 128 = 0 := by
  unfold physKey
  split <;> decide

/-- The line to which a request has moved a line, if it has. -/
theorem moved_line {r : Press} {k k' : Nat} (hk : k % 128 = 0) (h : r.moved? k = some k') : k' % 128 = 0 := by
  unfold Press.moved? at h
  dsimp only at h
  have hbase := physKey_line r.cls
  split at h
  · cases h
  · split at h
    · split at h
      · obtain ⟨p, -, rfl⟩ := Option.map_eq_some_iff.mp h
        omega
      · cases h
    · cases h

/-- A whole line written at its home holds its bytes there. -/
theorem lineWrite_line_byte (m : Mach) (k v i : Nat) (hk : k % 128 = 0) (h4 : keyClass k ≠ 4) (hi : i < 128) :
    Mem.get (m.lineWrite k 128 v).home (k + i) = BitVec.ofNat 8 (v / 256 ^ i) := by
  have hfirst : Mem.get (m.rawWrite k 128 v).home (k + i) = BitVec.ofNat 8 (v / 256 ^ i) := by
    rw [Mach.rawWrite_home, keyClass_lt_of_ne h4, Mem.get_write, if_pos (by omega), Nat.add_sub_cancel_left]
  unfold Mach.lineWrite
  split
  · next k' hm =>
    obtain ⟨r, -, hr⟩ := List.exists_of_findSome?_eq_some hm
    have hk' := storeKey_line k' (moved_line hk hr)
    rw [Mach.rawWrite_home, Mem.get_write]
    split
    · have : storeKey k' = k := by omega
      rw [this, Nat.add_sub_cancel_left]
    · exact hfirst
  · exact hfirst

theorem homeWrite_line (m : Mach) (k v : Nat) (hk : k % 128 = 0) : m.homeWrite k 128 v = m.lineWrite k 128 v := by
  simp [Mach.homeWrite, lineParts, hk]

theorem carryMarks_home (m : Mach) (old new : Nat) : (m.carryMarks old new).home = m.home := by
  unfold Mach.carryMarks
  refine foldl_same (·.home) _ (fun m i => ?_) _ _
  dsimp only
  split <;> rfl

theorem carryMarks_base (m : Mach) (old new : Nat) : (m.carryMarks old new).base = m.base := by
  unfold Mach.carryMarks
  refine foldl_base _ (fun m i => ?_) _ _
  dsimp only
  split <;> rfl

theorem pastCaches_base (m : Mach) (k n v : Nat) : (m.pastCaches k n v).base = m.base := homeWrite_base ..

theorem press_of_base {m m' : Mach} (h : m'.base = m.base) : m'.press = m.press := (congrArg Mach.press h : m'.base.press = m.base.press)

section
variable {m : Mach} {r : Nat} {p : Press} {old new : Nat}

/-- The machine in which a line of a request has moved, its count left. -/
def Mach.moveLine (m : Mach) (p : Press) (old new : Nat) : Mach :=
  if m.lineMoves p old then
    (m.pastCaches (128 * (lineOf (physKey p.cls 0 0) + new)) 128 (m.homeRead (128 * (lineOf (physKey p.cls 0 0) + old)) 128)).carryMarks
      (lineOf (physKey p.cls 0 0) + old) (lineOf (physKey p.cls 0 0) + new)
  else m

theorem exec_pressLineMove_some (s : State) (hp : s.m.press[r]? = some p) (hl : blockLine p.blocks p.dest p.moved = some (old, new)) :
    exec (.pressLineMove r) s = .next { s with
      m := { s.m.moveLine p old new with press := (s.m.moveLine p old new).press.modify r fun q => { q with moved := q.moved + 1 } } } := by
  rw [exec_pressLineMove, execPressLineMove, always_next]
  simp only [hp, hl]
  rfl

theorem moveLine_press (m : Mach) (p : Press) (old new : Nat) : (m.moveLine p old new).press = m.press := by
  unfold Mach.moveLine
  split
  · exact press_of_base ((carryMarks_base ..).trans (pastCaches_base ..))
  · rfl

theorem moveLine_moves (hm : m.lineMoves p old = true) (h4o : keyClass (128 * (lineOf (physKey p.cls 0 0) + old)) ≠ 4)
    (h4n : keyClass (128 * (lineOf (physKey p.cls 0 0) + new)) ≠ 4) (i : Nat) (hi : i < 128) :
    Mem.get (m.moveLine p old new).home (128 * (lineOf (physKey p.cls 0 0) + new) + i) =
      Mem.get m.home (128 * (lineOf (physKey p.cls 0 0) + old) + i) := by
  unfold Mach.moveLine
  rw [if_pos hm, carryMarks_home, Mach.pastCaches, homeWrite_line _ _ _ (Nat.mul_mod_right ..),
    lineWrite_line_byte _ _ _ _ (Nat.mul_mod_right ..) h4n hi, Mach.homeRead, keyClass_lt_of_ne h4o, Mem.read_byte _ _ _ _ hi]

theorem moveLine_stays (hm : m.lineMoves p old = false) : (m.moveLine p old new).home = m.home := by
  simp [Mach.moveLine, hm]

end

end Sys2Proof.Machine

/-! PROOFS. The switch of a request of the press (spec 13 R256). -/

namespace Sys2Proof.Machine

/-! ### The number of dies -/

theorem modDie_count (m : Mach) (d : Nat) (f : Die → Die) : (m.modDie d f).dies.length = m.dies.length := List.length_modify ..

theorem applyRec_count (n : Nat) (m : Mach) (d a e : Nat) : (Mach.applyRec n m d a e).dies.length = m.dies.length := by
  induction n generalizing m d a e with
  | zero => rfl
  | succ n ih =>
    unfold Mach.applyRec
    split
    · rfl
    · dsimp only
      split
      · exact modDie_count ..
      · rw [ih, modDie_count]
        refine foldl_same (·.dies.length) _ (fun m c => ?_) _ _
        split
        · exact ih ..
        · rfl

theorem applyLatest_count (m : Mach) (d : Nat) : (m.applyLatest d).dies.length = m.dies.length :=
  foldl_same (·.dies.length) _ (fun _ _ => applyRec_count ..) _ _

theorem awaitSwitch_count (m : Mach) (ls : List Nat) : (m.awaitSwitch ls).dies.length = m.dies.length := by
  unfold Mach.awaitSwitch
  split
  · split
    · unfold Mach.finishSwitch
      dsimp only
      exact foldl_same (·.dies.length) Mach.applyLatest applyLatest_count _ _
    · rfl
  · rfl

theorem lineWrite_dies (m : Mach) (k n v : Nat) : (m.lineWrite k n v).dies = m.dies := by
  unfold Mach.lineWrite
  split <;> rfl

theorem homeWrite_dies (m : Mach) (k n v : Nat) : (m.homeWrite k n v).dies = m.dies :=
  foldl_same (·.dies) _ (fun _ _ => lineWrite_dies ..) _ _

theorem drainSector_dies (m : Mach) (d e sector : Nat) : (m.drainSector d e sector).dies = m.dies := by
  unfold Mach.drainSector
  split
  · rfl
  · dsimp only
    split
    · rfl
    · split
      · exact homeWrite_dies ..
      · exact foldl_same (·.dies) _ (fun _ _ => homeWrite_dies ..) _ _

theorem closeEpoch_count (m : Mach) (d : Nat) : (m.closeEpoch d).dies.length = m.dies.length := by
  refine Eq.trans ?_ (awaitSwitch_count m (((m.dies[d]?).map fun x => (x.sectors ++ x.lost).map (· / 4)).getD []))
  unfold Mach.closeEpoch
  dsimp only
  split
  · rfl
  · split
    · rfl
    · rw [modDie_count]
      refine (foldl_same (·.dies.length) _ (fun _ _ => ?_) _ _).trans (foldl_same (·.dies.length) _ (fun _ _ => ?_) _ _)
      · rfl
      · exact congrArg List.length (drainSector_dies ..)

/-! ### The warps that use a descriptor -/

/-- Changes of teams that leave where their warps are and what the accesses that `of` gives use. -/
structure KeepsUses (of : Warp → List Flight) (hit : RangeDesc → Bool) (F : Team → Team) : Prop where
  ctx : ∀ x, (F x).ctx = x.ctx
  die : ∀ x, (F x).die = x.die
  warps : ∀ x, ∃ G : Warp → Warp, (F x).warps = x.warps.map G ∧
    ∀ y, (G y).core = y.core ∧ (of (G y)).any (Flight.uses · hit) = (of y).any (Flight.uses · hit)

theorem numbered_map {m m' : Mach} {F : Team → Team} (h : m'.teams = m.teams.map F) :
    m'.numbered = m.numbered.map fun p => (p.1, F p.2) := by
  rw [Mach.numbered, h, List.length_map, Mach.numbered, List.zip_map_right]
  rfl

theorem userAmong_map {m m' : Mach} {of : Warp → List Flight} {hit : RangeDesc → Bool} {F : Team → Team} (hF : KeepsUses of hit F)
    (h : m'.teams = m.teams.map F) (cores : List (Nat × Nat)) (ctx : Nat) : m'.userAmong of cores ctx hit = m.userAmong of cores ctx hit := by
  unfold Mach.userAmong
  rw [numbered_map h, List.findSome?_map]
  congr 1
  funext p
  obtain ⟨G, hG, hkeep⟩ := hF.warps p.2
  simp only [Function.comp, hF.ctx, hF.die, hG, List.length_map, List.getElem?_map]
  congr 3
  funext w
  cases p.2.warps[w]? with
  | none => rfl
  | some y =>
    obtain ⟨hcore, huses⟩ := hkeep y
    simp only [Option.map_some, hcore, huses]

theorem userAmong_teams {m m' : Mach} (h : m'.teams = m.teams) (of : Warp → List Flight) (cores : List (Nat × Nat)) (ctx : Nat)
    (hit : RangeDesc → Bool) : m'.userAmong of cores ctx hit = m.userAmong of cores ctx hit := by
  unfold Mach.userAmong Mach.numbered
  rw [h]

/-! ### The switch -/

section
variable {m : Mach} {p : Press} {r : Nat}

/-- The lanes of an access through an old descriptor at their new keys. -/
def Press.follows (p : Press) (f : Flight) : Flight :=
  { f with lanes := f.lanes.map fun a => if (a.desc.map p.cached).getD false then { a with key := p.newKey a.key } else a }

def Press.followsWarp (p : Press) (x : Warp) : Warp := { x with trap := x.trap.map fun q => { q with late := q.late.map p.follows } }

def Press.followsTeam (p : Press) (t : Team) : Team := if t.ctx = p.ctx then { t with warps := t.warps.map p.followsWarp } else t

theorem followPress_teams (m : Mach) (p : Press) : (m.followPress p).teams = m.teams.map p.followsTeam := rfl

theorem follows_uses (p : Press) (f : Flight) (hit : RangeDesc → Bool) : (p.follows f).uses hit = f.uses hit := by
  simp only [Flight.uses, Press.follows, List.any_map]
  congr 1
  funext a
  simp only [Function.comp]
  split <;> rfl

theorem followsWarp_late (p : Press) (x : Warp) : (p.followsWarp x).late = x.late.map p.follows := by
  unfold Warp.late Press.followsWarp
  cases x.trap with
  | none => rfl
  | some q => cases hq : q.late <;> simp [hq]

theorem followsTeam_keeps {of : Warp → List Flight} {hit : RangeDesc → Bool} (p : Press)
    (h : ∀ y, (of (p.followsWarp y)).any (Flight.uses · hit) = (of y).any (Flight.uses · hit)) : KeepsUses of hit p.followsTeam where
  ctx x := by unfold Press.followsTeam; split <;> rfl
  die x := by unfold Press.followsTeam; split <;> rfl
  warps x := by
    unfold Press.followsTeam
    split
    · exact ⟨p.followsWarp, rfl, fun y => ⟨rfl, h y⟩⟩
    · exact ⟨id, (List.map_id _).symm, fun y => ⟨rfl, rfl⟩⟩

theorem followsTeam_flight (p : Press) (hit : RangeDesc → Bool) : KeepsUses Warp.flight hit p.followsTeam :=
  followsTeam_keeps p fun _ => rfl

theorem followsTeam_late (p : Press) (hit : RangeDesc → Bool) : KeepsUses Warp.late hit p.followsTeam :=
  followsTeam_keeps p fun y => by
    rw [followsWarp_late, List.any_map]
    congr 1
    funext f
    exact follows_uses ..

/-- The machine before the descriptors follow. -/
def Mach.switchedMarks (m : Mach) (p : Press) : Mach :=
  ((List.range m.dies.length).foldl (fun m d =>
    if ((m.dies[d]?).map fun x => (x.sectors ++ x.lost).any fun sec : Nat =>
        decide (4 * lineOf (physKey p.cls 0 0) ≤ sec) && (blockIndex p.blocks (sec / 4 - lineOf (physKey p.cls 0 0))).isSome).getD false
    then m.closeEpoch d else m) m).carryAll p

theorem switchPress_eq (m : Mach) (p : Press) :
    m.switchPress p = ((((m.switchedMarks p).followPress p).setRanges p.ctx (((m.switchedMarks p).followPress p).pressedRanges p)).dropRanges
      (((m.switchedMarks p).followPress p).setRanges p.ctx (((m.switchedMarks p).followPress p).pressedRanges p)).allCores p.ctx p.cached) := rfl

theorem carryAll_base (m : Mach) (p : Press) : (m.carryAll p).base = m.base :=
  foldl_base (fun m (q : Nat × Nat) => m.carryMarks q.1 q.2) (fun _ _ => carryMarks_base ..) (m.movedLines p) m

theorem carryMarks_dies (m : Mach) (old new : Nat) : (m.carryMarks old new).dies = m.dies := by
  unfold Mach.carryMarks
  refine foldl_same (·.dies) _ (fun m i => ?_) _ _
  dsimp only
  split <;> rfl

theorem carryAll_dies (m : Mach) (p : Press) : (m.carryAll p).dies = m.dies :=
  foldl_same (·.dies) (fun m (q : Nat × Nat) => m.carryMarks q.1 q.2) (fun _ _ => carryMarks_dies ..) (m.movedLines p) m

theorem switchedMarks_base (m : Mach) (p : Press) : (m.switchedMarks p).base = m.base := by
  refine (carryAll_base ..).trans (foldl_base _ (fun m d => ?_) _ _)
  split
  · exact closeEpoch_base ..
  · rfl

theorem switchedMarks_count (m : Mach) (p : Press) : (m.switchedMarks p).dies.length = m.dies.length := by
  refine (congrArg List.length (carryAll_dies ..)).trans (foldl_same (·.dies.length) _ (fun m d => ?_) _ _)
  split
  · exact closeEpoch_count ..
  · rfl

theorem dropRanges_base (m : Mach) (cores : List (Nat × Nat)) (ctx : Nat) (hit : RangeDesc → Bool) : (m.dropRanges cores ctx hit).base = m.base :=
  foldl_base (fun m (c : Nat × Nat) => m.modCore c.1 c.2 _) (fun _ _ => modCore_base ..) cores m

theorem dropRanges_count (m : Mach) (cores : List (Nat × Nat)) (ctx : Nat) (hit : RangeDesc → Bool) :
    (m.dropRanges cores ctx hit).dies.length = m.dies.length := foldl_same (·.dies.length) _ (fun _ _ => modDie_count ..) _ _

theorem switchPress_teams (m : Mach) (p : Press) : (m.switchPress p).teams = m.teams.map p.followsTeam := by
  rw [switchPress_eq, teams_of_base (dropRanges_base ..), ← teams_of_base (switchedMarks_base m p)]
  rfl

theorem switchPress_press (m : Mach) (p : Press) : (m.switchPress p).press = m.press := by
  rw [switchPress_eq, press_of_base (dropRanges_base ..), ← press_of_base (switchedMarks_base m p)]
  rfl

theorem switchPress_cores (m : Mach) (p : Press) : (m.switchPress p).allCores = m.allCores := by
  have : (m.switchPress p).dies.length = m.dies.length := by
    rw [switchPress_eq, dropRanges_count]
    exact (List.length_map ..).trans (switchedMarks_count ..)
  simp only [Mach.allCores, this]

theorem switchPress_contexts (m : Mach) (p : Press) :
    (m.switchPress p).contexts = (m.modCtx p.ctx fun c => { c with ranges := m.pressedRanges p }).contexts := by
  have hctx := contexts_of_base (switchedMarks_base m p)
  have hranges : ((m.switchedMarks p).followPress p).pressedRanges p = m.pressedRanges p := by
    have : ((m.switchedMarks p).followPress p).ctx? p.ctx = m.ctx? p.ctx := by
      rw [← ctx_of_base (switchedMarks_base m p)]; rfl
    simp only [Mach.pressedRanges, this]
  rw [switchPress_eq, contexts_of_base (dropRanges_base ..), hranges]
  exact congrArg (List.map fun c => if c.id = p.ctx then ({ c with ranges := m.pressedRanges p } : Context) else c) hctx

theorem switchPress_ranges (m : Mach) (p : Press) :
    ((m.switchPress p).ctx? p.ctx).map (·.ranges) = (m.ctx? p.ctx).map fun c => c.ranges.flatMap (RangeDesc.switched · p) := by
  have hsame : (m.switchPress p).ctx? p.ctx = (m.modCtx p.ctx fun c => { c with ranges := m.pressedRanges p }).ctx? p.ctx := by
    simp only [Mach.ctx?, switchPress_contexts]
  rw [hsame]
  cases hc : m.ctx? p.ctx with
  | none =>
    have : (m.modCtx p.ctx fun c => { c with ranges := m.pressedRanges p }).ctx? p.ctx = none := by
      simp only [Mach.ctx?, List.find?_eq_none] at hc
      simp only [Mach.ctx?, Mach.modCtx, List.find?_eq_none, List.mem_map]
      rintro c ⟨c', hc', rfl⟩
      have := hc c' hc'
      split <;> exact this
    rw [this]
    rfl
  | some c =>
    rw [ctx_modCtx hc (fun c => { c with ranges := m.pressedRanges p }) fun _ => rfl]
    simp only [Option.map_some, Mach.pressedRanges, hc, Option.getD_some]

/-- The request once it has switched. -/
def Press.done (p : Press) : Press := { p with switched := true, ops := [] }

theorem addCounter_base (m : Mach) (ctx va inc : Nat) : (m.addCounter ctx va inc).base = m.base := by
  unfold Mach.addCounter Mach.addCounterAt
  split
  · exact (agentAtomic_base ..).trans (release_base ..)
  · rfl

/-- The machine with another list of requests. -/
def Mach.setPress (m : Mach) (ps : List Press) : Mach := { m with press := ps }

theorem setPress_cores (m : Mach) (ps : List Press) : (m.setPress ps).allCores = m.allCores := rfl

theorem setPress_userAmong (m : Mach) (ps : List Press) (of : Warp → List Flight) (cores : List (Nat × Nat)) (ctx : Nat) (hit : RangeDesc → Bool) :
    (m.setPress ps).userAmong of cores ctx hit = m.userAmong of cores ctx hit := userAmong_teams rfl ..

theorem setPress_press (m : Mach) (ps : List Press) : (m.setPress ps).press = ps := rfl

theorem setPress_ctx (m : Mach) (ps : List Press) (id : Nat) : (m.setPress ps).ctx? id = m.ctx? id := rfl

theorem done_cached (p : Press) : p.done.cached = p.cached := rfl

theorem endPress_idle {m : Mach} {q : Press} (hl : m.lateUserOf m.allCores q.ctx q.cached = none) (hu : m.userOf m.allCores q.ctx q.cached = none)
    (hops : q.ops = []) (r : Nat) : m.endPress r q = (m.setPress (m.press.eraseIdx r)).addCounter q.ctx q.cnt 1 := by
  simp only [Mach.endPress, hu, hl, hops, Option.isSome_none, Bool.false_eq_true, false_or, List.any_nil, if_false, Mach.setPress]

/-- The machine in which a request has switched. -/
def Mach.withSwitched (m : Mach) (r : Nat) (p : Press) : Mach := (m.switchPress p).setPress ((m.switchPress p).press.set r p.done)

theorem withSwitched_userAmong {of : Warp → List Flight} (hF : KeepsUses of p.cached p.followsTeam)
    (h : m.userAmong of m.allCores p.ctx p.cached = none) :
    (m.withSwitched r p).userAmong of (m.withSwitched r p).allCores p.done.ctx p.done.cached = none := by
  have hctx : p.done.ctx = p.ctx := rfl
  rw [done_cached, hctx, Mach.withSwitched, setPress_cores, setPress_userAmong, switchPress_cores, userAmong_map hF (switchPress_teams m p), h]

theorem withSwitched_idle (hl : m.lateUserOf m.allCores p.ctx p.cached = none) (hu : m.userOf m.allCores p.ctx p.cached = none) :
    (m.withSwitched r p).endPress r p.done =
      ((m.withSwitched r p).setPress ((m.withSwitched r p).press.eraseIdx r)).addCounter p.ctx p.cnt 1 :=
  endPress_idle (withSwitched_userAmong (followsTeam_late p p.cached) hl) (withSwitched_userAmong (followsTeam_flight p p.cached) hu) rfl r

theorem exec_pressSwitch_idle (s : State) (hp : s.m.press[r]? = some p) (hsw : p.switched = false)
    (hops : s.m.opsUsing (List.range s.m.dies.length) p.ctx p.cached = []) (hl : s.m.lateUserOf s.m.allCores p.ctx p.cached = none)
    (hu : s.m.userOf s.m.allCores p.ctx p.cached = none) (hmoved : 512 * blockSum p.blocks ≤ p.moved)
    (hlim : (s.m.pressedRanges p).length ≤ Config.rangeLimit) :
    exec (.pressSwitch r) s = .next { s with
      m := ((s.m.withSwitched r p).setPress ((s.m.withSwitched r p).press.eraseIdx r)).addCounter p.ctx p.cnt 1 } := by
  have hgo : ¬ (p.moved < 512 * blockSum p.blocks ∨ Config.rangeLimit < (s.m.pressedRanges p).length) := by omega
  rw [← withSwitched_idle hl hu, exec_pressSwitch, execPressSwitch, always_next]
  simp only [hp, hsw, Bool.false_eq_true, if_false, hgo, hu, hops, List.any_nil]
  rfl

theorem pressSwitch_switches (s : State) (hp : s.m.press[r]? = some p) (hsw : p.switched = false)
    (hops : s.m.opsUsing (List.range s.m.dies.length) p.ctx p.cached = []) (hl : s.m.lateUserOf s.m.allCores p.ctx p.cached = none)
    (hu : s.m.userOf s.m.allCores p.ctx p.cached = none) (hmoved : 512 * blockSum p.blocks ≤ p.moved)
    (hlim : (s.m.pressedRanges p).length ≤ Config.rangeLimit) :
    ∃ m, exec (.pressSwitch r) s = .next { s with m := m } ∧ m.press = s.m.press.eraseIdx r ∧
      (m.ctx? p.ctx).map (·.ranges) = (s.m.ctx? p.ctx).map fun c => c.ranges.flatMap (RangeDesc.switched · p) := by
  refine ⟨_, exec_pressSwitch_idle s hp hsw hops hl hu hmoved hlim, ?_, ?_⟩
  · rw [press_of_base (addCounter_base ..), setPress_press, Mach.withSwitched, setPress_press, switchPress_press, List.eraseIdx_set_eq]
  · rw [ctx_of_base (addCounter_base ..), setPress_ctx, Mach.withSwitched, setPress_ctx]
    exact switchPress_ranges s.m p

end

/-- Settles O38: RPRESS by the tests of 14 R288, the line moves by the bytes they copy, and the switch by its conditions. -/
theorem pressWork : Obligations.PressWork := by
  refine ⟨fun s g d a ha => ⟨rpress_unreadable ha, fun v p hb hp => hp ▸ ⟨rpress_invalid ha hb, rpress_taken ha hb, rpress_full ha hb,
    fun hok hd hf => ?_⟩⟩, fun s r p old new base hp hl hbase hcls h4o h4n => ?_, fun s r p hp hsw hops hl hu hmoved hlim =>
    pressSwitch_switches s hp hsw hops hl hu hmoved hlim, fun s r p hp hsw => ⟨fun hlt => ?_, fun t w hmoved hlim hu => ?_⟩⟩
  · obtain ⟨y, hy⟩ := rpress_accepted ha hb hok hd hf
    exact ⟨_, y, hy.answers, rfl, hy.goes, hy.frame⟩
  · subst hbase
    refine ⟨_, exec_pressLineMove_some s hp hl, congrArg (List.modify · r _) (moveLine_press ..), fun hm i hi => moveLine_moves hm h4o h4n i hi,
      fun hm => moveLine_stays hm⟩
  · rw [exec_pressSwitch, execPressSwitch, always_next]
    simp only [hp, hsw, hlt, true_or, if_true, Bool.false_eq_true, if_false]
  · have hgo : ¬ (p.moved < 512 * blockSum p.blocks ∨ Config.rangeLimit < (s.m.pressedRanges p).length) := by omega
    rw [exec_pressSwitch, execPressSwitch, always_next]
    simp only [hp, hsw, Bool.false_eq_true, if_false, hgo, hu]

end Sys2Proof.Machine

/-! PROOFS. What a release closes and writes out, and what an acquire drops (spec 12 R222, R225 to R227, R405). -/

namespace Sys2Proof.Machine

/-! ### What the application of epochs leaves of a die -/

/-- A die without what it caches and what it has applied. -/
def Die.owned (x : Die) : Die := { x with l2 := Copies.empty, stale := [], vc := [], cores := [] }

/-- What the dies have written and not yet published, with their epochs. -/
def Mach.written (m : Mach) : List Die := m.dies.map Die.owned

theorem modDie_written {f : Die → Die} (hf : ∀ x, (f x).owned = x.owned) (m : Mach) (d : Nat) : (m.modDie d f).written = m.written := by
  refine List.ext_getElem? fun j => ?_
  simp only [Mach.written, Mach.modDie, List.getElem?_map, List.getElem?_modify]
  cases m.dies[j]? with
  | none => rfl
  | some x => by_cases h : d = j <;> simp [h, hf]

theorem modCore_written (m : Mach) (d c : Nat) (f : Core → Core) : (m.modCore d c f).written = m.written :=
  modDie_written (fun _ => by rfl) m d

theorem applyRec_written (n : Nat) (m : Mach) (d a e : Nat) : (Mach.applyRec n m d a e).written = m.written := by
  induction n generalizing m d a e with
  | zero => rfl
  | succ n ih =>
    unfold Mach.applyRec
    split
    · rfl
    · dsimp only
      split
      · exact modDie_written (fun _ => by rfl) ..
      · refine (ih ..).trans ((modDie_written (fun _ => by rfl) ..).trans ?_)
        refine foldl_same (·.written) _ (fun m c => ?_) _ _
        split
        · exact ih ..
        · rfl

theorem applyLatest_written (m : Mach) (d : Nat) : (m.applyLatest d).written = m.written :=
  foldl_same (·.written) _ (fun _ _ => applyRec_written ..) _ _

theorem applySeen_written (m : Mach) (d : Nat) (v : List Nat) : (m.applySeen d v).written = m.written :=
  foldl_same (·.written) _ (fun _ _ => applyRec_written ..) _ _

theorem awaitSwitch_written (m : Mach) (ls : List Nat) : (m.awaitSwitch ls).written = m.written := by
  unfold Mach.awaitSwitch
  split
  · split
    · unfold Mach.finishSwitch
      dsimp only
      exact foldl_same (·.written) Mach.applyLatest applyLatest_written _ _
    · rfl
  · rfl

theorem die_of_written {m m' : Mach} (h : m'.written = m.written) {d : Nat} {x : Die} (hx : m.dies[d]? = some x) :
    ∃ x', m'.dies[d]? = some x' ∧ x'.owned = x.owned := by
  have hd := congrArg (·[d]?) h
  simp only [Mach.written, List.getElem?_map, hx, Option.map_some] at hd
  exact Option.map_eq_some_iff.mp hd

/-! ### The closing of an epoch -/

section
variable {m : Mach} {d : Nat} {x : Die}

theorem dies_modDie_self {f : Die → Die} (h : m.dies[d]? = some x) : (m.modDie d f).dies[d]? = some (f x) := by
  simp [Mach.modDie, h]

/-- The epoch of a die closed: its record, and nothing dirty any more. -/
structure Die.Closes (x y : Die) : Prop where
  epoch : y.epoch = x.epoch + 1
  sectors : y.sectors = []
  lost : y.lost = []
  dirtyAt : y.dirtyAt = []
  hdirty : y.hdirty = x.hdirty
  hdirtyAt : y.hdirtyAt = x.hdirtyAt
  log : y.log.head?.map (fun r => (r.epoch, r.sectors)) = some (x.epoch, x.sectors ++ x.lost)

theorem closeEpoch_closes (hx : m.dies[d]? = some x) (hh : x.halted = false) (hs : ¬ (x.sectors = [] ∧ x.lost = [])) :
    ∃ y, (m.closeEpoch d).dies[d]? = some y ∧ x.Closes y := by
  obtain ⟨x', hx', hown⟩ := die_of_written (awaitSwitch_written m (((m.dies[d]?).map fun x => (x.sectors ++ x.lost).map (· / 4)).getD [])) hx
  have hhalted : x'.halted = x.halted := (congrArg Die.halted hown : x'.owned.halted = x.owned.halted)
  have hsectors : x'.sectors = x.sectors := (congrArg Die.sectors hown : x'.owned.sectors = x.owned.sectors)
  have hlost : x'.lost = x.lost := (congrArg Die.lost hown : x'.owned.lost = x.owned.lost)
  have hgo : ¬ (x'.halted = true ∨ (x'.sectors.isEmpty = true ∧ x'.lost.isEmpty = true)) := by
    rw [hhalted, hh, hsectors, hlost, List.isEmpty_iff, List.isEmpty_iff]
    exact fun h => h.elim (fun h => nomatch h) hs
  unfold Mach.closeEpoch
  simp only [hx', if_neg hgo]
  have hdrained : (x'.lost.foldl (fun m s => ({ m with poisoned := s :: m.poisoned.filter (· ≠ s) } : Mach).setTag s d x'.epoch)
      (x'.sectors.foldl (fun m s => m.drainSector d x'.epoch s)
        (m.awaitSwitch (((m.dies[d]?).map fun x => (x.sectors ++ x.lost).map (· / 4)).getD [])))).dies[d]? = some x' := by
    rw [← hx']
    congr 1
    refine (foldl_same (·.dies) _ (fun _ _ => ?_) _ _).trans (foldl_same (·.dies) _ (fun _ _ => ?_) _ _)
    · rfl
    · exact drainSector_dies ..
  refine ⟨_, dies_modDie_self hdrained, ?_⟩
  exact {
    epoch := (congrArg (·.epoch + 1) hown : x'.owned.epoch + 1 = x.owned.epoch + 1)
    sectors := rfl
    lost := rfl
    dirtyAt := rfl
    hdirty := (congrArg Die.hdirty hown : x'.owned.hdirty = x.owned.hdirty)
    hdirtyAt := (congrArg Die.hdirtyAt hown : x'.owned.hdirtyAt = x.owned.hdirtyAt)
    log := by
      have he : x'.owned.epoch = x.owned.epoch := congrArg Die.epoch hown
      have he : x'.epoch = x.epoch := he
      simp [Config.logEntries, he, hsectors, hlost] }

/-- An epoch with nothing to publish stays open. -/
theorem closeEpoch_empty (hx : m.dies[d]? = some x) (hs : x.sectors = []) (hl : x.lost = []) : m.closeEpoch d = m := by
  have hwait : m.awaitSwitch [] = m := by
    unfold Mach.awaitSwitch
    split <;> rfl
  unfold Mach.closeEpoch
  simp only [hx, hs, hl, Option.map_some, Option.getD_some, List.append_nil, List.map_nil, hwait, List.isEmpty_nil, and_self, or_true, if_true]

end

/-! ### Host and peer bytes written out -/

section
variable {m : Mach} {d : Nat} {x : Die}

theorem homeWrite_byte (m : Mach) (k v : Nat) (hp : m.press = []) (h4 : keyClass k ≠ 4) :
    (m.homeWrite k 1 v).home = Mem.put m.home k (BitVec.ofNat 8 v) := by
  have hpart : lineParts k 1 (1 / 128 + 1) = [(0, 1)] := by
    have : 1 ≤ 128 - k % 128 := by omega
    simp [lineParts, this]
  simp only [Mach.homeWrite, hpart, List.foldl_cons, List.foldl_nil, Mach.lineWrite, hp, List.findSome?_nil, Mach.rawWrite_home, Nat.add_zero,
    Nat.mul_zero, Nat.pow_zero, Nat.div_one, keyClass_lt_of_ne h4, Mem.write]

/-- Some bytes of a die written at their homes. -/
def Mach.writeOut (m : Mach) (src : Mem) (ks : List Nat) : Mach := ks.foldl (fun m k => m.homeWrite k 1 (Mem.get src k).toNat) m

theorem writeOut_press (m : Mach) (src : Mem) (ks : List Nat) : (m.writeOut src ks).press = m.press :=
  press_of_base (foldl_base _ (fun _ _ => homeWrite_base ..) ks m)

theorem writeOut_dies (m : Mach) (src : Mem) (ks : List Nat) : (m.writeOut src ks).dies = m.dies :=
  foldl_same (·.dies) _ (fun _ _ => homeWrite_dies ..) ks m

theorem writeOut_get (src : Mem) (ks : List Nat) (hp : m.press = []) (h4 : ∀ k ∈ ks, keyClass k ≠ 4) (k : Nat) :
    Mem.get (m.writeOut src ks).home k = if k ∈ ks then Mem.get src k else Mem.get m.home k := by
  induction ks using List.reverseRecOn with
  | nil => rfl
  | append_singleton ks a ih =>
    have h4' : ∀ k ∈ ks, keyClass k ≠ 4 := fun k hk => h4 k (List.mem_append_left _ hk)
    have hlast : m.writeOut src (ks ++ [a]) = (m.writeOut src ks).homeWrite a 1 (Mem.get src a).toNat := by
      simp only [Mach.writeOut, List.foldl_append, List.foldl_cons, List.foldl_nil]
    rw [hlast, homeWrite_byte _ _ _ ((writeOut_press ..).trans hp) (h4 a (List.mem_append_right _ (List.mem_singleton_self a))), Mem.get_put, ih h4',
      BitVec.ofNat_toNat, BitVec.setWidth_eq]
    by_cases hk : k = a
    · subst hk
      simp
    · simp [hk]

theorem peerHeld_of_base {m m' : Mach} (h : m'.base = m.base) (k : Nat) : m'.peerHeld k = m.peerHeld k := by
  have hports : m'.ports = m.ports := (congrArg Mach.ports h : m'.base.ports = m.base.ports)
  have hassign : m'.assign = m.assign := (congrArg Mach.assign h : m'.base.assign = m.base.assign)
  simp only [Mach.peerHeld, Mach.holdsPeer, Mach.portsTo, hports, hassign]

theorem targetLost_of_base {m m' : Mach} (h : m'.base = m.base) {k : Nat} (hk : keyClass k = 2 ∨ keyClass k = 3) :
    m'.targetLost k = m.targetLost k := by
  have hports : m'.ports = m.ports := (congrArg Mach.ports h : m'.base.ports = m.base.ports)
  have hassign : m'.assign = m.assign := (congrArg Mach.assign h : m'.base.assign = m.base.assign)
  have hbroken : m'.brokenLinks = m.brokenLinks := (congrArg Mach.brokenLinks h : m'.base.brokenLinks = m.base.brokenLinks)
  rcases hk with hk | hk <;>
    simp only [Mach.targetLost, hk, Mach.reaches, Mach.portsTo, hports, hassign, hbroken]

/-- The host and peer bytes of a die that can be delivered are all written out. -/
theorem flushHost_delivers (hx : m.dies[d]? = some x) (hheld : ∀ k ∈ x.hdirtyAt, m.peerHeld k = false)
    (hlost : ∀ k ∈ x.hdirtyAt, m.targetLost k = false) :
    (m.flushHost d).home = (m.writeOut x.hdirty x.hdirtyAt).home ∧
      ∃ y, (m.flushHost d).dies[d]? = some y ∧ y.hdirtyAt = [] ∧ y.sectors = x.sectors ∧ y.lost = x.lost ∧ y.dirtyAt = x.dirtyAt ∧ y.epoch = x.epoch := by
  have hown : (x.hdirtyAt.filter fun k => x.hdirtyAt.contains k && (m.peerHeld k || !m.targetLost k)) = x.hdirtyAt := by
    refine List.filter_eq_self.mpr fun k hk => ?_
    rw [hlost k hk, List.contains_iff_mem.mpr hk]
    simp
  have hfold : ∀ (ks : List Nat), (∀ k ∈ ks, m.peerHeld k = false) → ∀ m1 : Mach, m1.base = m.base →
      ks.foldl (fun m k =>
        if m.peerHeld k then { m with heldReqs := m.heldReqs ++ [{ die := d, pa := k, bytes := [Mem.get x.hdirty k] }] }
        else m.homeWrite k 1 (Mem.get x.hdirty k).toNat) m1 = m1.writeOut x.hdirty ks := by
    intro ks
    induction ks with
    | nil => exact fun _ _ _ => rfl
    | cons k ks ih =>
      intro hks m1 h1
      have hk : m1.peerHeld k = false := (peerHeld_of_base h1 k).trans (hks k (List.mem_cons_self ..))
      rw [List.foldl_cons, hk, if_neg Bool.false_ne_true, ih (fun j hj => hks j (List.mem_cons_of_mem _ hj)) _ ((homeWrite_base ..).trans h1)]
      rfl
  unfold Mach.flushHost Mach.flushBytes
  simp only [hx, Option.map_some, Option.getD_some, hown, hfold x.hdirtyAt hheld m rfl]
  refine ⟨rfl, _, dies_modDie_self (x := x) (by rw [writeOut_dies, hx]), ?_, rfl, rfl, rfl, rfl⟩
  exact List.filter_eq_nil_iff.mpr fun k hk => by simp [hk]

end

/-! ### An acquire -/

/-- A core without L1 lines and without scale lines. -/
def Core.bare (k : Core) : Prop := k.l1.lines = [] ∧ k.scale = [] ∧ k.sdir = []

theorem Copies.drop_lines {c : Copies} (h : c.lines = []) (l : Nat) : (c.drop l).lines = [] := by
  unfold Copies.drop
  split
  · simp [h]
  · exact h

theorem Copies.drops_lines {c : Copies} (h : c.lines = []) (ls : List Nat) : (ls.foldl Copies.drop c).lines = [] := by
  induction ls generalizing c with
  | nil => exact h
  | cons l ls ih => exact ih (Copies.drop_lines h l)

/-- Whether a core of a die, if there is one, holds nothing. -/
def Mach.coreBare (m : Mach) (d c : Nat) : Prop := ∀ k, m.core? d c = some k → k.bare

theorem core_modDie (m : Mach) (d : Nat) (f : Die → Die) (c : Nat) : (m.modDie d f).core? d c = (m.dies[d]?).bind fun x => (f x).cores[c]? := by
  unfold Mach.core?
  simp only [Mach.modDie, List.getElem?_modify_eq]
  cases m.dies[d]? <;> rfl

theorem core?_eq (m : Mach) (d c : Nat) : m.core? d c = (m.dies[d]?).bind fun x => x.cores[c]? := by
  unfold Mach.core?
  cases m.dies[d]? <;> rfl

theorem modDie_coreBare {m : Mach} {d c : Nat} (h : m.coreBare d c) (d' : Nat) {f : Die → Die}
    (hf : ∀ x : Die, (∀ k, x.cores[c]? = some k → k.bare) → ∀ k, (f x).cores[c]? = some k → k.bare) : (m.modDie d' f).coreBare d c := by
  intro k hk
  by_cases hd : d' = d
  · subst hd
    rw [core_modDie, Option.bind_eq_some_iff] at hk
    obtain ⟨x, hx, hk⟩ := hk
    exact hf x (fun j hj => h j (by rw [core?_eq, hx]; exact hj)) k hk
  · have : (m.modDie d' f).core? d c = m.core? d c := by
      unfold Mach.core?
      simp [Mach.modDie, hd]
    exact h k (this ▸ hk)

theorem dropSectors_bare {k : Core} (h : k.bare) (secs : List Nat) : (k.dropSectors secs).bare := by
  obtain ⟨hl, hs, hd⟩ := h
  refine ⟨?_, by simp [Core.dropSectors, hs], by simp [Core.dropSectors, hd]⟩
  unfold Core.dropSectors
  dsimp only
  rw [← List.foldl_map (f := fun s => s / 4) (g := Copies.drop)]
  exact Copies.drops_lines hl _

theorem coresMap_bare {f : Core → Core} (hf : ∀ k, k.bare → (f k).bare) {cores : List Core} {c : Nat} (h : ∀ k, cores[c]? = some k → k.bare) :
    ∀ k, (cores.map f)[c]? = some k → k.bare := by
  intro k hk
  rw [List.getElem?_map, Option.map_eq_some_iff] at hk
  obtain ⟨j, hj, rfl⟩ := hk
  exact hf j (h j hj)

theorem applyRec_coreBare (n : Nat) {m : Mach} {d' c' : Nat} (h : m.coreBare d' c') (d a e : Nat) : (Mach.applyRec n m d a e).coreBare d' c' := by
  induction n generalizing m d a e with
  | zero => exact h
  | succ n ih =>
    unfold Mach.applyRec
    split
    · exact h
    · dsimp only
      split
      · refine modDie_coreBare h _ fun x hx => coresMap_bare (fun k hk => ⟨?_, rfl, rfl⟩) hx
        dsimp only
        exact Copies.drops_lines hk.1 _
      · refine ih (modDie_coreBare ?_ _ fun x hx => ?_) _ _ _
        case refine_2 => exact coresMap_bare (fun k hk => dropSectors_bare hk _) hx
        refine List.foldlRecOn (motive := fun m : Mach => m.coreBare d' c') _ _ h fun m hm c _ => ?_
        split
        · exact ih hm _ _ _
        · exact hm

theorem applyLatest_coreBare {m : Mach} {d' c' : Nat} (h : m.coreBare d' c') (d : Nat) : (m.applyLatest d).coreBare d' c' :=
  List.foldlRecOn (motive := fun m : Mach => m.coreBare d' c') _ _ h fun _ hm _ _ => applyRec_coreBare _ hm _ _ _

theorem acquire_coreBare (m : Mach) (d c : Nat) : (m.modCore d c Core.acquire).coreBare d c := by
  intro k hk
  rw [Mach.modCore, core_modDie, Option.bind_eq_some_iff] at hk
  obtain ⟨x, -, hk⟩ := hk
  rw [List.getElem?_modify_eq] at hk
  obtain ⟨j, -, rfl⟩ := Option.map_eq_some_iff.mp hk
  exact ⟨rfl, rfl, rfl⟩

theorem acquireDrops_coreBare (m : Mach) (d c : Nat) {sc : Scope} (h : sc = .team ∨ sc = .die ∨ sc = .pkg ∨ sc = .sys) :
    (m.acquireDrops d c sc).coreBare d c := by
  rcases h with rfl | rfl | rfl | rfl
  · exact acquire_coreBare m d c
  · exact acquire_coreBare m d c
  · refine modDie_coreBare (acquire_coreBare m d c) d fun _ hx => ?_
    exact hx
  · refine applyLatest_coreBare (modDie_coreBare (acquire_coreBare m d c) d fun _ hx => ?_) d
    exact hx

end Sys2Proof.Machine

/-! PROOFS. Releases, acquires and releasing stores (spec 12 R222, R225 to R227, R405; 14 R275, R282). -/

namespace Sys2Proof.Machine

section
variable {m : Mach} {d : Nat} {x : Die}

/-- What a release of SYS scope leaves of its die. -/
theorem releaseSys (hx : m.dies[d]? = some x) (hh : x.halted = false) (hp : m.press = [])
    (hk : ∀ k, k ∈ x.hdirtyAt → keyClass k = 2 ∨ keyClass k = 3) (hheld : m.flushHeld d .sys = false) (hout : m.undeliverable d .sys = []) :
    (∃ y, (m.release d .sys).dies[d]? = some y ∧ y.sectors = [] ∧ y.lost = [] ∧ y.hdirtyAt = [] ∧
      (x.sectors ≠ [] ∨ x.lost ≠ [] ∨ x.dirtyAt = [] → y.dirtyAt = []) ∧
      y.epoch = if x.sectors = [] ∧ x.lost = [] then x.epoch else x.epoch + 1) ∧
    ∀ k, k ∈ x.hdirtyAt → (m.release d .sys).homeRead k 1 = (Mem.get x.hdirty k).toNat := by
  have hclosed : ∃ z, (m.closeEpoch d).dies[d]? = some z ∧ z.sectors = [] ∧ z.lost = [] ∧ z.hdirty = x.hdirty ∧ z.hdirtyAt = x.hdirtyAt ∧
      (x.sectors ≠ [] ∨ x.lost ≠ [] ∨ x.dirtyAt = [] → z.dirtyAt = []) ∧
      z.epoch = if x.sectors = [] ∧ x.lost = [] then x.epoch else x.epoch + 1 := by
    by_cases hs : x.sectors = [] ∧ x.lost = []
    · rw [closeEpoch_empty hx hs.1 hs.2]
      refine ⟨x, hx, hs.1, hs.2, rfl, rfl, fun h => ?_, (if_pos hs).symm⟩
      rcases h with h | h | h
      · exact absurd hs.1 h
      · exact absurd hs.2 h
      · exact h
    · obtain ⟨z, hz, hc⟩ := closeEpoch_closes hx hh hs
      exact ⟨z, hz, hc.sectors, hc.lost, hc.hdirty, hc.hdirtyAt, fun _ => hc.dirtyAt, hc.epoch.trans (if_neg hs).symm⟩
  obtain ⟨z, hz, hsectors, hlost, hmem, hat, hdirty, hepoch⟩ := hclosed
  have hbase := closeEpoch_base m d
  have hpeer : ∀ k ∈ z.hdirtyAt, (m.closeEpoch d).peerHeld k = false := by
    intro k hk'
    rw [hat] at hk'
    simp only [Mach.flushHeld, hx, decide_true, Bool.true_and, Option.map_some, Option.getD_some, List.any_eq_false] at hheld
    rw [peerHeld_of_base hbase]
    exact Bool.eq_false_iff.mpr (hheld k hk')
  have hreach : ∀ k ∈ z.hdirtyAt, (m.closeEpoch d).targetLost k = false := by
    intro k hk'
    rw [hat] at hk'
    simp only [Mach.undeliverable, hx, if_true, Option.map_some, Option.getD_some, List.filter_eq_nil_iff] at hout
    rw [targetLost_of_base hbase (hk k hk')]
    exact Bool.eq_false_iff.mpr (hout k hk')
  obtain ⟨hhome, y, hy, hyat, hysectors, hylost, hydirty, hyepoch⟩ := flushHost_delivers hz hpeer hreach
  refine ⟨⟨y, hy, hysectors.trans hsectors, hylost.trans hlost, hyat, fun h => hydirty.trans (hdirty h), hyepoch.trans hepoch⟩, fun k hk' => ?_⟩
  have h4 : ∀ k ∈ z.hdirtyAt, keyClass k ≠ 4 := fun k hk' => by
    rw [hat] at hk'
    rcases hk k hk' with h | h <;> rw [h] <;> decide
  have hmem' : k ∈ z.hdirtyAt := hat ▸ hk'
  have hget := writeOut_get (m := m.closeEpoch d) z.hdirty z.hdirtyAt ((press_of_base hbase).trans hp) h4 k
  rw [if_pos hmem', ← hhome] at hget
  rw [Mach.homeRead, keyClass_lt_of_ne (h4 k hmem')]
  show (Mem.get ((m.closeEpoch d).flushHost d).home k).toNat + 256 * 0 = _
  rw [hget, hmem]
  rfl

end

/-! ### Releasing stores -/

section
variable {s : State} {g : Issue} {i : Instr} {q : Shot} {asks : List Ask} {sc : Scope} {ls ls' : List LaneAcc} {m' m'' : Mach}

theorem release_unit (hg : s.m.generateAll g q.kind q.size q.sup asks = (.ok ls, m')) (d : Nat) (sc : Scope) : (m'.release d sc).unit = s.m.unit := by
  have hunc := generateAll_uncached g q.kind q.size q.sup asks s.m
  rw [hg] at hunc
  exact (unit_of_base (release_base ..)).trans (unit_of_uncached hunc)

/-- The instructions that release before they store. -/
inductive ReleasingStore (g : Issue) (ls : List LaneAcc) : Instr → Shot → List Ask → Scope → Prop where
  | stl32 (d : Fin 64) (a : Src) (sc : Scope) : ReleasingStore g ls (.stl32 d a sc) ⟨.ifg, .stl sc, .home, 4, false, .store, anyClass⟩
      (g.asks false (g.warp.widePair a) d fun l => g.warp.regs d l 1) sc
  | stl64 (d : Fin 64) (a : Src) (sc : Scope) : ReleasingStore g ls (.stl64 d a sc) ⟨.ifg, .stl sc, .home, 8, false, .store, anyClass⟩
      (g.asks false (g.warp.widePair a) d fun l => g.warp.regs d l 2) sc
  | csig (a b : Src) : ReleasingStore g ls (.csig a b) ⟨.ifg, .csig, .home, 8, true, .atomic, fun c => decide (c ≤ 3)⟩
      [{ lane := 0, scratch := false, addr := g.warp.pair a, reg := 0, data := g.warp.pair b, cmp := 0 }] (counterScope ((ls.map (·.key)).headD 0))

theorem ReleasingStore.accesses (h : ReleasingStore g ls i q asks sc) : AccessesMemory i := by
  cases h <;> exact ⟨rfl, rfl⟩

theorem ReleasingStore.exec_eq (h : ReleasingStore g ls i q asks sc) (ha : AdmitsLast s.m g i)
    (hg : s.m.generateAll g q.kind q.size q.sup asks = (.ok ls, m')) (hr : g.releases m' sc) :
    exec i s = .next { s with m := (m'.release g.team.die sc).shoot g i q asks [] } := by
  cases h with
  | stl32 d a sc =>
    rw [exec_stl32, execStl32, stlOp, issueLast_admits _ ha]
    simp only [hg, withRelease_ok _ _ hr]
  | stl64 d a sc =>
    rw [exec_stl64, execStl64, stlOp, issueLast_admits _ ha]
    simp only [hg, withRelease_ok _ _ hr]
  | csig a b =>
    rw [exec_csig, execCsig, issueLast_admits _ ha]
    simp only [hg, withRelease_ok _ _ hr]

theorem ReleasingStore.launched (h : ReleasingStore g ls i q asks sc) (ha : AdmitsLast s.m g i) (hc : g.warp.counter q.ctr < 255)
    (hg : s.m.generateAll g q.kind q.size q.sup asks = (.ok ls, m')) (hr : g.releases m' sc)
    (hg' : (m'.release g.team.die sc).generateAll g q.kind q.size q.sup asks = (.ok ls', m'')) : ∃ x, Launched s g i q ls' [] m'' x :=
  Launched.of_shoot h.accesses (release_unit hg ..) (h.exec_eq ha hg hr) hc hg'

end

/-- Settles O30: a release closes the open epoch and writes out host and peer bytes, an acquire empties its core, and a releasing store
generates its addresses again on the machine that its release leaves. -/
theorem releaseAndAcquire : Obligations.ReleaseAndAcquire := by
  refine ⟨fun m d c x hx => ⟨fun hh hs => ?_, fun hs hl => closeEpoch_empty hx hs hl, fun hh hp hk hheld hout => releaseSys hx hh hp hk hheld hout,
    fun sc k hsc hc => acquireDrops_coreBare m d c hsc k hc⟩, ?_⟩
  · obtain ⟨y, hy, hc⟩ := closeEpoch_closes hx hh fun h => hs h.1
    exact ⟨y, hy, hc.epoch, hc.sectors, hc.lost, hc.dirtyAt, hc.log⟩
  · rintro s g i q asks sc ls ls' m' m'' (⟨d, a, rfl, rfl, rfl⟩ | ⟨d, a, rfl, rfl, rfl⟩ | ⟨a, b, rfl, rfl, rfl, rfl⟩) ha hc hg hr hg'
    · exact (ReleasingStore.stl32 d a sc).launched ha hc hg hr hg'
    · exact (ReleasingStore.stl64 d a sc).launched ha hc hg hr hg'
    · exact (ReleasingStore.csig a b).launched ha hc hg hr hg'

end Sys2Proof.Machine

/-! PROOFS. The bytes that a die shows after a store, and what a read of a line leaves of them (spec 12 R215, R216). -/

namespace Sys2Proof.Machine

/-! ### Bytes of memories that are filtered or replaced -/

theorem Mem.get_filter {m : Mem} {p : Host.Cell → Bool} {a : Nat} (h : ∀ v, p (a, v) = true) : Mem.get (m.filter p) a = Mem.get m a := by
  induction m with
  | nil => rfl
  | cons c t ih =>
    obtain ⟨k, v⟩ := c
    by_cases hk : k = a
    · subst hk
      rw [List.filter_cons_of_pos (h v)]
      simp only [Mem.get, if_true]
    · by_cases hp : p (k, v)
      · rw [List.filter_cons_of_pos hp]
        simp only [Mem.get, hk, if_false, ih]
      · rw [List.filter_cons_of_neg hp, ih]
        simp only [Mem.get, hk, if_false]

theorem Mem.get_puts {cells : Mem} (h : Mem.wf cells = true) (base : Mem) (a : Nat) :
    Mem.get (cells.foldl (fun acc c => Mem.put acc c.1 c.2) base) a = if ∃ c ∈ cells, c.1 = a then Mem.get cells a else Mem.get base a := by
  induction cells generalizing base with
  | nil => simp
  | cons c t ih =>
    obtain ⟨k, v⟩ := c
    obtain ⟨-, habove, ht⟩ := (Mem.wf_cons k v t).mp h
    rw [List.foldl_cons, ih ht, Mem.get_put]
    by_cases hk : k = a
    · subst hk
      have hnot : ¬ ∃ c ∈ t, c.1 = k := by
        rintro ⟨c, hc, hck⟩
        exact absurd (habove c hc) (by omega)
      rw [if_neg hnot, if_pos rfl, if_pos ⟨(k, v), List.mem_cons_self .., rfl⟩]
      simp only [Mem.get, if_true]
    · have hiff : (∃ c ∈ (k, v) :: t, c.1 = a) ↔ ∃ c ∈ t, c.1 = a := by
        simp only [List.mem_cons, exists_eq_or_imp, hk, false_or]
      simp only [hiff, Mem.get, hk, if_false, Ne.symm hk]

/-- A span replaced holds the bytes of its source. -/
theorem Mem.get_replace_span (m : Mem) {src : Mem} (h : Mem.wf src = true) {a n k : Nat} (h1 : a ≤ k) (h2 : k < a + n) :
    Mem.get (Mem.replace m a n (Mem.span src a n)) k = Mem.get src k := by
  have hin : Mem.get (Mem.span src a n) k = Mem.get src k := Mem.get_filter fun v => by simp [h1, h2]
  unfold Mem.replace
  rw [Mem.get_puts (Mem.wf_span src a n h), hin]
  split
  · rfl
  · next hnone =>
    have hsrc : Mem.get src k = 0 := by
      rw [← hin]
      exact Mem.get_of_not_mem _ _ fun c hc hk => hnone ⟨c, hc, hk⟩
    rw [hsrc]
    refine Mem.get_of_not_mem _ _ fun c hc hk => ?_
    have := (List.mem_filter.mp hc).2
    rw [hk] at this
    simp [h1, h2] at this

/-! ### Reads of bytes -/

theorem Die.read_lt (x : Die) (u : Mem) (k n : Nat) : x.read u k n < 256 ^ n := by
  induction n generalizing k with
  | zero => simp [Die.read]
  | succ n ih =>
    have h1 := ih (k + 1)
    have h2 : (x.byte u k).toNat < 256 := (x.byte u k).isLt
    rw [Die.read, Nat.pow_succ]
    omega

theorem Die.read_byte (x : Die) (u : Mem) {k n i : Nat} (h : i < n) : BitVec.ofNat 8 (x.read u k n / 256 ^ i) = x.byte u (k + i) := by
  induction n generalizing k i with
  | zero => omega
  | succ n ih =>
    have hlt : (x.byte u k).toNat < 256 := (x.byte u k).isLt
    cases i with
    | zero =>
      refine BitVec.eq_of_toNat_eq ?_
      simp only [Die.read, Nat.pow_zero, Nat.div_one, BitVec.toNat_ofNat, Nat.add_zero]
      omega
    | succ i =>
      rw [Die.read, Nat.pow_succ', ← Nat.div_div_eq_div_mul,
        show ((x.byte u k).toNat + 256 * x.read u (k + 1) n) / 256 = x.read u (k + 1) n by omega, ih (by omega),
        show k + 1 + i = k + (i + 1) by omega]

theorem Die.read_eq_mem {x : Die} {u mem : Mem} {k n : Nat} (h : ∀ i, i < n → x.byte u (k + i) = Mem.get mem (k + i)) :
    x.read u k n = Mem.read mem k n := by
  induction n generalizing k with
  | zero => rfl
  | succ n ih =>
    have h0 := h 0 (by omega)
    rw [Die.read, Mem.read, ih fun i hi => by
      have := h (i + 1) (by omega)
      rwa [show k + (i + 1) = k + 1 + i by omega] at this]
    rw [Nat.add_zero] at h0
    rw [h0]

/-- A die that shows the bytes of a value reads it. -/
theorem Die.read_value {x : Die} {u : Mem} {k n v : Nat} (h : ∀ i, i < n → x.byte u (k + i) = BitVec.ofNat 8 (v / 256 ^ i)) :
    x.read u k n = v % 256 ^ n := by
  rw [← Mem.read_write_self [] k n v]
  refine Die.read_eq_mem fun i hi => ?_
  rw [h i hi, Mem.get_write, if_pos (by omega), Nat.add_sub_cancel_left]

/-! ### A write at a die -/

theorem foldl_addNew_contains (ks l : List Nat) (k : Nat) : (ks.foldl addNew l).contains k = (l.contains k || ks.contains k) := by
  induction ks generalizing l with
  | nil => simp
  | cons a ks ih =>
    rw [List.foldl_cons, ih, List.contains_cons]
    unfold addNew
    split
    · next ha =>
      by_cases hk : k = a
      · subst hk; simp [List.contains_iff_mem.mp ha]
      · rw [beq_eq_false_iff_ne.mpr hk, Bool.false_or]
    · rw [List.contains_cons]
      cases (k == a) <;> cases l.contains k <;> rfl

theorem contains_from (k n k' : Nat) : ((List.range n).map (k + ·)).contains k' = decide (k ≤ k' ∧ k' < k + n) := by
  rw [Bool.eq_iff_iff, List.contains_iff_mem, List.mem_map, decide_eq_true_iff]
  constructor
  · rintro ⟨i, hi, rfl⟩
    have := List.mem_range.mp hi
    omega
  · rintro ⟨h1, h2⟩
    exact ⟨k' - k, List.mem_range.mpr (by omega), by omega⟩

/-- An access of 1, 2, 4 or 8 bytes at a multiple of its size. -/
structure Aligned (k n : Nat) : Prop where
  size : n = 1 ∨ n = 2 ∨ n = 4 ∨ n = 8
  place : k % n = 0

theorem Aligned.line {k n : Nat} (h : Aligned k n) {i : Nat} (hi : i < n) : lineOf (k + i) = lineOf k := by
  obtain ⟨hs, hp⟩ := h
  unfold lineOf
  rcases hs with rfl | rfl | rfl | rfl <;> omega

theorem isPackage_of_line {a b : Nat} (h : lineOf a = lineOf b) : isPackage a = isPackage b := by
  unfold lineOf at h
  unfold isPackage
  rw [decide_eq_decide]
  omega

section
variable {x : Die} {k n : Nat} (ha : Aligned k n) (now v : Nat)
include ha

theorem Die.write_byte (u : Mem) (k' : Nat) :
    (x.write now k n v).byte u k' = if k ≤ k' ∧ k' < k + n then BitVec.ofNat 8 (v / 256 ^ (k' - k)) else x.byte u k' := by
  have hclass (h : k ≤ k' ∧ k' < k + n) : isPackage k' = isPackage k := by
    have := ha.line (i := k' - k) (by omega)
    rw [show k + (k' - k) = k' by omega] at this
    exact isPackage_of_line this
  unfold Die.byte Die.owns Die.write
  dsimp only
  by_cases hin : k ≤ k' ∧ k' < k + n
  · rw [if_pos hin, hclass hin]
    cases isPackage k <;>
      simp only [if_true, Bool.false_eq_true, if_false, foldl_addNew_contains, contains_from, hin, and_self, decide_true, Bool.or_true, Mem.get_write]
  · rw [if_neg hin]
    cases isPackage k <;> cases isPackage k' <;>
      simp only [if_true, Bool.false_eq_true, if_false, foldl_addNew_contains, contains_from, hin, decide_false, Bool.or_false, Mem.get_write]

theorem Die.write_owns {i : Nat} (hi : i < n) : (x.write now k n v).owns (k + i) = true := by
  have hclass : isPackage (k + i) = isPackage k := isPackage_of_line (ha.line hi)
  have hin : k ≤ k + i ∧ k + i < k + n := by omega
  unfold Die.owns Die.write
  dsimp only
  rw [hclass]
  cases isPackage k <;>
    simp only [if_true, Bool.false_eq_true, if_false, foldl_addNew_contains, contains_from, hin, and_self, decide_true, Bool.or_true]

end

/-! ### What the fetch of a line leaves of the dirty bytes of that line -/

/-- Dies that hold the same dirty bytes of a line. -/
structure Die.SameLine (line : Nat) (x y : Die) : Prop where
  dirty : y.dirty = x.dirty
  dirtyAt : y.dirtyAt = x.dirtyAt
  hdirtyAt : ∀ k, lineOf k = line → y.hdirtyAt.contains k = x.hdirtyAt.contains k
  hdirty : ∀ k, lineOf k = line → Mem.get y.hdirty k = Mem.get x.hdirty k

theorem Die.SameLine.refl (line : Nat) (x : Die) : x.SameLine line x := ⟨rfl, rfl, fun _ _ => rfl, fun _ _ => rfl⟩

theorem Die.SameLine.trans {line : Nat} {x y z : Die} (h1 : x.SameLine line y) (h2 : y.SameLine line z) : x.SameLine line z :=
  ⟨h2.dirty.trans h1.dirty, h2.dirtyAt.trans h1.dirtyAt, fun k hk => (h2.hdirtyAt k hk).trans (h1.hdirtyAt k hk),
    fun k hk => (h2.hdirty k hk).trans (h1.hdirty k hk)⟩

theorem Die.SameLine.of_owned {line : Nat} {x y : Die} (h : y.owned = x.owned) : x.SameLine line y where
  dirty := (congrArg Die.dirty h : y.owned.dirty = x.owned.dirty)
  dirtyAt := (congrArg Die.dirtyAt h : y.owned.dirtyAt = x.owned.dirtyAt)
  hdirtyAt k _ := (congrArg (fun z : Die => z.hdirtyAt.contains k) h : y.owned.hdirtyAt.contains k = x.owned.hdirtyAt.contains k)
  hdirty k _ := (congrArg (fun z : Die => Mem.get z.hdirty k) h : Mem.get y.owned.hdirty k = Mem.get x.owned.hdirty k)

theorem Die.SameLine.owns {line : Nat} {x y : Die} (h : x.SameLine line y) {k : Nat} (hk : lineOf k = line) : y.owns k = x.owns k := by
  unfold Die.owns
  rw [h.dirtyAt, h.hdirtyAt k hk]

theorem Die.SameLine.byte {line : Nat} {x y : Die} (h : x.SameLine line y) {k : Nat} (hk : lineOf k = line) {u w : Mem}
    (hu : x.owns k = false → Mem.get w k = Mem.get u k) : y.byte w k = x.byte u k := by
  unfold Die.byte
  rw [h.owns hk]
  cases ho : x.owns k with
  | true =>
    rw [if_pos rfl, if_pos rfl]
    split
    · rw [h.dirty]
    · exact h.hdirty k hk
  | false =>
    rw [if_neg Bool.false_ne_true, if_neg Bool.false_ne_true]
    exact hu ho

/-- Machines of which a die holds the same dirty bytes of a line. -/
def Mach.SameLine (d line : Nat) (m m' : Mach) : Prop := ∀ x, m.dies[d]? = some x → ∃ y, m'.dies[d]? = some y ∧ x.SameLine line y

theorem Mach.SameLine.refl (d line : Nat) (m : Mach) : Mach.SameLine d line m m := fun x hx => ⟨x, hx, .refl line x⟩

theorem Mach.SameLine.trans {d line : Nat} {m m' m'' : Mach} (h1 : Mach.SameLine d line m m') (h2 : Mach.SameLine d line m' m'') :
    Mach.SameLine d line m m'' := fun x hx => by
  obtain ⟨y, hy, h⟩ := h1 x hx
  obtain ⟨z, hz, h'⟩ := h2 y hy
  exact ⟨z, hz, h.trans h'⟩

theorem Mach.SameLine.of_written {d line : Nat} {m m' : Mach} (h : m'.written = m.written) : Mach.SameLine d line m m' := fun x hx => by
  obtain ⟨y, hy, ho⟩ := die_of_written h hx
  exact ⟨y, hy, .of_owned ho⟩

theorem Mach.SameLine.modDie {d line : Nat} (m : Mach) {f : Die → Die} (hf : ∀ x : Die, x.SameLine line (f x)) :
    Mach.SameLine d line m (m.modDie d f) := fun x hx => ⟨f x, dies_modDie_self hx, hf x⟩

theorem flushBytes_sameLine (m : Mach) (d line : Nat) {ks : List Nat} (h : ∀ k ∈ ks, lineOf k ≠ line) :
    Mach.SameLine d line m (m.flushBytes d ks) := by
  intro x hx
  unfold Mach.flushBytes
  simp only [hx]
  refine ⟨_, dies_modDie_self (x := x) ?_, ?_⟩
  · rw [← hx]
    congr 1
    refine foldl_same (·.dies) _ (fun m k => ?_) _ _
    split
    · rfl
    · exact homeWrite_dies ..
  · have hnot : ∀ k, lineOf k = line →
        (ks.filter fun k => x.hdirtyAt.contains k && (m.peerHeld k || !m.targetLost k)).contains k = false := by
      intro k hk
      rw [Bool.eq_false_iff, Ne, List.contains_iff_mem]
      exact fun hmem => h k (List.mem_filter.mp hmem).1 hk
    refine ⟨rfl, rfl, fun k hk => ?_, fun k hk => ?_⟩
    · rw [Bool.eq_iff_iff, List.contains_iff_mem, List.contains_iff_mem, List.mem_filter, hnot k hk]
      simp
    · exact Mem.get_filter fun v => by rw [hnot k hk]; rfl

theorem replaceLine_sameLine (m : Mach) (d : Nat) {l line : Nat} (h : l ≠ line) : Mach.SameLine d line m (m.replaceLine d l) := by
  have hks : ∀ k ∈ ((m.dies[d]?).map (Die.hostBytes · l)).getD [], lineOf k ≠ line := by
    intro k hk
    cases hx : m.dies[d]? with
    | none => simp [hx] at hk
    | some x =>
      simp only [hx, Option.map_some, Option.getD_some, Die.hostBytes, List.mem_filter, decide_eq_true_eq] at hk
      rw [hk.2]
      exact h
  unfold Mach.replaceLine
  dsimp only
  split
  · exact .refl _ _ _
  · refine (flushBytes_sameLine m d line hks).trans (.modDie _ fun x => ?_)
    exact ⟨rfl, rfl, fun _ _ => rfl, fun _ _ => rfl⟩

theorem replaceLines_sameLine (d line : Nat) (ls : List Nat) (h : ∀ l ∈ ls, l ≠ line) (m : Mach) :
    Mach.SameLine d line m (ls.foldl (fun m l => m.replaceLine d l) m) := by
  induction ls generalizing m with
  | nil => exact .refl _ _ _
  | cons l ls ih =>
    exact (replaceLine_sameLine m d (h l (List.mem_cons_self ..))).trans (ih (fun j hj => h j (List.mem_cons_of_mem _ hj)) _)

theorem over_ne (c : Copies) (cap line : Nat) : ∀ l ∈ c.over cap line, l ≠ line := by
  intro l hl
  have := (List.mem_filter.mp (List.mem_of_mem_drop hl)).2
  simpa using this

/-- A chain of steps, each of which may hold, that keeps what each step keeps. -/
theorem foldl_bind_same {α β : Type} (P : Mach → β) (f : Mach → α → Option Mach) (h : ∀ m a m', f m a = some m' → P m' = P m) (l : List α)
    (m m' : Mach) (hm : l.foldl (fun o a => o.bind fun m => f m a) (some m) = some m') : P m' = P m := by
  have hnone : ∀ l : List α, l.foldl (fun o a => o.bind fun m => f m a) none = none := fun l => by
    induction l with
    | nil => rfl
    | cons b bs ihb => rw [List.foldl_cons, Option.bind_none, ihb]
  induction l generalizing m with
  | nil => cases hm; rfl
  | cons a as ih =>
    rw [List.foldl_cons, Option.bind_some] at hm
    cases hr : f m a with
    | none => rw [hr, hnone] at hm; cases hm
    | some m1 => rw [hr] at hm; exact (ih m1 hm).trans (h m a m1 hr)

theorem applyRec_home (n : Nat) (m : Mach) (d a e : Nat) : (Mach.applyRec n m d a e).home = m.home := by
  induction n generalizing m d a e with
  | zero => rfl
  | succ n ih =>
    unfold Mach.applyRec
    split
    · rfl
    · dsimp only
      split
      · rfl
      · refine (ih ..).trans (foldl_same (·.home) _ (fun m c => ?_) _ _)
        split
        · exact ih ..
        · rfl

theorem readTag_same {m m' : Mach} {d a : Nat} (h : m.readTag d a = some m') : (m'.written, m'.home) = (m.written, m.home) := by
  unfold Mach.readTag at h
  dsimp only at h
  split at h
  · cases h
  · cases h
    rw [applySeen_written]
    exact congrArg _ (foldl_same (·.home) _ (fun _ _ => applyRec_home ..) _ _)

/-- A line that a die has fetched: its dirty bytes are as before, and the copy holds the bytes of home. -/
theorem fetchLine_line {m m' : Mach} {d line : Nat} (h : m.fetchLine d line = some m') {x : Die} (hx : m.dies[d]? = some x) :
    ∃ y, m'.dies[d]? = some y ∧ x.SameLine line y ∧
      (Mem.wf m.home = true → ∀ k, lineOf k = line → Mem.get y.l2.data k = Mem.get (if x.l2.holds line then x.l2.data else m.home) k) := by
  unfold Mach.fetchLine at h
  simp only [hx] at h
  cases hl : x.l2.holds line with
  | true =>
    rw [hl, if_pos rfl] at h
    cases h
    exact ⟨x, hx, .refl line x, fun _ k _ => by rw [if_pos rfl]⟩
  | false =>
    rw [hl, if_neg Bool.false_ne_true] at h
    split at h
    · cases h
    · obtain ⟨m1, h1, rfl⟩ := Option.map_eq_some_iff.mp h
      obtain ⟨hwritten, hhome⟩ := Prod.mk.inj
        (foldl_bind_same (fun m => (m.written, m.home)) (fun m s => m.readTag d s) (fun _ _ _ => readTag_same) (sectorsOf line) m m1 h1)
      obtain ⟨y, hy, hsame⟩ := (Mach.SameLine.of_written (d := d) (line := line) hwritten).trans
        (replaceLines_sameLine d line (x.l2.over Config.l2Lines line) (over_ne _ _ _) m1) x hx
      refine ⟨_, dies_modDie_self (x := y) hy, ⟨hsame.dirty, hsame.dirtyAt, hsame.hdirtyAt, hsame.hdirty⟩, fun hwf k hk => ?_⟩
      rw [if_neg Bool.false_ne_true, ← hhome]
      unfold lineOf at hk
      exact Mem.get_replace_span y.l2.data (hhome.symm ▸ hwf) (by omega) (by omega)

end Sys2Proof.Machine

/-! PROOFS. A store shows at its own die, in the loads of its core, and nowhere else (spec 12 R215, R216). -/

namespace Sys2Proof.Machine

section
variable {m : Mach} {d c k n v : Nat}

/-! ### The dies and cores after a store -/

theorem dieWrite_die {x : Die} (hx : m.dies[d]? = some x) :
    (m.dieWrite d (some c) k n v).dies[d]? =
      some { x.write m.now k n v with cores := x.cores.modify c fun y => { y with l1 := y.l1.update k n v } } := by
  have hcores : (x.write m.now k n v).cores = x.cores := by
    unfold Die.write
    dsimp only
    split <;> rfl
  rw [Mach.dieWrite, Mach.modCore, dies_modDie_self (dies_modDie_self hx), hcores]

theorem dieWrite_other {d' : Nat} (h : d' ≠ d) : (m.dieWrite d (some c) k n v).dies[d']? = m.dies[d']? := by
  simp [Mach.dieWrite, Mach.modCore, Mach.modDie, Ne.symm h]

theorem dieWrite_home (m : Mach) (d c k n v : Nat) : (m.dieWrite d (some c) k n v).home = m.home := rfl

theorem Die.write_l2 (x : Die) (now k n v : Nat) : (x.write now k n v).l2 = x.l2 := by
  unfold Die.write
  dsimp only
  split <;> rfl

/-- A die shows bytes by what it holds dirty and by its copies, whatever its cores hold. -/
theorem Die.byte_cores (x : Die) (cs : List Core) (u : Mem) (k : Nat) : ({ x with cores := cs } : Die).byte u k = x.byte u k := rfl

theorem dieWrite_shows (ha : Aligned k n) (hd : d < m.dies.length) (d' k' : Nat) :
    (m.dieWrite d (some c) k n v).shows d' k' =
      if d' = d ∧ k ≤ k' ∧ k' < k + n then BitVec.ofNat 8 (v / 256 ^ (k' - k)) else m.shows d' k' := by
  by_cases h : d' = d
  · subst h
    have hx : m.dies[d']? = some m.dies[d'] := List.getElem?_eq_getElem hd
    unfold Mach.shows
    rw [dieWrite_die hx, hx]
    dsimp only
    rw [Die.byte_cores, Die.write_byte ha, Die.write_l2, dieWrite_home]
    by_cases hin : k ≤ k' ∧ k' < k + n
    · rw [if_pos hin, if_pos ⟨rfl, hin⟩]
    · simp only [hin, and_false, if_false]
  · rw [if_neg fun hh => h hh.1]
    unfold Mach.shows
    rw [dieWrite_other h, dieWrite_home]

/-! ### Loads of the storing core -/

theorem update_holds (l : Copies) (k n v line : Nat) : (l.update k n v).holds line = l.holds line := by
  unfold Copies.update
  split <;> rfl

theorem update_read {l : Copies} (h : l.holds (lineOf k) = true) (n v : Nat) : Mem.read (l.update k n v).data k n = v % 256 ^ n := by
  unfold Copies.update
  rw [if_pos h]
  exact Mem.read_write_self ..

theorem coreLoad_own (ha : Aligned k n) (h4 : keyClass k ≠ 4) (hc : (m.core? d c).isSome) :
    ∃ m', (m.dieWrite d (some c) k n v).coreLoad d c k n = some (v % 256 ^ n, m') := by
  obtain ⟨y, hy⟩ := Option.isSome_iff_exists.mp hc
  rw [core?_eq, Option.bind_eq_some_iff] at hy
  obtain ⟨x, hx, hy⟩ := hy
  have hdie := dieWrite_die (c := c) (k := k) (n := n) (v := v) hx
  have hcore : (m.dieWrite d (some c) k n v).core? d c = some { y with l1 := y.l1.update k n v } := by
    rw [core?_eq, hdie]
    simp [hy]
  have hvalue (z : Die) (hz : ({ x.write m.now k n v with cores := x.cores.modify c fun y => { y with l1 := y.l1.update k n v } } : Die).SameLine
      (lineOf k) z) (u : Mem) : z.read u k n = v % 256 ^ n :=
    Die.read_value fun i hi => by
      rw [hz.byte (ha.line hi) (u := u) fun _ => rfl, Die.byte_cores, Die.write_byte ha, if_pos (by omega), Nat.add_sub_cancel_left]
  unfold Mach.coreLoad
  simp only [hcore, if_neg h4, update_holds]
  split
  · next hl => exact ⟨_, congrArg (fun r => some (r, _)) (update_read hl n v)⟩
  · split
    · refine ⟨m.dieWrite d (some c) k n v, ?_⟩
      have hall : ({ x.write m.now k n v with cores := x.cores.modify c fun y => { y with l1 := y.l1.update k n v } } : Die).ownsAll k n = true := by
        rw [Die.ownsAll, List.all_eq_true]
        exact fun i hi => Die.write_owns ha _ _ (List.mem_range.mp hi)
      simp only [Mach.dieRead, if_neg h4, hdie, hall, if_true, hvalue _ (.refl ..)]
    · next m2 hf =>
      obtain ⟨z, hz, hsame, -⟩ := fetchLine_line hf hdie
      rw [hz, Option.map_some, hvalue z hsame]
      exact ⟨_, rfl⟩

/-! ### Loads of other cores -/

theorem coreLoad_other {e c' : Nat} {x : Core} (h4 : keyClass k ≠ 4) (hne : (e, c') ≠ (d, c)) (hc : m.core? e c' = some x)
    (hl : x.l1.holds (lineOf k) = true) :
    (m.dieWrite d (some c) k n v).coreLoad e c' k n = some (Mem.read x.l1.data k n, m.dieWrite d (some c) k n v) := by
  have hcore : (m.dieWrite d (some c) k n v).core? e c' = some x := by
    rw [core?_eq] at hc ⊢
    by_cases he : e = d
    · subst he
      have hcc : c ≠ c' := fun h => hne (by rw [h])
      rw [Option.bind_eq_some_iff] at hc
      obtain ⟨y, hy, hc⟩ := hc
      rw [dieWrite_die hy]
      simp [hcc, hc]
    · rw [dieWrite_other he]
      exact hc
  simp only [Mach.coreLoad, hcore, if_neg h4, hl, if_true]

/-! ### Reads at a die -/

theorem dieRead_shows (ha : Aligned k n) (h4 : keyClass k ≠ 4) {m' : Mach} (hwf : Mem.wf m.home = true) (h : m.dieRead d k n = some (v, m')) :
    v < 256 ^ n ∧ ∀ i, i < n → BitVec.ofNat 8 (v / 256 ^ i) = m.shows d (k + i) := by
  unfold Mach.dieRead at h
  rw [if_neg h4] at h
  split at h
  · cases h
  · next x hx =>
    have hshows (i : Nat) : m.shows d (k + i) = x.byte (if x.l2.holds (lineOf (k + i)) then x.l2.data else m.home) (k + i) := by
      simp only [Mach.shows, hx]
    split at h
    · next hall =>
      cases h
      refine ⟨Die.read_lt .., fun i hi => ?_⟩
      have hown : x.owns (k + i) = true := List.all_eq_true.mp hall i (List.mem_range.mpr hi)
      rw [Die.read_byte _ _ hi, hshows]
      simp only [Die.byte, hown, if_true]
    · obtain ⟨m1, hf, h⟩ := Option.bind_eq_some_iff.mp h
      obtain ⟨y, hy, h⟩ := Option.map_eq_some_iff.mp h
      cases h
      obtain ⟨z, hz, hsame, hdata⟩ := fetchLine_line hf hx
      cases hz.symm.trans hy
      refine ⟨Die.read_lt .., fun i hi => ?_⟩
      rw [Die.read_byte _ _ hi, hshows, ha.line hi]
      exact hsame.byte (ha.line hi) fun _ => hdata hwf _ (ha.line hi)

end

/-- Settles O25: a store changes the dirty bytes of its own die and the copy of its own core, and reads give what a die shows. -/
theorem storesShow : Obligations.StoresShow := by
  intro m d k n hs hp h4
  have ha : Aligned k n := ⟨hs, hp⟩
  exact ⟨fun c v => ⟨fun hd d' k' => dieWrite_shows ha hd d' k', fun hc => coreLoad_own ha h4 hc, fun e c' x hne hc hl => coreLoad_other h4 hne hc hl⟩,
    fun m' v hwf _ h => dieRead_shows ha h4 hwf h⟩

end Sys2Proof.Machine

/-! PROOFS. What the steps of the slot protocol leave of teams and warps (spec 18 R319, R320, R325; 19 R356). -/

namespace Sys2Proof.Machine

/-! ### Everything but memories, pipes and the watermarks of teams -/

def Team.unmarked (x : Team) : Team := { x with desched := false, boost := false }

/-- The machine without its memories, its pipes and the watermarks of its teams. -/
def Mach.unpiped (m : Mach) : Mach := { m.base with teams := m.teams.map Team.unmarked, pipes := [] }

theorem unpiped_of_base {m m' : Mach} (h : m'.base = m.base) : m'.unpiped = m.unpiped := by
  simp only [Mach.unpiped, h, teams_of_base h]

theorem refreshMarks_unpiped (m : Mach) : m.refreshMarks.unpiped = m.unpiped := by
  have ht : m.refreshMarks.teams.map Team.unmarked = m.teams.map Team.unmarked := by
    simp only [Mach.refreshMarks, List.map_map]
    refine List.map_congr_left fun x _ => ?_
    simp only [Function.comp]
    split <;> simp only [Team.unmarked]
  exact congrArg (fun ts => { m.base with teams := ts, pipes := [] }) ht

theorem setPipe_unpiped (m : Mach) (p : Pipe) : (m.setPipe p).unpiped = m.unpiped := refreshMarks_unpiped _

theorem joinSlot_base (m : Mach) (g : Issue) (p : Pipe) (j : Nat) : (m.joinSlot g p j).base = m.base :=
  (applySeen_base ..).trans (acquireDrops_base ..)

theorem dieReadSure_base {m m' : Mach} {d k n v : Nat} (h : m.dieReadSure d k n = some (v, m')) : m'.base = m.base := by
  unfold Mach.dieReadSure at h
  split at h
  · next hr => cases h; exact dieRead_base hr
  · exact (dieRead_base h).trans (unblock_base ..)

theorem bytesBy_base {read : Mach → Nat → Nat → Nat → Option (Nat × Mach)} (hread : ∀ m d k n v m', read m d k n = some (v, m') → m'.base = m.base)
    {m m' : Mach} {d ctx va n v : Nat} (h : m.bytesBy read d ctx va n = some (v, m')) : m'.base = m.base :=
  foldl_reads_base (fun (r : Nat × Mach) (p : Nat × Nat) => (r.2.keyOf ctx (va + p.1)).bind fun k =>
      (read r.2 ((r.2.slotHome ctx (va + p.1)).getD d) k p.2).map fun (q : Nat × Mach) => (r.1 + q.1 * 2 ^ (8 * p.1), q.2)) (fun r p r' hr => by
    obtain ⟨k, -, hr⟩ := Option.bind_eq_some_iff.mp hr
    obtain ⟨⟨v1, m1⟩, hq, he⟩ := Option.map_eq_some_iff.mp hr
    cases he
    exact hread _ _ _ _ _ _ hq) (pieces n) (0, m) (v, m') h

theorem bytesAt_base {m m' : Mach} {d ctx va n v : Nat} (h : m.bytesAt d ctx va n = some (v, m')) : m'.base = m.base :=
  bytesBy_base (fun _ _ _ _ _ _ h => dieRead_base h) h

theorem copySlot_base (m : Mach) (d ctx src dst n : Nat) : (m.copySlot d ctx src dst n).base = m.base := by
  unfold Mach.copySlot
  split
  · next r hr =>
    refine (foldl_base _ (fun m i => ?_) _ _).trans ((putBytes_base ..).trans (bytesBy_base (fun _ _ _ _ _ _ h => dieReadSure_base h) hr))
    split
    · exact poisonBytes_base ..
    · rfl
  · rfl

theorem returnSpill_unpiped (m : Mach) (n j : Nat) : (m.returnSpill n j).unpiped = m.unpiped := by
  unfold Mach.returnSpill
  split
  · split
    · exact (setPipe_unpiped ..).trans (unpiped_of_base (copySlot_base ..))
    · rfl
  · rfl

theorem freeSlots_unpiped (k : Nat) (m : Mach) (n : Nat) : (Mach.freeSlots k m n).unpiped = m.unpiped := by
  induction k generalizing m with
  | zero => rfl
  | succ k ih =>
    unfold Mach.freeSlots
    split
    · next p _ =>
      split
      · next j _ =>
        have hone : ((m.putBytes p.home p.ctx (p.slotAddr j) p.slotSize 0).setPipe (p.setSlot j { st := .free, seq := 0, seen := p.seenAt j })).unpiped =
            m.unpiped := (setPipe_unpiped ..).trans (unpiped_of_base (putBytes_base ..))
        refine (ih _).trans ?_
        split
        · exact hone
        · exact (returnSpill_unpiped ..).trans hone
      · rfl
    · rfl

theorem releaseSlot_unpiped (m : Mach) (n j : Nat) (seen : List Nat) : (m.releaseSlot n j seen).unpiped = m.unpiped := by
  unfold Mach.releaseSlot
  split
  · split
    · exact (freeSlots_unpiped ..).trans (setPipe_unpiped ..)
    · rfl
  · rfl

section
variable {m m' : Mach} (h : m'.unpiped = m.unpiped)
include h

theorem team_of_unpiped {t : Nat} {x : Team} (ht : m.teams[t]? = some x) : ∃ x', m'.teams[t]? = some x' ∧ x'.unmarked = x.unmarked := by
  have hts : m'.teams.map Team.unmarked = m.teams.map Team.unmarked := congrArg Mach.teams h
  have ht' := congrArg (·[t]?) hts
  simp only [List.getElem?_map, ht, Option.map_some] at ht'
  exact Option.map_eq_some_iff.mp ht'

theorem unit_of_unpiped : m'.unit = m.unit := (congrArg Mach.unit h : m'.unpiped.unit = m.unpiped.unit)

end

/-- A record of a warp names its team by what no watermark changes. -/
theorem TrapRec.at_of_unmarked {x y : Team} (h : y.unmarked = x.unmarked) (r : TrapRec) (w core : Nat) : r.at y w core = r.at x w core := by
  have hctx : y.ctx = x.ctx := (congrArg Team.ctx h : y.unmarked.ctx = x.unmarked.ctx)
  have hdie : y.die = x.die := (congrArg Team.die h : y.unmarked.die = x.unmarked.die)
  have hx : y.x = x.x := (congrArg Team.x h : y.unmarked.x = x.unmarked.x)
  have hy : y.y = x.y := (congrArg Team.y h : y.unmarked.y = x.unmarked.y)
  have hz : y.z = x.z := (congrArg Team.z h : y.unmarked.z = x.unmarked.z)
  simp only [TrapRec.at, hctx, hdie, hx, hy, hz]

/-! ### The pipe of a slot -/

section
variable {m : Mach} {n : Nat} {p : Pipe}

theorem pipe_num (h : m.pipe? n = some p) : p.num = n := by
  have := List.find?_some h
  simpa using this

theorem pipe_setPipe (h : m.pipe? n = some p) {q : Pipe} (hq : q.num = n) : (m.setPipe q).pipe? n = some q := by
  have e : ((fun p => p.num == n) ∘ fun p : Pipe => if p.num = q.num then q else p) = fun p : Pipe => p.num == n := by
    funext p
    simp only [Function.comp]
    split
    · next hp => rw [hp]
    · rfl
  show (m.pipes.map fun p => if p.num = q.num then q else p).find? (fun p => p.num == n) = some q
  rw [List.find?_map, e, show m.pipes.find? (fun p => p.num == n) = some p from h, Option.map_some, if_pos ((pipe_num h).trans hq.symm)]

/-- A slot that has been committed, counted or not yet. -/
def Pipe.sent (p : Pipe) (j : Nat) : Prop := p.stateOf j = some .ready ∨ p.stateOf j = some .committed

theorem promote_sent (k : Nat) {p : Pipe} {j : Nat} (h : p.sent j) : (Pipe.promote k p).sent j ∧ (Pipe.promote k p).num = p.num := by
  induction k generalizing p with
  | zero => exact ⟨h, rfl⟩
  | succ k ih =>
    unfold Pipe.promote
    split
    · next i hi =>
      have hlt : i < p.slots.length := by
        obtain ⟨x, hx, -⟩ := Pipe.slot_of_find hi
        exact (List.getElem?_eq_some_iff.mp hx).1
      refine ih (p := { p.setSlot i { st := .committed, seq := p.cseq, seen := p.seenAt i } with cseq := p.cseq + 1 }) ?_
      by_cases hij : i = j
      · subst hij
        refine .inr ?_
        simp [Pipe.stateOf, Pipe.setSlot, hlt]
      · have : ({ p.setSlot i { st := .committed, seq := p.cseq, seen := p.seenAt i } with cseq := p.cseq + 1 } : Pipe).stateOf j = p.stateOf j :=
          congrArg _ (Pipe.setSlot_other _ (Ne.symm hij))
        unfold Pipe.sent
        rw [this]
        exact h
    · exact ⟨h, rfl⟩

theorem mark_num (p : Pipe) : p.mark.num = p.num := by
  unfold Pipe.mark
  split <;> rfl

/-- The commit of a slot that there is. -/
theorem commit_sent {j : Nat} (hj : j < p.slots.length) (seen : List Nat) : (p.commit j seen).sent j ∧ (p.commit j seen).num = p.num := by
  have hx : p.slots[j]? = some p.slots[j] := List.getElem?_eq_getElem hj
  have hready : (p.setSlot j { p.slots[j] with st := .ready, seen := seen }).sent j := .inl (by simp [Pipe.stateOf, Pipe.setSlot, hj])
  obtain ⟨hsent, hnum⟩ := promote_sent p.slots.length hready
  simp only [Pipe.commit, hx]
  refine ⟨?_, (mark_num _).trans hnum⟩
  unfold Pipe.sent Pipe.stateOf at hsent ⊢
  rw [Pipe.mark_slots]
  exact hsent

theorem commitSlot_sent (h : m.pipe? n = some p) {j : Nat} (hj : j < p.slots.length) (seen : List Nat) :
    ∃ q, (m.commitSlot n j seen).pipe? n = some q ∧ q.sent j := by
  obtain ⟨hsent, hnum⟩ := commit_sent hj seen
  simp only [Mach.commitSlot, h]
  exact ⟨_, pipe_setPipe h (hnum.trans (pipe_num h)), hsent⟩

theorem copyFault_pipes (m : Mach) (t w pc va skid : Nat) : (m.copyFault t w pc va skid).pipes = m.pipes := by
  unfold Mach.copyFault
  split <;> rfl

theorem pipe_of_base {m m' : Mach} (h : m'.base = m.base) (n : Nat) : m'.pipe? n = m.pipe? n := by
  have : m'.pipes = m.pipes := (congrArg Mach.pipes h : m'.base.pipes = m.base.pipes)
  simp only [Mach.pipe?, this]

/-- A message in its slot at a home that no failed link has cut off. -/
theorem deliverMessage_sent (h : m.pipe? n = some p) (hh : m.isHalted p.home = false) {j : Nat} (hj : j < p.slots.length) (t w : Nat) (f : Flight)
    (v : Nat) : ∃ q, (m.deliverMessage t w n j f v).pipe? n = some q ∧ q.sent j := by
  have hbytes (k : Nat) : (m.putBytes p.home p.ctx (p.slotAddr j) p.slotSize k).pipe? n = some p := (pipe_of_base (putBytes_base ..) n).trans h
  have hpoison (k : Nat) : ((m.putBytes p.home p.ctx (p.slotAddr j) p.slotSize k).poisonBytes p.home p.ctx (p.slotAddr j) p.slotSize).pipe? n =
      some p := (pipe_of_base (poisonBytes_base ..) n).trans (hbytes k)
  unfold Mach.deliverMessage
  simp only [h, hh, Bool.false_eq_true, if_false]
  split
  · next hbad =>
    simp only [Mach.pipe?, copyFault_pipes]
    exact commitSlot_sent (hpoison _) hj _
  · exact commitSlot_sent (hbytes _) hj _

end

end Sys2Proof.Machine

/-! PROOFS. The pipe instructions and the commit of a message (spec 19 R353 to R356). -/

namespace Sys2Proof.Machine

/-! ### The pipe instructions -/

section
variable {s : State} {g : Issue} {i : Instr} {d : Fin 32} {a b : Src} {p q : Pipe} {j : Nat}

theorem reserveOp_some {fail : Mach → Issue → Mach} (ha : AdmitsLast s.m g i) (hp : s.m.ownPipe g (g.warp.one a).toNat false = some p)
    (hr : p.reserve = some (j, q)) :
    reserveOp i d a fail s = .next { s with m := ((s.m.setPipe q).joinSlot g p j).retire g i ((g.warp.begin i.uses).setPair d (p.slotAddr j)) } := by
  rw [reserveOp, issueLast_admits _ ha]
  simp only [hp, hr]

theorem reserveOp_none {fail : Mach → Issue → Mach} (ha : AdmitsLast s.m g i) (hp : s.m.ownPipe g (g.warp.one a).toNat false = some p)
    (hr : p.reserve = none) : reserveOp i d a fail s = .next { s with m := fail s.m g } := by
  rw [reserveOp, issueLast_admits _ ha]
  simp only [hp, hr]

theorem takeOp_some {fail : Mach → Issue → Mach} (ha : AdmitsLast s.m g i) (hp : s.m.ownPipe g (g.warp.one a).toNat true = some p)
    (ht : p.takeable = some j) :
    takeOp i d a fail s =
      .next { s with m := ((s.m.setPipe (p.take j)).joinSlot g p j).retire g i ((g.warp.begin i.uses).setPair d (p.slotAddr j)) } := by
  rw [takeOp, issueLast_admits _ ha]
  simp only [hp, ht]

theorem takeOp_none {fail : Mach → Issue → Mach} (ha : AdmitsLast s.m g i) (hp : s.m.ownPipe g (g.warp.one a).toNat true = some p)
    (ht : p.takeable = none) : takeOp i d a fail s = .next { s with m := fail s.m g } := by
  rw [takeOp, issueLast_admits _ ha]
  simp only [hp, ht]

theorem pcmt_commits {m1 : Mach} (ha : AdmitsLast s.m g (.pcmt a b)) (hp : s.m.ownPipe g (g.warp.one a).toNat false = some p)
    (hj : p.slotIn (g.warp.pair b) .reserved = some j) (hr : g.releases s.m (p.scope g.team.die))
    (h1 : m1 = s.m.release g.team.die (p.scope g.team.die)) :
    exec (.pcmt a b) s = .next { s with
      m := (m1.commitSlot p.num j (m1.seenBy g.team.die)).retire g (.pcmt a b) (g.warp.begin (Instr.pcmt a b).uses) } := by
  rw [exec_pcmt, execPcmt, issueLast_admits _ ha]
  simp only [hp, hj, withRelease_ok _ _ hr, h1]

theorem prel_releases (ha : AdmitsLast s.m g (.prel a b)) (hp : s.m.ownPipe g (g.warp.one a).toNat true = some p)
    (hj : p.slotIn (g.warp.pair b) .taken = some j) :
    exec (.prel a b) s = .next { s with m := (s.m.releaseSlot p.num j []).retire g (.prel a b) (g.warp.begin (Instr.prel a b).uses) } := by
  rw [exec_prel, execPrel, issueLast_admits _ ha]
  simp only [hp, hj]

theorem pstat_ring {h : Fin 16} {r : Ring} (ha : AdmitsLast s.m g (.pstat d a)) (hh : (g.warp.one a).toNat = h.val)
    (hr : g.team.rings.at h = some r) :
    exec (.pstat d a) s = .next { s with m := s.m.retire g (.pstat d a) ((g.warp.begin (Instr.pstat d a).uses).setS d
      (BitVec.ofNat 32 (r.held % 2 ^ 16 + r.room * 2 ^ 16))) } := by
  rw [exec_pstat, execPstat, issueLast_admits _ ha]
  simp only [hh, h.isLt, dite_true, Fin.eta, hr]

theorem pstat_pipe {n : Nat} (ha : AdmitsLast s.m g (.pstat d a)) (hn : (g.warp.one a).toNat = 0x8000 + n) (hlt : n < 4096)
    (hp : s.m.ownPipe g n true = some p) :
    exec (.pstat d a) s = .next { s with m := s.m.retire g (.pstat d a) ((g.warp.begin (Instr.pstat d a).uses).setS d (BitVec.ofNat 32 p.status)) } := by
  have hring : ¬ 0x8000 + n < 16 := by omega
  have hpipe : 0x8000 ≤ 0x8000 + n ∧ 0x8000 + n < 0x9000 := by omega
  rw [exec_pstat, execPstat, issueLast_admits _ ha]
  simp only [hn, dif_neg hring, if_pos hpipe, Nat.add_sub_cancel_left, hp]

/-! ### Mailboxes -/

section
variable {va n : Nat} {kind : Access} {r : RangeDesc} {st : Area} {m m2 : Mach}

theorem AreaOf.base_eq (h : AreaOf m g va n kind r st m2) : m2.base = m.base := by
  have hboth {m1 m2 : Mach} {r : RangeDesc} {c : Check} {b : Bool}
      (ht : m.translate g.team.die g.core g.team.ctx va n kind g.team.super = (.ok r, m1))
      (hl : m1.lateCheck g.team.ctx r va b = (c, m2)) : m2.base = m.base := by
    have h1 := translate_base m g.team.die g.core g.team.ctx va n kind g.team.super
    have h2 := lateCheck_base m1 g.team.ctx r va b
    rw [ht] at h1
    rw [hl] at h2
    exact h2.trans h1
  cases h with
  | reached m1 m2 ht hl => exact hboth ht hl
  | denied m1 m2 ht hl => exact hboth ht hl
  | lost m1 m2 c gs ht hl _ => exact hboth ht hl

theorem AreaOf.withArea_eq (h : AreaOf m g va n kind r st m2) (i : Instr) (k : Mach → RangeDesc → Area → Mach) :
    m.withArea g i va n kind k = k m2 r st := by
  cases h with
  | reached m1 m2 ht hl => simp only [Mach.withArea, ht, hl]
  | denied m1 m2 ht hl => simp only [Mach.withArea, ht, hl]
  | lost m1 m2 c gs ht hl hc => simp only [Mach.withArea, ht, hl, if_pos hc]

end

/-- A message in flight is the youngest access of its warp. -/
def Warp.sends (x : Warp) (f : Flight) : Warp := { x.raise .ifg with flight := x.flight ++ [f] }

theorem KeepsCourse.sends (f : Flight) : KeepsCourse fun x => x.sends f :=
  ⟨fun _ => rfl, fun _ => rfl, fun _ => rfl, fun _ => rfl, fun _ => rfl, fun _ => rfl⟩

theorem trapPc_of_unit {m m' : Mach} (h : m'.unit = m.unit) (g : Issue) : m'.trapPc g = m.trapPc g := by
  simp only [Mach.trapPc, h]

theorem pmsg_sends {c : Context} {r : RangeDesc} {st : Area} {m2 m3 : Mach} (ha : AdmitsLast s.m g (.pmsg a b))
    (hp : s.m.pipe? (g.warp.one a).toNat = some p) (hmsg : p.msg = true) (hc : s.m.ctx? p.ctx = some c) (hpart : c.part = g.ctx.part)
    (hifg : g.warp.ifg < 255) (hh : s.m.isHalted p.home = false) (harea : AreaOf s.m g (g.warp.pair b) p.slotSize .load r st m2)
    (hr : g.releases m2 (p.scope g.team.die)) (h3 : m3 = m2.release g.team.die (p.scope g.team.die)) (hres : p.reserve = some (j, q)) :
    exec (.pmsg a b) s = .next { s with
      m := (m3.setPipe (q.setSlot j { st := .reserved, seq := p.rseq, seen := m3.seenBy g.team.die })).retire g (.pmsg a b)
        ((g.warp.begin (Instr.pmsg a b).uses).sends (g.message s.m (.pmsg a b) p j r (g.warp.pair b) st)) } := by
  have hunit : m3.unit = s.m.unit := h3 ▸ (unit_of_base (release_base ..)).trans (unit_of_base harea.base_eq)
  have hdenied : (decide (st = .denied)).toNat = if st = .denied then 1 else 0 := by cases st <;> rfl
  rw [exec_pmsg, execPmsg, issueLast_admits _ ha]
  simp only [hp, hc, hmsg, hpart, hh, harea.withArea_eq, withRelease_ok _ _ hr, ← h3, Mach.sendMessage, hres, trapPc_of_unit hunit, hdenied,
    if_neg (Nat.not_le.mpr hifg), decide_true, Bool.not_true, Bool.or_self, Bool.false_eq_true, if_false]
  rfl

/-- The machine in which a message has been taken and its slot released. -/
def Mach.consumed (m : Mach) (g : Issue) (p : Pipe) (j : Nat) : Mach := ((m.setPipe (p.take j)).joinSlot g p j).releaseSlot p.num j []

theorem precv_receives {r : RangeDesc} {st : Area} {v : Nat} {m2 m3 : Mach} (ha : AdmitsLast s.m g (.precv d a b))
    (hp : s.m.ownPipe g (g.warp.one a).toNat true = some p) (hmsg : p.msg = true)
    (harea : AreaOf s.m g (g.warp.pair b) p.slotSize .store r st m2) (hst : st ≠ .lost)
    (hh : m2.isHalted (m2.accessDie g (g.warp.pair b)) = false) (ht : p.takeable = some j)
    (hpoison : m2.poisonAt p.home p.ctx (p.slotAddr j) p.slotSize = false)
    (hbytes : m2.bytesAt p.home p.ctx (p.slotAddr j) p.slotSize = some (v, m3)) :
    exec (.precv d a b) s = .next { s with
      m := ((if st = .denied then (m3.setPipe (p.take j)).joinSlot g p j
        else ((m3.setPipe (p.take j)).joinSlot g p j).storeMessage g (m2.accessDie g (g.warp.pair b)) r (g.warp.pair b) p.slotSize v).releaseSlot
          p.num j []).retire g (.precv d a b) ((g.warp.begin (Instr.precv d a b).uses).setS d p.tseq) } := by
  unfold Mach.accessDie at hh
  rw [exec_precv, execPrecv, issueLast_admits _ ha]
  simp only [hp, hmsg, harea.withArea_eq, ht, hbytes, hpoison, hst, hh, Mach.accessDie, decide_false, Bool.or_self, Bool.not_true,
    Bool.false_eq_true, if_false, Bool.false_or, decide_eq_true_eq]
  rfl

/-- The fault of a copy joins those that the warp is to take. -/
def Warp.copyFails (x : Warp) (r : TrapRec) : Warp := { x with engFault := x.engFault ++ [r] }

theorem copyFault_eq {m : Mach} {team : Team} {x : Warp} (ht : m.teams[g.t]? = some team) (hx : m.warp? g.t g.w = some x) (pc va skid : Nat) :
    m.copyFault g.t g.w pc va skid = m.modWarp g.t g.w fun y =>
      y.copyFails (({ TrapRec.of 0x45 with pc := pc, va := va, skid := y.nonmem - skid } : TrapRec).at team g.w x.core) := by
  simp only [Mach.copyFault, ht, hx, Warp.copyFails]

theorem settle_copyFails (x : Warp) {u : Uses} (he : u.ending = true) (hm : u.mem = true) (head : Nat) (gang : BitVec 8) (r : TrapRec) :
    (x.copyFails r).settle u head gang = (x.settle u head gang).copyFails r := by
  simp only [Warp.settle, Warp.chainOn, Warp.skidOn, he, hm, if_true, Warp.countMeld, Warp.copyFails, Warp.noLatch]
  cases x.meld <;> rfl

theorem goOn_copyFails (x : Warp) (gang : BitVec 8) (n : Nat) (r : TrapRec) : (x.copyFails r).goOn gang n = (x.goOn gang n).copyFails r := by
  have hend : (x.copyFails r).loopEnd n = x.loopEnd n := rfl
  have hlc : (x.copyFails r).lc = x.lc := rfl
  simp only [Warp.goOn, Warp.afterEnd, hend, hlc]
  cases x.loopEnd n with
  | none => rfl
  | some l =>
    by_cases h0 : x.lc.at l - 1 = 0
    · simp only [if_pos h0]
      rfl
    · simp only [if_neg h0]
      rfl

theorem warp_of_unpiped {m m' : Mach} (h : m'.unpiped = m.unpiped) (t w : Nat) : m'.warp? t w = m.warp? t w := by
  have hts : m'.teams.map Team.unmarked = m.teams.map Team.unmarked := congrArg Mach.teams h
  have ht' := congrArg (fun ts : List Team => (ts[t]?).bind fun x => x.warps[w]?) hts
  simp only [List.getElem?_map, Option.bind_map] at ht'
  have heq (m : Mach) : m.warp? t w = (m.teams[t]?).bind ((fun x : Team => x.warps[w]?) ∘ Team.unmarked) := by
    unfold Mach.warp?
    cases m.teams[t]? <;> rfl
  rw [heq, heq]
  exact ht'

theorem consumed_unpiped (m : Mach) (g : Issue) (p : Pipe) (j : Nat) : (m.consumed g p j).unpiped = m.unpiped :=
  (releaseSlot_unpiped ..).trans ((unpiped_of_base (joinSlot_base ..)).trans (setPipe_unpiped ..))

theorem modWarp_modWarp (m : Mach) (t w : Nat) (f h : Warp → Warp) : (m.modWarp t w f).modWarp t w h = m.modWarp t w fun x => h (f x) := by
  have hlist {α : Type} (l : List α) (k : Nat) (f h : α → α) : (l.modify k f).modify k h = l.modify k fun x => h (f x) := by
    refine List.ext_getElem? fun j => ?_
    simp only [List.getElem?_modify]
    cases l[j]? with
    | none => rfl
    | some x => by_cases hj : k = j <;> simp [hj]
  have hteam (x : Team) : (x.modWarp w f).modWarp w h = x.modWarp w fun x => h (f x) := by
    simp only [Team.modWarp, hlist]
  simp only [Mach.modWarp, Mach.modTeam, hlist, hteam]

theorem goOn_nonmem (x : Warp) (gang : BitVec 8) (n : Nat) : (x.goOn gang n).nonmem = x.nonmem := by
  simp only [Warp.goOn, Warp.afterEnd, Warp.setPc_nonmem]
  split
  · split <;> rfl
  · rfl

theorem settle_mem_nonmem (x : Warp) {u : Uses} (he : u.ending = true) (hm : u.mem = true) (head : Nat) (gang : BitVec 8) :
    (x.settle u head gang).nonmem = x.nonmem := by
  simp only [Warp.settle, Warp.chainOn, he, hm, if_true, Nat.add_zero]

/-- A retirement followed by the fault of a copy is a retirement with that fault. -/
theorem retire_copyFault {m : Mach} {team : Team} {x : Warp} (ht : m.teams[g.t]? = some team) (hw : m.warp? g.t g.w = some x) {y : Warp}
    (he : i.uses.ending = true) (hm : i.uses.mem = true) (hcore : y.core = g.core) (pc va : Nat) :
    (m.retire g i y).copyFault g.t g.w pc va 0 =
      m.retire g i (y.copyFails (({ TrapRec.of 0x45 with pc := pc, va := va, skid := y.nonmem } : TrapRec).at team g.w g.core)) := by
  have hcore' : ((y.settle i.uses (m.trapPc g) g.gang).goOn g.gang (g.pc + i.size)).core = g.core := by simp [hcore]
  have hnonmem : ((y.settle i.uses (m.trapPc g) g.gang).goOn g.gang (g.pc + i.size)).nonmem = y.nonmem := by
    rw [goOn_nonmem, settle_mem_nonmem _ he hm]
  have hteam : (m.retire g i y).teams[g.t]? = some (team.modWarp g.w fun _ => (y.settle i.uses (m.trapPc g) g.gang).goOn g.gang (g.pc + i.size)) :=
    teams_modWarp ht g.w _
  have hwarp : (m.retire g i y).warp? g.t g.w = some ((y.settle i.uses (m.trapPc g) g.gang).goOn g.gang (g.pc + i.size)) :=
    warp_modWarp_self hw _
  have hunit (m : Mach) (f : Warp → Warp) : ({ m with unit := none } : Mach).modWarp g.t g.w f = { m.modWarp g.t g.w f with unit := none } := rfl
  rw [copyFault_eq hteam hwarp, Mach.retire, Mach.setWarp, hunit, modWarp_modWarp, hnonmem, hcore', Mach.retire, Mach.setWarp,
    settle_copyFails _ he hm, goOn_copyFails]
  rfl

/-- A message consumed with the fault of its copy, of which `r` gives the record from the instructions since. -/
def Warp.receivesBad (x : Warp) (d : Fin 32) (v : Word) (r : Nat → TrapRec) : Warp := (x.setS d v).copyFails (r x.nonmem)

theorem KeepsCourse.receivesBad (d : Fin 32) (v : Word) (r : Nat → TrapRec) : KeepsCourse fun x => x.receivesBad d v r where
  latches x := by simp only [Warp.receivesBad, Warp.copyFails, Warp.setS]
  counters x := by simp only [Warp.receivesBad, Warp.copyFails, Warp.setS]
  starts x := by simp only [Warp.receivesBad, Warp.copyFails, Warp.setS]
  ends x := by simp only [Warp.receivesBad, Warp.copyFails, Warp.setS]
  slices x := by simp only [Warp.receivesBad, Warp.copyFails, Warp.setS]
  still x := by simp only [Warp.still, Warp.receivesBad, Warp.setS, Warp.copyFails, Warp.noLatch]

theorem receivesBad_eq (x : Warp) (d : Fin 32) (v : Word) (r : Nat → TrapRec) :
    x.receivesBad d v r = { x.setS d v with engFault := x.engFault ++ [r x.nonmem] } := by
  simp only [Warp.receivesBad, Warp.copyFails, Warp.setS]

/-- The record of a copy that fails at the issuing instruction. -/
def Issue.copyRec (g : Issue) (m : Mach) (va : Nat) (n : Nat) : TrapRec :=
  ({ TrapRec.of 0x45 with pc := m.trapPc g, va := va, skid := n } : TrapRec).at g.team g.w g.core

theorem precv_consumes {r : RangeDesc} {st : Area} {v : Nat} {m2 m3 : Mach} (ha : AdmitsLast s.m g (.precv d a b))
    (hp : s.m.ownPipe g (g.warp.one a).toNat true = some p) (hmsg : p.msg = true)
    (harea : AreaOf s.m g (g.warp.pair b) p.slotSize .store r st m2) (ht : p.takeable = some j)
    (hbad : st = .lost ∨ m2.poisonAt p.home p.ctx (p.slotAddr j) p.slotSize = true ∨ m2.isHalted (m2.accessDie g (g.warp.pair b)) = true)
    (hbytes : m2.bytesAt p.home p.ctx (p.slotAddr j) p.slotSize = some (v, m3)) :
    exec (.precv d a b) s = .next { s with
      m := (m3.consumed g p j).retire g (.precv d a b)
        ((g.warp.begin (Instr.precv d a b).uses).receivesBad d p.tseq (g.copyRec s.m (g.warp.pair b))) } := by
  have hb : (m2.poisonAt p.home p.ctx (p.slotAddr j) p.slotSize || decide (st = .lost) || m2.isHalted (m2.accessDie g (g.warp.pair b))) = true := by
    rcases hbad with h | h | h <;> simp [h]
  unfold Mach.accessDie at hb
  have hbase : m3.base = s.m.base := (bytesAt_base hbytes).trans harea.base_eq
  have hkept : (m3.consumed g p j).unpiped = s.m.unpiped := (consumed_unpiped ..).trans (unpiped_of_base hbase)
  obtain ⟨hteam, -, -⟩ := issuer_some ha.issues
  obtain ⟨team, hteam', hmark⟩ := team_of_unpiped hkept hteam
  have hwarp := (warp_of_unpiped hkept g.t g.w).trans (warp_issuer ha.issues)
  have hcopy := retire_copyFault (i := .precv d a b) hteam' hwarp (y := (g.warp.begin (Instr.precv d a b).uses).setS d p.tseq) rfl rfl
    (by simp [Issue.core]) (s.m.trapPc g) (g.warp.pair b)
  rw [TrapRec.at_of_unmarked hmark, Warp.setS_nonmem] at hcopy
  rw [Warp.receivesBad, Issue.copyRec, ← hcopy, exec_precv, execPrecv, issueLast_admits _ ha]
  simp only [hp, hmsg, harea.withArea_eq, ht, hbytes, hb, Bool.true_or, if_true, Bool.not_true, Bool.false_eq_true, if_false,
    trapPc_of_unit (unit_of_base harea.base_eq), Mach.consumed]

end

theorem PipeEffect.acts {s : State} {g : Issue} {i : Instr} {m' : Mach} {f : Warp → Warp} (h : PipeEffect s.m g i m' f) (ha : AdmitsLast s.m g i) :
    ∃ x, Acts s g i m' f x := by
  cases h with
  | prsv d a p j q hp hr => exact (KeepsCourse.setPair d _).acts ((exec_prsv ..).trans (reserveOp_some ha hp hr))
  | ptryR d a p j q hp hr => exact (KeepsCourse.setPair d _).acts ((exec_ptryR ..).trans (reserveOp_some ha hp hr))
  | noRoom d a p hp hr => exact (KeepsCourse.setPair d _).acts ((exec_ptryR ..).trans (reserveOp_none ha hp hr))
  | pacq d a p j hp ht => exact (KeepsCourse.setPair d _).acts ((exec_pacq ..).trans (takeOp_some ha hp ht))
  | ptryA d a p j hp ht => exact (KeepsCourse.setPair d _).acts ((exec_ptryA ..).trans (takeOp_some ha hp ht))
  | noSlot d a p hp ht => exact (KeepsCourse.setPair d _).acts ((exec_ptryA ..).trans (takeOp_none ha hp ht))
  | pcmt a b p j m1 hp hj hr h1 => exact KeepsCourse.unchanged.acts (pcmt_commits ha hp hj hr h1)
  | prel a b p j hp hj => exact KeepsCourse.unchanged.acts (prel_releases ha hp hj)
  | statRing d a h r hh hr => exact (KeepsCourse.setS d _).acts (pstat_ring ha hh hr)
  | statPipe d a n p hn hlt hp => exact (KeepsCourse.setS d _).acts (pstat_pipe ha hn hlt hp)
  | pmsg a b p c r st j q m2 m3 hp hmsg hc hpart hifg hh harea hr h3 hres =>
    exact (KeepsCourse.sends _).acts (pmsg_sends ha hp hmsg hc hpart hifg hh harea hr h3 hres)
  | precv d a b p r st j v m2 m3 hp hmsg harea hst hh ht hpoison hbytes =>
    exact (KeepsCourse.setS d _).acts (precv_receives ha hp hmsg harea hst hh ht hpoison hbytes)
  | precvBad d a b p r st j v m2 m3 hp hmsg harea ht hbad hbytes =>
    have hacts := (KeepsCourse.receivesBad d p.tseq (g.copyRec s.m (g.warp.pair b))).acts (precv_consumes ha hp hmsg harea ht hbad hbytes)
    simp only [receivesBad_eq] at hacts
    exact hacts

/-! ### The copy of a message -/

section
variable {s : State} {t w : Nat} {team : Team} {x : Warp} {f : Flight} {fs : List Flight} {n j : Nat} {p : Pipe}

theorem message_committed (ht : s.m.teams[t]? = some team) (hw : team.warps[w]? = some x) (hf : x.flight = f :: fs) (hact : f.act = .pmsg n j)
    (hctr : f.ctr = .ifg) (hbad : (s.m.performLanes t team x.core f f.lanes).bad = []) (hleft : (s.m.performLanes t team x.core f f.lanes).left = [])
    (hp : (s.m.performLanes t team x.core f f.lanes).m.pipe? n = some p)
    (hh : (s.m.performLanes t team x.core f f.lanes).m.isHalted p.home = false) (hj : j < p.slots.length) :
    ∃ m y q, exec (.accessReturn t w) s = .next { s with m := m } ∧ m.warp? t w = some y ∧ y.flight = fs ∧ y.ifg = x.ifg - 1 ∧
      m.pipe? n = some q ∧ (q.stateOf j = some .ready ∨ q.stateOf j = some .committed) := by
  have hsettled := settleOldest_completed ht hw hf hbad hleft
  have hexec := exec_accessReturn_completed s ht hw hf hbad hleft
  have hx : s.m.warp? t w = some x := by simp only [Mach.warp?, ht, hw]
  have hx1 := (warp_of_unscratched (performLanes_unscratched s.m t team x.core f f.lanes) t w).trans hx
  rw [hsettled] at hexec
  generalize s.m.performLanes t team x.core f f.lanes = r at *
  have hact' : (f.ended r).act = .pmsg n j := hact
  obtain ⟨e, hy, -⟩ := complete_warp hx1 x.core (f := f.ended r) (fun _ h => nomatch hact'.symm.trans h) (fun _ h => nomatch hact'.symm.trans h)
  have hretired : x.retired1 (f.ended r) = { x with flight := fs, ifg := x.ifg - 1 } := by
    have hdrop : x.flight.drop 1 = fs := by rw [hf]; rfl
    have hctr' : (f.ended r).ctr = .ifg := hctr
    rw [Warp.retired1, hdrop, hctr', deliver_none _ (by rw [hact']; rfl)]
    rfl
  rw [hretired] at hy
  have hpipe : (r.m.modWarp t w fun x => (({ x with flight := x.flight.drop 1 }).deliver (f.ended r)).lower (f.ended r).ctr).pipe? n = some p := hp
  obtain ⟨q, hq, hsent⟩ := deliverMessage_sent hpipe hh hj t w (f.ended r) (((f.ended r).done.head?.map fun q => q.2.2).getD 0)
  have hm : (r.m.complete t w team x.core (f.ended r)).pipe? n = some q := by
    rw [← hq, Mach.complete]
    simp only [hact']
  exact ⟨_, _, q, hexec, hy, rfl, rfl, hm, hsent⟩

end

/-- Settles O43: each pipe instruction retires with its effect, or stays; a message is committed by the delivery of its copy. -/
theorem pipeInstructions : Obligations.PipeInstructions := by
  refine ⟨fun s g i ha => ⟨fun m' f h => h.acts ha, ?_, ?_⟩, fun s t w team x f fs n j p ht hw hf hact hctr hbad hleft hp hh hj =>
    message_committed ht hw hf hact hctr hbad hleft hp hh hj⟩
  · rintro d a p rfl hp hr
    exact (exec_prsv ..).trans (reserveOp_none ha hp hr)
  · rintro d a p rfl hp ht
    exact (exec_pacq ..).trans (takeOp_none ha hp ht)

end Sys2Proof.Machine

/-! PROOFS. Posted operations fire, complete, pause or end in error, and an engine fault stops its warp (spec 19 R344, R348, R351). -/

namespace Sys2Proof.Machine

/-! ### An operation that has ended stays ended -/

/-- Whether an operation has ended. -/
def Mach.hasEnded (m : Mach) (op : Nat) : Prop := (m.ops[op]?).map (·.phase) = some .ended

theorem hasEnded_of_ops {m m' : Mach} {op : Nat} (ho : m'.ops = m.ops) (h : m.hasEnded op) : m'.hasEnded op := by
  unfold Mach.hasEnded
  rw [ho]
  exact h

theorem hasEnded_modify {m : Mach} {op : Nat} {o : EngOp} (h : m.ops[op]? = some o) :
    ({ m with ops := m.ops.modify op fun o => { o with phase := .ended } } : Mach).hasEnded op := by
  simp [Mach.hasEnded, h]

theorem lowerEnded_phase (t w : Nat) (os : List EngOp) : (lowerEnded t w os).1.map (·.phase) = os.map (·.phase) := by
  induction os with
  | nil => rfl
  | cons o os ih =>
    unfold lowerEnded
    split
    · split
      · exact congrArg (o.phase :: ·) ih
      · rfl
    · exact congrArg (o.phase :: ·) ih

theorem lowerIfe_hasEnded {m : Mach} {op : Nat} (h : m.hasEnded op) (t w : Nat) : (m.lowerIfe t w).hasEnded op := by
  have hops : (m.lowerIfe t w).ops = (lowerEnded t w m.ops).1 := rfl
  unfold Mach.hasEnded at h ⊢
  rw [hops, ← List.getElem?_map, lowerEnded_phase, List.getElem?_map, h]

theorem stopAreas_ops (m : Mach) (p ctx va : Nat) (cut : List Nat) (own : Bool) (rs : List TrapRec) : (m.stopAreas p ctx va cut own rs).ops = m.ops := by
  have hops {m m' : Mach} (h : m'.base = m.base) : m'.ops = m.ops := (congrArg Mach.ops h : m'.base.ops = m.base.ops)
  have hcut (m : Mach) (ds : List Nat) :
      (ds.foldl (fun m d => m.stopArea d ctx va false (rs.filter fun r => r.die = d)) m).ops = m.ops :=
    hops (foldl_base _ (fun m d => stopArea_base ..) ds m)
  unfold Mach.stopAreas
  split
  · exact hcut ..
  · exact (hops (stopArea_base ..)).trans (hcut ..)

theorem stopBy_hasEnded {m : Mach} {op : Nat} (h : m.hasEnded op) (id cause : Nat) (own : Option TrapRec) (who : Option Served) (cut : List Nat)
    (halt : Halt) : (m.stopBy id cause own who cut halt).hasEnded op := by
  unfold Mach.stopBy
  split
  · exact h
  · split
    · exact h
    · refine hasEnded_of_ops (stopAreas_ops ..) ?_
      split
      · exact h
      · obtain ⟨o, ho, hp⟩ := Option.map_eq_some_iff.mp h
        have hop : (m.ops.map fun o => if o.ctx = id then { o with phase := .ended } else o)[op]? =
            some (if o.ctx = id then { o with phase := .ended } else o) := by rw [List.getElem?_map, ho, Option.map_some]
        show ((m.ops.map fun o => if o.ctx = id then { o with phase := .ended } else o)[op]?).map (·.phase) = some .ended
        rw [hop, Option.map_some]
        split
        · rfl
        · exact congrArg some hp

theorem teamEnd_hasEnded {m : Mach} {op : Nat} (h : m.hasEnded op) (t : Nat) : (m.teamEnd t).hasEnded op := by
  unfold Mach.teamEnd
  split
  · exact h
  · split
    · exact h
    · split
      · dsimp only
        split
        · exact stopBy_hasEnded (m := m.modTeam t _) (hasEnded_of_ops rfl h) ..
        · exact hasEnded_of_ops rfl h
      · split
        · exact hasEnded_of_ops rfl h
        · exact h

theorem failOp_hasEnded {m : Mach} {op : Nat} {o : EngOp} (h : m.ops[op]? = some o) (va : Nat) : (m.failOp op va).hasEnded op := by
  have hend := hasEnded_modify h
  unfold Mach.failOp
  simp only [h]
  split
  · split
    · exact stopBy_hasEnded hend ..
    · exact hasEnded_of_ops rfl (lowerIfe_hasEnded hend _ _)
  · exact hend

/-! ### The operations that a completion leaves alone -/

theorem ops_of_base {m m' : Mach} (h : m'.base = m.base) : m'.ops = m.ops := (congrArg Mach.ops h : m'.base.ops = m.base.ops)

theorem ops_of_unpiped {m m' : Mach} (h : m'.unpiped = m.unpiped) : m'.ops = m.ops := (congrArg Mach.ops h : m'.unpiped.ops = m.unpiped.ops)

theorem commitSlot_unpiped (m : Mach) (n j : Nat) (seen : List Nat) : (m.commitSlot n j seen).unpiped = m.unpiped := by
  unfold Mach.commitSlot
  split
  · exact setPipe_unpiped ..
  · rfl

theorem settleSlots_ops (m : Mach) (out : Bool) (h : Nat) (us seen : List Nat) : (m.settleSlots out h us seen).ops = m.ops := by
  unfold Mach.settleSlots
  split
  · refine foldl_same (·.ops) _ (fun m u => ?_) _ _
    split
    · split
      · exact ops_of_unpiped (commitSlot_unpiped ..)
      · exact ops_of_unpiped (releaseSlot_unpiped ..)
    · rfl
  · rfl

theorem engCount_base (m : Mach) (o : EngOp) : (m.engCount o).base = m.base := by
  unfold Mach.engCount
  cases o.counterRange with
  | none => rfl
  | some r =>
    dsimp only
    split
    · rfl
    · exact (agentAtomic_base ..).trans (release_base ..)

theorem joinPoster_base (m : Mach) (o : EngOp) : (m.joinPoster o).base = m.base := by
  unfold Mach.joinPoster
  split
  · split
    · rfl
    · exact applySeen_base ..
  · rfl

theorem engDone_hasEnded {m : Mach} {op : Nat} {o : EngOp} (h : m.ops[op]? = some o) : (m.engDone op o).hasEnded op := by
  have hrelease : (m.release o.die o.scope).ops[op]? = some o := by rw [ops_of_base (release_base ..), h]
  unfold Mach.engDone
  split
  · exact failOp_hasEnded hrelease _
  · exact failOp_hasEnded (m := m.giveUp o.die _) h _
  · refine teamEnd_hasEnded (lowerIfe_hasEnded (hasEnded_modify (o := o) ?_) _ _) _
    rw [ops_of_base (joinPoster_base ..), ops_of_base (engCount_base ..), foldl_same (·.ops) _ (fun _ _ => settleSlots_ops ..),
      foldl_same (·.ops) _ (fun _ _ => settleSlots_ops ..)]
    exact hrelease

/-! ### The events of an operation -/

section
variable {s : State} {op : Nat} {o : EngOp}

theorem engineFire_fires {ins outs : List (List Nat)} {m1 m2 : Mach} (h : s.m.ops[op]? = some o) (hp : o.phase = .posted)
    (hr : s.m.ctxRuns o.ctx = true) (hf : s.m.engineFree o = true) (he : ∀ q, q ∈ s.m.earlier op o → q.phase ≠ .posted)
    (hi : Mach.claimAll o false o.sources [] s.m = some (ins, m1)) (ho : Mach.claimAll o true o.outs [] m1 = some (outs, m2)) :
    exec (.engineFire op) s = .next { s with
      m := { m2 with ops := m2.ops.modify op fun o =>
            { o with phase := .fired, insAt := ins, outsAt := outs, descs := ((s.m.ctx? o.ctx).map Context.ranges).getD [] } } } := by
  have hany : (s.m.earlier op o).any (fun q => decide (q.phase = .posted)) = false :=
    List.any_eq_false.mpr fun q hq => by simpa using he q hq
  rw [exec_engineFire, execEngineFire, always_next]
  simp only [h, hp, hr, hf, hany, hi, ho, ne_eq, not_true_eq_false, Bool.not_true, Bool.false_eq_true, or_self, if_false]

theorem engineFire_waits (h : s.m.ops[op]? = some o)
    (hw : s.m.engineFree o = false ∨ ∃ q, q ∈ s.m.earlier op o ∧ q.phase = .posted) : exec (.engineFire op) s = .next s := by
  have hstay : o.phase ≠ .posted ∨ (!s.m.ctxRuns o.ctx) = true ∨ (!s.m.engineFree o) = true ∨
      (s.m.earlier op o).any (fun q => decide (q.phase = .posted)) = true := by
    refine .inr (.inr ?_)
    rcases hw with hw | ⟨q, hq, hp⟩
    · exact .inl (by rw [hw]; rfl)
    · exact .inr (List.any_eq_true.mpr ⟨q, hq, decide_eq_true hp⟩)
  rw [exec_engineFire, execEngineFire, always_next]
  simp only [h, if_pos hstay]

/-- An operation that does its accesses: what they come to. -/
theorem comesTo_eq {m m' : Mach} {r : Option EngStop} (h : m.engineComesTo o r m') :
    (m.counterTest o = (r, m') ∧ r.isSome = true) ∨ ∃ m1, m.counterTest o = (none, m1) ∧ m1.engWork o = (r, m') := by
  rcases h with ⟨m1, h1, h2⟩ | ⟨hr, h⟩
  · exact .inr ⟨m1, h1, h2⟩
  · exact .inl ⟨h, hr⟩

section
variable (h : s.m.ops[op]? = some o) (hp : o.phase = .fired) (hr : s.m.ctxRuns o.ctx = true) (he : s.m.earlier op o = [])
  (hf : s.m.flushHeld o.die o.scope = false)
include h hp hr he hf

theorem engineComplete_completes {m1 : Mach} (hc : s.m.engineComesTo o none m1) :
    exec (.engineComplete op) s = .next { s with m := m1.engDone op o } := by
  rw [exec_engineComplete, execEngineComplete, always_next]
  rcases comesTo_eq hc with ⟨-, hsome⟩ | ⟨m0, h1, h2⟩
  · cases hsome
  · simp only [h, hp, hr, he, hf, h1, h2, ne_eq, not_true_eq_false, Bool.not_true, Bool.false_eq_true, List.isEmpty_nil, or_self, if_false]

theorem engineComplete_errs {m1 : Mach} {va : Nat} (hc : s.m.engineComesTo o (some (.error va)) m1) :
    exec (.engineComplete op) s = .next { s with m := (m1.failOp op va).teamEnd o.team } := by
  rw [exec_engineComplete, execEngineComplete, always_next]
  rcases comesTo_eq hc with ⟨h1, -⟩ | ⟨m0, h1, h2⟩
  · simp only [h, hp, hr, he, hf, h1, ne_eq, not_true_eq_false, Bool.not_true, Bool.false_eq_true, List.isEmpty_nil, or_self, if_false]
  · simp only [h, hp, hr, he, hf, h1, h2, ne_eq, not_true_eq_false, Bool.not_true, Bool.false_eq_true, List.isEmpty_nil, or_self, if_false]

theorem engineComplete_pauses {m1 : Mach} {r : TrapRec} (hc : s.m.engineComesTo o (some (.pause r)) m1) :
    exec (.engineComplete op) s = .next { s with
      m := ({ m1 with ops := m1.ops.modify op fun o => { o with phase := .paused r } } : Mach).route o.ctx r (.engine op r) false } := by
  rw [exec_engineComplete, execEngineComplete, always_next]
  rcases comesTo_eq hc with ⟨h1, -⟩ | ⟨m0, h1, h2⟩
  · simp only [h, hp, hr, he, hf, h1, ne_eq, not_true_eq_false, Bool.not_true, Bool.false_eq_true, List.isEmpty_nil, or_self, if_false]
  · simp only [h, hp, hr, he, hf, h1, h2, ne_eq, not_true_eq_false, Bool.not_true, Bool.false_eq_true, List.isEmpty_nil, or_self, if_false]

end

theorem engineComplete_waits (h : s.m.ops[op]? = some o) {q : EngOp} (hq : q ∈ s.m.earlier op o) : exec (.engineComplete op) s = .next s := by
  have hne : (!(s.m.earlier op o).isEmpty) = true := by
    cases he : s.m.earlier op o with
    | nil => rw [he] at hq; cases hq
    | cons a as => rfl
  rw [exec_engineComplete, execEngineComplete, always_next]
  simp only [h, hne, true_or, or_true, if_true]

end

theorem EngineEvent.exec_eq {s : State} {i : Instr} {m' : Mach} (h : EngineEvent s.m i m') : exec i s = .next { s with m := m' } := by
  cases h with
  | fires op o ins m1 outs m2 h hp hr hf he hi ho => exact engineFire_fires h hp hr hf he hi ho
  | waitsFire op o q h hq hp => exact engineFire_waits h (.inr ⟨q, hq, hp⟩)
  | noEngine op o h hf => exact engineFire_waits h (.inl hf)
  | completes op o m1 h hp hr he hf hc => exact engineComplete_completes h hp hr he hf hc
  | waitsComplete op o q h hq => exact engineComplete_waits h hq
  | errs op o va m1 h hp hr he hf hc => exact engineComplete_errs h hp hr he hf hc
  | pauses op o r m1 h hp hr he hf hc => exact engineComplete_pauses h hp hr he hf hc

/-! ### The fault of an engine -/

section
variable {m : Mach} {t w : Nat} {team : Team} {x : Warp} {c : Context} {r : TrapRec} {rs : List TrapRec}

theorem cancelAfter_flight (x : Warp) : (x.cancelAfter 0).flight = [] := by
  unfold Warp.cancelAfter
  split
  · rfl
  · next h => exact h

/-- The warp at the boundary at which it takes an engine fault. -/
def Mach.faultWarp (m : Mach) (team : Team) (x : Warp) (rs : List TrapRec) : Warp := { m.atBoundary team (x.cancelAfter 0) with engFault := rs }

theorem stoppedBy_engFault (x : Warp) (gang : BitVec 8) (pc : Nat) (p : Pending) : (x.stoppedBy gang pc p).engFault = x.engFault :=
  drainMma_keep (·.engFault) (fun _ _ _ _ => by simp) (fun _ => rfl) x

theorem takeEngFault_takes (ht : m.teams[t]? = some team) (hx : m.warp? t w = some x) (hc : m.ctx? team.ctx = some c) (hh : c.halt = none)
    (hrun : x.run = .ready) (hf : x.engFault = r :: rs) (hflight : ∀ q, q ∈ x.flight → q.replay = false ∧ q.skid = 0) :
    ∃ rpc r', m.takeEngFault t w = (m.modWarp t w fun _ => m.faultWarp team x rs).takeEvent t w 0 rpc rpc none false false r' ∧
      r'.cause = r.cause ∧ r'.va = r.va ∧ r'.edesc = r.edesc := by
  have hruns : m.ctxRuns team.ctx = true := by simp only [Mach.ctxRuns, hc, hh, Option.isNone_none]
  have hany : (x.flight.any fun f => f.replay || decide (f.skid ≠ 0)) = false :=
    List.any_eq_false.mpr fun q hq => by
      obtain ⟨h1, h2⟩ := hflight q hq
      simp [h1, h2]
  unfold Mach.takeEngFault
  simp only [ht, hx, hf, hrun, hruns, hany, ne_eq, not_true_eq_false, Bool.not_true, Bool.false_eq_true, or_self, if_false]
  exact ⟨_, _, rfl, rfl, rfl, rfl⟩

theorem takeEngFault_stops (ht : m.teams[t]? = some team) (hx : m.warp? t w = some x) (hc : m.ctx? team.ctx = some c) (hh : c.halt = none)
    (hrun : x.run = .ready) (hf : x.engFault = r :: rs) (hs : team.served = none)
    (hflight : ∀ q, q ∈ x.flight → q.replay = false ∧ q.skid = 0) (hr : c.routeOf (causeGroup r.cause) = 1) :
    ∃ y p, (m.takeEngFault t w).warp? t w = some y ∧ y.run = .stopped ∧ y.trap = some p ∧ p.rcd.cause = r.cause ∧ p.rcd.va = r.va ∧
      p.rcd.edesc = r.edesc ∧ y.engFault = rs ∧ y.flight = [] := by
  obtain ⟨rpc, r', he, hcause, hva, hedesc⟩ := takeEngFault_takes ht hx hc hh hrun hf hflight
  obtain ⟨p, va, hp, -, -, -, -, hw, -, -, -⟩ := takeEvent_handled 0 rpc rpc none false false r' (teams_modWarp ht w _) (warp_modWarp_self hx _) hs hc
    (hcause.symm ▸ hr)
  have hflight' : (m.faultWarp team x rs).flight = [] := atBoundary_flight m team (cancelAfter_flight x)
  rw [he]
  exact ⟨_, p, hw, rfl, rfl, hp ▸ hcause, hp ▸ hva, hp ▸ hedesc, stoppedBy_engFault .., stoppedBy_flight hflight' ..⟩

theorem takeEngFault_performs (ht : m.teams[t]? = some team) (hx : m.warp? t w = some x) (hc : m.ctx? team.ctx = some c) (hh : c.halt = none)
    (hrun : x.run = .ready) (hf : x.engFault = r :: rs) {q : Flight} (hq : q ∈ x.flight) (hlate : q.replay = true ∨ q.skid ≠ 0) :
    m.takeEngFault t w = (m.settleOldest t w).2 := by
  have hruns : m.ctxRuns team.ctx = true := by simp only [Mach.ctxRuns, hc, hh, Option.isNone_none]
  have hany : (x.flight.any fun f => f.replay || decide (f.skid ≠ 0)) = true :=
    List.any_eq_true.mpr ⟨q, hq, by simpa using hlate⟩
  unfold Mach.takeEngFault
  simp only [ht, hx, hf, hrun, hruns, hany, ne_eq, not_true_eq_false, Bool.not_true, Bool.false_eq_true, or_self, if_false, if_true]

end

/-- Settles O42: each event of an operation has its one outcome, a completion ends its operation, and an engine fault is taken at the
boundary of its warp. -/
theorem engineOperations : Obligations.EngineOperations := by
  refine ⟨fun s i m' h => h.exec_eq, fun m op o h => engDone_hasEnded h, fun s t w team x c r rs ht hx hc hh hrun hf hs =>
    ⟨fun hflight hr => ?_, fun q hq hlate => ?_⟩⟩
  · obtain ⟨y, p, hy, hrest⟩ := takeEngFault_stops ht hx hc hh hrun hf hs hflight hr
    exact ⟨_, y, p, by rw [exec_engineFault, execEngineFault, always_next], hy, hrest⟩
  · rw [exec_engineFault, execEngineFault, always_next, takeEngFault_performs ht hx hc hh hrun hf hq hlate]

end Sys2Proof.Machine

/-! PROOFS. The matrix instructions: products, their traps in order, write-back, runs of registers and scale entries (spec 16 R297 to R306). -/

namespace Sys2Proof.Machine

/-! ### MMA and MMAS case by case -/

section
variable {s : State} {g : Issue} {i : Instr} {o : MmaOp}

theorem MatrixOp.exec_eq (h : MatrixOp i o) : exec i s = mmaOp i o s := by
  cases h with
  | mma vb va vf vc q => rfl
  | mmas vb va vf vc q => rfl

/-- An instruction that passes its first tests restores the units that it uses, or computes. -/
theorem mmaOp_pass (hi : s.m.issuer = some g) (hg : g.mmaGate i o = .pass) :
    mmaOp i o s = .next { s with m := if s.m.retainedUnits g then s.m.restoreUnits g else s.m.mma g i o } := by
  simp only [mmaOp, withIssuer, onMach, hi, hg]

/-- The lanes of a quarter agree on the words of the instruction. -/
def Issue.agrees (g : Issue) (o : MmaOp) (q : Nat) : Prop :=
  g.disagrees o.vf 0 q = false ∧ (o.sparse = true → g.disagrees o.vf 1 q = false)

/-- What an instruction answers that takes a trap of cause `c` in some lane. -/
def Mach.TrapsInLane (m m' : Mach) (g : Issue) (i : Instr) (c : Nat) : Prop :=
  ∃ l : Nat, m' = m.trap g i { TrapRec.of c with lane := l }

theorem trapsInLane_inLane (m : Mach) (g : Issue) (i : Instr) (c : Nat) (bad : Fin 32 → Bool) :
    m.TrapsInLane (m.trap g i (g.inLane (TrapRec.of c) bad)) g i c := ⟨_, rfl⟩

theorem agrees_any (h : ∀ q, q ∈ g.quarters → g.agrees o q) :
    g.quarters.any (g.disagrees o.vf 0) = false ∧ (o.sparse && g.quarters.any (g.disagrees o.vf 1)) = false := by
  constructor
  · exact List.any_eq_false.mpr fun q hq => by simp [(h q hq).1]
  · cases hs : o.sparse with
    | false => rfl
    | true => exact List.any_eq_false.mpr fun q hq => by simp [(h q hq).2 hs]

theorem words_any (h : ∀ q, q ∈ g.quarters → (g.wordOf o q).ok o.sparse = true) :
    (g.quarters.any fun q => !(g.wordOf o q).ok o.sparse) = false :=
  List.any_eq_false.mpr fun q hq => by simp [h q hq]

theorem mem_allNeeds {n : Nat × Nat × Fin 32} : n ∈ g.quarters.flatMap (g.needs o) ↔ ∃ q, q ∈ g.quarters ∧ n ∈ g.needs o q :=
  List.mem_flatMap

theorem mma_disagrees {m : Mach} {q : Nat} (hq : q ∈ g.quarters) (h : ¬ g.agrees o q) : m.TrapsInLane (m.mma g i o) g i 0x22 := by
  unfold Mach.mma
  dsimp only
  split
  · exact trapsInLane_inLane ..
  · rename_i h0
    have hq0 : g.disagrees o.vf 0 q = false := by simpa using List.any_eq_false.mp (Bool.eq_false_iff.mpr h0) q hq
    have h1 : (o.sparse && g.quarters.any (g.disagrees o.vf 1)) = true := by
      by_contra hc
      refine h ⟨hq0, fun hs => ?_⟩
      rw [hs, Bool.true_and] at hc
      simpa using List.any_eq_false.mp (Bool.eq_false_iff.mpr hc) q hq
    rw [if_pos h1]
    exact trapsInLane_inLane ..

theorem mma_badWord {m : Mach} {q : Nat} (ha : ∀ q, q ∈ g.quarters → g.agrees o q) (hq : q ∈ g.quarters)
    (h : (g.wordOf o q).ok o.sparse = false) : m.TrapsInLane (m.mma g i o) g i 0x0C := by
  obtain ⟨h0, h1⟩ := agrees_any ha
  have h2 : (g.quarters.any fun q => !(g.wordOf o q).ok o.sparse) = true := List.any_eq_true.mpr ⟨q, hq, by simp [h]⟩
  unfold Mach.mma
  dsimp only
  rw [h0, h1, h2, if_neg (by decide), if_neg (by decide), if_pos rfl]
  exact trapsInLane_inLane ..

/-- Past the tests of its words, an instruction goes by the scale entries that it needs. -/
theorem mma_unbound {m : Mach} {q : Nat} {n : Nat × Nat × Fin 32} (ha : ∀ q, q ∈ g.quarters → g.agrees o q)
    (hw : ∀ q, q ∈ g.quarters → (g.wordOf o q).ok o.sparse = true) (hq : q ∈ g.quarters) (hn : n ∈ g.needs o q)
    (h : g.ctx.sdcnt ≤ n.1) : m.TrapsInLane (m.mma g i o) g i 0x0B := by
  obtain ⟨h0, h1⟩ := agrees_any ha
  have h3 : ((g.quarters.flatMap (g.needs o)).any fun n => decide (g.ctx.sdcnt ≤ n.1)) = true :=
    List.any_eq_true.mpr ⟨n, mem_allNeeds.mpr ⟨q, hq, hn⟩, decide_eq_true h⟩
  unfold Mach.mma
  dsimp only
  rw [h0, h1, words_any hw, h3, if_neg (by decide), if_neg (by decide), if_neg (by decide), if_pos rfl]
  exact trapsInLane_inLane ..

theorem bound_any (hb : ∀ q n, q ∈ g.quarters → n ∈ g.needs o q → n.1 < g.ctx.sdcnt) :
    ((g.quarters.flatMap (g.needs o)).any fun n => decide (g.ctx.sdcnt ≤ n.1)) = false := by
  refine List.any_eq_false.mpr fun n hn => ?_
  obtain ⟨q, hq, hn⟩ := mem_allNeeds.mp hn
  simpa using hb q n hq hn

theorem held_find {p : Nat × Nat × Fin 32 → Option α} (h : ∀ q n, q ∈ g.quarters → n ∈ g.needs o q → (p n).isSome = true) :
    ((g.quarters.flatMap (g.needs o)).find? fun n => (p n).isNone) = none := by
  refine List.find?_eq_none.mpr fun n hn => ?_
  obtain ⟨q, hq, hn⟩ := mem_allNeeds.mp hn
  simp [Option.isSome_iff_ne_none.mp (h q n hq hn)]

theorem mma_badEntry {m : Mach} {q : Nat} {n : Nat × Nat × Fin 32} {e : ScaleEntry} (ha : ∀ q, q ∈ g.quarters → g.agrees o q)
    (hw : ∀ q, q ∈ g.quarters → (g.wordOf o q).ok o.sparse = true)
    (hb : ∀ q n, q ∈ g.quarters → n ∈ g.needs o q → n.1 < g.ctx.sdcnt ∧ ((g.onCore m).entry? g.team.ctx n.1).isSome = true)
    (hq : q ∈ g.quarters) (hn : n ∈ g.needs o q) (he : (g.onCore m).entry? g.team.ctx n.1 = some e)
    (h : e.valid = false ∨ e.nblk ≤ n.2.1) : m.TrapsInLane (m.mma g i o) g i 0x0B := by
  obtain ⟨h0, h1⟩ := agrees_any ha
  have hf := held_find (p := fun n => (g.onCore m).entry? g.team.ctx n.1) fun q n hq hn => (hb q n hq hn).2
  unfold Issue.onCore at hf he
  unfold Mach.mma
  dsimp only
  rw [h0, h1, words_any hw, bound_any fun q n hq hn => (hb q n hq hn).1, if_neg (by decide), if_neg (by decide), if_neg (by decide),
    if_neg (by decide), hf]
  dsimp only
  rw [if_pos]
  · exact trapsInLane_inLane ..
  · refine List.any_eq_true.mpr ⟨n, mem_allNeeds.mpr ⟨q, hq, hn⟩, ?_⟩
    rw [he]
    rcases h with h | h <;> simp [h]

/-- The pending accumulators of an issue join those of its warp. -/
def Issue.pends (g : Issue) (m : Mach) (o : MmaOp) : MmaPend :=
  { c := o.vc.val, writes := (g.accumulate o (g.onCore m)).map fun w => (w.1, w.2.1, w.2.2.1) }

theorem mma_computes (ha : AdmitsMma s.m g i o) (hq : g.quiet (g.mmaRaises s.m o)) :
    s.m.mma g i o = s.m.retire g i { g.warp.begin i.uses with mma := g.warp.mma ++ [g.pends s.m o] } := by
  obtain ⟨h0, h1⟩ := agrees_any ha.agree
  have he := held_find (p := fun n => (g.onCore s.m).entry? g.team.ctx n.1) fun q n hq hn => by
    obtain ⟨e, he, -⟩ := ha.entries q n hq hn
    simp [he]
  have hl := held_find (p := fun n => (g.onCore s.m).exponent? g.team.ctx n.1 n.2.1) ha.lines
  unfold Issue.onCore at he hl
  unfold Mach.mma
  dsimp only
  rw [h0, h1, words_any ha.words, bound_any ha.bound, if_neg (by decide), if_neg (by decide), if_neg (by decide), if_neg (by decide), he]
  dsimp only
  rw [if_neg, hl]
  · exact unlessFloat_quiet hq
  · refine Bool.eq_false_iff.mp (List.any_eq_false.mpr fun n hn => ?_)
    obtain ⟨q, hq, hn⟩ := mem_allNeeds.mp hn
    obtain ⟨e, he, hv, hb⟩ := ha.entries q n hq hn
    unfold Issue.onCore at he
    simp [he, hv, hb]

/-- A product computed normally leaves its accumulators pending. -/
theorem Multiplies.of_retire (he : exec i s = .next { s with m := s.m.mma g i o }) (ha : AdmitsMma s.m g i o)
    (hq : g.quiet (g.mmaRaises s.m o)) : ∃ x, Multiplies s g i o x := by
  rw [mma_computes ha hq] at he
  obtain ⟨x, hx⟩ := Changes.of_retire (f := fun x => { x with mma := g.warp.mma ++ [g.pends s.m o] }) (fun _ => rfl) (fun _ => rfl)
    (fun _ => rfl) (fun _ => rfl) (fun _ => rfl) (by unfold Warp.begin; split <;> rfl) he
  have hm : x.mma = g.warp.mma ++ [g.pends s.m o] := congrArg Warp.mma hx.frame
  exact ⟨x, hx.answers, hx.goes, hx.latches, hm, by rw [hm]; exact hx.frame⟩

end

/-! ### The write-back of pending accumulators -/

/-- A pending accumulator in its register. -/
def Warp.putAcc (x : Warp) (e : Fin 64 × Fin 32 × Word) : Warp := x.setReg e.1 e.2.1 e.2.2

theorem putAcc_frame (x : Warp) (es : List (Fin 64 × Fin 32 × Word)) :
    es.foldl Warp.putAcc x = { x with v := (es.foldl Warp.putAcc x).v, poison := (es.foldl Warp.putAcc x).poison } := by
  induction es generalizing x with
  | nil => rfl
  | cons e es ih =>
    rw [List.foldl_cons, ih]
    simp only [Warp.putAcc, Warp.setReg]

/-- Whether an accumulator is lane `l` of register `n`. -/
def isAcc (n : Fin 64) (l : Fin 32) (e : Fin 64 × Fin 32 × Word) : Bool := decide (e.1 = n) && decide (e.2.1 = l)

theorem putAcc_at (x : Warp) (es : List (Fin 64 × Fin 32 × Word)) (n : Fin 64) (l : Fin 32) :
    ((es.foldl Warp.putAcc x).v.at n).at l = ((es.reverse.find? (isAcc n l)).map fun e => e.2.2).getD ((x.v.at n).at l) := by
  induction es using List.reverseRecOn with
  | nil => rfl
  | append_singleton es e ih =>
    rw [List.foldl_append, List.reverse_append, List.foldl_cons, List.foldl_nil, Warp.putAcc, setReg_at, List.reverse_singleton,
      List.singleton_append, List.find?_cons]
    cases he : isAcc n l e with
    | true => rw [if_pos (by simpa [isAcc] using he)]; rfl
    | false => rw [if_neg fun h => by rw [isAcc, h.1, h.2] at he; simp at he]; exact ih

/-- The warp once its oldest pending accumulators are in their registers. -/
def Warp.wrote (x : Warp) (p : MmaPend) (ps : List MmaPend) : Warp := { p.writes.foldl Warp.putAcc x with mma := ps }

theorem exec_mmaWriteback_pending {s : State} {t w : Nat} {x : Warp} {p : MmaPend} {ps : List MmaPend} (hx : s.m.warp? t w = some x)
    (hp : x.mma = p :: ps) :
    ∃ m, exec (.mmaWriteback t w) s = .next { s with m := m } ∧ m.warp? t w = some (x.wrote p ps) := by
  refine ⟨s.m.writeBack t w, by rw [exec_mmaWriteback, execMmaWriteback, always_next], ?_⟩
  rw [Mach.writeBack, warp_modWarp_self hx, hp]
  rfl

theorem wrote_keeps (x : Warp) (p : MmaPend) (ps : List MmaPend) : (x.wrote p ps).s = x.s ∧ (x.wrote p ps).slices = x.slices := by
  unfold Warp.wrote
  rw [putAcc_frame]
  exact ⟨rfl, rfl⟩

/-! ### Runs of registers -/

section
variable {s : State} {g : Issue} {i : Instr}

/-- A run written one place after another. -/
def Warp.setRun (x : Warp) (g : Issue) (d : Fin 64) (val : Nat → Fin 32 → Word) (js : List Nat) : Warp :=
  js.foldl (fun y j => y.setV g.active (nextV d j) (val j)) x

theorem setRun_frame (x : Warp) (g : Issue) (d : Fin 64) (val : Nat → Fin 32 → Word) (js : List Nat) :
    x.setRun g d val js = { x with v := (x.setRun g d val js).v, poison := (x.setRun g d val js).poison } := by
  induction js generalizing x with
  | nil => rfl
  | cons j js ih =>
    have h := ih (x.setV g.active (nextV d j) (val j))
    unfold Warp.setRun at h ⊢
    rw [List.foldl_cons, h]
    simp only [Warp.setV]

theorem setRun_name (x : Warp) (g : Issue) (d : Fin 64) (val : Nat → Fin 32 → Word) (js : List Nat) :
    (x.setRun g d val js).name = x.name := by
  rw [setRun_frame]
  exact Warp.name_congr rfl rfl

/-- Whether place `j` of a run is register `k` of an active lane. -/
def Issue.runsTo (g : Issue) (x : Warp) (d k : Fin 64) (l : Fin 32) (j : Nat) : Bool := g.active l && decide (x.name (nextV d j) l = k)

theorem setRun_at (x : Warp) (d k : Fin 64) (l : Fin 32) (val : Nat → Fin 32 → Word) (js : List Nat) :
    ((x.setRun g d val js).v.at k).at l = ((js.reverse.find? (g.runsTo x d k l)).map fun j => val j l).getD ((x.v.at k).at l) := by
  induction js using List.reverseRecOn with
  | nil => rfl
  | append_singleton js j ih =>
    have hn := setRun_name x g d val js
    unfold Warp.setRun at hn ih ⊢
    rw [List.foldl_append, List.reverse_append, List.foldl_cons, List.foldl_nil, Warp.setV, hn, List.reverse_singleton,
      List.singleton_append, List.find?_cons]
    dsimp only
    rw [tab_at, tab_at]
    cases h : g.runsTo x d k l j with
    | true => rw [if_pos (by exact h)]; rfl
    | false => rw [if_neg (by rw [Issue.runsTo] at h; rw [h]; decide)]; exact ih

theorem setRun_poison (x : Warp) (d k : Fin 64) (l : Fin 32) (val : Nat → Fin 32 → Word) (js : List Nat) :
    (k, l) ∈ (x.setRun g d val js).poison ↔ (k, l) ∈ x.poison ∧ ¬ (g.active l = true ∧ ∃ j, j ∈ js ∧ x.name (nextV d j) l = k) := by
  induction js using List.reverseRecOn with
  | nil => simp [Warp.setRun]
  | append_singleton js j ih =>
    have hn := setRun_name x g d val js
    unfold Warp.setRun at hn ih ⊢
    rw [List.foldl_append, List.foldl_cons, List.foldl_nil, Warp.setV, hn]
    simp only [List.mem_filter, ih, List.mem_append, List.mem_singleton, or_and_right, exists_or, exists_eq_left]
    cases g.active l <;> simp [and_assoc, not_or]

theorem writeRun_eq (x : Warp) (d : Fin 64) (n : Nat) (val : Nat → Fin 32 → Word) :
    g.writeRun x d n val = x.setRun g d val (List.range n) := rfl

/-- An instruction that ends in a run of registers leaves what 07 R114 says. -/
theorem WritesRun.of_retire {d : Fin 64} {n : Nat} {r : Nat → Fin 32 → Word}
    (he : exec i s = .next { s with m := s.m.retire g i (g.writeRun (g.warp.begin i.uses) d n r) }) : ∃ x, WritesRun s g i d n r x := by
  rw [writeRun_eq] at he
  have hn : (g.warp.begin i.uses).name = g.warp.name := Warp.name_congr (by simp) (by simp)
  refine ⟨(((g.warp.begin i.uses).setRun g d r (List.range n)).settle i.uses (s.m.trapPc g) g.gang).goOn g.gang (g.pc + i.size),
    ⟨?_, ?_, ?_, ?_, ?_, ?_⟩⟩
  · rw [he]; rfl
  · apply GoesOn.of_settle <;> (rw [setRun_frame]; simp)
  · intro k l
    have hg : g.runsTo (g.warp.begin i.uses) d k l = fun j => g.active l && decide (g.warp.name (nextV d j) l = k) := by
      funext j
      rw [Issue.runsTo, hn]
    simp only [Warp.goOn_v, Warp.settle_v, setRun_at, hg, Warp.begin_v]
    split <;> (rename_i h; rw [h]; rfl)
  · intro k l
    simp only [Warp.goOn_poison, Warp.settle_poison, setRun_poison, hn, Warp.begin_poison, List.mem_range]
  · rw [goOn_b, setRun_frame]
    · exact begin_latchesKept g i
    · rw [setRun_frame]; simp
    · rw [setRun_frame]; simp
  · rw [Warp.goOn_still, Warp.settle_still, setRun_frame]
    simp only [Warp.goOn_v, Warp.settle_v, Warp.goOn_poison, Warp.settle_poison]
    unfold Warp.still
    simp

/-! ### Conversions of accumulators and scale entries -/

theorem matrixIssue_awake {run : Mach → Issue → Mach} (h : Admits s.m g i) (hr : s.m.retainedUnits g = false) :
    matrixIssue i s run = .next { s with m := run s.m g } := by
  rw [matrixIssue, issue_admits _ h, hr]
  rfl

theorem convertRun_quiet {d : Fin 64} {n : Nat} {f : Warp → Nat → Fin 32 → Nat × Exc} (h : Admits s.m g i) (hr : s.m.retainedUnits g = false)
    (hq : g.quiet (runRaises n (f g.warp))) : convertRun i d n f s =
      .next { s with m := s.m.retire g i (g.writeRun (g.warp.begin i.uses) d n fun j l => BitVec.ofNat 32 (f g.warp j l).1) } := by
  unfold runRaises at hq
  rw [convertRun, matrixIssue_awake h hr, unlessFloat_quiet hq]

theorem halves_fcvt (f : FFmt) (r : Rm) (x y : Nat) : halves (fcvt F32 f r x) (fcvt F32 f r y) = packed f r x y := by
  unfold halves packed
  rfl

/-- What a run-writing instruction answers where no enabled exception is raised. -/
theorem RunResult.exec_eq {d : Fin 64} {n : Nat} {f : Nat → Fin 32 → Nat × Exc} (h : RunResult g i d n f) (ha : Admits s.m g i)
    (hr : s.m.retainedUnits g = false) (hq : g.quiet (runRaises n f)) :
    exec i s = .next { s with m := s.m.retire g i (g.writeRun (g.warp.begin i.uses) d n fun j l => BitVec.ofNat 32 (f j l).1) } := by
  cases h with
  | mzero d => rw [exec_mzero, execMzero, matrixIssue_awake ha hr]; rfl
  | mcvtH2 d a r =>
    rw [exec_mcvtH2, execMcvtH2]
    simp only [halves_fcvt]
    exact convertRun_quiet (f := fun x j l => packed F16 r (x.runSrcReg a (2 * j) l) (x.runSrcReg a (2 * j + 1) l)) ha hr hq
  | mcvtB2 d a r =>
    rw [exec_mcvtB2, execMcvtB2]
    simp only [halves_fcvt]
    exact convertRun_quiet (f := fun x j l => packed BF16 r (x.runSrcReg a (2 * j) l) (x.runSrcReg a (2 * j + 1) l)) ha hr hq
  | mcvtF32 d a r =>
    rw [exec_mcvtF32, execMcvtF32]
    exact convertRun_quiet (f := fun x j l => fofInt F32 r (sextNat (x.runSrcReg a j l) 32)) ha hr hq
  | mcvtI32 d a r =>
    rw [exec_mcvtI32, execMcvtI32]
    exact convertRun_quiet (f := fun x j l =>
      ((Spec.word (ftoInt F32 r (x.runSrcReg a j l)).1).toNat, (ftoInt F32 r (x.runSrcReg a j l)).2)) ha hr hq

theorem msclP_acts {a b : Src} (ha : Admits s.m g (.msclP a b)) (hr : s.m.retainedUnits g = false) :
    ∃ x, Acts s g (.msclP a b) (s.m.fetchScale g.team.die g.core g.team.ctx ((g.warp.one a).toNat % 65536) ((g.warp.one b).toNat / 64)
      g.team.super) id x := by
  apply KeepsCourse.unchanged.acts
  rw [exec_msclP, execMsclP, matrixIssue_awake ha hr]
  rfl

theorem msclB_unbound {a b : Src} (ha : Admits s.m g (.msclB a b)) (hr : s.m.retainedUnits g = false)
    (h : g.ctx.sdcnt ≤ g.warp.pair b / 2 ^ 32 % 65536) :
    exec (.msclB a b) s = .next { s with m := s.m.trap g (.msclB a b) (TrapRec.illegal .scale) } := by
  rw [exec_msclB, execMsclB, matrixIssue_awake ha hr]
  dsimp only
  rw [if_pos h, Mach.illegal]

/-- The store of an entry of a bound tensor (16 R305). -/
def Issue.bindsEntry (g : Issue) (a b : Src) : Ask :=
  { lane := 0, scratch := false, addr := g.ctx.sdbase + 16 * (g.warp.pair b / 2 ^ 32 % 65536), reg := 0, cmp := 0
    data := g.warp.pair a % 2 ^ 48 + g.warp.pair b % 2 ^ 32 * 2 ^ 64 + (if g.warp.pair b % 2 ^ 32 = 0 then 0 else 2 ^ 96) }

theorem msclB_stores {a b : Src} {q : Shot} {ls : List LaneAcc} {m' : Mach} (ha : Admits s.m g (.msclB a b))
    (hr : s.m.retainedUnits g = false) (hq : q = ⟨.ifg, .bind (g.warp.pair b / 2 ^ 32 % 65536), .die, 16, true, .store, anyClass⟩)
    (h : g.warp.pair b / 2 ^ 32 % 65536 < g.ctx.sdcnt) (hc : g.warp.counter .ifg < 255)
    (hg : s.m.generateAll g q.kind q.size q.sup [g.bindsEntry a b] = (.ok ls, m')) : ∃ x, Launched s g (.msclB a b) q ls [] m' x := by
  subst hq
  refine Launched.of_shoot ⟨rfl, rfl⟩ rfl ?_ hc hg
  rw [exec_msclB, execMsclB, matrixIssue_awake ha hr]
  dsimp only
  rw [if_neg (Nat.not_le.mpr h), Issue.bindsEntry]

end

/-! ### The statement -/

section
variable {s : State} {g : Issue} {i : Instr} {o : MmaOp}

/-- Where the first tests pass and no unit is retained, the answer is that of the computation. -/
theorem exec_mma_awake (hM : MatrixOp i o) (hi : s.m.issuer = some g) (hg : g.mmaGate i o = .pass) (hr : s.m.retainedUnits g = false) :
    exec i s = .next { s with m := s.m.mma g i o } := by
  rw [hM.exec_eq, mmaOp_pass hi hg, hr]
  rfl

theorem exec_mma_retained (hM : MatrixOp i o) (hi : s.m.issuer = some g) (hg : g.mmaGate i o = .pass) (hr : s.m.retainedUnits g = true) :
    exec i s = .next { s with m := s.m.restoreUnits g } := by
  rw [hM.exec_eq, mmaOp_pass hi hg, hr]
  rfl

theorem exec_mma_traps {c : Nat} (he : exec i s = .next { s with m := s.m.mma g i o }) (h : s.m.TrapsInLane (s.m.mma g i o) g i c) :
    ∃ l : Nat, exec i s = .next { s with m := s.m.trap g i { TrapRec.of c with lane := l } } := by
  obtain ⟨l, hl⟩ := h
  exact ⟨l, by rw [he, hl]⟩

end

/-- Settles O39: the tests of a product in their order, then the pending accumulators, their write-back, and the runs and scale entries of
the other matrix instructions. -/
theorem matrixResults : Obligations.MatrixResults := by
  unfold Obligations.MatrixResults
  refine ⟨⟨fun s g i o hM => ⟨fun ha hq => ?_, fun hi hg hr => exec_mma_retained hM hi hg hr, fun hi hg hr => ?_⟩,
    fun s t w x p ps hx hp => ?_⟩, fun s g hr => ⟨fun i d n f hR ha hq => WritesRun.of_retire (hR.exec_eq ha hr hq),
    fun a b ha => msclP_acts ha hr, fun a b t n q ls m' ha ht hn hq => ?_⟩⟩
  · exact Multiplies.of_retire (exec_mma_awake hM ha.issues ha.gate ha.awake) ha hq
  · have he := exec_mma_awake hM hi hg hr
    refine ⟨fun ⟨q, hq, h⟩ => exec_mma_traps he (mma_disagrees hq h), fun ha =>
      ⟨fun ⟨q, hq, h⟩ => exec_mma_traps he (mma_badWord ha hq h), fun hw =>
      ⟨fun ⟨q, n, hq, hn, h⟩ => exec_mma_traps he (mma_unbound ha hw hq hn h), fun hb ⟨q, n, e, hq, hn, hen, h⟩ =>
        exec_mma_traps he (mma_badEntry ha hw hb hq hn hen h)⟩⟩⟩
  · obtain ⟨m, he, hm⟩ := exec_mmaWriteback_pending hx hp
    obtain ⟨hs, hl⟩ := wrote_keeps x p ps
    refine ⟨m, x.wrote p ps, he, hm, rfl, hs, hl, fun n l => ?_⟩
    rw [Warp.wrote, putAcc_at]
    unfold isAcc
    split <;> (rename_i h; rw [h]; rfl)
  · subst ht hn
    exact ⟨msclB_unbound ha hr, fun h hc hg => msclB_stores ha hr hq h hc hg⟩

end Sys2Proof.Machine

/-! PROOFS. Correct rounding over the rational numbers: rounding among the points of a scale, and the scale of a format's magnitudes
(spec 05 R74, R83 to R87). -/

namespace Sys2Proof.Machine

/-! ### Rounding among the points of a rising scale -/

/-- Whether a value between points `a` and `a + 1` of the scale `p` goes to the upper one, by the mode and the sign that the magnitude has. -/
def MovesUp (p : Nat → ℚ) (mode : Rm) (neg : Bool) (v : ℚ) (a : Nat) : Prop :=
  match mode with
  | .rne => p a + p (a + 1) < 2 * v ∨ (2 * v = p a + p (a + 1) ∧ a % 2 = 1)
  | .rtz => False
  | .rdn => neg = true ∧ p a ≠ v
  | .rup => neg = false ∧ p a ≠ v

/-- Point `n` is the magnitude `v` rounded among the points of the scale `p`; `ix` says whether it differs. -/
structure RoundsIn (p : Nat → ℚ) (mode : Rm) (neg : Bool) (v : ℚ) (n : Nat) (ix : Bool) (a : Nat) : Prop where
  lower : p a ≤ v
  upper : v < p (a + 1)
  inexact : ix = true ↔ p a ≠ v
  up : MovesUp p mode neg v a → n = a + 1
  stay : ¬ MovesUp p mode neg v a → n = a

/-- The condition under which a magnitude rounds to point `N + 1` or above. -/
def RoundsPast (p : Nat → ℚ) (mode : Rm) (neg : Bool) (v : ℚ) (N : Nat) : Prop :=
  match mode with
  | .rne => p N + p (N + 1) < 2 * v ∨ (2 * v = p N + p (N + 1) ∧ N % 2 = 1)
  | .rtz => p (N + 1) ≤ v
  | .rdn => if neg then p N < v else p (N + 1) ≤ v
  | .rup => if neg then p (N + 1) ≤ v else p N < v

section
variable {p : Nat → ℚ} {mode : Rm} {neg : Bool} {v : ℚ} {n a : Nat} {ix : Bool}

/-- A magnitude that is no point goes to the point above it or below it. -/
theorem RoundsIn.point (h : RoundsIn p mode neg v n ix a) : n = a ∨ n = a + 1 := by
  by_cases hu : MovesUp p mode neg v a
  · exact .inr (h.up hu)
  · exact .inl (h.stay hu)

theorem movesUp_inexact (hp : StrictMono p) (h : MovesUp p mode neg v a) : p a ≠ v := by
  have h1 := hp (Nat.lt_succ_self a)
  intro he
  cases mode with
  | rne => rcases h with h | ⟨h, -⟩ <;> (rw [Nat.succ_eq_add_one] at h1; linarith)
  | rtz => exact h
  | rdn => exact h.2 he
  | rup => exact h.2 he

theorem RoundsIn.inexact_iff (hp : StrictMono p) (h : RoundsIn p mode neg v n ix a) : ix = true ↔ p n ≠ v := by
  rw [h.inexact]
  by_cases hu : MovesUp p mode neg v a
  · rw [h.up hu]
    exact ⟨fun _ => (ne_of_lt h.upper).symm, fun _ => movesUp_inexact hp hu⟩
  · rw [h.stay hu]

/-- A magnitude between two points rounds past a point by the comparison with it, or with the middle before it. -/
theorem RoundsIn.reaches_iff (hp : StrictMono p) (h : RoundsIn p mode neg v n ix a) (N : Nat) : N + 1 ≤ n ↔ RoundsPast p mode neg v N := by
  have hlo := h.lower
  have hup := h.upper
  rcases lt_trichotomy N a with hN | rfl | hN
  · have h1 : p (N + 1) ≤ p a := hp.monotone hN
    have h0 : p N < p (N + 1) := hp (Nat.lt_succ_self N)
    have hr : RoundsPast p mode neg v N := by
      cases mode with
      | rne => exact .inl (by linarith)
      | rtz => exact h1.trans hlo
      | rdn => cases neg with
        | true => exact (h0.trans_le h1).trans_le hlo
        | false => exact h1.trans hlo
      | rup => cases neg with
        | true => exact h1.trans hlo
        | false => exact (h0.trans_le h1).trans_le hlo
    rcases h.point with hn | hn <;> simp [hr] <;> omega
  · have hr : RoundsPast p mode neg v N ↔ MovesUp p mode neg v N := by
      cases mode with
      | rne => rfl
      | rtz => simp [RoundsPast, MovesUp, hup]
      | rdn => cases neg <;> simp [RoundsPast, MovesUp, hup, lt_iff_le_and_ne, hlo]
      | rup => cases neg <;> simp [RoundsPast, MovesUp, hup, lt_iff_le_and_ne, hlo]
    rw [hr]
    by_cases hu : MovesUp p mode neg v N
    · simp [hu, h.up hu]
    · simp [hu, h.stay hu]
  · have h1 : p (a + 1) ≤ p N := hp.monotone hN
    have h0 : p N < p (N + 1) := hp (Nat.lt_succ_self N)
    have hr : ¬ RoundsPast p mode neg v N := by
      cases mode with
      | rne =>
        rintro (h | ⟨h, -⟩)
        · linarith
        · linarith
      | rtz => exact not_le.mpr (by linarith)
      | rdn => cases neg with
        | true => exact not_lt.mpr (by linarith)
        | false => exact not_le.mpr (by linarith)
      | rup => cases neg with
        | true => exact not_le.mpr (by linarith)
        | false => exact not_lt.mpr (by linarith)
    rcases h.point with hn | hn <;> simp [hr] <;> omega

/-- A point lies at or below the lower neighbour, or at or above the upper one. -/
theorem RoundsIn.outside (hp : StrictMono p) (b : Nat) : p b ≤ p a ∨ p (a + 1) ≤ p b := by
  rcases Nat.lt_or_ge a b with h | h
  · exact .inr (hp.monotone h)
  · exact .inl (hp.monotone h)

/-- Rounded to nearest, no point lies nearer, and one that lies as near only where the point is even. -/
theorem RoundsIn.nearest (hp : StrictMono p) (h : RoundsIn p .rne neg v n ix a) (b : Nat) :
    |v - p n| ≤ |v - p b| ∧ (|v - p n| = |v - p b| → p b = p n ∨ n % 2 = 0) := by
  have hlo := h.lower
  have hup := h.upper
  by_cases hu : MovesUp p .rne neg v a
  · rw [h.up hu, abs_of_neg (by linarith)]
    rcases RoundsIn.outside hp (a := a) b with hb | hb
    · rw [abs_of_nonneg (by linarith)]
      refine ⟨by rcases hu with hu | ⟨hu, -⟩ <;> linarith, fun he => .inr ?_⟩
      rcases hu with hu | ⟨-, hu⟩
      · linarith
      · omega
    · rw [abs_of_neg (by linarith)]
      exact ⟨by linarith, fun he => .inl (by linarith)⟩
  · have hm : 2 * v ≤ p a + p (a + 1) := not_lt.mp fun hc => hu (.inl hc)
    rw [h.stay hu, abs_of_nonneg (by linarith)]
    rcases RoundsIn.outside hp (a := a) b with hb | hb
    · rw [abs_of_nonneg (by linarith)]
      exact ⟨by linarith, fun he => .inl (by linarith)⟩
    · rw [abs_of_neg (by linarith)]
      refine ⟨by linarith, fun he => .inr ?_⟩
      have hodd : ¬ a % 2 = 1 := fun hc => hu (.inr ⟨by linarith, hc⟩)
      omega

/-- Rounded down, the point is the highest that is not above. -/
theorem RoundsIn.down (hp : StrictMono p) (h : RoundsIn p mode neg v n ix a) (hd : ¬ MovesUp p mode neg v a) :
    p n ≤ v ∧ ∀ b, p b ≤ v → p b ≤ p n := by
  rw [h.stay hd]
  refine ⟨h.lower, fun b hb => ?_⟩
  rcases RoundsIn.outside hp (a := a) b with h' | h'
  · exact h'
  · exact absurd (h'.trans hb) (not_le.mpr h.upper)

/-- Rounded up, the point is the lowest that is not below. -/
theorem RoundsIn.above (hp : StrictMono p) (h : RoundsIn p mode neg v n ix a) (hu : MovesUp p mode neg v a ↔ p a ≠ v) :
    v ≤ p n ∧ ∀ b, v ≤ p b → p n ≤ p b := by
  by_cases he : p a = v
  · rw [h.stay fun hc => hu.mp hc he, he]
    exact ⟨le_refl v, fun b hb => hb⟩
  · rw [h.up (hu.mpr he)]
    refine ⟨h.upper.le, fun b hb => ?_⟩
    rcases RoundsIn.outside hp (a := a) b with h' | h'
    · exact absurd (le_antisymm h.lower (hb.trans h')) he
    · exact h'

end

end Sys2Proof.Machine

/-! PROOFS. The rounding of the model among even spacings, and the scale of a format's magnitudes (spec 05 R74, R83). -/

namespace Sys2Proof.Machine

/-! ### Rounding to a multiple of a power of two -/

/-- A positive rational that an integer in units of `2^e` stands for when it is rounded to a unit `2^q`: that multiple itself, or a
number beside an odd one that is at most one unit away, where two further bits are rounded off. -/
def Stands (v : ℚ) (m : Nat) (e q : Int) : Prop :=
  v = m * 2 ^ e ∨ (m % 2 = 1 ∧ e + 2 ≤ q ∧ ((m : ℚ) - 1) * 2 ^ e < v ∧ v < ((m : ℚ) + 1) * 2 ^ e)

/-- The multiples of a power of two. -/
def spaced (q : Int) (a : Nat) : ℚ := a * 2 ^ q

theorem spaced_strictMono (q : Int) : StrictMono (spaced q) := fun a b h => by
  unfold spaced
  have h2 : (0 : ℚ) < 2 ^ q := by positivity
  exact mul_lt_mul_of_pos_right (by exact_mod_cast h) h2

section
variable {v : ℚ} {m : Nat} {e q : Int}

theorem Stands.lt_iff (h : Stands v m e q) (j : Nat) (hj : e + 2 ≤ q → j % 2 = 0) :
    (spaced e j < v ↔ j < m) ∧ (v < spaced e j ↔ m < j) := by
  have h2 : (0 : ℚ) < 2 ^ e := by positivity
  unfold spaced
  rcases h with rfl | ⟨hm, hq, hlo, hhi⟩
  · constructor <;> (rw [mul_lt_mul_iff_left₀ h2]; exact Nat.cast_lt)
  · have hj := hj hq
    rcases Nat.lt_or_gt_of_ne (show j ≠ m by omega) with hl | hl
    · have h1 : ((j : ℚ)) * 2 ^ e ≤ ((m : ℚ) - 1) * 2 ^ e := by
        refine mul_le_mul_of_nonneg_right ?_ h2.le
        have : ((j + 1 : Nat) : ℚ) ≤ m := by exact_mod_cast hl
        push_cast at this
        linarith
      exact ⟨by simp [hl, h1.trans_lt hlo], by simp [not_lt.mpr (h1.trans hlo.le), not_lt.mpr hl.le]⟩
    · have h1 : ((m : ℚ) + 1) * 2 ^ e ≤ (j : ℚ) * 2 ^ e := by
        refine mul_le_mul_of_nonneg_right ?_ h2.le
        exact_mod_cast hl
      exact ⟨by simp [not_lt.mpr hl.le, not_lt.mpr (hhi.le.trans h1)], by simp [hl, hhi.trans_le h1]⟩

theorem Stands.eq_iff (h : Stands v m e q) (j : Nat) (hj : e + 2 ≤ q → j % 2 = 0) : spaced e j = v ↔ j = m := by
  obtain ⟨h1, h2⟩ := h.lt_iff j hj
  constructor
  · intro he
    have h3 := mt h1.mpr (not_lt.mpr he.ge)
    have h4 := mt h2.mpr (not_lt.mpr he.le)
    omega
  · intro he
    exact le_antisymm (not_lt.mp (mt h2.mp (by omega))) (not_lt.mp (mt h1.mp (by omega)))

/-- A unit `k` bits above. -/
theorem spaced_shift (e : Int) (k a : Nat) : spaced (e + k) a = spaced e (a * 2 ^ k) := by
  unfold spaced
  rw [zpow_add₀ (by norm_num), zpow_natCast]
  push_cast
  ring

theorem spaced_middle (e : Int) (k a : Nat) :
    spaced (e + (k + 1 : Nat)) a + spaced (e + (k + 1 : Nat)) (a + 1) = 2 * spaced e ((2 * a + 1) * 2 ^ k) := by
  rw [spaced_shift, spaced_shift]
  unfold spaced
  push_cast
  ring

/-- What is exact is a point, whatever the mode. -/
theorem RoundsIn.of_point {p : Nat → ℚ} (hp : StrictMono p) {mode : Rm} {neg : Bool} {a : Nat} (h : p a = v) :
    RoundsIn p mode neg v a false a where
  lower := h.le
  upper := h ▸ hp (Nat.lt_succ_self a)
  inexact := by simp [h]
  up := fun hu => absurd h (movesUp_inexact hp hu)
  stay := fun _ => rfl

theorem roundTo_coarse {mode : Rm} {neg : Bool} {k : Nat} (hq : q = e + (k + 1 : Nat)) :
    roundTo mode neg m e q = (m / 2 ^ (k + 1) + (roundsUp mode neg (m / 2 ^ (k + 1)) (m % 2 ^ (k + 1)) (k + 1)).toNat,
      decide (m % 2 ^ (k + 1) ≠ 0)) := by
  have hk : (q - e).toNat = k + 1 := by omega
  rw [roundTo, if_neg (by omega)]
  simp only [hk]

/-- The multiples of a power of two above 1 are even. -/
theorem even_mul_pow {e : Int} {k : Nat} (hq : q = e + (k + 1 : Nat)) (x : Nat) (h : e + 2 ≤ q) : x * 2 ^ k % 2 = 0 := by
  obtain ⟨j, rfl⟩ : ∃ j, k = j + 1 := ⟨k - 1, by omega⟩
  rw [pow_succ, ← mul_assoc, Nat.mul_mod_left]

theorem movesUp_coarse {mode : Rm} {neg : Bool} {k : Nat} (h : Stands v m e q) (hq : q = e + (k + 1 : Nat)) :
    MovesUp (spaced q) mode neg v (m / 2 ^ (k + 1)) ↔ roundsUp mode neg (m / 2 ^ (k + 1)) (m % 2 ^ (k + 1)) (k + 1) = true := by
  have hd := Nat.div_add_mod m (2 ^ (k + 1))
  have hpt : spaced q (m / 2 ^ (k + 1)) = v ↔ m % 2 ^ (k + 1) = 0 := by
    rw [hq, spaced_shift, h.eq_iff _ fun hc => by rw [pow_succ, ← mul_assoc]; omega]
    rw [mul_comm] at hd
    omega
  cases mode with
  | rne =>
    obtain ⟨h1, -⟩ := h.lt_iff ((2 * (m / 2 ^ (k + 1)) + 1) * 2 ^ k) (even_mul_pow hq _)
    have h2 := h.eq_iff ((2 * (m / 2 ^ (k + 1)) + 1) * 2 ^ k) (even_mul_pow hq _)
    have hm : (2 * (m / 2 ^ (k + 1)) + 1) * 2 ^ k = 2 ^ (k + 1) * (m / 2 ^ (k + 1)) + 2 ^ k := by ring
    rw [hm] at h1 h2
    simp only [MovesUp, roundsUp, hq, spaced_middle, hm]
    rw [mul_lt_mul_iff_right₀ (by norm_num : (0 : ℚ) < 2), mul_right_inj' (by norm_num : (2 : ℚ) ≠ 0), h1, eq_comm, h2]
    simp only [Bool.or_eq_true, Bool.and_eq_true, decide_eq_true_eq]
    rw [pow_succ] at hd ⊢
    generalize 2 ^ k = P at *
    generalize m / (P * 2) = a at *
    generalize m % (P * 2) = r at *
    omega
  | rtz => simp [MovesUp, roundsUp]
  | rdn => simp [MovesUp, roundsUp, hpt]
  | rup => simp [MovesUp, roundsUp, hpt]

/-- The model rounds to the neighbours that the mode gives. -/
theorem roundTo_roundsIn {mode : Rm} {neg : Bool} (h : Stands v m e q) :
    ∃ a, RoundsIn (spaced q) mode neg v (roundTo mode neg m e q).1 (roundTo mode neg m e q).2 a := by
  rcases le_or_gt q e with hq | hq
  · have hv : v = m * 2 ^ e := h.resolve_right fun hc => by omega
    refine ⟨m * 2 ^ (e - q).toNat, ?_⟩
    rw [roundTo, if_pos hq]
    refine RoundsIn.of_point (spaced_strictMono q) ?_
    have he : e = q + ((e - q).toNat : Int) := by omega
    rw [← spaced_shift, ← he, hv, spaced]
  · obtain ⟨k, hk⟩ : ∃ k : Nat, q = e + (k + 1 : Nat) := ⟨(q - e - 1).toNat, by omega⟩
    have hd := Nat.div_add_mod m (2 ^ (k + 1))
    have hr := Nat.mod_lt m (show 0 < 2 ^ (k + 1) by positivity)
    have heven : ∀ x : Nat, e + 2 ≤ q → x * 2 ^ (k + 1) % 2 = 0 := fun x _ => by rw [pow_succ, ← mul_assoc]; omega
    rw [roundTo_coarse hk]
    refine ⟨m / 2 ^ (k + 1), ?_, ?_, ?_, fun hu => ?_, fun hu => ?_⟩
    · rw [hk, spaced_shift]
      refine not_lt.mp (mt (h.lt_iff _ (heven _)).2.mp ?_)
      rw [mul_comm]
      omega
    · rw [hk, spaced_shift, (h.lt_iff _ (heven _)).2, add_mul, mul_comm]
      omega
    · have hpt := h.eq_iff (m / 2 ^ (k + 1) * 2 ^ (k + 1)) (heven _)
      rw [hk, spaced_shift]
      rw [mul_comm] at hpt ⊢
      rw [ne_eq (spaced _ _), hpt]
      simp only [decide_eq_true_eq]
      omega
    · rw [(movesUp_coarse h hk).mp hu]
      rfl
    · rw [Bool.not_eq_true _ |>.mp fun hc => hu ((movesUp_coarse h hk).mpr hc)]
      rfl

end

/-! ### The magnitudes of a format -/

/-- The spacing of the lowest magnitudes, as a power of two. -/
def FFmt.low (f : FFmt) : Int := 1 - f.bias - f.fw

/-- The magnitude of the pattern `b`, its exponent field unbounded. -/
def FFmt.mag (f : FFmt) (b : Nat) : ℚ :=
  if b / 2 ^ f.fw = 0 then spaced f.low b else spaced (f.low + (b / 2 ^ f.fw - 1 : Nat)) (2 ^ f.fw + b % 2 ^ f.fw)

/-- A significand in its binade, or at its end, and the pattern that it has. -/
theorem mag_binade {f : FFmt} {k a : Nat} (hk : k = 0 ∨ 2 ^ f.fw ≤ a) (ha : a ≤ 2 ^ (f.fw + 1)) :
    f.mag (k * 2 ^ f.fw + a) = spaced (f.low + k) a := by
  have hp : 0 < 2 ^ f.fw := by positivity
  rw [pow_succ] at ha
  unfold FFmt.mag
  rcases Nat.lt_or_ge a (2 ^ f.fw) with h1 | h1
  · have hk0 : k = 0 := hk.resolve_right (by omega)
    subst hk0
    simp [Nat.div_eq_of_lt h1]
  · obtain ⟨c, rfl⟩ : ∃ c, a = 2 ^ f.fw + c := ⟨a - 2 ^ f.fw, by omega⟩
    have hb : k * 2 ^ f.fw + (2 ^ f.fw + c) = (k + 1) * 2 ^ f.fw + c := by ring
    rw [hb]
    rcases Nat.lt_or_ge c (2 ^ f.fw) with h2 | h2
    · have hd : ((k + 1) * 2 ^ f.fw + c) / 2 ^ f.fw = k + 1 := by
        rw [Nat.add_comm, Nat.add_mul_div_right _ _ hp, Nat.div_eq_of_lt h2]; omega
      have hm : ((k + 1) * 2 ^ f.fw + c) % 2 ^ f.fw = c := by
        rw [Nat.add_comm, Nat.add_mul_mod_self_right, Nat.mod_eq_of_lt h2]
      rw [hd, hm, if_neg (by omega)]
      simp
    · have hc : c = 2 ^ f.fw := by omega
      subst hc
      have hd : ((k + 1) * 2 ^ f.fw + 2 ^ f.fw) / 2 ^ f.fw = k + 2 := by
        rw [← Nat.succ_mul, Nat.mul_div_cancel _ hp]
      have hm : ((k + 1) * 2 ^ f.fw + 2 ^ f.fw) % 2 ^ f.fw = 0 := by
        rw [← Nat.succ_mul, Nat.mul_mod_left]
      have hs : f.low + (k + 2 - 1 : Nat) = f.low + k + (1 : Nat) := by push_cast; omega
      rw [hd, hm, if_neg (by omega), hs, spaced_shift]
      congr 1
      ring

/-- Each pattern as a binade and its significand. -/
theorem binade_exists (f : FFmt) (b : Nat) : ∃ k a, b = k * 2 ^ f.fw + a ∧ (k = 0 ∨ 2 ^ f.fw ≤ a) ∧ a < 2 ^ (f.fw + 1) := by
  have hp : 0 < 2 ^ f.fw := by positivity
  have hd := Nat.div_add_mod b (2 ^ f.fw)
  have hr := Nat.mod_lt b hp
  rw [pow_succ]
  cases h : b / 2 ^ f.fw with
  | zero =>
    rw [h] at hd
    exact ⟨0, b, by omega, .inl rfl, by omega⟩
  | succ k =>
    rw [h] at hd
    refine ⟨k, 2 ^ f.fw + b % 2 ^ f.fw, ?_, .inr (by omega), by omega⟩
    calc b = 2 ^ f.fw * (k + 1) + b % 2 ^ f.fw := hd.symm
      _ = k * 2 ^ f.fw + (2 ^ f.fw + b % 2 ^ f.fw) := by ring

theorem mag_strictMono (f : FFmt) : StrictMono f.mag := by
  refine strictMono_nat_of_lt_succ fun b => ?_
  obtain ⟨k, a, rfl, hk, ha⟩ := binade_exists f b
  rw [mag_binade hk ha.le, add_assoc, mag_binade (hk.imp id (by omega)) ha]
  exact spaced_strictMono _ (Nat.lt_succ_self a)

/-- What is rounded among the even spacings of its binade is rounded among the magnitudes of the format. -/
theorem RoundsIn.binade {f : FFmt} (hf : 1 ≤ f.fw) {mode : Rm} {neg ix : Bool} {v : ℚ} {k n a : Nat} (hk : k = 0 ∨ 2 ^ f.fw ≤ a)
    (ha : a < 2 ^ (f.fw + 1)) (h : RoundsIn (spaced (f.low + k)) mode neg v n ix a) :
    RoundsIn f.mag mode neg v (k * 2 ^ f.fw + n) ix (k * 2 ^ f.fw + a) := by
  have h0 := mag_binade hk ha.le
  have h1 : f.mag (k * 2 ^ f.fw + a + 1) = spaced (f.low + k) (a + 1) := mag_binade (hk.imp id (by omega)) ha
  have hpar : (k * 2 ^ f.fw + a) % 2 = a % 2 := by
    obtain ⟨j, hj⟩ : ∃ j, f.fw = j + 1 := ⟨f.fw - 1, by omega⟩
    rw [hj, pow_succ, ← mul_assoc]
    omega
  have hu : MovesUp f.mag mode neg v (k * 2 ^ f.fw + a) ↔ MovesUp (spaced (f.low + k)) mode neg v a := by
    cases mode <;> simp only [MovesUp, h0, h1, hpar]
  exact ⟨h0 ▸ h.lower, h1 ▸ h.upper, by rw [h0]; exact h.inexact, fun hc => by rw [h.up (hu.mp hc), add_assoc],
    fun hc => by rw [h.stay (mt hu.mpr hc)]⟩

end Sys2Proof.Machine

/-! PROOFS. A magnitude rounded among those of a format is correctly rounded, with its exceptions (spec 05 R83, R84, R87). -/

namespace Sys2Proof.Machine

/-! ### Patterns and their values -/

/-- A magnitude with a sign. -/
def signed (neg : Bool) (v : ℚ) : ℚ := if neg then -v else v

@[simp] theorem signed_true (v : ℚ) : signed true v = -v := rfl
@[simp] theorem signed_false (v : ℚ) : signed false v = v := rfl

theorem signed_mul (s t : Bool) (u v : ℚ) : signed s u * signed t v = signed (s != t) (u * v) := by
  cases s <;> cases t <;> simp

theorem signed_eq_zero {s : Bool} {v : ℚ} : signed s v = 0 ↔ v = 0 := by cases s <;> simp

theorem signed_inj {s : Bool} {u v : ℚ} : signed s u = signed s v ↔ u = v := by cases s <;> simp

/-- A format with a fraction, and with exponents on both sides of 0. -/
structure FFmt.Sound (f : FFmt) : Prop where
  frac : 1 ≤ f.fw
  exp : 2 ≤ f.ew

theorem sound_of_format {f : FFmt} (h : Spec.format f) : f.Sound := by
  rcases h with rfl | rfl | rfl <;> exact ⟨by decide, by decide⟩

/-- The first magnitude pattern that is no number. -/
def FFmt.limit (f : FFmt) : Nat := (2 ^ f.ew - 1) * 2 ^ f.fw

section
variable {f : FFmt}

theorem limit_lt (f : FFmt) : f.limit < 2 ^ (f.fw + f.ew) := by
  unfold FFmt.limit
  rw [pow_add, mul_comm]
  exact Nat.mul_lt_mul_of_pos_left (Nat.sub_lt (by positivity) (by decide)) (by positivity)

theorem exponent_eq (f : FFmt) (x : Nat) : Spec.exponent f x = x % 2 ^ (f.fw + f.ew) / 2 ^ f.fw := by
  rw [Spec.exponent, pow_add, Nat.mod_mul_right_div_self]

theorem fraction_eq (f : FFmt) (x : Nat) : Spec.fraction f x = x % 2 ^ (f.fw + f.ew) % 2 ^ f.fw := by
  rw [Spec.fraction, Nat.mod_mod_of_dvd _ (pow_dvd_pow 2 (by omega))]

theorem value_eq_signed (f : FFmt) (x : Nat) : Spec.value f x = signed (Spec.negative f x) (f.mag (x % 2 ^ (f.fw + f.ew))) := by
  have hm : (if Spec.exponent f x = 0 then (Spec.fraction f x : ℚ) * 2 ^ (1 - f.bias - f.fw)
      else (2 ^ f.fw + Spec.fraction f x : ℚ) * 2 ^ ((Spec.exponent f x : Int) - f.bias - f.fw)) = f.mag (x % 2 ^ (f.fw + f.ew)) := by
    rw [exponent_eq, fraction_eq]
    generalize x % 2 ^ (f.fw + f.ew) = b
    unfold FFmt.mag spaced FFmt.low
    split
    · rename_i h
      rw [Nat.mod_eq_of_lt ((Nat.div_eq_zero_iff_lt (by positivity)).mp h)]
    · rename_i h
      have hx : ((b / 2 ^ f.fw : Nat) : Int) - f.bias - f.fw = 1 - f.bias - f.fw + (b / 2 ^ f.fw - 1 : Nat) := by
        have : 1 ≤ b / 2 ^ f.fw := Nat.one_le_iff_ne_zero.mpr h
        push_cast [this]
        ring
      rw [hx]
      push_cast
      rfl
  unfold Spec.value
  rw [hm]
  cases Spec.negative f x <;> simp

/-- A pattern of a sign and a magnitude. -/
theorem negative_sign {b : Nat} (neg : Bool) (hb : b < 2 ^ (f.fw + f.ew)) : Spec.negative f (f.sign neg + b) = neg := by
  unfold Spec.negative FFmt.sign
  cases neg with
  | true => rw [if_pos rfl, Nat.add_div_left _ (by positivity), Nat.div_eq_of_lt hb]; decide
  | false => simp [Nat.div_eq_of_lt hb]

theorem sign_mod {b : Nat} (neg : Bool) (hb : b < 2 ^ (f.fw + f.ew)) : (f.sign neg + b) % 2 ^ (f.fw + f.ew) = b := by
  unfold FFmt.sign
  cases neg <;> simp [Nat.mod_eq_of_lt hb]

theorem value_sign {b : Nat} (neg : Bool) (hb : b < 2 ^ (f.fw + f.ew)) : Spec.value f (f.sign neg + b) = signed neg (f.mag b) := by
  rw [value_eq_signed, negative_sign neg hb, sign_mod neg hb]

theorem sign_lt {b : Nat} (neg : Bool) (hb : b < 2 ^ (f.fw + f.ew)) : f.sign neg + b < 2 ^ (1 + f.ew + f.fw) := by
  have h : 2 ^ (1 + f.ew + f.fw) = 2 * 2 ^ (f.fw + f.ew) := by ring
  unfold FFmt.sign
  rw [h]
  split <;> omega

theorem exponent_top_iff {b : Nat} (hb : b < 2 ^ (f.fw + f.ew)) : b / 2 ^ f.fw = 2 ^ f.ew - 1 ↔ f.limit ≤ b := by
  have h1 : b / 2 ^ f.fw < 2 ^ f.ew := by
    rw [Nat.div_lt_iff_lt_mul (by positivity), mul_comm, ← pow_add]; exact hb
  rw [FFmt.limit, ← Nat.le_div_iff_mul_le (by positivity)]
  omega

theorem finite_sign {b : Nat} (neg : Bool) (hb : b < f.limit) : Spec.finite f (f.sign neg + b) := by
  have h := hb.trans (limit_lt f)
  refine ⟨sign_lt neg h, ?_⟩
  rw [exponent_eq, sign_mod neg h, ne_eq, exponent_top_iff h]
  omega

theorem mag_of_finite {x : Nat} (h : Spec.finite f x) : x % 2 ^ (f.fw + f.ew) < f.limit := by
  have hx : x % 2 ^ (f.fw + f.ew) < 2 ^ (f.fw + f.ew) := Nat.mod_lt _ (by positivity)
  have := h.2
  rw [exponent_eq, ne_eq, exponent_top_iff hx] at this
  omega

theorem mag_zero (f : FFmt) : f.mag 0 = 0 := by simp [FFmt.mag, spaced]

theorem mag_nonneg (f : FFmt) (b : Nat) : 0 ≤ f.mag b := by
  rw [← mag_zero f]
  exact (mag_strictMono f).monotone (Nat.zero_le b)

theorem sign_even (hf : f.Sound) (neg : Bool) (b : Nat) : (f.sign neg + b) % 2 = b % 2 := by
  obtain ⟨j, hj⟩ : ∃ j, f.fw + f.ew = j + 1 := ⟨f.fw + f.ew - 1, by have := hf.frac; omega⟩
  unfold FFmt.sign
  rw [hj, pow_succ]
  split <;> omega

/-! ### The edges of a format -/

theorem pow_ew (hf : f.Sound) : (2 : Int) ^ f.ew = 2 * f.bias + 2 := by
  obtain ⟨j, hj⟩ : ∃ j, f.ew = j + 1 := ⟨f.ew - 1, by have := hf.exp; omega⟩
  rw [FFmt.bias, hj, pow_succ, Nat.add_sub_cancel]
  ring

theorem four_le_pow_ew (hf : f.Sound) : 4 ≤ 2 ^ f.ew := Nat.pow_le_pow_right (by decide : 0 < 2) hf.exp

theorem limit_binade (hf : f.Sound) : f.limit = (2 ^ f.ew - 3) * 2 ^ f.fw + 2 ^ (f.fw + 1) := by
  have h := four_le_pow_ew hf
  unfold FFmt.limit
  rw [pow_succ, mul_comm (2 ^ f.fw) 2, ← add_mul]
  congr 1
  omega

theorem top_spacing (hf : f.Sound) : f.low + (2 ^ f.ew - 3 : Nat) = f.bias - f.fw := by
  have h := four_le_pow_ew hf
  have hb := pow_ew hf
  unfold FFmt.low
  push_cast [show 3 ≤ 2 ^ f.ew by omega]
  omega

theorem mag_limit (hf : f.Sound) : f.mag f.limit = Spec.largest f + Spec.topUlp f := by
  rw [limit_binade hf, mag_binade (.inr (Nat.pow_le_pow_right (by decide) (by omega))) le_rfl, top_spacing hf]
  unfold spaced Spec.largest Spec.topUlp
  push_cast
  ring

theorem mag_largest (hf : f.Sound) : f.mag (f.limit - 1) = Spec.largest f := by
  have hp : 0 < 2 ^ f.fw := by positivity
  have hl : f.limit - 1 = (2 ^ f.ew - 3) * 2 ^ f.fw + (2 ^ (f.fw + 1) - 1) := by
    rw [limit_binade hf, pow_succ]; omega
  rw [hl, mag_binade (.inr (by rw [pow_succ]; omega)) (by omega), top_spacing hf]
  unfold spaced Spec.largest
  push_cast [show 1 ≤ 2 ^ (f.fw + 1) by rw [pow_succ]; omega]
  ring

theorem limit_even (hf : f.Sound) : f.limit % 2 = 0 ∧ 0 < f.limit := by
  obtain ⟨j, hj⟩ : ∃ j, f.fw = j + 1 := ⟨f.fw - 1, by have := hf.frac; omega⟩
  have h4 := four_le_pow_ew hf
  refine ⟨?_, ?_⟩
  · unfold FFmt.limit
    rw [hj, pow_succ, ← mul_assoc, Nat.mul_mod_left]
  · unfold FFmt.limit
    exact Nat.mul_pos (by omega) (by positivity)

theorem largest_pos (hf : f.Sound) : 0 < Spec.largest f := by
  have h4 := four_le_pow_ew hf
  have hp : 0 < 2 ^ f.fw := by positivity
  rw [← mag_largest hf, ← mag_zero f]
  refine mag_strictMono f ?_
  rw [limit_binade hf, pow_succ]
  omega

/-! ### Overflow and tininess -/

theorem reaches_of_le {p : Nat → ℚ} (hp : StrictMono p) {mode : Rm} {neg : Bool} {v : ℚ} {N : Nat} (h : p (N + 1) ≤ v) :
    RoundsPast p mode neg v N := by
  have h0 : p N < p (N + 1) := hp (Nat.lt_succ_self N)
  cases mode with
  | rne => exact .inl (by linarith)
  | rtz => exact h
  | rdn => cases neg with
    | true => exact h0.trans_le h
    | false => exact h
  | rup => cases neg with
    | true => exact h
    | false => exact h0.trans_le h

theorem not_reaches_of_le {p : Nat → ℚ} (hp : StrictMono p) {mode : Rm} {neg : Bool} {v : ℚ} {N : Nat} (h : v ≤ p N) :
    ¬ RoundsPast p mode neg v N := by
  have h0 : p N < p (N + 1) := hp (Nat.lt_succ_self N)
  cases mode with
  | rne => rintro (h' | ⟨h', -⟩) <;> linarith
  | rtz => exact not_le.mpr (by linarith)
  | rdn => cases neg with
    | true => exact not_lt.mpr h
    | false => exact not_le.mpr (by linarith)
  | rup => cases neg with
    | true => exact not_le.mpr (by linarith)
    | false => exact not_lt.mpr h

/-- Rounded to nearest, an odd point is left from the middle on. -/
theorem reaches_odd {p : Nat → ℚ} {neg : Bool} {v : ℚ} {N : Nat} (h : N % 2 = 1) :
    RoundsPast p .rne neg v N ↔ p N + p (N + 1) ≤ 2 * v := by
  simp only [RoundsPast, h, and_true]
  rw [le_iff_lt_or_eq, eq_comm (a := 2 * v)]

theorem overflows_iff (hf : f.Sound) {mode : Rm} {neg : Bool} {v : ℚ} (hv : 0 < v) :
    Spec.overflows f mode (signed neg v) ↔ RoundsPast f.mag mode neg v (f.limit - 1) := by
  obtain ⟨hev, hpos⟩ := limit_even hf
  have hl := largest_pos hf
  have hu : 0 < Spec.topUlp f := by unfold Spec.topUlp; positivity
  have h1 : f.limit - 1 + 1 = f.limit := by omega
  have habs : |signed neg v| = v := by cases neg <;> simp [abs_of_pos hv]
  cases mode with
  | rne =>
    rw [reaches_odd (by omega), h1, mag_largest hf, mag_limit hf, Spec.overflows, habs]
    constructor <;> intro h <;> linarith
  | rtz => simp only [RoundsPast, h1, mag_limit hf, Spec.overflows, habs]
  | rdn =>
    cases neg with
    | true =>
      simp only [RoundsPast, Spec.overflows, signed_true, mag_largest hf, if_true, neg_lt_neg_iff]
      exact ⟨fun h => h.resolve_right (by linarith), .inl⟩
    | false =>
      simp only [RoundsPast, Spec.overflows, signed_false, h1, mag_limit hf, Bool.false_eq_true, if_false]
      exact ⟨fun h => h.resolve_left (by linarith), .inr⟩
  | rup =>
    cases neg with
    | true =>
      simp only [RoundsPast, Spec.overflows, signed_true, h1, mag_limit hf, if_true, neg_le_neg_iff]
      exact ⟨fun h => h.resolve_left (by linarith), .inr⟩
    | false =>
      simp only [RoundsPast, Spec.overflows, signed_false, mag_largest hf, Bool.false_eq_true, if_false]
      exact ⟨fun h => h.resolve_right (by linarith), .inl⟩

/-- The spacing of the binade below the smallest normal value, its last point and its end. -/
theorem below_smallest (hf : f.Sound) : spaced (f.low - 1) (2 ^ (f.fw + 1)) = Spec.smallest f ∧
    spaced (f.low - 1) (2 ^ (f.fw + 1) - 1) = Spec.smallest f - Spec.lowUlp f / 2 ∧
    2 * Spec.lowUlp f ≤ Spec.smallest f ∧ 0 < Spec.lowUlp f := by
  have h2 : (2 : ℚ) ≠ 0 := by norm_num
  have hu : 0 < Spec.lowUlp f := by unfold Spec.lowUlp; positivity
  have hs : Spec.smallest f = 2 ^ f.fw * Spec.lowUlp f := by
    unfold Spec.smallest Spec.lowUlp
    rw [← zpow_natCast, ← zpow_add₀ h2]
    congr 1
    ring
  have hl : (2 : ℚ) ^ (f.low - 1) = Spec.lowUlp f / 2 := by
    unfold FFmt.low Spec.lowUlp
    rw [zpow_sub₀ h2, zpow_one]
  refine ⟨?_, ?_, ?_, hu⟩
  · unfold spaced
    rw [hl, hs]
    push_cast
    ring
  · unfold spaced
    rw [hl, hs]
    push_cast [show 1 ≤ 2 ^ (f.fw + 1) from Nat.one_le_two_pow]
    ring
  · have : (2 : ℚ) ^ 1 ≤ 2 ^ f.fw := pow_le_pow_right₀ (by norm_num) hf.frac
    rw [hs]
    nlinarith

theorem tiny_iff (hf : f.Sound) {mode : Rm} {neg : Bool} {v : ℚ} (hv : 0 < v) :
    Spec.tiny f mode (signed neg v) ↔ ¬ RoundsPast (spaced (f.low - 1)) mode neg v (2 ^ (f.fw + 1) - 1) := by
  obtain ⟨h1, h0, hsm, hu⟩ := below_smallest hf
  have hp : 1 ≤ 2 ^ (f.fw + 1) := Nat.one_le_two_pow
  have hs : 2 ^ (f.fw + 1) - 1 + 1 = 2 ^ (f.fw + 1) := by omega
  have habs : |signed neg v| = v := by cases neg <;> simp [abs_of_pos hv]
  cases mode with
  | rne =>
    rw [reaches_odd (by rw [pow_succ] at hp ⊢; omega), hs, h0, h1, Spec.tiny, habs, not_le]
    constructor <;> intro h <;> linarith
  | rtz => simp only [RoundsPast, hs, h1, Spec.tiny, habs, not_le]
  | rdn =>
    cases neg with
    | true =>
      simp only [RoundsPast, Spec.tiny, signed_true, h0, if_true, not_lt, neg_le_neg_iff]
      exact ⟨fun h => h.1, fun h => ⟨h, by linarith⟩⟩
    | false =>
      simp only [RoundsPast, Spec.tiny, signed_false, hs, h1, Bool.false_eq_true, if_false, not_le]
      exact ⟨fun h => h.2, fun h => ⟨by linarith, h⟩⟩
  | rup =>
    cases neg with
    | true =>
      simp only [RoundsPast, Spec.tiny, signed_true, hs, h1, if_true, not_le, neg_lt_neg_iff]
      exact ⟨fun h => h.1, fun h => ⟨h, by linarith⟩⟩
    | false =>
      simp only [RoundsPast, Spec.tiny, signed_false, h0, Bool.false_eq_true, if_false, not_lt]
      exact ⟨fun h => h.2, fun h => ⟨by linarith, h⟩⟩

end

/-! ### A rounded magnitude as a result -/

/-- What a rounding to the magnitude pattern `n` delivers. -/
def FFmt.deliver (f : FFmt) (mode : Rm) (neg : Bool) (n : Nat) (ix tiny : Bool) : Nat × Exc :=
  if f.limit ≤ n then
    (if Spec.toInfinity mode neg then f.infBits neg else f.maxBits neg, { Exc.none with of := true, ix := true })
  else (f.sign neg + n, { Exc.none with ix := ix, uf := tiny && ix })

section
variable {f : FFmt} {mode : Rm} {neg : Bool} {v : ℚ} {n a : Nat} {ix : Bool}

theorem abs_signed (s : Bool) {w : ℚ} (hw : 0 ≤ w) : |signed s w| = w := by cases s <;> simp [abs_of_nonneg hw]

/-- The distance of two magnitudes with signs. -/
theorem abs_signed_sub (s t : Bool) {u w : ℚ} (hu : 0 ≤ u) (hw : 0 ≤ w) :
    |signed s u - signed t w| = if t = s then |u - w| else u + w := by
  cases s <;> cases t <;> simp only [signed_true, signed_false, if_true, reduceCtorEq, if_false]
  · rw [sub_neg_eq_add, abs_of_nonneg (by linarith)]
  · rw [abs_of_nonpos (by linarith)]; ring
  · rw [neg_sub_neg, abs_sub_comm]

theorem value_magnitude (f : FFmt) (u : Nat) : ∃ s b, Spec.value f u = signed s (f.mag b) ∧ 0 ≤ f.mag b :=
  ⟨_, _, value_eq_signed f u, mag_nonneg f _⟩

/-- Rounded to nearest among the magnitudes, a value with a sign is rounded to nearest among the numbers. -/
theorem nearest_even (hf : f.Sound) (hv : 0 < v) (h : RoundsIn f.mag .rne neg v n ix a) (u : Nat) :
    |signed neg v - signed neg (f.mag n)| ≤ |signed neg v - Spec.value f u| ∧
      (|signed neg v - signed neg (f.mag n)| = |signed neg v - Spec.value f u| →
        Spec.value f u = signed neg (f.mag n) ∨ (f.sign neg + n) % 2 = 0) := by
  have hp := mag_strictMono f
  obtain ⟨s, b, hb, hb0⟩ := value_magnitude f u
  rw [hb, sign_even hf, abs_signed_sub neg neg hv.le (mag_nonneg f n), abs_signed_sub neg s hv.le hb0, if_pos rfl]
  by_cases hs : s = neg
  · subst hs
    rw [if_pos rfl, signed_inj]
    exact h.nearest hp b
  · obtain ⟨hz, htie⟩ := h.nearest hp 0
    rw [mag_zero, sub_zero, abs_of_pos hv] at hz htie
    rw [if_neg hs]
    refine ⟨by linarith, fun he => ?_⟩
    have hb1 : f.mag b = 0 := by linarith
    refine (htie (by linarith)).imp (fun h0 => ?_) id
    rw [hb1, ← h0]
    cases neg <;> cases s <;> simp

/-- Rounded to the highest magnitude not above, a value with a sign is rounded toward 0. -/
theorem toward_zero (h : f.mag n ≤ v ∧ ∀ b, f.mag b ≤ v → f.mag b ≤ f.mag n) (u : Nat) (hu : signed neg (Spec.value f u) ≤ v) :
    signed neg (Spec.value f u) ≤ f.mag n := by
  obtain ⟨s, b, hb, hb0⟩ := value_magnitude f u
  have hn := mag_nonneg f n
  rw [hb] at hu ⊢
  cases neg <;> cases s <;> simp only [signed_true, signed_false, neg_neg] at hu ⊢
  · exact h.2 b hu
  · linarith
  · linarith
  · exact h.2 b hu

/-- Rounded to the lowest magnitude not below, a value with a sign is rounded away from 0. -/
theorem away_from_zero (hv : 0 < v) (h : v ≤ f.mag n ∧ ∀ b, v ≤ f.mag b → f.mag n ≤ f.mag b) (u : Nat)
    (hu : v ≤ signed neg (Spec.value f u)) : f.mag n ≤ signed neg (Spec.value f u) := by
  obtain ⟨s, b, hb, hb0⟩ := value_magnitude f u
  rw [hb] at hu ⊢
  cases neg <;> cases s <;> simp only [signed_true, signed_false, neg_neg] at hu ⊢
  · exact h.2 b hu
  · linarith
  · linarith
  · exact h.2 b hu

theorem nearest_of_roundsIn (hf : f.Sound) (hv : 0 < v) (h : RoundsIn f.mag mode neg v n ix a) (hn : n < f.limit) :
    Spec.nearest f mode (signed neg v) (f.sign neg + n) := by
  have hp := mag_strictMono f
  unfold Spec.nearest
  rw [value_sign neg (hn.trans (limit_lt f))]
  cases mode with
  | rne => exact fun u _ => nearest_even hf hv h u
  | rtz =>
    have hd := h.down hp (fun hc => hc)
    dsimp only
    rw [abs_signed _ (mag_nonneg f n), abs_signed _ hv.le]
    refine ⟨hd.1, fun u _ hu => ?_⟩
    rcases abs_choice (Spec.value f u) with ha | ha <;> rw [ha] at hu ⊢
    · exact toward_zero (neg := false) hd u hu
    · exact toward_zero (neg := true) hd u hu
  | rdn =>
    cases neg with
    | true =>
      have hu := h.above hp (by simp [MovesUp])
      exact ⟨neg_le_neg hu.1, fun u _ hc => le_neg_of_le_neg (away_from_zero (neg := true) hv hu u (le_neg_of_le_neg hc))⟩
    | false =>
      have hd := h.down hp (by simp [MovesUp])
      exact ⟨hd.1, fun u _ hc => toward_zero (neg := false) hd u hc⟩
  | rup =>
    cases neg with
    | true =>
      have hd := h.down hp (by simp [MovesUp])
      exact ⟨neg_le_neg hd.1, fun u _ hc => neg_le_of_neg_le (toward_zero (neg := true) hd u (neg_le_of_neg_le hc))⟩
    | false =>
      have hu := h.above hp (by simp [MovesUp])
      exact ⟨hu.1, fun u _ hc => away_from_zero (neg := false) hv hu u hc⟩

theorem overflows_of_limit (hf : f.Sound) (hv : 0 < v) (h : RoundsIn f.mag mode neg v n ix a) :
    Spec.overflows f mode (signed neg v) ↔ f.limit ≤ n := by
  obtain ⟨-, hpos⟩ := limit_even hf
  rw [overflows_iff hf hv, ← h.reaches_iff (mag_strictMono f), Nat.sub_add_cancel hpos]

theorem signed_neg_iff (hv : 0 < v) : signed neg v < 0 ↔ neg = true := by
  cases neg <;> simp [hv, hv.le]

theorem negative_overflow (hf : f.Sound) (c : Bool) :
    (if c then f.infBits neg else f.maxBits neg) < 2 ^ (1 + f.ew + f.fw) ∧
      Spec.negative f (if c then f.infBits neg else f.maxBits neg) = neg := by
  obtain ⟨-, hpos⟩ := limit_even hf
  have hl := limit_lt f
  have hmax : f.maxBits neg = f.sign neg + (f.limit - 1) := by
    unfold FFmt.maxBits
    exact Nat.add_sub_assoc hpos _
  cases c with
  | true => exact ⟨sign_lt neg hl, negative_sign neg hl⟩
  | false =>
    simp only [Bool.false_eq_true, if_false, hmax]
    exact ⟨sign_lt neg (by omega), negative_sign neg (by omega)⟩

theorem smallest_le_largest (hf : f.Sound) : Spec.smallest f ≤ Spec.largest f := by
  have hb := mag_binade (f := f) (k := 0) (a := 2 ^ f.fw) (.inl rfl) (Nat.pow_le_pow_right (by decide) (by omega))
  have hl : f.low + ((0 : Nat) : Int) = f.low - 1 + (1 : Nat) := by push_cast; ring
  rw [hl, spaced_shift, pow_one, ← pow_succ, (below_smallest hf).1] at hb
  have h4 := four_le_pow_ew hf
  have hp : 0 < 2 ^ f.fw := by positivity
  rw [← hb, ← mag_largest hf]
  refine (mag_strictMono f).monotone ?_
  rw [limit_binade hf, pow_succ]
  omega

/-- What rounds above the largest finite value is not tiny. -/
theorem not_tiny_of_limit (hf : f.Sound) (hv : 0 < v) (h : RoundsIn f.mag mode neg v n ix a) (hn : f.limit ≤ n) :
    ¬ Spec.tiny f mode (signed neg v) := by
  have hlv : f.mag (f.limit - 1) ≤ v := by
    rcases h.point with hp | hp <;> exact ((mag_strictMono f).monotone (by omega)).trans h.lower
  rw [tiny_iff hf hv, not_not]
  refine reaches_of_le (spaced_strictMono _) ?_
  rw [Nat.sub_add_cancel Nat.one_le_two_pow, (below_smallest hf).1]
  rw [mag_largest hf] at hlv
  exact (smallest_le_largest hf).trans hlv

/-- A magnitude rounded among those of the format, with its sign, is the value correctly rounded. -/
theorem Rounds.of_roundsIn {tiny : Bool} (hf : f.Sound) (hv : 0 < v) (h : RoundsIn f.mag mode neg v n ix a)
    (ht : tiny = true ↔ Spec.tiny f mode (signed neg v)) (z : Bool) :
    Spec.Rounds f mode (signed neg v) z (f.deliver mode neg n ix tiny) := by
  have hov := overflows_of_limit hf hv h
  have hne : signed neg v ≠ 0 := fun hc => hv.ne' (signed_eq_zero.mp hc)
  have hsg : decide (signed neg v < 0) = neg := by
    rw [Bool.eq_iff_iff, decide_eq_true_iff, signed_neg_iff hv]
  unfold FFmt.deliver
  by_cases hl : f.limit ≤ n
  · obtain ⟨h1, h2⟩ := negative_overflow (neg := neg) hf (Spec.toInfinity mode neg)
    have ho := hov.mpr hl
    have hnt : ¬ Spec.tiny f mode (signed neg v) := not_tiny_of_limit hf hv h hl
    rw [if_pos hl]
    exact
      { zero := fun hc => absurd hc hne
        sign := fun _ => ⟨h1, by rw [h2, signed_neg_iff hv]⟩
        within := fun hc => absurd ho hc
        above := fun _ => by rw [hsg]
        overflow := by simp [ho]
        underflow := by simp [Exc.none, hnt]
        inexact := by simp [ho]
        others := ⟨rfl, rfl⟩ }
  · have hlt : n < f.limit := Nat.not_le.mp hl
    have ho : ¬ Spec.overflows f mode (signed neg v) := fun hc => hl (hov.mp hc)
    have hval := value_sign (f := f) neg (hlt.trans (limit_lt f))
    have hix : ix = true ↔ Spec.value f (f.sign neg + n) ≠ signed neg v := by
      rw [h.inexact_iff (mag_strictMono f), hval, ne_eq, ne_eq, signed_inj]
    rw [if_neg hl]
    exact
      { zero := fun hc => absurd hc hne
        sign := fun _ => ⟨sign_lt neg (hlt.trans (limit_lt f)), by rw [negative_sign neg (hlt.trans (limit_lt f)), signed_neg_iff hv]⟩
        within := fun _ => ⟨finite_sign neg hlt, nearest_of_roundsIn hf hv h hlt⟩
        above := fun hc => absurd hc ho
        overflow := by simp [Exc.none, ho]
        underflow := by
          rw [← hix, ← ht]
          simp [hne]
        inexact := by
          rw [← hix]
          simp [ho]
        others := ⟨rfl, rfl⟩ }

/-- An exact zero. -/
theorem Rounds.zero (hf : f.Sound) (z : Bool) : Spec.Rounds f mode 0 z (f.sign z, Exc.none) := by
  obtain ⟨-, hpos⟩ := limit_even hf
  have hval : Spec.value f (f.sign z) = 0 := by
    have := value_sign (f := f) (b := 0) z (by positivity)
    rw [Nat.add_zero, mag_zero] at this
    rw [this]
    cases z <;> simp
  have hl := largest_pos hf
  have hu : 0 < Spec.topUlp f := by unfold Spec.topUlp; positivity
  have ho : ¬ Spec.overflows f mode 0 := by
    cases mode with
    | rne => simp only [Spec.overflows, abs_zero]; linarith
    | rtz => simp only [Spec.overflows, abs_zero]; linarith
    | rdn => rintro (h | h) <;> linarith
    | rup => rintro (h | h) <;> linarith
  have hn : Spec.nearest f mode 0 (f.sign z) := by
    unfold Spec.nearest
    rw [hval]
    cases mode with
    | rne =>
      dsimp only
      intro u _
      rw [sub_self, abs_zero]
      exact ⟨abs_nonneg _, fun he => .inl (by rw [eq_comm, abs_eq_zero, zero_sub, neg_eq_zero] at he; exact he)⟩
    | rtz => exact ⟨le_rfl, fun u _ h => h⟩
    | rdn => exact ⟨le_rfl, fun u _ h => h⟩
    | rup => exact ⟨le_rfl, fun u _ h => h⟩
  exact
    { zero := fun _ => rfl
      sign := fun h => absurd rfl h
      within := fun _ => ⟨finite_sign (b := 0) z hpos, hn⟩
      above := fun hc => absurd hc ho
      overflow := by simp [Exc.none, ho]
      underflow := by simp [Exc.none]
      inexact := by simp [Exc.none, ho, hval]
      others := ⟨rfl, rfl⟩ }

end

end Sys2Proof.Machine

/-! PROOFS. The rounding of the model is correct: exact values, and the odd integer that stands for a quotient (spec 05 R83, R84, R87). -/

namespace Sys2Proof.Machine

/-! ### The rounding of the model among the magnitudes -/

/-- The position of the top bit of `m * 2^e`. -/
def topBit (m : Nat) (e : Int) : Int := Nat.log2 m + e

/-- The unit to which `m * 2^e` is rounded. -/
def FFmt.quantum (f : FFmt) (m : Nat) (e : Int) : Int := max (topBit m e - f.fw) f.low

/-- Whether the rounding of the model takes `m * 2^e` for tiny. -/
def FFmt.takesTiny (f : FFmt) (mode : Rm) (neg : Bool) (m : Nat) (e : Int) : Bool :=
  decide (topBit m e < 1 - f.bias) &&
    !(decide (topBit m e = -f.bias) && decide ((roundTo mode neg m e (topBit m e - f.fw)).1 = 2 ^ (f.fw + 1)))

section
variable {f : FFmt} {mode : Rm} {neg : Bool} {v : ℚ} {m : Nat} {e q q' : Int}

theorem Stands.mono (h : Stands v m e q) (hq : q ≤ q') : Stands v m e q' :=
  h.imp id fun ⟨h1, h2, h3⟩ => ⟨h1, h2.trans hq, h3⟩

theorem round_eq_deliver (hm : m ≠ 0) : f.round mode neg m e =
    f.deliver mode neg ((f.quantum m e - f.low).toNat * 2 ^ f.fw + (roundTo mode neg m e (f.quantum m e)).1)
      (roundTo mode neg m e (f.quantum m e)).2 (f.takesTiny mode neg m e) := by
  unfold FFmt.round FFmt.deliver
  rw [if_neg hm]
  cases mode <;> rfl

/-- A value lies in the binade of the integer that stands for it. -/
theorem Stands.binade (hm : m ≠ 0) (h : Stands v m e (topBit m e - f.fw)) :
    (2 : ℚ) ^ topBit m e ≤ v ∧ v < 2 ^ (topBit m e + 1) := by
  have hev : ∀ j : Nat, e + 2 ≤ topBit m e - f.fw → 2 ^ (Nat.log2 m + j) % 2 = 0 := fun j hc => by
    obtain ⟨k, hk⟩ : ∃ k, Nat.log2 m + j = k + 1 := ⟨Nat.log2 m + j - 1, by unfold topBit at hc; omega⟩
    rw [hk, pow_succ, Nat.mul_mod_left]
  have hpow : ∀ j : Nat, (2 : ℚ) ^ (topBit m e + j) = spaced e (2 ^ (Nat.log2 m + j)) := fun j => by
    unfold spaced topBit
    push_cast
    rw [← zpow_natCast, ← zpow_add₀ (by norm_num)]
    congr 1
    push_cast
    ring
  have h0 := hpow 0
  have h1 := hpow 1
  rw [Nat.cast_zero, add_zero] at h0
  rw [Nat.cast_one] at h1
  rw [h0, h1]
  refine ⟨not_lt.mp (mt (h.lt_iff _ (hev 0)).2.mp ?_), (h.lt_iff _ (hev 1)).2.mpr ?_⟩
  · exact not_lt.mpr (Nat.log2_self_le hm)
  · exact Nat.lt_log2_self

theorem Stands.pos (hm : m ≠ 0) (h : Stands v m e (topBit m e - f.fw)) : 0 < v :=
  lt_of_lt_of_le (by positivity) (h.binade hm).1

/-- The spacing of a binade, its first point and its end. -/
theorem spaced_pow (q : Int) (k : Nat) : spaced q (2 ^ k) = 2 ^ (q + k) := by
  unfold spaced
  push_cast
  rw [← zpow_natCast, ← zpow_add₀ (by norm_num), add_comm]

/-- In a unit that is no finer than that of its binade, a value has at most the bits of a significand. -/
theorem significand_lt {a : Nat} (hv : v < 2 ^ (topBit m e + 1)) (hq : topBit m e - f.fw ≤ q) (ha : spaced q a ≤ v) : a < 2 ^ (f.fw + 1) := by
  refine (spaced_strictMono q).lt_iff_lt.mp (ha.trans_lt (hv.trans_le ?_))
  rw [spaced_pow]
  exact zpow_le_zpow_right₀ (by norm_num) (by push_cast; omega)

theorem round_roundsIn (hf : f.Sound) (hm : m ≠ 0) (h : Stands v m e (topBit m e - f.fw)) :
    ∃ a, RoundsIn f.mag mode neg v ((f.quantum m e - f.low).toNat * 2 ^ f.fw + (roundTo mode neg m e (f.quantum m e)).1)
      (roundTo mode neg m e (f.quantum m e)).2 a := by
  obtain ⟨hlo, hhi⟩ := h.binade hm
  have hq : topBit m e - f.fw ≤ f.quantum m e := le_max_left ..
  obtain ⟨a, ha⟩ := roundTo_roundsIn (mode := mode) (neg := neg) (h.mono hq)
  have hk : f.low + ((f.quantum m e - f.low).toNat : Int) = f.quantum m e := by
    have : f.low ≤ f.quantum m e := le_max_right ..
    omega
  refine ⟨_, RoundsIn.binade hf.frac ?_ (significand_lt hhi hq ha.lower) (hk.symm ▸ ha)⟩
  by_cases hc : f.quantum m e = f.low
  · exact .inl (by omega)
  · right
    have hqt : f.quantum m e + f.fw = topBit m e := by unfold FFmt.quantum at hc ⊢; omega
    have hlt : spaced (f.quantum m e) (2 ^ f.fw) < spaced (f.quantum m e) (a + 1) := by
      rw [spaced_pow, hqt]
      exact hlo.trans_lt ha.upper
    exact Nat.lt_succ_iff.mp ((spaced_strictMono _).lt_iff_lt.mp hlt)

theorem takesTiny_iff (hf : f.Sound) (hm : m ≠ 0) (h : Stands v m e (topBit m e - f.fw)) :
    f.takesTiny mode neg m e = true ↔ Spec.tiny f mode (signed neg v) := by
  obtain ⟨hlo, hhi⟩ := h.binade hm
  obtain ⟨h1, h0, hsm, hu⟩ := below_smallest hf
  have hN : 2 ^ (f.fw + 1) - 1 + 1 = 2 ^ (f.fw + 1) := Nat.sub_add_cancel Nat.one_le_two_pow
  rw [tiny_iff hf (h.pos hm)]
  unfold FFmt.takesTiny
  rcases lt_trichotomy (topBit m e) (-f.bias) with ht | ht | ht
  · have hv : v ≤ spaced (f.low - 1) (2 ^ (f.fw + 1) - 1) := by
      have h2 : (2 : ℚ) ^ (topBit m e + 1) ≤ 2 ^ (-f.bias) := zpow_le_zpow_right₀ (by norm_num) (by omega)
      have h3 : (2 : ℚ) ^ (-f.bias) = Spec.smallest f / 2 := by
        unfold Spec.smallest
        rw [sub_eq_neg_add, zpow_add₀ (by norm_num), zpow_one]
        ring
      rw [h0]
      linarith
    simp [show topBit m e < 1 - f.bias by omega, ht.ne, not_reaches_of_le (spaced_strictMono _) hv]
  · obtain ⟨a, ha⟩ := roundTo_roundsIn (mode := mode) (neg := neg) h
    have hlt := significand_lt hhi le_rfl ha.lower
    have hq : f.low - 1 = topBit m e - f.fw := by unfold FFmt.low; omega
    rw [hq, ← ha.reaches_iff (spaced_strictMono _), hN]
    have hpt := ha.point
    have hle : (roundTo mode neg m e (topBit m e - f.fw)).1 ≤ 2 ^ (f.fw + 1) := by omega
    rw [decide_eq_true (show topBit m e < 1 - f.bias by omega), decide_eq_true ht, Bool.true_and, Bool.true_and, Bool.not_eq_true',
      decide_eq_false_iff_not]
    omega
  · have hv : spaced (f.low - 1) (2 ^ (f.fw + 1) - 1 + 1) ≤ v := by
      have h2 : (2 : ℚ) ^ (1 - f.bias) ≤ 2 ^ topBit m e := zpow_le_zpow_right₀ (by norm_num) (by omega)
      rw [hN, h1, Spec.smallest]
      exact h2.trans hlo
    simp [show ¬ topBit m e < 1 - f.bias by omega, reaches_of_le (spaced_strictMono _) hv]

/-- The model rounds correctly what an integer stands for. -/
theorem round_rounds (hf : f.Sound) (hm : m ≠ 0) (h : Stands v m e (topBit m e - f.fw)) (z : Bool) :
    Spec.Rounds f mode (signed neg v) z (f.round mode neg m e) := by
  obtain ⟨a, ha⟩ := round_roundsIn (mode := mode) (neg := neg) hf hm h
  rw [round_eq_deliver hm]
  exact Rounds.of_roundsIn hf (h.pos hm) ha (takesTiny_iff hf hm h) z

/-- The model rounds an exact value correctly; a zero keeps its sign. -/
theorem round_exact (hf : f.Sound) (neg : Bool) (m : Nat) (e : Int) :
    Spec.Rounds f mode (signed neg (spaced e m)) neg (f.round mode neg m e) := by
  by_cases hm : m = 0
  · have h0 : signed neg (spaced e m) = 0 := by rw [signed_eq_zero, hm, spaced, Nat.cast_zero, zero_mul]
    unfold FFmt.round
    rw [h0, if_pos hm]
    exact Rounds.zero hf neg
  · exact round_rounds hf hm (.inl rfl) neg

/-- The model rounds an exact signed integer in units correctly. -/
theorem roundInt_rounds (hf : f.Sound) (z : Bool) (i e : Int) : Spec.Rounds f mode (i * 2 ^ e) z (f.roundInt mode z i e) := by
  unfold FFmt.roundInt
  by_cases hi : i = 0
  · rw [if_pos hi, hi, Int.cast_zero, zero_mul]
    exact Rounds.zero hf z
  · have hv : ((i : ℚ)) * 2 ^ e = signed (decide (i < 0)) (spaced e i.natAbs) := by
      have habs : ((i.natAbs : Nat) : ℚ) = |(i : ℚ)| := by rw [Nat.cast_natAbs, Int.cast_abs]
      unfold spaced
      rw [habs]
      by_cases hn : i < 0
      · have : (i : ℚ) < 0 := by exact_mod_cast hn
        rw [decide_eq_true hn, signed_true, abs_of_neg this]
        ring
      · have : (0 : ℚ) ≤ i := by exact_mod_cast not_lt.mp hn
        rw [decide_eq_false hn, signed_false, abs_of_nonneg this]
    rw [if_neg hi, hv]
    exact round_rounds hf (Int.natAbs_ne_zero.mpr hi) (.inl rfl) z

end

end Sys2Proof.Machine

/-! PROOFS. The float operations on numbers are exact results rounded once; on NaNs and infinities as 05 R87 says (spec 05 R83 to R87). -/

namespace Sys2Proof.Machine

/-! ### The values of patterns -/

section
variable {f g : FFmt} {mode : Rm} {x y z : Nat}

/-- The exact value of a number's pattern is the one that the spec gives it. -/
theorem val_of_finite (h : Spec.finite f x) :
    ∃ m e, f.val x = .num (Spec.negative f x) m e ∧ Spec.value f x = signed (Spec.negative f x) (spaced e m) := by
  have hx : ¬ x / 2 ^ f.fw % 2 ^ f.ew = 2 ^ f.ew - 1 := h.2
  have hs : ∀ w : ℚ, (if Spec.negative f x = true then (-1 : ℚ) else 1) * w = signed (Spec.negative f x) w := fun w => by
    cases Spec.negative f x <;> simp
  unfold FFmt.val Spec.value
  rw [hs]
  dsimp only
  rw [if_neg hx]
  by_cases h0 : x / 2 ^ f.fw % 2 ^ f.ew = 0
  · rw [if_pos h0, if_pos (by exact h0)]
    exact ⟨_, _, rfl, rfl⟩
  · rw [if_neg h0, if_neg (by exact h0)]
    refine ⟨_, _, rfl, ?_⟩
    unfold spaced Spec.fraction Spec.exponent
    push_cast
    rfl

theorem val_of_nan (h : Spec.isNan f x) : ∃ s, f.val x = .nan s ∧ (s = true ↔ Spec.signals f x) := by
  obtain ⟨he, hf⟩ := h
  refine ⟨decide (Spec.fraction f x < 2 ^ (f.fw - 1)), ?_, ?_⟩
  · unfold FFmt.val
    dsimp only
    rw [if_pos (by exact he), if_neg (by exact hf)]
    rfl
  · rw [decide_eq_true_iff]
    exact ⟨fun hs => ⟨⟨he, hf⟩, hs⟩, fun hs => hs.2⟩

/-- A pattern signals exactly if its value is a NaN that does. -/
theorem isSig_val (f : FFmt) (x : Nat) : (f.val x).isSig = true ↔ Spec.signals f x := by
  by_cases h : Spec.isNan f x
  · obtain ⟨s, hv, hs⟩ := val_of_nan h
    rw [hv, ← hs]
    rfl
  · have hn : ¬ Spec.signals f x := fun hc => h hc.1
    have : (f.val x).isSig = false := by
      unfold FFmt.val
      dsimp only
      split
      · rename_i he
        have hf : x % 2 ^ f.fw = 0 := by_contra fun hf => h ⟨he, hf⟩
        rw [if_pos hf]
        rfl
      · split <;> rfl
    simp [this, hn]

theorem sigs_iv (l : List FVal) : (sigs l).iv = l.any FVal.isSig := by
  unfold sigs
  cases l.any FVal.isSig <;> rfl

theorem Exc.or_none (e : Exc) : e.or Exc.none = e := by
  cases e
  simp [Exc.or, Exc.none]

theorem result_or_none (q : Nat × Exc) : (q.1, q.2.or Exc.none) = q := by rw [Exc.or_none]

theorem spaced_mul (e d : Int) (m n : Nat) : spaced e m * spaced d n = spaced (e + d) (m * n) := by
  unfold spaced
  rw [zpow_add₀ (by norm_num)]
  push_cast
  ring

theorem spaced_eq_zero {e : Int} {m : Nat} : spaced e m = 0 ↔ m = 0 := by
  unfold spaced
  rw [mul_eq_zero, Nat.cast_eq_zero]
  exact ⟨fun h => h.resolve_right (by positivity), .inl⟩

/-! ### Sums, products and multiply-adds -/

/-- A value in units no larger than its own. -/
theorem units_eq (s : Bool) (m : Nat) {e e0 : Int} (h : e0 ≤ e) : (((FVal.num s m e).units e0 : Int) : ℚ) * 2 ^ e0 = signed s (spaced e m) := by
  have he : (2 : ℚ) ^ e = 2 ^ (e - e0).toNat * 2 ^ e0 := by
    rw [← zpow_natCast, ← zpow_add₀ (by norm_num)]
    congr 1
    omega
  unfold FVal.units spaced
  rw [he]
  cases s <;> push_cast <;> simp [mul_assoc]

theorem zeroSum_eq {p : Prop} [Decidable p] {m n : Nat} (h : p ↔ m = 0 ∧ n = 0) (s t : Bool) :
    Spec.zeroSum mode p s t = if m = 0 ∧ n = 0 ∧ s = t then s else decide (mode = .rdn) := by
  unfold Spec.zeroSum
  simp only [h, and_assoc]

/-- The sum of two numbers, rounded once. -/
theorem sum_rounds (hf : f.Sound) (s t : Bool) (m n : Nat) (e d : Int) {p : Prop} [Decidable p] (hp : p ↔ m = 0 ∧ n = 0) :
    Spec.Rounds f mode (signed s (spaced e m) + signed t (spaced d n)) (Spec.zeroSum mode p s t)
      (f.sum mode (.num s m e) (.num t n d)) := by
  rw [zeroSum_eq hp, ← units_eq s m (min_le_left e d), ← units_eq t n (min_le_right e d), ← add_mul, ← Int.cast_add]
  exact roundInt_rounds hf _ _ _

theorem fadd_rounds (hf : f.Sound) (hx : Spec.finite f x) (hy : Spec.finite f y) :
    Spec.Rounds f mode (Spec.value f x + Spec.value f y)
      (Spec.zeroSum mode (Spec.value f x = 0 ∧ Spec.value f y = 0) (Spec.negative f x) (Spec.negative f y)) (fadd f mode x y) := by
  obtain ⟨m, e, hvx, hx⟩ := val_of_finite hx
  obtain ⟨n, d, hvy, hy⟩ := val_of_finite hy
  have h := sum_rounds (mode := mode) hf (Spec.negative f x) (Spec.negative f y) m n e d
    (p := Spec.value f x = 0 ∧ Spec.value f y = 0) (by rw [hx, hy, signed_eq_zero, signed_eq_zero, spaced_eq_zero, spaced_eq_zero])
  rw [← hx, ← hy] at h
  unfold fadd
  rw [hvx, hvy]
  exact (result_or_none _).symm ▸ h

theorem fsub_rounds (hf : f.Sound) (hx : Spec.finite f x) (hy : Spec.finite f y) :
    Spec.Rounds f mode (Spec.value f x - Spec.value f y)
      (Spec.zeroSum mode (Spec.value f x = 0 ∧ Spec.value f y = 0) (Spec.negative f x) (!Spec.negative f y)) (fsub f mode x y) := by
  obtain ⟨m, e, hvx, hx⟩ := val_of_finite hx
  obtain ⟨n, d, hvy, hy⟩ := val_of_finite hy
  have h := sum_rounds (mode := mode) hf (Spec.negative f x) (!Spec.negative f y) m n e d
    (p := Spec.value f x = 0 ∧ Spec.value f y = 0) (by rw [hx, hy, signed_eq_zero, signed_eq_zero, spaced_eq_zero, spaced_eq_zero])
  have hneg : signed (!Spec.negative f y) (spaced d n) = -Spec.value f y := by
    rw [hy]
    cases Spec.negative f y <;> simp
  rw [← hx, hneg, ← sub_eq_add_neg] at h
  unfold fsub
  rw [hvx, hvy]
  exact (result_or_none _).symm ▸ h

/-- Numbers raise nothing by what they are. -/
theorem zeroTimesInf_num (s t : Bool) (m n : Nat) (e d : Int) : zeroTimesInf (.num s m e) (.num t n d) = false := by
  simp [zeroTimesInf, FVal.isInf]

theorem fmul_rounds (hf : f.Sound) (hx : Spec.finite f x) (hy : Spec.finite f y) :
    Spec.Rounds f mode (Spec.value f x * Spec.value f y) (Spec.negative f x != Spec.negative f y) (fmul f mode x y) := by
  obtain ⟨m, e, hvx, hx⟩ := val_of_finite hx
  obtain ⟨n, d, hvy, hy⟩ := val_of_finite hy
  have h := round_exact (mode := mode) hf (Spec.negative f x != Spec.negative f y) (m * n) (e + d)
  rw [← spaced_mul, ← signed_mul, ← hx, ← hy] at h
  rw [← result_or_none (f.round ..)] at h
  unfold fmul
  rw [hvx, hvy]
  dsimp only
  rw [zeroTimesInf_num]
  exact h

/-- A number with its sign turned if `b`. -/
theorem flip_num (b s : Bool) (m : Nat) (e : Int) : (if b then (FVal.num s m e).flip else .num s m e) = .num (s != b) m e := by
  cases b <;> cases s <;> rfl

theorem signed_flip (b s : Bool) (v : ℚ) : signed (s != b) v = if b then -signed s v else signed s v := by
  cases b <;> cases s <;> simp

theorem ffma_rounds (hf : f.Sound) (hx : Spec.finite f x) (hy : Spec.finite f y) (hz : Spec.finite f z) (np na : Bool) :
    Spec.Rounds f mode
      ((if np then -(Spec.value f x * Spec.value f y) else Spec.value f x * Spec.value f y) + if na then -Spec.value f z else Spec.value f z)
      (Spec.zeroSum mode (Spec.value f x * Spec.value f y = 0 ∧ Spec.value f z = 0) ((Spec.negative f x != Spec.negative f y) != np)
        (Spec.negative f z != na)) (ffma f mode np na x y z) := by
  obtain ⟨m, e, hvx, hx⟩ := val_of_finite hx
  obtain ⟨n, d, hvy, hy⟩ := val_of_finite hy
  obtain ⟨k, c, hvz, hz⟩ := val_of_finite hz
  have hxy : Spec.value f x * Spec.value f y = signed (Spec.negative f x != Spec.negative f y) (spaced (e + d) (m * n)) := by
    rw [hx, hy, signed_mul, spaced_mul]
  have h := sum_rounds (mode := mode) hf ((Spec.negative f x != Spec.negative f y) != np) (Spec.negative f z != na) (m * n) k (e + d) c
    (p := Spec.value f x * Spec.value f y = 0 ∧ Spec.value f z = 0)
    (by rw [hxy, hz, signed_eq_zero, signed_eq_zero, spaced_eq_zero, spaced_eq_zero])
  rw [signed_flip np, signed_flip na, ← hxy, ← hz, ← flip_num np, ← flip_num na] at h
  unfold ffma
  rw [hvx, hvy, hvz]
  dsimp only
  rw [zeroTimesInf_num]
  exact (result_or_none _).symm ▸ h

/-! ### Conversions -/

theorem fcvt_rounds (hg : g.Sound) (hx : Spec.finite f x) :
    Spec.Rounds g mode (Spec.value f x) (Spec.negative f x) (fcvt f g mode x) := by
  obtain ⟨m, e, hvx, hx⟩ := val_of_finite hx
  unfold fcvt
  rw [hvx, hx]
  exact round_exact hg _ m e

theorem fofInt_rounds (hg : g.Sound) (n : Int) : Spec.Rounds g mode n false (fofInt g mode n) := by
  have h := roundInt_rounds (mode := mode) hg false n 0
  rw [zpow_zero, mul_one] at h
  exact h

/-- The reciprocal: twice the quotient of a power of two, made odd where a remainder is left, stands for it. -/
theorem stands_reciprocal {m : Nat} (hm : m ≠ 0) (e : Int) {k : Nat} (hk : k = Nat.log2 m + 64) :
    2 * (2 ^ k / m) + (if 2 ^ k % m = 0 then 0 else 1) ≠ 0 ∧
      Stands (1 / spaced e m) (2 * (2 ^ k / m) + (if 2 ^ k % m = 0 then 0 else 1)) (-(k : Int) - 1 - e)
        (topBit (2 * (2 ^ k / m) + (if 2 ^ k % m = 0 then 0 else 1)) (-(k : Int) - 1 - e) - F32.fw) := by
  have hdm := Nat.div_add_mod (2 ^ k) m
  have hr := Nat.mod_lt (2 ^ k) (Nat.pos_of_ne_zero hm)
  have hq : 2 ^ 63 ≤ 2 ^ k / m := by
    rw [Nat.le_div_iff_mul_le (Nat.pos_of_ne_zero hm), hk, pow_add, mul_comm, show (64 : Nat) = 1 + 63 from rfl, pow_add, ← mul_assoc,
      ← pow_add]
    exact Nat.mul_le_mul_right _ Nat.lt_log2_self.le
  generalize 2 ^ k / m = q at *
  have hm0 : (0 : ℚ) < m := by exact_mod_cast Nat.pos_of_ne_zero hm
  have hv : 1 / spaced e m = (2 ^ (k + 1) / m : ℚ) * 2 ^ (-(k : Int) - 1 - e) := by
    have h2 : (2 : ℚ) ^ (-(k : Int) - 1 - e) = 1 / (2 ^ (k + 1) * 2 ^ e) := by
      rw [eq_div_iff (by positivity), ← zpow_natCast, ← zpow_add₀ (by norm_num), ← zpow_add₀ (by norm_num)]
      push_cast
      rw [show -(k : Int) - 1 - e + (k + 1 + e) = 0 by ring, zpow_zero]
    unfold spaced
    rw [h2]
    field_simp
  have hd : (m : ℚ) * q + ((2 ^ k % m : Nat) : ℚ) = 2 ^ k := by exact_mod_cast hdm
  have hu : (0 : ℚ) < 2 ^ (-(k : Int) - 1 - e) := by positivity
  rw [hv]
  by_cases h0 : 2 ^ k % m = 0
  · rw [if_pos h0]
    refine ⟨by omega, .inl ?_⟩
    rw [h0, Nat.cast_zero, add_zero] at hd
    rw [pow_succ, ← hd]
    push_cast
    field_simp
    ring
  · rw [if_neg h0]
    have hrq : (0 : ℚ) < ((2 ^ k % m : Nat) : ℚ) ∧ ((2 ^ k % m : Nat) : ℚ) < m :=
      ⟨by exact_mod_cast Nat.pos_of_ne_zero h0, by exact_mod_cast hr⟩
    have hlog : 64 ≤ Nat.log2 (2 * q + 1) := (Nat.le_log2 (by omega)).mpr (by omega)
    refine ⟨by omega, .inr ⟨by omega, ?_, mul_lt_mul_of_pos_right ?_ hu, mul_lt_mul_of_pos_right ?_ hu⟩⟩
    · have hfw : F32.fw = 23 := rfl
      unfold topBit
      rw [hfw]
      omega
    · rw [lt_div_iff₀ hm0, pow_succ, ← hd]
      push_cast
      nlinarith [hrq.1]
    · rw [div_lt_iff₀ hm0, pow_succ, ← hd]
      push_cast
      nlinarith [hrq.2]

theorem frcp_rounds (hx : Spec.finite F32 x) (h0 : Spec.value F32 x ≠ 0) : Spec.Rounds F32 .rne (1 / Spec.value F32 x) false (frcp x) := by
  obtain ⟨m, e, hvx, hx⟩ := val_of_finite hx
  have hm : m ≠ 0 := fun hc => h0 (by rw [hx, signed_eq_zero, spaced_eq_zero, hc])
  obtain ⟨hne, hst⟩ := stands_reciprocal hm e rfl
  have h := round_rounds (mode := .rne) (neg := Spec.negative F32 x) (sound_of_format (.inl rfl)) hne hst false
  have hinv : 1 / signed (Spec.negative F32 x) (spaced e m) = signed (Spec.negative F32 x) (1 / spaced e m) := by
    cases Spec.negative F32 x
    · rfl
    · rw [signed_true, signed_true, one_div_neg_eq_neg_one_div]
  unfold frcp
  rw [hvx, hx, hinv]
  dsimp only
  rw [if_neg hm]
  exact h

theorem frcp_zero (hx : Spec.finite F32 x) (h0 : Spec.value F32 x = 0) :
    frcp x = (F32.infBits (Spec.negative F32 x), { Exc.none with dz := true }) := by
  obtain ⟨m, e, hvx, hx⟩ := val_of_finite hx
  have hm : m = 0 := by rw [hx, signed_eq_zero, spaced_eq_zero] at h0; exact h0
  unfold frcp
  rw [hvx]
  dsimp only
  rw [if_pos hm]

end

end Sys2Proof.Machine

/-! PROOFS. Conversions to integers, NaN operands and infinities, and the values that atomics leave (spec 05 R83 to R87, 14 R271). -/

namespace Sys2Proof.Machine

/-! ### Conversions to integers -/

theorem spaced_zero (a : Nat) : spaced 0 a = a := by simp [spaced]

/-- An integer with a sign. -/
def signedInt (s : Bool) (n : Nat) : Int := if s then -(n : Int) else n

theorem signedInt_cast (s : Bool) (n : Nat) : ((signedInt s n : Int) : ℚ) = signed s n := by cases s <;> simp [signedInt]

section
variable {mode : Rm} {s : Bool} {v : ℚ} {n a : Nat} {ix : Bool}

/-- Rounding to an integer moves by less than 1. -/
theorem RoundsIn.lt_add_one (h : RoundsIn (spaced 0) mode s v n ix a) : (n : ℚ) < v + 1 := by
  have hlo := h.lower
  rw [spaced_zero] at hlo
  rcases h.point with hn | hn
  · rw [hn]; linarith
  · have ha : spaced 0 a ≠ v := fun hc => by
      have := h.stay fun hu => movesUp_inexact (spaced_strictMono 0) hu hc
      omega
    rw [spaced_zero] at ha
    have := lt_of_le_of_ne hlo ha
    rw [hn]; push_cast; linarith

/-- A point is rounded to itself. -/
theorem RoundsIn.eq_of_point {p : Nat → ℚ} (hp : StrictMono p) (h : RoundsIn p mode s v n ix a) {b : Nat} (hb : p b = v) : n = b := by
  have h1 : a < b + 1 := hp.lt_iff_lt.mp (h.lower.trans_lt (hb ▸ hp (Nat.lt_succ_self b)))
  have h2 : b < a + 1 := hp.lt_iff_lt.mp (hb ▸ h.upper)
  have hab : a = b := by omega
  rw [← hab]
  exact h.stay fun hu => movesUp_inexact hp hu (hab ▸ hb)

/-- Rounded among the integers, a magnitude with its sign is rounded to an integer. -/
theorem integer_of_roundsIn (hv : 0 ≤ v) (h : RoundsIn (spaced 0) mode s v n ix a) : Spec.integer mode (signed s v) (signedInt s n) := by
  have hlo := h.lower
  have hup := h.upper
  have hp := spaced_strictMono 0
  have hn0 : (0 : ℚ) ≤ n := Nat.cast_nonneg n
  rw [spaced_zero] at hlo hup
  push_cast at hup
  unfold Spec.integer
  cases mode with
  | rne =>
    dsimp only
    rw [signedInt_cast, abs_signed_sub s s hv hn0, if_pos rfl]
    have hpar : n % 2 = 0 → signedInt s n % 2 = 0 := fun hc => by cases s <;> simp only [signedInt] <;> simp <;> omega
    by_cases hu : MovesUp (spaced 0) .rne s v a
    · rw [h.up hu]
      have hc : (a : ℚ) + (a + 1) ≤ 2 * v ∧ ((a : ℚ) + (a + 1) = 2 * v → a % 2 = 1) := by
        rcases hu with hu | ⟨hu, ho⟩ <;> simp only [spaced_zero] at hu <;> push_cast at hu
        · exact ⟨hu.le, fun he => absurd he hu.ne⟩
        · exact ⟨hu.ge, fun _ => ho⟩
      push_cast
      rw [abs_of_neg (by linarith)]
      refine ⟨by linarith, fun he => ?_⟩
      rw [← h.up hu]
      exact hpar (by have := hc.2 (by linarith); have := h.up hu; omega)
    · have hc : ¬ ((a : ℚ) + (a + 1) < 2 * v ∨ (2 * v = a + (a + 1) ∧ a % 2 = 1)) := fun hc => hu (by
        simp only [MovesUp, spaced_zero]; push_cast; exact hc)
      rw [h.stay hu, abs_of_nonneg (by linarith)]
      refine ⟨by linarith [not_lt.mp (not_or.mp hc).1], fun he => ?_⟩
      rw [← h.stay hu]
      refine hpar ?_
      have := (not_and.mp (not_or.mp hc).2) (by linarith)
      rw [h.stay hu]
      omega
  | rtz =>
    have hn : n = a := h.stay fun hc => hc
    dsimp only
    rw [signedInt_cast, abs_signed s hn0, abs_signed s hv, abs_signed_sub s s hv hn0, if_pos rfl, hn, abs_of_nonneg (by linarith), signed_mul]
    exact ⟨hlo, by linarith, by cases s <;> simp <;> positivity⟩
  | rdn =>
    dsimp only
    rw [signedInt_cast]
    cases s with
    | true =>
      obtain ⟨hle, -⟩ := h.above hp (by simp [MovesUp])
      rw [spaced_zero] at hle
      have hlt := h.lt_add_one
      simp only [signed_true]
      exact ⟨neg_le_neg hle, by linarith⟩
    | false =>
      have hn : n = a := h.stay (by simp [MovesUp])
      rw [hn]
      exact ⟨hlo, hup⟩
  | rup =>
    dsimp only
    rw [signedInt_cast]
    cases s with
    | true =>
      have hn : n = a := h.stay (by simp [MovesUp])
      rw [hn]
      simp only [signed_true]
      exact ⟨by linarith, neg_le_neg hlo⟩
    | false =>
      obtain ⟨hle, -⟩ := h.above hp (by simp [MovesUp])
      rw [spaced_zero] at hle
      have hlt := h.lt_add_one
      simp only [signed_false]
      exact ⟨by linarith, hle⟩

/-- The lowest and the highest value of I32. -/
def lowI32 : Int := -(2 ^ 31)
def highI32 : Int := 2 ^ 31 - 1

/-- An integer rounded from a value, saturated to I32, with its exceptions (05 R85). -/
def saturated (n : Int) (ix : Bool) : Int × Exc :=
  if n < lowI32 then (lowI32, { Exc.invalid with ix := true })
  else if highI32 < n then (highI32, { Exc.invalid with ix := true })
  else (n, { Exc.none with ix := ix })

theorem toInteger_saturated {r : Rm} {w : ℚ} {n : Int} {ix : Bool} (hi : Spec.integer r w n) (hx : ix = true ↔ (n : ℚ) ≠ w)
    (hw : ∀ k : Int, (k : ℚ) = w → n = k) : Spec.ToInteger r w (saturated n ix) := by
  refine ⟨n, hi, ?_⟩
  have hne : ∀ k : Int, k ≠ n → (k : ℚ) ≠ w := fun k hk hc => hk (hw k hc).symm
  have hsat : Spec.sat n (-(2 ^ 31)) (2 ^ 31 - 1) = if n < lowI32 then lowI32 else if highI32 < n then highI32 else n := rfl
  rw [hsat]
  unfold saturated
  by_cases h1 : n < lowI32
  · rw [if_pos h1, if_pos h1]
    exact ⟨rfl, by simp [Exc.invalid, h1.ne'], by simp [hne _ h1.ne'], rfl, rfl, rfl⟩
  · rw [if_neg h1, if_neg h1]
    by_cases h2 : highI32 < n
    · rw [if_pos h2, if_pos h2]
      exact ⟨rfl, by simp [Exc.invalid, h2.ne], by simp [hne _ h2.ne], rfl, rfl, rfl⟩
    · rw [if_neg h2, if_neg h2]
      exact ⟨rfl, by simp [Exc.none], hx, rfl, rfl, rfl⟩

end

section
variable {f g : FFmt} {mode : Rm} {x y z : Nat}

theorem ftoInt_num {s : Bool} {m : Nat} {e : Int} (h : f.val x = .num s m e) :
    ftoInt f mode x = saturated (signedInt s (roundTo mode s m e 0).1) (roundTo mode s m e 0).2 := by
  unfold ftoInt
  rw [h]
  rfl

theorem ftoInt_toInteger (hx : Spec.finite f x) : Spec.ToInteger mode (Spec.value f x) (ftoInt f mode x) := by
  obtain ⟨m, e, hvx, hx⟩ := val_of_finite hx
  have hm : 0 ≤ spaced e m := by unfold spaced; positivity
  obtain ⟨a, ha⟩ := roundTo_roundsIn (mode := mode) (neg := Spec.negative f x) (m := m) (e := e) (q := 0) (.inl rfl : Stands (spaced e m) m e 0)
  rw [ftoInt_num hvx, hx]
  refine toInteger_saturated (integer_of_roundsIn hm ha) ?_ fun k hk => ?_
  · rw [ha.inexact_iff (spaced_strictMono 0), spaced_zero, signedInt_cast, ne_eq, ne_eq, signed_inj]
  · have hb : spaced 0 k.natAbs = spaced e m := by
      have habs : ((k.natAbs : Nat) : ℚ) = |(k : ℚ)| := by rw [Nat.cast_natAbs, Int.cast_abs]
      rw [spaced_zero, habs, hk, abs_signed _ hm]
    have hn := ha.eq_of_point (spaced_strictMono 0) hb
    have hks : (k : ℚ) = signedInt (Spec.negative f x) k.natAbs := by
      rw [hk, signedInt_cast, ← hb, spaced_zero]
    rw [hn]
    exact_mod_cast hks.symm

/-! ### NaN operands and infinities -/

theorem sum_nan_left (f : FFmt) (mode : Rm) (s : Bool) (w : FVal) : f.sum mode (.nan s) w = (f.nan, Exc.none) := by
  cases w <;> rfl

theorem sum_nan_right (f : FFmt) (mode : Rm) (w : FVal) (s : Bool) : f.sum mode w (.nan s) = (f.nan, Exc.none) := by
  cases w <;> rfl

theorem times_nan_left (s : Bool) (w : FVal) : (FVal.nan s).times w = .nan s := by cases w <;> rfl

theorem times_nan_right (w : FVal) (s : Bool) : ∃ t, w.times (.nan s) = .nan t := by cases w <;> exact ⟨_, rfl⟩

theorem flip_nan (b s : Bool) : (if b then (FVal.nan s).flip else .nan s) = .nan s := by cases b <;> rfl

/-- A sum, a product or a multiply-add of a NaN is the canonical NaN, with IV for an operand that signals. -/
theorem fadd_nan (h : Spec.isNan f x ∨ Spec.isNan f y) :
    fadd f mode x y = (f.nan, sigs [f.val x, f.val y]) ∧ fsub f mode x y = (f.nan, sigs [f.val x, f.val y]) := by
  unfold fadd fsub
  rcases h with h | h
  · obtain ⟨s, hs, -⟩ := val_of_nan h
    rw [hs, sum_nan_left, sum_nan_left]
    exact ⟨rfl, rfl⟩
  · obtain ⟨s, hs, -⟩ := val_of_nan h
    have hf : (FVal.nan s).flip = .nan s := rfl
    rw [hs, hf, sum_nan_right]
    exact ⟨rfl, rfl⟩

theorem fmul_nan (h : Spec.isNan f x ∨ Spec.isNan f y) : fmul f mode x y = (f.nan, sigs [f.val x, f.val y]) := by
  unfold fmul
  rcases h with h | h
  · obtain ⟨s, hs, -⟩ := val_of_nan h
    have hz : zeroTimesInf (.nan s) (f.val y) = false := by simp [zeroTimesInf, FVal.isZero, FVal.isInf]
    rw [hs]
    dsimp only
    rw [times_nan_left, hz]
    exact congrArg (Prod.mk f.nan) (Exc.or_none _)
  · obtain ⟨s, hs, -⟩ := val_of_nan h
    obtain ⟨t, ht⟩ := times_nan_right (f.val x) s
    have hz : zeroTimesInf (f.val x) (.nan s) = false := by simp [zeroTimesInf, FVal.isZero, FVal.isInf]
    rw [hs]
    dsimp only
    rw [ht, hz]
    exact congrArg (Prod.mk f.nan) (Exc.or_none _)

theorem ffma_nan (np na : Bool) (h : (Spec.isNan f x ∨ Spec.isNan f y) ∨ Spec.isNan f z) : (ffma f mode np na x y z).1 = f.nan := by
  unfold ffma
  dsimp only
  rcases h with h | h
  · have hp : ∃ s, (f.val x).times (f.val y) = .nan s := by
      rcases h with h | h
      · obtain ⟨s, hs, -⟩ := val_of_nan h
        exact ⟨s, by rw [hs, times_nan_left]⟩
      · obtain ⟨s, hs, -⟩ := val_of_nan h
        rw [hs]
        exact times_nan_right _ s
    obtain ⟨s, hs⟩ := hp
    rw [hs, flip_nan, sum_nan_left]
  · obtain ⟨s, hs, -⟩ := val_of_nan h
    rw [hs, flip_nan, sum_nan_right]

theorem sigs_pair : (sigs [f.val x, f.val y]).iv = true ↔ Spec.signals f x ∨ Spec.signals f y := by
  rw [sigs_iv]
  simp [isSig_val]

theorem fcvt_nan (h : Spec.isNan f x) :
    (fcvt f g mode x).1 = g.nan ∧ ((fcvt f g mode x).2.iv = true ↔ Spec.signals f x) ∧ ftoInt f mode x = (0, Exc.invalid) := by
  obtain ⟨s, hs, hsig⟩ := val_of_nan h
  unfold fcvt ftoInt
  rw [hs]
  refine ⟨rfl, ?_, rfl⟩
  rw [← hsig]
  cases s with
  | false => exact ⟨fun h => h, fun h => h⟩
  | true => exact ⟨fun _ => rfl, fun _ => rfl⟩

/-- The patterns of infinities and zeros. -/
theorem val_infBits (hf : Spec.format f) (s : Bool) : f.val (f.infBits s) = .inf s := by
  rcases hf with rfl | rfl | rfl <;> cases s <;> decide

theorem val_sign (hf : Spec.format f) (s : Bool) : ∃ e, f.val (f.sign s) = .num s 0 e := by
  rcases hf with rfl | rfl | rfl <;> cases s <;> exact ⟨_, rfl⟩

theorem fadd_inf (hf : Spec.format f) (s t : Bool) :
    fadd f mode (f.infBits s) (f.infBits t) = if s = t then (f.infBits s, Exc.none) else (f.nan, Exc.invalid) := by
  unfold fadd
  rw [val_infBits hf, val_infBits hf]
  cases s <;> cases t <;> rfl

theorem fmul_zero_inf (hf : Spec.format f) (s t : Bool) :
    fmul f mode (f.infBits s) (f.sign t) = (f.nan, Exc.invalid) ∧ fmul f mode (f.sign t) (f.infBits s) = (f.nan, Exc.invalid) := by
  obtain ⟨e, he⟩ := val_sign hf t
  unfold fmul
  rw [val_infBits hf, he]
  exact ⟨rfl, rfl⟩

end

/-! ### The values that atomics leave -/

theorem sextNat_toInt {w : Nat} (hw : 0 < w) (x : BitVec w) : sextNat x.toNat w = x.toInt := by
  have hx := x.isLt
  have h2 : 2 ^ w = 2 * 2 ^ (w - 1) := by rw [← pow_succ', Nat.sub_add_cancel hw]
  unfold sextNat
  rw [Nat.mod_eq_of_lt hx, BitVec.toInt_eq_toNat_cond]
  by_cases h : x.toNat < 2 ^ (w - 1)
  · rw [if_pos h, if_pos (by omega)]
  · rw [if_neg h, if_neg (by omega)]
    norm_cast

theorem atomic_apply (o : AtomOp) {w : Nat} (hw : 0 < w) (old y cmp : BitVec w) : AtomOp.apply o w old.toNat y.toNat cmp.toNat =
    if o = .fadd then (fadd F32 .rne old.toNat y.toNat).1 else (Spec.atom o w old y cmp).toNat := by
  cases o with
  | add => simp [AtomOp.apply, Spec.atom, BitVec.toNat_add]
  | min =>
    simp only [AtomOp.apply, Spec.atom, sextNat_toInt hw, reduceCtorEq, if_false]
    split <;> rfl
  | max =>
    simp only [AtomOp.apply, Spec.atom, sextNat_toInt hw, reduceCtorEq, if_false]
    split <;> rfl
  | and => simp [AtomOp.apply, Spec.atom]
  | or => simp [AtomOp.apply, Spec.atom]
  | xor => simp [AtomOp.apply, Spec.atom]
  | exch => rfl
  | cas =>
    simp only [AtomOp.apply, Spec.atom, reduceCtorEq, if_false, ← BitVec.toNat_inj]
    split <;> rfl
  | fadd => rfl

/-! ### The statement -/

/-- Settles O27: each operation works on exact values, and the rounding of the model is among the neighbours that the mode names. -/
theorem atomicValues : Obligations.AtomicValues := by
  unfold Obligations.AtomicValues
  refine ⟨fun o w old y cmp hw => atomic_apply o (by omega) old y cmp, fun f r x y z hf hx hy hz => ?_, fun x hx => ?_,
    fun f g r x n hf hg hx => ?_, fun f g r x y z np na hf hg => ⟨fun h => ⟨fun q hq => ?_, ffma_nan np na (.inl h)⟩,
      fun h => ffma_nan np na (.inr h), fcvt_nan, fadd_inf hf, fmul_zero_inf hf⟩, by decide, by decide, by decide⟩
  · have hs := sound_of_format hf
    exact ⟨fadd_rounds hs hx hy, fsub_rounds hs hx hy, fmul_rounds hs hx hy, ffma_rounds hs hx hy hz⟩
  · exact ⟨frcp_rounds hx, frcp_zero hx⟩
  · exact ⟨fcvt_rounds (sound_of_format hg) hx, fofInt_rounds (sound_of_format hg) n, ftoInt_toInteger hx⟩
  · have hq' : q = (f.nan, sigs [f.val x, f.val y]) := by
      rcases hq with rfl | rfl | rfl
      · exact (fadd_nan h).1
      · exact (fadd_nan h).2
      · exact fmul_nan h
    rw [hq']
    exact ⟨rfl, sigs_pair⟩

end Sys2Proof.Machine

/-! PROOFS. What the memories and the caches do keeps home memory canonical (01 R31, R32). A lemma here names the operations through which
its function goes; the cases of the function are split by `grind`. -/

namespace Sys2Proof.Machine

/-! ### Canonical memory -/

/-- Home memory in its canonical form: rising addresses, and no byte listed that is 0. -/
def Mach.Canon (m : Mach) : Prop := Mem.wf m.home = true

/-- A machine with the same home memory is canonical with it. -/
theorem Mach.Canon.of_home {m m' : Mach} (h : m.Canon) (he : m'.home = m.home) : m'.Canon := by
  unfold Mach.Canon
  rw [he]
  exact h

section
variable {m : Mach}

theorem foldl_canon {α : Type} {f : Mach → α → Mach} (hf : ∀ m a, m.Canon → (f m a).Canon) (l : List α) (h : m.Canon) :
    (l.foldl f m).Canon := by
  induction l generalizing m with
  | nil => exact h
  | cons a l ih => exact ih (hf m a h)

/-- Steps that may stop, each from what the one before leaves. -/
theorem foldl_bind_canon {α β : Type} {p : β → Mach} {f : β → α → Option β} (hf : ∀ b a, (p b).Canon → ∀ c, f b a = some c → (p c).Canon)
    (l : List α) {o : Option β} (h : ∀ b, o = some b → (p b).Canon) : ∀ b, l.foldl (fun o a => o.bind fun b => f b a) o = some b → (p b).Canon := by
  induction l generalizing o with
  | nil => exact h
  | cons a l ih =>
    refine ih fun c hc => ?_
    obtain ⟨b, hb, hc⟩ := Option.bind_eq_some_iff.mp hc
    exact hf b a (h b hb) c hc

/-- What keeps the home memory as it is. -/
@[simp] theorem modDie_canon (d : Nat) (f : Die → Die) : (m.modDie d f).Canon ↔ m.Canon := Iff.rfl
@[simp] theorem modCore_canon (d c : Nat) (f : Core → Core) : (m.modCore d c f).Canon ↔ m.Canon := Iff.rfl
@[simp] theorem modTeam_canon (t : Nat) (f : Team → Team) : (m.modTeam t f).Canon ↔ m.Canon := Iff.rfl
@[simp] theorem modWarp_canon (t w : Nat) (f : Warp → Warp) : (m.modWarp t w f).Canon ↔ m.Canon := Iff.rfl
@[simp] theorem modCtx_canon (c : Nat) (f : Context → Context) : (m.modCtx c f).Canon ↔ m.Canon := Iff.rfl
@[simp] theorem modPart_canon (p : Nat) (f : Partition → Partition) : (m.modPart p f).Canon ↔ m.Canon := Iff.rfl
@[simp] theorem modJob_canon (p i : Nat) (f : Job → Job) : (m.modJob p i f).Canon ↔ m.Canon := Iff.rfl
@[simp] theorem mergeTag_canon (s : Nat) (v : List Nat) : (m.mergeTag s v).Canon ↔ m.Canon := Iff.rfl
@[simp] theorem setTag_canon (s d e : Nat) : (m.setTag s d e).Canon ↔ m.Canon := Iff.rfl
@[simp] theorem llcTouch_canon (k : Nat) (b : Bool) : (m.llcTouch k b).Canon ↔ m.Canon := Iff.rfl
@[simp] theorem applyAll_canon (d : Nat) : (m.applyAll d).Canon ↔ m.Canon := Iff.rfl
@[simp] theorem dropOwn_canon (d c k : Nat) : (m.dropOwn d c k).Canon ↔ m.Canon := Iff.rfl
@[simp] theorem giveUp_canon (d : Nat) (ks : List Nat) : (m.giveUp d ks).Canon ↔ m.Canon := Iff.rfl
@[simp] theorem giveUpLines_canon (d c : Nat) (ls : List Nat) : (m.giveUpLines d c ls).Canon ↔ m.Canon := Iff.rfl

/-! ### Writes at the home, epochs and releases -/

theorem homeWrite_canon (k n v : Nat) (h : m.Canon) : (m.homeWrite k n v).Canon := m.homeWrite_wf k n v h

theorem applyRec_canon (n d a e : Nat) (h : m.Canon) : (Mach.applyRec n m d a e).Canon := by
  induction n generalizing m a e with
  | zero => exact h
  | succ n ih =>
    unfold Mach.applyRec
    split
    · exact h
    · dsimp only
      split
      · exact h
      · refine ih _ _ (foldl_canon (fun m c hm => ?_) _ h)
        split
        · exact ih _ _ hm
        · exact hm

theorem apply_canon (d a e : Nat) (h : m.Canon) : (m.apply d a e).Canon := applyRec_canon _ _ _ _ h

theorem applyLatest_canon (d : Nat) (h : m.Canon) : (m.applyLatest d).Canon := foldl_canon (fun _ _ hm => apply_canon _ _ _ hm) _ h

theorem applySeen_canon (d : Nat) (v : List Nat) (h : m.Canon) : (m.applySeen d v).Canon :=
  foldl_canon (fun _ _ hm => apply_canon _ _ _ hm) _ h

theorem finishSwitch_canon (new : Tab 16 Word) (h : m.Canon) : (m.finishSwitch new).Canon :=
  foldl_canon (m := { m with llcLines := _, llcDirty := _ }) (fun _ _ hm => applyLatest_canon _ hm) _ h

theorem endSwitch_canon (h : m.Canon) : m.endSwitch.Canon := by grind [Mach.endSwitch, finishSwitch_canon]

theorem awaitSwitch_canon (ls : List Nat) (h : m.Canon) : (m.awaitSwitch ls).Canon := by grind [Mach.awaitSwitch, finishSwitch_canon]

theorem drainSector_canon (d e s : Nat) (h : m.Canon) : (m.drainSector d e s).Canon := by
  unfold Mach.drainSector
  split
  · exact h
  · dsimp only
    split
    · exact h
    · split
      · exact homeWrite_canon _ _ _ h
      · exact foldl_canon (fun _ _ hm => homeWrite_canon _ _ _ hm) _ h

theorem closeEpoch_canon (d : Nat) (h : m.Canon) : (m.closeEpoch d).Canon := by
  have hw := awaitSwitch_canon (((m.dies[d]?).map fun x => (x.sectors ++ x.lost).map (· / 4)).getD []) h
  unfold Mach.closeEpoch
  dsimp only
  split
  · exact hw
  · split
    · exact hw
    · exact (modDie_canon ..).mpr (foldl_canon (fun _ _ hm => by exact hm) _ (foldl_canon (fun _ _ hm => drainSector_canon _ _ _ hm) _ hw))

theorem flushBytes_canon (d : Nat) (ks : List Nat) (h : m.Canon) : (m.flushBytes d ks).Canon := by
  unfold Mach.flushBytes
  split
  · exact h
  · refine foldl_canon (fun m k hm => ?_) _ h
    split
    · exact hm
    · exact homeWrite_canon _ _ _ hm

theorem flushHost_canon (d : Nat) (h : m.Canon) : (m.flushHost d).Canon := flushBytes_canon _ _ h

theorem replaceLine_canon (d l : Nat) (h : m.Canon) : (m.replaceLine d l).Canon := by
  grind [Mach.replaceLine, flushBytes_canon, modDie_canon]

theorem release_canon (d : Nat) (sc : Scope) (h : m.Canon) : (m.release d sc).Canon := by
  cases sc with
  | pkg => exact closeEpoch_canon _ h
  | sys => exact flushHost_canon _ (closeEpoch_canon _ h)
  | _ => exact h

/-! ### Lines, loads and stores -/

theorem readTag_canon (d s : Nat) (h : m.Canon) {m' : Mach} (he : m.readTag d s = some m') : m'.Canon := by
  grind [Mach.readTag, applySeen_canon]

theorem fetchLine_canon (d l : Nat) (h : m.Canon) {m' : Mach} (he : m.fetchLine d l = some m') : m'.Canon := by
  have ht : ∀ m', (sectorsOf l).foldl (fun o s => o.bind fun m => m.readTag d s) (some m) = some m' → m'.Canon :=
    foldl_bind_canon (p := id) (fun m s hm _ he => readTag_canon d s hm he) _ fun m' he => Option.some_inj.mp he ▸ h
  unfold Mach.fetchLine at he
  split at he
  · cases he
  · split at he
    · cases he
      exact h
    · split at he
      · cases he
      · obtain ⟨m1, h1, rfl⟩ := Option.map_eq_some_iff.mp he
        exact foldl_canon (fun _ _ hm => replaceLine_canon _ _ hm) _ (ht m1 h1)

theorem dieRead_canon (d k n : Nat) (h : m.Canon) {r : Nat × Mach} (he : m.dieRead d k n = some r) : r.2.Canon := by
  grind [Mach.dieRead, → fetchLine_canon, Option.bind_eq_some_iff]

theorem coreLoad_canon (d c k n : Nat) (h : m.Canon) {r : Nat × Mach} (he : m.coreLoad d c k n = some r) : r.2.Canon := by
  grind [Mach.coreLoad, → fetchLine_canon, → dieRead_canon, modCore_canon]

theorem closeIfFull_canon (d : Nat) (h : m.Canon) : (m.closeIfFull d).Canon := by grind [Mach.closeIfFull, closeEpoch_canon]

theorem allocate_canon (d l : Nat) (h : m.Canon) : (m.allocate d l).Canon := by
  unfold Mach.allocate
  cases hf : m.fetchLine d l with
  | none => exact h
  | some m1 => exact fetchLine_canon d l h hf

@[simp] theorem dieWrite_canon (d : Nat) (c : Option Nat) (k n v : Nat) : (m.dieWrite d c k n v).Canon ↔ m.Canon := by
  cases c <;> exact Iff.rfl

/-- A write past the tables that firmware reads alone. -/
theorem pastReadOnly_canon {w : Mach → Nat → Nat → Nat → Mach} (hw : ∀ m k n v, m.Canon → (w m k n v).Canon) (k n v : Nat) (h : m.Canon) :
    (m.pastReadOnly k n v w).Canon := by
  unfold Mach.pastReadOnly
  dsimp only
  split
  · refine foldl_canon (fun m i hm => ?_) _ h
    split
    · exact hm
    · exact hw _ _ _ _ hm
  · exact hw _ _ _ _ h

theorem dieStore_canon (d : Nat) (c : Option Nat) (k n v : Nat) (h : m.Canon) : (m.dieStore d c k n v).Canon := by
  refine pastReadOnly_canon (fun m k n v hm => ?_) k n v h
  split
  · exact homeWrite_canon _ _ _ hm
  · exact closeIfFull_canon _ ((dieWrite_canon ..).mpr (allocate_canon _ _ hm))

theorem markStale_canon (d l : Nat) (h : m.Canon) : (m.markStale d l).Canon := by
  refine foldl_canon (fun m e hm => ?_) _ h
  split
  · exact hm
  · exact hm

theorem homeStore_canon (d c k n v : Nat) (h : m.Canon) : (m.homeStore d c k n v).Canon := by
  refine pastReadOnly_canon (fun m k n v hm => ?_) k n v h
  have hs := markStale_canon d (lineOf k) ((dropOwn_canon d c k).mpr ((modDie_canon d (Die.undirty · k n)).mpr (homeWrite_canon k n v hm)))
  dsimp only
  split
  · exact hs
  · exact hs

theorem earlyDrain_canon (d : Nat) (ss : List Nat) (h : m.Canon) : (m.earlyDrain d ss).Canon := by
  unfold Mach.earlyDrain
  split
  · exact h
  · exact foldl_canon (fun _ _ hm => by exact hm) _ (foldl_canon (fun _ _ hm => drainSector_canon _ _ _ hm) _ h)

theorem homeLoad_canon (d k n : Nat) (h : m.Canon) {r : Nat × Mach} (he : m.homeLoad d k n = some r) : r.2.Canon := by
  grind [Mach.homeLoad, → readTag_canon, Option.map_eq_some_iff]

theorem ldaRead_canon (d k n : Nat) (sc : Scope) (h : m.Canon) {r : Nat × Mach} (he : m.ldaRead d k n sc = some r) : r.2.Canon := by
  cases sc <;> grind [Mach.ldaRead, Mach.ldaRead.wide, → homeLoad_canon, → dieRead_canon, Option.map_eq_some_iff]

theorem outsideWrite_canon (k n v : Nat) (h : m.Canon) : (m.outsideWrite k n v).Canon :=
  pastReadOnly_canon (w := Mach.pastCaches) (fun m k n v hm => homeWrite_canon (m := { m with dies := _ }) k n v hm) k n v h

theorem publishLine_canon {f : Mach → Nat → Mach} (hf : ∀ m a, m.Canon → (f m a).Canon) (k : Nat) (h : m.Canon) :
    (m.publishLine f k).Canon := by
  refine foldl_canon (fun m s hm => foldl_canon (fun m a hm => ?_) _ hm) _ h
  split
  · exact hf _ _ hm
  · exact hm

theorem unblock_canon (k : Nat) (h : m.Canon) : (m.unblock k).Canon :=
  publishLine_canon (fun _ _ hm => closeEpoch_canon _ hm) k (awaitSwitch_canon _ h)

theorem dieReadSure_canon (d k n : Nat) (h : m.Canon) {r : Nat × Mach} (he : m.dieReadSure d k n = some r) : r.2.Canon := by
  grind [Mach.dieReadSure, → dieRead_canon, unblock_canon]

/-! ### Atomics -/

theorem homeAtomic_canon (d c k n : Nat) (f : Nat → Nat) (h : m.Canon) {r : Nat × Mach} (he : m.homeAtomic d c k n f = some r) : r.2.Canon := by
  grind [Mach.homeAtomic, earlyDrain_canon, replaceLine_canon, → homeLoad_canon, homeStore_canon, Option.map_eq_some_iff]

theorem agentAtomic_canon (d k n : Nat) (f : Nat → Nat) (h : m.Canon) : (m.agentAtomic d k n f).2.Canon := by
  unfold Mach.agentAtomic
  split
  · next he => exact homeAtomic_canon _ _ _ _ _ h he
  · cases he : (m.unblock k).homeAtomic d Config.coresPerDie k n f with
    | none => exact h
    | some r => exact homeAtomic_canon _ _ _ _ _ (unblock_canon _ h) he

theorem dieAtomic_canon (d c k n : Nat) (f : Nat → Nat) (h : m.Canon) {r : Nat × Mach} (he : m.dieAtomic d c k n f = some r) : r.2.Canon := by
  grind [Mach.dieAtomic, → dieRead_canon, dieStore_canon, modCore_canon, Option.map_eq_some_iff]

/-! ### Firmware's accesses, residency and quotas -/

theorem fwWrite_canon (ctx va n v : Nat) (h : m.Canon) : (m.fwWrite ctx va n v).Canon := by
  grind [Mach.fwWrite, homeWrite_canon]

theorem fwStoreAt_canon (d ctx va n v : Nat) (h : m.Canon) : (m.fwStoreAt d ctx va n v).Canon := by
  refine foldl_canon (fun m p hm => ?_) _ h
  grind [dieStore_canon]

theorem fwStore_canon (ctx va n v : Nat) (h : m.Canon) : (m.fwStore ctx va n v).Canon := fwStoreAt_canon _ _ _ _ _ h

theorem fwLoad_canon (ctx va n : Nat) (h : m.Canon) {r : Nat × Mach} (he : m.fwLoad ctx va n = some r) : r.2.Canon := by
  refine foldl_bind_canon (p := Prod.snd) (fun r p hr c hc => ?_) _ (fun r he => Option.some_inj.mp he ▸ h) r he
  obtain ⟨k, -, hc⟩ := Option.bind_eq_some_iff.mp hc
  cases k with
  | none => exact Option.some_inj.mp hc ▸ hr
  | some k =>
    obtain ⟨q, hq, rfl⟩ := Option.map_eq_some_iff.mp hc
    exact (dieReadSure_canon _ _ _ hr hq : q.2.Canon)

theorem announce_canon (ctx : Nat) (sc : Scope) (h : m.Canon) : (m.announce ctx sc).Canon := release_canon _ _ h

theorem addCounterAt_canon (d ctx va inc : Nat) (h : m.Canon) : (m.addCounterAt d ctx va inc).Canon := by
  grind [Mach.addCounterAt, release_canon, agentAtomic_canon]

theorem addCounter_canon (ctx va inc : Nat) (h : m.Canon) : (m.addCounter ctx va inc).Canon := addCounterAt_canon _ _ _ _ h

theorem setResidency_canon (ctx : Nat) (r : RangeDesc) (g st : Nat) (h : m.Canon) : (m.setResidency ctx r g st).Canon :=
  fwWrite_canon _ _ _ _ h

theorem setUsed_canon (ctx a u : Nat) (h : m.Canon) : (m.setUsed ctx a u).Canon := by
  grind [Mach.setUsed, fwWrite_canon]

theorem charge_canon (ctx a n : Nat) (h : m.Canon) {m' : Mach} (he : m.charge ctx a n = some m') : m'.Canon := by
  grind [Mach.charge, setUsed_canon]

theorem credit_canon (ctx a n : Nat) (h : m.Canon) : (m.credit ctx a n).Canon := setUsed_canon _ _ _ h

theorem lateCheck_canon (ctx : Nat) (r : RangeDesc) (va : Nat) (replay : Bool) (h : m.Canon) : (m.lateCheck ctx r va replay).2.Canon := by
  grind [Mach.lateCheck, → charge_canon, setResidency_canon]

theorem translate_canon (d c ctx va n : Nat) (a : Access) (super : Bool) (h : m.Canon) : (m.translate d c ctx va n a super).2.Canon :=
  h.of_home (home_of_uncached (translate_uncached ..))

theorem generateAll_canon (g : Issue) (kind : Access) (size : Nat) (sup : Nat → Bool) (as : List Ask) (h : m.Canon) :
    (m.generateAll g kind size sup as).2.Canon :=
  h.of_home (home_of_uncached (generateAll_uncached ..))

/-! ### The fetch of an instruction -/

theorem instrLine_canon (d c : Nat) (loop : List (Nat × Nat)) (k : Nat) (h : m.Canon) {r : Nat × Mach} (he : m.instrLine d c loop k = some r) : r.2.Canon := by
  grind [Mach.instrLine, → fetchLine_canon, modCore_canon, Option.bind_eq_some_iff]

theorem fetchHalf_canon (d c : Nat) (loop : List (Nat × Nat)) (ctx va : Nat) (super replay : Bool) (h : m.Canon) :
    (m.fetchHalf d c loop ctx va super replay).2.Canon := by
  grind [Mach.fetchHalf, translate_canon, → instrLine_canon, → charge_canon, setResidency_canon]

theorem fetchHalves_canon (d c : Nat) (loop : List (Nat × Nat)) (ctx va : Nat) (super replay : Bool) (n : Nat) (h : m.Canon) :
    (m.fetchHalves d c loop ctx va super replay n).2.Canon := by
  induction n generalizing m va with
  | zero => exact h
  | succ n ih => grind [Mach.fetchHalves, fetchHalf_canon]

theorem fetchWhole_canon (d c : Nat) (loop : List (Nat × Nat)) (ctx va : Nat) (super replay : Bool) (h : m.Canon) :
    (m.fetchWhole d c loop ctx va super replay).2.Canon := by
  grind [Mach.fetchWhole, fetchHalf_canon, fetchHalves_canon]

theorem fetchInstr_canon (d c : Nat) (q : Fin 4) (ctx va : Nat) (super replay : Bool) (h : m.Canon) :
    (m.fetchInstr d c q ctx va super replay).2.Canon := by
  grind [Mach.fetchInstr, fetchWhole_canon, giveUpLines_canon]

theorem fetch_canon (d c : Nat) (q : Fin 4) (ctx va : Nat) (super replay : Bool) (h : m.Canon) :
    (m.fetch d c q ctx va super replay).2.Canon := by
  grind [Mach.fetch, fetchInstr_canon, modCore_canon]

end

end Sys2Proof.Machine

/-! PROOFS. Stops, traps and pipes keep home memory canonical (01 R31, R32). -/

namespace Sys2Proof.Machine

section
variable {m : Mach}

@[simp] theorem setWarp_canon (g : Issue) (x : Warp) : (m.setWarp g x).Canon ↔ m.Canon := Iff.rfl
@[simp] theorem retire_canon (g : Issue) (i : Instr) (x : Warp) : (m.retire g i x).Canon ↔ m.Canon := Iff.rfl
@[simp] theorem retireTo_canon (g : Issue) (i : Instr) (x : Warp) (pc : Nat) : (m.retireTo g i x pc).Canon ↔ m.Canon := Iff.rfl
@[simp] theorem lowerIfe_canon (t w : Nat) : (m.lowerIfe t w).Canon ↔ m.Canon := Iff.rfl
@[simp] theorem setPipe_canon (p : Pipe) : (m.setPipe p).Canon ↔ m.Canon := Iff.rfl

/-! ### Stops of contexts -/

theorem writeStops_canon (d ctx base : Nat) (rs : List TrapRec) (i : Nat) (h : m.Canon) : (m.writeStops d ctx base rs i).Canon := by
  induction rs generalizing m i with
  | nil => exact h
  | cons r rs ih => exact ih _ (fwStoreAt_canon _ _ _ _ _ h)

theorem stopArea_canon (d ctx va : Nat) (own : Bool) (rs : List TrapRec) (h : m.Canon) : (m.stopArea d ctx va own rs).Canon :=
  fwStoreAt_canon _ _ _ _ _ (writeStops_canon _ _ _ _ _ h)

theorem stopAreas_canon (p ctx va : Nat) (cut : List Nat) (own : Bool) (rs : List TrapRec) (h : m.Canon) :
    (m.stopAreas p ctx va cut own rs).Canon := by
  have h1 : ∀ l : List Nat, (l.foldl (fun m d => m.stopArea d ctx va false (rs.filter fun r => r.die = d)) m).Canon := fun l =>
    foldl_canon (fun _ _ hm => stopArea_canon _ _ _ _ _ hm) l h
  unfold Mach.stopAreas
  dsimp only
  split
  · exact (modCtx_canon ..).mpr (h1 _)
  · exact stopArea_canon _ _ _ _ _ ((modCtx_canon ..).mpr (h1 _))

theorem stopBy_canon (id cause : Nat) (own : Option TrapRec) (who : Option Served) (cut : List Nat) (halt : Halt) (h : m.Canon) :
    (m.stopBy id cause own who cut halt).Canon := by
  unfold Mach.stopBy
  split
  · exact h
  · split
    · exact h
    · refine stopAreas_canon _ _ _ _ _ _ ?_
      split
      · exact h
      · exact h

theorem stopContext_canon (id cause : Nat) (own : Option TrapRec) (halt : Halt) (h : m.Canon) : (m.stopContext id cause own halt).Canon :=
  stopBy_canon _ _ _ _ _ _ h

theorem doHalts_canon (h : m.Canon) : m.doHalts.Canon := foldl_canon (fun _ _ hm => stopContext_canon _ _ _ _ hm) _ h

/-! ### Events and traps -/

theorem denyGranule_canon (id va : Nat) (h : m.Canon) : (m.denyGranule id va).Canon := by
  grind [Mach.denyGranule, setResidency_canon]

theorem route_canon (id : Nat) (r : TrapRec) (s : Nat → Served) (rres : Bool) (h : m.Canon) : (m.route id r s rres).Canon := by
  unfold Mach.route
  split
  · exact h
  · split
    · exact announce_canon _ _ (fwStore_canon _ _ _ _ h)
    · have h1 : (if rres then m else m.denyGranule id r.va).Canon := by
        split
        · exact h
        · exact denyGranule_canon _ _ h
      dsimp only
      split
      · exact h1
      · exact h1
    · exact stopBy_canon _ _ _ _ _ _ h

theorem takeEvent_canon (t w : Nat) (gang : BitVec 8) (pc next : Nat) (late : Option Flight) (redo rres : Bool) (r : TrapRec) (h : m.Canon) :
    (m.takeEvent t w gang pc next late redo rres r).Canon := by
  unfold Mach.takeEvent
  split
  · dsimp only
    split
    · exact stopBy_canon _ _ _ _ _ _ h
    · exact route_canon _ _ _ _ h
  · exact h

theorem failOp_canon (op va : Nat) (h : m.Canon) : (m.failOp op va).Canon := by
  unfold Mach.failOp
  split
  · exact h
  · dsimp only
    split
    · split
      · exact stopContext_canon _ _ _ _ h
      · exact h
    · exact h

theorem trap_canon (g : Issue) (i : Instr) (r : TrapRec) (h : m.Canon) : (m.trap g i r).Canon := takeEvent_canon _ _ _ _ _ _ _ _ _ h

theorem illegal_canon (g : Issue) (i : Instr) (c : Illegal) (h : m.Canon) : (m.illegal g i c).Canon := trap_canon _ _ _ h

theorem badOperand_canon (g : Issue) (i : Instr) (h : m.Canon) : (m.badOperand g i).Canon := illegal_canon _ _ _ h

theorem redo_canon (g : Issue) (i : Instr) (r : TrapRec) (h : m.Canon) : (m.redo g i r).Canon := takeEvent_canon _ _ _ _ _ _ _ _ _ h

theorem fetchFault_canon (g : Issue) (cause gs va : Nat) (h : m.Canon) : (m.fetchFault g cause gs va).Canon :=
  takeEvent_canon _ _ _ _ _ _ _ _ _ h

/-! ### Bytes copied and the slots of pipes -/

/-- Bytes read piece by piece. -/
theorem bytesBy_canon {read : Mach → Nat → Nat → Nat → Option (Nat × Mach)}
    (hread : ∀ m d k n, m.Canon → ∀ r, read m d k n = some r → r.2.Canon) (d ctx va n : Nat) (h : m.Canon) :
    ∀ r, m.bytesBy read d ctx va n = some r → r.2.Canon := by
  refine foldl_bind_canon (p := Prod.snd) (fun r p hr c hc => ?_) _ fun r he => Option.some_inj.mp he ▸ h
  obtain ⟨k, -, hc⟩ := Option.bind_eq_some_iff.mp hc
  obtain ⟨q, hq, rfl⟩ := Option.map_eq_some_iff.mp hc
  exact hread _ _ _ _ hr q hq

theorem bytesAt_canon (d ctx va n : Nat) (h : m.Canon) : ∀ r, m.bytesAt d ctx va n = some r → r.2.Canon :=
  bytesBy_canon (fun _ _ _ _ hm _ he => dieRead_canon _ _ _ hm he) d ctx va n h

theorem putBytes_canon (d ctx va n v : Nat) (h : m.Canon) : (m.putBytes d ctx va n v).Canon := by
  refine foldl_canon (fun m p hm => ?_) _ h
  split
  · exact dieStore_canon _ _ _ _ _ hm
  · exact hm

theorem poisonBytes_canon (d ctx va n : Nat) (h : m.Canon) : (m.poisonBytes d ctx va n).Canon := by
  refine foldl_canon (fun m i hm => ?_) _ h
  split
  · exact (earlyDrain_canon _ _ hm).of_home rfl
  · exact hm

theorem copySlot_canon (d ctx src dst n : Nat) (h : m.Canon) : (m.copySlot d ctx src dst n).Canon := by
  unfold Mach.copySlot
  split
  · next r he =>
    have hr := bytesBy_canon (read := Mach.dieReadSure) (fun _ _ _ _ hm _ he => dieReadSure_canon _ _ _ hm he) d ctx src n h r he
    refine foldl_canon (fun m i hm => ?_) _ (putBytes_canon _ _ _ _ _ hr)
    split
    · exact poisonBytes_canon _ _ _ _ hm
    · exact hm
  · exact h

theorem returnSpill_canon (n j : Nat) (h : m.Canon) : (m.returnSpill n j).Canon := by
  grind [Mach.returnSpill, copySlot_canon, setPipe_canon]

theorem freeSlots_canon (k n : Nat) (h : m.Canon) : (Mach.freeSlots k m n).Canon := by
  induction k generalizing m with
  | zero => exact h
  | succ k ih => grind [Mach.freeSlots, returnSpill_canon, putBytes_canon, setPipe_canon]

theorem releaseSlot_canon (n j : Nat) (seen : List Nat) (h : m.Canon) : (m.releaseSlot n j seen).Canon := by
  grind [Mach.releaseSlot, freeSlots_canon, setPipe_canon]

theorem commitSlot_canon (n j : Nat) (seen : List Nat) (h : m.Canon) : (m.commitSlot n j seen).Canon := by
  grind [Mach.commitSlot, setPipe_canon]

end

end Sys2Proof.Machine

/-! PROOFS. Accesses performed and retired, and the shapes of issue, keep home memory canonical (01 R31, R32). -/

namespace Sys2Proof.Machine

section
variable {m : Mach}

/-! ### Accesses performed -/

theorem performScratch_canon (t : Nat) (f : Flight) (a : LaneAcc) (h : m.Canon) : (m.performScratch t f a).2.Canon := by
  unfold Mach.performScratch
  dsimp only
  split <;> exact h

theorem performAt_canon (d c : Nat) (f : Flight) (a : LaneAcc) (h : m.Canon) : ∀ r, m.performAt d c f a = some r → r.2.Canon := by
  intro r he
  unfold Mach.performAt at he
  dsimp only at he
  split at he
  · obtain ⟨q, hq, rfl⟩ := Option.map_eq_some_iff.mp he
    split at hq
    · exact (coreLoad_canon _ _ _ _ h hq : q.2.Canon)
    · exact (dieRead_canon _ _ _ h hq : q.2.Canon)
  · exact Option.some_inj.mp he ▸ dieStore_canon _ _ _ _ _ h
  · split at he
    · exact dieAtomic_canon _ _ _ _ _ h he
    · exact homeAtomic_canon _ _ _ _ _ h he
  · exact ldaRead_canon _ _ _ _ h he
  · split at he
    · cases he
    · split at he
      · exact Option.some_inj.mp he ▸ homeStore_canon _ _ _ _ _ h
      · exact Option.some_inj.mp he ▸ homeStore_canon _ _ _ _ _ h
      · exact Option.some_inj.mp he ▸ dieStore_canon _ _ _ _ _ h
  · obtain ⟨q, hq, rfl⟩ := Option.map_eq_some_iff.mp he
    exact (homeAtomic_canon _ _ _ _ _ h hq : q.2.Canon)
  · exact Option.some_inj.mp he ▸ dieStore_canon _ _ _ _ _ h
  · exact Option.some_inj.mp he ▸ h

theorem copySource_canon (team : Team) (f : Flight) (a : LaneAcc) (h : m.Canon) : (m.copySource team f a).2.Canon := by
  unfold Mach.copySource
  dsimp only
  split
  · exact h
  · split
    · exact h
    · split
      · exact h
      · split
        · next he =>
          exact foldl_bind_canon (β := Nat × Mach) (p := Prod.snd) (fun r p hr c hc => by
            obtain ⟨q, hq, rfl⟩ := Option.map_eq_some_iff.mp hc
            exact (dieRead_canon _ _ _ hr hq : q.2.Canon)) _ (fun r hr => Option.some_inj.mp hr ▸ h) (_, _) he
        · exact h

theorem performLane_canon (t : Nat) (team : Team) (core : Nat) (f : Flight) (a : LaneAcc) (h : m.Canon) :
    (m.performLane t team core f a).2.Canon := by
  unfold Mach.performLane
  split
  · exact performScratch_canon _ _ _ h
  · next r _ =>
    split
    · exact copySource_canon _ _ _ h
    · have hl := lateCheck_canon team.ctx r a.va f.replay h
      grind [→ performAt_canon]

theorem performLanes_canon (t : Nat) (team : Team) (core : Nat) (f : Flight) (as : List LaneAcc) (h : m.Canon) :
    (m.performLanes t team core f as).m.Canon := by
  induction as generalizing m with
  | nil => exact h
  | cons a as ih => grind [Mach.performLanes, performLane_canon]

/-! ### Accesses retired -/

theorem acquireDrops_canon (d c : Nat) (sc : Scope) (h : m.Canon) : (m.acquireDrops d c sc).Canon := by
  cases sc with
  | sys => exact applyLatest_canon _ h
  | _ => exact h

theorem copyFault_canon (t w pc va skid : Nat) (h : m.Canon) : (m.copyFault t w pc va skid).Canon := by
  grind [Mach.copyFault, modWarp_canon]

theorem deliverMessage_canon (t w n j : Nat) (f : Flight) (v : Nat) (h : m.Canon) : (m.deliverMessage t w n j f v).Canon := by
  grind [Mach.deliverMessage, putBytes_canon, poisonBytes_canon, commitSlot_canon, copyFault_canon]

theorem complete_canon (t w : Nat) (team : Team) (core : Nat) (f : Flight) (h : m.Canon) : (m.complete t w team core f).Canon := by
  unfold Mach.complete
  dsimp only
  split
  · exact acquireDrops_canon _ _ _ h
  · exact h
  · exact deliverMessage_canon _ _ _ _ _ _ h
  · exact h

theorem takeLate_canon (t w : Nat) (team : Team) (f : Flight) (a : LaneAcc) (cause gs : Nat) (h : m.Canon) :
    (m.takeLate t w team f a cause gs).Canon := by
  unfold Mach.takeLate
  split
  · exact h
  · exact takeEvent_canon _ _ _ _ _ _ _ _ _ h

theorem settleOldest_canon (t w : Nat) (h : m.Canon) : (m.settleOldest t w).2.Canon := by
  grind [Mach.settleOldest, performLanes_canon, complete_canon, takeLate_canon, modWarp_canon]

theorem writeBack_canon (t w : Nat) (h : m.Canon) : (m.writeBack t w).Canon := h

theorem background_canon (t w : Nat) (h : m.Canon) : (m.background t w).Canon := by
  grind [Mach.background, writeBack_canon, settleOldest_canon]

theorem backToLimm_canon (g : Issue) (h : m.Canon) : (m.backToLimm g).Canon := by
  unfold Mach.backToLimm
  split <;> exact h

theorem stall_canon (g : Issue) (h : m.Canon) : (m.stall g).Canon := background_canon _ _ (backToLimm_canon _ h)

theorem shoot_canon (g : Issue) (i : Instr) (q : Shot) (asks : List Ask) (done : List (Nat × Nat × Nat)) (h : m.Canon) :
    (m.shoot g i q asks done).Canon := by
  grind [Mach.shoot, stall_canon, generateAll_canon, trap_canon, retire_canon]

/-! ### Loads at once, releases and areas -/

theorem loadNow_canon (g : Issue) (va n : Nat) {how : Mach → Nat → Option (Nat × Mach)}
    (hhow : ∀ m k, m.Canon → ∀ r, how m k = some r → r.2.Canon) (h : m.Canon) : (m.loadNow g va n how).2.Canon := by
  unfold Mach.loadNow
  have ht := translate_canon g.team.die g.core g.team.ctx va n .load g.team.super h
  split
  · next he => rw [he] at ht; exact ht
  · next r m1 he =>
    rw [he] at ht
    have hl := lateCheck_canon g.team.ctx r va (decide (g.warp.replayData &&& g.gang ≠ 0)) ht
    split
    · next he => rw [he] at hl; exact hl
    · next he => rw [he] at hl; exact hl
    · next he =>
      rw [he] at hl
      split
      · exact hl
      · split
        · next he => exact hhow _ _ hl _ he
        · exact hl

theorem withLoad_canon (g : Issue) (i : Instr) (va n : Nat) {how : Mach → Nat → Option (Nat × Mach)} {k : Mach → Nat → Mach}
    (hhow : ∀ m k, m.Canon → ∀ r, how m k = some r → r.2.Canon) (hk : ∀ m v, m.Canon → (k m v).Canon) (h : m.Canon) :
    (m.withLoad g i va n how k).Canon := by
  have hl := loadNow_canon g va n hhow h
  unfold Mach.withLoad
  split
  · next he => rw [he] at hl; exact hk _ _ hl
  · next he => rw [he] at hl; exact trap_canon _ _ _ hl
  · next he =>
    rw [he] at hl
    split
    · exact trap_canon _ _ _ hl
    · exact redo_canon _ _ _ hl
  · next he => rw [he] at hl; exact hl

theorem plainly_canon (g : Issue) (n : Nat) (m : Mach) (k : Nat) (h : m.Canon) : ∀ r, g.plainly n m k = some r → r.2.Canon :=
  fun _ he => coreLoad_canon _ _ _ _ h he

theorem withRelease_canon (g : Issue) (i : Instr) (sc : Scope) {k : Mach → Mach} (hk : ∀ m, m.Canon → (k m).Canon) (h : m.Canon) :
    (m.withRelease g i sc k).Canon := by
  unfold Mach.withRelease
  dsimp only
  split
  · exact h
  · split
    · exact redo_canon _ _ _ (release_canon _ _ h)
    · exact redo_canon _ _ _ h
    · exact hk _ (release_canon _ _ h)

theorem withArea_canon (g : Issue) (i : Instr) (va n : Nat) (kind : Access) {k : Mach → RangeDesc → Area → Mach}
    (hk : ∀ m r a, m.Canon → (k m r a).Canon) (h : m.Canon) : (m.withArea g i va n kind k).Canon := by
  have ht := translate_canon g.team.die g.core g.team.ctx va n kind g.team.super h
  unfold Mach.withArea
  split
  · next he => rw [he] at ht; exact trap_canon _ _ _ ht
  · next r m1 he =>
    rw [he] at ht
    have hl := lateCheck_canon g.team.ctx r va (decide (g.warp.replayData &&& g.gang ≠ 0)) ht
    split
    · next he =>
      rw [he] at hl
      split
      · exact hk _ _ _ hl
      · split
        · exact trap_canon _ _ _ hl
        · exact redo_canon _ _ _ hl
    · next he => rw [he] at hl; exact hk _ _ _ hl
    · next he => rw [he] at hl; exact hk _ _ _ hl

end

end Sys2Proof.Machine

/-! PROOFS. The register, control and system instructions keep home memory canonical (01 R31, R32). -/

namespace Sys2Proof.Machine

/-! ### Outcomes -/

/-- An outcome changes nothing that was fused, and keeps home memory canonical. -/
def KeepsMemory (s : State) (o : Host.Outcome State Fault Refusal) : Prop :=
  ∀ t, o = .next t → t.fuse = s.fuse ∧ (s.m.Canon → t.m.Canon)

section
variable {s : State} {i : Instr}

theorem keeps_next {m : Mach} (h : s.m.Canon → m.Canon) : KeepsMemory s (.next { s with m := m }) := by
  intro t ht
  cases ht
  exact ⟨rfl, h⟩

theorem always_keeps {f : Mach → Mach} (h : ∀ m, m.Canon → (f m).Canon) : KeepsMemory s (always s f) := keeps_next (h s.m)

theorem withIssuer_keeps {f : Mach → Issue → Out} (h : ∀ m g m', f m g = .next m' → m.Canon → m'.Canon) :
    KeepsMemory s (withIssuer s f) := by
  intro t ht
  unfold withIssuer onMach at ht
  dsimp only at ht
  cases hg : s.m.issuer with
  | none => rw [hg] at ht; cases ht
  | some g =>
    rw [hg] at ht
    dsimp only at ht
    cases hf : f s.m g with
    | next m' =>
      rw [hf] at ht
      cases ht
      exact ⟨rfl, h s.m g m' hf⟩
    | fault e => rw [hf] at ht; cases ht
    | refused e => rw [hf] at ht; cases ht

theorem withIssuer_next_keeps {f : Mach → Issue → Mach} (h : ∀ m g, m.Canon → (f m g).Canon) :
    KeepsMemory s (withIssuer s fun m g => .next (f m g)) :=
  withIssuer_keeps fun m g m' he hm => by cases he; exact h m g hm

variable {run : Mach → Issue → Mach}

theorem issueWith_keeps {u : Mach → Issue → Uses} (h : ∀ m g, m.Canon → (run m g).Canon) : KeepsMemory s (issueWith i u s run) := by
  refine withIssuer_keeps fun m g m' he hm => ?_
  split at he
  · cases he; exact h m g hm
  · cases he; exact trap_canon _ _ _ hm
  · cases he; exact stall_canon _ hm

theorem issue_keeps (h : ∀ m g, m.Canon → (run m g).Canon) : KeepsMemory s (issue i s run) := issueWith_keeps h

theorem issueLast_keeps (h : ∀ m g, m.Canon → (run m g).Canon) : KeepsMemory s (issueLast i s run) :=
  issue_keeps fun m g hm => by
    split
    · exact h m g hm
    · exact stall_canon _ hm

theorem issueChecked_canon {m : Mach} {g : Issue} {u : Uses} {imm bad : Bool} {run : Mach → Mach} (h : ∀ m, m.Canon → (run m).Canon)
    (hm : m.Canon) : (m.issueChecked g i u imm bad run).Canon := by
  unfold Mach.issueChecked
  split
  · split
    · exact illegal_canon _ _ _ hm
    · exact h m hm
  · split
    · exact illegal_canon _ _ _ hm
    · exact trap_canon _ _ _ hm
  · exact stall_canon _ hm

theorem issueOnce_keeps {bad : Mach → Issue → Bool} {waiting : Mach → Issue → Option Mach}
    (hw : ∀ m g m', waiting m g = some m' → m.Canon → m'.Canon) (h : ∀ m g, m.Canon → (run m g).Canon) :
    KeepsMemory s (issueOnce i s bad waiting run) := by
  refine withIssuer_keeps fun m g m' he hm => ?_
  split at he
  · next hs => cases he; exact hw m g _ hs hm
  · cases he
    refine issueChecked_canon (fun m hm => ?_) hm
    split
    · exact h m g hm
    · exact stall_canon _ hm

theorem issueOperand_keeps {imm : Bool} {bad : Mach → Issue → Bool} (h : ∀ m g, m.Canon → (run m g).Canon) :
    KeepsMemory s (issueOperand i s imm bad run) :=
  withIssuer_next_keeps fun _ g hm => issueChecked_canon (fun m hm => h m g hm) hm

/-! ### Results in registers -/

theorem lanesOp_keeps {d : Dst} {f : Mach → Issue → Fin 32 → Word} : KeepsMemory s (lanesOp i d f s) := issue_keeps fun _ _ hm => hm

theorem cmpOp_keeps {f : Mach → Issue → Fin 32 → Bool} : KeepsMemory s (cmpOp i f s) := issue_keeps fun _ _ hm => hm

theorem unlessFloat_canon {m k : Mach} (g : Issue) (i : Instr) (f : Fin 32 → Exc) (hm : m.Canon) (hk : k.Canon) : (m.unlessFloat g i f k).Canon := by
  unfold Mach.unlessFloat
  split
  · exact trap_canon _ _ _ hm
  · exact hk

theorem floatOp_keeps {d : Dst} {f : Mach → Issue → Fin 32 → Nat × Exc} : KeepsMemory s (floatOp i d f s) :=
  issue_keeps fun _ _ hm => unlessFloat_canon _ _ _ hm hm

theorem scalarOp_keeps {d : SDst} {f : Mach → Issue → Word} : KeepsMemory s (scalarOp i d f s) := issue_keeps fun _ _ hm => hm

theorem scalDiv_keeps {d : SDst} {a b : Src} {op : Word → Word → Word} : KeepsMemory s (scalDiv i d a b op s) :=
  issue_keeps fun _ _ hm => by
    split
    · exact trap_canon _ _ _ hm
    · exact hm

theorem maskOp_keeps {k : MaskName} {a : Src} {op : Bool → Bool → Bool} : KeepsMemory s (maskOp i k a op s) := issue_keeps fun _ _ hm => hm

theorem issueCross_keeps {a : Src} {on : Mach → Issue → Fin 32 → Bool} (h : ∀ m g, m.Canon → (run m g).Canon) :
    KeepsMemory s (issueCross i a on s run) :=
  issue_keeps fun m g hm => by
    split
    · exact trap_canon _ _ _ hm
    · exact h m g hm

theorem shuffle_keeps {d : Dst} {a : Src} {src : Mach → Issue → Fin 32 → Option (Fin 32)} : KeepsMemory s (shuffle i d a src s) :=
  issueCross_keeps fun _ _ hm => hm

theorem setPart_keeps {y : Mach → Issue → Word} : KeepsMemory s (setPart i y s) :=
  issue_keeps fun _ _ hm => by
    split
    · exact badOperand_canon _ _ hm
    · exact hm

theorem setConst_keeps {k : Fin 16} {y : Mach → Issue → Word} : KeepsMemory s (setConst i k y s) := issueOperand_keeps fun _ _ hm => hm

/-! ### Control -/

theorem jumpTo_canon {m : Mach} (g : Issue) (i : Instr) (x : Warp) (pc : Nat) (h : m.Canon) : (m.jumpTo g i x pc).Canon := by
  unfold Mach.jumpTo
  split
  · exact illegal_canon _ _ _ h
  · exact h

theorem part_canon {m : Mach} (g : Issue) (i : Instr) (x : Warp) (o : Fin 8 → Outcome) (h : m.Canon) : (m.part g i x o).Canon := by
  unfold Mach.part
  dsimp only
  split
  · exact h
  · exact h

theorem branch_canon {m : Mach} (g : Issue) (i : Instr) (o : Fin 8 → Outcome) (h : m.Canon) : (m.branch g i o).Canon := by
  unfold Mach.branch
  split
  · exact trap_canon _ _ _ h
  · split
    · exact trap_canon _ _ _ h
    · exact part_canon _ _ _ _ h

theorem teamEnd_canon {m : Mach} (t : Nat) (h : m.Canon) : (m.teamEnd t).Canon := by
  grind [Mach.teamEnd, stopContext_canon, modTeam_canon]

theorem saveWarp_canon {m : Mach} (t w : Nat) (h : m.Canon) : (m.saveWarp t w).Canon := by
  grind [Mach.saveWarp, stopContext_canon, teamEnd_canon, modWarp_canon]

/-! ### System instructions -/

theorem tresume_canon {m : Mach} (t act : Nat) (pz : Bool) (h : m.Canon) : (m.tresume t act pz).Canon := by
  unfold Mach.tresume
  split
  · exact h
  · dsimp only
    split
    · exact h
    · exact stopBy_canon _ _ _ _ _ _ h
    · exact h
    · split
      · split
        · exact failOp_canon _ _ h
        · exact h
      · exact h

theorem writeTresume_canon {m : Mach} (g : Issue) (i : Instr) (y : Word) (h : m.Canon) : (m.writeTresume g i y).Canon := by
  unfold Mach.writeTresume
  split
  · exact illegal_canon _ _ _ h
  · dsimp only
    split
    · exact illegal_canon _ _ _ h
    · exact tresume_canon _ _ _ h

theorem writeDomain_canon {m m' : Mach} {pc : Nat} {n : Fin 16} {y : Word} (h : m.Canon)
    (he : m.writeDomain pc n y = .done m' ∨ m.writeDomain pc n y = .waits m') : m'.Canon := by
  grind [Mach.writeDomain, finishSwitch_canon, Mach.Canon]

theorem sysWrite_keeps {n : Fin 128} {imm : Bool} {y : Mach → Issue → Word} : KeepsMemory s (sysWrite i n imm y s) := by
  refine withIssuer_next_keeps fun m g hm => issueChecked_canon (fun m hm => ?_) hm
  split
  · exact hm
  · exact hm
  · exact writeTresume_canon _ _ _ hm
  · dsimp only
    split
    · exact badOperand_canon _ _ hm
    · next he => exact (writeDomain_canon hm (.inl he) : Mach.Canon _)
    · next he => exact writeDomain_canon hm (.inr he)

end

end Sys2Proof.Machine

/-! PROOFS. The instructions of memory and of the matrix units keep home memory canonical (01 R31, R32). -/

namespace Sys2Proof.Machine

section
variable {m : Mach} {s : State} {i : Instr}

@[simp] theorem setRanges_canon (ctx : Nat) (rs : List RangeDesc) : (m.setRanges ctx rs).Canon ↔ m.Canon := Iff.rfl
@[simp] theorem restoreUnits_canon (g : Issue) : (m.restoreUnits g).Canon ↔ m.Canon := Iff.rfl
@[simp] theorem followPress_canon (p : Press) : (m.followPress p).Canon ↔ m.Canon := Iff.rfl
@[simp] theorem dropLines_canon (d c : Nat) (sc : Scope) (hit : Nat → Bool) : (m.dropLines d c sc hit).Canon ↔ m.Canon := by
  cases sc <;> exact Iff.rfl

theorem ite_canon {c : Prop} [Decidable c] {a b : Mach} (ha : a.Canon) (hb : b.Canon) : (if c then a else b).Canon := by
  split
  · exact ha
  · exact hb

/-! ### Accesses that issue -/

theorem loadOp_keeps {scratch signed : Bool} {z : Nat} {d : Fin 64} {a b : Src} : KeepsMemory s (loadOp i scratch signed z d a b s) :=
  issue_keeps fun _ _ hm => shoot_canon _ _ _ _ _ hm

theorem storeOp_keeps {scratch : Bool} {z : Nat} {d : Fin 64} {a b : Src} : KeepsMemory s (storeOp i scratch z d a b s) :=
  issue_keeps fun _ _ hm => shoot_canon _ _ _ _ _ hm

theorem scalarAccess_keeps {store wide : Bool} {d : Fin 32} {a b : Src} : KeepsMemory s (scalarAccess i store wide d a b s) :=
  issue_keeps fun _ _ hm => shoot_canon _ _ _ _ _ hm

theorem tensorOp_keeps {store : Bool} {h : Fin 32} {rk : Fin 7} {cb d : Fin 64} {z : Nat} : KeepsMemory s (tensorOp i store h rk cb d z s) :=
  issue_keeps fun _ _ hm => by
    split
    · exact illegal_canon _ _ _ hm
    · split
      · exact illegal_canon _ _ _ hm
      · exact shoot_canon _ _ _ _ _ hm

theorem atomOp_keeps {scratch home sys : Bool} {d : Fin 64} {a b : Src} {x : Bool} {o : AtomOp} :
    KeepsMemory s (atomOp i scratch home sys d a b x o s) :=
  issue_keeps fun _ _ hm => by
    dsimp only
    split
    · exact stall_canon _ hm
    · exact shoot_canon _ _ _ _ _ hm

theorem ldaOp_keeps {n : Nat} {d : Fin 64} {a : Src} {sc : Scope} : KeepsMemory s (ldaOp i n d a sc s) :=
  issue_keeps fun _ _ hm => shoot_canon _ _ _ _ _ hm

theorem stlOp_keeps {n : Nat} {d : Fin 64} {a : Src} {sc : Scope} : KeepsMemory s (stlOp i n d a sc s) :=
  issueLast_keeps fun m g hm => by
    have hg := generateAll_canon g .store n anyClass (g.asks false (g.warp.widePair a) d fun l => g.warp.regs d l (n / 4)) hm
    dsimp only
    split
    · next he => rw [he] at hg; exact trap_canon _ _ _ hg
    · next he => rw [he] at hg; exact withRelease_canon _ _ _ (fun _ hm => shoot_canon _ _ _ _ _ hm) hg

theorem csig_keeps {a b : Src} : KeepsMemory s (execCsig a b s) :=
  issueLast_keeps fun m g hm => by
    have hg := generateAll_canon g .atomic 8 (fun c => decide (c ≤ 3))
      [{ lane := 0, scratch := false, addr := g.warp.pair a, reg := 0, data := g.warp.pair b, cmp := 0 }] hm
    dsimp only
    split
    · next he => rw [he] at hg; exact trap_canon _ _ _ hg
    · next he => rw [he] at hg; exact withRelease_canon _ _ _ (fun _ hm => shoot_canon _ _ _ _ _ hm) hg

/-! ### Shapes, prefetches, fences and counters -/

theorem shpld_keeps {h : Fin 32} {a : Src} : KeepsMemory s (execShpld h a s) :=
  issueLast_keeps fun _ g hm => withLoad_canon _ _ _ _ (plainly_canon g 64) (fun _ _ hm => by
    split
    · exact illegal_canon _ _ _ hm
    · exact hm) hm

theorem shpinv_keeps {h : Fin 32} : KeepsMemory s (execShpinv h s) := issueLast_keeps fun _ _ hm => hm

theorem prefetch_canon (g : Issue) (va : Nat) (h : m.Canon) : (m.prefetch g va).Canon := by
  have ht := translate_canon g.team.die g.core g.team.ctx va 1 .load g.team.super h
  grind [Mach.prefetch, → coreLoad_canon]

theorem pref_keeps {a b : Src} : KeepsMemory s (execPref a b s) :=
  issueLast_keeps fun _ g hm => by exact foldl_canon (fun _ _ hm => prefetch_canon g _ hm) _ hm

theorem fence_keeps {sc : Scope} : KeepsMemory s (execFence sc s) :=
  issueLast_keeps fun _ _ hm => withRelease_canon _ _ _ (fun _ hm => by exact acquireDrops_canon _ _ _ hm) hm

theorem rel_keeps {sc : Scope} : KeepsMemory s (execRel sc s) := issueLast_keeps fun _ _ hm => withRelease_canon _ _ _ (fun _ hm => hm) hm

theorem acq_keeps {sc : Scope} : KeepsMemory s (execAcq sc s) := issueLast_keeps fun _ _ hm => by exact acquireDrops_canon _ _ _ hm

theorem waitp_keeps {p : Path} {a : Src} : KeepsMemory s (execWaitp p a s) :=
  issueLast_keeps fun _ _ hm => by
    split
    · exact hm
    · exact hm

theorem cntr_keeps {d : Fin 32} : KeepsMemory s (execCntr d s) := issueLast_keeps fun _ _ hm => hm

theorem cwait_keeps {d : Fin 32} {a b : Src} : KeepsMemory s (execCwait d a b s) :=
  issueLast_keeps fun _ _ hm => withLoad_canon _ _ _ _ (fun _ _ hm _ he => ldaRead_canon _ _ _ _ hm he) (fun m _ hm => by
    split
    · exact (retire_canon ..).mpr (acquireDrops_canon _ _ _ hm)
    · exact hm) hm

@[simp] theorem noteIssue_canon (g : Issue) : (m.noteIssue g).Canon ↔ m.Canon := by
  grind [Mach.noteIssue, Mach.Canon, Mach.setWarp, Mach.modWarp, Mach.modTeam]

theorem waiterRelease_keeps {t w : Nat} : KeepsMemory s (execWaiterRelease t w s) := by
  unfold execWaiterRelease
  split
  · exact keeps_next id
  · next j d a b _ =>
    dsimp only
    split
    · exact keeps_next id
    · split
      · exact keeps_next id
      · split
        · next hc =>
          obtain ⟨hf, hm⟩ := cwait_keeps _ hc
          intro t ht
          cases ht
          exact ⟨hf, fun h => (noteIssue_canon _).mpr (hm h)⟩
        · next hn => exact fun t ht => absurd ht (hn t)

/-! ### Barriers -/

theorem barWaits_canon {g : Issue} {m' : Mach} (he : m.barWaits g = some m') (h : m.Canon) : m'.Canon := by
  obtain ⟨q, -, rfl⟩ := Option.map_eq_some_iff.mp he
  split
  · exact (setWarp_canon ..).mpr (acquireDrops_canon _ _ _ h)
  · exact h

theorem joinGrid_canon (x : Team) (share : Option Nat) (h : m.Canon) : (m.joinGrid x share).Canon := by
  unfold Mach.joinGrid
  split
  · refine foldl_canon (fun m y hm => ?_) _ h
    split
    · exact applySeen_canon _ _ hm
    · exact hm
  · exact h

theorem gridWaits_canon {g : Issue} {sc : Scope} {m' : Mach} (he : m.gridWaits g sc = some m') (h : m.Canon) : m'.Canon := by
  obtain ⟨q, -, rfl⟩ := Option.map_eq_some_iff.mp he
  split
  · exact (setWarp_canon ..).mpr (joinGrid_canon _ _ (acquireDrops_canon _ _ _ h))
  · exact h

theorem barOp_keeps {waits : Bool} {a b : Src} : KeepsMemory s (barOp i waits a b s) := by
  refine issueOnce_keeps (fun m g m' he hm => ?_) fun m g hm => ?_
  · cases waits with
    | true => exact barWaits_canon he hm
    | false => cases he
  · split
    · exact badOperand_canon _ _ hm
    · split
      · exact hm
      · dsimp only
        split
        · exact hm
        · split
          · exact (setWarp_canon ..).mpr (acquireDrops_canon _ _ _ hm)
          · exact hm

theorem barw_keeps {a : Src} : KeepsMemory s (execBarw a s) :=
  issueLast_keeps fun _ _ hm => by
    dsimp only
    split
    · split
      · exact badOperand_canon _ _ hm
      · exact ite_canon ((retire_canon ..).mpr (acquireDrops_canon _ _ _ hm)) hm
    · exact badOperand_canon _ _ hm

theorem gridBar_keeps {grid : Bool} : KeepsMemory s (gridBar i grid s) := by
  refine issueOnce_keeps (fun _ _ _ he hm => gridWaits_canon he hm) fun m g hm => ?_
  dsimp only
  split
  · exact illegal_canon _ _ _ hm
  · split
    · exact hm
    · exact withRelease_canon _ _ _ (fun _ hm => hm) hm

/-! ### Ranges -/

theorem rangeOp_canon (d : Fin 32) (f : Mach → Issue → List RangeDesc → Nat × List RangeDesc) (g : Issue) (h : m.Canon) :
    (rangeOp i d f m g).Canon := h

theorem dropRanges_canon (cores : List (Nat × Nat)) (ctx : Nat) (hit : RangeDesc → Bool) (h : m.Canon) : (m.dropRanges cores ctx hit).Canon :=
  foldl_canon (fun _ _ hm => by exact hm) _ h

theorem rangeOp_keeps {d : Fin 32} {f : Mach → Issue → List RangeDesc → Nat × List RangeDesc} :
    KeepsMemory s (issueLast i s (rangeOp i d f)) := issueLast_keeps fun _ g hm => rangeOp_canon d f g hm

theorem rprot_keeps {d : Fin 32} {a b : Src} : KeepsMemory s (execRprot d a b s) :=
  issueOperand_keeps fun _ _ hm => by
    split
    · exact rangeOp_canon _ _ _ hm
    · exact stall_canon _ hm

theorem rprobe_keeps {d : Fin 32} {a : Src} : KeepsMemory s (execRprobe d a s) := issueLast_keeps fun _ _ hm => hm

theorem rinval_keeps {sc : Scope} {a b : Src} : KeepsMemory s (execRinval sc a b s) :=
  issueLast_keeps fun m g hm => by
    have hd := fun cores hit => dropRanges_canon cores g.team.ctx hit hm
    dsimp only
    split
    · exact background_canon _ _ (hd _ _)
    · split
      · exact hd _ _
      · exact withRelease_canon _ _ _ (fun _ hm => hm) (hd _ _)

theorem setResidencies_canon (ctx : Nat) (r : RangeDesc) (st : Nat) (gs : List Nat) (h : m.Canon) :
    (gs.foldl (fun m k => m.setResidency ctx r k st) m).Canon := foldl_canon (fun _ _ hm => setResidency_canon _ _ _ _ hm) _ h

theorem rres_keeps {d : Fin 32} {a b : Src} : KeepsMemory s (execRres d a b s) :=
  issueOperand_keeps fun m g hm => by
    dsimp only
    split
    · exact stall_canon _ hm
    · split
      · exact hm
      · split
        · exact hm
        · split
          · exact hm
          · split
            · exact hm
            · split
              · split
                · exact hm
                · split
                  · next hc => exact (retire_canon ..).mpr (setResidencies_canon _ _ _ _ (charge_canon _ _ _ hm hc))
                  · exact takeEvent_canon _ _ _ _ _ _ _ _ _ hm
              · refine (retire_canon ..).mpr (setResidencies_canon _ _ _ _ ?_)
                split
                · exact hm
                · exact credit_canon _ _ _ hm

/-! ### The press -/

theorem rpress_keeps {d : Fin 32} {a : Src} : KeepsMemory s (execRpress d a s) :=
  issueLast_keeps fun m g hm => by
    dsimp only
    split
    · exact hm
    · split
      · exact hm
      · split
        · exact hm
        · split
          · exact hm
          · exact hm

theorem carryMarks_canon (old new : Nat) (h : m.Canon) : (m.carryMarks old new).Canon := by
  refine foldl_canon (fun m k hm => ?_) _ h
  dsimp only
  split
  · exact hm
  · exact hm

theorem pastCaches_canon (k n v : Nat) (h : m.Canon) : (m.pastCaches k n v).Canon := homeWrite_canon (m := { m with dies := _ }) k n v h

theorem pressLineMove_keeps {r : Nat} : KeepsMemory s (execPressLineMove r s) :=
  always_keeps fun m hm => by
    split
    · exact hm
    · split
      · exact hm
      · extract_lets base m1
        have hm1 : m1.Canon := by
          unfold m1
          split
          · exact carryMarks_canon _ _ (pastCaches_canon _ _ _ hm)
          · exact hm
        exact hm1

theorem carryAll_canon (p : Press) (h : m.Canon) : (m.carryAll p).Canon := foldl_canon (fun _ _ hm => carryMarks_canon _ _ hm) _ h

theorem switchPress_canon (p : Press) (h : m.Canon) : (m.switchPress p).Canon := by
  refine dropRanges_canon _ _ _ ((setRanges_canon ..).mpr ((followPress_canon p).mpr (carryAll_canon p (foldl_canon (fun m d hm => ?_) _ h))))
  split
  · exact closeEpoch_canon _ hm
  · exact hm

theorem endPress_canon (r : Nat) (p : Press) (h : m.Canon) : (m.endPress r p).Canon := by
  unfold Mach.endPress
  split
  · exact background_canon _ _ h
  · split
    · exact h
    · exact addCounter_canon _ _ _ h

theorem pressSwitch_keeps {r : Nat} : KeepsMemory s (execPressSwitch r s) :=
  always_keeps fun m hm => by
    split
    · exact hm
    · split
      · exact endPress_canon _ _ hm
      · split
        · exact hm
        · split
          · exact background_canon _ _ hm
          · dsimp only
            split
            · exact hm
            · exact endPress_canon _ _ (switchPress_canon _ hm)

/-! ### Caches -/

theorem writeBackLines_canon (d : Nat) (sc : Scope) (hit : Nat → Bool) (h : m.Canon) : (m.writeBackLines d sc hit).Canon := by
  have hd := earlyDrain_canon d (m.dirtyOf d hit) (awaitSwitch_canon ((m.dirtyOf d hit).map (· / 4)) h)
  cases sc with
  | die => exact hd
  | pkg => exact hd
  | sys => exact flushBytes_canon _ _ (hd.of_home rfl)
  | _ => exact h

theorem cacheOp_canon (g : Issue) (sc : Scope) (hit : Nat → Bool) {k : Mach → Mach} (hk : ∀ m, m.Canon → (k m).Canon) (h : m.Canon) :
    (m.cacheOp g i sc hit k).Canon := by
  unfold Mach.cacheOp
  extract_lets bs
  split
  · exact h
  · split
    · exact redo_canon _ _ _ h
    · exact hk _ (writeBackLines_canon _ _ _ h)

theorem cwb_keeps {sc : Scope} {a b : Src} : KeepsMemory s (execCwb sc a b s) :=
  issueLast_keeps fun _ _ hm => cacheOp_canon _ _ _ (fun _ hm => hm) hm

theorem cinv_keeps {sc : Scope} {a b : Src} : KeepsMemory s (execCinv sc a b s) :=
  issueLast_keeps fun _ _ hm => cacheOp_canon _ _ _ (fun _ hm => (dropLines_canon ..).mpr hm) hm

/-! ### Matrix units -/

theorem withBytes_canon (g : Issue) (n va : Nat) {k : Mach → List (Nat × Nat) → Mach} (hk : ∀ m bs, m.Canon → (k m bs).Canon) (h : m.Canon) :
    (Mach.withBytes i g n va m k).Canon := by
  induction n generalizing m va k with
  | zero => exact hk _ _ h
  | succ n ih =>
    exact withLoad_canon _ _ _ _ (fun _ _ hm _ he => dieRead_canon _ _ _ hm he) (fun _ _ hm => ih _ (fun _ _ hm => hk _ _ hm) hm) h

theorem quietByte_canon (d c ctx va : Nat) (super : Bool) (h : m.Canon) : (m.quietByte d c ctx va super).2.Canon := by
  have ht := translate_canon d c ctx va 1 .load super h
  grind [Mach.quietByte, lateCheck_canon, → dieRead_canon]

theorem quietBytes_canon (d c ctx va : Nat) (super : Bool) (n : Nat) (h : m.Canon) : (m.quietBytes d c ctx va super n).2.Canon := by
  induction n generalizing m va with
  | zero => exact h
  | succ n ih => grind [Mach.quietBytes, quietByte_canon]

theorem fetchScale_canon (d c ctx t q : Nat) (super : Bool) (h : m.Canon) : (m.fetchScale d c ctx t q super).Canon := by
  grind [Mach.fetchScale, quietBytes_canon, modCore_canon]

theorem mma_canon (g : Issue) (o : MmaOp) (h : m.Canon) : (m.mma g i o).Canon := by
  unfold Mach.mma
  dsimp only
  split
  · exact trap_canon _ _ _ h
  · split
    · exact trap_canon _ _ _ h
    · split
      · exact trap_canon _ _ _ h
      · split
        · exact trap_canon _ _ _ h
        · split
          · exact withLoad_canon _ _ _ _ (fun _ _ hm _ he => dieRead_canon _ _ _ hm he) (fun _ _ hm => by exact hm) h
          · split
            · exact trap_canon _ _ _ h
            · split
              · split
                · exact withBytes_canon _ _ _ (fun _ _ hm => by exact hm) h
                · exact h
              · exact unlessFloat_canon _ _ _ h h

theorem mmaOp_keeps {o : MmaOp} : KeepsMemory s (mmaOp i o s) := by
  refine withIssuer_keeps fun m g m' he hm => ?_
  split at he <;> cases he
  · exact trap_canon _ _ _ hm
  · exact stall_canon _ hm
  · split
    · exact hm
    · exact mma_canon _ _ hm

theorem matrixIssue_keeps {run : Mach → Issue → Mach} (h : ∀ m g, m.Canon → (run m g).Canon) : KeepsMemory s (matrixIssue i s run) :=
  issue_keeps fun m g hm => by
    split
    · exact hm
    · exact h m g hm

theorem mzero_keeps {d : Fin 64} : KeepsMemory s (execMzero d s) := matrixIssue_keeps fun _ _ hm => hm

theorem convertRun_keeps {d : Fin 64} {n : Nat} {f : Warp → Nat → Fin 32 → Nat × Exc} : KeepsMemory s (convertRun i d n f s) :=
  matrixIssue_keeps fun _ _ hm => unlessFloat_canon _ _ _ hm hm

theorem msclB_keeps {a b : Src} : KeepsMemory s (execMsclB a b s) :=
  matrixIssue_keeps fun _ _ hm => by
    dsimp only
    split
    · exact illegal_canon _ _ _ hm
    · exact shoot_canon _ _ _ _ _ hm

theorem msclP_keeps {a b : Src} : KeepsMemory s (execMsclP a b s) :=
  matrixIssue_keeps fun _ _ hm => (retire_canon ..).mpr (fetchScale_canon _ _ _ _ _ _ hm)

theorem scaleLineFill_keeps {t w tid line : Nat} : KeepsMemory s (execScaleLineFill t w tid line s) :=
  always_keeps fun _ hm => by
    split
    · exact fetchScale_canon _ _ _ _ _ _ hm
    · exact hm

theorem matrixUnitRetention_keeps {die core unit : Nat} : KeepsMemory s (execMatrixUnitRetention die core unit s) :=
  always_keeps fun _ hm => by
    split
    · exact hm
    · exact hm

end

end Sys2Proof.Machine

/-! PROOFS. Pipes, engines and launches keep home memory canonical (01 R31, R32). -/

namespace Sys2Proof.Machine

section
variable {m : Mach} {s : State} {i : Instr}

@[simp] theorem setRing_canon (t : Nat) (h : Fin 16) (r : Option Ring) : (m.setRing t h r).Canon ↔ m.Canon := Iff.rfl
@[simp] theorem advance_canon (o : EngOp) : (m.advance o).Canon ↔ m.Canon := Iff.rfl

/-! ### Pipes -/

theorem joinSlot_canon (g : Issue) (p : Pipe) (j : Nat) (h : m.Canon) : (m.joinSlot g p j).Canon :=
  applySeen_canon _ _ (acquireDrops_canon _ _ _ h)

theorem reserveOp_keeps {d : Fin 32} {a : Src} {fail : Mach → Issue → Mach} (hf : ∀ m g, m.Canon → (fail m g).Canon) :
    KeepsMemory s (reserveOp i d a fail s) :=
  issueLast_keeps fun _ _ hm => by
    split
    · exact illegal_canon _ _ _ hm
    · split
      · exact hf _ _ hm
      · exact (retire_canon ..).mpr (joinSlot_canon _ _ _ hm)

theorem takeOp_keeps {d : Fin 32} {a : Src} {fail : Mach → Issue → Mach} (hf : ∀ m g, m.Canon → (fail m g).Canon) :
    KeepsMemory s (takeOp i d a fail s) :=
  issueLast_keeps fun _ _ hm => by
    split
    · exact illegal_canon _ _ _ hm
    · split
      · exact hf _ _ hm
      · exact (retire_canon ..).mpr (joinSlot_canon _ _ _ hm)

theorem prsv_keeps {d : Fin 32} {a : Src} : KeepsMemory s (execPrsv d a s) := reserveOp_keeps fun _ _ hm => hm

theorem ptryR_keeps {d : Fin 32} {a : Src} : KeepsMemory s (execPtryR d a s) := reserveOp_keeps fun _ _ hm => hm

theorem pacq_keeps {d : Fin 32} {a : Src} : KeepsMemory s (execPacq d a s) := takeOp_keeps fun _ _ hm => hm

theorem ptryA_keeps {d : Fin 32} {a : Src} : KeepsMemory s (execPtryA d a s) := takeOp_keeps fun _ _ hm => hm

theorem pcmt_keeps {a b : Src} : KeepsMemory s (execPcmt a b s) :=
  issueLast_keeps fun _ _ hm => by
    split
    · exact illegal_canon _ _ _ hm
    · split
      · exact illegal_canon _ _ _ hm
      · exact withRelease_canon _ _ _ (fun _ hm => (retire_canon ..).mpr (commitSlot_canon _ _ _ hm)) hm

theorem prel_keeps {a b : Src} : KeepsMemory s (execPrel a b s) :=
  issueLast_keeps fun _ _ hm => by
    split
    · exact illegal_canon _ _ _ hm
    · split
      · exact illegal_canon _ _ _ hm
      · exact (retire_canon ..).mpr (releaseSlot_canon _ _ _ hm)

theorem pstat_keeps {d : Fin 32} {a : Src} : KeepsMemory s (execPstat d a s) :=
  issueLast_keeps fun _ _ hm => by
    dsimp only
    split
    · split
      · exact hm
      · exact illegal_canon _ _ _ hm
    · split
      · split
        · exact hm
        · exact illegal_canon _ _ _ hm
      · exact badOperand_canon _ _ hm

theorem sendMessage_canon (g : Issue) (p : Pipe) (r : RangeDesc) (va : Nat) (st : Area) (h : m.Canon) :
    (m.sendMessage g i p r va st).Canon := by
  unfold Mach.sendMessage
  split
  · exact h
  · exact h

theorem pmsg_keeps {a b : Src} : KeepsMemory s (execPmsg a b s) :=
  issueLast_keeps fun m g hm => by
    split
    · exact illegal_canon _ _ _ hm
    · extract_lets same
      refine ite_canon (illegal_canon _ _ _ hm) (ite_canon hm (ite_canon (redo_canon _ _ _ hm) ?_))
      exact withArea_canon _ _ _ _ _ (fun _ _ _ hm => withRelease_canon _ _ _ (fun _ hm => sendMessage_canon _ _ _ _ _ hm) hm) hm

theorem precv_keeps {d : Fin 32} {a b : Src} : KeepsMemory s (execPrecv d a b s) :=
  issueLast_keeps fun m g hm => by
    split
    · exact illegal_canon _ _ _ hm
    · next p _ =>
      refine ite_canon (illegal_canon _ _ _ hm) (withArea_canon _ _ _ _ _ (fun m r st hm => ?_) hm)
      split
      · exact hm
      · next j _ =>
        extract_lets home bad
        split
        · exact hm
        · next v hv =>
          have h1 : ((v.2.setPipe (p.take j)).joinSlot g p j).Canon := joinSlot_canon _ _ _ (bytesAt_canon _ _ _ _ hm v hv)
          extract_lets m1 m2 m3
          have h2 : m2.Canon := ite_canon h1 (foldl_canon (fun _ _ hm => dieStore_canon _ _ _ _ _ hm) _ h1)
          have h3 : m3.Canon := (retire_canon ..).mpr (releaseSlot_canon _ _ _ h2)
          exact ite_canon (copyFault_canon _ _ _ _ _ h3) h3

theorem remotePipeRequest_keeps {pipe : Nat} {commit : Bool} {slot : Nat} {bs : List Byte} :
    KeepsMemory s (execRemotePipeRequest pipe commit slot bs s) :=
  always_keeps fun _ hm => by
    split
    · exact hm
    · refine ite_canon hm (ite_canon (ite_canon ?_ hm) ?_)
      · exact commitSlot_canon _ _ _ (foldl_canon (fun _ _ hm => putBytes_canon _ _ _ _ _ hm) _ hm)
      · split
        · exact hm
        · exact hm

/-! ### Rings and posts -/

theorem ringOp_keeps {a : Src} {k : Mach → Issue → Fin 16 → Ring → Mach} (hk : ∀ m g h r, m.Canon → (k m g h r).Canon) :
    KeepsMemory s (ringOp i a s k) :=
  issueLast_keeps fun _ _ hm => by
    dsimp only
    split
    · split
      · exact hk _ _ _ _ hm
      · exact illegal_canon _ _ _ hm
    · exact badOperand_canon _ _ hm

theorem ringCount_keeps {a b : Src} {k : Mach → Issue → Fin 16 → Ring → Nat → Mach} (hk : ∀ m g h r n, m.Canon → (k m g h r n).Canon) :
    KeepsMemory s (ringCount i a b s k) :=
  issueLast_keeps fun _ _ hm => by
    dsimp only
    split
    · refine ite_canon (badOperand_canon _ _ hm) ?_
      split
      · exact ite_canon (badOperand_canon _ _ hm) (hk _ _ _ _ _ hm)
      · exact illegal_canon _ _ _ hm
    · exact badOperand_canon _ _ hm

theorem ersetBind_keeps {a b : Src} : KeepsMemory s (execErsetBind a b s) :=
  issueLast_keeps fun _ g hm => by
    dsimp only
    split
    · refine withLoad_canon _ _ _ _ (plainly_canon g 32) (fun _ _ hm => ?_) hm
      split
      · exact illegal_canon _ _ _ hm
      · exact hm
    · exact badOperand_canon _ _ hm

theorem ersetFree_keeps {a : Src} : KeepsMemory s (execErsetFree a s) := by
  unfold execErsetFree
  refine ringOp_keeps fun _ _ _ _ hm => ?_
  exact ite_canon hm hm

theorem ersetPush_keeps {a b : Src} : KeepsMemory s (execErsetPush a b s) := by
  unfold execErsetPush
  refine ringCount_keeps fun _ _ _ _ _ hm => ?_
  exact ite_canon (illegal_canon _ _ _ hm) (ite_canon hm hm)

theorem ersetPop_keeps {a b : Src} : KeepsMemory s (execErsetPop a b s) := by
  unfold execErsetPop
  refine ringCount_keeps fun _ _ _ _ _ hm => ?_
  exact ite_canon (illegal_canon _ _ _ hm) (ite_canon hm hm)

theorem ersetWaitf_keeps {a b : Src} : KeepsMemory s (execErsetWaitf a b s) := by
  unfold execErsetWaitf
  refine ringCount_keeps fun _ _ _ _ _ hm => ?_
  exact ite_canon ((retire_canon ..).mpr (acquireDrops_canon _ _ _ hm)) hm

theorem ersetWaite_keeps {a b : Src} : KeepsMemory s (execErsetWaite a b s) := by
  unfold execErsetWaite
  refine ringCount_keeps fun _ _ _ _ _ hm => ?_
  exact ite_canon ((retire_canon ..).mpr (acquireDrops_canon _ _ _ hm)) hm

theorem postOp_keeps {kind : EngKind} {a : Src} : KeepsMemory s (postOp i kind a s) :=
  issueLast_keeps fun _ g hm => withLoad_canon _ _ _ _ (plainly_canon g 64) (fun _ _ hm =>
    ite_canon (illegal_canon _ _ _ hm) (ite_canon (illegal_canon _ _ _ hm) (ite_canon (illegal_canon _ _ _ hm)
      (ite_canon hm (ite_canon hm hm))))) hm

/-! ### The work of an operation -/

theorem claim_canon (o : EngOp) (out : Bool) (u : Nat) (h : m.Canon) : ∀ r, m.claim o out u = some r → r.2.Canon := by
  grind [Mach.claim, setPipe_canon, Option.map_eq_some_iff]

theorem claimAll_canon (o : EngOp) (out : Bool) (hs : List Nat) (seen : List (Nat × List Nat)) (h : m.Canon) :
    ∀ r, Mach.claimAll o out hs seen m = some r → r.2.Canon := by
  induction hs generalizing m seen with
  | nil => exact fun r he => Option.some_inj.mp he ▸ h
  | cons u hs ih =>
    intro r he
    unfold Mach.claimAll at he
    split at he
    · obtain ⟨q, hq, rfl⟩ := Option.map_eq_some_iff.mp he
      exact (ih _ h q hq : q.2.Canon)
    · obtain ⟨c, hc, he⟩ := Option.bind_eq_some_iff.mp he
      obtain ⟨q, hq, rfl⟩ := Option.map_eq_some_iff.mp he
      exact (ih _ (claim_canon _ _ _ h c hc) q hq : q.2.Canon)

theorem engineFire_keeps {op : Nat} : KeepsMemory s (execEngineFire op s) :=
  always_keeps fun _ hm => by
    split
    · exact hm
    · refine ite_canon hm ?_
      split
      · exact hm
      · next r hr =>
        split
        · exact hm
        · next q hq => exact claimAll_canon _ _ _ _ (claimAll_canon _ _ _ _ hm r hr) q hq

theorem engResident_canon (o : EngOp) (r : RangeDesc) (va : Nat) (h : m.Canon) : (m.engResident o r va).2.Canon := by
  grind [Mach.engResident, lateCheck_canon]

/-- Steps that each leave a result and a machine. -/
theorem foldl_snd_canon {α β : Type} {f : β × Mach → α → β × Mach} (hf : ∀ r a, r.2.Canon → (f r a).2.Canon) (l : List α) {r : β × Mach}
    (h : r.2.Canon) : (l.foldl f r).2.Canon := by
  induction l generalizing r with
  | nil => exact h
  | cons a l ih => exact ih (hf r a h)

theorem engRead_canon (o : EngOp) (u n : Nat) (h : m.Canon) : (m.engRead o u n).2.Canon := by
  have hr := @engResident_canon
  unfold Mach.engRead
  split
  · grind
  · split
    · exact h
    · exact foldl_snd_canon (fun r p hm => by grind [→ dieRead_canon]) _ h

theorem engTest_canon (o : EngOp) (kind : Access) (u n : Nat) (h : m.Canon) : (m.engTest o kind u n).2.Canon := by
  have hr := @engResident_canon
  unfold Mach.engTest
  split
  · grind
  · split
    · exact h
    · exact foldl_snd_canon (fun r p hm => by grind) _ h

theorem engWrite_canon (o : EngOp) (u n v : Nat) (h : m.Canon) : (m.engWrite o u n v).Canon := by
  unfold Mach.engWrite
  split
  · exact h
  · split
    · exact h
    · refine foldl_canon (fun m p hm => ?_) _ h
      have hr := engResident_canon o ‹_› (u + p.1) hm
      grind [dieStore_canon]

theorem accumulate_canon (o : EngOp) (u v n : Nat) (h : m.Canon) : (m.accumulate o u v n).Canon := by
  induction n generalizing m u v with
  | zero => exact h
  | succ n ih =>
    refine ih _ _ (ite_canon h ?_)
    split
    · exact h
    · next r _ =>
      have hr := engResident_canon o r u h
      split
      · next m1 he =>
        rw [he] at hr
        refine ite_canon ?_ (agentAtomic_canon _ _ _ _ hr)
        split
        · next hq => exact dieAtomic_canon _ _ _ _ _ hr hq
        · cases hq : (m1.unblock (r.key u)).dieAtomic o.die Config.coresPerDie (r.key u) 4 fun old => redElem o.rop old (v % 2 ^ 32) with
          | none => exact hr
          | some q => exact dieAtomic_canon _ _ _ _ _ (unblock_canon _ hr) hq
      · next he => rw [he] at hr; exact hr

theorem readUnits_canon (o : EngOp) (n : Nat) (us : List Nat) (h : m.Canon) : (m.readUnits o n us).2.Canon := by
  induction us generalizing m with
  | nil => exact h
  | cons u us ih => grind [Mach.readUnits, engRead_canon]

theorem indices_canon (o : EngOp) (h : m.Canon) : (m.indices o).2.Canon := readUnits_canon _ _ _ h

theorem testUnits_canon (o : EngOp) (kind : Access) (n : Nat) (us : List Nat) (h : m.Canon) : (m.testUnits o kind n us).2.Canon := by
  induction us generalizing m with
  | nil => exact h
  | cons u us ih => grind [Mach.testUnits, engTest_canon]

theorem writeUnits_canon (o : EngOp) (n : Nat) (ws : List (Nat × Nat)) (h : m.Canon) : (m.writeUnits o n ws).2.Canon := by
  induction ws generalizing m with
  | nil => exact h
  | cons w ws ih => grind [Mach.writeUnits, engTest_canon, engWrite_canon]

theorem engWrites_canon (o : EngOp) (n : Nat) (ws : List (Nat × Nat)) (h : m.Canon) :
    (ws.foldl (fun m w => m.engWrite o w.1 n w.2) m).Canon := foldl_canon (fun _ _ hm => engWrite_canon _ _ _ _ hm) _ h

theorem accumulates_canon (o : EngOp) (n : Nat) (ws : List (Nat × Nat)) (h : m.Canon) :
    (ws.foldl (fun m w => m.accumulate o w.1 w.2 n) m).Canon := foldl_canon (fun _ _ hm => accumulate_canon _ _ _ _ hm) _ h

theorem engPut_canon (o : EngOp) (n : Nat) (outs : List (List Nat)) (vs : List Nat) (h : m.Canon) :
    (outs.foldl (fun m us => (us.zip vs).foldl (fun m w => m.engWrite o w.1 n w.2) m) m).Canon :=
  foldl_canon (fun _ _ hm => engWrites_canon _ _ _ hm) _ h

theorem engWork_canon (o : EngOp) (h : m.Canon) : (m.engWork o).2.Canon := by
  unfold Mach.engWork
  extract_lets n outs put src
  have hput : ∀ m vs, m.Canon → (put m vs).2.Canon := fun m vs hm => by
    have ht := testUnits_canon o .store n outs.flatten hm
    unfold put
    split
    · next he => rw [he] at ht; exact ht
    · next he => rw [he] at ht; exact engPut_canon _ _ _ _ ht
  have hsrc : ∀ m k, m.Canon → (src m k).2.Canon := fun m k hm => readUnits_canon _ _ _ hm
  have hacc := fun m ws hm => accumulates_canon (m := m) o (n / 4) ws hm
  clear_value put src n
  split
  · grind [indices_canon, readUnits_canon]
  · grind [indices_canon, testUnits_canon, writeUnits_canon]
  · grind [testUnits_canon]
  · grind

theorem settleSlots_canon (out : Bool) (u : Nat) (us seen : List Nat) (h : m.Canon) : (m.settleSlots out u us seen).Canon := by
  unfold Mach.settleSlots
  split
  · refine foldl_canon (fun m u hm => ?_) _ h
    split
    · exact ite_canon (commitSlot_canon _ _ _ hm) (releaseSlot_canon _ _ _ hm)
    · exact hm
  · exact h

theorem counterTest_canon (o : EngOp) (h : m.Canon) : (m.counterTest o).2.Canon := by grind [Mach.counterTest, engResident_canon]

theorem engCount_canon (o : EngOp) (h : m.Canon) : (m.engCount o).Canon := by
  unfold Mach.engCount
  extract_lets denied
  split
  · exact ite_canon h (agentAtomic_canon _ _ _ _ (release_canon _ _ h))
  · exact h

theorem joinPoster_canon (o : EngOp) (h : m.Canon) : (m.joinPoster o).Canon := by
  unfold Mach.joinPoster
  split
  · exact ite_canon h (applySeen_canon _ _ h)
  · exact h

theorem engDone_canon (op : Nat) (o : EngOp) (h : m.Canon) : (m.engDone op o).Canon := by
  have hr := release_canon o.die o.scope h
  unfold Mach.engDone
  split
  · exact failOp_canon _ _ hr
  · exact failOp_canon _ _ h
  · extract_lets m1 m2 m3 m4 m5
    have h2 : m2.Canon := foldl_canon (fun _ _ hm => settleSlots_canon _ _ _ _ hm) _ hr
    have h3 : m3.Canon := foldl_canon (fun _ _ hm => settleSlots_canon _ _ _ _ hm) _ h2
    have h5 : m5.Canon := joinPoster_canon _ (engCount_canon _ h3)
    exact teamEnd_canon _ ((lowerIfe_canon ..).mpr (h5.of_home rfl))

theorem takeEngFault_canon (t w : Nat) (h : m.Canon) : (m.takeEngFault t w).Canon := by
  unfold Mach.takeEngFault
  split
  · split
    · exact h
    · exact ite_canon h (ite_canon (settleOldest_canon _ _ h) (takeEvent_canon _ _ _ _ _ _ _ _ _ h))
  · exact h

theorem engineComplete_keeps {op : Nat} : KeepsMemory s (execEngineComplete op s) :=
  always_keeps fun m hm => by
    split
    · exact hm
    · next o _ =>
      refine ite_canon hm ?_
      have hc := counterTest_canon o hm
      grind [engWork_canon, engDone_canon, teamEnd_canon, failOp_canon, route_canon, Mach.Canon]

/-! ### Launches -/

theorem launchOp_keeps {kind : Nat} {d : Fin 32} {a b : Src} : KeepsMemory s (launchOp i kind d a b s) :=
  issueLast_keeps fun _ g hm => withLoad_canon _ _ _ _ (plainly_canon g 64) (fun _ _ hm => by
    extract_lets done
    split
    · exact hm
    · refine withRelease_canon _ _ _ (fun m hm => ?_) hm
      extract_lets
      exact ite_canon hm (ite_canon hm (ite_canon hm
        ((retire_canon ..).mpr (homeStore_canon _ _ _ _ _ (homeStore_canon _ _ _ _ _ (homeStore_canon _ _ _ _ _ hm)))))) ) hm

theorem gcond_keeps {a b : Src} : KeepsMemory s (execGcond a b s) :=
  issue_keeps fun _ _ hm => by
    extract_lets n
    split
    · exact illegal_canon _ _ _ hm
    · exact ite_canon (illegal_canon _ _ _ hm) (shoot_canon _ _ _ _ _ hm)

end

end Sys2Proof.Machine

/-! PROOFS. Queues and teams keep home memory canonical (01 R31, R32). -/

namespace Sys2Proof.Machine

section
variable {m : Mach} {s : State}

@[simp] theorem modQueue_canon (p n : Nat) (f : Queue → Queue) : (m.modQueue p n f).Canon ↔ m.Canon := Iff.rfl
@[simp] theorem modPlan_canon (ctx va : Nat) (f : Plan → Plan) : (m.modPlan ctx va f).Canon ↔ m.Canon := Iff.rfl
@[simp] theorem modPipe_canon (n : Nat) (f : Pipe → Pipe) : (m.modPipe n f).Canon ↔ m.Canon := Iff.rfl
@[simp] theorem finishJob_canon (p i st : Nat) : (m.finishJob p i st).Canon ↔ m.Canon := Iff.rfl
@[simp] theorem raisePreq_canon (t : Nat) (slice : Bool) : (m.raisePreq t slice).Canon ↔ m.Canon := Iff.rfl
@[simp] theorem placeTeam_canon (p i : Nat) (j : Job) (k : KDesc) (shapes : List Shape) (n d c : Nat) :
    (m.placeTeam p i j k shapes n d c).Canon ↔ m.Canon := Iff.rfl

/-! ### Firmware's space -/

theorem loadIn_canon (sp : Option Nat) (va n : Nat) (h : m.Canon) : ∀ r, m.loadIn sp va n = some r → r.2.Canon := by
  intro r he
  cases sp with
  | some ctx => exact fwLoad_canon _ _ _ h he
  | none => exact Option.some_inj.mp he ▸ h

theorem storeIn_canon (sp : Option Nat) (va n v : Nat) (h : m.Canon) : (m.storeIn sp va n v).Canon := by
  cases sp with
  | some ctx => exact fwStore_canon _ _ _ _ h
  | none => exact homeWrite_canon _ _ _ h

theorem writeIn_canon (sp : Option Nat) (va n v : Nat) (h : m.Canon) : (m.writeIn sp va n v).Canon := by
  cases sp <;> grind [Mach.writeIn, outsideWrite_canon, homeWrite_canon]

theorem countIn_canon (p : Nat) (sp : Option Nat) (va inc : Nat) (h : m.Canon) : (m.countIn p sp va inc).Canon := by
  cases sp with
  | some ctx => exact addCounter_canon _ _ _ h
  | none => exact agentAtomic_canon _ _ _ _ (release_canon _ _ h)

theorem queueRead_canon (p : Nat) (sp : Option Nat) (va n : Nat) (h : m.Canon) : ∀ r, m.queueRead p sp va n = some r → r.2.Canon := by
  cases sp <;> grind [Mach.queueRead, Option.bind_eq_some_iff, unblock_canon, → homeLoad_canon]

theorem queueAt_canon (p n : Nat) (h : m.Canon) : ∀ r, m.queueAt p n = some r → r.2.Canon := by
  intro r he
  obtain ⟨q, -, he⟩ := Option.bind_eq_some_iff.mp he
  obtain ⟨v, hv, rfl⟩ := Option.map_eq_some_iff.mp he
  exact (queueRead_canon _ _ _ _ h v hv : v.2.Canon)

theorem takeAcquire_canon (p : Nat) (h : m.Canon) : (m.takeAcquire p).Canon :=
  foldl_canon (fun _ _ hm => acquireDrops_canon _ _ _ ((modDie_canon ..).mpr hm)) _ h

theorem takeNext_canon (p n : Nat) (want : Packet → Bool) (h : m.Canon) : (m.takeNext p n want).Canon := by
  unfold Mach.takeNext
  split
  · exact h
  · next q m0 he =>
    have h0 : m0.Canon := queueAt_canon _ _ h _ he
    extract_lets busy
    refine ite_canon h ?_
    split
    · exact h
    · next v m1 he1 =>
      have h1 : m1.Canon := loadIn_canon _ _ _ (takeAcquire_canon _ h0) _ he1
      extract_lets k free
      refine ite_canon h ?_
      split
      · exact h
      · exact storeIn_canon _ _ _ _ ((modQueue_canon ..).mpr ((modPart_canon ..).mpr h1))

theorem readProd_canon (p n : Nat) (dev : Bool) (h : m.Canon) : (m.readProd p n dev).Canon := by
  unfold Mach.readProd
  split
  · exact h
  · next q m1 he =>
    have h1 : m1.Canon := queueAt_canon _ _ h _ he
    refine ite_canon h ?_
    split
    · next he2 => exact (modQueue_canon ..).mpr (queueRead_canon _ _ _ _ h1 _ he2)
    · exact h

theorem gatherWork_canon (p : Nat) (sc : Scope) (h : m.Canon) : (m.gatherWork p sc).Canon :=
  applyLatest_canon _ (foldl_canon (fun _ _ hm => release_canon _ _ hm) _ h)

theorem announceJob_canon (p : Nat) (j : Job) (st : Nat) (h : m.Canon) : (m.announceJob p j st).Canon := by
  unfold Mach.announceJob
  extract_lets m0 m1
  have h0 : m0.Canon := gatherWork_canon _ _ h
  have h1 : m1.Canon := ite_canon h0 (storeIn_canon _ _ _ _ h0)
  exact ite_canon h1 (countIn_canon _ _ _ _ h1)

theorem writeImages_canon (ctx va : Nat) (h : m.Canon) : (m.writeImages ctx va).Canon :=
  foldl_canon (fun _ _ hm => ite_canon (fwStore_canon _ _ _ _ hm) hm) _ h

/-! ### Places and saves -/

theorem placeAll_canon (p i : Nat) (j : Job) (k : KDesc) (shapes : List Shape) (h : m.Canon) :
    ∀ r, m.placeAll p i j k shapes = some r → r.Canon := by
  refine foldl_bind_canon (p := id) (fun m n hm c hc => ?_) _ fun r he => Option.some_inj.mp he ▸ h
  obtain ⟨c, -, rfl⟩ := Option.map_eq_some_iff.mp hc
  exact (placeTeam_canon ..).mpr hm

theorem carry_canon (old new : Nat) (h : m.Canon) : (m.carry old new).Canon :=
  ite_canon h (applySeen_canon _ _ (closeEpoch_canon _ h))

theorem restoreAt_canon (t d c : Nat) (h : m.Canon) : (m.restoreAt t d c).Canon := by
  refine (modTeam_canon ..).mpr ?_
  split
  · exact ite_canon (carry_canon _ _ h) ((modCore_canon ..).mpr ((modCore_canon ..).mpr (carry_canon _ _ h)))
  · exact h

theorem restoreAll_canon (ts : List (Nat × Team)) (h : m.Canon) : ∀ r, m.restoreAll ts = some r → r.Canon := by
  refine foldl_bind_canon (p := id) (fun m x hm r hr => ?_) _ fun r he => Option.some_inj.mp he ▸ h
  obtain ⟨c, -, hr⟩ := Option.bind_eq_some_iff.mp hr
  split at hr
  · exact Option.some_inj.mp hr ▸ restoreAt_canon _ _ _ hm
  · cases hr

theorem corPlace_canon (p i : Nat) (j : Job) (h : m.Canon) : ∀ r, m.corPlace p i j = some r → r.Canon := by
  intro r hr
  obtain ⟨k, -, hr⟩ := Option.bind_eq_some_iff.mp hr
  obtain ⟨sh, -, hr⟩ := Option.bind_eq_some_iff.mp hr
  exact placeAll_canon _ _ _ _ _ h r hr

theorem getD_canon {o : Option Mach} (ho : ∀ r, o = some r → r.Canon) (h : m.Canon) : (o.getD m).Canon := by
  cases o with
  | none => exact h
  | some r => exact ho r rfl

theorem countMiss_canon (p n : Nat) (h : m.Canon) : (m.countMiss p n).Canon := by
  unfold Mach.countMiss
  split
  · exact storeIn_canon _ _ _ _ h
  · exact h

theorem goJob_canon (p i : Nat) (h : m.Canon) : (m.goJob p i).Canon := by
  unfold Mach.goJob
  split
  · exact h
  · extract_lets order j1 m0 m1
    have h0 : m0.Canon := h
    have h1 : m1.Canon := ite_canon (getD_canon (corPlace_canon _ _ _ h0) h0) h0
    exact ite_canon ((modQueue_canon ..).mpr h1) h1

theorem arbitrate_canon (n p : Nat) (h : m.Canon) : (Mach.arbitrate n m p).Canon := by
  induction n generalizing m with
  | zero => exact h
  | succ n ih =>
    unfold Mach.arbitrate
    split
    · exact h
    · refine ite_canon ?_ (goJob_canon _ _ h)
      split
      · exact h
      · exact ih ((modJob_canon ..).mpr (countMiss_canon _ _ h))
      · exact goJob_canon _ _ (countMiss_canon _ _ h)

theorem handlerResume_canon (t act : Nat) (pzero : Bool) (h : m.Canon) : (m.handlerResume t act pzero).Canon := by
  unfold Mach.handlerResume
  split
  · exact h
  · refine ite_canon h ?_
    split
    · exact ite_canon h (tresume_canon _ _ _ h)
    · exact h

theorem forcedSave_canon (t w : Nat) (h : m.Canon) : ∀ r, m.forcedSave t w = some r → r.Canon := by
  grind [Mach.forcedSave, doHalts_canon, saveWarp_canon, modWarp_canon]

/-! ### The events of queues and teams -/

theorem kernelLaunch_keeps {p q : Nat} : KeepsMemory s (execKernelLaunch p q s) := always_keeps fun _ hm => takeNext_canon _ _ _ hm

theorem doorbell_keeps {p q : Nat} : KeepsMemory s (execDoorbell p q s) := always_keeps fun _ hm => readProd_canon _ _ _ hm

theorem deviceQueueRead_keeps {p q : Nat} : KeepsMemory s (execDeviceQueueRead p q s) := always_keeps fun _ hm => readProd_canon _ _ _ hm

theorem packetComplete_keeps {p job : Nat} : KeepsMemory s (execPacketComplete p job s) :=
  always_keeps fun m hm => by
    split
    · exact hm
    · next j _ =>
      split
      · exact hm
      · refine ite_canon hm (ite_canon (gatherWork_canon _ _ hm) ?_)
        extract_lets m0 m1 m2
        have h0 : m0.Canon := by
          unfold m0
          split
          · exact ite_canon (writeImages_canon _ _ hm) hm
          · exact hm
        have h2 : m2.Canon := (announceJob_canon _ _ _ h0).of_home rfl
        split
        · exact h2
        · exact h2

theorem teamPlacement_keeps {p die core : Nat} : KeepsMemory s (execTeamPlacement p die core s) :=
  always_keeps fun m hm => by
    refine ite_canon hm ?_
    split
    · exact hm
    · split
      · exact hm
      · exact hm

theorem dispatch_keeps {p : Nat} : KeepsMemory s (execDispatch p s) :=
  always_keeps fun _ hm => arbitrate_canon _ _ (foldl_canon (fun _ _ hm => takeNext_canon _ _ _ hm) _ hm)

theorem teamStart_keeps {t : Nat} : KeepsMemory s (execTeamStart t s) :=
  always_keeps fun m hm => by
    split
    · exact hm
    · split
      · exact hm
      · exact ite_canon hm hm

theorem teamRestore_keeps {t die core : Nat} : KeepsMemory s (execTeamRestore t die core s) :=
  always_keeps fun m hm => by
    split
    · exact hm
    · refine ite_canon hm (ite_canon (foldl_canon (fun _ _ hm => by exact hm) _ hm) (ite_canon hm (ite_canon ?_ ?_)))
      · exact ite_canon (restoreAt_canon _ _ _ hm) hm
      · split
        · exact hm
        · exact ite_canon hm (ite_canon (ite_canon hm (getD_canon (restoreAll_canon _ hm) hm)) (ite_canon (restoreAt_canon _ _ _ hm) hm))

theorem handlerLaunch_keeps {ctx core : Nat} : KeepsMemory s (execHandlerLaunch ctx core s) :=
  always_keeps fun m hm => by
    split
    · exact hm
    · split
      · exact hm
      · extract_lets d
        refine ite_canon hm ?_
        split
        · exact stopBy_canon _ _ _ _ _ _ hm
        · exact ite_canon (stopBy_canon _ _ _ _ _ _ hm) (ite_canon hm
            ((applySeen_canon d _ (acquireDrops_canon _ _ _ hm)).of_home rfl))

theorem tresumeResume_keeps {t : Nat} {pzero : Bool} : KeepsMemory s (execTresumeResume t pzero s) :=
  always_keeps fun _ hm => handlerResume_canon _ _ _ hm

theorem tresumeResumeWithout_keeps {t : Nat} {pzero : Bool} : KeepsMemory s (execTresumeResumeWithout t pzero s) :=
  always_keeps fun _ hm => handlerResume_canon _ _ _ hm

theorem tresumeStop_keeps {t : Nat} {pzero : Bool} : KeepsMemory s (execTresumeStop t pzero s) :=
  always_keeps fun _ hm => handlerResume_canon _ _ _ hm

theorem forcedSave_keeps {t w : Nat} : KeepsMemory s (execForcedSave t w s) :=
  always_keeps fun _ hm => getD_canon (forcedSave_canon _ _ hm) hm

theorem timeSliceExpiry_keeps {t : Nat} : KeepsMemory s (execTimeSliceExpiry t s) :=
  always_keeps fun m hm => by
    split
    · exact hm
    · exact ite_canon hm (ite_canon (foldl_canon (fun _ _ hm => by exact hm) _ hm) hm)

theorem aging_keeps {t : Nat} {q : WarpSlice} : KeepsMemory s (execAging t q s) :=
  always_keeps fun m hm => by
    split
    · exact ite_canon hm hm
    · exact hm

end

end Sys2Proof.Machine

/-! PROOFS. Commands keep home memory canonical (01 R31, R32). -/

namespace Sys2Proof.Machine

section
variable {m : Mach} {s : State}

@[simp] theorem expired_canon (p ctx : Nat) : (m.expired p ctx).Canon ↔ m.Canon := Iff.rfl
@[simp] theorem freeContext_canon (ctx : Nat) : (m.freeContext ctx).Canon ↔ m.Canon := Iff.rfl
@[simp] theorem unhold_canon (p q : Nat) : (m.unhold p q).Canon ↔ m.Canon := Iff.rfl
@[simp] theorem runPlan_canon (p i ctx va : Nat) (gs : List (List (Nat × Nat))) : (m.runPlan p i ctx va gs).Canon ↔ m.Canon := Iff.rfl
@[simp] theorem refreshMarks_canon : m.refreshMarks.Canon ↔ m.Canon := Iff.rfl

theorem commandOp_keeps {code p i : Nat} {f : Mach → Job → Mach} (hf : ∀ m j, m.Canon → (f m j).Canon) :
    KeepsMemory s (commandOp code p i s f) :=
  always_keeps fun m hm => by
    split
    · exact ite_canon (hf _ _ hm) hm
    · exact hm

theorem block_canon (j : Job) (n al : Nat) (h : m.Canon) : ∀ r, m.block j n al = some r → r.2.Canon := by
  intro r hr
  unfold Mach.block at hr
  split at hr
  · cases hr
  · exact loadIn_canon _ _ _ h r hr

theorem finishWith_canon (p i : Nat) (j : Job) (n v : Nat) (h : m.Canon) : (m.finishWith p i j n v).Canon :=
  (finishJob_canon ..).mpr (storeIn_canon _ _ _ _ h)

/-! ### Preemption -/

theorem holdBack_canon (p ctx : Nat) (a : PreemptAsk) (h : m.Canon) : (m.holdBack p ctx a).2.Canon :=
  foldl_snd_canon (fun _ _ hm => by exact hm) _ h

theorem beginSaves_canon (p ctx : Nat) (a : PreemptAsk) (h : m.Canon) : (m.beginSaves p ctx a).Canon :=
  foldl_canon (fun _ _ hm => (modTeam_canon ..).mpr (ite_canon ((raisePreq_canon ..).mpr hm) hm)) _ h

theorem preemptSave_canon (p i : Nat) (j : Job) (a : PreemptAsk) {k : Mach → Nat → Nat → Mach} (hk : ∀ m x y, m.Canon → (k m x y).Canon)
    (h : m.Canon) : (m.preemptSave p i j a k).Canon := by
  unfold Mach.preemptSave
  extract_lets named saved held marks
  exact ite_canon (ite_canon h ((modJob_canon ..).mpr (beginSaves_canon _ _ _ (holdBack_canon _ _ _ h)))) (ite_canon (hk _ _ _ h) h)

theorem preemptOp_keeps {p i : Nat} {k : Mach → Job → PreemptAsk → Mach} (hk : ∀ m j a, m.Canon → (k m j a).Canon) :
    KeepsMemory s (preemptOp p i s k) := by
  refine commandOp_keeps fun m j hm => ?_
  split
  · exact hm
  · exact ite_canon hm (hk _ _ _ hm)

theorem preempt_keeps {p job : Nat} : KeepsMemory s (execPreempt p job s) := by
  refine preemptOp_keeps fun m j a hm => ?_
  refine ite_canon hm ?_
  split
  · exact hm
  · exact preemptSave_canon _ _ _ _ (fun _ _ _ hm => finishWith_canon _ _ _ _ _ hm) hm

theorem preemptResume_keeps {p job : Nat} : KeepsMemory s (execPreemptResume p job s) := by
  refine preemptOp_keeps fun m j a hm => ?_
  extract_lets named saved
  refine ite_canon hm (ite_canon ?_ (ite_canon (finishWith_canon _ _ _ _ _ hm) hm))
  split
  · exact hm
  · refine ite_canon hm ((modJob_canon ..).mpr (foldl_snd_canon (fun _ _ hm => by exact hm) _ ?_))
    exact foldl_canon (fun _ _ hm => by exact hm) _ hm

theorem moveContext_canon (p ctx own target : Nat) (h : m.Canon) : (m.moveContext p ctx own target).Canon :=
  (foldl_canon (fun _ _ hm => ite_canon (carry_canon _ _ hm) hm) _ h).of_home rfl

theorem preemptMove_keeps {p job : Nat} : KeepsMemory s (execPreemptMove p job s) := by
  refine preemptOp_keeps fun m j a hm => ?_
  extract_lets ctx undo admin
  have hundo : ∀ m, m.Canon → (undo m).Canon := fun m hm =>
    ite_canon hm (foldl_canon (fun _ _ hm => by exact hm) _ (foldl_canon (fun _ _ hm => by exact hm) _ hm))
  refine ite_canon hm (ite_canon hm (ite_canon hm (ite_canon ((finishJob_canon ..).mpr (hundo _ hm))
    (ite_canon ((finishJob_canon ..).mpr (hundo _ hm)) (preemptSave_canon _ _ _ _ (fun m _ _ hm => ?_) hm)))))
  exact ite_canon ((finishJob_canon ..).mpr (hundo _ hm)) (finishWith_canon _ _ _ _ _ (moveContext_canon _ _ _ _ hm))

/-! ### Contexts -/

theorem drainWarp_canon (n t w : Nat) (h : m.Canon) : (Mach.drainWarp n m t w).Canon := by
  induction n generalizing m with
  | zero => exact h
  | succ n ih =>
    have hs := settleOldest_canon t w h
    unfold Mach.drainWarp
    split
    · next he => rw [he] at hs; exact ih hs
    · next he => rw [he] at hs; exact hs

theorem drainContext_canon (ctx : Nat) (h : m.Canon) : (m.drainContext ctx).Canon :=
  foldl_canon (fun _ _ hm => ite_canon (foldl_canon (fun _ _ hm => drainWarp_canon _ _ _ hm) _ hm) hm) _ h

theorem closeJobs_canon (p ctx own : Nat) (h : m.Canon) : (m.closeJobs p ctx own).Canon := by
  unfold Mach.closeJobs
  split
  · exact h
  · refine foldl_canon (fun m q hm => ite_canon ?_ hm) _ h
    split
    · exact hm
    · exact (modJob_canon ..).mpr (announceJob_canon _ _ _ hm)
    · exact (modJob_canon ..).mpr (announceJob_canon _ _ _ hm)

theorem rewriteStops_canon (c : Context) (h : m.Canon) : (m.rewriteStops c).Canon := stopArea_canon _ _ _ _ _ h

theorem reportStop_canon (ctx : Nat) (h : m.Canon) : (m.reportStop ctx).Canon := by
  unfold Mach.reportStop
  split
  · exact ite_canon h (ite_canon (rewriteStops_canon _ (release_canon _ _ h)) ((release_canon _ _ h).of_home rfl))
  · exact h

theorem queueCreate_keeps {p job : Nat} : KeepsMemory s (execQueueCreate p job s) := by
  refine commandOp_keeps fun m j hm => ?_
  split
  · exact hm
  · next v m1 he =>
    extract_lets idx desc
    refine ite_canon hm ?_
    split
    · exact hm
    · next w m2 he2 =>
      exact ite_canon hm (ite_canon hm ((finishJob_canon ..).mpr (storeIn_canon _ _ _ _ (storeIn_canon _ _ _ _
        ((modPart_canon ..).mpr (fwLoad_canon _ _ _ (block_canon _ _ _ hm _ he) he2))))))

theorem contextCreate_keeps {p job id sysva pa : Nat} : KeepsMemory s (execContextCreate p job id sysva pa s) := by
  refine commandOp_keeps fun m j hm => ?_
  split
  · exact hm
  · next v m1 he =>
    split
    · exact hm
    · extract_lets base g b c
      have h1 : m1.Canon := block_canon _ _ _ hm _ he
      exact ite_canon hm (ite_canon hm (ite_canon hm (finishWith_canon _ _ _ _ _ (pastCaches_canon _ _ _ (h1.of_home rfl)))))

theorem contextDestroy_keeps {p job : Nat} : KeepsMemory s (execContextDestroy p job s) := by
  refine commandOp_keeps fun m j hm => ?_
  refine ite_canon hm (ite_canon hm (ite_canon (gatherWork_canon _ _ hm) ?_))
  extract_lets ctx m1 m2
  have h1 : m1.Canon := drainContext_canon _ (stopContext_canon _ _ _ _ ((modCtx_canon ..).mpr hm))
  have h2 : m2.Canon := closeJobs_canon _ _ _ (reportStop_canon _ h1)
  exact (freeContext_canon _).mpr ((modJob_canon ..).mpr (announceJob_canon _ _ _ h2))

/-! ### Ranges and quotas -/

theorem rangeMap_keeps {p job : Nat} : KeepsMemory s (execRangeMap p job s) := by
  refine commandOp_keeps fun m j hm => ?_
  split
  · next r m1 c he _ =>
    have h1 : m1.Canon := by
      obtain ⟨q, hq, he⟩ := Option.bind_eq_some_iff.mp he
      obtain ⟨r, -, he⟩ := Option.map_eq_some_iff.mp he
      cases he
      exact block_canon _ _ _ hm q hq
    refine ite_canon hm (ite_canon hm ?_)
    extract_lets put
    refine ite_canon ((finishJob_canon ..).mpr (foldl_canon (fun _ _ hm => setResidency_canon _ _ _ _ hm) _ ((setRanges_canon ..).mpr h1))) ?_
    split
    · next hc => exact (finishJob_canon ..).mpr ((setRanges_canon ..).mpr (charge_canon _ _ _ h1 hc))
    · exact hm
  · exact hm

theorem leave_canon (ctx : Nat) (r : RangeDesc) (h : m.Canon) : (m.leave ctx r).Canon := by
  unfold Mach.leave
  extract_lets gs n m1
  have h1 : m1.Canon := ite_canon h (credit_canon _ _ _ h)
  exact ite_canon (foldl_canon (fun _ _ hm => setResidency_canon _ _ _ _ hm) _ h1) h1

theorem rangeUnmap_keeps {p job : Nat} : KeepsMemory s (execRangeUnmap p job s) := by
  refine commandOp_keeps fun m j hm => ?_
  split
  · next v m1 c he _ =>
    have h1 : m1.Canon := block_canon _ _ _ hm _ he
    extract_lets g n hit rs cores
    refine ite_canon hm (ite_canon hm (ite_canon hm ?_))
    split
    · exact background_canon _ _ h1
    · exact ite_canon hm ((finishJob_canon ..).mpr (announce_canon _ _ (dropRanges_canon _ _ _
        ((setRanges_canon ..).mpr (foldl_canon (fun _ _ hm => leave_canon _ _ hm) _ h1)))))
  · exact hm

theorem quotaSet_keeps {p job : Nat} : KeepsMemory s (execQuotaSet p job s) := by
  refine commandOp_keeps fun m j hm => ?_
  split
  · next v m1 c he _ =>
    have h1 : m1.Canon := block_canon _ _ _ hm _ he
    refine ite_canon hm ?_
    split
    · exact (finishJob_canon ..).mpr (agentAtomic_canon _ _ _ _ h1)
    · exact hm
  · exact hm

/-! ### Signals and waits -/

theorem counterBlock_canon (j : Job) (a : Access) (h : m.Canon) : ∀ r, m.counterBlock j a = some r → r.2.2.2.Canon := by
  intro r hr
  obtain ⟨q, hq, hr⟩ := Option.bind_eq_some_iff.mp hr
  dsimp only at hr
  split at hr
  · cases hr
  · obtain ⟨k, -, rfl⟩ := Option.map_eq_some_iff.mp hr
    exact (block_canon _ _ _ h q hq : q.2.Canon)

theorem signal_keeps {p job : Nat} : KeepsMemory s (execSignal p job s) := by
  refine commandOp_keeps fun m j hm => ?_
  split
  · exact hm
  · next cnt k v m1 he =>
    have h1 : m1.Canon := counterBlock_canon _ _ hm _ he
    exact ite_canon hm (ite_canon (announce_canon _ _ h1) ((finishJob_canon ..).mpr (addCounter_canon _ _ _ h1)))

theorem wait_keeps {p job : Nat} : KeepsMemory s (execWait p job s) := by
  refine commandOp_keeps fun m j hm => ite_canon hm ?_
  split
  · exact hm
  · next cnt k v m1 he => exact ite_canon hm ((modJob_canon ..).mpr (counterBlock_canon _ _ hm _ he))

theorem waitRelease_keeps {p job : Nat} : KeepsMemory s (execWaitRelease p job s) := by
  refine commandOp_keeps fun m j hm => ite_canon hm ?_
  extract_lets d read
  have hread : ∀ r, read = some r → r.2.Canon := by
    intro r hr
    obtain ⟨k, -, hr⟩ := Option.bind_eq_some_iff.mp hr
    split at hr
    · obtain ⟨q, hq, rfl⟩ := Option.map_eq_some_iff.mp hr
      exact acquireDrops_canon _ _ _ (ldaRead_canon _ _ _ _ (unblock_canon _ hm) hq)
    · exact Option.some_inj.mp hr ▸ hm
  clear_value read
  split
  · exact hm
  · next v m1 =>
    have h1 : m1.Canon := hread _ rfl
    exact ite_canon hm (ite_canon (announce_canon _ _ hm) ((unhold_canon ..).mpr (announce_canon _ _ (finishWith_canon _ _ _ _ _ h1))))

/-! ### Records, pipes and plans -/

theorem namedRecord_canon (j : Job) (h : m.Canon) : ∀ r, m.namedRecord j = some r → r.2.Canon := by
  intro r hr
  obtain ⟨q, hq, hr⟩ := Option.bind_eq_some_iff.mp hr
  split at hr
  · cases hr
  · exact Option.some_inj.mp hr ▸ block_canon _ _ _ h q hq

theorem planLoad_keeps {p job : Nat} {nums : List Nat} : KeepsMemory s (execPlanLoad p job nums s) := by
  refine commandOp_keeps fun m j hm => ?_
  split
  · exact hm
  · next va m1 he =>
    have h1 : m1.Canon := namedRecord_canon _ hm _ he
    refine ite_canon hm ?_
    split
    · exact hm
    · exact ite_canon hm (ite_canon hm (ite_canon hm (finishWith_canon _ _ _ _ _ (h1.of_home rfl))))

theorem placeStage_canon (p i : Nat) (j : Job) (va idx : Nat) (st : Stage) (k : KDesc) (shapes : List Shape) (h : m.Canon) :
    (m.placeStage p i j va idx st k shapes).Canon := foldl_canon (fun _ _ hm => by exact hm) _ h

theorem planStart_keeps {p job : Nat} {cores : List (List (Nat × Nat))} : KeepsMemory s (execPlanStart p job cores s) :=
  always_keeps fun m hm => by
    split
    · exact hm
    · refine ite_canon hm ?_
      split
      · exact hm
      · refine ite_canon hm ?_
        split
        · exact hm
        · refine ite_canon hm (ite_canon hm ?_)
          extract_lets m1 m2 sts m3
          have h1 : m1.Canon := foldl_canon (fun _ _ hm => by exact hm) _ hm
          have h3 : m3.Canon := foldl_canon (fun _ _ hm => placeStage_canon _ _ _ _ _ _ _ _ hm) _ ((runPlan_canon ..).mpr h1)
          exact (refreshMarks_canon).mpr ((modJob_canon ..).mpr h3)

theorem copyPipe_canon (p : Pipe) (ck : Nat) (out : Bool) (h : m.Canon) : (m.copyPipe p ck out).Canon :=
  foldl_canon (fun _ _ hm => ite_canon (copySlot_canon _ _ _ _ _ hm) (copySlot_canon _ _ _ _ _ hm)) _ h

theorem endStop_canon (p : Nat) (x : Plan) (h : m.Canon) : (m.endStop p x).Canon := by
  unfold Mach.endStop
  extract_lets ps m1 m2
  have h1 : m1.Canon := foldl_canon (fun _ _ hm => copyPipe_canon _ _ _ (fwStore_canon _ _ _ _ hm)) _ (writeImages_canon _ _ h)
  have h2 : m2.Canon := (modPlan_canon ..).mpr h1
  split
  · exact h2
  · exact h2

theorem beginStop_canon (ctx va : Nat) (h : m.Canon) : (m.beginStop ctx va).Canon :=
  (modPlan_canon ..).mpr (foldl_canon (fun _ _ hm => (modTeam_canon ..).mpr (ite_canon ((raisePreq_canon ..).mpr hm) hm)) _ h)

theorem planStop_keeps {p job : Nat} : KeepsMemory s (execPlanStop p job s) := by
  refine commandOp_keeps fun m j hm => ite_canon ?_ ?_
  · split
    · exact hm
    · next va m1 he =>
      have h1 : m1.Canon := namedRecord_canon _ hm _ he
      split
      · exact hm
      · exact ite_canon hm (ite_canon hm ((modJob_canon ..).mpr (beginStop_canon _ _ h1)))
  · split
    · exact hm
    · exact ite_canon hm (ite_canon ((finishJob_canon ..).mpr (endStop_canon _ _ hm)) (beginStop_canon _ _ hm))

theorem bringBack_canon (x : Plan) (h : m.Canon) : (m.bringBack x).Canon :=
  foldl_canon (fun _ _ hm => copyPipe_canon _ _ _ hm) _ (foldl_canon (fun _ _ hm => by exact hm) _ h)

theorem planRestart_keeps {p job : Nat} {cores : List (List (Nat × Nat))} : KeepsMemory s (execPlanRestart p job cores s) := by
  refine commandOp_keeps fun m j hm => ite_canon hm ?_
  split
  · exact hm
  · next va m1 he =>
    have h1 : m1.Canon := namedRecord_canon _ hm _ he
    split
    · exact hm
    · refine ite_canon hm (ite_canon hm ?_)
      split
      · exact hm
      · refine ite_canon hm ((modJob_canon ..).mpr (foldl_canon (fun _ _ hm => by exact hm) _ ?_))
        exact (refreshMarks_canon).mpr ((runPlan_canon ..).mpr (bringBack_canon _ h1))

end

end Sys2Proof.Machine

/-! PROOFS. The events of plans, graphs, the package and the world outside keep home memory canonical (01 R31, R32). -/

namespace Sys2Proof.Machine

section
variable {m : Mach} {s : State}

@[simp] theorem modGraphJob_canon (j : Nat) (f : GraphJob → GraphJob) : (m.modGraphJob j f).Canon ↔ m.Canon := Iff.rfl
@[simp] theorem answer_canon (bs : List Byte) : (m.answer bs).Canon ↔ m.Canon := Iff.rfl

/-! ### The period ends of plans -/

theorem planEvent_canon (p : Nat) (x : Plan) (cyc : List Nat) (kind : Nat) (h : m.Canon) : (m.planEvent p x cyc kind).Canon :=
  (addCounter_canon _ _ _ (fwStore_canon _ _ _ _ h)).of_home rfl

theorem wring_canon (cyc : List Nat) (h : m.Canon) : ∀ r, m.wring cyc = some r → r.Canon := by
  intro r hr
  unfold Mach.wring at hr
  dsimp only at hr
  split at hr
  · cases hr
  · next p _ =>
    obtain ⟨j, -, hr⟩ := Option.bind_eq_some_iff.mp hr
    obtain ⟨sl, -, rfl⟩ := Option.map_eq_some_iff.mp hr
    have h1 := putBytes_canon p.home p.ctx (p.slotAddr j) p.slotSize 0
      (copySlot_canon p.home p.ctx (p.slotAddr j) (p.spillva + p.nextSpill * p.slotSize) p.slotSize h)
    exact ite_canon (returnSpill_canon _ _ ((setPipe_canon _).mpr h1)) ((setPipe_canon _).mpr h1)

theorem actOn_canon (p : Nat) (x : Plan) (w : Watch) (h : m.Canon) : (m.actOn p x w).2.Canon := by
  grind [Mach.actOn, → wring_canon, planEvent_canon, beginStop_canon]

theorem testCycle_canon (p : Nat) (x : Plan) (old : Option Watch) (cyc : List Nat) (h : m.Canon) : (m.testCycle p x old cyc).2.Canon := by
  cases old <;> grind [Mach.testCycle, actOn_canon]

theorem testCycles_canon (p : Nat) (x : Plan) (h : m.Canon) : (m.testCycles p x).Canon :=
  (modPlan_canon ..).mpr (foldl_snd_canon (fun _ _ hm => by exact testCycle_canon _ _ _ _ hm) _ h)

@[simp] theorem moveTeam_canon (t : Nat) : (m.moveTeam t).Canon ↔ m.Canon := Iff.rfl

theorem spreadOne_canon (x : Plan) (stage d : Nat) (h : m.Canon) : (m.spreadOne x stage d).Canon := by
  unfold Mach.spreadOne
  extract_lets ts load
  split
  · exact h
  · exact h

theorem moveCore_canon (x : Plan) (donor r : Nat) (u : Nat × Nat) (span : Bool) (h : m.Canon) : (m.moveCore x donor r u span).Canon :=
  foldl_canon (fun _ _ hm => spreadOne_canon _ _ _ hm) _ (foldl_canon (fun _ _ hm => ite_canon ((moveTeam_canon _).mpr hm) hm) _ ((modPlan_canon ..).mpr h))

theorem balance_canon (p ctx va : Nat) (h : m.Canon) : (m.balance p ctx va).Canon := by
  unfold Mach.balance
  split
  · exact h
  · split
    · exact h
    · refine ite_canon h (foldl_canon (fun m i hm => ?_) _ h)
      split
      · exact hm
      · split
        · exact moveCore_canon _ _ _ _ _ hm
        · exact hm

theorem balancerPeriod_keeps {ctx plan : Nat} : KeepsMemory s (execBalancerPeriod ctx plan s) :=
  always_keeps fun m hm => by
    split
    · exact ite_canon hm (ite_canon (ite_canon (endStop_canon _ _ hm) (beginStop_canon _ _ hm))
        (ite_canon hm (balance_canon _ _ _ (testCycles_canon _ _ ((modPlan_canon ..).mpr hm)))))
    · exact hm

/-! ### The nodes of graphs -/

theorem graphLoad_keeps {p job : Nat} : KeepsMemory s (execGraphLoad p job s) := by
  refine commandOp_keeps fun m j hm => ?_
  split
  · exact hm
  · next va m1 he =>
    have h1 : m1.Canon := namedRecord_canon _ hm _ he
    refine ite_canon hm ?_
    split
    · exact hm
    · next v m2 he2 =>
      have h2 : m2.Canon := fwLoad_canon _ _ _ h1 he2
      refine ite_canon hm ?_
      split
      · exact hm
      · exact h2

theorem graphLaunch_keeps {p job : Nat} : KeepsMemory s (execGraphLaunch p job s) :=
  always_keeps fun m hm => by
    split
    · exact hm
    · refine ite_canon hm ?_
      split
      · exact hm
      · exact hm

theorem graphEnqueueArrive_keeps {j node : Nat} : KeepsMemory s (execGraphEnqueueArrive j node s) :=
  always_keeps fun m hm => by
    split
    · exact ite_canon hm hm
    · exact hm

theorem walkerRelease_canon (j : Nat) (g : GraphJob) {k : Mach → Mach} (hk : ∀ m, m.Canon → (k m).Canon) (h : m.Canon) :
    (m.walkerRelease j g k).Canon := by
  unfold Mach.walkerRelease
  split
  · exact hk _ h
  · exact stopContext_canon _ _ _ _ ((modGraphJob_canon ..).mpr (announce_canon _ _ h))

theorem nodeDone_canon (j n : Nat) (x : Node) (ctx iters : Nat) (succ : List Nat) (h : m.Canon) :
    (m.nodeDone j n x ctx iters succ).Canon := (modGraphJob_canon ..).mpr (announce_canon _ _ h)

theorem workNode_keeps {kind j node : Nat} {start : Mach → GraphJob → Node → Mach} (hs : ∀ m g x, m.Canon → (start m g x).Canon) :
    KeepsMemory s (workNode kind j node s start) :=
  always_keeps fun m hm => by
    split
    · exact hm
    · refine ite_canon hm (ite_canon ?_ (ite_canon ((modGraphJob_canon ..).mpr (hs _ _ _ hm)) hm))
      split
      · split
        · exact walkerRelease_canon _ _ (fun _ hm => nodeDone_canon _ _ _ _ _ _ hm) hm
        · exact hm
      · exact hm

theorem quickNode_keeps {kind j node : Nat} {f : Mach → GraphJob → Graph → Node → NodeRun → Mach}
    (hf : ∀ m g y x r, m.Canon → (f m g y x r).Canon) : KeepsMemory s (quickNode kind j node s f) :=
  always_keeps fun m hm => by
    split
    · exact ite_canon (hf _ _ _ _ _ hm) hm
    · exact hm

theorem nodePacket_canon (g : GraphJob) (j n : Nat) (k : Packet) (ok : Bool) (h : m.Canon) : (m.nodePacket g j n k ok).Canon := by
  unfold Mach.nodePacket
  extract_lets i q m1
  have h1 : m1.Canon := (modPart_canon ..).mpr (takeAcquire_canon _ h)
  exact ite_canon (goJob_canon _ _ h1) h1

theorem kernelNode_keeps {j node : Nat} : KeepsMemory s (execKernelNode j node s) := by
  refine workNode_keeps fun m g x hm => ?_
  split
  · exact nodePacket_canon _ _ _ _ _ hm
  · next v m1 he => exact nodePacket_canon _ _ _ _ _ (fwLoad_canon _ _ _ hm he)

theorem planNode_keeps {j node : Nat} : KeepsMemory s (execPlanNode j node s) := workNode_keeps fun _ _ _ hm => nodePacket_canon _ _ _ _ _ hm

theorem signalNode_keeps {j node : Nat} : KeepsMemory s (execSignalNode j node s) := by
  refine quickNode_keeps fun m g y x r hm => ?_
  exact ite_canon hm (walkerRelease_canon _ _ (fun _ hm => nodeDone_canon _ _ _ _ _ _ (addCounter_canon _ _ _ hm)) hm)

theorem condWord_canon (g : GraphJob) (y : Graph) (x : Node) (h : m.Canon) : (m.condWord g y x).2.Canon := by
  unfold Mach.condWord
  extract_lets undefinedWord
  have hu : undefinedWord.2.Canon := h
  split
  · exact hu
  · exact h
  · next k _ =>
    cases he : (m.unblock k).ldaRead (m.lead g.ctx) k 4 .pkg with
    | none => exact hu
    | some q => exact ldaRead_canon _ _ _ _ (unblock_canon _ h) he

theorem conditionalNode_keeps {j node : Nat} : KeepsMemory s (execConditionalNode j node s) := by
  refine quickNode_keeps fun m g y x r hm => ?_
  exact walkerRelease_canon _ _ (fun _ hm => nodeDone_canon _ _ _ _ _ _ (condWord_canon _ _ _ hm)) hm

theorem whileNode_keeps {j node : Nat} : KeepsMemory s (execWhileNode j node s) := by
  refine quickNode_keeps fun m g y x r hm => ?_
  refine walkerRelease_canon _ _ (fun m hm => ?_) hm
  have hc := condWord_canon g y x hm
  exact ite_canon (nodeDone_canon _ _ _ _ _ _ hc) (nodeDone_canon _ _ _ _ _ _ hc)

/-! ### Domains and resets -/

/-- Bytes written one by one. -/
theorem outsideWrites_canon (pa : Nat) (bs : List Byte) (is : List Nat) (h : m.Canon) :
    (is.foldl (fun m i => m.outsideWrite (pa + i) 1 (bs.getD i 0).toNat) m).Canon := foldl_canon (fun _ _ hm => outsideWrite_canon _ _ _ hm) _ h

theorem resendAll_canon (h : m.Canon) : m.resendAll.Canon :=
  ite_canon h ((foldl_canon (fun _ _ hm => outsideWrites_canon _ _ _ hm) _ h).of_home rfl)

theorem requestResend_keeps : KeepsMemory s (execRequestResend s) :=
  always_keeps fun m hm => by
    split
    · exact hm
    · exact ite_canon hm ((outsideWrites_canon _ _ _ hm).of_home rfl)

theorem reform_canon (pmap : List Nat) (h : m.Canon) : (m.reform pmap).Canon := h

theorem domainSet_keeps {p job : Nat} : KeepsMemory s (execDomainSet p job s) := by
  refine commandOp_keeps fun m j hm => ?_
  split
  · exact hm
  · next v a m1 he =>
    have h1 : m1.Canon := by
      obtain ⟨q, hq, he⟩ := Option.bind_eq_some_iff.mp he
      obtain ⟨a, -, he⟩ := Option.map_eq_some_iff.mp he
      cases he
      exact block_canon _ _ _ hm q hq
    refine ite_canon hm (ite_canon hm (ite_canon (gatherWork_canon _ _ hm) ?_))
    extract_lets m2
    have h2 : m2.Canon := (modJob_canon ..).mpr (announceJob_canon _ _ _ h1)
    exact (reform_canon a.pmap (finishSwitch_canon a.img (endSwitch_canon h2))).of_home rfl

theorem apply_keeps {d : Fin 8} {x : Word} : KeepsMemory s (execApply d x s) :=
  always_keeps fun m hm => by
    refine ite_canon hm ?_
    split
    · exact finishSwitch_canon _ hm
    · exact ite_canon hm hm

theorem resetDie_canon (d : Nat) (h : m.Canon) : (m.resetDie d).Canon := by
  have h2 := (modDie_canon d fun x => { Die.reset with halted := x.halted, ecc := x.ecc }).mpr (flushHost_canon d (closeEpoch_canon d h))
  exact Mach.Canon.of_home (foldl_canon (fun _ _ hm => ite_canon hm ((applyAll_canon _).mpr hm)) _ h2) rfl

theorem dieReset_keeps {p job : Nat} : KeepsMemory s (execDieReset p job s) := by
  refine commandOp_keeps fun m j hm => ?_
  split
  · exact hm
  · next v m1 he =>
    exact ite_canon hm (ite_canon hm (ite_canon hm ((resetDie_canon _ (block_canon _ _ _ hm _ he)).of_home rfl)))

theorem attest_keeps {p job : Nat} : KeepsMemory s (execAttest p job s) := by
  refine commandOp_keeps fun m j hm => ?_
  split
  · exact hm
  · next v m1 he => exact ite_canon (finishWith_canon _ _ _ _ _ (block_canon _ _ _ hm _ he)) hm

theorem deviceReset_keeps {images : List BootImage} : KeepsMemory s (execDeviceReset images s) := always_keeps fun _ hm => hm

/-! ### Links and ports -/

theorem linkFail_keeps {l : LinkName} : KeepsMemory s (execLinkFail l s) :=
  always_keeps fun m hm => by
    extract_lets broken tell m on cut hit m1
    have htell : ∀ m, m.Canon → (tell m).Canon := fun _ hm => hm.of_home rfl
    have h1 : m1.Canon := foldl_canon (fun _ _ hm => stopBy_canon _ _ _ _ _ _ hm) _ (hm.of_home rfl)
    split
    · exact ite_canon hm (htell _ (hm.of_home rfl))
    · exact hm.of_home rfl
    · exact htell _ (foldl_canon (fun _ _ hm => by exact hm) _ h1)

theorem linkReconf_keeps {p job : Nat} : KeepsMemory s (execLinkReconf p job s) := by
  refine commandOp_keeps fun m j hm => ite_canon hm ?_
  split
  · exact hm
  · next v m1 he =>
    have h1 : m1.Canon := block_canon _ _ _ hm _ he
    exact ite_canon hm (ite_canon hm (ite_canon hm (ite_canon (finishWith_canon _ _ _ _ _ h1) ((modJob_canon ..).mpr (h1.of_home rfl)))))

theorem drainMarkerAck_keeps {port : Fin 32} : KeepsMemory s (execDrainMarkerAck port s) := always_keeps fun _ hm => ite_canon (hm.of_home rfl) hm

theorem releaseHeld_canon (h : m.Canon) : m.releaseHeld.Canon := by
  refine Mach.Canon.of_home (foldl_canon (fun m r hm => ite_canon ?_ ((modDie_canon ..).mpr hm)) _ h) rfl
  exact foldl_canon (fun _ _ hm => homeWrite_canon _ _ _ hm) _ hm

theorem endReconf_canon (p i : Nat) (h : m.Canon) : (m.endReconf p i).Canon := by
  refine ite_canon h ?_
  split
  · exact ite_canon (finishWith_canon _ _ _ _ _ h) h
  · exact h

theorem portRelock_keeps {port : Fin 32} {peer lambda : Nat} {ok : Bool} : KeepsMemory s (execPortRelock port peer lambda ok s) :=
  always_keeps fun m hm => by
    extract_lets q
    split
    · refine ite_canon hm (endReconf_canon _ _ (releaseHeld_canon (ite_canon ?_ ?_)))
      · exact hm.of_home rfl
      · exact (modJob_canon ..).mpr (hm.of_home rfl)
    · exact hm

theorem portLock_keeps {port : Fin 32} {peer lambda : Nat} : KeepsMemory s (execPortLock port peer lambda s) :=
  always_keeps fun _ hm => ite_canon hm (ite_canon (hm.of_home rfl) (ite_canon (hm.of_home rfl) hm))

theorem hostLeasePass_keeps : KeepsMemory s (execHostLeasePass s) :=
  always_keeps fun m hm => by
    refine ite_canon ?_ hm
    split
    · exact hm
    · exact hm

theorem lambdaRenew_keeps {port : Fin 32} {lambda : Nat} : KeepsMemory s (execLambdaRenew port lambda s) :=
  always_keeps fun _ hm => ite_canon (hm.of_home rfl) hm

/-! ### Accesses from outside -/

theorem fromOutside_canon (k : Nat) (bs : List Byte) (h : m.Canon) : (m.fromOutside k bs).Canon :=
  ite_canon (homeWrite_canon _ _ _ h) (ite_canon h (outsideWrite_canon _ _ _ h))

theorem outsideTurn_canon (k n : Nat) (h : m.Canon) : (m.outsideTurn k n).Canon := resendAll_canon (ite_canon (endSwitch_canon h) h)

theorem atomicOutside_canon (k n : Nat) (o : AtomOp) (y c : Nat) (h : m.Canon) : (m.atomicOutside k n o y c).Canon := by
  unfold Mach.atomicOutside
  extract_lets m1 old v m2
  have h1 : m1.Canon := outsideTurn_canon _ _ h
  have h2 : m2.Canon := ite_canon (homeWrite_canon _ _ _ h1) (outsideWrite_canon _ _ _ h1)
  exact h2

theorem readOutside_canon (k n : Nat) (h : m.Canon) : (m.readOutside k n).Canon := (outsideTurn_canon k n h).of_home rfl

theorem hostWrite_keeps {pa : Nat} {bs : List Byte} : KeepsMemory s (execHostWrite pa bs s) :=
  always_keeps fun m hm => by
    split
    · exact fromOutside_canon _ _ hm
    · exact hm

theorem hostRead_keeps {a : HostAddr} {n : Nat} : KeepsMemory s (execHostRead a n s) :=
  always_keeps fun m hm => by
    split
    · split
      · exact readOutside_canon _ _ hm
      · exact hm
    · split
      · exact hm
      · exact hm

theorem hostAtomicop_keeps {pa : Nat} {x : Bool} {o : AtomOp} {y c : Nat} : KeepsMemory s (execHostAtomicop pa x o y c s) :=
  always_keeps fun m hm => by
    extract_lets n
    split
    · exact ite_canon (atomicOutside_canon _ _ _ _ _ hm) hm
    · exact hm

theorem peerWrite_keeps {pa : Nat} {bs : List (Option Byte)} : KeepsMemory s (execPeerWrite pa bs s) :=
  always_keeps fun m hm => by
    split
    · exact ite_canon (foldl_canon (fun _ _ hm => fromOutside_canon _ _ hm) _ hm) hm
    · exact hm

theorem peerRead_keeps {pa n : Nat} : KeepsMemory s (execPeerRead pa n s) :=
  always_keeps fun m hm => by
    split
    · exact ite_canon (readOutside_canon _ _ hm) hm
    · exact hm

theorem peerAtomic_keeps {pa : Nat} {x : Bool} {o : AtomOp} {y c : Nat} : KeepsMemory s (execPeerAtomic pa x o y c s) :=
  always_keeps fun m hm => by
    extract_lets n
    split
    · exact ite_canon (atomicOutside_canon _ _ _ _ _ hm) hm
    · exact hm

theorem ethernetRx_keeps {port : Fin 32} {bs : List Byte} {fcs : Nat} : KeepsMemory s (execEthernetRx port bs fcs s) :=
  always_keeps fun m hm => by
    split
    · exact ite_canon hm (writeIn_canon _ _ _ _ (writeIn_canon _ _ _ _ hm))
    · exact hm

theorem ethernetTx_keeps {port : Fin 32} : KeepsMemory s (execEthernetTx port s) :=
  always_keeps fun m hm => by
    split
    · exact ite_canon hm ((writeIn_canon _ _ _ _ hm).of_home rfl)
    · exact hm

/-! ### Epochs, accesses, stops and measures -/

theorem epochTimeout_keeps {die : Nat} : KeepsMemory s (execEpochTimeout die s) :=
  always_keeps fun m hm => by
    split
    · exact ite_canon (closeEpoch_canon _ hm) hm
    · exact hm

theorem dirtyTableFull_keeps {die : Nat} : KeepsMemory s (execDirtyTableFull die s) :=
  always_keeps fun _ hm => ite_canon (closeEpoch_canon _ hm) hm

theorem accessReturn_keeps {t w : Nat} : KeepsMemory s (execAccessReturn t w s) :=
  always_keeps fun m hm => by
    have hs := settleOldest_canon t w hm
    split
    · exact hm
    · next he => rw [he] at hs; exact hs

theorem lateFault_keeps {t w : Nat} : KeepsMemory s (execLateFault t w s) :=
  always_keeps fun m hm => by
    have hs := settleOldest_canon t w hm
    split
    · next he => rw [he] at hs; exact hs
    · exact hm

theorem contextStop_keeps {ctx cause : Nat} : KeepsMemory s (execContextStop ctx cause s) :=
  always_keeps fun _ hm => ite_canon hm (ite_canon (stopContext_canon _ _ _ _ hm) hm)

theorem stopReport_keeps {ctx : Nat} : KeepsMemory s (execStopReport ctx s) := always_keeps fun _ hm => reportStop_canon _ hm

theorem debuggerResume_keeps {ctx : Nat} : KeepsMemory s (execDebuggerResume ctx s) :=
  always_keeps fun _ hm => (modCtx_canon ..).mpr (doHalts_canon hm)

theorem uncorrectableStateError_keeps {ctx : Nat} : KeepsMemory s (execUncorrectableStateError ctx s) :=
  always_keeps fun _ hm => stopContext_canon _ _ _ _ hm

theorem thermalThrottle_keeps {x : IslandSpeed} {temp : Nat} : KeepsMemory s (execThermalThrottle x temp s) :=
  always_keeps fun _ hm => ite_canon hm hm

theorem powerLimit_keeps {x : IslandSpeed} : KeepsMemory s (execPowerLimit x s) := always_keeps fun _ hm => ite_canon hm hm

theorem thermalShutdown_keeps {die temp : Nat} : KeepsMemory s (execThermalShutdown die temp s) :=
  always_keeps fun m hm => by
    refine ite_canon hm ?_
    extract_lets m0
    have h0 : m0.Canon := hm
    exact ite_canon h0 ((foldl_canon (fun _ _ hm => stopContext_canon _ _ _ _ hm) _ h0).of_home rfl)

end

end Sys2Proof.Machine

/-! PROOFS. Every instruction and event, and so every step, changes nothing that was fused and keeps home memory canonical
(01 R31, R32; O56). -/

namespace Sys2Proof.Machine

section
variable {s : State}

/-! ### The shapes of register instructions -/

theorem int2_keeps {i : Instr} {d : Dst} {a b : Src} {op : Word → Word → Word} : KeepsMemory s (int2 i d a b op s) := lanesOp_keeps

theorem intI_keeps {i : Instr} {d : Dst} {a : Src} {k : Fin 128} {op : Word → Word → Word} : KeepsMemory s (intI i d a k op s) :=
  lanesOp_keeps

theorem int1_keeps {i : Instr} {d : Dst} {a : Src} {op : Word → Word} : KeepsMemory s (int1 i d a op s) := lanesOp_keeps

theorem float2_keeps {i : Instr} {d : Dst} {a b : Src} {op : Nat → Nat → Nat × Exc} : KeepsMemory s (float2 i d a b op s) := floatOp_keeps

theorem float1_keeps {i : Instr} {d : Dst} {a : Src} {op : Nat → Nat × Exc} : KeepsMemory s (float1 i d a op s) := floatOp_keeps

theorem scal2_keeps {i : Instr} {d : SDst} {a b : Src} {op : Word → Word → Word} : KeepsMemory s (scal2 i d a b op s) := scalarOp_keeps

theorem scalI_keeps {i : Instr} {d : SDst} {a : Src} {k : Fin 128} {op : Word → Word → Word} : KeepsMemory s (scalI i d a k op s) :=
  scalarOp_keeps

/-! ### The remaining register, control and system instructions -/

theorem vfcmp_keeps {c : FCond} {a b : Src} : KeepsMemory s (execVfcmp c a b s) := issue_keeps fun _ _ hm => unlessFloat_canon _ _ _ hm hm

theorem vqnt_keeps {d : Dst} {a : Src} {k : Fin 128} : KeepsMemory s (execVqnt d a k s) :=
  issueOperand_keeps fun _ _ hm => unlessFloat_canon _ _ _ hm hm

theorem vdqnt_keeps {d : Dst} {a : Src} {k : Fin 128} : KeepsMemory s (execVdqnt d a k s) := issueOperand_keeps fun _ _ hm => hm

theorem vvote_keeps {d : Dst} {a b : Src} {u : Fin 4} : KeepsMemory s (execVvote d a b u s) := issueCross_keeps fun _ _ hm => hm

theorem vmovs_keeps {d : SDst} {a b : Src} : KeepsMemory s (execVmovs d a b s) := issueCross_keeps fun _ _ hm => hm

theorem bra_keeps {o : BitVec 16} : KeepsMemory s (execBra o s) := issue_keeps fun _ _ hm => ite_canon (illegal_canon _ _ _ hm) hm

theorem loop_keeps {o : BitVec 16} {x : Fin 32} {l : Fin 3} : KeepsMemory s (execLoop o x l s) := issue_keeps fun _ _ hm => ite_canon hm hm

theorem lbrk_keeps {x : Fin 32} : KeepsMemory s (execLbrk x s) := issue_keeps fun _ _ hm => ite_canon (badOperand_canon _ _ hm) hm

theorem exit_keeps : KeepsMemory s (execExit s) :=
  issue_keeps fun _ _ hm => ite_canon (trap_canon _ _ _ hm) (ite_canon (teamEnd_canon _ (hm.of_home rfl)) (stall_canon _ hm))

theorem yield_keeps : KeepsMemory s (execYield s) :=
  issue_keeps fun m g hm => by
    extract_lets m1 m2 all
    have h1 : m1.Canon := (retire_canon ..).mpr hm
    have h2 : m2.Canon := (modWarp_canon ..).mpr h1
    exact ite_canon h1 (ite_canon (saveWarp_canon _ _ h1) (ite_canon (saveWarp_canon _ _ h2) h2))

theorem meld_keeps {four : Bool} {a b : Src} : KeepsMemory s (execMeld four a b s) :=
  issue_keeps fun _ _ hm => ite_canon (illegal_canon _ _ _ hm) hm

theorem melde_keeps : KeepsMemory s (execMelde s) :=
  issue_keeps fun _ _ hm => by
    split
    · exact illegal_canon _ _ _ hm
    · exact hm

theorem mtw_keeps {d : Fin 64} {k : Fin 128} : KeepsMemory s (execMtw d k s) := issue_keeps fun _ _ hm => ite_canon (badOperand_canon _ _ hm) hm

theorem trapInstr_keeps {a : Src} : KeepsMemory s (execTrap a s) := issue_keeps fun _ _ hm => takeEvent_canon _ _ _ _ _ _ _ _ _ hm

theorem bkpt_keeps : KeepsMemory s (execBkpt s) :=
  issue_keeps fun _ _ hm => ite_canon (stopBy_canon _ _ _ _ _ _ ((retire_canon ..).mpr hm)) (takeEvent_canon _ _ _ _ _ _ _ _ _ hm)

theorem limm_keeps {p : BitVec 25} : KeepsMemory s (execLimm p s) := issue_keeps fun _ _ hm => ite_canon (illegal_canon _ _ _ hm) hm

theorem illegalInstruction_keeps {c : Illegal} {w : Nat} : KeepsMemory s (execIllegalInstruction c w s) :=
  withIssuer_next_keeps fun _ _ hm => illegal_canon _ _ _ hm

theorem registerWrite_keeps {offset value : Nat} : KeepsMemory s (execRegisterWrite offset value s) :=
  always_keeps fun _ hm => by
    split
    · exact ite_canon hm hm
    · exact hm

/-! ### Every instruction and event -/

theorem exec_keeps (i : Instr) : KeepsMemory s (exec i s) := by
  unfold exec
  cases i
  all_goals dsimp only
  case vadd | vsub | vmul | vmulh | vmulhU | vand | vor | vxor | vshl | vsrl | vsra | vmin | vminU | vmax | vmaxU | vsat
    | vpackI16 | vaddShort | vsubShort | vandShort | vorShort | vxorShort | vshlShort | vsrlShort | vsraShort | vminShort
    | vmaxShort => exact int2_keeps
  case vaddImm | vmulImm | vandImm | vorImm | vxorImm | vshlImm | vsrlImm | vsraImm | vminImm | vminUImm | vmaxImm | vmaxUImm
    | vsatImm => exact intI_keeps
  case vmad | vsel | vmovk => exact lanesOp_keeps
  case vabs | vclz | vpopc | vbrev | vmov | vmovShort | vaddi | vneg => exact int1_keeps
  case vcmp | vcmpImm | scmp | scmpImm => exact cmpOp_keeps
  case vfadd | vfsub | vfmul | vfmin | vfmax | vpackH2 | vpackB2 | vfaddShort | vfsubShort | vfmulShort => exact float2_keeps
  case vfabs | vfneg | vfrcp | vfrsq | vfexp2 | vflog2 | vfsin | vfcos | vftanh | vcvtI32F32 | vcvtF16F32 | vcvtBf16F32 => exact float1_keeps
  case vfcmp => exact vfcmp_keeps
  case vfmaF32 | vfmaH2 | vfmaB2 | vcvtF32I32 | vcvtF32F16 | vcvtF32Bf16 | vunpk | vred | vscan => exact floatOp_keeps
  case vqnt => exact vqnt_keeps
  case vdqnt => exact vdqnt_keeps
  case vmovs => exact vmovs_keeps
  case vvote => exact vvote_keeps
  case vshfl | vshflImm | vbcast | vbcastImm => exact shuffle_keeps
  case setpart | setpartImm => exact setPart_keeps
  case sadd | ssub | smul | smulh | smulhU | sand | sor | sxor | sshl | ssrl | ssra | smin | sminU | smax | smaxU => exact scal2_keeps
  case saddImm | smulImm | sandImm | sorImm | sxorImm | sshlImm | ssrlImm | ssraImm => exact scalI_keeps
  case sdiv | sdivU | srem | sremU => exact scalDiv_keeps
  case ssel | smov | sli | msave | mpop | mfirst => exact scalarOp_keeps
  case saddD | saddDImm | call | regangW | regangN | nop | mset | mtr | sysr => exact issue_keeps fun _ _ hm => hm
  case bra => exact bra_keeps
  case brc | brcN | switch => exact issue_keeps fun _ _ hm => branch_canon _ _ _ hm
  case jmp | ret => exact issue_keeps fun _ _ hm => jumpTo_canon _ _ _ _ hm
  case loop => exact loop_keeps
  case lbrk => exact lbrk_keeps
  case exit => exact exit_keeps
  case yield => exact yield_keeps
  case mrest | mand | mor | mandn | mxor => exact maskOp_keeps
  case meld => exact meld_keeps
  case melde => exact melde_keeps
  case mtw => exact mtw_keeps
  case kset | ksetImm => exact setConst_keeps
  case ld | ldSigned | spld | spldSigned => exact loadOp_keeps
  case st | spst => exact storeOp_keeps
  case lds | sts => exact scalarAccess_keeps
  case tld | tst => exact tensorOp_keeps
  case pref => exact pref_keeps
  case shpld => exact shpld_keeps
  case shpinv => exact shpinv_keeps
  case atomDie | atomPkg | atomSys | atoms => exact atomOp_keeps
  case fence => exact fence_keeps
  case rel => exact rel_keeps
  case acq => exact acq_keeps
  case lda32 | lda64 => exact ldaOp_keeps
  case stl32 | stl64 => exact stlOp_keeps
  case waitp => exact waitp_keeps
  case cntr => exact cntr_keeps
  case bar | bara => exact barOp_keeps
  case barw => exact barw_keeps
  case dbar | gbar => exact gridBar_keeps
  case cwait => exact cwait_keeps
  case csig => exact csig_keeps
  case mma | mmas => exact mmaOp_keeps
  case mzero => exact mzero_keeps
  case mcvtH2 | mcvtB2 | mcvtF32 | mcvtI32 => exact convertRun_keeps
  case msclB => exact msclB_keeps
  case msclP => exact msclP_keeps
  case ersetBind => exact ersetBind_keeps
  case ersetFree => exact ersetFree_keeps
  case ersetPush => exact ersetPush_keeps
  case ersetPop => exact ersetPop_keeps
  case ersetWaitf => exact ersetWaitf_keeps
  case ersetWaite => exact ersetWaite_keeps
  case ecopy | egath | escat | ered | ebcast => exact postOp_keeps
  case prsv => exact prsv_keeps
  case pcmt => exact pcmt_keeps
  case pacq => exact pacq_keeps
  case prel => exact prel_keeps
  case ptryR => exact ptryR_keeps
  case ptryA => exact ptryA_keeps
  case pstat => exact pstat_keeps
  case pmsg => exact pmsg_keeps
  case precv => exact precv_keeps
  case klaunch | glaunch => exact launchOp_keeps
  case gcond => exact gcond_keeps
  case rsplit | rmerge => exact rangeOp_keeps
  case rprot => exact rprot_keeps
  case rinval => exact rinval_keeps
  case rprobe => exact rprobe_keeps
  case rres => exact rres_keeps
  case rpress => exact rpress_keeps
  case cwb => exact cwb_keeps
  case cinv => exact cinv_keeps
  case trap => exact trapInstr_keeps
  case bkpt => exact bkpt_keeps
  case sysw | syswImm => exact sysWrite_keeps
  case ilbf => exact issueLast_keeps fun _ _ hm => hm
  case limm => exact limm_keeps
  case illegalInstruction => exact illegalInstruction_keeps
  case waiterRelease => exact waiterRelease_keeps
  case mmaWriteback | matrixUnitRestore | debuggerHalt | flitReplay | eccCorrected | registerPoison | sectorLoss | debuggerAttach => exact always_keeps fun _ hm => hm
  case scaleLineFill => exact scaleLineFill_keeps
  case engineFire => exact engineFire_keeps
  case engineComplete => exact engineComplete_keeps
  case engineFault => exact always_keeps fun _ hm => takeEngFault_canon _ _ hm
  case pressLineMove => exact pressLineMove_keeps
  case pressSwitch => exact pressSwitch_keeps
  case handlerLaunch => exact handlerLaunch_keeps
  case tresumeResume => exact tresumeResume_keeps
  case tresumeResumeWithout => exact tresumeResumeWithout_keeps
  case tresumeStop => exact tresumeStop_keeps
  case apply => exact apply_keeps
  case requestResend => exact requestResend_keeps
  case registerWrite => exact registerWrite_keeps
  case doorbell => exact doorbell_keeps
  case deviceQueueRead => exact deviceQueueRead_keeps
  case dispatch => exact dispatch_keeps
  case teamPlacement => exact teamPlacement_keeps
  case teamStart => exact teamStart_keeps
  case teamRestore => exact teamRestore_keeps
  case packetComplete => exact packetComplete_keeps
  case kernelLaunch => exact kernelLaunch_keeps
  case planStart => exact planStart_keeps
  case graphLaunch => exact graphLaunch_keeps
  case queueCreate => exact queueCreate_keeps
  case contextCreate => exact contextCreate_keeps
  case contextDestroy => exact contextDestroy_keeps
  case rangeMap => exact rangeMap_keeps
  case rangeUnmap => exact rangeUnmap_keeps
  case quotaSet => exact quotaSet_keeps
  case planLoad => exact planLoad_keeps
  case planStop => exact planStop_keeps
  case planRestart => exact planRestart_keeps
  case graphLoad => exact graphLoad_keeps
  case signal => exact signal_keeps
  case wait => exact wait_keeps
  case waitRelease => exact waitRelease_keeps
  case preempt => exact preempt_keeps
  case preemptResume => exact preemptResume_keeps
  case preemptMove => exact preemptMove_keeps
  case linkReconf => exact linkReconf_keeps
  case drainMarkerAck => exact drainMarkerAck_keeps
  case portRelock => exact portRelock_keeps
  case dieReset => exact dieReset_keeps
  case attest => exact attest_keeps
  case domainSet => exact domainSet_keeps
  case epochTimeout => exact epochTimeout_keeps
  case dirtyTableFull => exact dirtyTableFull_keeps
  case accessReturn => exact accessReturn_keeps
  case lateFault => exact lateFault_keeps
  case forcedSave => exact forcedSave_keeps
  case timeSliceExpiry => exact timeSliceExpiry_keeps
  case aging => exact aging_keeps
  case balancerPeriod => exact balancerPeriod_keeps
  case kernelNode => exact kernelNode_keeps
  case planNode => exact planNode_keeps
  case signalNode => exact signalNode_keeps
  case conditionalNode => exact conditionalNode_keeps
  case whileNode => exact whileNode_keeps
  case graphEnqueueArrive => exact graphEnqueueArrive_keeps
  case contextStop => exact contextStop_keeps
  case stopReport => exact stopReport_keeps
  case debuggerResume => exact debuggerResume_keeps
  case hostWrite => exact hostWrite_keeps
  case hostRead => exact hostRead_keeps
  case hostAtomicop => exact hostAtomicop_keeps
  case peerWrite => exact peerWrite_keeps
  case peerRead => exact peerRead_keeps
  case peerAtomic => exact peerAtomic_keeps
  case ethernetRx => exact ethernetRx_keeps
  case ethernetTx => exact ethernetTx_keeps
  case lambdaRenew => exact lambdaRenew_keeps
  case linkFail => exact linkFail_keeps
  case hostLeasePass => exact hostLeasePass_keeps
  case uncorrectableStateError => exact uncorrectableStateError_keeps
  case thermalThrottle => exact thermalThrottle_keeps
  case thermalShutdown => exact thermalShutdown_keeps
  case powerLimit => exact powerLimit_keeps
  case deviceReset => exact deviceReset_keeps
  case matrixUnitRetention => exact matrixUnitRetention_keeps
  case portLock => exact portLock_keeps
  case remotePipeRequest => exact remotePipeRequest_keeps

/-! ### The step -/

variable {m : Mach}

theorem turnFrom_canon (n : Nat) (h : m.Canon) : (m.turnFrom n).Canon := by
  unfold Mach.turnFrom
  split
  · exact h
  · split
    · exact h
    · exact h

theorem beforeIssue_canon (g : Issue) (h : m.Canon) : ∀ r, m.beforeIssue g = some r → r.Canon := by
  grind [Mach.beforeIssue, settleOldest_canon, takeEngFault_canon, → forcedSave_canon]

theorem afterIssue_canon (g : Issue) (second : Bool) (h : m.Canon) : (m.afterIssue g second).Canon := by
  unfold Mach.afterIssue
  extract_lets m1
  have h1 : m1.Canon := (noteIssue_canon g).mpr h
  clear_value m1
  split
  · exact h1
  · exact turnFrom_canon _ (doHalts_canon (backToLimm_canon _ h1))
  · exact turnFrom_canon _ (doHalts_canon h1)

/-- What follows a machine with the same fused form that is canonical if the first is. -/
theorem KeepsMemory.of_mach {m : Mach} {o : Host.Outcome State Fault Refusal} (h : KeepsMemory { s with m := m } o)
    (hm : s.m.Canon → m.Canon) : KeepsMemory s o := fun t ht => ⟨(h t ht).1, fun hs => (h t ht).2 (hm hs)⟩

theorem fetched_keeps (g : Issue) {f : Fetch × Mach} (hf : s.m.Canon → f.2.Canon) : KeepsMemory s (fetched s g f) := by
  unfold fetched
  split
  · exact keeps_next hf
  · exact keeps_next fun hs => fetchFault_canon _ _ _ _ (hf hs)
  · split
    · exact (exec_keeps _).of_mach hf
    · exact (exec_keeps _).of_mach hf

theorem issueStep_keeps (g : Issue) : KeepsMemory s (issueStep s g) := fetched_keeps g fun hs => fetch_canon _ _ _ _ _ _ _ hs

theorem issueTurn_keeps : KeepsMemory s (issueTurn s) := by
  unfold issueTurn
  split
  · exact keeps_next doHalts_canon
  · next g _ =>
    split
    · next m he => exact keeps_next fun hs => afterIssue_canon _ _ (beforeIssue_canon g hs m he)
    · split
      · next t he =>
        obtain ⟨hf, hm⟩ := issueStep_keeps g t he
        intro u hu
        cases hu
        exact ⟨hf, fun hs => afterIssue_canon _ _ (hm hs)⟩
      · next hn => exact fun t ht => absurd ht (hn t)

theorem tick_keeps (n : Nat) (h : s.m.Canon → m.Canon) : KeepsMemory s (.next (State.tick { s with m := m } n)) := keeps_next h

theorem takeInput_keeps (x : Input) : KeepsMemory s (takeInput s x) := by
  cases x with
  | row i =>
    unfold takeInput
    dsimp only
    split
    · exact exec_keeps i
    · exact keeps_next id
  | turn t => exact always_keeps fun _ hm => ite_canon hm hm
  | tick n => exact tick_keeps n fun hs => endSwitch_canon (doHalts_canon hs)
  | evictL2 d l => exact always_keeps fun _ hm => replaceLine_canon _ _ hm
  | evictL1 d c l => exact always_keeps fun _ hm => hm
  | evictInstr d c l => exact always_keeps fun _ hm => hm
  | evictRange d c k => exact always_keeps fun _ hm => hm
  | evictScale d c k => exact always_keeps fun _ hm => hm
  | evictLlc l => exact always_keeps fun _ hm => hm
  | evictLoop d c q => exact always_keeps fun _ hm => hm

theorem step_keeps : KeepsMemory s (step s) := by
  unfold step
  split
  · exact keeps_next id
  · split
    · exact issueTurn_keeps
    · split
      · exact (takeInput_keeps _).of_mach id
      · exact issueTurn_keeps.of_mach fun hs => turnFrom_canon _ hs

end

/-- Settles O56: `step_keeps`, for which every instruction and event keeps the fused form and, through its writes at the home alone,
canonical memory. -/
theorem fuseKept : Obligations.FuseKept := fun _ t ht => step_keeps t ht

end Sys2Proof.Machine
